-- ==== Sys2Proof/Word.lean ====
section
/-! DEFINITION. The word types of the Zildun Z6 (00 R10, R12; 01 R16) and the type of a sparse map. -/

namespace Sys2Proof

/-- One byte of memory (R10: multi-byte values are little-endian). -/
abbrev Byte := BitVec 8

/-- The width of a g register (02 R61). -/
abbrev Word := BitVec 32

/-- A register pair, a k register or a system register (02 R60, R61). -/
abbrev Word64 := BitVec 64

/-- A buffer record (04 R95). -/
abbrev Rec256 := BitVec 256

/-- A sparse map: keys strictly rising, no entry equal to the map's unlisted value.
Memory, register files and the like are held in this one form. -/
abbrev SMap (α : Type) := List (Nat × α)

end Sys2Proof
end

