-- ==== Sys2Proof/Syntax.lean ====
section
/-! DEFINITION. The instructions of the Zildun Z6 as syntax (02 R53-R60; 03 R72-R75) and the events of its other
agents, one constructor for each row of the opcode table. -/

namespace Sys2Proof

/-- 1 for true. -/
def bit (b : Bool) : Nat := if b then 1 else 0

/-- A type code (01 R18). -/
inductive Ty
  | n8 | s8 | n16 | s16 | n32 | s32 | n64 | s64 | f16 | bf16 | f32 | f64 | e4m3 | e5m2 | e2m1
  deriving DecidableEq, Repr

namespace Ty

/-- The 4-bit code of a type (R18). -/
def code : Ty → Nat
  | n8 => 0 | s8 => 1 | n16 => 2 | s16 => 3 | n32 => 4 | s32 => 5 | n64 => 6 | s64 => 7
  | f16 => 8 | bf16 => 9 | f32 => 10 | f64 => 11 | e4m3 => 12 | e5m2 => 13 | e2m1 => 14

/-- The type a 4-bit code names; 0xF is reserved (R18). -/
def ofCode : Nat → Option Ty
  | 0 => some n8 | 1 => some s8 | 2 => some n16 | 3 => some s16 | 4 => some n32 | 5 => some s32
  | 6 => some n64 | 7 => some s64 | 8 => some f16 | 9 => some bf16 | 10 => some f32 | 11 => some f64
  | 12 => some e4m3 | 13 => some e5m2 | 14 => some e2m1 | _ => none

/-- Every type (R18). -/
def all : List Ty :=
  [n8, s8, n16, s16, n32, s32, n64, s64, f16, bf16, f32, f64, e4m3, e5m2, e2m1]

/-- The width of a type in bits (R16, R21). -/
def bits : Ty → Nat
  | n8 | s8 | e4m3 | e5m2 => 8
  | n16 | s16 | f16 | bf16 => 16
  | n32 | s32 | f32 => 32
  | n64 | s64 | f64 => 64
  | e2m1 => 4

/-- A floating format (R21). -/
def isFloat : Ty → Bool
  | f16 | bf16 | f32 | f64 | e4m3 | e5m2 | e2m1 => true
  | _ => false

/-- A signed integer type (R16). -/
def isSigned : Ty → Bool
  | s8 | s16 | s32 | s64 => true
  | _ => false

/-- How many elements of a narrow type a 32-bit register packs; 1 for a wide type (R20, R196). -/
def elems (t : Ty) : Nat := if t.bits < 32 then 32 / t.bits else 1

end Ty

/-- A rounding mode (01 R19). -/
inductive Rnd
  | rne | rtz | rup | rdn
  deriving DecidableEq, Repr

/-- The 2-bit code of a rounding mode (R19). -/
def Rnd.code : Rnd → Nat
  | .rne => 0 | .rtz => 1 | .rup => 2 | .rdn => 3

/-- The rounding mode of the low two bits of a code (R19). -/
def Rnd.ofCode (n : Nat) : Rnd :=
  match n % 4 with
  | 0 => .rne | 1 => .rtz | 2 => .rup | _ => .rdn

/-- A comparison condition (07 R180). -/
inductive CC
  | eq | ne | lt | le | gt | ge | num | nan
  deriving DecidableEq, Repr

/-- The 3-bit code of a condition (R180). -/
def CC.code : CC → Nat
  | .eq => 0 | .ne => 1 | .lt => 2 | .le => 3 | .gt => 4 | .ge => 5 | .num => 6 | .nan => 7

/-- The condition of the low three bits of a code (R180). -/
def CC.ofCode (n : Nat) : CC :=
  match n % 8 with
  | 0 => .eq | 1 => .ne | 2 => .lt | 3 => .le | 4 => .gt | 5 => .ge | 6 => .num | _ => .nan

/-- A combine mode of cmp (07 R180). -/
inductive Comb
  | plain | conj | disj
  deriving DecidableEq, Repr

/-- The 2-bit code of a combine mode (R180). -/
def Comb.code : Comb → Nat
  | .plain => 0 | .conj => 1 | .disj => 2

/-- The combine mode of a code; 3 is illegal (R180). -/
def Comb.ofCode : Nat → Option Comb
  | 0 => some .plain | 1 => some .conj | 2 => some .disj | _ => none

/-- The operation of redl and scanl (08 R202). -/
inductive RedOp
  | add | min | max | band | bor | bxor
  deriving DecidableEq, Repr

/-- The code of a reduction operation (R202). -/
def RedOp.code : RedOp → Nat
  | .add => 0 | .min => 1 | .max => 2 | .band => 3 | .bor => 4 | .bxor => 5

/-- The reduction operation of a code; 6 and 7 are illegal (R202). -/
def RedOp.ofCode : Nat → Option RedOp
  | 0 => some .add | 1 => some .min | 2 => some .max | 3 => some .band | 4 => some .bor | 5 => some .bxor
  | _ => none

/-- A scope, narrow to wide (00 R12, 02 R56). -/
inductive Scope
  | thread | gang | core | column | stack | module | pod | system
  deriving DecidableEq, Repr

/-- The 3-bit code of a scope (R56). -/
def Scope.code : Scope → Nat
  | .thread => 0 | .gang => 1 | .core => 2 | .column => 3 | .stack => 4 | .module => 5 | .pod => 6
  | .system => 7

/-- The scope of the low three bits of a code (R56). -/
def Scope.ofCode (n : Nat) : Scope :=
  match n % 8 with
  | 0 => .thread | 1 => .gang | 2 => .core | 3 => .column | 4 => .stack | 5 => .module | 6 => .pod
  | _ => .system

/-- A request type (02 R56). -/
inductive Rt
  | own | wt | si | nc
  deriving DecidableEq, Repr

/-- The 2-bit code of a request type (R56). -/
def Rt.code : Rt → Nat
  | .own => 0 | .wt => 1 | .si => 2 | .nc => 3

/-- The request type of the low two bits of a code (R56). -/
def Rt.ofCode (n : Nat) : Rt :=
  match n % 4 with
  | 0 => .own | 1 => .wt | 2 => .si | _ => .nc

/-- An ordering (02 R56). -/
inductive Ord
  | plain | acq | rel | acqrel
  deriving DecidableEq, Repr

/-- The 2-bit code of an ordering (R56). -/
def Ord.code : Ord → Nat
  | .plain => 0 | .acq => 1 | .rel => 2 | .acqrel => 3

/-- The ordering of the low two bits of a code (R56). -/
def Ord.ofCode (n : Nat) : Ord :=
  match n % 4 with
  | 0 => .plain | 1 => .acq | 2 => .rel | _ => .acqrel

/-- The ordering acquires (R56). -/
def Ord.acquires : Ord → Bool
  | .acq | .acqrel => true
  | _ => false

/-- The ordering releases (R56). -/
def Ord.releases : Ord → Bool
  | .rel | .acqrel => true
  | _ => false

/-- An element format of the matrix array (12 R277). -/
inductive MFmt
  | bf16 | f16 | e4m3 | e5m2 | s8 | bx4
  deriving DecidableEq, Repr

/-- The code of a matrix format (R277). -/
def MFmt.code : MFmt → Nat
  | .bf16 => 9 | .f16 => 8 | .e4m3 => 12 | .e5m2 => 13 | .s8 => 1 | .bx4 => 14

/-- The matrix format of a code; any other code is illegal (R289). -/
def MFmt.ofCode : Nat → Option MFmt
  | 9 => some .bf16 | 8 => some .f16 | 12 => some .e4m3 | 13 => some .e5m2 | 1 => some .s8 | 14 => some .bx4
  | _ => none

/-- A source operand byte (02 R58). -/
inductive Opd
  | g (n : Nat) | k (n : Nat) | p (n : Nat)
  | lane | team | gtime | tid | cx | cy | zero | imm
  deriving DecidableEq, Repr

namespace Opd

/-- The byte of a source operand (R58). -/
def code : Opd → Nat
  | g n => n | k n => 0xE0 + n | p n => 0xF0 + n
  | lane => 0xF8 | team => 0xF9 | gtime => 0xFA | tid => 0xFB | cx => 0xFC | cy => 0xFD | zero => 0xFE
  | imm => 0xFF

/-- The source operand of a byte (R58). -/
def ofCode (n : Nat) : Opd :=
  if n < 0xE0 then g n else if n < 0xF0 then k (n - 0xE0) else if n < 0xF8 then p (n - 0xF0)
  else if n = 0xF8 then lane else if n = 0xF9 then team else if n = 0xFA then gtime
  else if n = 0xFB then tid else if n = 0xFC then cx else if n = 0xFD then cy
  else if n = 0xFE then zero else imm

/-- The register number is one a byte can name (R58). -/
def ok : Opd → Bool
  | g n => decide (n < 224) | k n => decide (n < 16) | p n => decide (n < 8)
  | _ => true

/-- The operand is a g register. -/
def isG : Opd → Bool
  | g _ => true
  | _ => false

end Opd

/-- A destination operand byte: a g register, a predicate p0-p6, or 0xFE, which discards (02 R59). -/
inductive Dst
  | g (n : Nat) | p (n : Nat) | none
  deriving DecidableEq, Repr

namespace Dst

/-- The byte of a destination (R59). -/
def code : Dst → Nat
  | g n => n | p n => 0xF0 + n | none => 0xFE

/-- The destination of a byte; any other value is illegal (R59). -/
def ofCode (n : Nat) : Option Dst :=
  if n < 0xE0 then some (g n) else if 0xF0 ≤ n && n < 0xF7 then some (p (n - 0xF0))
  else if n = 0xFE then some none else Option.none

/-- The number is one a destination byte can name (R59). -/
def ok : Dst → Bool
  | g n => decide (n < 224) | p n => decide (n < 7) | none => true

/-- The destination is a predicate. -/
def isP : Dst → Bool
  | p _ => true
  | _ => false

end Dst

/-- The control fields of a word: guard P and N, producer distance PD, scoreboard slot SA and SE, wait mask WM and
the guard bits G (02 R53). -/
structure Ctl where
  p : Nat
  n : Bool
  pd : Nat
  sa : Nat
  se : Bool
  wm : Nat
  g : Nat
  deriving DecidableEq, Repr

/-- The fields of a T-format word that do not belong to one op alone (02 R55). -/
structure TWord where
  c : Ctl
  d : Dst
  a : Opd
  b : Opd
  s : Opd
  ty : Ty
  rnd : Rnd
  sat : Bool
  ftz : Bool
  deriving DecidableEq, Repr

/-- The fields of an RI-, C-, X- or S-format word that do not stand in its TAIL (02 R55). -/
structure QWord where
  c : Ctl
  d : Dst
  a : Opd
  b : Opd
  deriving DecidableEq, Repr

/-- The fields of an M-format word: DISP is kept as its 10 bits (02 R55, R56). -/
structure MWord where
  c : Ctl
  d : Dst
  a : Opd
  b : Opd
  slot : Nat
  rt : Rt
  sc : Scope
  w : Nat
  ord : Ord
  disp : Nat
  deriving DecidableEq, Repr

/-- A running agent: a gang by its GID, or a column core by its column (06 R140, R155). -/
inductive CtxId
  | gang (gid : Nat) | cc (col : Nat)
  deriving DecidableEq, Repr

/-- A request of another module (16 R349, R351): a read; a write, whose byte enables come beside it; an atomic or a reduction by its op
code, width code and operands, with whether it returns the old value: one with a UALink code, or a vendor-defined one. -/
inductive PeerOp
  | read
  | write (bytes : List Byte)
  | atomic (op w v n : Nat) (back : Bool)
  deriving DecidableEq, Repr

/-- A request with the link it comes by, which takes its completion back (16 R351). -/
structure PeerReq where
  link : Nat
  op : PeerOp
  deriving DecidableEq, Repr

/-- A flit as a link receives it (16 R351): the module that sent it, whether its CRC is good, the far end's stop signal in it, and whether
there is room for it. -/
structure Flit where
  src : Nat
  crcOk : Bool
  stop : Bool
  room : Bool
  deriving DecidableEq, Repr

/-- The difference of a cache's time from the home's, in ns (09 R231). -/
structure CacheSkew where
  cache : Nat
  skew : Int
  deriving DecidableEq, Repr

/-- What raises a security alarm (20 R428). -/
inductive AlarmSrc
  | glitch | glitchAlwaysOn | temperature | tamper | debugMisuse | faultDetector
  deriving DecidableEq, Repr

/-- One constructor for each row of the opcode table: the instruction words of the twelve classes (R72), then the
events of the part's other agents, whose operands are what the environment brings. Two constructors stand for the words
of sec.call, one for each listed service and one for the service numbers the spec does not list (R414). -/
inductive Instr
  /-- ADD, 07 R168. -/
  | add (t : TWord)
  /-- SUB, 07 R168. -/
  | sub (t : TWord)
  /-- ADDC, 07 R168. -/
  | addc (t : TWord) (co : Nat)
  /-- SUBB, 07 R168. -/
  | subb (t : TWord) (co : Nat)
  /-- MUL, 07 R168. -/
  | mul (t : TWord)
  /-- MULHI, 07 R168. -/
  | mulhi (t : TWord)
  /-- MAD, 07 R168. -/
  | mad (t : TWord)
  /-- MADHI, 07 R168. -/
  | madhi (t : TWord)
  /-- DIV, 07 R168. -/
  | div (t : TWord)
  /-- REM, 07 R168. -/
  | rem (t : TWord)
  /-- NEG, 07 R168. -/
  | neg (t : TWord)
  /-- ABS, 07 R168. -/
  | abs (t : TWord)
  /-- MIN, 07 R168. -/
  | min (t : TWord)
  /-- MAX, 07 R168. -/
  | max (t : TWord)
  /-- LEA, 07 R169. -/
  | lea (t : TWord) (sh : Nat)
  /-- SAD, 07 R170. -/
  | sad (t : TWord)
  /-- DP4, 07 R170. -/
  | dp4 (t : TWord) (mixed : Bool)
  /-- AND, 07 R172. -/
  | and (t : TWord)
  /-- OR, 07 R172. -/
  | or (t : TWord)
  /-- XOR, 07 R172. -/
  | xor (t : TWord)
  /-- ANDN, 07 R172. -/
  | andn (t : TWord)
  /-- ORN, 07 R172. -/
  | orn (t : TWord)
  /-- NOT, 07 R172. -/
  | not (t : TWord)
  /-- SHL, 07 R173. -/
  | shl (t : TWord)
  /-- SHR, 07 R173. -/
  | shr (t : TWord)
  /-- SAR, 07 R173. -/
  | sar (t : TWord)
  /-- ROL, 07 R173. -/
  | rol (t : TWord)
  /-- ROR, 07 R173. -/
  | ror (t : TWord)
  /-- BFE, 07 R174. -/
  | bfe (t : TWord)
  /-- BFI, 07 R174. -/
  | bfi (t : TWord)
  /-- BREV, 07 R175. -/
  | brev (t : TWord)
  /-- CLZ, 07 R175. -/
  | clz (t : TWord)
  /-- CTZ, 07 R175. -/
  | ctz (t : TWord)
  /-- POPC, 07 R175. -/
  | popc (t : TWord)
  /-- PERM, 07 R176. -/
  | perm (t : TWord)
  /-- MOV, 07 R177. -/
  | mov (t : TWord)
  /-- SEL, 07 R177. -/
  | sel (t : TWord)
  /-- FADD, 08 R189. -/
  | fadd (t : TWord) (x2 : Bool)
  /-- FSUB, 08 R189. -/
  | fsub (t : TWord) (x2 : Bool)
  /-- FMUL, 08 R189. -/
  | fmul (t : TWord) (x2 : Bool)
  /-- FMA, 08 R189. -/
  | fma (t : TWord) (x2 : Bool)
  /-- FMIN, 08 R190. -/
  | fmin (t : TWord) (x2 : Bool)
  /-- FMAX, 08 R190. -/
  | fmax (t : TWord) (x2 : Bool)
  /-- FABS, 08 R190. -/
  | fabs (t : TWord) (x2 : Bool)
  /-- FNEG, 08 R190. -/
  | fneg (t : TWord) (x2 : Bool)
  /-- FDIV, 08 R191. -/
  | fdiv (t : TWord) (x2 : Bool)
  /-- FSQRT, 08 R191. -/
  | fsqrt (t : TWord) (x2 : Bool)
  /-- FRCP, 08 R192. -/
  | frcp (t : TWord) (x2 : Bool)
  /-- FRSQ, 08 R192. -/
  | frsq (t : TWord) (x2 : Bool)
  /-- FEX2, 08 R192. -/
  | fex2 (t : TWord) (x2 : Bool)
  /-- FLG2, 08 R192. -/
  | flg2 (t : TWord) (x2 : Bool)
  /-- FCLS, 08 R193. -/
  | fcls (t : TWord) (x2 : Bool)
  /-- FSCL, 08 R194. -/
  | fscl (t : TWord) (x2 : Bool)
  /-- CVT, 08 R196. -/
  | cvt (t : TWord) (src : Ty) (el : Nat)
  /-- FRND, 08 R197. -/
  | frnd (t : TWord)
  /-- PACK, 08 R198. -/
  | pack (t : TWord) (at_ : Nat)
  /-- UNPK, 08 R198. -/
  | unpk (t : TWord) (at_ : Nat)
  /-- QZ4, 08 R199. -/
  | qz4 (t : TWord)
  /-- DQZ4, 08 R200. -/
  | dqz4 (t : TWord)
  /-- QZ8, 08 R199. -/
  | qz8 (t : TWord)
  /-- DQZ8, 08 R200. -/
  | dqz8 (t : TWord)
  /-- QRES, 08 R201. -/
  | qres (t : TWord)
  /-- CMP, 07 R181. -/
  | cmp (t : TWord) (cc : CC) (comb : Comb)
  /-- TST, 07 R183. -/
  | tst (t : TWord) (z : Bool)
  /-- PAND, 07 R183. -/
  | pand (t : TWord)
  /-- POR, 07 R183. -/
  | por (t : TWord)
  /-- PXOR, 07 R183. -/
  | pxor (t : TWord)
  /-- PNOT, 07 R183. -/
  | pnot (t : TWord)
  /-- PMOV, 07 R183. -/
  | pmov (t : TWord)
  /-- PMOV_ALL, 07 R183. -/
  | pmovAll (t : TWord)
  /-- VOTE_ANY, 07 R184. -/
  | voteAny (t : TWord)
  /-- VOTE_ALL, 07 R184. -/
  | voteAll (t : TWord)
  /-- BALLOT, 07 R184. -/
  | ballot (t : TWord)
  /-- LANEMASK_ACT, 07 R184. -/
  | lanemaskAct (t : TWord)
  /-- LANEMASK_ABS, 07 R184. -/
  | lanemaskAbs (t : TWord)
  /-- LANEMASK_REL, 07 R184. -/
  | lanemaskRel (t : TWord)
  /-- SHFL_IDX, 08 R203. -/
  | shflIdx (t : TWord) (wd : Nat)
  /-- SHFL_UP, 08 R203. -/
  | shflUp (t : TWord) (wd : Nat)
  /-- SHFL_DOWN, 08 R203. -/
  | shflDown (t : TWord) (wd : Nat)
  /-- SHFL_XOR, 08 R203. -/
  | shflXor (t : TWord) (wd : Nat)
  /-- REDL, 08 R204. -/
  | redl (t : TWord) (op : RedOp)
  /-- SCANL, 08 R204. -/
  | scanl (t : TWord) (op : RedOp)
  /-- BCAST, 08 R205. -/
  | bcast (t : TWord)
  /-- QINIT, 11 R261. -/
  | qinit (t : TWord) (q : Nat)
  /-- QPUSH_RSV, 11 R263. -/
  | qpushRsv (t : TWord) (q port : Nat)
  /-- QPUSH_PUB, 11 R263. -/
  | qpushPub (t : TWord) (q : Nat)
  /-- QPOP, 11 R264. -/
  | qpop (t : TWord) (q : Nat)
  /-- QALLOW, 11 R262. -/
  | qallow (t : TWord) (q port : Nat)
  /-- QPEEK, 11 R265. -/
  | qpeek (t : TWord) (q : Nat)
  /-- XARM, 11 R272. -/
  | xarm (t : TWord) (box : Nat)
  /-- XPUSH, 11 R272. -/
  | xpush (t : TWord) (box : Nat)
  /-- JMPX, 06 R158. -/
  | jmpx (t : TWord)
  /-- CALLX, 06 R159. -/
  | callx (t : TWord)
  /-- RET, 06 R158. -/
  | ret (t : TWord)
  /-- EXIT, 05 R131. -/
  | exit (t : TWord)
  /-- TEAM_NEW, 05 R134. -/
  | teamNew (t : TWord)
  /-- TEAM_FREE, 05 R135. -/
  | teamFree (t : TWord)
  /-- JOIN, 05 R136. -/
  | join (t : TWord)
  /-- LEAVE, 05 R136. -/
  | leave (t : TWord)
  /-- REGX, 05 R137. -/
  | regx (t : TWord)
  /-- TRIGGER, 05 R139. -/
  | trigger (t : TWord) (sc : Scope)
  /-- LAUNCH, 05 R139. -/
  | launch (t : TWord)
  /-- YIELD, 06 R160. -/
  | yield (t : TWord)
  /-- NOP, 06 R161. -/
  | nop (t : TWord)
  /-- TLBINV_PAGE, 19 R403. -/
  | tlbinvPage (t : TWord)
  /-- TLBINV_NONGLOBAL, 19 R403. -/
  | tlbinvNonglobal (t : TWord)
  /-- TLBINV_ALL, 19 R403. -/
  | tlbinvAll (t : TWord)
  /-- TLBSYNC, 19 R403. -/
  | tlbsync (t : TWord)
  /-- EVQ_POP, 19 R406. -/
  | evqPop (t : TWord)
  /-- EVQ_POST, 19 R407. -/
  | evqPost (t : TWord)
  /-- TRAPRET_RESUME, 19 R409. -/
  | trapretResume (t : TWord)
  /-- TRAPRET_SKIP, 19 R409. -/
  | trapretSkip (t : TWord)
  /-- TRAPRET_END, 19 R409. -/
  | trapretEnd (t : TWord)
  /-- HALT, 19 R410. -/
  | halt (t : TWord)
  /-- WFI, 19 R410. -/
  | wfi (t : TWord)
  /-- ADD_IMM, 03 R73. -/
  | addImm (q : QWord) (imm : Nat)
  /-- SUB_IMM, 03 R73. -/
  | subImm (q : QWord) (imm : Nat)
  /-- MUL_IMM, 03 R73. -/
  | mulImm (q : QWord) (imm : Nat)
  /-- MIN_IMM, 03 R73. -/
  | minImm (q : QWord) (imm : Nat)
  /-- MAX_IMM, 03 R73. -/
  | maxImm (q : QWord) (imm : Nat)
  /-- MOVI, 07 R178. -/
  | movi (q : QWord) (imm : Nat)
  /-- MOVHI, 07 R178. -/
  | movhi (q : QWord) (imm : Nat)
  /-- MOVK, 07 R178. -/
  | movk (q : QWord) (imm h : Nat)
  /-- AND_IMM, 03 R73. -/
  | andImm (q : QWord) (imm : Nat)
  /-- OR_IMM, 03 R73. -/
  | orImm (q : QWord) (imm : Nat)
  /-- XOR_IMM, 03 R73. -/
  | xorImm (q : QWord) (imm : Nat)
  /-- SHL_IMM, 03 R73. -/
  | shlImm (q : QWord) (imm : Nat)
  /-- SHR_IMM, 03 R73. -/
  | shrImm (q : QWord) (imm : Nat)
  /-- SAR_IMM, 03 R73. -/
  | sarImm (q : QWord) (imm : Nat)
  /-- ROL_IMM, 03 R73. -/
  | rolImm (q : QWord) (imm : Nat)
  /-- ROR_IMM, 03 R73. -/
  | rorImm (q : QWord) (imm : Nat)
  /-- SHFL_IDX_IMM, 08 R203. -/
  | shflIdxImm (q : QWord) (n wd : Nat)
  /-- SHFL_UP_IMM, 08 R203. -/
  | shflUpImm (q : QWord) (n wd : Nat)
  /-- SHFL_DOWN_IMM, 08 R203. -/
  | shflDownImm (q : QWord) (n wd : Nat)
  /-- SHFL_XOR_IMM, 08 R203. -/
  | shflXorImm (q : QWord) (n wd : Nat)
  /-- MSHAPE, 12 R290. -/
  | mshape (q : QWord)
  /-- MWLD, 12 R291. -/
  | mwld (q : QWord) (w s cl : Nat) (fmt : MFmt) (kn : Nat)
  /-- MWLD_NOC, 12 R291. -/
  | mwldNoc (q : QWord) (w s : Nat) (fmt : MFmt) (kn : Nat)
  /-- MMAC, 12 R292. -/
  | mmac (q : QWord)
  /-- MSTAT, 12 R293. -/
  | mstat (q : QWord) (wait clr : Bool)
  /-- AE_GO, 11 R267. -/
  | aeGo (q : QWord) (n : Nat)
  /-- AE_HALT, 11 R267. -/
  | aeHalt (q : QWord)
  /-- CP_GO, 11 R268. -/
  | cpGo (q : QWord) (dd ss cl : Nat)
  /-- CP_GO_NOC, 11 R268. -/
  | cpGoNoc (q : QWord) (dd ss : Nat)
  /-- CP_FILL, 11 R268. -/
  | cpFill (q : QWord) (dd cl : Nat)
  /-- CP_FILL_NOC, 11 R268. -/
  | cpFillNoc (q : QWord) (dd : Nat)
  /-- COLL_GO, 16 R360. -/
  | collGo (q : QWord)
  /-- COLL_GRP, 16 R359. -/
  | collGrp (q : QWord) (n : Nat)
  /-- BR, 06 R157. -/
  | br (q : QWord) (off : Nat)
  /-- JMP, 06 R157. -/
  | jmp (q : QWord) (off : Nat)
  /-- CALL, 06 R159. -/
  | call (q : QWord) (off : Nat)
  /-- SPAWN, 05 R132. -/
  | spawn (q : QWord) (off : Nat)
  /-- SPAWN_HOME, 05 R133. -/
  | spawnHome (q : QWord) (off : Nat)
  /-- SLOTQ, 18 R398. -/
  | slotq (q : QWord) (which n : Nat)
  /-- TRAP, 06 R162. -/
  | trap (q : QWord) (code : Nat)
  /-- SYSRD, 19 R402. -/
  | sysrd (q : QWord) (reg : Nat) (b32 : Bool)
  /-- SYSWR, 19 R402. -/
  | syswr (q : QWord) (reg : Nat) (b32 : Bool)
  /-- CLOP_IINV, 19 R411. -/
  | clopIinv (q : QWord)
  /-- CLOP_IALL, 19 R411. -/
  | clopIall (q : QWord)
  /-- CLOP_L1WB, 19 R411. -/
  | clopL1wb (q : QWord)
  /-- CLOP_L1INV, 19 R411. -/
  | clopL1inv (q : QWord)
  /-- ERRINJ_FLIP1, 19 R413. -/
  | errinjFlip1 (q : QWord) (arr bt : Nat)
  /-- ERRINJ_FLIP2, 19 R413. -/
  | errinjFlip2 (q : QWord) (arr bt : Nat)
  /-- ERRINJ_DISARM, 19 R413. -/
  | errinjDisarm (q : QWord) (arr bt : Nat)
  /-- PM_REQ_QUIESCE, 20 R419. -/
  | pmReqQuiesce (q : QWord)
  /-- PM_REQ_RELEASE, 20 R419. -/
  | pmReqRelease (q : QWord)
  /-- PM_REQ_ENTER_M2, 20 R419. -/
  | pmReqEnterM2 (q : QWord)
  /-- PM_REQ_SET_DEMAND, 20 R419. -/
  | pmReqSetDemand (q : QWord)
  /-- SEC_CALL_SECURITY_STATE, 20 R426. -/
  | secCallSecurityState (q : QWord)
  /-- SEC_CALL_ATTEST, 20 R426. -/
  | secCallAttest (q : QWord)
  /-- SEC_CALL_DERIVE_KEY, 20 R426. -/
  | secCallDeriveKey (q : QWord)
  /-- SEC_CALL_ERASE_KEYS, 20 R426. -/
  | secCallEraseKeys (q : QWord)
  /-- SEC_CALL_AUTH_DEBUG, 20 R426. -/
  | secCallAuthDebug (q : QWord)
  /-- SEC_CALL_DEBUG_CHALLENGE, 20 R426. -/
  | secCallDebugChallenge (q : QWord)
  /-- SEC_CALL_LOCK_DEBUG, 20 R426. -/
  | secCallLockDebug (q : QWord)
  /-- SEC_CALL_SECURITY_STATE, 19 R414. -/
  | secCallOther (q : QWord) (svc : Nat)
  /-- BRK, 19 R415. -/
  | brk (q : QWord) (code : Nat)
  /-- LD, 10 R240. -/
  | ld (m : MWord)
  /-- ST, 10 R241. -/
  | st (m : MWord)
  /-- PRF, 10 R242. -/
  | prf (m : MWord)
  /-- REC_LD, 10 R243. -/
  | recLd (m : MWord)
  /-- REC_ST, 10 R243. -/
  | recSt (m : MWord)
  /-- REC_MK, 10 R244. -/
  | recMk (m : MWord)
  /-- REC_ADJ, 10 R245. -/
  | recAdj (m : MWord)
  /-- HOME, 10 R246. -/
  | home (m : MWord)
  /-- INV, 10 R247. -/
  | inv (m : MWord)
  /-- WB, 10 R247. -/
  | wb (m : MWord)
  /-- ATOM_ADD, 10 R250. -/
  | atomAdd (m : MWord)
  /-- ATOM_SUB, 10 R250. -/
  | atomSub (m : MWord)
  /-- ATOM_MIN_U, 10 R250. -/
  | atomMinU (m : MWord)
  /-- ATOM_MAX_U, 10 R250. -/
  | atomMaxU (m : MWord)
  /-- ATOM_AND, 10 R250. -/
  | atomAnd (m : MWord)
  /-- ATOM_OR, 10 R250. -/
  | atomOr (m : MWord)
  /-- ATOM_XOR, 10 R250. -/
  | atomXor (m : MWord)
  /-- ATOM_XCHG, 10 R250. -/
  | atomXchg (m : MWord)
  /-- ATOM_INCW, 10 R250. -/
  | atomIncw (m : MWord)
  /-- ATOM_DECW, 10 R250. -/
  | atomDecw (m : MWord)
  /-- CAS, 10 R250. -/
  | cas (m : MWord)
  /-- ATOM_MIN_S, 10 R250. -/
  | atomMinS (m : MWord)
  /-- ATOM_MAX_S, 10 R250. -/
  | atomMaxS (m : MWord)
  /-- RED_ADD, 10 R250. -/
  | redAdd (m : MWord)
  /-- RED_SUB, 10 R250. -/
  | redSub (m : MWord)
  /-- RED_MIN_U, 10 R250. -/
  | redMinU (m : MWord)
  /-- RED_MAX_U, 10 R250. -/
  | redMaxU (m : MWord)
  /-- RED_AND, 10 R250. -/
  | redAnd (m : MWord)
  /-- RED_OR, 10 R250. -/
  | redOr (m : MWord)
  /-- RED_XOR, 10 R250. -/
  | redXor (m : MWord)
  /-- RED_MIN_S, 10 R250. -/
  | redMinS (m : MWord)
  /-- RED_MAX_S, 10 R250. -/
  | redMaxS (m : MWord)
  /-- ATOM_ADD_F, 10 R250. -/
  | atomAddF (m : MWord)
  /-- ATOM_SUB_F, 10 R250. -/
  | atomSubF (m : MWord)
  /-- ATOM_MIN_F, 10 R250. -/
  | atomMinF (m : MWord)
  /-- ATOM_MAX_F, 10 R250. -/
  | atomMaxF (m : MWord)
  /-- RED_ADD_F, 10 R250. -/
  | redAddF (m : MWord)
  /-- RED_SUB_F, 10 R250. -/
  | redSubF (m : MWord)
  /-- RED_MIN_F, 10 R250. -/
  | redMinF (m : MWord)
  /-- RED_MAX_F, 10 R250. -/
  | redMaxF (m : MWord)
  /-- DADD, 15 R343. -/
  | dadd (m : MWord)
  /-- DLD, 15 R344. -/
  | dld (m : MWord)
  /-- DDRAIN, 15 R345. -/
  | ddrain (m : MWord)
  /-- DQRY, 15 R346. -/
  | dqry (m : MWord)
  /-- DLD_E, 15 R344. -/
  | dldE (m : MWord)
  /-- FENCE_ACQ, 14 R318. -/
  | fenceAcq (m : MWord)
  /-- FENCE_REL, 14 R318. -/
  | fenceRel (m : MWord)
  /-- FENCE_ACQREL, 14 R318. -/
  | fenceAcqrel (m : MWord)
  /-- CLASP_INIT, 14 R321. -/
  | claspInit (m : MWord)
  /-- CLASP_ARRIVE, 14 R321. -/
  | claspArrive (m : MWord)
  /-- CLASP_EXPECT, 14 R321. -/
  | claspExpect (m : MWord)
  /-- CLASP_WAIT, 14 R321. -/
  | claspWait (m : MWord)
  /-- CLASP_TWAIT, 14 R321. -/
  | claspTwait (m : MWord)
  /-- CLASP_TEST, 14 R321. -/
  | claspTest (m : MWord)
  /-- IMPRECISE_STORE_FAULT, 10 R236. -/
  | impreciseStoreFault (op : Nat)
  /-- TOMB_FREE, 17 R371. -/
  | tombFree (gid : Nat)
  /-- FIXED_LATENCY_WRITEBACK, 02 R62. -/
  | fixedLatencyWriteback (ctx : CtxId)
  /-- LONG_LATENCY_COMPLETE, 02 R65. -/
  | longLatencyComplete (op : Nat)
  /-- INSTRUCTION_FETCH_FILL, 06 R141. -/
  | instructionFetchFill (ctx : CtxId) (va : Word64)
  /-- RECONVERGENCE_TIMEOUT, 06 R148. -/
  | reconvergenceTimeout (gid : Nat)
  /-- STARVATION, 06 R154. -/
  | starvation (gid : Nat)
  /-- URGENCY_WINDOW_END, 06 R153. -/
  | urgencyWindowEnd (core : Nat)
  /-- LAUNCH_LINE_WRITE, 05 R114. -/
  | launchLineWrite (col line off : Nat) (bytes : List Byte)
  /-- LAUNCH_GO_WRITE, 05 R113. -/
  | launchGoWrite (col line : Nat) (go : Word64)
  /-- LAUNCH_TAKE, 05 R116. -/
  | launchTake (col line : Nat)
  /-- PREDECESSOR_SATISFIED, 05 R118. -/
  | predecessorSatisfied (h : Word64)
  /-- ROOT_DISTRIBUTE, 05 R120. -/
  | rootDistribute (h : Word64)
  /-- BIN_TIMEOUT, 05 R124. -/
  | binTimeout (core bin : Nat)
  /-- GANG_FORM, 05 R124. -/
  | gangForm (core bin part : Nat)
  /-- SPILL_RETURN, 05 R126. -/
  | spillReturn (h : Word64) (entry : Nat)
  /-- LAUNCH_RETIRE, 05 R121. -/
  | launchRetire (h : Word64)
  /-- GANG_FREE, 05 R131. -/
  | gangFree (gid : Nat)
  /-- TEAM_RESERVE_REFILL, 05 R129. -/
  | teamReserveRefill (core : Nat)
  /-- REGX_GRANT, 05 R137. -/
  | regxGrant (gid : Nat)
  /-- REGX_EVICT, 05 R138. -/
  | regxEvict (core part : Nat)
  /-- GANG_SAVE, 17 R375. -/
  | gangSave (gid : Nat)
  /-- GANG_RESTORE, 17 R375. -/
  | gangRestore (col frame part : Nat)
  /-- LONG_FAULT_RESUME, 17 R376. -/
  | longFaultResume (ctx : CtxId)
  /-- MIGRATION_EPOCH, 09 R219. -/
  | migrationEpoch (col : Nat)
  /-- MIGRATION_DONE, 09 R220. -/
  | migrationDone (pa : Nat)
  /-- TLB_INVALIDATION_ARRIVE, 19 R403. -/
  | tlbInvalidationArrive (tlb which : Nat)
  /-- OWNER_RECALL, 09 R226. -/
  | ownerRecall (line : Nat)
  /-- UPGRADE, 09 R232. -/
  | upgrade (cache line : Nat)
  /-- REGION_MERGE, 09 R227. -/
  | regionMerge (base size : Nat)
  /-- LEASE_HOLD_END, 09 R230. -/
  | leaseHoldEnd (op : Nat)
  /-- TIME_SKEW, 09 R231. -/
  | timeSkew (cache : Nat) (skew : Int)
  /-- GOLDEN_ROTATE, 09 R224. -/
  | goldenRotate (loop pkt : Nat)
  /-- BANGLE_DELIVER, 09 R224. -/
  | bangleDeliver (pkt : Nat)
  /-- FORCED_PUBLISH, 13 R306. -/
  | forcedPublish (cache upto : Nat)
  /-- FORCED_PUBLISH_ACK, 13 R306. -/
  | forcedPublishAck (cache upto : Nat)
  /-- WRITE_FORWARD_APPLY, 13 R308. -/
  | writeForwardApply (id : Nat)
  /-- WSSTATE_TAKE_EFFECT, 09 R223. -/
  | wsstateTakeEffect (half : Nat)
  /-- AE_STREAM_BLOCK, 11 R257. -/
  | aeStreamBlock (core stream : Nat)
  /-- QUEUE_SLOT_RELEASE, 11 R255. -/
  | queueSlotRelease (core q gid : Nat)
  /-- QPOP_DELIVER, 11 R264. -/
  | qpopDeliver (core q gid : Nat)
  /-- CP_COMMAND_COMPLETE, 11 R259. -/
  | cpCommandComplete (id : Nat)
  /-- CP_COMMAND_FAULT, 11 R259. -/
  | cpCommandFault (id : Nat)
  /-- XPUSH_DELIVER, 11 R272. -/
  | xpushDeliver (core box : Nat)
  /-- PUSH_BOX_FREE, 11 R270. -/
  | pushBoxFree (core box : Nat)
  /-- MWLD_START, 12 R274. -/
  | mwldStart (core : Nat)
  /-- MWLD_COMPLETE, 12 R286. -/
  | mwldComplete (core : Nat)
  /-- MWLD_FAULT, 12 R287. -/
  | mwldFault (core : Nat)
  /-- MMAC_START, 12 R274. -/
  | mmacStart (core : Nat)
  /-- MMAC_PASS, 12 R283. -/
  | mmacPass (core : Nat)
  /-- MMAC_COMPLETE, 12 R286. -/
  | mmacComplete (core : Nat)
  /-- MMAC_FAULT, 12 R287. -/
  | mmacFault (core : Nat)
  /-- MSHAPE_COMPLETE, 12 R290. -/
  | mshapeComplete (core : Nat)
  /-- MULTICAST_TIMEOUT, 12 R285. -/
  | multicastTimeout (core : Nat)
  /-- BAND_POWER_ON, 12 R276. -/
  | bandPowerOn (core band : Nat)
  /-- CLASP_ADD_BYTES, 14 R323. -/
  | claspAddBytes (id : Nat)
  /-- CLASP_WAKE_ARRIVE, 14 R324. -/
  | claspWakeArrive (col : Nat) (key : Nat)
  /-- CLASP_POLL, 14 R324. -/
  | claspPoll (ctx : CtxId)
  /-- CLASP_TWAIT_TIMEOUT, 14 R322. -/
  | claspTwaitTimeout (ctx : CtxId)
  /-- SLEW_ADMIT, 14 R325. -/
  | slewAdmit
  /-- SHARE_REQUEST, 15 R331. -/
  | shareRequest (msg : Nat)
  /-- SHARE_GRANT, 15 R338. -/
  | shareGrant (msg : Nat)
  /-- FORCED_DRAIN, 15 R334. -/
  | forcedDrain (msg : Nat)
  /-- DELTA_WRITE, 15 R333. -/
  | deltaWrite (msg : Nat)
  /-- DELTA_ACK, 15 R338. -/
  | deltaAck (msg : Nat)
  /-- DRAIN_ACK, 15 R338. -/
  | drainAck (msg : Nat)
  /-- SHARE_RETURN, 15 R338. -/
  | shareReturn (msg : Nat)
  /-- TOLERANCE_QUERY, 15 R335. -/
  | toleranceQuery (msg : Nat)
  /-- TOLERANCE_CLEAR, 15 R335. -/
  | toleranceClear (msg : Nat)
  /-- TOLERANCE_DONE, 15 R338. -/
  | toleranceDone (msg : Nat)
  /-- DRIFT_LINE_EVICT, 15 R330. -/
  | driftLineEvict (cache line : Nat)
  /-- DRENT0_COMMIT, 15 R329. -/
  | drent0Commit (v : Word64)
  /-- DRENT0_RETIRE, 15 R329. -/
  | drent0Retire (v : Word64)
  /-- DRENT1_STAGE, 15 R328. -/
  | drent1Stage (v : Word64)
  /-- COLL_CHUNK, 16 R355. -/
  | collChunk (id : Nat) (partials : List (List Word)) (down : List Word)
  /-- COLL_CHUNK_COMMIT, 16 R356. -/
  | collChunkCommit (id : Nat)
  /-- COLL_NEIGHBOUR_TIMEOUT, 16 R357. -/
  | collNeighbourTimeout (id rank : Nat)
  /-- MEMBER_DOWN, 16 R357. -/
  | memberDown (id rank : Nat)
  /-- COLL_COMPLETE, 16 R360. -/
  | collComplete (id : Nat)
  /-- COLL_END_FAULT, 16 R357. -/
  | collEndFault (id : Nat)
  /-- PEER_REQUEST, 16 R349. -/
  | peerRequest (r : PeerReq) (pa n : Nat) (enables : BitVec 128)
  /-- PEER_COMPLETION_TIMEOUT, 16 R348. -/
  | peerCompletionTimeout (op : Nat)
  /-- WAVELENGTH_FAIL, 16 R352. -/
  | wavelengthFail (link : Nat)
  /-- LINK_DOWN, 16 R352. -/
  | linkDown (link : Nat)
  /-- LINK_UP, 16 R353. -/
  | linkUp (link peer : Nat)
  /-- FLIT_RECEIVE, 16 R351. -/
  | flitReceive (link seq : Nat) (flit : Flit)
  /-- POD_BUDGET_TICK, 16 R362. -/
  | podBudgetTick (demand : Nat)
  /-- DEMAND_MESSAGE, 16 R362. -/
  | demandMessage (chip demand : Nat)
  /-- SLOT_DRAIN_WINDOW, 18 R393. -/
  | slotDrainWindow
  /-- SLOT_START, 18 R391. -/
  | slotStart
  /-- SLOT_END, 18 R395. -/
  | slotEnd
  /-- SLOT_EXTEND, 18 R396. -/
  | slotExtend
  /-- CARRIED_WORK_PIECE, 18 R396. -/
  | carriedWorkPiece (ns : Nat)
  /-- CALENDAR_WRITE, 18 R388. -/
  | calendarWrite (reg : Nat) (v : Word64)
  /-- CALENDAR_ACTIVATE, 18 R389. -/
  | calendarActivate
  /-- RINGHT_WRITE, 18 R392. -/
  | ringhtWrite (v : Word64)
  /-- RINGMAP_WRITE, 18 R392. -/
  | ringmapWrite (v : Word64)
  /-- RING_MONITOR_SAMPLE, 25 R442. -/
  | ringMonitorSample (die : Nat) (centre : List Nat) (power : Nat)
  /-- CORBIND_WRITE, 04 R106. -/
  | corbindWrite (col : Nat) (v : Word64)
  /-- LPRIO_WRITE, 05 R122. -/
  | lprioWrite (v : Word64)
  /-- LSWITCH_OUT, 17 R380. -/
  | lswitchOut (col : Nat) (v : Word64)
  /-- LSWITCH_IN, 17 R380. -/
  | lswitchIn (col : Nat) (v : Word64)
  /-- LSWITCH_END, 17 R381. -/
  | lswitchEnd (col : Nat) (v : Word64)
  /-- QUIESCE_MARKER_RETURN, 17 R380. -/
  | quiesceMarkerReturn (h : Word64)
  /-- LSWITCH_DONE_POST, 17 R379. -/
  | lswitchDonePost
  /-- WATCHDOG_EXPIRE, 17 R382. -/
  | watchdogExpire (h : Word64)
  /-- EVQ_OVERFLOW_POST, 19 R405. -/
  | evqOverflowPost (col : Nat)
  /-- EVQ_HEAD_HOST_WRITE, 19 R404. -/
  | evqHeadHostWrite (q head : Nat)
  /-- ERROR_DETECTED, 19 R412. -/
  | errorDetected (arr col core loc : Nat) (uc : Bool) (synd : Byte) (gid : Word)
  /-- ERRLOG_CLEAR, 19 R412. -/
  | errlogClear (col core arr : Nat)
  /-- GOVERNOR_TICK, 20 R420. -/
  | governorTick (col draw temp : Nat)
  /-- COLUMN_CAP_TICK, 20 R420. -/
  | columnCapTick (draws : List Nat)
  /-- FAST_THROTTLE_ON, 20 R421. -/
  | fastThrottleOn
  /-- FAST_THROTTLE_OFF, 20 R421. -/
  | fastThrottleOff
  /-- C_STATE_ENTER, 20 R417. -/
  | cStateEnter (col : Nat)
  /-- C_STATE_EXIT, 20 R417. -/
  | cStateExit (col : Nat)
  /-- M1_ENTER, 20 R417. -/
  | m1Enter
  /-- M1_EXIT, 20 R417. -/
  | m1Exit
  /-- QUIESCE_QUIET, 20 R419. -/
  | quiesceQuiet (col : Nat)
  /-- CTL_WAKE_WRITE, 20 R418. -/
  | ctlWakeWrite (v : Word64) (host : Bool)
  /-- BROWNOUT_ENTRY, 20 R423. -/
  | brownoutEntry
  /-- BROWN_ASSERT, 20 R423. -/
  | brownAssert
  /-- BROWN_RELEASE, 20 R424. -/
  | brownRelease
  /-- THROT_SIGNAL, 20 R421. -/
  | throtSignal (on : Bool)
  /-- BROWNOUT_RESUME, 20 R424: power comes back; or, with `back`, the launches are back. -/
  | brownoutResume (back : Bool)
  /-- POWER_ON_RESET, 20 R427. -/
  | powerOnReset (ok : Bool)
  /-- BOOTIMG_WRITE, 20 R429. -/
  | bootimgWrite (v : Word64)
  /-- RUNTIME_VERIFY_DONE, 20 R427. -/
  | runtimeVerifyDone (ok : Bool) (entry : Word64)
  /-- SECURITY_ALARM, 20 R428. -/
  | securityAlarm (src : AlarmSrc)
  /-- APERTURE_READ, 20 R429. -/
  | apertureRead (off n : Nat)
  /-- APERTURE_WRITE, 20 R429. -/
  | apertureWrite (off : Nat) (bytes : List Byte)
  /-- DDATA_READ, 20 R431. -/
  | ddataRead
  /-- DDATA_WRITE, 20 R431. -/
  | ddataWrite (v : Word64)
  /-- DRDATA_READ, 20 R431. -/
  | drdataRead
  /-- DCC_WRITE, 20 R431. -/
  | dccWrite (v : Word64)
  /-- DCTL_WRITE, 20 R432. -/
  | dctlWrite (v : Word64)
  /-- DHACT_RESUME, 20 R432. -/
  | dhactResume
  /-- DHACT_SKIP, 20 R432. -/
  | dhactSkip
  /-- DHACT_END, 20 R432. -/
  | dhactEnd
  /-- REGISTER_WRITE, 19 R402. -/
  | registerWrite (reg col core : Nat) (v : Word64)
  /-- TIME_SKEW_RECOVERED, 09 R231. -/
  | timeSkewRecovered (x : CacheSkew)
  deriving DecidableEq, Repr

end Sys2Proof
end

