-- ==== Sys2Proof/WellFormed.lean ====
section
/-! DEFINITION. What each row of the encoding tables requires of a word's fields (02 R57-R60, R65; 03 R72-R76 and the
tables of the instruction chapters), and the check that a word meets its row. -/

namespace Sys2Proof

/-- What a source byte may name: nothing (the byte is 0), or `n` registers from a multiple of `align`. -/
inductive SK
  | none
  | any (n : Nat)
  | gOnly (n align : Nat)
  | imm
  | immOr
  deriving DecidableEq, Repr

/-- What form a DST byte takes. -/
inductive DForm
  | zero | reg | pred | predOrG | p0OrG | slot
  deriving DecidableEq, Repr

/-- What a DST byte may name: `n` g registers from a multiple of `align`, or 0xFE where `fe` holds; `src` when the
registers are read at issue (10 R234), `dst` when they are written. -/
structure DK where
  form : DForm
  n : Nat
  align : Nat
  fe : Bool
  src : Bool
  dst : Bool
  deriving DecidableEq, Repr

namespace DK

def zero : DK := ⟨.zero, 0, 1, false, false, false⟩
def g : DK := ⟨.reg, 1, 1, true, false, true⟩
def gOnly : DK := ⟨.reg, 1, 1, false, false, true⟩
def gSrc : DK := ⟨.reg, 1, 1, false, true, false⟩
def gBoth : DK := ⟨.reg, 1, 1, false, true, true⟩
def pair : DK := ⟨.reg, 2, 2, false, false, true⟩
def pairFE : DK := ⟨.reg, 2, 2, true, false, true⟩
def pairSrc : DK := ⟨.reg, 2, 2, false, true, false⟩
def pairBoth : DK := ⟨.reg, 2, 2, false, true, true⟩
def quadSrc : DK := ⟨.reg, 4, 4, false, true, false⟩
def quadBoth : DK := ⟨.reg, 4, 4, false, true, true⟩
def oct : DK := ⟨.reg, 8, 8, false, false, true⟩
def pred : DK := ⟨.pred, 1, 1, true, false, true⟩
def predOrG : DK := ⟨.predOrG, 1, 1, true, false, true⟩
def p0OrG : DK := ⟨.p0OrG, 1, 1, true, false, true⟩
def slot : DK := ⟨.slot, 1, 1, false, false, true⟩

/-- One register or an even pair, by the type's width (07 R164). -/
def ty (t : Ty) : DK := if t.bits = 64 then pairFE else g

/-- The registers of a loaded value: 1, 2 or 4 by W (10 R233). -/
def dataFE (w : Nat) : DK :=
  if w = 4 then ⟨.reg, 4, 4, true, false, true⟩ else if w = 3 then pairFE else g

/-- The data source of a store, which as a source may also name 0, 0xFE (02 R58; log 34). -/
def dataG : DK := ⟨.reg, 1, 1, true, true, false⟩

/-- The registers of a stored value (10 R233; log 34). -/
def dataSrc (w : Nat) : DK :=
  if w = 4 then ⟨.reg, 4, 4, true, true, false⟩ else if w = 3 then ⟨.reg, 2, 2, true, true, false⟩ else dataG

/-- The registers of an atomic's operand and result (10 R248). -/
def atomD (w : Nat) : DK := if w = 3 then pairBoth else gBoth

/-- The registers of a reduction's operand (10 R248). -/
def redD (w : Nat) : DK := if w = 3 then pairSrc else gSrc

/-- The registers of cas: compare value and result, then the new value (10 R248). -/
def casD (w : Nat) : DK := if w = 3 then quadBoth else ⟨.reg, 2, 1, false, true, true⟩

end DK

/-- The source kind of a value of type `t` (07 R164). -/
def Ty.sk (t : Ty) : SK := if t.bits = 64 then .any 2 else .any 1

/-- One source byte against its row: its number, the even or aligned register, and that 0xFF stands only where the row
takes an immediate (R58-R60). -/
def SK.admits (k : SK) (o : Opd) : Bool :=
  o.ok &&
  match k, o with
  | .none, .g 0 => true
  | .none, _ => false
  | .any _, .imm => false
  | .any n, .g r => decide (r % n = 0)
  | .any _, _ => true
  | .gOnly n al, .g r => decide (r % al = 0 ∧ r + n ≤ 224)
  | .gOnly _ _, _ => false
  | .imm, .imm => true
  | .imm, _ => false
  | .immOr, _ => true

/-- How many g registers a source of this kind reads. -/
def SK.count : SK → Nat
  | .none | .imm => 0
  | .any n => n
  | .gOnly n _ => n
  | .immOr => 1

/-- The DST byte against its row (R57, R59, R60). -/
def DK.admits (k : DK) (d : Dst) : Bool :=
  d.ok &&
  match k.form, d with
  | .zero, .g 0 => true
  | .reg, .g r => decide (r % k.align = 0 ∧ r + k.n ≤ 224)
  | .reg, .none => k.fe
  | .pred, .p _ => true
  | .pred, .none => true
  | .predOrG, _ => true
  | .p0OrG, .p n => decide (n = 0)
  | .p0OrG, _ => true
  | .slot, .g r => decide (r < 16)
  | _, _ => false

/-- A word against its row of the encoding tables: the code, the fields and what the row asks of them. -/
structure Row where
  cls : Nat
  op : Nat
  c : Ctl
  d : Dst
  dk : DK
  a : Opd
  ak : SK
  b : Opd
  bk : SK
  s : Opd
  sk : SK
  tail : Nat
  /-- The row gives a latency class, so PD may be nonzero (R156, R163, R185). -/
  pd : Bool
  /-- The instruction is long-latency, so SE may be 1 (R65). -/
  se : Bool
  /-- The row requires G = 0 (R318, R358, R401). -/
  nog : Bool
  /-- What the row asks of the fields of TAIL. -/
  ok : Bool
  deriving DecidableEq, Repr

/-- G bit `i` stands only beside a g register (R57, R69). -/
def gBitOk (g i : Nat) (k : SK) (o : Opd) : Bool :=
  !(g.testBit i) || (o.isG && decide (k ≠ .none))

/-- The control fields of R53 against a row (R57, R65, R69). -/
def Row.ctlOk (r : Row) : Bool :=
  decide (r.c.p < 8 ∧ r.c.pd < 8 ∧ r.c.sa < 8 ∧ r.c.wm < 256 ∧ r.c.g < 8) &&
  (r.pd || decide (r.c.pd = 0)) &&
  (r.se || !r.c.se) && (r.c.se || decide (r.c.sa = 0)) &&
  (!r.nog || decide (r.c.g = 0)) &&
  gBitOk r.c.g 0 r.ak r.a && gBitOk r.c.g 1 r.bk r.b && gBitOk r.c.g 2 r.sk r.s

/-- The word meets its row. -/
def Row.check (r : Row) : Bool :=
  r.ctlOk && r.dk.admits r.d && r.ak.admits r.a && r.bk.admits r.b && r.sk.admits r.s && r.ok

/-- The type, rounding, sat and ftz fields of MOD against a row (R163, R185). -/
def TWord.modOk (t : TWord) (types : List Ty) (rm sat ftz : Bool) : Bool :=
  types.contains t.ty && (rm || decide (t.rnd = .rne)) && (sat || !t.sat) && (ftz || !t.ftz)

/-- The row of a T-format word (R55). -/
def TWord.row (t : TWord) (cls op : Nat) (dk : DK) (ak bk sk : SK) (types : List Ty) (rm sat ftz : Bool)
    (mod : Nat) (ok pd se nog : Bool) : Row where
  cls := cls
  op := op
  c := t.c
  d := t.d
  dk := dk
  a := t.a
  ak := ak
  b := t.b
  bk := bk
  s := t.s
  sk := sk
  tail := t.s.code * 65536 + t.ty.code * 4096 + t.rnd.code * 1024 + bit t.sat * 512 + bit t.ftz * 256 + mod
  pd := pd
  se := se
  nog := nog
  ok := t.modOk types rm sat ftz && ok && decide (mod < 256)

/-- The row of an RI-, C-, X- or S-format word (R55). -/
def QWord.row (q : QWord) (cls op : Nat) (dk : DK) (ak bk : SK) (tail : Nat) (ok pd nog : Bool) : Row where
  cls := cls
  op := op
  c := q.c
  d := q.d
  dk := dk
  a := q.a
  ak := ak
  b := q.b
  bk := bk
  s := .g 0
  sk := .none
  tail := tail
  pd := pd
  se := false
  nog := nog
  ok := ok && decide (tail < 16777216)

/-- Exactly one of the two sources of an immediate twin is 0xFF (R73). -/
def QWord.twin (q : QWord) : Bool := (q.a == .imm) != (q.b == .imm)

/-- The row of an M-format word (R55, R56). -/
def MWord.row (m : MWord) (cls op : Nat) (dk : DK) (ak bk : SK) (ors : List Ord) (ok se nog : Bool) : Row where
  cls := cls
  op := op
  c := m.c
  d := m.d
  dk := dk
  a := m.a
  ak := ak
  b := m.b
  bk := bk
  s := .g 0
  sk := .none
  tail := m.slot * 1048576 + m.rt.code * 262144 + m.sc.code * 32768 + m.w * 4096 + m.ord.code * 1024 + m.disp
  pd := false
  se := se
  nog := nog
  ok := ors.contains m.ord && ok && decide (m.slot < 16 ∧ m.w < 8 ∧ m.disp < 1024)

namespace Instr

/-- The row of every instruction word; an event has none. pmov.all with DST = 0xFE is taken in its g form, so S1 must be 0 (DESIGN CHOICE,
log 39: R179 allows 0xFE in both forms and names neither). -/
def row : Instr → Option Row
  | .add t => some (t.row 0x0 0x00 (.ty t.ty) t.ty.sk t.ty.sk .none [.s32, .n32, .s64, .n64, .s16, .n16, .s8, .n8] false true false (0) (true) true false false)
  | .sub t => some (t.row 0x0 0x01 (.ty t.ty) t.ty.sk t.ty.sk .none [.s32, .n32, .s64, .n64, .s16, .n16, .s8, .n8] false true false (0) (true) true false false)
  | .addc t co => some (t.row 0x0 0x02 (.ty t.ty) t.ty.sk t.ty.sk (.any 1) [.n32, .n64, .s32, .s64] false false false (co) (co < 8) true false false)
  | .subb t co => some (t.row 0x0 0x03 (.ty t.ty) t.ty.sk t.ty.sk (.any 1) [.n32, .n64, .s32, .s64] false false false (co) (co < 8) true false false)
  | .mul t => some (t.row 0x0 0x04 (.ty t.ty) t.ty.sk t.ty.sk .none [.s32, .n32, .s64, .n64] false true false (0) (true) true false false)
  | .mulhi t => some (t.row 0x0 0x05 (.ty t.ty) t.ty.sk t.ty.sk .none [.s32, .n32, .s64, .n64] false false false (0) (true) true false false)
  | .mad t => some (t.row 0x0 0x06 (.ty t.ty) t.ty.sk t.ty.sk t.ty.sk [.s32, .n32, .s64, .n64] false true false (0) (true) true false false)
  | .madhi t => some (t.row 0x0 0x07 (.ty t.ty) t.ty.sk t.ty.sk t.ty.sk [.s32, .n32, .s64, .n64] false false false (0) (true) true false false)
  | .div t => some (t.row 0x0 0x08 (.ty t.ty) t.ty.sk t.ty.sk .none [.s32, .n32, .s64, .n64] false true false (0) (true) true false false)
  | .rem t => some (t.row 0x0 0x09 (.ty t.ty) t.ty.sk t.ty.sk .none [.s32, .n32, .s64, .n64] false false false (0) (true) true false false)
  | .neg t => some (t.row 0x0 0x0A (.ty t.ty) t.ty.sk .none .none [.s32, .s64, .s16, .s8] false true false (0) (true) true false false)
  | .abs t => some (t.row 0x0 0x0B (.ty t.ty) t.ty.sk .none .none [.s32, .s64, .s16, .s8] false true false (0) (true) true false false)
  | .min t => some (t.row 0x0 0x0C (.ty t.ty) t.ty.sk t.ty.sk .none [.s32, .n32, .s64, .n64, .s16, .n16, .s8, .n8] false false false (0) (true) true false false)
  | .max t => some (t.row 0x0 0x0D (.ty t.ty) t.ty.sk t.ty.sk .none [.s32, .n32, .s64, .n64, .s16, .n16, .s8, .n8] false false false (0) (true) true false false)
  | .lea t sh => some (t.row 0x0 0x0E .pairFE (.any 2) (.any 1) .none [.s32, .n32] false false false (sh) (sh < 8) true false false)
  | .sad t => some (t.row 0x0 0x0F .g (.any 1) (.any 1) (.any 1) [.n8, .s8, .n16, .s16, .n32, .s32] false true false (0) (true) true false false)
  | .dp4 t mixed => some (t.row 0x0 0x10 .g (.any 1) (.any 1) (.any 1) [.s8, .n8] false true false (bit mixed) (true) true false false)
  | .and t => some (t.row 0x1 0x00 (.ty t.ty) t.ty.sk t.ty.sk .none [.n32, .n64, .s32, .s64] false false false (0) (true) true false false)
  | .or t => some (t.row 0x1 0x01 (.ty t.ty) t.ty.sk t.ty.sk .none [.n32, .n64, .s32, .s64] false false false (0) (true) true false false)
  | .xor t => some (t.row 0x1 0x02 (.ty t.ty) t.ty.sk t.ty.sk .none [.n32, .n64, .s32, .s64] false false false (0) (true) true false false)
  | .andn t => some (t.row 0x1 0x03 (.ty t.ty) t.ty.sk t.ty.sk .none [.n32, .n64, .s32, .s64] false false false (0) (true) true false false)
  | .orn t => some (t.row 0x1 0x04 (.ty t.ty) t.ty.sk t.ty.sk .none [.n32, .n64, .s32, .s64] false false false (0) (true) true false false)
  | .not t => some (t.row 0x1 0x05 (.ty t.ty) t.ty.sk .none .none [.n32, .n64, .s32, .s64] false false false (0) (true) true false false)
  | .shl t => some (t.row 0x1 0x06 (.ty t.ty) t.ty.sk (.any 1) .none [.n32, .n64, .s32, .s64] false false false (0) (true) true false false)
  | .shr t => some (t.row 0x1 0x07 (.ty t.ty) t.ty.sk (.any 1) .none [.n32, .n64, .s32, .s64] false false false (0) (true) true false false)
  | .sar t => some (t.row 0x1 0x08 (.ty t.ty) t.ty.sk (.any 1) .none [.n32, .n64, .s32, .s64] false false false (0) (true) true false false)
  | .rol t => some (t.row 0x1 0x09 (.ty t.ty) t.ty.sk (.any 1) .none [.n32, .n64, .s32, .s64] false false false (0) (true) true false false)
  | .ror t => some (t.row 0x1 0x0A (.ty t.ty) t.ty.sk (.any 1) .none [.n32, .n64, .s32, .s64] false false false (0) (true) true false false)
  | .bfe t => some (t.row 0x1 0x0B (.ty t.ty) t.ty.sk (.any 1) .none [.n32, .s32, .n64, .s64] false false false (0) (true) true false false)
  | .bfi t => some (t.row 0x1 0x0C (.ty t.ty) t.ty.sk t.ty.sk (.any 1) [.n32, .n64] false false false (0) (true) true false false)
  | .brev t => some (t.row 0x1 0x0D (.ty t.ty) t.ty.sk .none .none [.n32, .n64] false false false (0) (true) true false false)
  | .clz t => some (t.row 0x1 0x0E .g t.ty.sk .none .none [.n32, .n64] false false false (0) (true) true false false)
  | .ctz t => some (t.row 0x1 0x0F .g t.ty.sk .none .none [.n32, .n64] false false false (0) (true) true false false)
  | .popc t => some (t.row 0x1 0x10 .g t.ty.sk .none .none [.n32, .n64] false false false (0) (true) true false false)
  | .perm t => some (t.row 0x1 0x11 .g (.any 1) (.any 1) (.any 1) [.n32] false false false (0) (true) true false false)
  | .mov t => some (t.row 0x1 0x12 (.ty t.ty) t.ty.sk .none .none [.n32, .n64] false false false (0) (true) true false false)
  | .sel t => some (t.row 0x1 0x16 (.ty t.ty) t.ty.sk t.ty.sk (.any 1) [.n32, .n64] false false false (0) (true) true false false)
  | .fadd t x2 => some (t.row 0x2 0x00 (.ty t.ty) t.ty.sk t.ty.sk .none [.f32, .f16, .bf16, .f64] true true true (bit x2) ((!x2 || t.ty == .f16 || t.ty == .bf16)) true false false)
  | .fsub t x2 => some (t.row 0x2 0x01 (.ty t.ty) t.ty.sk t.ty.sk .none [.f32, .f16, .bf16, .f64] true true true (bit x2) ((!x2 || t.ty == .f16 || t.ty == .bf16)) true false false)
  | .fmul t x2 => some (t.row 0x2 0x02 (.ty t.ty) t.ty.sk t.ty.sk .none [.f32, .f16, .bf16, .f64] true true true (bit x2) ((!x2 || t.ty == .f16 || t.ty == .bf16)) true false false)
  | .fma t x2 => some (t.row 0x2 0x03 (.ty t.ty) t.ty.sk t.ty.sk t.ty.sk [.f32, .f16, .bf16, .f64] true true true (bit x2) ((!x2 || t.ty == .f16 || t.ty == .bf16)) true false false)
  | .fmin t x2 => some (t.row 0x2 0x04 (.ty t.ty) t.ty.sk t.ty.sk .none [.f32, .f16, .bf16, .f64] false false true (bit x2) ((!x2 || t.ty == .f16 || t.ty == .bf16)) true false false)
  | .fmax t x2 => some (t.row 0x2 0x05 (.ty t.ty) t.ty.sk t.ty.sk .none [.f32, .f16, .bf16, .f64] false false true (bit x2) ((!x2 || t.ty == .f16 || t.ty == .bf16)) true false false)
  | .fabs t x2 => some (t.row 0x2 0x06 (.ty t.ty) t.ty.sk .none .none [.f32, .f16, .bf16, .f64] false false true (bit x2) ((!x2 || t.ty == .f16 || t.ty == .bf16)) true false false)
  | .fneg t x2 => some (t.row 0x2 0x07 (.ty t.ty) t.ty.sk .none .none [.f32, .f16, .bf16, .f64] false false true (bit x2) ((!x2 || t.ty == .f16 || t.ty == .bf16)) true false false)
  | .fdiv t x2 => some (t.row 0x2 0x08 (.ty t.ty) t.ty.sk t.ty.sk .none [.f32, .f16, .bf16, .f64] true true true (bit x2) ((!x2 || t.ty == .f16 || t.ty == .bf16)) true false false)
  | .fsqrt t x2 => some (t.row 0x2 0x09 (.ty t.ty) t.ty.sk .none .none [.f32, .f16, .bf16, .f64] true true true (bit x2) ((!x2 || t.ty == .f16 || t.ty == .bf16)) true false false)
  | .frcp t x2 => some (t.row 0x2 0x0A .g (.any 1) .none .none [.f32, .f16, .bf16] false true true (bit x2) ((!x2 || t.ty == .f16 || t.ty == .bf16)) true false false)
  | .frsq t x2 => some (t.row 0x2 0x0B .g (.any 1) .none .none [.f32, .f16, .bf16] false true true (bit x2) ((!x2 || t.ty == .f16 || t.ty == .bf16)) true false false)
  | .fex2 t x2 => some (t.row 0x2 0x0C .g (.any 1) .none .none [.f32, .f16, .bf16] false true true (bit x2) ((!x2 || t.ty == .f16 || t.ty == .bf16)) true false false)
  | .flg2 t x2 => some (t.row 0x2 0x0D .g (.any 1) .none .none [.f32, .f16, .bf16] false true true (bit x2) ((!x2 || t.ty == .f16 || t.ty == .bf16)) true false false)
  | .fcls t x2 => some (t.row 0x2 0x0E .g t.ty.sk .none .none [.f32, .f16, .bf16, .f64] false false false (bit x2) ((!x2 || t.ty == .f16 || t.ty == .bf16)) true false false)
  | .fscl t x2 => some (t.row 0x2 0x0F (.ty t.ty) t.ty.sk (.any 1) .none [.f32, .f16, .bf16, .f64] true true true (bit x2) ((!x2 || t.ty == .f16 || t.ty == .bf16)) true false false)
  | .cvt t src el => some (t.row 0x3 0x00 (.ty t.ty) src.sk .none .none Ty.all true true true (src.code * 16 + el) ((el < src.elems)) true false false)
  | .frnd t => some (t.row 0x3 0x01 (.ty t.ty) t.ty.sk .none .none [.f32, .f16, .bf16, .f64] true false true (0) (true) true false false)
  | .pack t at_ => some (t.row 0x3 0x02 .g (.any 1) (.any 1) (.any 1) [.f16, .bf16, .e4m3, .e5m2, .e2m1, .s8, .n8, .s16, .n16] true true true (at_) ((2 * at_ < t.ty.elems)) true false false)
  | .unpk t at_ => some (t.row 0x3 0x03 .pairFE (.any 1) .none .none [.f16, .bf16, .e4m3, .e5m2, .e2m1, .s8, .n8, .s16, .n16] false false true (at_) ((2 * at_ < t.ty.elems)) true false false)
  | .qz4 t => some (t.row 0x3 0x04 .pairFE (.any 1) .none .none [.f32] false false true (0) (true) true false false)
  | .dqz4 t => some (t.row 0x3 0x05 .g (.any 1) (.any 1) (.any 1) [.f32, .f16, .bf16] true true true (0) (true) true false false)
  | .qz8 t => some (t.row 0x3 0x06 .pairFE (.any 1) .none .none [.f32] false false true (0) (true) true false false)
  | .dqz8 t => some (t.row 0x3 0x07 .g (.any 1) (.any 1) (.any 1) [.f32, .f16, .bf16] true true true (0) (true) true false false)
  | .qres t => some (t.row 0x3 0x08 .pairFE (.any 1) (.any 1) .none [.e4m3, .e5m2, .f16, .bf16] true true true (0) (true) true false false)
  | .cmp t cc comb => some (t.row 0x4 0x00 .pred t.ty.sk t.ty.sk (if comb = .plain then .none else .any 1) [.s32, .n32, .s64, .n64, .s16, .n16, .s8, .n8, .f32, .f64, .f16, .bf16] false false t.ty.isFloat (cc.code + 8 * comb.code) ((t.ty.isFloat || (cc != .num && cc != .nan))) true false false)
  | .tst t z => some (t.row 0x4 0x01 .pred t.ty.sk t.ty.sk .none [.n32, .n64] false false false (bit z) (true) true false false)
  | .pand t => some (t.row 0x4 0x02 .pred (.any 1) (.any 1) .none [.n8] false false false (0) (true) true false false)
  | .por t => some (t.row 0x4 0x03 .pred (.any 1) (.any 1) .none [.n8] false false false (0) (true) true false false)
  | .pxor t => some (t.row 0x4 0x04 .pred (.any 1) (.any 1) .none [.n8] false false false (0) (true) true false false)
  | .pnot t => some (t.row 0x4 0x05 .pred (.any 1) .none .none [.n8] false false false (0) (true) true false false)
  | .pmov t => some (t.row 0x4 0x06 .predOrG (.any 1) .none .none [.n8] false false false (0) (true) true false false)
  | .pmovAll t => some (t.row 0x4 0x06 .p0OrG (if t.d.isP then .any 1 else .none) .none .none [.n8] false false false (1) (true) true false false)
  | .voteAny t => some (t.row 0x4 0x07 .pred (.any 1) .none .none [.n8] false false false (0) (true) true false false)
  | .voteAll t => some (t.row 0x4 0x08 .pred (.any 1) .none .none [.n8] false false false (0) (true) true false false)
  | .ballot t => some (t.row 0x4 0x09 .pairFE (.any 1) .none .none [.n8] false false false (0) (true) true false false)
  | .lanemaskAct t => some (t.row 0x4 0x0A .pairFE .none .none .none [.n8] false false false (0) (true) true false false)
  | .lanemaskAbs t => some (t.row 0x4 0x0A .pairFE (.any 1) .none .none [.n8] false false false (1) (true) true false false)
  | .lanemaskRel t => some (t.row 0x4 0x0A .pairFE (.any 1) .none .none [.n8] false false false (2) (true) true false false)
  | .shflIdx t wd => some (t.row 0x5 0x00 (.ty t.ty) t.ty.sk (.any 1) .none [.n32, .n64] false false false (wd) (wd < 6) true false false)
  | .shflUp t wd => some (t.row 0x5 0x01 (.ty t.ty) t.ty.sk (.any 1) .none [.n32, .n64] false false false (wd) (wd < 6) true false false)
  | .shflDown t wd => some (t.row 0x5 0x02 (.ty t.ty) t.ty.sk (.any 1) .none [.n32, .n64] false false false (wd) (wd < 6) true false false)
  | .shflXor t wd => some (t.row 0x5 0x03 (.ty t.ty) t.ty.sk (.any 1) .none [.n32, .n64] false false false (wd) (wd < 6) true false false)
  | .redl t op => some (t.row 0x5 0x04 (.ty t.ty) t.ty.sk .none .none [.f32, .f64, .s32, .n32, .s64, .n64] t.ty.isFloat true t.ty.isFloat (op.code) ((!t.ty.isFloat || op.code < 3)) true false false)
  | .scanl t op => some (t.row 0x5 0x05 (.ty t.ty) t.ty.sk .none .none [.f32, .f64, .s32, .n32, .s64, .n64] t.ty.isFloat true t.ty.isFloat (op.code) ((!t.ty.isFloat || op.code < 3)) true false false)
  | .bcast t => some (t.row 0x5 0x06 (.ty t.ty) t.ty.sk (.any 1) .none [.n32, .n64] false false false (0) (true) true false false)
  | .qinit t q => some (t.row 0x8 0x08 .zero (.any 1) (.any 1) .none [.n8] false false false (q) (q < 16) false false false)
  | .qpushRsv t q port => some (t.row 0x8 0x09 .g (.any 1) .none .none [.n8] false false false (q + 16 * port) (q < 16 && port < 8) true false false)
  | .qpushPub t q => some (t.row 0x8 0x09 .zero (.gOnly 1 1) .none .none [.n8] false false false (q + 128) (q < 16) false false false)
  | .qpop t q => some (t.row 0x8 0x0A .gOnly .none .none .none [.n8] false false false (q) (q < 16) false false false)
  | .qallow t q port => some (t.row 0x8 0x0B .zero (.any 1) .none .none [.n8] false false false (q + 16 * port) (q < 16 && port < 8) false false false)
  | .qpeek t q => some (t.row 0x8 0x0C .g .none .none .none [.n8] false false false (q) (q < 16) true false false)
  | .xarm t box => some (t.row 0x8 0x0D .gOnly .none .none .none [.n8] false false false (box) (box < 16) false false false)
  | .xpush t box => some (t.row 0x8 0x0E .gSrc (.any 1) .none .none [.n8] false false false (box) (box < 16) false false false)
  | .jmpx t => some (t.row 0xA 0x02 .zero (.gOnly 2 2) .none .none [.n8] false false false (0) (true) false false false)
  | .callx t => some (t.row 0xA 0x04 .pairFE (.gOnly 2 2) .none .none [.n8] false false false (0) (true) true false false)
  | .ret t => some (t.row 0xA 0x05 .zero (.gOnly 2 2) .none .none [.n8] false false false (0) (true) false false false)
  | .exit t => some (t.row 0xA 0x06 .zero .none .none .none [.n8] false false false (0) (true) false false false)
  | .teamNew t => some (t.row 0xA 0x0A .g .none .none .none [.n8] false false false (0) (true) true false false)
  | .teamFree t => some (t.row 0xA 0x0B .zero (.any 1) .none .none [.n8] false false false (0) (true) false false false)
  | .join t => some (t.row 0xA 0x0C .zero (.any 1) .none .none [.n8] false false false (0) (true) false false false)
  | .leave t => some (t.row 0xA 0x0D .zero .none .none .none [.n8] false false false (0) (true) false false false)
  | .regx t => some (t.row 0xA 0x0E .g (.any 1) .none .none [.n8] false false false (0) (true) true true false)
  | .trigger t sc => some (t.row 0xA 0x0F .zero .none .none .none [.n8] false false false (sc.code) (true) false false false)
  | .launch t => some (t.row 0xA 0x10 .pair (.gOnly 2 2) (.any 1) .none [.n8] false false false (0) (true) false false false)
  | .yield t => some (t.row 0xA 0x11 .zero .none .none .none [.n8] false false false (0) (true) false false false)
  | .nop t => some (t.row 0xA 0x12 .zero .none .none .none [.n8] false false false (0) (true) false false false)
  | .tlbinvPage t => some (t.row 0xB 0x02 .zero (.gOnly 2 2) .none .none [.n8] false false false (0) (true) false false true)
  | .tlbinvNonglobal t => some (t.row 0xB 0x02 .zero .none .none .none [.n8] false false false (1) (true) false false true)
  | .tlbinvAll t => some (t.row 0xB 0x02 .zero .none .none .none [.n8] false false false (2) (true) false false true)
  | .tlbsync t => some (t.row 0xB 0x03 .zero .none .none .none [.n8] false false false (0) (true) false false true)
  | .evqPop t => some (t.row 0xB 0x04 .oct (.any 1) .none .none [.n8] false false false (0) (true) false false true)
  | .evqPost t => some (t.row 0xB 0x05 .quadSrc (.any 1) .none .none [.n8] false false false (0) (true) false false true)
  | .trapretResume t => some (t.row 0xB 0x06 .g (.any 1) (.any 1) .none [.n8] false false false (0) (true) false false true)
  | .trapretSkip t => some (t.row 0xB 0x06 .g (.any 1) (.any 1) .none [.n8] false false false (1) (true) false false true)
  | .trapretEnd t => some (t.row 0xB 0x06 .g (.any 1) (.any 1) .none [.n8] false false false (2) (true) false false true)
  | .halt t => some (t.row 0xB 0x07 .zero .none .none .none [.n8] false false false (0) (true) false false true)
  | .wfi t => some (t.row 0xB 0x08 .zero .none .none .none [.n8] false false false (0) (true) false false true)
  | .addImm q imm => some (q.row 0x0 0x20 .g .immOr .immOr (imm) (q.twin && imm < 2 ^ 24) true false)
  | .subImm q imm => some (q.row 0x0 0x21 .g .immOr .immOr (imm) (q.twin && imm < 2 ^ 24) true false)
  | .mulImm q imm => some (q.row 0x0 0x24 .g .immOr .immOr (imm) (q.twin && imm < 2 ^ 24) true false)
  | .minImm q imm => some (q.row 0x0 0x2C .g .immOr .immOr (imm) (q.twin && imm < 2 ^ 24) true false)
  | .maxImm q imm => some (q.row 0x0 0x2D .g .immOr .immOr (imm) (q.twin && imm < 2 ^ 24) true false)
  | .movi q imm => some (q.row 0x1 0x13 .g .imm .none (imm) (imm < 2 ^ 24) true false)
  | .movhi q imm => some (q.row 0x1 0x14 .g .imm (.any 1) (imm) (imm < 2 ^ 24) true false)
  | .movk q imm h => some (q.row 0x1 0x15 .pairFE .imm (.any 2) (imm + 65536 * h) (imm < 65536 && h < 4) true false)
  | .andImm q imm => some (q.row 0x1 0x20 .g .immOr .immOr (imm) (q.twin && imm < 2 ^ 24) true false)
  | .orImm q imm => some (q.row 0x1 0x21 .g .immOr .immOr (imm) (q.twin && imm < 2 ^ 24) true false)
  | .xorImm q imm => some (q.row 0x1 0x22 .g .immOr .immOr (imm) (q.twin && imm < 2 ^ 24) true false)
  | .shlImm q imm => some (q.row 0x1 0x26 .g .immOr .immOr (imm) (q.twin && imm < 2 ^ 24) true false)
  | .shrImm q imm => some (q.row 0x1 0x27 .g .immOr .immOr (imm) (q.twin && imm < 2 ^ 24) true false)
  | .sarImm q imm => some (q.row 0x1 0x28 .g .immOr .immOr (imm) (q.twin && imm < 2 ^ 24) true false)
  | .rolImm q imm => some (q.row 0x1 0x29 .g .immOr .immOr (imm) (q.twin && imm < 2 ^ 24) true false)
  | .rorImm q imm => some (q.row 0x1 0x2A .g .immOr .immOr (imm) (q.twin && imm < 2 ^ 24) true false)
  | .shflIdxImm q n wd => some (q.row 0x5 0x20 .g (.any 1) .imm (n + 64 * wd) (n < 64 && wd < 6) true false)
  | .shflUpImm q n wd => some (q.row 0x5 0x21 .g (.any 1) .imm (n + 64 * wd) (n < 64 && wd < 6) true false)
  | .shflDownImm q n wd => some (q.row 0x5 0x22 .g (.any 1) .imm (n + 64 * wd) (n < 64 && wd < 6) true false)
  | .shflXorImm q n wd => some (q.row 0x5 0x23 .g (.any 1) .imm (n + 64 * wd) (n < 64 && wd < 6) true false)
  | .mshape q => some (q.row 0x9 0x00 .zero (.any 1) .none (0) (true) false false)
  | .mwld q w s cl fmt kn => some (q.row 0x9 0x01 .zero (.any 1) (.any 1) (kn * 64 + fmt.code * 256 + cl * 4096 + s * 65536 + w * 1048576) (w < 16 && s < 16 && cl < 16 && kn < 4 && (fmt == .bx4 || s == 0)) false false)
  | .mwldNoc q w s fmt kn => some (q.row 0x9 0x01 .zero .none .none (32 + kn * 64 + fmt.code * 256 + s * 65536 + w * 1048576) (w < 16 && s < 16 && kn < 4 && (fmt == .bx4 || s == 0)) false false)
  | .mmac q => some (q.row 0x9 0x02 .zero (.any 1) .none (0) (true) false false)
  | .mstat q wait clr => some (q.row 0x9 0x03 .g .none .none (bit wait + 2 * bit clr) (true) true false)
  | .aeGo q n => some (q.row 0x9 0x08 .zero (.gOnly 2 2) .none (n * 1048576) (n < 16) false false)
  | .aeHalt q => some (q.row 0x9 0x09 .zero .none .none (0) (true) false false)
  | .cpGo q dd ss cl => some (q.row 0x9 0x10 .zero (.any 1) (.any 1) (cl * 4096 + ss * 65536 + dd * 1048576) (dd < 16 && ss < 16 && cl < 16) false false)
  | .cpGoNoc q dd ss => some (q.row 0x9 0x10 .zero .none .none (2048 + ss * 65536 + dd * 1048576) (dd < 16 && ss < 16) false false)
  | .cpFill q dd cl => some (q.row 0x9 0x11 .quadSrc (.any 1) (.any 1) (cl * 4096 + dd * 1048576) (dd < 16 && cl < 16) false false)
  | .cpFillNoc q dd => some (q.row 0x9 0x11 .quadSrc .none .none (2048 + dd * 1048576) (dd < 16) false false)
  | .collGo q => some (q.row 0x9 0x18 .zero (.gOnly 2 2) .none (0) (true) false true)
  | .collGrp q n => some (q.row 0x9 0x19 .zero (.gOnly 2 2) .none (n) (n < 64) false true)
  | .br q off => some (q.row 0xA 0x00 .zero .none .none (off) (off < 2 ^ 24) false false)
  | .jmp q off => some (q.row 0xA 0x01 .zero .none .none (off) (off < 2 ^ 24) false false)
  | .call q off => some (q.row 0xA 0x03 .pairFE .none .none (off) (off < 2 ^ 24) true false)
  | .spawn q off => some (q.row 0xA 0x08 .zero (.any 1) (.any 1) (off) (off < 2 ^ 24) false false)
  | .spawnHome q off => some (q.row 0xA 0x09 .pairSrc (.any 1) (.any 1) (off) (off < 2 ^ 24) false false)
  | .slotq q which n => some (q.row 0xA 0x13 .pairFE .none .none (which + 16 * n) (which < 6 && n < 256) true false)
  | .trap q code => some (q.row 0xA 0x14 .zero .none .none (code) (code < 2 ^ 24) false false)
  | .sysrd q reg b32 => some (q.row 0xB 0x00 (if b32 then .g else .pairFE) .none .none (reg * 4096 + bit b32) (reg < 4096) true true)
  | .syswr q reg b32 => some (q.row 0xB 0x01 .zero (if b32 then .gOnly 1 1 else .gOnly 2 2) .none (reg * 4096 + bit b32) (reg < 4096) false true)
  | .clopIinv q => some (q.row 0xB 0x09 .zero (.gOnly 2 2) .none (0) (true) false true)
  | .clopIall q => some (q.row 0xB 0x09 .zero .none .none (4096) (true) false true)
  | .clopL1wb q => some (q.row 0xB 0x09 .zero .none .none (8192) (true) false true)
  | .clopL1inv q => some (q.row 0xB 0x09 .zero .none .none (12288) (true) false true)
  | .errinjFlip1 q arr bt => some (q.row 0xB 0x0A .zero (.gOnly 2 2) (.any 1) (1 + 4 * bt + 4096 * arr) (arr < 10 && bt < 64) false true)
  | .errinjFlip2 q arr bt => some (q.row 0xB 0x0A .zero (.gOnly 2 2) (.any 1) (2 + 4 * bt + 4096 * arr) (arr < 10 && bt < 64) false true)
  | .errinjDisarm q arr bt => some (q.row 0xB 0x0A .zero (.gOnly 2 2) (.any 1) (0 + 4 * bt + 4096 * arr) (arr < 10 && bt < 64) false true)
  | .pmReqQuiesce q => some (q.row 0xB 0x0B .g (.any 1) .none (4096) (true) false true)
  | .pmReqRelease q => some (q.row 0xB 0x0B .g (.any 1) .none (8192) (true) false true)
  | .pmReqEnterM2 q => some (q.row 0xB 0x0B .g (.any 1) .none (12288) (true) false true)
  | .pmReqSetDemand q => some (q.row 0xB 0x0B .g (.any 1) .none (16384) (true) false true)
  | .secCallSecurityState q => some (q.row 0xB 0x0C .pair (.any 2) .none (1) (true) false true)
  | .secCallAttest q => some (q.row 0xB 0x0C .pair (.any 2) .none (2) (true) false true)
  | .secCallDeriveKey q => some (q.row 0xB 0x0C .pair (.any 2) .none (3) (true) false true)
  | .secCallEraseKeys q => some (q.row 0xB 0x0C .pair (.any 2) .none (4) (true) false true)
  | .secCallAuthDebug q => some (q.row 0xB 0x0C .pair (.any 2) .none (5) (true) false true)
  | .secCallDebugChallenge q => some (q.row 0xB 0x0C .pair (.any 2) .none (6) (true) false true)
  | .secCallLockDebug q => some (q.row 0xB 0x0C .pair (.any 2) .none (7) (true) false true)
  | .secCallOther q svc => some (q.row 0xB 0x0C .pair (.any 2) .none (svc) (svc < 65536 && (svc == 0 || 7 < svc)) false true)
  | .brk q code => some (q.row 0xB 0x0D .zero .none .none (code) (code < 2 ^ 24) false true)
  | .ld m => some (m.row 0x6 0x00 (.dataFE m.w) (.any 1) (.any 1) [.plain, .acq] (decide (m.w ≤ 4)) true false)
  | .st m => some (m.row 0x6 0x01 (.dataSrc m.w) (.any 1) (.any 1) [.plain, .rel] (decide (m.w ≤ 4)) true false)
  | .prf m => some (m.row 0x6 0x02 .zero (.any 1) (.any 1) [.plain] (decide (m.w ≤ 4)) true false)
  | .recLd m => some (m.row 0x6 0x03 .slot (.any 1) (.any 1) [.plain, .acq] (true) true false)
  | .recSt m => some (m.row 0x6 0x04 .slot (.any 1) (.any 1) [.plain, .rel] (true) true false)
  | .recMk m => some (m.row 0x6 0x05 .slot (.gOnly 8 8) .none [.plain] (decide (m.slot = 0 ∧ m.disp = 0)) false false)
  | .recAdj m => some (m.row 0x6 0x06 .slot (.any 1) (.any 1) [.plain] (true) false false)
  | .home m => some (m.row 0x6 0x07 .g (.any 1) (.any 1) [.plain] (decide (m.w ≤ 4)) true false)
  | .inv m => some (m.row 0x6 0x08 .zero (.any 1) (.any 1) [.plain] (decide (m.w ≤ 4)) false false)
  | .wb m => some (m.row 0x6 0x09 .zero (.any 1) (.any 1) [.plain] (decide (m.w ≤ 4)) false false)
  | .atomAdd m => some (m.row 0x7 0x00 (.atomD m.w) (.any 1) (.any 1) [.plain, .acq, .rel, .acqrel] (decide ((m.w = 2 ∨ m.w = 3))) true false)
  | .atomSub m => some (m.row 0x7 0x01 (.atomD m.w) (.any 1) (.any 1) [.plain, .acq, .rel, .acqrel] (decide ((m.w = 2 ∨ m.w = 3))) true false)
  | .atomMinU m => some (m.row 0x7 0x02 (.atomD m.w) (.any 1) (.any 1) [.plain, .acq, .rel, .acqrel] (decide ((m.w = 2 ∨ m.w = 3))) true false)
  | .atomMaxU m => some (m.row 0x7 0x03 (.atomD m.w) (.any 1) (.any 1) [.plain, .acq, .rel, .acqrel] (decide ((m.w = 2 ∨ m.w = 3))) true false)
  | .atomAnd m => some (m.row 0x7 0x04 (.atomD m.w) (.any 1) (.any 1) [.plain, .acq, .rel, .acqrel] (decide ((m.w = 2 ∨ m.w = 3))) true false)
  | .atomOr m => some (m.row 0x7 0x05 (.atomD m.w) (.any 1) (.any 1) [.plain, .acq, .rel, .acqrel] (decide ((m.w = 2 ∨ m.w = 3))) true false)
  | .atomXor m => some (m.row 0x7 0x06 (.atomD m.w) (.any 1) (.any 1) [.plain, .acq, .rel, .acqrel] (decide ((m.w = 2 ∨ m.w = 3))) true false)
  | .atomXchg m => some (m.row 0x7 0x07 (.atomD m.w) (.any 1) (.any 1) [.plain, .acq, .rel, .acqrel] (decide ((m.w = 2 ∨ m.w = 3))) true false)
  | .atomIncw m => some (m.row 0x7 0x08 (.atomD m.w) (.any 1) (.any 1) [.plain, .acq, .rel, .acqrel] (decide ((m.w = 2 ∨ m.w = 3))) true false)
  | .atomDecw m => some (m.row 0x7 0x09 (.atomD m.w) (.any 1) (.any 1) [.plain, .acq, .rel, .acqrel] (decide ((m.w = 2 ∨ m.w = 3))) true false)
  | .cas m => some (m.row 0x7 0x0A (.casD m.w) (.any 1) (.any 1) [.plain, .acq, .rel, .acqrel] (decide ((m.w = 2 ∨ m.w = 3))) true false)
  | .atomMinS m => some (m.row 0x7 0x0B (.atomD m.w) (.any 1) (.any 1) [.plain, .acq, .rel, .acqrel] (decide ((m.w = 2 ∨ m.w = 3))) true false)
  | .atomMaxS m => some (m.row 0x7 0x0C (.atomD m.w) (.any 1) (.any 1) [.plain, .acq, .rel, .acqrel] (decide ((m.w = 2 ∨ m.w = 3))) true false)
  | .redAdd m => some (m.row 0x7 0x10 (.redD m.w) (.any 1) (.any 1) [.plain, .rel] (decide ((m.w = 2 ∨ m.w = 3))) true false)
  | .redSub m => some (m.row 0x7 0x11 (.redD m.w) (.any 1) (.any 1) [.plain, .rel] (decide ((m.w = 2 ∨ m.w = 3))) true false)
  | .redMinU m => some (m.row 0x7 0x12 (.redD m.w) (.any 1) (.any 1) [.plain, .rel] (decide ((m.w = 2 ∨ m.w = 3))) true false)
  | .redMaxU m => some (m.row 0x7 0x13 (.redD m.w) (.any 1) (.any 1) [.plain, .rel] (decide ((m.w = 2 ∨ m.w = 3))) true false)
  | .redAnd m => some (m.row 0x7 0x14 (.redD m.w) (.any 1) (.any 1) [.plain, .rel] (decide ((m.w = 2 ∨ m.w = 3))) true false)
  | .redOr m => some (m.row 0x7 0x15 (.redD m.w) (.any 1) (.any 1) [.plain, .rel] (decide ((m.w = 2 ∨ m.w = 3))) true false)
  | .redXor m => some (m.row 0x7 0x16 (.redD m.w) (.any 1) (.any 1) [.plain, .rel] (decide ((m.w = 2 ∨ m.w = 3))) true false)
  | .redMinS m => some (m.row 0x7 0x17 (.redD m.w) (.any 1) (.any 1) [.plain, .rel] (decide ((m.w = 2 ∨ m.w = 3))) true false)
  | .redMaxS m => some (m.row 0x7 0x18 (.redD m.w) (.any 1) (.any 1) [.plain, .rel] (decide ((m.w = 2 ∨ m.w = 3))) true false)
  | .atomAddF m => some (m.row 0x7 0x20 (.atomD m.w) (.any 1) (.any 1) [.plain, .acq, .rel, .acqrel] (decide ((1 ≤ m.w ∧ m.w ≤ 3))) true false)
  | .atomSubF m => some (m.row 0x7 0x21 (.atomD m.w) (.any 1) (.any 1) [.plain, .acq, .rel, .acqrel] (decide ((1 ≤ m.w ∧ m.w ≤ 3))) true false)
  | .atomMinF m => some (m.row 0x7 0x22 (.atomD m.w) (.any 1) (.any 1) [.plain, .acq, .rel, .acqrel] (decide ((1 ≤ m.w ∧ m.w ≤ 3))) true false)
  | .atomMaxF m => some (m.row 0x7 0x23 (.atomD m.w) (.any 1) (.any 1) [.plain, .acq, .rel, .acqrel] (decide ((1 ≤ m.w ∧ m.w ≤ 3))) true false)
  | .redAddF m => some (m.row 0x7 0x30 (.redD m.w) (.any 1) (.any 1) [.plain, .rel] (decide ((1 ≤ m.w ∧ m.w ≤ 3))) true false)
  | .redSubF m => some (m.row 0x7 0x31 (.redD m.w) (.any 1) (.any 1) [.plain, .rel] (decide ((1 ≤ m.w ∧ m.w ≤ 3))) true false)
  | .redMinF m => some (m.row 0x7 0x32 (.redD m.w) (.any 1) (.any 1) [.plain, .rel] (decide ((1 ≤ m.w ∧ m.w ≤ 3))) true false)
  | .redMaxF m => some (m.row 0x7 0x33 (.redD m.w) (.any 1) (.any 1) [.plain, .rel] (decide ((1 ≤ m.w ∧ m.w ≤ 3))) true false)
  | .dadd m => some (m.row 0x7 0x38 .gSrc (.any 1) (.any 1) [.plain] (decide (m.w = 0 ∧ m.rt = .own)) true false)
  | .dld m => some (m.row 0x7 0x39 .gBoth (.any 1) (.any 1) [.plain, .acq] (decide (m.w = 0 ∧ m.rt = .own)) true false)
  | .ddrain m => some (m.row 0x7 0x3A .zero (.any 1) (.any 1) [.plain] (decide (m.w = 0 ∧ m.rt = .own)) true false)
  | .dqry m => some (m.row 0x7 0x3B .pair (.any 1) (.any 1) [.plain] (decide (m.w = 0 ∧ m.rt = .own)) true false)
  | .dldE m => some (m.row 0x7 0x3C .gBoth (.any 1) (.any 1) [.plain, .acq] (decide (m.w = 0 ∧ m.rt = .own)) true false)
  | .fenceAcq m => some (m.row 0x8 0x00 .zero .none .none [.acq] (decide (m.w = 0 ∧ m.rt = .own ∧ m.slot ≤ 1 ∧ m.disp = 0)) false true)
  | .fenceRel m => some (m.row 0x8 0x00 .zero .none .none [.rel] (decide (m.w = 0 ∧ m.rt = .own ∧ m.slot ≤ 1 ∧ m.disp = 0)) false true)
  | .fenceAcqrel m => some (m.row 0x8 0x00 .zero .none .none [.acqrel] (decide (m.w = 0 ∧ m.rt = .own ∧ m.slot ≤ 1 ∧ m.disp = 0)) false true)
  | .claspInit m => some (m.row 0x8 0x01 .pairSrc (.any 1) (.any 1) [.plain] (decide (m.w = 4 ∧ m.rt = .own)) false false)
  | .claspArrive m => some (m.row 0x8 0x02 .g (.any 1) (.any 1) [.plain] (decide (m.w = 4 ∧ m.rt = .own)) false false)
  | .claspExpect m => some (m.row 0x8 0x03 .pairSrc (.any 1) (.any 1) [.plain] (decide (m.w = 4 ∧ m.rt = .own)) false false)
  | .claspWait m => some (m.row 0x8 0x04 .gSrc (.any 1) (.any 1) [.plain] (decide (m.w = 4 ∧ m.rt = .own)) false false)
  | .claspTwait m => some (m.row 0x8 0x05 .quadBoth (.any 1) (.any 1) [.plain] (decide (m.w = 4 ∧ m.rt = .own)) false false)
  | .claspTest m => some (m.row 0x8 0x06 .pairBoth (.any 1) (.any 1) [.plain] (decide (m.w = 4 ∧ m.rt = .own)) false false)
  | .impreciseStoreFault _ => none
  | .tombFree _ => none
  | .fixedLatencyWriteback _ => none
  | .longLatencyComplete _ => none
  | .instructionFetchFill _ _ => none
  | .reconvergenceTimeout _ => none
  | .starvation _ => none
  | .urgencyWindowEnd _ => none
  | .launchLineWrite _ _ _ _ => none
  | .launchGoWrite _ _ _ => none
  | .launchTake _ _ => none
  | .predecessorSatisfied _ => none
  | .rootDistribute _ => none
  | .binTimeout _ _ => none
  | .gangForm _ _ _ => none
  | .spillReturn _ _ => none
  | .launchRetire _ => none
  | .gangFree _ => none
  | .teamReserveRefill _ => none
  | .regxGrant _ => none
  | .regxEvict _ _ => none
  | .gangSave _ => none
  | .gangRestore _ _ _ => none
  | .longFaultResume _ => none
  | .migrationEpoch _ => none
  | .migrationDone _ => none
  | .tlbInvalidationArrive _ _ => none
  | .ownerRecall _ => none
  | .upgrade _ _ => none
  | .regionMerge _ _ => none
  | .leaseHoldEnd _ => none
  | .timeSkew _ _ => none
  | .goldenRotate _ _ => none
  | .bangleDeliver _ => none
  | .forcedPublish _ _ => none
  | .forcedPublishAck _ _ => none
  | .writeForwardApply _ => none
  | .wsstateTakeEffect _ => none
  | .aeStreamBlock _ _ => none
  | .queueSlotRelease _ _ _ => none
  | .qpopDeliver _ _ _ => none
  | .cpCommandComplete _ => none
  | .cpCommandFault _ => none
  | .xpushDeliver _ _ => none
  | .pushBoxFree _ _ => none
  | .mwldStart _ => none
  | .mwldComplete _ => none
  | .mwldFault _ => none
  | .mmacStart _ => none
  | .mmacPass _ => none
  | .mmacComplete _ => none
  | .mmacFault _ => none
  | .mshapeComplete _ => none
  | .multicastTimeout _ => none
  | .bandPowerOn _ _ => none
  | .claspAddBytes _ => none
  | .claspWakeArrive _ _ => none
  | .claspPoll _ => none
  | .claspTwaitTimeout _ => none
  | .slewAdmit => none
  | .shareRequest _ => none
  | .shareGrant _ => none
  | .forcedDrain _ => none
  | .deltaWrite _ => none
  | .deltaAck _ => none
  | .drainAck _ => none
  | .shareReturn _ => none
  | .toleranceQuery _ => none
  | .toleranceClear _ => none
  | .toleranceDone _ => none
  | .driftLineEvict _ _ => none
  | .drent0Commit _ => none
  | .drent0Retire _ => none
  | .drent1Stage _ => none
  | .collChunk _ _ _ => none
  | .collChunkCommit _ => none
  | .collNeighbourTimeout _ _ => none
  | .memberDown _ _ => none
  | .collComplete _ => none
  | .collEndFault _ => none
  | .peerRequest _ _ _ _ => none
  | .peerCompletionTimeout _ => none
  | .wavelengthFail _ => none
  | .linkDown _ => none
  | .linkUp _ _ => none
  | .flitReceive _ _ _ => none
  | .podBudgetTick _ => none
  | .demandMessage _ _ => none
  | .slotDrainWindow => none
  | .slotStart => none
  | .slotEnd => none
  | .slotExtend => none
  | .carriedWorkPiece _ => none
  | .calendarWrite _ _ => none
  | .calendarActivate => none
  | .ringhtWrite _ => none
  | .ringmapWrite _ => none
  | .ringMonitorSample _ _ _ => none
  | .corbindWrite _ _ => none
  | .lprioWrite _ => none
  | .lswitchOut _ _ => none
  | .lswitchIn _ _ => none
  | .lswitchEnd _ _ => none
  | .quiesceMarkerReturn _ => none
  | .lswitchDonePost => none
  | .watchdogExpire _ => none
  | .evqOverflowPost _ => none
  | .evqHeadHostWrite _ _ => none
  | .errorDetected _ _ _ _ _ _ _ => none
  | .errlogClear _ _ _ => none
  | .governorTick _ _ _ => none
  | .columnCapTick _ => none
  | .fastThrottleOn => none
  | .fastThrottleOff => none
  | .cStateEnter _ => none
  | .cStateExit _ => none
  | .m1Enter => none
  | .m1Exit => none
  | .quiesceQuiet _ => none
  | .ctlWakeWrite _ _ => none
  | .brownoutEntry => none
  | .brownAssert => none
  | .brownRelease => none
  | .throtSignal _ => none
  | .brownoutResume _ => none
  | .powerOnReset _ => none
  | .bootimgWrite _ => none
  | .runtimeVerifyDone _ _ => none
  | .securityAlarm _ => none
  | .apertureRead _ _ => none
  | .apertureWrite _ _ => none
  | .ddataRead => none
  | .ddataWrite _ => none
  | .drdataRead => none
  | .dccWrite _ => none
  | .dctlWrite _ => none
  | .dhactResume => none
  | .dhactSkip => none
  | .dhactEnd => none
  | .registerWrite _ _ _ _ => none
  | .timeSkewRecovered _ => none

/-- What an event's operands must satisfy to name something the part has. -/
def eventOk : Instr → Bool
  | .impreciseStoreFault _ => true
  | .tombFree _ => true
  | .fixedLatencyWriteback _ => true
  | .longLatencyComplete _ => true
  | .instructionFetchFill _ _ => true
  | .reconvergenceTimeout _ => true
  | .starvation _ => true
  | .urgencyWindowEnd core => decide (core < 256)
  | .launchLineWrite col line off bytes => decide (col < 64 ∧ line < 16 ∧ off + bytes.length ≤ 120)
  | .launchGoWrite col line _ => decide (col < 64 ∧ line < 16)
  | .launchTake col line => decide (col < 64 ∧ line < 16)
  | .predecessorSatisfied _ => true
  | .rootDistribute _ => true
  | .binTimeout core bin => decide (core < 256 ∧ bin < 32)
  | .gangForm core bin part => decide (core < 256 ∧ bin < 32 ∧ part < 8)
  | .spillReturn _ _ => true
  | .launchRetire _ => true
  | .gangFree _ => true
  | .teamReserveRefill core => decide (core < 256)
  | .regxGrant _ => true
  | .regxEvict core part => decide (core < 256 ∧ part < 8)
  | .gangSave _ => true
  | .gangRestore col _ part => decide (col < 64 ∧ part < 8)
  | .longFaultResume _ => true
  | .migrationEpoch col => decide (col < 64)
  | .migrationDone _ => true
  | .tlbInvalidationArrive _ _ => true
  | .ownerRecall _ => true
  | .upgrade _ _ => true
  | .regionMerge _ _ => true
  | .leaseHoldEnd _ => true
  | .timeSkew cache _ => decide (cache < 320)
  | .goldenRotate _ _ => true
  | .bangleDeliver _ => true
  | .forcedPublish cache _ => decide (cache < 320)
  | .forcedPublishAck cache _ => decide (cache < 320)
  | .writeForwardApply _ => true
  | .wsstateTakeEffect half => decide (half < 2)
  | .aeStreamBlock core stream => decide (core < 256 ∧ stream < 16)
  | .queueSlotRelease core q _ => decide (core < 256 ∧ q < 16)
  | .qpopDeliver core q _ => decide (core < 256 ∧ q < 16)
  | .cpCommandComplete _ => true
  | .cpCommandFault _ => true
  | .xpushDeliver core box => decide (core < 256 ∧ box < 16)
  | .pushBoxFree core box => decide (core < 256 ∧ box < 16)
  | .mwldStart core => decide (core < 256)
  | .mwldComplete core => decide (core < 256)
  | .mwldFault core => decide (core < 256)
  | .mmacStart core => decide (core < 256)
  | .mmacPass core => decide (core < 256)
  | .mmacComplete core => decide (core < 256)
  | .mmacFault core => decide (core < 256)
  | .mshapeComplete core => decide (core < 256)
  | .multicastTimeout core => decide (core < 256)
  | .bandPowerOn core band => decide (core < 256 ∧ band < 4)
  | .claspAddBytes _ => true
  | .claspWakeArrive col _ => decide (col < 64)
  | .claspPoll _ => true
  | .claspTwaitTimeout _ => true
  | .slewAdmit => true
  | .shareRequest _ => true
  | .shareGrant _ => true
  | .forcedDrain _ => true
  | .deltaWrite _ => true
  | .deltaAck _ => true
  | .drainAck _ => true
  | .shareReturn _ => true
  | .toleranceQuery _ => true
  | .toleranceClear _ => true
  | .toleranceDone _ => true
  | .driftLineEvict cache _ => decide (cache < 320)
  | .drent0Commit _ => true
  | .drent0Retire _ => true
  | .drent1Stage _ => true
  | .collChunk _ _ _ => true
  | .collChunkCommit _ => true
  | .collNeighbourTimeout _ _ => true
  | .memberDown _ _ => true
  | .collComplete _ => true
  | .collEndFault _ => true
  | .peerRequest _ _ n _ => decide (n ≤ 128)
  | .peerCompletionTimeout _ => true
  | .wavelengthFail link => decide (link < 32)
  | .linkDown link => decide (link < 32)
  | .linkUp link peer => decide (link < 32 ∧ peer < 1024)
  | .flitReceive link _ _ => decide (link < 32)
  | .podBudgetTick demand => decide (200 ≤ demand ∧ demand ≤ 4000)
  | .demandMessage chip demand => decide (chip < 1024 ∧ demand < 65536)
  | .slotDrainWindow => true
  | .slotStart => true
  | .slotEnd => true
  | .slotExtend => true
  | .carriedWorkPiece ns => decide (ns ≤ 64)
  | .calendarWrite reg _ => decide (0x40 ≤ reg ∧ reg ≤ 0x44)
  | .calendarActivate => true
  | .ringhtWrite _ => true
  | .ringmapWrite _ => true
  | .ringMonitorSample die _ _ => decide (die < 4)
  | .corbindWrite col _ => decide (col < 64)
  | .lprioWrite _ => true
  | .lswitchOut col _ => decide (col < 64)
  | .lswitchIn col _ => decide (col < 64)
  | .lswitchEnd col _ => decide (col < 64)
  | .quiesceMarkerReturn _ => true
  | .lswitchDonePost => true
  | .watchdogExpire _ => true
  | .evqOverflowPost col => decide (col < 64)
  | .evqHeadHostWrite q head => decide (q < 256 ∧ head < 65536)
  | .errorDetected arr col core _ _ _ _ => decide (arr < 10 ∧ col < 64 ∧ core < 4)
  | .errlogClear col core arr => decide (col < 64 ∧ core < 4 ∧ arr < 10)
  | .governorTick col _ _ => decide (col < 64)
  | .columnCapTick draws => decide (draws.length = 64)
  | .fastThrottleOn => true
  | .fastThrottleOff => true
  | .cStateEnter col => decide (col < 64)
  | .cStateExit col => decide (col < 64)
  | .m1Enter => true
  | .m1Exit => true
  | .quiesceQuiet col => decide (col < 64)
  | .ctlWakeWrite _ _ => true
  | .brownoutEntry => true
  | .brownAssert => true
  | .brownRelease => true
  | .throtSignal _ => true
  | .brownoutResume _ => true
  | .powerOnReset _ => true
  | .bootimgWrite _ => true
  | .runtimeVerifyDone _ _ => true
  | .securityAlarm _ => true
  | .apertureRead off n => decide (off + n ≤ 2 ^ 36 ∧ n ≤ 4096)
  | .apertureWrite off bytes => decide (off + bytes.length ≤ 2 ^ 36 ∧ bytes.length ≤ 4096)
  | .ddataRead => true
  | .ddataWrite _ => true
  | .drdataRead => true
  | .dccWrite _ => true
  | .dctlWrite _ => true
  | .dhactResume => true
  | .dhactSkip => true
  | .dhactEnd => true
  | .registerWrite reg col core _ => decide ((reg < 4096 ∨ (65536 ≤ reg ∧ reg < 131072)) ∧ col < 64 ∧ core < 4)
  | .timeSkewRecovered x => decide (x.cache < 320)
  | _ => false

/-- A well-formed instruction: a word that meets its row, or an event whose operands name something. -/
def wf (i : Instr) : Bool :=
  match i.row with
  | some r => r.check
  | none => i.eventOk

/-- The instruction is an instruction word, not an event. -/
def isWord (i : Instr) : Bool := i.row.isSome

end Instr

end Sys2Proof
end

