-- ==== Sys2Proof/Decode.lean ====
section
/-! DEFINITION. The decoder of 80-bit words and the encoder (02 R53-R60; 03 R72-R76), and the block header (02 R49). -/

namespace Sys2Proof

/-- The fields of a word (R53), each a number. -/
structure Raw where
  cls : Nat
  op : Nat
  p : Nat
  n : Nat
  pd : Nat
  sa : Nat
  se : Nat
  wm : Nat
  g : Nat
  d : Nat
  a : Nat
  b : Nat
  tail : Nat
  deriving DecidableEq, Repr

/-- The fields of the low 80 bits of a number (R53). -/
def Raw.ofNat (w : Nat) : Raw where
  cls := w / 2 ^ 76 % 16
  op := w / 2 ^ 70 % 64
  p := w / 2 ^ 67 % 8
  n := w / 2 ^ 66 % 2
  pd := w / 2 ^ 63 % 8
  sa := w / 2 ^ 60 % 8
  se := w / 2 ^ 59 % 2
  wm := w / 2 ^ 51 % 256
  g := w / 2 ^ 48 % 8
  d := w / 2 ^ 40 % 256
  a := w / 2 ^ 32 % 256
  b := w / 2 ^ 24 % 256
  tail := w % 2 ^ 24

/-- The word that holds the fields (R53). -/
def Raw.toNat (r : Raw) : Nat :=
  r.cls * 2 ^ 76 + r.op * 2 ^ 70 + r.p * 2 ^ 67 + r.n * 2 ^ 66 + r.pd * 2 ^ 63 + r.sa * 2 ^ 60 + r.se * 2 ^ 59 +
    r.wm * 2 ^ 51 + r.g * 2 ^ 48 + r.d * 2 ^ 40 + r.a * 2 ^ 32 + r.b * 2 ^ 24 + r.tail

/-- The fields a row gives its word (R53, R55). -/
def Row.raw (r : Row) : Raw where
  cls := r.cls
  op := r.op
  p := r.c.p
  n := bit r.c.n
  pd := r.c.pd
  sa := r.c.sa
  se := bit r.c.se
  wm := r.c.wm
  g := r.c.g
  d := r.d.code
  a := r.a.code
  b := r.b.code
  tail := r.tail

/-- The 80-bit word of an instruction; an event has none. -/
def Instr.encode (i : Instr) : Option Nat := i.row.map fun r => r.raw.toNat

/-- The control fields of a word (R53). -/
def Raw.ctl (r : Raw) : Ctl where
  p := r.p
  n := decide (r.n = 1)
  pd := r.pd
  sa := r.sa
  se := decide (r.se = 1)
  wm := r.wm
  g := r.g

/-- The T-format fields of a word; type code 0xF is reserved (R18, R55). -/
def Raw.tword (r : Raw) : Option TWord := do
  let d ← Dst.ofCode r.d
  let ty ← Ty.ofCode (r.tail / 4096 % 16)
  return { c := r.ctl, d := d, a := .ofCode r.a, b := .ofCode r.b, s := .ofCode (r.tail / 65536 % 256), ty := ty,
           rnd := .ofCode (r.tail / 1024), sat := decide (r.tail / 512 % 2 = 1),
           ftz := decide (r.tail / 256 % 2 = 1) }

/-- The fields of a word beside its TAIL (R55). -/
def Raw.qword (r : Raw) : Option QWord := do
  let d ← Dst.ofCode r.d
  return { c := r.ctl, d := d, a := .ofCode r.a, b := .ofCode r.b }

/-- The M-format fields of a word (R55, R56). -/
def Raw.mword (r : Raw) : Option MWord := do
  let d ← Dst.ofCode r.d
  return { c := r.ctl, d := d, a := .ofCode r.a, b := .ofCode r.b, slot := r.tail / 1048576 % 16,
           rt := .ofCode (r.tail / 262144), sc := .ofCode (r.tail / 32768), w := r.tail / 4096 % 8,
           ord := .ofCode (r.tail / 1024), disp := r.tail % 1024 }

/-- The T-format words of class 0x0: integer arithmetic (R167). `m` is MOD [7:0]. -/
def parseT0 (op m : Nat) (t : TWord) : Option Instr :=
  match op with
  | 0x00 => some (.add t)
  | 0x01 => some (.sub t)
  | 0x02 => some (.addc t (m % 8))
  | 0x03 => some (.subb t (m % 8))
  | 0x04 => some (.mul t)
  | 0x05 => some (.mulhi t)
  | 0x06 => some (.mad t)
  | 0x07 => some (.madhi t)
  | 0x08 => some (.div t)
  | 0x09 => some (.rem t)
  | 0x0A => some (.neg t)
  | 0x0B => some (.abs t)
  | 0x0C => some (.min t)
  | 0x0D => some (.max t)
  | 0x0E => some (.lea t (m % 8))
  | 0x0F => some (.sad t)
  | 0x10 => some (.dp4 t (decide (m % 2 = 1)))
  | _ => none

/-- The words of class 0x0 in the other formats, with the 24 bits of TAIL. -/
def parseQ0 (op t24 : Nat) (q : QWord) : Option Instr :=
  match op with
  | 0x20 => some (.addImm q t24)
  | 0x21 => some (.subImm q t24)
  | 0x24 => some (.mulImm q t24)
  | 0x2C => some (.minImm q t24)
  | 0x2D => some (.maxImm q t24)
  | _ => none

/-- The T-format words of class 0x1: bits, shifts, moves (R171). `m` is MOD [7:0]. -/
def parseT1 (op m : Nat) (t : TWord) : Option Instr :=
  match op with
  | 0x00 => some (.and t)
  | 0x01 => some (.or t)
  | 0x02 => some (.xor t)
  | 0x03 => some (.andn t)
  | 0x04 => some (.orn t)
  | 0x05 => some (.not t)
  | 0x06 => some (.shl t)
  | 0x07 => some (.shr t)
  | 0x08 => some (.sar t)
  | 0x09 => some (.rol t)
  | 0x0A => some (.ror t)
  | 0x0B => some (.bfe t)
  | 0x0C => some (.bfi t)
  | 0x0D => some (.brev t)
  | 0x0E => some (.clz t)
  | 0x0F => some (.ctz t)
  | 0x10 => some (.popc t)
  | 0x11 => some (.perm t)
  | 0x12 => some (.mov t)
  | 0x16 => some (.sel t)
  | _ => none

/-- The words of class 0x1 in the other formats, with the 24 bits of TAIL. -/
def parseQ1 (op t24 : Nat) (q : QWord) : Option Instr :=
  match op with
  | 0x13 => some (.movi q t24)
  | 0x14 => some (.movhi q t24)
  | 0x15 => some (.movk q (t24 % 65536) (t24 / 65536))
  | 0x20 => some (.andImm q t24)
  | 0x21 => some (.orImm q t24)
  | 0x22 => some (.xorImm q t24)
  | 0x26 => some (.shlImm q t24)
  | 0x27 => some (.shrImm q t24)
  | 0x28 => some (.sarImm q t24)
  | 0x29 => some (.rolImm q t24)
  | 0x2A => some (.rorImm q t24)
  | _ => none

/-- The T-format words of class 0x2: floating arithmetic (R188). `m` is MOD [7:0]. -/
def parseT2 (op m : Nat) (t : TWord) : Option Instr :=
  match op with
  | 0x00 => some (.fadd t (decide (m % 2 = 1)))
  | 0x01 => some (.fsub t (decide (m % 2 = 1)))
  | 0x02 => some (.fmul t (decide (m % 2 = 1)))
  | 0x03 => some (.fma t (decide (m % 2 = 1)))
  | 0x04 => some (.fmin t (decide (m % 2 = 1)))
  | 0x05 => some (.fmax t (decide (m % 2 = 1)))
  | 0x06 => some (.fabs t (decide (m % 2 = 1)))
  | 0x07 => some (.fneg t (decide (m % 2 = 1)))
  | 0x08 => some (.fdiv t (decide (m % 2 = 1)))
  | 0x09 => some (.fsqrt t (decide (m % 2 = 1)))
  | 0x0A => some (.frcp t (decide (m % 2 = 1)))
  | 0x0B => some (.frsq t (decide (m % 2 = 1)))
  | 0x0C => some (.fex2 t (decide (m % 2 = 1)))
  | 0x0D => some (.flg2 t (decide (m % 2 = 1)))
  | 0x0E => some (.fcls t (decide (m % 2 = 1)))
  | 0x0F => some (.fscl t (decide (m % 2 = 1)))
  | _ => none

/-- The T-format words of class 0x3: conversions and blocks (R195). `m` is MOD [7:0]. -/
def parseT3 (op m : Nat) (t : TWord) : Option Instr :=
  match op with
  | 0x00 => (Ty.ofCode (m / 16)).map fun st => .cvt t st (m % 16)
  | 0x01 => some (.frnd t)
  | 0x02 => some (.pack t (m % 4))
  | 0x03 => some (.unpk t (m % 4))
  | 0x04 => some (.qz4 t)
  | 0x05 => some (.dqz4 t)
  | 0x06 => some (.qz8 t)
  | 0x07 => some (.dqz8 t)
  | 0x08 => some (.qres t)
  | _ => none

/-- The T-format words of class 0x4: compares and predicates (R179). `m` is MOD [7:0]. -/
def parseT4 (op m : Nat) (t : TWord) : Option Instr :=
  match op with
  | 0x00 => (Comb.ofCode (m / 8)).map fun cb => .cmp t (.ofCode m) cb
  | 0x01 => some (.tst t (decide (m % 2 = 1)))
  | 0x02 => some (.pand t)
  | 0x03 => some (.por t)
  | 0x04 => some (.pxor t)
  | 0x05 => some (.pnot t)
  | 0x06 => if m = 0 then some (.pmov t) else some (.pmovAll t)
  | 0x07 => some (.voteAny t)
  | 0x08 => some (.voteAll t)
  | 0x09 => some (.ballot t)
  | 0x0A => if m = 0 then some (.lanemaskAct t) else if m = 1 then some (.lanemaskAbs t) else some (.lanemaskRel t)
  | _ => none

/-- The T-format words of class 0x5: cross-lane (R202). `m` is MOD [7:0]. -/
def parseT5 (op m : Nat) (t : TWord) : Option Instr :=
  match op with
  | 0x00 => some (.shflIdx t (m % 8))
  | 0x01 => some (.shflUp t (m % 8))
  | 0x02 => some (.shflDown t (m % 8))
  | 0x03 => some (.shflXor t (m % 8))
  | 0x04 => (RedOp.ofCode m).map fun o => .redl t o
  | 0x05 => (RedOp.ofCode m).map fun o => .scanl t o
  | 0x06 => some (.bcast t)
  | _ => none

/-- The words of class 0x5 in the other formats, with the 24 bits of TAIL. -/
def parseQ5 (op t24 : Nat) (q : QWord) : Option Instr :=
  match op with
  | 0x20 => some (.shflIdxImm q (t24 % 64) (t24 / 64))
  | 0x21 => some (.shflUpImm q (t24 % 64) (t24 / 64))
  | 0x22 => some (.shflDownImm q (t24 % 64) (t24 / 64))
  | 0x23 => some (.shflXorImm q (t24 % 64) (t24 / 64))
  | _ => none

/-- The M-format words of class 0x6: memory (R233). -/
def parseM6 (op : Nat) (m : MWord) : Option Instr :=
  match op with
  | 0x00 => some (.ld m)
  | 0x01 => some (.st m)
  | 0x02 => some (.prf m)
  | 0x03 => some (.recLd m)
  | 0x04 => some (.recSt m)
  | 0x05 => some (.recMk m)
  | 0x06 => some (.recAdj m)
  | 0x07 => some (.home m)
  | 0x08 => some (.inv m)
  | 0x09 => some (.wb m)
  | _ => none

/-- The M-format words of class 0x7: atomics, reductions, drift (R248, R341). -/
def parseM7 (op : Nat) (m : MWord) : Option Instr :=
  match op with
  | 0x00 => some (.atomAdd m)
  | 0x01 => some (.atomSub m)
  | 0x02 => some (.atomMinU m)
  | 0x03 => some (.atomMaxU m)
  | 0x04 => some (.atomAnd m)
  | 0x05 => some (.atomOr m)
  | 0x06 => some (.atomXor m)
  | 0x07 => some (.atomXchg m)
  | 0x08 => some (.atomIncw m)
  | 0x09 => some (.atomDecw m)
  | 0x0A => some (.cas m)
  | 0x0B => some (.atomMinS m)
  | 0x0C => some (.atomMaxS m)
  | 0x10 => some (.redAdd m)
  | 0x11 => some (.redSub m)
  | 0x12 => some (.redMinU m)
  | 0x13 => some (.redMaxU m)
  | 0x14 => some (.redAnd m)
  | 0x15 => some (.redOr m)
  | 0x16 => some (.redXor m)
  | 0x17 => some (.redMinS m)
  | 0x18 => some (.redMaxS m)
  | 0x20 => some (.atomAddF m)
  | 0x21 => some (.atomSubF m)
  | 0x22 => some (.atomMinF m)
  | 0x23 => some (.atomMaxF m)
  | 0x30 => some (.redAddF m)
  | 0x31 => some (.redSubF m)
  | 0x32 => some (.redMinF m)
  | 0x33 => some (.redMaxF m)
  | 0x38 => some (.dadd m)
  | 0x39 => some (.dld m)
  | 0x3A => some (.ddrain m)
  | 0x3B => some (.dqry m)
  | 0x3C => some (.dldE m)
  | _ => none

/-- The T-format words of class 0x8: fences, clasps, queues, boxes (R260, R271, R318, R319). `m` is MOD [7:0]. -/
def parseT8 (op m : Nat) (t : TWord) : Option Instr :=
  match op with
  | 0x08 => some (.qinit t (m % 16))
  | 0x09 => if m < 128 then some (.qpushRsv t (m % 16) (m / 16 % 8)) else some (.qpushPub t (m % 16))
  | 0x0A => some (.qpop t (m % 16))
  | 0x0B => some (.qallow t (m % 16) (m / 16 % 8))
  | 0x0C => some (.qpeek t (m % 16))
  | 0x0D => some (.xarm t (m % 16))
  | 0x0E => some (.xpush t (m % 16))
  | _ => none

/-- The M-format words of class 0x8: fences, clasps, queues, boxes (R260, R271, R318, R319). -/
def parseM8 (op : Nat) (m : MWord) : Option Instr :=
  match op with
  | 0x00 => if m.ord = .acq then some (.fenceAcq m) else if m.ord = .rel then some (.fenceRel m) else some (.fenceAcqrel m)
  | 0x01 => some (.claspInit m)
  | 0x02 => some (.claspArrive m)
  | 0x03 => some (.claspExpect m)
  | 0x04 => some (.claspWait m)
  | 0x05 => some (.claspTwait m)
  | 0x06 => some (.claspTest m)
  | _ => none

/-- The words of class 0x9 in the other formats, with the 24 bits of TAIL. -/
def parseQ9 (op t24 : Nat) (q : QWord) : Option Instr :=
  match op with
  | 0x00 => some (.mshape q)
  | 0x01 => if t24 / 32 % 2 = 0 then (MFmt.ofCode (t24 / 256 % 16)).map fun f => .mwld q (t24 / 1048576) (t24 / 65536 % 16) (t24 / 4096 % 16) f (t24 / 64 % 4) else (MFmt.ofCode (t24 / 256 % 16)).map fun f => .mwldNoc q (t24 / 1048576) (t24 / 65536 % 16) f (t24 / 64 % 4)
  | 0x02 => some (.mmac q)
  | 0x03 => some (.mstat q (decide (t24 % 2 = 1)) (decide (t24 / 2 % 2 = 1)))
  | 0x08 => some (.aeGo q (t24 / 1048576))
  | 0x09 => some (.aeHalt q)
  | 0x10 => if t24 / 2048 % 2 = 0 then some (.cpGo q (t24 / 1048576) (t24 / 65536 % 16) (t24 / 4096 % 16)) else some (.cpGoNoc q (t24 / 1048576) (t24 / 65536 % 16))
  | 0x11 => if t24 / 2048 % 2 = 0 then some (.cpFill q (t24 / 1048576) (t24 / 4096 % 16)) else some (.cpFillNoc q (t24 / 1048576))
  | 0x18 => some (.collGo q)
  | 0x19 => some (.collGrp q t24)
  | _ => none

/-- The T-format words of class 0xA: control, launch and teams (R130, R156, R397). `m` is MOD [7:0]. -/
def parseTA (op m : Nat) (t : TWord) : Option Instr :=
  match op with
  | 0x02 => some (.jmpx t)
  | 0x04 => some (.callx t)
  | 0x05 => some (.ret t)
  | 0x06 => some (.exit t)
  | 0x0A => some (.teamNew t)
  | 0x0B => some (.teamFree t)
  | 0x0C => some (.join t)
  | 0x0D => some (.leave t)
  | 0x0E => some (.regx t)
  | 0x0F => some (.trigger t (.ofCode m))
  | 0x10 => some (.launch t)
  | 0x11 => some (.yield t)
  | 0x12 => some (.nop t)
  | _ => none

/-- The words of class 0xA in the other formats, with the 24 bits of TAIL. -/
def parseQA (op t24 : Nat) (q : QWord) : Option Instr :=
  match op with
  | 0x00 => some (.br q t24)
  | 0x01 => some (.jmp q t24)
  | 0x03 => some (.call q t24)
  | 0x08 => some (.spawn q t24)
  | 0x09 => some (.spawnHome q t24)
  | 0x13 => some (.slotq q (t24 % 16) (t24 / 16))
  | 0x14 => some (.trap q t24)
  | _ => none

/-- The T-format words of class 0xB: system (R401). `m` is MOD [7:0]. -/
def parseTB (op m : Nat) (t : TWord) : Option Instr :=
  match op with
  | 0x02 => if m = 0 then some (.tlbinvPage t) else if m = 1 then some (.tlbinvNonglobal t) else some (.tlbinvAll t)
  | 0x03 => some (.tlbsync t)
  | 0x04 => some (.evqPop t)
  | 0x05 => some (.evqPost t)
  | 0x06 => if m = 0 then some (.trapretResume t) else if m = 1 then some (.trapretSkip t) else some (.trapretEnd t)
  | 0x07 => some (.halt t)
  | 0x08 => some (.wfi t)
  | _ => none

/-- The words of class 0xB in the other formats, with the 24 bits of TAIL. -/
def parseQB (op t24 : Nat) (q : QWord) : Option Instr :=
  match op with
  | 0x00 => some (.sysrd q (t24 / 4096) (decide (t24 % 2 = 1)))
  | 0x01 => some (.syswr q (t24 / 4096) (decide (t24 % 2 = 1)))
  | 0x09 => if t24 = 0 then some (.clopIinv q) else if t24 = 4096 then some (.clopIall q) else if t24 = 8192 then some (.clopL1wb q) else if t24 = 12288 then some (.clopL1inv q) else none
  | 0x0A => if t24 % 4 = 1 then some (.errinjFlip1 q (t24 / 4096) (t24 / 4 % 64)) else if t24 % 4 = 2 then some (.errinjFlip2 q (t24 / 4096) (t24 / 4 % 64)) else some (.errinjDisarm q (t24 / 4096) (t24 / 4 % 64))
  | 0x0B => if t24 = 4096 then some (.pmReqQuiesce q) else if t24 = 8192 then some (.pmReqRelease q) else if t24 = 12288 then some (.pmReqEnterM2 q) else if t24 = 16384 then some (.pmReqSetDemand q) else none
  | 0x0C => if t24 = 1 then some (.secCallSecurityState q) else if t24 = 2 then some (.secCallAttest q) else if t24 = 3 then some (.secCallDeriveKey q) else if t24 = 4 then some (.secCallEraseKeys q) else if t24 = 5 then some (.secCallAuthDebug q) else if t24 = 6 then some (.secCallDebugChallenge q) else if t24 = 7 then some (.secCallLockDebug q) else some (.secCallOther q t24)
  | 0x0D => some (.brk q t24)
  | _ => none

/-- The instruction a word's class and op name, before its fields are checked (R72). -/
def Raw.parse (r : Raw) : Option Instr :=
  let m := r.tail % 256
  match r.cls with
  | 0x0 => if [0x20, 0x21, 0x24, 0x2C, 0x2D].contains r.op then r.qword.bind (parseQ0 r.op r.tail) else r.tword.bind (parseT0 r.op m)
  | 0x1 => if [0x13, 0x14, 0x15, 0x20, 0x21, 0x22, 0x26, 0x27, 0x28, 0x29, 0x2A].contains r.op then r.qword.bind (parseQ1 r.op r.tail) else r.tword.bind (parseT1 r.op m)
  | 0x2 => r.tword.bind (parseT2 r.op m)
  | 0x3 => r.tword.bind (parseT3 r.op m)
  | 0x4 => r.tword.bind (parseT4 r.op m)
  | 0x5 => if [0x20, 0x21, 0x22, 0x23].contains r.op then r.qword.bind (parseQ5 r.op r.tail) else r.tword.bind (parseT5 r.op m)
  | 0x6 => r.mword.bind (parseM6 r.op)
  | 0x7 => r.mword.bind (parseM7 r.op)
  | 0x8 => if r.op < 8 then r.mword.bind (parseM8 r.op) else r.tword.bind (parseT8 r.op m)
  | 0x9 => r.qword.bind (parseQ9 r.op r.tail)
  | 0xA => if [0x00, 0x01, 0x03, 0x08, 0x09, 0x13, 0x14].contains r.op then r.qword.bind (parseQA r.op r.tail) else r.tword.bind (parseTA r.op m)
  | 0xB => if [0x00, 0x01, 0x09, 0x0A, 0x0B, 0x0C, 0x0D].contains r.op then r.qword.bind (parseQB r.op r.tail) else r.tword.bind (parseTB r.op m)
  | _ => none

/-- The decoder: an instruction whose row the word meets bit for bit, or none, which takes the illegal-instruction
trap (R57, R76). -/
def decode (w : Nat) : Option Instr :=
  (Raw.ofNat w).parse.bind fun i => if i.wf && decide (i.encode = some w) then some i else none

/-- The fields of a block header (R49). -/
structure Header where
  tag : Nat
  len : Nat
  live : Nat
  rcv : Int
  pf : Int
  rb : Bool
  st : Bool
  lh : Bool
  resv : Nat
  ck : Nat
  deriving DecidableEq, Repr

/-- The signed value of n bits. -/
def signedBits (n v : Nat) : Int := if 2 * (v % 2 ^ n) < 2 ^ n then (v % 2 ^ n : Nat) else ((v % 2 ^ n : Nat) : Int) - (2 ^ n : Nat)

/-- A header's fields (R49). -/
def Header.ofWord (w : Word64) : Header where
  tag := w.toNat / 2 ^ 60 % 16
  len := w.toNat / 2 ^ 50 % 1024
  live := w.toNat / 2 ^ 42 % 256
  rcv := signedBits 16 (w.toNat / 2 ^ 26)
  pf := signedBits 12 (w.toNat / 2 ^ 14)
  rb := w.getLsbD 13
  st := w.getLsbD 12
  lh := w.getLsbD 11
  resv := w.toNat / 256 % 8
  ck := w.toNat % 256

/-- The header content that R50 requires, its reserved bits apart. -/
def Header.valid (h : Header) : Bool :=
  decide (h.tag = 11 ∧ 1 ≤ h.len ∧ h.live ≤ 224) && decide (h.ck = ((h.len % 256) ^^^ (h.len / 256)) ^^^ h.live)

/-- A block's size in bytes (R46). -/
def Header.size (h : Header) : Nat := (8 + 10 * h.len + 15) / 16 * 16

/-- The instruction the decoder reads from a word given as the opcode table numbers its bits: the bits above `nbits`
are 0. -/
def decodeTableWord (nbits w : Nat) : Option Instr := decode (w % 2 ^ (min nbits 80))

end Sys2Proof
end

