-- ==== Sys2Proof/Config.lean ====
section
/-! DEFINITION. What a part fixes and the spec leaves open, and the free values: constants without a body, of which
nothing can be proved but what holds of every value. -/

namespace Sys2Proof.Config

/-- The part is a ZD6-M4K-2T, with 2 TiB of capacity tier; else a ZD6-M4K-1T (00 R1, R2; log 10). -/
opaque twoTiB : Bool

/-- A free 64-bit value (log 11): what the spec gives no value for, one for each count of State.freeCtr. -/
opaque freeWord : Nat → Word64

/-- A free byte string of a given length (log 11). -/
opaque freeBytes : Nat → Nat → List Byte

/-- The response the signed Cameo image sets for an alarm source, by the source's place in R428: 0 log, 1 reset, 2 erase session
keys, 3 erase all keys, modulo 4 (20 R428; log 28). -/
opaque alarmResponse : Nat → Nat

/-- The core that the predictor of a cache names for the probe of a line that misses at a time in ns, modulo 4: its number in the
cache's column (09 R216). -/
opaque predictor : Nat → Nat → Nat → Nat

/-- SHA-512 of n bytes, as a number whose byte i is the digest's byte i: the spec names the function and does not define it (20 R427, R430;
log 28). -/
opaque sha512 : Nat → (Nat → Byte) → BitVec 512

/-- ECDSA P-521: a key, its bytes little-endian, and the two halves of a signature verify a digest (20 R430; log 28). -/
opaque ecdsaVerifies : Nat → BitVec 512 → Nat → Nat → Bool

/-- The bytes of the device identity public key, whose secret half Locket holds (20 R426, R430). -/
opaque deviceKey : Nat → Byte

/-- How many bytes the device identity public key has. -/
opaque deviceKeyLength : Nat

/-- The key hashes that Locket holds: of the Cameo signing key, the runtime signing key, and the debug keys of manufacturing and of
deployment (20 R426). -/
opaque keyHash : Fin 4 → BitVec 512

/-- What the device key's signature of a nonce, the runtime image's boot measurement, the lifecycle and the debug state leaves in the
256-byte buffer of an attestation, for a count of State.freeCtr: byte by byte (20 R426; log 28). -/
opaque attestation : List Byte → Option (BitVec 512) → Nat → Nat → Nat → Nat → Byte

end Sys2Proof.Config
end

