-- ==== Sys2Proof/Machine/SMap.lean ====
section
/-! DEFINITION. Sparse maps in canonical form: keys strictly rising, no entry equal to the unlisted value. Memory,
register files and tables are held this way, so equal contents are equal data. -/

namespace Sys2Proof.SMap

/-- The value at a key; `d` where the key is not listed. -/
def get {α : Type} (d : α) : SMap α → Nat → α
  | [], _ => d
  | (a, v) :: r, k => if k = a then v else if k < a then d else get d r k

/-- The map with one key's value replaced: an unlisted value removes the entry. -/
def set {α : Type} [DecidableEq α] (d : α) : SMap α → Nat → α → SMap α
  | [], k, v => if v = d then [] else [(k, v)]
  | (a, w) :: r, k, v =>
    if k < a then (if v = d then (a, w) :: r else (k, v) :: (a, w) :: r)
    else if k = a then (if v = d then r.dropWhile fun p => decide (p.1 ≤ k) else (k, v) :: r)
    else (a, w) :: set d r k v

/-- The map after a list of writes, the first of the list first. -/
def setAll {α : Type} [DecidableEq α] (d : α) (m : SMap α) : List (Nat × α) → SMap α
  | [] => m
  | (k, v) :: r => setAll d (set d m k v) r

/-- Every key at or above `lo`, keys rising, no entry equal to the unlisted value. -/
def wfFrom {α : Type} [DecidableEq α] (d : α) : Nat → SMap α → Bool
  | _, [] => true
  | lo, (a, v) :: r => decide (lo ≤ a) && decide (v ≠ d) && wfFrom d (a + 1) r

/-- The canonical form. -/
def wf {α : Type} [DecidableEq α] (d : α) (m : SMap α) : Bool := wfFrom d 0 m

/-- The listed keys, rising. -/
def keys {α : Type} (m : SMap α) : List Nat := m.map Prod.fst

/-- Replaces the value at a key by a function of it. -/
def modify {α : Type} [DecidableEq α] (d : α) (m : SMap α) (k : Nat) (f : α → α) : SMap α := set d m k (f (get d m k))

end Sys2Proof.SMap
end

