-- ==== Sys2Proof/Machine/Bits.lean ====
section
/-! DEFINITION. Bits, SExt, ZExt, Sat and Fit (00 R15; 07 R164, R165), bytes in little-endian order (00 R10), and masks
of lanes. -/

namespace Sys2Proof

/-- Bits(x, hi, lo) of a number (R15). -/
def bitsOf (x hi lo : Nat) : Nat := x / 2 ^ lo % 2 ^ (hi + 1 - lo)

/-- SExt(x, w): the low w bits read as two's complement (R15). -/
def sext (w x : Nat) : Int :=
  let v := x % 2 ^ w
  if 2 * v < 2 ^ w then (v : Int) else (v : Int) - (2 ^ w : Nat)

/-- The low w bits of an exact integer (R17). -/
def wrap (w : Nat) (v : Int) : Nat := (v % ((2 ^ w : Nat) : Int)).toNat

/-- The least value of an integer type (R16). -/
def Ty.minVal (t : Ty) : Int := if t.isSigned then -((2 ^ (t.bits - 1) : Nat) : Int) else 0

/-- The greatest value of an integer type (R16). -/
def Ty.maxVal (t : Ty) : Int :=
  if t.isSigned then ((2 ^ (t.bits - 1) : Nat) : Int) - 1 else ((2 ^ t.bits : Nat) : Int) - 1

/-- Sat(v, D): clamped to the range of an integer type (R15). -/
def satTo (t : Ty) (v : Int) : Int := max t.minVal (min t.maxVal v)

/-- Fit(v, D): wrapped, or clamped with sat (R165). -/
def fit (sat : Bool) (t : Ty) (v : Int) : Nat := wrap t.bits (if sat then satTo t v else v)

/-- The value of a source in an integer type (R164). -/
def Ty.value (t : Ty) (x : Nat) : Int := if t.isSigned then sext t.bits x else ((x % 2 ^ t.bits : Nat) : Int)

/-- A list of bytes read little-endian (R10). -/
def leNat : List Byte → Nat
  | [] => 0
  | b :: r => b.toNat + 256 * leNat r

/-- The n low bytes of a number, little-endian (R10). -/
def leBytes : Nat → Nat → List Byte
  | 0, _ => []
  | n + 1, v => BitVec.ofNat 8 v :: leBytes n (v / 256)

/-- The lanes of a mask, ascending. -/
def lanesOf (m : Word64) : List Nat := (List.range 64).filter fun l => m.getLsbD l

/-- The mask of the lanes that satisfy a test. -/
def maskOf (f : Nat → Bool) : Word64 :=
  (List.range 64).foldl (fun m l => if f l then m ||| (1#64 <<< l) else m) 0#64

/-- The lowest lane of a mask. -/
def lowestLane (m : Word64) : Option Nat := (lanesOf m).head?

/-- The integer square root, one bit at a time. -/
def isqrt (n : Nat) : Nat :=
  (List.range (n.log2 / 2 + 1)).foldr (fun i r => if (r + 2 ^ i) * (r + 2 ^ i) ≤ n then r + 2 ^ i else r) 0

/-- A list with one element put before the first it precedes. -/
def insertBy {α : Type} (f : α → α → Bool) (x : α) : List α → List α
  | [] => [x]
  | y :: r => if f x y then x :: y :: r else y :: insertBy f x r

/-- The best of a list by an order. -/
def bestBy {α : Type} (f : α → α → Bool) : List α → Option α
  | [] => none
  | x :: r =>
    match bestBy f r with
    | none => some x
    | some y => if f y x then some y else some x

end Sys2Proof
end

