-- ==== Sys2Proof/Machine/Float.lean ====
section
/-! DEFINITION. Floating formats, rounding, flags and conversions (01 R21-R34), and the arithmetic of class 0x2
(08 R187-R194). Values are exact dyadic numbers until the one rounding. -/

namespace Sys2Proof

/-- The exception flags of ctl.fpflags: DF IX UF OF DZ NV in bits 5 to 0 (R29). -/
abbrev Flags := BitVec 6

namespace Flags
def nv : Flags := 1
def dz : Flags := 2
def ov : Flags := 4
def uf : Flags := 8
def ix : Flags := 16
def df : Flags := 32
end Flags

/-- A result with the flags it raises. -/
structure FRes where
  bits : Nat
  fl : Flags
  deriving DecidableEq, Repr

/-- The shape of a floating format (R21). -/
structure Fmt where
  eb : Nat
  fb : Nat
  bias : Nat
  /-- The largest finite magnitude, as the format's bits. -/
  maxBits : Nat
  /-- The format has infinities (R21). -/
  hasInf : Bool
  deriving DecidableEq, Repr

/-- The format of a floating type (R21); integers get f32's, which nothing reads. -/
def Ty.fmt : Ty → Fmt
  | .f64 => ⟨11, 52, 1023, 0x7FEFFFFFFFFFFFFF, true⟩
  | .f16 => ⟨5, 10, 15, 0x7BFF, true⟩
  | .bf16 => ⟨8, 7, 127, 0x7F7F, true⟩
  | .e5m2 => ⟨5, 2, 15, 0x7B, true⟩
  | .e4m3 => ⟨4, 3, 7, 0x7E, false⟩
  | .e2m1 => ⟨2, 1, 1, 7, false⟩
  | _ => ⟨8, 23, 127, 0x7F7FFFFF, true⟩

/-- The canonical NaN of a format (R24); e2m1 has none and gives code 0000 (R26). -/
def Ty.nanBits : Ty → Nat
  | .f64 => 0x7FF8000000000000
  | .f16 => 0x7E00
  | .bf16 => 0x7FC0
  | .e5m2 => 0x7E
  | .e4m3 => 0x7F
  | .e2m1 => 0
  | _ => 0x7FC00000

/-- A decoded floating value: NaN (signalling or not), an infinity, or (-1)^neg times m times 2^e. -/
inductive FVal
  | nan (signalling : Bool)
  | inf (neg : Bool)
  | fin (neg : Bool) (m : Nat) (e : Int)
  deriving DecidableEq, Repr

/-- An exact result before rounding: the magnitude lies at m times 2^e, or strictly between that and the next
multiple when `sticky`. -/
structure Exact where
  neg : Bool
  m : Nat
  e : Int
  sticky : Bool
  deriving DecidableEq, Repr

/-- The value a pattern encodes (R21-R23); an e2m1 code 0b1000 reads +0 (R34). -/
def Ty.decodeF (t : Ty) (x : Nat) : FVal :=
  let f := t.fmt
  let w := t.bits
  let v := x % 2 ^ w
  let neg := decide (2 ^ (w - 1) ≤ v)
  let mag := v % 2 ^ (w - 1)
  let frac := mag % 2 ^ f.fb
  let ex := mag / 2 ^ f.fb
  if f.hasInf && decide (f.maxBits < mag) then
    if frac = 0 then .inf neg else .nan (decide (frac < 2 ^ (f.fb - 1)))
  else if t = .e4m3 ∧ mag = 0x7F then .nan false
  else if t = .e2m1 ∧ v = 8 then .fin false 0 0
  else if ex = 0 then .fin neg frac (1 - (f.bias : Int) - f.fb)
  else .fin neg (frac + 2 ^ f.fb) ((ex : Int) - f.bias - f.fb)

/-- A finite operand with a subnormal pattern (R21). -/
def Ty.isSubnormal (t : Ty) (x : Nat) : Bool :=
  let mag := x % 2 ^ (t.bits - 1)
  decide (mag ≠ 0 ∧ mag < 2 ^ t.fmt.fb)

/-- `.ftz` acts on operands and results of this type (R27). -/
def Ty.flushes (t : Ty) : Bool :=
  match t with
  | .e4m3 | .e2m1 => false
  | _ => t.isFloat

/-- An operand as an instruction reads it: flushed under ftz with DF, NV for a signalling NaN (R27, R187). -/
def Ty.readF (t : Ty) (ftz : Bool) (x : Nat) : FVal × Flags :=
  if ftz && t.flushes && t.isSubnormal x then
    (.fin (decide (2 ^ (t.bits - 1) ≤ x % 2 ^ t.bits)) 0 0, Flags.df)
  else
    match t.decodeF x with
    | .nan true => (.nan true, Flags.nv)
    | v => (v, 0)

/-- The sign bit of a format. -/
def Ty.signBits (t : Ty) (neg : Bool) : Nat := if neg then 2 ^ (t.bits - 1) else 0

/-- A zero of a sign; e2m1 has one zero (R34). -/
def Ty.zeroBits (t : Ty) (neg : Bool) : Nat := if t = .e2m1 then 0 else t.signBits neg

/-- The significand rounded to a multiple of 2^q: the integer and whether it is inexact (R19). -/
def roundSig (rm : Rnd) (x : Exact) (q : Int) : Nat × Bool :=
  if x.m = 0 then (0, x.sticky)
  else if q ≤ x.e then (x.m * 2 ^ (x.e - q).toNat, x.sticky)
  else
    let sh := (q - x.e).toNat
    if x.m.log2 + 2 < sh then
      let up := match rm with
        | .rup => !x.neg
        | .rdn => x.neg
        | _ => false
      (bit up, true)
    else
      let keep := x.m / 2 ^ sh
      let low := x.m % 2 ^ sh
      let half := 2 ^ (sh - 1)
      let inexact := x.sticky || decide (low ≠ 0)
      let up := match rm with
        | .rne => decide (half < low) || (decide (low = half) && (x.sticky || decide (keep % 2 = 1)))
        | .rtz => false
        | .rup => inexact && !x.neg
        | .rdn => inexact && x.neg
      (keep + bit up, inexact)

/-- A magnitude beyond the largest finite value (R26). -/
def Ty.overflow (t : Ty) (rm : Rnd) (neg : Bool) : Nat :=
  let toInf := match rm with
    | .rne => true
    | .rtz => false
    | .rup => !neg
    | .rdn => neg
  t.signBits neg + (t.fmt.maxBits + bit (t.fmt.hasInf && toInf))

/-- Rounds an exact nonzero value once to a format (R25-R27). A sticky value carries at least two bits below the
format's significand. -/
def Ty.roundF (t : Ty) (rm : Rnd) (ftz : Bool) (x : Exact) : FRes :=
  if x.m = 0 then ⟨t.zeroBits x.neg, 0⟩
  else
    let f := t.fmt
    let emin : Int := 1 - f.bias
    let qu : Int := x.e + x.m.log2 - f.fb
    let q : Int := max qu (emin - f.fb)
    let u := roundSig rm x qu
    let tiny := decide (qu < emin - f.fb - 1 ∨ qu = emin - f.fb - 1 ∧ u.1 < 2 ^ (f.fb + 1))
    let r := roundSig rm x q
    if ftz && t.flushes && tiny then ⟨t.signBits x.neg, Flags.uf ||| Flags.ix⟩
    else
      let mag := ((q + f.fb + f.bias - 1).toNat) * 2 ^ f.fb + r.1
      if f.maxBits < mag then ⟨t.overflow rm x.neg, Flags.ov ||| Flags.ix⟩
      else
        let bits := if mag = 0 then t.zeroBits x.neg else t.signBits x.neg + mag
        ⟨bits, (if r.2 then Flags.ix else 0) ||| (if r.2 && tiny then Flags.uf else 0)⟩

/-- `.sat` on a floating result (R28). -/
def Ty.satF (t : Ty) (sat : Bool) (x : Nat) : Nat :=
  if sat then
    match t.decodeF x with
    | .nan _ => 0
    | .inf neg => t.signBits neg + t.fmt.maxBits
    | _ => x
  else x

/-- A NaN result (R24), with the invalid flag where the destination has no NaN of its own use (R26). -/
def Ty.nanRes (t : Ty) (fl : Flags) : FRes := ⟨t.nanBits, fl⟩

/-- An infinite result; e4m3 and e2m1 have none (R26). -/
def Ty.infRes (t : Ty) (neg : Bool) (fl : Flags) : FRes :=
  if t.fmt.hasInf then ⟨t.signBits neg + t.fmt.maxBits + 1, fl⟩ else ⟨t.nanBits, fl ||| Flags.nv⟩

/-- A rounded finite result with `.sat` and the flags already raised. -/
def Ty.finish (t : Ty) (rm : Rnd) (ftz sat : Bool) (fl : Flags) (x : Exact) : FRes :=
  let r := t.roundF rm ftz x
  ⟨t.satF sat r.bits, fl ||| r.fl⟩

/-- `.sat` applied to a special result. -/
def FRes.sat (t : Ty) (s : Bool) (r : FRes) : FRes := ⟨t.satF s r.bits, r.fl⟩

/-- An exact signed dyadic number. -/
structure Dy where
  m : Int
  e : Int
  deriving DecidableEq, Repr

namespace Dy

/-- A dyadic number's integer at a lower exponent. -/
def scaled (x : Dy) (e : Int) : Int := x.m * (2 ^ (x.e - e).toNat : Nat)

def add (x y : Dy) : Dy := let e := min x.e y.e; ⟨x.scaled e + y.scaled e, e⟩

def neg (x : Dy) : Dy := ⟨-x.m, x.e⟩

def mul (x y : Dy) : Dy := ⟨x.m * y.m, x.e + y.e⟩

/-- x < y. -/
def lt (x y : Dy) : Bool := let e := min x.e y.e; decide (x.scaled e < y.scaled e)

def abs (x : Dy) : Dy := ⟨x.m.natAbs, x.e⟩

/-- The exact value for rounding; `zneg` is the sign an exact zero takes. -/
def exact (x : Dy) (zneg : Bool) : Exact :=
  ⟨if x.m = 0 then zneg else decide (x.m < 0), x.m.natAbs, x.e, false⟩

end Dy

/-- A finite value as a dyadic number. -/
def FVal.dy : FVal → Dy
  | .fin n m e => ⟨if n then -(m : Int) else m, e⟩
  | _ => ⟨0, 0⟩

/-- The sign of a value. -/
def FVal.neg : FVal → Bool
  | .fin n _ _ => n
  | .inf n => n
  | .nan _ => false

/-- A value that is zero. -/
def FVal.isZero : FVal → Bool
  | .fin _ m _ => decide (m = 0)
  | _ => false

/-- The sign inverted. -/
def FVal.negate : FVal → FVal
  | .fin n m e => .fin (!n) m e
  | .inf n => .inf (!n)
  | .nan q => .nan q

/-- The sign of an exact zero sum of two values: the common sign of two zeros, else by the mode (R187); two zeros of opposite sign go by
the mode as well (DESIGN CHOICE, log 36). -/
def zeroSign (rm : Rnd) (na nb : Bool) : Bool := if na = nb then na else decide (rm = .rdn)

/-- A + B of decoded values, rounded once (R187, R189). -/
def Ty.addV (t : Ty) (rm : Rnd) (ftz sat : Bool) (fl : Flags) (a b : FVal) : FRes :=
  match a, b with
  | .nan _, _ => (t.nanRes fl).sat t sat
  | _, .nan _ => (t.nanRes fl).sat t sat
  | .inf x, .inf y => if x = y then (t.infRes x fl).sat t sat else (t.nanRes (fl ||| Flags.nv)).sat t sat
  | .inf x, _ => (t.infRes x fl).sat t sat
  | _, .inf y => (t.infRes y fl).sat t sat
  | a, b => t.finish rm ftz sat fl ((a.dy.add b.dy).exact (zeroSign rm a.neg b.neg))

/-- The product of two decoded values; `none` for 0 times infinity (R189). -/
def FVal.mulV (a b : FVal) : Option FVal :=
  match a, b with
  | .nan q, _ => some (.nan q)
  | _, .nan q => some (.nan q)
  | .inf x, b => if b.isZero then none else some (.inf (x != b.neg))
  | a, .inf y => if a.isZero then none else some (.inf (a.neg != y))
  | .fin x m e, .fin y n f => some (.fin (x != y) (m * n) (e + f))

/-- A value rounded once to a format (R31). A NaN to a format without infinity sets NV (R26), of that same format too (DESIGN CHOICE, log
36: R196 names no flag there). -/
def Ty.roundV (t : Ty) (rm : Rnd) (ftz sat : Bool) (fl : Flags) (v : FVal) : FRes :=
  match v with
  | .nan _ => (t.nanRes (if t.fmt.hasInf then fl else fl ||| Flags.nv)).sat t sat
  | .inf n => (t.infRes n fl).sat t sat
  | .fin n m e => t.finish rm ftz sat fl ⟨n, m, e, false⟩

/-- fadd (R189). -/
def Ty.fadd (t : Ty) (rm : Rnd) (ftz sat : Bool) (a b : Nat) : FRes :=
  let x := t.readF ftz a
  let y := t.readF ftz b
  t.addV rm ftz sat (x.2 ||| y.2) x.1 y.1

/-- fsub (R189). -/
def Ty.fsub (t : Ty) (rm : Rnd) (ftz sat : Bool) (a b : Nat) : FRes :=
  let x := t.readF ftz a
  let y := t.readF ftz b
  t.addV rm ftz sat (x.2 ||| y.2) x.1 y.1.negate

/-- fmul (R189). -/
def Ty.fmul (t : Ty) (rm : Rnd) (ftz sat : Bool) (a b : Nat) : FRes :=
  let x := t.readF ftz a
  let y := t.readF ftz b
  match x.1.mulV y.1 with
  | none => (t.nanRes (x.2 ||| y.2 ||| Flags.nv)).sat t sat
  | some v => t.roundV rm ftz sat (x.2 ||| y.2) v

/-- fma: the product is not rounded (R189). -/
def Ty.fma (t : Ty) (rm : Rnd) (ftz sat : Bool) (a b c : Nat) : FRes :=
  let x := t.readF ftz a
  let y := t.readF ftz b
  let z := t.readF ftz c
  let fl := x.2 ||| y.2 ||| z.2
  match x.1.mulV y.1 with
  | none => (t.nanRes (fl ||| Flags.nv)).sat t sat
  | some v => t.addV rm ftz sat fl v z.1

/-- The order of two values that are not NaN, with -0 below +0 (R190). -/
def FVal.below (a b : FVal) : Bool :=
  match a, b with
  | .inf x, .inf y => x && !y
  | .inf x, _ => x
  | _, .inf y => !y
  | a, b => a.dy.lt b.dy || (a.isZero && b.isZero && a.neg && !b.neg)

/-- An operand's pattern after the flush (R187). -/
def Ty.flushed (t : Ty) (ftz : Bool) (x : Nat) : Nat :=
  if ftz && t.flushes && t.isSubnormal x then t.signBits (decide (2 ^ (t.bits - 1) ≤ x % 2 ^ t.bits))
  else x % 2 ^ t.bits

/-- fmin and fmax (R190). -/
def Ty.fminmax (t : Ty) (mx ftz : Bool) (a b : Nat) : FRes :=
  let x := t.readF ftz a
  let y := t.readF ftz b
  let fl := x.2 ||| y.2
  match x.1, y.1 with
  | .nan _, .nan _ => ⟨t.nanBits, fl⟩
  | .nan _, _ => ⟨t.flushed ftz b, fl⟩
  | _, .nan _ => ⟨t.flushed ftz a, fl⟩
  | u, v =>
    let first := if mx then !(u.below v) else !(v.below u)
    ⟨if first then t.flushed ftz a else t.flushed ftz b, fl⟩

/-- fabs and fneg (R190). -/
def Ty.fsign (t : Ty) (isNeg ftz : Bool) (a : Nat) : FRes :=
  let x := t.readF ftz a
  match x.1 with
  | .nan _ => ⟨t.nanBits, x.2⟩
  | _ =>
    let v := t.flushed ftz a
    let mag := v % 2 ^ (t.bits - 1)
    ⟨if isNeg then (v + 2 ^ (t.bits - 1)) % 2 ^ t.bits else mag, x.2⟩

/-- The exact quotient with 128 bits below the dividend's. -/
def quotient (neg : Bool) (m n : Nat) (e : Int) : Exact :=
  ⟨neg, m * 2 ^ 128 / n, e - 128, decide (m * 2 ^ 128 % n ≠ 0)⟩

/-- A / B of decoded values (R191). -/
def Ty.divV (t : Ty) (rm : Rnd) (ftz sat : Bool) (fl : Flags) (a b : FVal) : FRes :=
  match a, b with
  | .nan _, _ => (t.nanRes fl).sat t sat
  | _, .nan _ => (t.nanRes fl).sat t sat
  | .inf _, .inf _ => (t.nanRes (fl ||| Flags.nv)).sat t sat
  | .inf x, b => (t.infRes (x != b.neg) fl).sat t sat
  | a, .inf y => ⟨t.zeroBits (a.neg != y), fl⟩
  | .fin x m e, .fin y n f =>
    if n = 0 then
      if m = 0 then (t.nanRes (fl ||| Flags.nv)).sat t sat
      else (t.infRes (x != y) (fl ||| Flags.dz)).sat t sat
    else if m = 0 then ⟨t.zeroBits (x != y), fl⟩
    else t.finish rm ftz sat fl (quotient (x != y) m n (e - f))

/-- fdiv (R191). -/
def Ty.fdiv (t : Ty) (rm : Rnd) (ftz sat : Bool) (a b : Nat) : FRes :=
  let x := t.readF ftz a
  let y := t.readF ftz b
  t.divV rm ftz sat (x.2 ||| y.2) x.1 y.1

/-- The exact square root, to 128 further bits. -/
def sqrtExact (m : Nat) (e : Int) : Exact :=
  let odd := e % 2 = 1
  let m' := if odd then 2 * m else m
  let e' := if odd then e - 1 else e
  let r := isqrt (m' * 2 ^ 256)
  ⟨false, r, e' / 2 - 128, decide (r * r ≠ m' * 2 ^ 256)⟩

/-- fsqrt (R191). -/
def Ty.fsqrt (t : Ty) (rm : Rnd) (ftz sat : Bool) (a : Nat) : FRes :=
  let x := t.readF ftz a
  match x.1 with
  | .nan _ => (t.nanRes x.2).sat t sat
  | .inf true => (t.nanRes (x.2 ||| Flags.nv)).sat t sat
  | .inf false => (t.infRes false x.2).sat t sat
  | .fin n m e =>
    if m = 0 then ⟨t.signBits n, x.2⟩
    else if n then (t.nanRes (x.2 ||| Flags.nv)).sat t sat
    else t.finish rm ftz sat x.2 (sqrtExact m e)

/-- frcp: 1/A rounded towards zero (R192). -/
def Ty.frcp (t : Ty) (ftz sat : Bool) (a : Nat) : FRes :=
  let x := t.readF ftz a
  t.divV .rtz ftz sat x.2 (.fin false 1 0) x.1

/-- frsq: 1 over the square root of A, rounded towards zero (R192). -/
def Ty.frsq (t : Ty) (ftz sat : Bool) (a : Nat) : FRes :=
  let x := t.readF ftz a
  match x.1 with
  | .nan _ => (t.nanRes x.2).sat t sat
  | .inf true => (t.nanRes (x.2 ||| Flags.nv)).sat t sat
  | .inf false => ⟨0, x.2⟩
  | .fin n m e =>
    if m = 0 then (t.infRes n (x.2 ||| Flags.dz)).sat t sat
    else if n then (t.nanRes (x.2 ||| Flags.nv)).sat t sat
    else
      let odd := e % 2 = 1
      let m' := if odd then 2 * m else m
      let e' := if odd then e - 1 else e
      let r := isqrt (2 ^ 512 / m')
      t.finish .rtz ftz sat x.2 ⟨false, r, -(e' / 2) - 256, decide (r * r * m' ≠ 2 ^ 512)⟩

/-- The natural logarithm of 2 to 256 bits, by the sum of 1/(k 2^k). -/
def ln2Fix : Nat := (List.range 280).foldl (fun s k => s + 2 ^ 288 / ((k + 1) * 2 ^ (k + 1))) 0 / 2 ^ 32

/-- 2^f for a fraction given in 256 bits, by the exponential series (R192; log 8). -/
def exp2Fix (f : Nat) : Nat :=
  let x := f * ln2Fix / 2 ^ 256
  ((List.range 80).foldl (fun (p : Nat × Nat) k =>
    let term := p.2 * x / 2 ^ 256 / (k + 1)
    (p.1 + term, term)) (2 ^ 256, 2 ^ 256)).1

/-- fex2: 2^A rounded towards zero (R192; log 8). -/
def Ty.fex2 (t : Ty) (ftz sat : Bool) (a : Nat) : FRes :=
  let x := t.readF ftz a
  match x.1 with
  | .nan _ => (t.nanRes x.2).sat t sat
  | .inf true => ⟨0, x.2⟩
  | .inf false => (t.infRes false x.2).sat t sat
  | .fin n m e =>
    let d := (FVal.fin n m e).dy
    if 0 ≤ e ∨ m = 0 then
      let k : Int := if m = 0 then 0 else if 20 ≤ e then (if n then -(2 ^ 20 : Int) else 2 ^ 20) else d.scaled 0
      t.finish .rtz ftz sat x.2 ⟨false, 1, k, false⟩
    else
      let q : Int := (2 ^ (-e).toNat : Nat)
      let k : Int := d.m / q
      let fr : Nat := (d.m % q).toNat
      if fr = 0 then t.finish .rtz ftz sat x.2 ⟨false, 1, k, false⟩
      else t.finish .rtz ftz sat x.2 ⟨false, exp2Fix (fr * 2 ^ 256 / q.toNat), k - 256, true⟩

/-- The fraction bits of log2 of y in [1, 2), by repeated squaring of 256-bit numbers (R192; log 8). -/
def log2Fix (y : Nat) : Nat :=
  ((List.range 100).foldl (fun (p : Nat × Nat) _ =>
    let s := p.1 * p.1 / 2 ^ 256
    if 2 ^ 257 ≤ s then (s / 2, 2 * p.2 + 1) else (s, 2 * p.2)) (y, 0)).2

/-- flg2: log2 of A rounded towards zero (R192; log 8). -/
def Ty.flg2 (t : Ty) (ftz sat : Bool) (a : Nat) : FRes :=
  let x := t.readF ftz a
  match x.1 with
  | .nan _ => (t.nanRes x.2).sat t sat
  | .inf true => (t.nanRes (x.2 ||| Flags.nv)).sat t sat
  | .inf false => (t.infRes false x.2).sat t sat
  | .fin n m e =>
    if m = 0 then (t.infRes true (x.2 ||| Flags.dz)).sat t sat
    else if n then (t.nanRes (x.2 ||| Flags.nv)).sat t sat
    else
      let l := m.log2
      let k : Int := e + l
      if m = 2 ^ l then t.finish .rtz ftz sat x.2 ⟨decide (k < 0), k.natAbs, 0, false⟩
      else
        let fr := log2Fix (m * 2 ^ 256 / 2 ^ l)
        if 0 ≤ k then t.finish .rtz ftz sat x.2 ⟨false, k.toNat * 2 ^ 100 + fr, -100, true⟩
        else t.finish .rtz ftz sat x.2 ⟨true, k.natAbs * 2 ^ 100 - fr - 1, -100, true⟩

/-- fcls: the class mask (R193). -/
def Ty.fcls (t : Ty) (a : Nat) : Nat :=
  match t.decodeF a with
  | .nan true => 1
  | .nan false => 2
  | .inf true => 4
  | .inf false => 512
  | .fin n m _ =>
    if m = 0 then (if n then 32 else 64)
    else if t.isSubnormal a then (if n then 16 else 128)
    else if n then 8 else 256

/-- fscl: A times 2^n (R194). -/
def Ty.fscl (t : Ty) (rm : Rnd) (ftz sat : Bool) (a : Nat) (n : Int) : FRes :=
  let x := t.readF ftz a
  match x.1 with
  | .fin s m e => t.finish rm ftz sat x.2 ⟨s, m, if m = 0 then e else e + n, false⟩
  | v => t.roundV rm ftz sat x.2 v

/-- The exact value rounded to an integer (R32, R197). -/
def roundInt (rm : Rnd) (neg : Bool) (m : Nat) (e : Int) : Int × Bool :=
  let r := roundSig rm ⟨neg, m, e, false⟩ 0
  ((if neg then -(r.1 : Int) else r.1), r.2)

/-- Floating to integer (R32). -/
def Ty.toInt (dt : Ty) (rm : Rnd) (fl : Flags) (v : FVal) : FRes :=
  match v with
  | .nan _ => ⟨0, fl ||| Flags.nv⟩
  | .inf n => ⟨wrap dt.bits (if n then dt.minVal else dt.maxVal), fl ||| Flags.nv⟩
  | .fin n m e =>
    if 70 < e + m.log2 ∧ m ≠ 0 then ⟨wrap dt.bits (if n then dt.minVal else dt.maxVal), fl ||| Flags.nv⟩
    else
      let r := roundInt rm n m e
      if r.1 < dt.minVal then ⟨wrap dt.bits dt.minVal, fl ||| Flags.nv⟩
      else if dt.maxVal < r.1 then ⟨wrap dt.bits dt.maxVal, fl ||| Flags.nv⟩
      else ⟨wrap dt.bits r.1, if r.2 then fl ||| Flags.ix else fl⟩

/-- An exact integer rounded to a floating format (R32). -/
def Ty.ofInt (dt : Ty) (rm : Rnd) (ftz sat : Bool) (v : Int) : FRes :=
  dt.finish rm ftz sat 0 ⟨decide (v < 0), v.natAbs, 0, false⟩

/-- cvt of one element (R196). -/
def Ty.cvt (dt st : Ty) (rm : Rnd) (ftz sat : Bool) (x : Nat) : FRes :=
  if st.isFloat then
    let v := st.readF ftz x
    if dt.isFloat then dt.roundV rm ftz sat v.2 v.1 else dt.toInt rm v.2 v.1
  else if dt.isFloat then dt.ofInt rm ftz sat (st.value x)
  else ⟨fit sat dt (st.value x), 0⟩

/-- frnd: an integral value in the same format (R197); a zero keeps the sign of its operand (DESIGN CHOICE, log 36). -/
def Ty.frnd (t : Ty) (rm : Rnd) (ftz : Bool) (a : Nat) : FRes :=
  let x := t.readF ftz a
  match x.1 with
  | .nan _ => ⟨t.nanBits, x.2⟩
  | .fin n m e =>
    if 0 ≤ e ∨ m = 0 then ⟨t.flushed ftz a, x.2⟩
    else ⟨(t.roundF rm false ⟨n, (roundInt rm n m e).1.natAbs, 0, false⟩).bits, x.2⟩
  | _ => ⟨t.flushed ftz a, x.2⟩

/-- Floating compare of decoded operands (R182): less, equal, unordered. -/
def FVal.same (a b : FVal) : Bool :=
  match a, b with
  | .inf x, .inf y => x == y
  | .fin .., .fin .. => !(a.dy.lt b.dy) && !(b.dy.lt a.dy)
  | _, _ => false

/-- The truth of a condition on two floating operands (R182). -/
def Ty.fcmp (t : Ty) (ftz : Bool) (cc : CC) (a b : Nat) : Bool × Flags :=
  let x := t.readF ftz a
  let y := t.readF ftz b
  let un := match x.1, y.1 with
    | .nan _, _ => true
    | _, .nan _ => true
    | _, _ => false
  let eq := x.1.same y.1
  let lt := !eq && x.1.below y.1
  let r := match cc with
    | .eq => !un && eq
    | .ne => un || !eq
    | .lt => !un && lt
    | .le => !un && (lt || eq)
    | .gt => !un && !lt && !eq
    | .ge => !un && !lt
    | .num => !un
    | .nan => un
  (r, x.2 ||| y.2)

/-- RoundRNE of an exact sum with flags discarded: the additions of R42 and R40. -/
def Ty.addRNE (t : Ty) (a b : Nat) : Nat := (t.fadd .rne false false a b).bits

/-- RoundRNE(a - b) (R250). -/
def Ty.subRNE (t : Ty) (a b : Nat) : Nat := (t.fsub .rne false false a b).bits

end Sys2Proof
end

