-- ==== Sys2Proof/Machine/State.lean ====
section
/-! DEFINITION. The state of the Zildun Z6 module as plain data, its reset value, and the reasons a step can stop.
Registers a system-register map names are held in `sys`; everything else has a field of its own (INVENTORY.md). -/

namespace Sys2Proof.Machine

/-- Why a step stops with a fault. -/
inductive Fault
  /-- Raised by an agent that reads or writes physical memory without translation (an event ring, a frame pool) at an
  address that is not fitted; the spec names no outcome. Safe: the machine stops (log 17). -/
  | absentMemory
  deriving DecidableEq, Repr

/-- Why a step is refused. -/
inductive Refusal
  /-- Raised by an arm of exec whose instruction has no meaning in the model. Safe: the machine stops. -/
  | notModelled (mnemonic : String)
  deriving DecidableEq, Repr

/-- A producer-distance hold: the instructions the thread still passes before the consumer, and the count of its clock at which
the producer's latency has passed; none for a regx until its request is answered (02 R63, R65). -/
structure Hold where
  left : Nat
  due : Option Nat
  deriving DecidableEq, Repr

/-- One register or predicate a write-back fills (02 R62; 07 R166). -/
inductive Res
  | g (lane reg : Nat) (v : Word)
  | p (lane n : Nat) (v : Bool)
  deriving DecidableEq, Repr

/-- A fixed-latency result on its way, due at a count of its agent's clock, with the flags a floating instruction raises when it
completes (02 R62; 01 R30). -/
structure WB where
  due : Nat
  res : List Res
  fl : Flags
  fp : Bool
  deriving DecidableEq, Repr

/-- A reconvergence entry: header, mask, the threads it holds, and, once it has held one, the count of the core's clock at which
64 issue opportunities have passed (06 R147, R148). -/
structure Rcv where
  hdr : Word64
  mask : Word64
  held : Word64
  due : Option Nat
  deriving DecidableEq, Repr

/-- The state of a sub-gang (17 R367, R374). -/
inductive SubState
  | none | parked | dormant | resumed
  deriving DecidableEq, Repr

/-- A sub-gang: state, trap code, lanes, the PC at which it parked, its gang slot, and whether the trap was taken at a
header: by R50, by the debugger's launch hold, or at a barrier (17 R367, R368, R370; 20 R432). -/
structure Sub where
  st : SubState
  code : Nat
  mask : Word64
  hdr : Word64
  idx : Nat
  slot : Option Nat
  atHeader : Bool
  deriving DecidableEq, Repr

/-- An operation that failed after issue and whose lanes have not parked yet (17 R370): the trap kind, the word, the
line, the record slot, the scoreboard slot. -/
structure Fail where
  kind : Nat
  hdr : Word64
  idx : Nat
  line : Word64
  rslot : Nat
  slot : Option Nat
  deriving DecidableEq, Repr

/-- What a blocked thread waits for (06 R144), with what its completion needs. A blocking instruction keeps its whole
path at its word until every lane has its result, so a wait of one names the path's lanes. -/
inductive Wait
  | none
  /-- The lane has its result, or needs none; others of its path wait. -/
  | peers (path : Word64)
  /-- A clasp wait: the clasp's address, the phase waited on, the deadline and result register of a twait, the scope, and
  when the clasp was last read, in ns (14 R319, R322, R324). -/
  | clasp (pa : Nat) (phase : Nat) (deadline : Option Nat) (reg : Nat) (sc : Scope) (seen : Option Nat) (path : Word64)
  /-- The result of a pending operation (14 R319). -/
  | op (id : Nat) (path : Word64)
  /-- A push waiting for its box (11 R272). -/
  | push (path : Word64)
  /-- A launch: the record's address, the line, the register of the handle, and the record once read; it waits for its line,
  or for the lanes below it (05 R139). -/
  | launch (va line reg : Nat) (record : Option (List Byte)) (path : Word64)
  /-- A precise trap that the lane takes with the other failing lanes of its path, once none of them still waits: its kind, record slot
  and line (17 R364). -/
  | trap (kind rslot : Nat) (line path : Word64)
  /-- A retirement of a drift region (15 R329). -/
  | retire (idx : Nat)
  /-- A migration fault's page, and whether the wait has ended; the PC stays at the word (17 R376). -/
  | page (pa : Nat) (ended : Bool)
  deriving DecidableEq, Repr

/-- The path of a blocking instruction's wait. -/
def Wait.path? : Wait → Option Word64
  | .peers p => some p
  | .clasp _ _ _ _ _ _ p => some p
  | .op _ p => some p
  | .push p => some p
  | .launch _ _ _ _ p => some p
  | .trap _ _ _ p => some p
  | _ => Option.none

/-- A fence a thread has passed: the operations issued before it, its kind and scope, and whether it covers drift
(14 R318). -/
structure Fence where
  upto : Nat
  ord : Ord
  sc : Scope
  /-- The fence covers drift. -/
  dr : Bool
  /-- The drains a drift fence waits for: cache, region, and the count of drains it needs. -/
  drift : List (Nat × Nat × Nat)
  deriving DecidableEq, Repr

/-- A thread in its lane (02 R58, R61; 06 R140; 17 R374). -/
structure Lane where
  act : Bool
  exited : Bool
  hdr : Word64
  idx : Nat
  /-- The header word of the thread's block, once it has been fetched (06 R141); none after a restore. -/
  hw : Option Word64
  fresh : Bool
  ready : Nat
  holds : List Hold
  p : BitVec 7
  sb : BitVec 8
  tid : Word
  cx : Word
  cy : Word
  team : Word
  trig : Bool
  sub : Nat
  heldRcv : Bool
  heldRb : Bool
  rewound : Bool
  /-- The lane stalls at its word under R367: the trap's kind, and whether it was taken at a header. -/
  stalled : Option (Nat × Bool)
  wait : Wait
  fences : List Fence
  fails : List Fail
  drained : Nat
  /-- The drains that bring home what the thread added before its last ddrain: cache, region, and the count of drains each needs (13
  R302, R312). -/
  owes : List (Nat × Nat × Nat)
  deriving DecidableEq, Repr

/-- A lane without a thread. -/
def Lane.none : Lane where
  act := false
  exited := false
  hdr := 0
  idx := 0
  hw := Option.none
  fresh := false
  ready := 0
  holds := []
  p := 0
  sb := 0
  tid := 0
  cx := 0
  cy := 0
  team := 0
  trig := false
  sub := 0
  heldRcv := false
  heldRb := false
  rewound := false
  stalled := Option.none
  wait := .none
  fences := []
  fails := []
  drained := 0
  owes := []

/-- Whether a column core runs (19 R410). -/
inductive Run
  | halted | running | wfi
  deriving DecidableEq, Repr

/-- A request of regx not granted yet, and whether its word set a PD hold (05 R137; 02 R63). -/
structure RegxReq where
  lanes : Word64
  reg : Option Nat
  code : Nat
  slot : Option Nat
  pd : Bool
  deriving DecidableEq, Repr

/-- A gang, or a column core as a gang of one thread (06 R155). Registers are keyed 256 times the lane plus the number;
record slots 16 times the sub-gang plus the number. -/
structure Ctx where
  live : Bool
  run : Run
  gid : Word
  handle : Word64
  core : Nat
  part : Nat
  slot : Nat
  regBase : Nat
  regCode : Nat
  age : Nat
  prio : Nat
  urgent : Bool
  /-- The gang was ready at its last clock, and since which count of its clock it has been without issuing (06 R154). -/
  ready : Bool
  readySince : Option Nat
  starved : Bool
  issued : Nat
  lanes : SMap Lane
  g : SMap Word
  e : SMap Bool
  k : SMap Word64
  b : SMap Rec256
  fp : Flags
  rcv : List Rcv
  subs : SMap Sub
  wbs : List WB
  regx : List RegxReq
  saving : Bool
  deriving DecidableEq, Repr

/-- No gang. -/
def Ctx.none : Ctx where
  live := false
  run := .halted
  gid := 0
  handle := 0
  core := 0
  part := 0
  slot := 0
  regBase := 0
  regCode := 4
  age := 0
  prio := 0
  urgent := false
  ready := true
  readySince := Option.none
  starved := false
  issued := 0
  lanes := []
  g := []
  e := []
  k := []
  b := []
  fp := 0
  rcv := []
  subs := []
  wbs := []
  regx := []
  saving := false

/-- No sub-gang. -/
def Sub.none : Sub := ⟨.none, 0, 0, 0, 0, Option.none, false⟩

/-- The path whose word is executed: agent, sub-gang, lanes, and the header word of its block (06 R140, R145). -/
structure Sel where
  ctx : CtxId
  sub : Nat
  lanes : Word64
  hw : Word64
  deriving DecidableEq, Repr

/-! ### Launches (05, 17) -/

/-- A launch-signal line (05 R113-R115): its bytes, whether it is Pending, its count, the last handle taken, and the writes that are held
until it is Idle again, each with its offset (R114). -/
structure LaunchLine where
  bytes : SMap Byte
  pending : Bool
  seq : Nat
  taken : Word64
  held : List (Nat × List Byte)
  deriving DecidableEq, Repr

def LaunchLine.idle : LaunchLine := ⟨[], false, 0, 0, []⟩

/-- A stage of a launch (05 R117). -/
inductive Stage
  | waiting | distributing | distributed | resident
  deriving DecidableEq, Repr

/-- An accepted, unretired launch: handle, receiving column, record (128 bytes), stage, next root, next identifier,
argument copy, spill record, priority, ended status with cause, switched out, ending, watchdog start, the weight-state
changes it waits for, the column's later post, threads placed per column, and commands outstanding (05 R116-R121;
17 R379-R382). -/
structure Launch where
  handle : Word64
  record : List Byte
  stage : Stage
  nextRoot : Nat
  nextTid : Nat
  args : List Word64
  spill : Rec256
  prio : Nat
  status : Nat
  cause : Nat
  ending : Bool
  switched : Bool
  quiescing : Nat
  wdog : Option Nat
  hung : Bool
  /-- Its own threads have all triggered at some moment since it was Distributed (05 R118). -/
  trigOk : Bool
  placed : Word64
  deriving DecidableEq, Repr

/-- A thread in a bin or a spill entry (05 R123, R126); `after` names the cache and the position of its parent's writes that come before
it, where it may run behind another cache (R132; 13 R305). -/
structure Seed where
  tid : Word
  cx : Word
  cy : Word
  trig : Bool
  after : Option (Nat × Nat)
  deriving DecidableEq, Repr

/-- A bin in use, with the count of its core's clock when its first thread arrived (05 R123-R125). -/
structure Bin where
  core : Nat
  num : Nat
  handle : Word64
  hdr : Word64
  seeds : List Seed
  since : Nat
  tmo : Nat
  closed : Bool
  order : Nat
  deriving DecidableEq, Repr

/-- A live team (05 R129). -/
structure Team where
  num : Nat
  handle : Word64
  deriving DecidableEq, Repr

/-- An arena of a launch on a core (05 R128). -/
structure Arena where
  handle : Word64
  core : Nat
  base : Nat
  size : Nat
  block : Nat
  deriving DecidableEq, Repr

/-- A spill entry in use (05 R126), with its thread's `after`. -/
structure Spill where
  handle : Word64
  entry : Nat
  col : Nat
  after : Option (Nat × Nat)
  deriving DecidableEq, Repr

/-- A tomb: a gang whose threads have exited while its operations are unperformed (17 R371). -/
structure Tomb where
  gid : Nat
  handle : Word64
  deriving DecidableEq, Repr

/-- A frame in use: what it holds (17 R372-R375); of an arena, which 128 KiB of it, and where the arena lay in the scratchpad
(17 R380); or, while the module is in M2, part 0 of a column, its column core's thread, or part 1, its bins, spill entries and lines
(20 R423). -/
inductive FrameUse
  | gang (gid : Nat) | arena (handle : Word64) (core block base : Nat) | column (part : Nat)
  deriving DecidableEq, Repr

/-- A frame of a column's pool in use. -/
structure Frame where
  col : Nat
  num : Nat
  use : FrameUse
  deriving DecidableEq, Repr

/-- A gang with a frame, being saved or out in it: STATE as the frame has or will have it, with bit 0 once it is sealed; its
age, REGS code and awaited page; failures its lanes have not parked for; sub-gangs that stand at a header; what trapret has
done to its sub-gangs in the frame: 0 resumed, 1 skipped (17 R373-R378; 19 R409); the issue opportunities left to its reconvergence
entries, bottom first (06 R148); the lanes that stall under R367, with the trap's kind and whether it was taken at a header; and the
lanes at a word 0 whose header has been checked. -/
structure Saved where
  gid : Nat
  handle : Word64
  col : Nat
  frame : Nat
  state : Nat
  age : Nat
  regs : Nat
  wkey : Nat
  fails : List (Nat × Fail)
  hdrSubs : List Nat
  acts : List (Nat × Nat)
  limits : List (Option Nat)
  stalls : List (Nat × Nat × Bool)
  checked : List Nat
  owes : List (Nat × List (Nat × Nat × Nat))
  deriving DecidableEq, Repr

/-- A whole-launch operation in progress (17 R379-R381). -/
structure SwitchOp where
  op : Nat
  handle : Word64
  col : Nat
  deriving DecidableEq, Repr

/-- The launch machinery of the module. -/
structure LaunchSt where
  lines : SMap LaunchLine
  launches : List Launch
  bins : List Bin
  binOrder : Nat
  teams : List Team
  /-- Numbers missing from a core's reserve of 32 (log 12). -/
  used : SMap Nat
  arenas : List Arena
  spills : List Spill
  /-- The teams each core's urgency predictor tracks, and the count of the core's clock at which its window began, plus 1
  (06 R153). -/
  tracked : SMap (List Nat)
  windows : SMap Nat
  /-- Gangs formed on each core, modulo 2^18 (17 R366). -/
  formed : SMap Nat
  tombs : List Tomb
  frames : List Frame
  saved : List Saved
  switch : Option SwitchOp
  /-- Launches being switched in (17 R380; 20 R424). -/
  ins : List Word64
  deriving DecidableEq, Repr

/-! ### Operations in flight and coherence (02 R65; 09; 10; 13) -/

/-- What an operation does when it completes. -/
inductive OpKind
  | load (e : Bool) | store | atom (op : Nat) | red (op : Nat) | recLd (slot : Nat) | recSt | prf | home | inv | wb
  | dadd | dld (e : Bool) | ddrain | dqry
  | claspInit | claspArrive | claspExpect | claspTest
  deriving DecidableEq, Repr

/-- One lane's access: physical address, bytes, data, and what the checks found: zero-filled or dropped by the record's
policy, or failed with a trap kind; the second address is the virtual line (10 R235, R236). `off` is the register its result begins
at, above the operation's own, and `held` says that a lease, or a drain, has held it where it acts (09 R230; 15 R339). -/
structure Acc where
  lane : Nat
  pa : Nat
  n : Nat
  data : Nat
  data2 : Nat
  drop : Bool
  fail : Nat
  line : Word64
  home : Nat
  off : Nat
  held : Bool
  deriving DecidableEq, Repr

/-- An operation issued and not completed (02 R65, R67). Its `sub` is the gang's 0 or its sub-gang's number; 17 once that number has been
given to another sub-gang. -/
structure MOp where
  id : Nat
  ctx : CtxId
  sub : Nat
  kind : OpKind
  hdr : Word64
  idx : Nat
  rt : Rt
  sc : Scope
  ord : Ord
  w : Nat
  reg : Option Nat
  slot : Option Nat
  rslot : Nat
  lanes : Word64
  accs : List Acc
  due : Nat
  handle : Word64
  deriving DecidableEq, Repr

/-- A kind of copy in an L1; a lease copy has its end and the guard band of its grant, in ns (09 R225, R227, R229). -/
inductive CopyKind
  | owned | shared | lease (ends band : Nat)
  deriving DecidableEq, Repr

/-- A line in a cache: its dirty bytes by address, its kind, its retention class (09 R217, R225). Caches are numbered
5 times the column plus the logical core, 4 for the column core's. -/
structure L1Line where
  cache : Nat
  line : Nat
  kind : CopyKind
  dirty : List (Nat × Byte)
  cls : Nat
  deriving DecidableEq, Repr

/-- Where an accepted write stands on its way home (10 R239; 09 R230). -/
inductive FwdStage
  | l1 | slice | held
  deriving DecidableEq, Repr

/-- A write or a reduction accepted and not yet applied at its home (10 R239; 13 R306, R308): the bytes it covers, the lanes it
serves, and, for a reduction, each lane's op code, width code and operand, in the order they are applied; and the retention class of
the read copy that is kept under a lease once it is applied, where one is (09 R225). -/
structure Fwd where
  id : Nat
  cache : Nat
  stage : FwdStage
  bytes : List (Nat × Byte)
  op : Nat
  ctx : CtxId
  lanes : Word64
  red : List (Nat × Nat × Nat)
  keep : Option Nat
  deriving DecidableEq, Repr

/-- A coherence region at its home (09 R227): base, size, each cache's latest lease end plus guard band, sharing columns,
owner, and the time of the last conflict. -/
structure Region where
  base : Nat
  size : Nat
  leases : List (Nat × Nat)
  sharers : Word64
  owner : Option Nat
  conflict : Nat
  deriving DecidableEq, Repr

/-- A mark of a narrow release on its location: the caches named and the position (13 R306). -/
structure Mark where
  pa : Nat
  n : Nat
  cache : Nat
  upto : Nat
  inside : Scope
  /-- The release covers withheld deltas of its cache (13 R312). -/
  drift : Bool
  deriving DecidableEq, Repr

/-- A TLB entry: which TLB (0-255 cores, 256-319 slices), page base, page bits, leaf, the leaf's address (09 R213). -/
structure TlbEntry where
  tlb : Nat
  va : Nat
  bits : Nat
  leaf : Word64
  leafPa : Nat
  deriving DecidableEq, Repr

/-- An invalidation (19 R403): its form, 0 one page, 1 entries without G, 2 all; the TLBs it has not reached; the operations
issued when it last reached one. It is kept until a tlbsync of its thread. -/
structure TlbInv where
  id : Nat
  form : Nat
  va : Nat
  by_ : CtxId
  tlbs : List Nat
  upto : Nat
  deriving DecidableEq, Repr

/-- A page move in progress: the frames, the leaf, whether the page is promoted or demoted (09 R220), and the time in ns before which it does
not end by itself. -/
structure Move where
  old : Nat
  new : Nat
  leafPa : Nat
  promote : Bool
  due : Nat
  deriving DecidableEq, Repr

/-- A promoted page: pool frame, capacity frame (09 R219). -/
structure Promo where
  pool : Nat
  cap : Nat
  deriving DecidableEq, Repr

/-- A requested change of weight states: the register's half, its value, the writing column, and the launches accepted
before it that have not retired (09 R223). -/
structure WsChange where
  half : Nat
  value : Word64
  col : Nat
  before : List Word64
  deriving DecidableEq, Repr

/-- A line in an instruction cache: its 128 bytes, and whether it is replaced last (06 R141, R142). -/
structure CodeLine where
  bytes : List Byte
  last : Bool
  deriving DecidableEq, Repr

/-- A line in its home slice's cache, with the bytes of it that are there: all of them once it has been fetched, those written while its
memory is taken (18 R394). -/
structure SliceLine where
  line : Nat
  got : BitVec 128
  deriving DecidableEq, Repr

/-- Memory system state beside the memory itself. -/
structure MemSt where
  ops : List MOp
  /-- The lines of the L1s, in the order of their last use (09 R217). -/
  l1 : List L1Line
  /-- The lines of the slices' caches, in the order of their last use (00 R6; 18 R394). -/
  slice : List SliceLine
  fwd : List Fwd
  /-- Writes of engines, of the host and of peers that a lease holds: the command and the address (09 R230). -/
  ewaits : List (Nat × Nat)
  regions : List Region
  marks : List Mark
  tlb : List TlbEntry
  invs : List TlbInv
  /-- Instruction caches: keyed by cache times 2^49 plus the line (06 R141). -/
  icache : SMap (Option CodeLine)
  /-- Lines of code that a block's PF has asked for (06 R142). -/
  prefetch : List (CtxId × Word64)
  /-- The golden packet of each loop, by the operation it carries, and when it became golden, in ns (09 R224). -/
  golden : SMap (Option (Nat × Nat))
  /-- L1s whose time is out of the guard band (09 R231). -/
  skewed : SMap Bool
  counts : SMap Nat
  promos : List Promo
  moves : List Move
  /-- Pages whose migration a home has asked its column core for (17 R376). -/
  asked : List Nat
  /-- When each column's epoch began, in ns (09 R219). -/
  epochs : SMap Nat
  wsEff : SMap Word64
  wsPend : List WsChange
  deriving DecidableEq, Repr

/-- The instruction an engine command came from: agent, launch, gang, source lane, word, supervisor level, column and core
(11 R259, R269; 17 R365). -/
structure CmdId where
  ctx : CtxId
  handle : Word64
  gid : Word
  lane : Nat
  hdr : Word64
  idx : Nat
  sup : Bool
  col : Nat
  core : Nat
  deriving DecidableEq, Repr

/-- The clasp a command names: a virtual address, translated again at completion, or an offset in a launch's arena on a core
(14 R445, R326); `slot` is its record's slot (17 R365). -/
inductive ClaspRef
  | virt (va slot : Nat) | scratch (handle : Word64) (core off slot : Nat)
  deriving DecidableEq, Repr

/-- The record slot that named a clasp (17 R365). -/
def ClaspRef.slot : ClaspRef → Nat
  | .virt _ n => n
  | .scratch _ _ _ n => n

/-- The virtual line of a clasp (17 R365). -/
def ClaspRef.line : ClaspRef → Word64
  | .virt va _ => BitVec.ofNat 64 (va / 128 * 128)
  | .scratch _ _ _ _ => 0

/-! ### Queues, engines, matrix arrays (11, 12) -/

/-- An occupied slot of a named queue (11 R253-R255): its number, reservation, port, tag, whether it is published, its error
bit, the gang that holds it, and, once it is due for release, the number of operations issued before that. -/
structure QSlot where
  num : Nat
  seq : Nat
  port : Nat
  tag : Nat
  published : Bool
  err : Bool
  holder : Option Nat
  releasing : Option Nat
  deriving DecidableEq, Repr

/-- A pop bound and not yet written (11 R264). -/
structure QPop where
  gid : Nat
  seq : Nat
  lanes : Word64
  reg : Nat
  deriving DecidableEq, Repr

/-- A named queue; Free when `owner` is none (11 R253). -/
structure Queue where
  owner : Option Word64
  base : Nat
  count : Nat
  size : Nat
  allow : List Nat
  rsv : Nat
  pops : Nat
  slots : List QSlot
  pend : List QPop
  deriving DecidableEq, Repr

def Queue.free : Queue := ⟨none, 0, 0, 0, [0, 0, 0, 0, 0, 0, 0, 0], 0, 0, [], []⟩

/-- A stream of the access engine that has not ended (11 R256, R257): its number, its descriptor's bytes, the record and its
slot, and the next iteration. -/
structure Stream where
  num : Nat
  desc : List Byte
  rec_ : Rec256
  rslot : Nat
  iter : Nat
  deriving DecidableEq, Repr

/-- The access engine of a core running a program; `st` is the issuing block's (11 R257; 18 R393). -/
structure AERun where
  core : Nat
  by_ : CmdId
  st : Bool
  streams : List Stream
  deriving DecidableEq, Repr

/-- A command of a copy engine (11 R259, R268): source record (none for a fill) and destination with their slots, fill
value, clasp, and the elements moved while others had to wait (18 R393); or a quiesce marker (17 R380). -/
structure CpCmd where
  id : Nat
  col : Nat
  by_ : CmdId
  src : Option Rec256
  dst : Rec256
  sslot : Nat
  dslot : Nat
  fill : Nat
  clasp : Option ClaspRef
  st : Bool
  moved : List (Nat × Nat)
  marker : Bool
  deriving DecidableEq, Repr

/-- A push box (11 R270). -/
structure Box where
  gid : Nat
  handle : Word64
  reg : Nat
  lanes : Word64
  deriving DecidableEq, Repr

/-- A push waiting on a box (11 R272). -/
structure Push where
  core : Nat
  box : Nat
  gid : Nat
  sub : Nat
  lanes : Word64
  path : Word64
  data : List (Nat × Word)
  handle : Word64
  deriving DecidableEq, Repr

/-- Queues, access engines, copy engines and boxes. -/
structure EngineSt where
  queues : SMap Queue
  /-- The queues of launches switched out, by 16 times the core plus the number (17 R380). -/
  qsaved : List (Nat × Queue)
  /-- Their armed boxes, by 16 times the core plus the number (11 R270). -/
  bsaved : List (Nat × Box)
  ae : List AERun
  cp : List CpCmd
  boxes : SMap (Option Box)
  pushes : List Push
  deriving DecidableEq, Repr

/-- A weight stage: format, groups, elements of the tile as exact patterns keyed 128 n + k, BX4 scale bytes keyed 4 n +
2 block + (0 scale, 1 spare), poisoned (12 R273, R278). -/
structure Stage2 where
  fmt : MFmt
  groups : Nat
  tile : SMap Nat
  scales : SMap Nat
  poison : Bool
  deriving DecidableEq, Repr

/-- The tile of a stage after reset: four groups of bf16 +0 (12 R273). -/
def Stage2.reset : Stage2 := ⟨.bf16, 4, [], [], false⟩

/-- An mmac's parameters (12 R280): rows, groups, first accumulator, ZERO, format, origin, records, multicast. -/
structure MacArgs where
  m : Nat
  groups : Nat
  acc : Nat
  zero : Bool
  fmt : MFmt
  ax : Int
  ay : Int
  data : Rec256
  scale : Rec256
  mcast : Nat
  mtag : Nat
  deriving DecidableEq, Repr

/-- What a matrix command does. An mmac holds the values its elements start from, keyed 128 m + n, unless it is chained on
the mmac before it (R282), which hands them over. -/
inductive MCmdKind
  | shape (word : Nat)
  | load (fmt : MFmt) (groups : Nat) (data scale : Rec256)
  | mac (a : MacArgs) (init : SMap Word) (chained : Bool)
  | marker
  deriving DecidableEq, Repr

/-- A matrix command in a core's queue (12 R274): the slot its fault record names, the stage it fills or uses, its clasp,
whether it runs, the groups its passes have done, the count of the clock at which a multicast member began to wait, the slot it is
deferred past (R288), its effective divisor and mask, the commands it shares its reads of A with, and the values of A that one of them
has read (R285). -/
structure MCmd where
  id : Nat
  core : Nat
  by_ : CmdId
  aslot : Nat
  st : Bool
  kind : MCmdKind
  clasp : Option ClaspRef
  stage : Nat
  running : Bool
  pass : Nat
  headSince : Option Nat
  deferred : Option Nat
  ediv : Nat
  emask : Nat
  mates : List Nat
  given : Option (List Nat)
  deriving DecidableEq, Repr

/-- The matrix arrays. Stages are keyed 2 times the core plus the stage; flags NI SAT OF NV in bits 3 to 0. -/
structure MatrixSt where
  stages : SMap Stage2
  current : SMap Nat
  loads : SMap Nat
  cmds : List MCmd
  flags : SMap Nat
  /-- Bands that are off, a mask for each core (log 13). -/
  bandsOff : SMap Nat
  deriving DecidableEq, Repr

/-! ### Clasps and drift (14, 15) -/

/-- Lanes of an agent recorded as waiting at a clasp (14 R324): the clasp, the waiting agent's column, the agent, the phase
its wake carries, and the wake's stage: 0 none, 1 awaiting admission (R325), 2 sent. -/
structure Waiter where
  pa : Nat
  col : Nat
  ctx : CtxId
  phase : Nat
  stage : Nat
  deriving DecidableEq, Repr

/-- What a pending arrival does to its clasp (14 R326). -/
inductive PendKind
  | bytes | arrive | expect
  deriving DecidableEq, Repr

/-- An arrival, an expectation or bytes of a command entered for a clasp whose arena is switched out: the slot of its record, and the
operation and lane that wait for it, where any do (14 R326). -/
structure PendArr where
  handle : Word64
  core : Nat
  off : Nat
  kind : PendKind
  n : Nat
  by_ : CmdId
  slot : Nat
  op : Option (Nat × Nat)
  deriving DecidableEq, Repr

/-- Bytes on their way to a clasp, for a command (14 R323, R445). -/
structure ClaspAdd where
  id : Nat
  ref : ClaspRef
  n : Nat
  by_ : CmdId
  deriving DecidableEq, Repr

/-- The clasps' waiters, the pending-arrival tables, the byte additions under way, and the slew limiter's record: the first
column of the last limited admission, the admissions of the last 100 ns (time in ns, column), and the columns that wait
to leave C1-C3 (R325). -/
structure ClaspSt where
  waiters : List Waiter
  pend : List PendArr
  adds : List ClaspAdd
  slewLast : Nat
  admits : List (Nat × Nat)
  exits : List Nat
  deriving DecidableEq, Repr

/-- A drift region of the table (15 R327). -/
structure DriftRegion where
  valid : Bool
  fmt : Nat
  base : Nat
  lim : Word
  size : Nat
  deriving DecidableEq, Repr

def DriftRegion.off : DriftRegion := ⟨false, 0, 0, 0, 0⟩

/-- A cache's state for a region it tracks (15 R330): share in units of 2^-152, grant number, magnitude tracker as f32,
pending entries by element, delta writes outstanding, a drain in flight, whether it is forced or ends the tracking, an
outstanding share request, and drains completed. -/
structure Tracker where
  cache : Nat
  region : Nat
  share : Nat
  grant : Nat
  total : Word
  pend : List (Nat × Word)
  draining : Bool
  forced : Bool
  ends : Bool
  requested : Bool
  drains : Nat
  deriving DecidableEq, Repr

/-- A share granted by a region home: the cache, the amount in units of 2^-152, the grant number. -/
structure Grant where
  cache : Nat
  share : Nat
  num : Nat
  deriving DecidableEq, Repr

/-- What a region's home keeps (15 R331, R335): the unallocated amount, the grants, those under a forced drain, waiting share
requests with the grant each has reclaimed, the tolerance queries that have arrived, in order, those between clear and done, and
whether the entry retires. A grant is named by its cache and its number. -/
structure DriftHome where
  region : Nat
  unalloc : Nat
  grants : List Grant
  forced : List (Nat × Nat)
  reqs : List (Nat × Option (Nat × Nat))
  queue : List Nat
  clears : List Nat
  retiring : Bool
  deriving DecidableEq, Repr

/-- An access to an element as its home serves it (15 R335): the operation and lane it serves, none once that has gone; the element,
the tolerance as f32, the loader's cache, its stage (0 queued at the element home, 1 the query travels, 2 at the region home, 3 the
clear travels, 4 answered), the value read, the grants whose drains it waits for, once it is served, whether the region home is told
only once the access has been performed, and the loader's own deltas of the element that were withheld at the read (R313; log 32). -/
structure DQuery where
  id : Nat
  op : Option Nat
  lane : Nat
  region : Nat
  pa : Nat
  eps : Word
  loader : Option Nat
  stage : Nat
  value : Nat
  waits : Option (List (Nat × Nat))
  hold : Bool
  own : List Word
  deriving DecidableEq, Repr

/-- A drift message in flight (15 R338). A delta write names its region's format, the operation and lane whose addition it carries, when
it carries one directly, and whether a lease has held it at the element home (R330, R333). A forced drain names its reason: 0 a reclaim, 1 a tolerance load, 2 a write or an atomic, 3 a retirement (R334). -/
inductive DMsg
  | shareRequest (cache region : Nat)
  | shareGrant (cache region share num : Nat)
  | forcedDrain (cache region num reason : Nat)
  | deltaWrite (cache region pa : Nat) (x : Word) (fmt : Nat) (op : Option (Nat × Nat)) (held : Bool)
  | deltaAck (cache region pa : Nat) (op : Option (Nat × Nat))
  | drainAck (cache region num : Nat)
  | shareReturn (cache region num : Nat)
  | tolQuery (q : Nat)
  | tolClear (q : Nat)
  | tolDone (region q : Nat)
  deriving DecidableEq, Repr

/-- The drift table, its staged values, the caches' trackers, the region homes, the messages, the queries, and the grants revoked
before they arrived: cache, region, number (15 R339). -/
structure DriftSt where
  table : SMap DriftRegion
  staged : Word64
  trackers : List Tracker
  homes : List DriftHome
  msgs : List (Nat × DMsg)
  queries : List DQuery
  voids : List (Nat × Nat × Nat)
  deriving DecidableEq, Repr

/-! ### Other modules, time, events, power, security (16, 18, 19, 20) -/

/-- An optical link (16 R351-R353): its register's fields, the wavelengths that work, the next flit it expects, whether it has
asked for a replay, when its last flit came, in ns, and the stop signals: the far end's, which holds this module's flits, and this
module's. -/
structure Link where
  up : Bool
  err : Bool
  peer : Nat
  minw : Nat
  width : Nat
  good : Nat
  seq : Nat
  replay : Bool
  heard : Nat
  stopIn : Bool
  stopOut : Bool
  deriving DecidableEq, Repr

def Link.reset : Link := ⟨false, false, 0, 1, 0, 0, 0, false, 0, false, false⟩

/-- A group slot (16 R354): this module's rank, and the members' chip numbers in rank order, none while it is not loaded; and the ranks
lost since (R357). -/
structure Group where
  rank : Nat
  members : List Nat
  down : List Nat
  deriving DecidableEq, Repr

def Group.none : Group := ⟨0, [], []⟩

/-- A collective's parameters (16 R360): records with their slots, operation, wire format, group, root, count, and the
residual's presence. -/
structure CollArgs where
  src : Rec256
  dst : Rec256
  res : Option Rec256
  sslot : Nat
  dslot : Nat
  rslot : Nat
  op : Nat
  fmt : Ty
  group : Nat
  root : Nat
  count : Nat
  deriving DecidableEq, Repr

/-- A collective in flight (16 R355-R357): the chunk and its attempt, when that began, in ns; the ranks
taken to be down; the member-down messages it has sent, each a lost rank and the rank told; the residuals as they stood when the chunk
began; what it has sent up and down in the chunk; and, once the chunk is done, the words for the destination and the residual. -/
structure Coll where
  id : Nat
  by_ : CmdId
  args : CollArgs
  clasp : Option ClaspRef
  st : Bool
  chunk : Nat
  attempt : Nat
  since : Nat
  down : List Nat
  told : List (Nat × Nat)
  res : Option (List Word)
  sentUp : List Word
  sentDown : List Word
  done : Option (List Word × List Word)
  deriving DecidableEq, Repr

/-- A peer's request that has come (16 R349, R351): its number, what it asks, its bytes, and its completion once it has been served: none
where it was refused. -/
structure PeerIn where
  id : Nat
  req : PeerReq
  pa : Nat
  n : Nat
  enables : BitVec 128
  answer : Option (Option (List Byte))
  deriving DecidableEq, Repr

/-- Links, groups and collectives; the demands heard from other members and announced by this one, with their times in ns
(16 R362); the requests of peers that have no completion yet (16 R349, R351), and the last completion sent, with its link, none where
the request was refused; and the accesses of engines, of instructions' units and of fetches that a link's stop signal holds, by
their numbers, with the ticks since which it does (16 R348, R351); and when a flit last came from each module, in ns (16 R357). -/
structure FabricSt where
  links : SMap Link
  groups : SMap Group
  colls : List Coll
  demands : List (Nat × Nat × Nat)
  own : List (Nat × Nat)
  inbox : List PeerIn
  reply : Option (Nat × Option (List Byte))
  waits : List (Nat × Nat)
  heard : SMap Nat
  deriving DecidableEq, Repr

/-- The maintenance calendar and the slots (18 R388-R396): staged values by register, the time of the last write, the
anchor A; the slot in progress with its extensions, and whether the drain window of that slot or the next has begun; the last slot that
ended, with its extensions; work carried: 0 none, 1 into the next slot, 2 within the slot in progress, with its mask; the masks of
works done outside slots, oldest first, and the end of the piece under way, in ns; commands under way since before the drain window, by
their numbers, with the transactions that the slot's start held, and tolerated ones; the accesses that wait at controllers, in the order
they came: operation and address (R394); ring monitors, keyed 65536 times the die, 4096 times 0 for the detune or 1 for the power, 32
times the fibre, plus the ring, and the tick of the last sample (25 R442); the link that gives a wavelength up for retraining; and
the ERR bits of the ring registers. -/
structure CalSt where
  staged : SMap (Option Nat)
  lastWrite : Nat
  anchor : Nat
  slot : Option Nat
  extended : Nat
  drain : Bool
  past : Option (Nat × Nat)
  carried : Nat
  carryMask : Word64
  outs : List Word64
  pieceEnd : Nat
  held : List (Nat × CmdId × Nat)
  tolerated : Nat
  queue : List (Nat × Nat)
  monitor : SMap Nat
  sampledAt : Option Nat
  retrain : Option Nat
  htErr : Bool
  mapErr : Bool
  deriving DecidableEq, Repr

/-- A record waiting in an overflow store (19 R405). -/
structure OvfRec where
  col : Nat
  queue : Nat
  bytes : List Byte
  deriving DecidableEq, Repr

/-- A throttle record kept pending for a column (17 R384). -/
structure ThrottleRec where
  cause : Nat
  count : Nat
  a : Word64
  b : Word64
  time : Word64
  deriving DecidableEq, Repr

/-- An armed injection (19 R413): its stage is 0 armed, 1 written, 2 read; the gang that read it. -/
structure Inject where
  arr : Nat
  col : Nat
  core : Nat
  loc : Nat
  mode : Nat
  bit : Nat
  stage : Nat
  gid : Word
  deriving DecidableEq, Repr

structure EventSt where
  ovf : List OvfRec
  throttle : SMap (Option ThrottleRec)
  inject : List Inject
  msix : List Nat
  deriving DecidableEq, Repr

/-- Power (20 R417-R425): each column's C-state and quiesce state, with the column core that asked, plus 1; the module's
state, 1 in M1 and 2 in M2; while it enters M2, 1 as launches are switched out and 2 as caches drain; the column cores waiting in a request for M2, with their
destinations, and the times of entry and wake; the demand asked for; the columns' caps, the times of their governors' last
actions and since when they are under their limits, plus 1; the fast throttle with its alarms and the time the last of them
cleared; the BROWN signal and a refused one's hold; that the tolerance has asked for M2 and been refused; and, from resumption until its
event, the times of entry and wake. Times are in ns. The clocks' counts stand at `clkCore` and `clkCc` at tick
`clkAt`, when the throttle last changed their periods (02 R62; 20 R421). -/
structure PowerSt where
  cstate : SMap Nat
  quiesce : SMap Nat
  quiesceBy : SMap Nat
  mstate : Nat
  entering : Nat
  m2by : List (Nat × Option Nat)
  m2outs : List Word64
  entryTime : Nat
  wakeTime : Option Nat
  demand : Nat
  cap : SMap Nat
  capAt : Nat
  govAt : SMap Nat
  under : SMap Nat
  fast : SMap Bool
  throtPin : Bool
  powerAlarm : Bool
  hot : SMap Bool
  clearAt : Nat
  brownPin : Bool
  brownHold : Bool
  told : Bool
  back : Option (Nat × Nat)
  clkAt : Nat
  clkCore : Nat
  clkCc : Nat
  deriving DecidableEq, Repr

/-- An entry of the debugger's hold list (20 R432). -/
structure HoldEntry where
  gid : Nat
  sub : Nat
  code : Nat
  lanes : Word64
  hdr : Word64
  idx : Nat
  deriving DecidableEq, Repr

/-- An access of the host through the aperture or the debug window that has not been performed (20 R429): its number, its address, and a
write's bytes, or how many a read asks for. -/
structure HostAcc where
  id : Nat
  pa : Nat
  data : Option (List Byte)
  n : Nat
  deriving DecidableEq, Repr

/-- Security, bring-up, host and debug (20 R426-R432): the lifecycle, the debug level, alarms logged, the session keys' and all
keys' erasure, the last challenge, compute in reset, the host's registers with the boot measurement of the runtime image that BOOTIMG
names, the debug window's, the hold list, settlements that wait for a save, the accesses of the host under way, in order, and the
data last returned to the host. -/
structure SecSt where
  lifecycle : Nat
  dbg : Nat
  alarms : Nat
  keysErased : Bool
  allErased : Bool
  nonce : Option Nat
  held : Bool
  bootimg : Word64
  measured : Option (BitVec 512)
  hstat : Word64
  apbase : Word64
  dctl : Word64
  dhandle : Word64
  daddr : Word64
  dreg : Word64
  dhold : List HoldEntry
  dhact : List Nat
  hostq : List HostAcc
  hostOut : List Byte
  deriving DecidableEq, Repr

/-- The whole module. -/
structure State where
  /-- The events still to come about, in order (log 2). -/
  agenda : List Instr
  /-- The second path of the clock in progress (06 R145). -/
  second : Option Sel
  /-- The path whose word is executed (log 2). -/
  sel : Sel
  /-- Bytes stored by the step in progress, the newest first (log 4). -/
  wlog : List (Nat × Byte)
  /-- The counter of free values (log 11). -/
  freeCtr : Nat
  /-- The number of operations issued (log 7). -/
  opId : Nat
  /-- Ticks an operation takes before it may complete by itself; 150, the 30 clocks of an L1 hit (R215, indicative), at reset (log 7). -/
  lag : Nat
  /-- Global time in twelfths of a nanosecond (18 R386; log 1). -/
  now : Nat
  /-- The agents of this tick that have had their turn (log 2). -/
  turn : Nat
  /-- A stop met by an untranslated access (log 17). -/
  stuck : Option Fault
  /-- Memory: module addresses below 2^48, then scratchpads, peers, host and CXL (log 4). -/
  mem : SMap Byte
  /-- Agents: column core n at n, a gang at 64 plus its GID. -/
  ctxs : SMap Ctx
  /-- System registers that differ from their reset values. -/
  sys : SMap (Option Word64)
  /-- The offset of each column's view of global time, in ns (18 R387; log 1). -/
  skew : SMap Int
  /-- The highest value of global time that a column could read before its skew last changed (18 R387). -/
  seen : SMap Nat
  la : LaunchSt
  ms : MemSt
  en : EngineSt
  mx : MatrixSt
  cl : ClaspSt
  dr : DriftSt
  fa : FabricSt
  ca : CalSt
  ev : EventSt
  pw : PowerSt
  se : SecSt
  deriving DecidableEq, Repr

/-- Column core 0 at reset: one active thread at the entry header, registers full, awaiting bring-up (20 R427;
logs 5, 6). -/
def Ctx.columnCore (run : Run) : Ctx :=
  { Ctx.none with
    live := true
    run := run
    lanes := [(0, { Lane.none with act := true, fresh := true, team := 0xFFFFFFFF })] }

/-- The module after power-on reset. -/
def State.reset : State where
  agenda := []
  second := none
  sel := ⟨.cc 0, 0, 0, 0⟩
  wlog := []
  freeCtr := 0
  opId := 0
  lag := 150
  now := 0
  turn := 0
  stuck := none
  mem := []
  ctxs := (List.range 64).map fun n => (n, Ctx.columnCore .halted)
  sys := []
  skew := []
  seen := []
  la := ⟨[], [], [], 0, [], [], [], [], [], [], [], [], [], [], none, []⟩
  ms := ⟨[], [], [], [], [], [], [], [], [], [], [], [], [], [], [], [], [], [], [], []⟩
  en := ⟨[], [], [], [], [], [], []⟩
  mx := ⟨[], [], [], [], [], []⟩
  cl := ⟨[], [], [], 0, [], []⟩
  dr := ⟨[], 0, [], [], [], [], []⟩
  fa := ⟨[], [], [], [], [], [], none, [], []⟩
  ca := ⟨[], 0, 0, none, 0, false, none, 0, 0, [], 0, [], 0, [], [], none, none, false, false⟩
  ev := ⟨[], [], [], []⟩
  pw := ⟨[], [], [], 0, 0, [], [], 0, none, 4000, [], 0, [], [], [], false, false, [], 0, false, false, false, none, 0, 0, 0⟩
  se := ⟨0, 0, 0, false, false, none, true, 0, none, 0, 0, 0, 0, 0, 0, [], [], [], []⟩

end Sys2Proof.Machine
end

