-- ==== Sys2Proof/Machine/SysRegs.lean ====
section
/-! DEFINITION. The numbered system registers: their numbers, their reset values, reading and writing their storage
(19 R402 and the register maps the numbers come from). -/

namespace Sys2Proof.Machine

namespace SysReg
def cstat : Nat := 0x000
def svec : Nat := 0x001
def uepc : Nat := 0x002
def uepw : Nat := 0x003
def gtime : Nat := 0x010
def fpflags : Nat := 0x021
def lease : Nat := 0x030
def quiet : Nat := 0x031
def slotper : Nat := 0x040
def slotlen : Nat := 0x041
def longevery : Nat := 0x042
def longlen : Nat := 0x043
def horizon : Nat := 0x044
def slotstat : Nat := 0x045
def lattol : Nat := 0x050
def pmstat : Nat := 0x051
def wake : Nat := 0x052
def mlattol : Nat := 0x053
def govctl : Nat := 0x054
def ptroot : Nat := 0x080
def migctl : Nat := 0x088
def migpool : Nat := 0x089
def rmap : Nat := 0x08A
def wsstate0 : Nat := 0x08C
def wsstate1 : Nat := 0x08D
def drsel : Nat := 0x094
def drent0 : Nat := 0x095
def drent1 : Nat := 0x096
def pod : Nat := 0x0A0
def pbctl : Nat := 0x0A6
def pbtab : Nat := 0x0A7
def corebind : Nat := 0x0C0
def bintmo : Nat := 0x0C2
def lprio : Nat := 0x0C4
def lswitch : Nat := 0x0C5
def frmpool : Nat := 0x0C6
def ashape : Nat := 0x0D0
def evqsel : Nat := 0x0E0
def evqbase : Nat := 0x0E1
def evqctl : Nat := 0x0E2
def errsel : Nat := 0x0E8
def errlog0 : Nat := 0x0E9
def errlog1 : Nat := 0x0EA
def lnk0 : Nat := 0x100
def ringsel : Nat := 0x120
def ringht : Nat := 0x121
def ringmon : Nat := 0x122
def ringmap : Nat := 0x123
end SysReg

/-- Some map of the manual assigns a register the number (19 R402). -/
def assignedReg (reg : Nat) : Bool :=
  decide (reg ≤ 0x003) || [0x010, 0x021, 0x030, 0x031].contains reg || decide (0x040 ≤ reg ∧ reg ≤ 0x045) ||
  decide (0x050 ≤ reg ∧ reg ≤ 0x054) || [0x080, 0x088, 0x089, 0x08A, 0x08C, 0x08D].contains reg ||
  [0x094, 0x095, 0x096, 0x0A0, 0x0A6, 0x0A7, 0x0C0, 0x0C2, 0x0C4, 0x0C5, 0x0C6, 0x0D0].contains reg ||
  [0x0E0, 0x0E1, 0x0E2, 0x0E8, 0x0E9, 0x0EA].contains reg || decide (0x100 ≤ reg ∧ reg < 0x124)

/-- User level may read the register: sys.gtime and the ctl registers whose entries say so (19 R402; 01 R29; 05 R125; 09
R228; 12 R275; 18 R386, R388; 20 R418). -/
def userReads (reg : Nat) : Bool :=
  [0x010, 0x021, 0x030, 0x050, 0x051, 0x053, 0x0C2, 0x0D0].contains reg || decide (0x040 ≤ reg ∧ reg ≤ 0x045)

/-- User level may write the register, or its writes are ignored at either level (01 R29; 12 R275). -/
def userWrites (reg : Nat) : Bool := [0x021, 0x0D0].contains reg

/-- The reset value of one copy of a register: the maps' Reset columns (19 R399, R404, R412; 09 R218, R228; 04 R105;
05 R122, R125; 12 R275; 16 R353, R361; 18 R388, R392; 20 R421). -/
def sysReset (reg inst : Nat) : Word64 :=
  if reg = SysReg.cstat then 1
  else if reg = SysReg.lease then 1024
  else if reg = SysReg.quiet then 16
  else if reg = SysReg.slotper then 4096
  else if reg = SysReg.slotlen then 192
  else if reg = SysReg.longevery then 64
  else if reg = SysReg.longlen then 1536
  else if reg = SysReg.horizon then 96
  else if reg = SysReg.govctl then 0x80005F00000A0FA0
  else if reg = SysReg.migctl then 0x02400003E8
  else if reg = SysReg.pbctl then 0x0FA00FA0
  else if reg = SysReg.corebind then
    let p := 4 * (inst % 8)
    BitVec.ofNat 64 (p + 64 * (p + 1) + 4096 * (p + 2) + 262144 * (p + 3))
  else if reg = SysReg.bintmo then 256
  else if reg = SysReg.ashape then 0x0F0F000F
  else if reg = SysReg.ringht then 512
  else if reg = SysReg.ringmap then BitVec.ofNat 64 (inst % 32)
  else 0

/-- Where one copy of a register is kept. -/
def sysKey (reg inst : Nat) : Nat := reg * 2 ^ 20 + inst

/-- The value of one copy of a register. -/
def State.sysGet (s : State) (reg inst : Nat) : Word64 :=
  (SMap.get none s.sys (sysKey reg inst)).getD (sysReset reg inst)

/-- One copy of a register replaced; a copy at its reset value is not listed. -/
def State.sysPut (s : State) (reg inst : Nat) (v : Word64) : State :=
  { s with sys := SMap.set none s.sys (sysKey reg inst) (if v = sysReset reg inst then none else some v) }

/-- A bit field of a register's value. -/
def field (v : Word64) (hi lo : Nat) : Nat := v.toNat / 2 ^ lo % 2 ^ (hi + 1 - lo)

/-- A register's value with a bit field replaced. -/
def setField (v : Word64) (hi lo x : Nat) : Word64 :=
  let m : Word64 := BitVec.ofNat 64 ((2 ^ (hi + 1 - lo) - 1) * 2 ^ lo)
  (v &&& ~~~m) ||| (BitVec.ofNat 64 (x * 2 ^ lo) &&& m)

/-- The writable bits of a register taken from a new value, the others kept; bits of `w1c` clear where 1 is written
(00 R11). -/
def maskWrite (old new rw w1c : Word64) : Word64 := ((old &&& ~~~rw) ||| (new &&& rw)) &&& ~~~(new &&& w1c)

end Sys2Proof.Machine
end

