-- ==== Sys2Proof/Machine/Mem.lean ====
section
/-! DEFINITION. Physical memory: one flat map of bytes (log 4), what is fitted (00 R2; 09 R207), homes (09 R208), and
what an agent's read sees before a write is applied at its home (09 R226; 13 R297). -/

namespace Sys2Proof.Machine

/-- A byte stored by the step in progress. -/
def wlogGet : List (Nat × Byte) → Nat → Option Byte
  | [], _ => none
  | (a, b) :: r, k => if a = k then some b else wlogGet r k

/-- One byte of memory at its home; an unlisted byte reads 0 (log 3). -/
def State.byte (s : State) (a : Nat) : Byte := (wlogGet s.wlog a).getD (SMap.get 0 s.mem a)

/-- Bytes stored at rising addresses, in this step (log 4). -/
def State.writeBytes (s : State) : Nat → List Byte → State
  | _, [] => s
  | a, b :: r => { s with wlog := (a, b) :: s.wlog }.writeBytes (a + 1) r

/-- The canonical form of memory: addresses rising, no byte listed that reads as an unlisted one does (log 3). -/
def Memory.wf (m : SMap Byte) : Bool := SMap.wf 0 m

/-- n bytes at home from a, in order. -/
def State.bytesAt (s : State) (a n : Nat) : List Byte := (List.range n).map fun i => s.byte (a + i)

/-- The flat address of a scratchpad byte; cores are numbered 4 times the column plus the logical core. -/
def scratch (core off : Nat) : Nat := 2 ^ 48 + core * 2 ^ 21 + off

/-- The flat address of a peer module's byte (09 R215). -/
def peerAddr (chip pa : Nat) : Nat := 2 ^ 50 + chip * 2 ^ 48 + pa

/-- The flat address of a byte of host memory. -/
def hostAddr (pa : Nat) : Nat := 2 ^ 60 + pa

/-- The flat address of a byte of the CXL pool. -/
def cxlAddr (pa : Nat) : Nat := 2 ^ 61 + pa

/-- How many 64 KiB granules a stack's share of a tier has (R2, R207; log 10). -/
def granules (tier : Nat) : Nat :=
  match tier with
  | 0 => 2 ^ 21
  | 1 => if Config.twoTiB then 2 ^ 23 else 2 ^ 22
  | 2 => 2 ^ 13
  | _ => 0

/-- A physical address of the module's own fitted memory (R207). -/
def fitted (pa : Nat) : Bool :=
  let t := pa / 2 ^ 46 % 4
  let g := pa / 2 ^ 16 % 2 ^ 28
  decide (pa < 2 ^ 48) && match t with
    | 0 => decide (g < 2 ^ 21)
    | _ => decide (g < granules t)

/-- Home(pa): the column that homes a module address (R208). -/
def homeOf (pa : Nat) : Nat :=
  let h := (List.range 7).foldl (fun h i => h ^^^ (pa / 2 ^ (16 + 4 * i) % 16)) 0
  16 * (pa / 2 ^ 44 % 4) + h

/-- The address of the 8-byte word an injection is aimed at (19 R412, R413; log 23). -/
def Inject.word (i : Inject) : Nat := (if i.arr = 2 then scratch (4 * i.col + i.core) i.loc else i.loc) / 8 * 8

/-- The injection is into memory as it stands at its home: a scratchpad, a slice, or a tier of its column (19 R412). -/
def Inject.atHome (i : Inject) : Bool :=
  decide (i.arr = 2) ||
  (decide (4 ≤ i.arr ∧ i.arr ≤ 7) && decide (i.loc < 2 ^ 48) && decide (homeOf i.loc = i.col) &&
    (decide (i.arr = 4) || decide (i.loc / 2 ^ 46 + 5 = i.arr)))

/-- The bits of the word that an injection leaves flipped: those of mode 2, which nothing corrects (19 R413; log 23). -/
def Inject.flips (i : Inject) : List Nat := if i.mode = 2 then [i.bit, (i.bit + 1) % 64] else []

/-- A byte with the bits of a word at `word` flipped. -/
def flipByte (word a : Nat) (bits : List Nat) (b : Byte) : Byte :=
  bits.foldl (fun (b : Byte) k => if word + k / 8 = a then b ^^^ BitVec.ofNat 8 (2 ^ (k % 8)) else b) b

/-- The armed injections that a store of this step triggers (19 R413). -/
def State.inject (s : State) : State :=
  let hit (i : Inject) : Bool :=
    decide (i.stage = 0) && i.atHome && s.wlog.any fun p => decide (i.word ≤ p.1 ∧ p.1 < i.word + 8)
  let now := s.ev.inject.filter hit
  if now.isEmpty then s
  else
    let s1 := now.foldl (fun s i =>
      i.flips.foldl (fun s k => s.writeBytes (i.word + k / 8) [flipByte i.word (i.word + k / 8) [k] (s.byte (i.word + k / 8))]) s) s
    { s1 with ev := { s1.ev with inject := s1.ev.inject.map fun i => if hit i then { i with stage := 1 } else i } }

/-- The context of an error that no gang meets (19 R412). -/
def noGang : Word := 0xFFFFFFFF

/-- The context of an error that an agent's read meets (19 R412). -/
def errorGid : CtxId → Word
  | .gang g => BitVec.ofNat 32 g
  | .cc _ => noGang

/-- A read of a range, in an L1 or at its home, meets an injected error: it will be detected and reported (19 R413). -/
def State.injectSeen (s : State) (cache : Option Nat) (gid : Word) (pa n : Nat) : State :=
  let hit (i : Inject) : Bool := decide (i.stage = 1 ∧ i.arr < 8 ∧ i.word < pa + n ∧ pa < i.word + 8) &&
    (i.atHome || decide (i.arr = 0 ∧ some (5 * i.col + i.core) = cache))
  if s.ev.inject.any hit then
    { s with ev := { s.ev with inject := s.ev.inject.map fun i => if hit i then { i with stage := 2, gid := gid } else i } }
  else s

/-- A core's array whose layout is not given is written or read: whether that is at the place an injection names is free; the injection
that a write triggers (19 R413; DESIGN CHOICE, log 23). -/
def State.injectUse (s : State) (arr col core : Nat) (write : Bool) (gid : Word) : State × Option Inject :=
  let hit (i : Inject) : Bool := decide (i.arr = arr ∧ i.col = col ∧ i.core = core ∧ i.stage = if write then 0 else 1)
  match s.ev.inject.find? hit with
  | none => (s, none)
  | some i =>
    let s1 : State := { s with freeCtr := s.freeCtr + 1 }
    if (Config.freeWord s.freeCtr).getLsbD 0 then
      ({ s1 with ev := { s1.ev with inject := s1.ev.inject.map fun q => if q = i then { q with stage := q.stage + 1, gid := gid } else q } },
        some i)
    else (s1, none)

/-- The stores of a step entered into the memory it started from; a power-on reset empties that first (log 4). -/
def State.commit (t old : State) : State :=
  let u := t.inject
  { u with mem := SMap.setAll 0 (if t.mem.isEmpty then [] else old.mem) u.wlog.reverse, wlog := [] }

/-- A byte a cache owns dirty (R225, R226). -/
def dirtyByte (ls : List L1Line) (a : Nat) : Option Byte :=
  ls.findSome? fun l => if l.line = a / 128 then wlogGet l.dirty a else none

/-- A byte as its home merges it after recalling the owner (R226). -/
def State.homeByte (s : State) (a : Nat) : Byte := (dirtyByte s.ms.l1 a).getD (s.byte a)

/-- An accepted write that the reads of an agent behind a cache are answered from: its own L1 has accepted it, or its column's slice is
forwarding it (10 R239; 13 R297). -/
def Fwd.seenBy (f : Fwd) (cache : Nat) : Bool := decide (f.cache = cache ∨ (f.cache / 5 = cache / 5 ∧ f.stage ≠ .l1))

/-- The newest accepted write of a byte that a cache's reads see before it is applied (10 R239; 13 R297). -/
def forwarded (fs : List Fwd) (cache a : Nat) : Option Byte :=
  fs.reverse.findSome? fun f => if f.seenBy cache && f.red.isEmpty then wlogGet f.bytes.reverse a else none

/-- A byte as an agent behind a cache reads it (13 R297). -/
def State.viewByte (s : State) (cache a : Nat) : Byte := (forwarded s.ms.fwd cache a).getD (s.homeByte a)

/-- n bytes as an agent behind a cache reads them, as a number. -/
def State.viewNat (s : State) (cache a n : Nat) : Nat :=
  leNat ((List.range n).map fun i => s.viewByte cache (a + i))

/-- n bytes at home, recalled, as a number: what hardware reads with a module-scope acquire. -/
def State.homeNat (s : State) (a n : Nat) : Nat := leNat ((List.range n).map fun i => s.homeByte (a + i))

/-- Bytes removed from every owner's dirty set: they are applied at the home from now on (R226). -/
def dropDirty (ls : List L1Line) (a n : Nat) : List L1Line :=
  ls.map fun l => { l with dirty := l.dirty.filter fun p => !(decide (a ≤ p.1 ∧ p.1 < a + n)) }

/-- A write applied at its home, after the owner's recall (R226). -/
def State.applyHome (s : State) (a : Nat) (bs : List Byte) : State :=
  ({ s with ms := { s.ms with l1 := dropDirty s.ms.l1 a bs.length } } : State).writeBytes a bs

/-- What stands in place of a cache's number at writes that a lease holds and no cache has accepted: those of hardware, of the host and of
peers; no cache is answered from them (09 R230). -/
def hwCache : Nat := 320

/-- n bytes as hardware reads them that wrote them itself: with its writes that a lease still holds (09 R230). -/
def State.hwNat (s : State) (a n : Nat) : Nat := s.viewNat hwCache a n

/-- A physical range is fitted, or is a scratchpad's. -/
def okRange (a n : Nat) : Bool :=
  if a < 2 ^ 48 then fitted a && (decide (n = 0) || fitted (a + n - 1)) else true

end Sys2Proof.Machine
end

