-- ==== Sys2Proof/Machine/Calendar.lean ====
section
/-! DEFINITION. Global time and each agent's view of it (18 R386, R387; log 1), and the maintenance calendar as it is read: slots, their
masks, the resources they take, and drain windows (18 R388-R396). -/

namespace Sys2Proof.Machine

/-! ### Global time -/

/-- Global time in ns (R386). -/
def State.ns (s : State) : Nat := s.now / 12

/-- Global time as the agents behind a cache read it, those of a slice behind its column core's: it never decreases (R387; log 1). -/
def State.gtime (s : State) (cache : Nat) : Word64 :=
  BitVec.ofNat 64 (max (SMap.get 0 s.seen cache) ((s.ns : Int) + SMap.get 0 s.skew cache).toNat)

/-- A cache's skew changes; what it could read before stays a lower bound of what it reads (R387). -/
def State.setSkew (s : State) (cache : Nat) (skew : Int) : State :=
  { s with skew := SMap.set 0 s.skew cache skew, seen := SMap.set 0 s.seen cache (s.gtime cache).toNat }

/-- Global time as a column's slice reads it. -/
def State.sliceTime (s : State) (col : Nat) : Word64 := s.gtime (5 * col + 4)

/-! ### Routes (16 R347) -/

/-- The route table's entry of a module (16 R347). -/
def State.routeEntry (s : State) (chip : Nat) : Nat :=
  s.homeNat (field (s.sysGet SysReg.pod 0) 47 11 * 2 ^ 11 + 2 * chip) 2

/-- The link that reaches a module, where its route is valid (16 R347). -/
def State.routeLink (s : State) (chip : Nat) : Option Nat :=
  let e := s.routeEntry chip
  if e / 2 ^ 15 % 2 = 1 then some (e % 32) else none

/-! ### Slots -/

/-- The active calendar (R388). -/
def State.slotPer (s : State) : Nat := field (s.sysGet SysReg.slotper 0) 19 0
def State.shortLen (s : State) : Nat := field (s.sysGet SysReg.slotlen 0) 15 0
def State.longEvery (s : State) : Nat := field (s.sysGet SysReg.longevery 0) 15 0
def State.longLen (s : State) : Nat := field (s.sysGet SysReg.longlen 0) 15 0
def State.horizon (s : State) : Nat := field (s.sysGet SysReg.horizon 0) 15 0

/-- Slot k begins (R390). -/
def State.slotStart (s : State) (k : Nat) : Nat := s.ca.anchor + k * s.slotPer

/-- Slot k is long (R390). -/
def State.slotLong (s : State) (k : Nat) : Bool := decide (s.longEvery ≠ 0 ∧ k % s.longEvery = 0)

/-- The nominal length of slot k (R390). -/
def State.slotNominal (s : State) (k : Nat) : Nat := if s.slotLong k then s.longLen else s.shortLen

/-- The extensions made of the slot in progress, or of the last one that ended (R396). -/
def State.slotSteps (s : State) (k : Nat) : Nat :=
  if s.ca.slot = some k then s.ca.extended
  else match s.ca.past with
    | some p => if p.1 = k then p.2 else 0
    | none => 0

/-- The end of slot k as it is known: the nominal end, and its extensions (R396, R398). -/
def State.slotEndAt (s : State) (k : Nat) : Nat := s.slotStart k + s.slotNominal k + 64 * s.slotSteps k

/-- The slot that a time lies in or comes before, by the active calendar. -/
def State.slotAfter (s : State) (t : Nat) : Nat :=
  let k := (t - s.ca.anchor) / max 1 s.slotPer
  if t < s.slotStart k + s.slotNominal k then k else k + 1

/-- Slot 0 of R398: the slot in progress, or else the next to start. -/
def State.slot0 (s : State) : Nat := s.ca.slot.getD (s.slotAfter s.ns)

/-- The slot that a view of global time lies in; with the drain horizon, the one in whose drain window it lies (R390). -/
def State.slotBy (s : State) (t hor : Nat) : Option Nat :=
  let k := (t + hor - s.ca.anchor) / max 1 s.slotPer
  if s.slotStart k ≤ t + hor ∧ t < s.slotEndAt k then some k else none

/-- The next slot to start, by a view of global time (12 R288). -/
def State.nextSlot (s : State) (t : Nat) : Nat :=
  if t < s.ca.anchor then 0 else (t - s.ca.anchor) / max 1 s.slotPer + 1

/-- The mask of slot k (R391). -/
def State.slotMask (s : State) (k : Nat) : Word64 :=
  let r := k % 32
  BitVec.ofNat 64 (if s.slotLong k then
    let l := k / s.longEvery
    0xFF + 2 ^ 8 * (l % 4) + 2 ^ 11 * r + 2 ^ 16 * (l % 32) + 2 ^ 22
  else 2 ^ (k % 4) + 2 ^ (4 + k % 2) + 2 ^ 6 + 2 ^ 11 * r)

/-! ### What a slot takes (R391) -/

/-- A mask takes the optical die of a link, which holds the flits it sends (R391). -/
def linkIn (m : Word64) (l : Nat) : Bool := m.getLsbD 7 && decide (l / 8 = field m 9 8)

/-- An address's resource is in a mask: a pseudo-channel quarter, a rank half, a weight-store stripe, or the optical die
whose links carry a peer's traffic (R391; 16 R347). -/
def State.affects (s : State) (m : Word64) (pa : Nat) : Bool :=
  if pa < 2 ^ 48 then
    match pa / 2 ^ 46 with
    | 0 => m.getLsbD (bitsOf pa 8 7)
    | 1 => m.getLsbD (4 + bitsOf pa 16 16)
    | 2 => m.getLsbD 6 && decide (bitsOf pa 28 24 = field m 15 11)
    | _ => false
  else if 2 ^ 50 ≤ pa ∧ pa < 2 ^ 60 then (s.routeLink ((pa - 2 ^ 50) / 2 ^ 48)).any (linkIn m)
  else false

/-- The masks that stand at a view of global time: of the slot it lies in, of the work carried into that, and of the piece of work done
outside slots that is under way (R391, R396). -/
def State.masksAt (s : State) (t : Nat) : List Word64 :=
  let k := s.slotBy t 0
  (k.map s.slotMask).toList ++ (if k.isSome ∧ k = s.ca.slot ∧ s.ca.carried = 2 then [s.ca.carryMask] else []) ++
    (if t < s.ca.pieceEnd then s.ca.outs.take 1 else [])

/-- Global time as the controller of an address, or the optical die that leads there, sees it (R390). -/
def State.viewAt (s : State) (pa : Nat) : Nat :=
  let col := if pa < 2 ^ 48 then homeOf pa else 16 * (((s.routeLink ((pa - 2 ^ 50) / 2 ^ 48)).getD 0) / 8)
  (s.sliceTime col).toNat

/-- A resource taken now, as its controller sees the time (R390, R391, R396). -/
def State.taken (s : State) (pa : Nat) : Bool := (s.masksAt (s.viewAt pa)).any fun m => s.affects m pa

/-- An agent that has begun to drain, by its own view, starts no transaction to a resource of the slot (R390, R393). -/
def State.draining (s : State) (cache pa : Nat) : Bool :=
  match s.slotBy (s.gtime cache).toNat s.horizon with
  | some k => s.affects (s.slotMask k) pa
  | none => false

/-- Global time as an optical die sees it (R390). -/
def State.dieTime (s : State) (die : Nat) : Nat := (s.sliceTime (16 * die)).toNat

/-- A link holds the flits it sends: its far end signals stop, or its die is under retune (R391; 16 R351). -/
def State.linkHeld (s : State) (l : Nat) : Bool :=
  (SMap.get Link.reset s.fa.links l).stopIn || (s.masksAt (s.dieTime (l / 8))).any fun m => linkIn m l

/-- A die's retune window is open (R392). -/
def State.retuning (s : State) (die : Nat) : Bool :=
  match s.slotBy (s.dieTime die) 0 with
  | some k => (s.slotMask k).getLsbD 7 && decide (field (s.slotMask k) 9 8 = die)
  | none => false

end Sys2Proof.Machine
end

