-- ==== Sys2Proof/Machine/Caches.lean ====
section
/-! DEFINITION. The data caches and their homes: coherence regions and conflicts (09 R227), the lines of the L1s and of the slices
with their replacement (00 R5, R6; 09 R217, R225), and recalls (09 R226). -/

namespace Sys2Proof.Machine

/-- An address of the module's own tiers, which caches may hold (R215; log 4). -/
def cacheable (pa : Nat) : Bool := decide (pa < 2 ^ 48)

/-- An address of the weight store: read copies only (R215). -/
def isWeight (pa : Nat) : Bool := decide (pa < 2 ^ 48 ∧ pa / 2 ^ 46 = 2)

/-- An address of another module (09 R215). -/
def isPeer (pa : Nat) : Bool := decide (2 ^ 50 ≤ pa ∧ pa < 2 ^ 60)

/-! ### Regions (R227) -/

/-- The lease end, with its guard band, that a region records (R227, R229). -/
def Region.leaseEnd (r : Region) : Nat := r.leases.foldl (fun z l => max z l.2) 0

/-- A lease recorded: each cache's latest end (R227, R231). -/
def Region.addLease (r : Region) (cache ends : Nat) : Region :=
  let old := r.leases.foldl (fun z l => if l.1 = cache then max z l.2 else z) 0
  { r with leases := (r.leases.filter fun l => l.1 ≠ cache) ++ [(cache, max old ends)] }

/-- The region that holds an address; a whole granule in state Free when none is tracked (R227). -/
def State.region (s : State) (pa : Nat) : Region :=
  (s.ms.regions.find? fun r => decide (r.base ≤ pa ∧ pa < r.base + r.size)).getD
    ⟨pa / 2 ^ 16 * 2 ^ 16, 2 ^ 16, [], 0, none, 0⟩

/-- A region's record replaced. -/
def State.putRegion (s : State) (r : Region) : State :=
  { s with ms := { s.ms with regions :=
      (s.ms.regions.filter fun q => !decide (q.base = r.base ∧ q.size = r.size)) ++ [r] } }

/-- A conflict at an address: its region splits into halves that share its record (R227). -/
def State.splitRegion (s : State) (pa : Nat) : State :=
  let r := s.region pa
  if r.size ≤ 128 then s.putRegion { r with conflict := s.ns }
  else
    let h := r.size / 2
    let rest := s.ms.regions.filter fun q => !decide (q.base = r.base ∧ q.size = r.size)
    { s with ms := { s.ms with regions := rest ++
        [{ r with size := h, conflict := s.ns }, { r with base := r.base + h, size := h, conflict := s.ns }] } }

/-- A conflict whose record changes: its region splits until the half with the line, which alone changes, holds no other line that the
record still stands for, down to that line itself (R227). -/
def State.isolate (kept : L1Line → Bool) (pa : Nat) : Nat → State → State
  | 0, s => s
  | n + 1, s =>
    let r := s.region pa
    if 128 < r.size && s.ms.l1.any fun l => kept l && decide (l.line ≠ pa / 128 ∧ r.base ≤ 128 * l.line ∧ 128 * l.line < r.base + r.size) then
      (s.splitRegion pa).isolate kept pa n
    else s

/-- A line is owned. -/
def L1Line.isOwned (l : L1Line) : Bool := decide (l.kind = .owned)

/-- A line's region is taken from its owner, for a request that an owned region cannot serve (R227). -/
def State.disown (s : State) (pa : Nat) : State :=
  if (s.region pa).owner.isSome then
    let s1 := (s.splitRegion pa).isolate L1Line.isOwned pa 9
    s1.putRegion { s1.region pa with owner := none }
  else s

/-- A lease end, with its guard band, that home time has not passed (R230). -/
def State.leaseLive (s : State) (pa : Nat) : Bool := cacheable pa && decide (s.ns < (s.region pa).leaseEnd)

/-! ### Lines -/

/-- The lines of an access. -/
def linesOf (pa n : Nat) : List Nat :=
  (List.range ((pa + n + 127) / 128 - pa / 128)).map fun i => pa / 128 + i

/-- An access cut at the lines it reaches: the address and the length of each part. -/
def linePieces (pa n : Nat) : List (Nat × Nat) :=
  (linesOf pa n).map fun l => (max pa (128 * l), min (pa + n) (128 * l + 128) - max pa (128 * l))

/-- How many lines a slice's cache holds: 24 MiB (00 R6). -/
def sliceCap : Nat := 196608

/-- A line kept in its home slice's cache, as the most recently used; the least recently used goes where there is no room (00 R6; the
sets are not given: log 37). -/
def State.slicePut (s : State) (x : SliceLine) : State :=
  let rest := s.ms.slice.filter fun l => l.line ≠ x.line
  let mate (l : SliceLine) : Bool := decide (homeOf (128 * l.line) = homeOf (128 * x.line))
  let kept := if sliceCap ≤ rest.length ∧ sliceCap ≤ (rest.filter mate).length then rest.eraseP mate else rest
  { s with ms := { s.ms with slice := kept ++ [x] } }

/-- A line fetched into its home slice's cache. -/
def State.sliceFill (s : State) (line : Nat) : State := s.slicePut ⟨line, BitVec.allOnes 128⟩

/-- The bytes of a line that its home slice's cache holds (18 R394). -/
def State.sliceGot (s : State) (line : Nat) : BitVec 128 := ((s.ms.slice.find? fun l => l.line = line).map SliceLine.got).getD 0

/-- The home slice's cache holds a whole line. -/
def State.sliceFull (s : State) (line : Nat) : Bool := s.sliceGot line = BitVec.allOnes 128

/-- The home slices' caches hold every byte of a range. -/
def State.sliceHas (s : State) (pa n : Nat) : Bool := (List.range n).all fun i => (s.sliceGot ((pa + i) / 128)).getLsbD ((pa + i) % 128)

/-- A write that home slices take into their caches; the rest of a line follows, unless its memory is taken (18 R394). -/
def State.sliceStore (s : State) (as : List Nat) : State :=
  ((as.map fun a => a / 128).eraseDups).foldl (fun s l =>
    if s.taken (128 * l) then
      s.slicePut ⟨l, as.foldl (fun m a => if a / 128 = l then m ||| (1#128 <<< (a % 128)) else m) (s.sliceGot l)⟩
    else s.sliceFill l) s

/-- A cache's line. -/
def State.l1Line (s : State) (cache line : Nat) : Option L1Line :=
  s.ms.l1.find? fun l => decide (l.cache = cache ∧ l.line = line)

/-- A cache owns a line. -/
def State.owns (s : State) (cache line : Nat) : Bool :=
  s.ms.l1.any fun l => decide (l.cache = cache ∧ l.line = line ∧ l.kind = .owned)

/-- Dirty bytes written to the home, whose slice takes them (R225; 18 R394). -/
def State.flushBytes (s : State) (bs : List (Nat × Byte)) : State :=
  (bs.reverse.foldl (fun s p => s.writeBytes p.1 [p.2]) s).sliceStore (bs.map Prod.fst)

/-- How many lines an L1 holds: 1 MiB; a column core's private cache acts as one (00 R5; 09 R225; log 37). -/
def l1Cap : Nat := 8192

/-- The line a full cache gives up: its least recently used of class 0, or of all where none is of class 0 (R217). Lines stand in the
order of their last use. -/
def l1Victim (ls : List L1Line) (cache : Nat) : Option L1Line :=
  let mine := ls.filter fun l => l.cache = cache
  if mine.length < l1Cap then none else (mine.find? fun l => l.cls = 0) <|> mine.head?

/-- A line evicted: an owner's dirty words return to the home (R225). -/
def State.evict (s : State) (l : L1Line) : State :=
  let s1 := s.flushBytes l.dirty
  { s1 with ms := { s1.ms with l1 := s1.ms.l1.filter fun q => q ≠ l } }

/-- A cache's line replaced as the most recently used, with another evicted where there is no room, or, with `none`, dropped. -/
def State.putL1 (s : State) (cache line : Nat) (x : Option L1Line) : State :=
  let s1 : State := { s with ms := { s.ms with l1 := s.ms.l1.filter fun l => !decide (l.cache = cache ∧ l.line = line) } }
  match x with
  | none => s1
  | some y =>
    let s2 := match l1Victim s1.ms.l1 cache with
      | some v => s1.evict v
      | none => s1
    { s2 with ms := { s2.ms with l1 := s2.ms.l1 ++ [y] } }

/-- A cache's line used (R217). -/
def State.touchL1 (s : State) (cache line : Nat) : State :=
  match s.l1Line cache line with
  | some l => { s with ms := { s.ms with l1 := (s.ms.l1.filter fun q => q ≠ l) ++ [l] } }
  | none => s

/-! ### Recalls (R226) -/

/-- A line taken back from the L1s other than `by_` that own it; they keep a clean read copy, or lose the line to a write
(R226). -/
def State.recall (s : State) (by_ : Option Nat) (line : Nat) (wr : Bool) : State :=
  let own := s.ms.l1.filter fun l => decide (l.line = line ∧ l.kind = .owned ∧ some l.cache ≠ by_)
  if own.isEmpty then s
  else
    let s1 := own.foldl (fun s l => s.flushBytes l.dirty) s
    let s2 := (s1.splitRegion (line * 128)).isolate L1Line.isOwned (line * 128) 9
    let keep := s2.ms.l1.filter fun l => !(decide (l.line = line ∧ l.kind = .owned ∧ some l.cache ≠ by_))
    let back := if wr then [] else own.map fun l => { l with kind := .shared, dirty := [] }
    let r := s2.region (line * 128)
    let mask := back.foldl (fun (m : Word64) l => m ||| (1#64 <<< (l.cache / 5))) r.sharers
    { s2 with ms := { s2.ms with l1 := keep ++ back } }.putRegion { s2.region (line * 128) with owner := none, sharers := mask }

/-- The copies that recorded sharers hold are invalidated before ownership, or before a write at the home (R226). -/
def State.dropSharers (s : State) (by_ : Option Nat) (line : Nat) : State :=
  let s1 : State := { s with ms := { s.ms with l1 := s.ms.l1.filter fun l =>
    !(decide (l.line = line ∧ l.kind = .shared ∧ some l.cache ≠ by_)) } }
  if (s1.region (line * 128)).sharers = 0 then s1
  else
    let s2 := (s1.splitRegion (line * 128)).isolate (fun l => decide (l.kind = .shared)) (line * 128) 9
    s2.putRegion { s2.region (line * 128) with sharers := 0 }

/-- A read that reaches the homes of a range from outside: it meets what was injected there, owners give their dirty words back, and the
slices hold the lines (R226; 19 R413). -/
def State.readHome (s : State) (pa n : Nat) : State :=
  let s1 := s.injectSeen none noGang pa n
  if cacheable pa then (linesOf pa n).foldl (fun s l => (s.recall none l false).sliceFill l) s1 else s1

/-- A write applied at its home after recalls (R226). -/
def State.writeHome (s : State) (pa : Nat) (bs : List Byte) : State :=
  let s1 := (linesOf pa bs.length).foldl (fun s l => (s.recall none l true).dropSharers none l) s
  (s1.sliceStore ((List.range bs.length).map (pa + ·))).applyHome pa bs

/-- A write applied at its home in the module's own memory, or where it goes without one. -/
def State.storeHome (s : State) (pa : Nat) (bs : List Byte) : State :=
  if cacheable pa then s.writeHome pa bs else s.writeBytes pa bs

/-- The bytes of a range with their addresses. -/
def spread (pa : Nat) (bs : List Byte) : List (Nat × Byte) := bs.mapIdx fun i b => (pa + i, b)

/-- An access that reaches a slice counts for its page, in the capacity tier or promoted, while migration is enabled
(R218, R219). -/
def State.countAccess (s : State) (pa : Nat) : State :=
  let page := pa / 2 ^ 16
  if (s.sysGet SysReg.migctl 0).getLsbD 63 && decide (pa < 2 ^ 48) &&
      (decide (pa / 2 ^ 46 = 1) || s.ms.promos.any fun p => decide (p.pool = page * 2 ^ 16)) then
    { s with ms := { s.ms with counts := SMap.set 0 s.ms.counts page (min 255 (SMap.get 0 s.ms.counts page + 1)) } }
  else s

end Sys2Proof.Machine
end

