-- ==== Sys2Proof/Machine/Forward.lean ====
section
/-! DEFINITION. Atomic and reduction values (10 R250), lease grants (09 R228-R231), and accepted writes on their way home with the marks
of the releases that cover them (10 R239; 13 R297, R306-R308). -/

namespace Sys2Proof

/-- The new value an atomic of op code `op` stores: `m` the stored value, `v` the operand, `n` the value `cas` writes, all of
`w` bits (R250). The op codes are those of the atomics; a reduction has the code of the atomic of its op. -/
def atomNew (op w m v n : Nat) : Nat :=
  let t : Ty := if w = 64 then .s64 else .s32
  match op with
  | 0x00 => (m + v) % 2 ^ w
  | 0x01 => (m + 2 ^ w - v) % 2 ^ w
  | 0x02 => min m v
  | 0x03 => max m v
  | 0x04 => m &&& v
  | 0x05 => m ||| v
  | 0x06 => m ^^^ v
  | 0x07 => v
  | 0x08 => if v ≤ m then 0 else (m + 1) % 2 ^ w
  | 0x09 => if m = 0 ∨ v < m then v else m - 1
  | 0x0A => if m = v then n else m
  | 0x0B => if t.value m ≤ t.value v then m else v
  | 0x0C => if t.value m ≤ t.value v then v else m
  | _ => m

/-- The new value of a floating atomic in format t (R250). -/
def atomNewF (op : Nat) (t : Ty) (m v : Nat) : Nat :=
  match op with
  | 0x20 => t.addRNE m v
  | 0x21 => t.subRNE m v
  | 0x22 => (t.fminmax false false m v).bits
  | _ => (t.fminmax true false m v).bits

/-- The format of a floating atomic by its width code (R248). -/
def atomFmt (w : Nat) : Ty := if w = 1 then .bf16 else if w = 2 then .f32 else .f64

/-- The new value of an atomic or a reduction of width code w (R250). -/
def atomValue (op w m v n : Nat) : Nat :=
  if 0x20 ≤ op then atomNewF op (atomFmt w) m v else atomNew op (8 * 2 ^ w) m v n

namespace Machine

/-! ### Leases -/

/-- The guard band of a grant to a cache, in ns: 20, or 68 under the fast throttle (R229). -/
def State.guardBand (s : State) (cache : Nat) : Nat := if SMap.get false s.pw.fast (cache / 5) then 68 else 20

/-- The length of the leases granted to a cache, in ns (R228). -/
def State.leaseLen (s : State) (cache : Nat) : Nat := field (s.sysGet SysReg.lease (cache / 5)) 15 0

/-- The request type a cache's loads act under: with LEASE 0 `.si` and `.wt` act as `.nc` (R228). -/
def State.loadRt (s : State) (cache : Nat) (rt : Rt) : Rt := if s.leaseLen cache = 0 ∧ (rt = .wt ∨ rt = .si) then .nc else rt

/-- A lease copy kept by a cache: its end, and the home's record of it, which no owner shares; none while LEASE is 0 or the cache's time
is out of the guard band (R225, R227-R231). -/
def State.grantLease (s : State) (cls cache line : Nat) : State :=
  let lease := s.leaseLen cache
  if lease = 0 ∨ SMap.get false s.ms.skewed cache then s.putL1 cache line none
  else
    let s1 := s.disown (line * 128)
    let r := s1.region (line * 128)
    let band := s.guardBand cache
    (s1.putRegion (r.addLease cache (s.ns + lease + band))).putL1 cache line (some ⟨cache, line, .lease (s.ns + lease) band, [], cls⟩)

/-! ### Accepted writes -/

/-- A byte range and an accepted write share a location (13 R296). -/
def Fwd.touches (f : Fwd) (pa n : Nat) : Bool := f.bytes.any fun p => decide (pa ≤ p.1 ∧ p.1 < pa + n)

/-- The scope at which an accepted write has been performed (10 R239). -/
def FwdStage.doneAt (st : FwdStage) (sc : Scope) : Bool :=
  match st with
  | .l1 => decide (sc.code ≤ 2)
  | _ => decide (sc.code ≤ 3)

/-- An agent behind a cache shares a scope with the agents a mark lies inside (R295, R306). -/
def Mark.covers (k : Mark) (cache : Nat) : Bool :=
  match k.inside with
  | .column => decide (k.cache / 5 = cache / 5)
  | _ => decide (k.cache = cache)

/-- A delta write of a cache, or its acknowledgement, is on its way: of one region, or of any (15 R330). -/
def State.deltaOut (s : State) (cache : Nat) (region : Option Nat) : Bool :=
  s.dr.msgs.any fun m => match m.2 with
    | .deltaWrite c r _ _ _ _ _ => decide (c = cache ∧ region.getD r = r)
    | .deltaAck c r _ _ => decide (c = cache ∧ region.getD r = r)
    | _ => false

/-- A mark whose named caches still hold writes accepted before it, or deltas (R306, R312). -/
def State.markOpen (s : State) (k : Mark) : Bool :=
  (s.ms.fwd.any fun f => decide (f.op < k.upto) && f.seenBy k.cache) ||
  (k.drift && (s.deltaOut k.cache none || s.dr.trackers.any fun t => decide (t.cache = k.cache) && !t.pend.isEmpty))

/-- Two accepted writes of one column share a location. -/
def Fwd.meets (f g : Fwd) : Bool := decide (f.cache / 5 = g.cache / 5) && f.bytes.any fun p => g.bytes.any fun q => decide (p.1 = q.1)

/-- An accepted write waits for an earlier one of its column at a common location: some agent is answered from both, and they are applied
in the order it sees (13 R297, R299, R304). -/
def State.fwdBehind (s : State) (f : Fwd) : Bool := s.ms.fwd.any fun g => decide (g.id < f.id) && g.meets f

/-- An accepted write or reduction applied at its home: a cache's counts there; each byte, or each lane's operation in order; then a copy is
kept where its request type keeps one (09 R219, R225; 10 R250). -/
def State.applyFwd (s : State) (f : Fwd) : State :=
  let pa := (f.bytes.map Prod.fst).headD 0
  let s0 : State := { s with ms := { s.ms with fwd := s.ms.fwd.filter fun g => g.id ≠ f.id } }
  let n := f.bytes.length
  let sr := if f.red.isEmpty then s0 else s0.injectSeen none (errorGid f.ctx) pa n
  let s1 := if f.cache = hwCache then sr else sr.countAccess pa
  let bs := if f.red.isEmpty then f.bytes.map Prod.snd
    else leBytes n (f.red.foldl (fun v r => atomValue r.1 r.2.1 v r.2.2 0) (s1.homeNat pa n))
  let s2 := s1.writeHome pa bs
  match f.keep with
  | some cls => (linesOf pa n).foldl (fun s l => s.grantLease cls f.cache l) s2
  | none => s2

/-- An accepted write goes one stage further: from the L1 to the slice, from the slice to its home, where a lease may hold it, which is a
conflict in its region (13 R308; 09 R227, R230). -/
def State.forward (s : State) (f : Fwd) : State :=
  let set (st : FwdStage) (s : State) : State :=
    { s with ms := { s.ms with fwd := s.ms.fwd.map fun g => if g.id = f.id then { g with stage := st } else g } }
  match f.stage with
  | .l1 => set .slice s
  | .slice =>
    (match f.bytes.find? fun p => s.leaseLive p.1 with
     | some p => set .held (s.splitRegion p.1)
     | none => s.applyFwd f)
  | .held => if f.bytes.any fun p => s.leaseLive p.1 then s else s.applyFwd f

/-- The accepted writes of a cache up to a position, with the earlier ones of its column that they wait for. -/
def State.toPublish (s : State) (cache upto : Nat) : List Fwd :=
  s.ms.fwd.foldr (fun f fs => if (decide (f.op < upto) && f.seenBy cache) || fs.any fun g => f.meets g then f :: fs else fs) []

/-- The accepted writes of a cache up to a position sent one stage further (13 R306). -/
def State.publishWrites (s : State) (cache upto : Nat) : State :=
  (s.toPublish cache upto).foldl (fun s f =>
    match s.ms.fwd.find? fun g => g.id = f.id with
    | some g => if s.fwdBehind g then s else s.forward g
    | none => s) s

/-! ### Writes of hardware, the host and peers -/

/-- A lease of the range is live, or an earlier write that one held waits there (R230). -/
def State.leased (s : State) (pa n : Nat) : Bool :=
  ((linesOf pa n).any fun l => s.leaseLive (l * 128)) || s.ms.fwd.any fun f => decide (f.cache = hwCache) && f.touches pa n

/-- A write that no cache has accepted, or a reduction, is held at its home: a conflict in its region (R227, R230). -/
def State.holdHome (s : State) (pa : Nat) (bs : List Byte) (red : List (Nat × Nat × Nat)) : State :=
  let f : Fwd := ⟨s.opId, hwCache, .held, spread pa bs, s.opId, .cc 64, 0, red, none⟩
  ({ s with ms := { s.ms with fwd := s.ms.fwd ++ [f] }, opId := s.opId + 1 } : State).splitRegion pa

/-- A write of hardware, of the host or of a peer at its home: performed, after the owner's recall, or held by a lease (R226, R230). -/
def State.homeWrite (s : State) (pa : Nat) (bs : List Byte) : State :=
  if s.leased pa bs.length then s.holdHome pa bs [] else s.storeHome pa bs

/-- An untranslated write of hardware: it stops the machine where no memory is fitted (log 17). -/
def State.hwWrite (s : State) (a : Nat) (bs : List Byte) : State :=
  if okRange a bs.length then s.homeWrite a bs else { s with stuck := some .absentMemory }

/-- Bits set in an 8-byte entry by an atomic OR at its home, which a lease may hold (R212, R230; 13 R296). -/
def State.orHome (s : State) (pa bits : Nat) : State :=
  if s.leased pa 8 then
    let same (f : Fwd) : Bool := decide (f.cache = hwCache ∧ f.red = [(5, 3, bits)]) && f.touches pa 8
    if s.ms.fwd.any same then s else s.holdHome pa (leBytes 8 0) [(5, 3, bits)]
  else s.storeHome pa (leBytes 8 (s.homeNat pa 8 ||| bits))

end Machine

end Sys2Proof
end

