-- ==== Sys2Proof/Machine/Translate.lean ====
section
/-! DEFINITION. Translation: the walk, the leaf's checks, the TLBs, the A and D bits (09 R206-R214), the weight-store
states (09 R222), and the instruction caches' fetches (06 R141; 02 R45). -/

namespace Sys2Proof.Machine

/-- The kind of an access to a page (R211). -/
inductive AccKind
  | read | write | both | exec
  deriving DecidableEq, Repr

/-- The trap kinds of 17 R363. -/
def trapIllegal : Nat := 0x01
def trapTarget : Nat := 0x02
def trapNotReady : Nat := 0x03
def trapBounds : Nat := 0x04
def trapTranslation : Nat := 0x05
def trapPermission : Nat := 0x06
def trapMisaligned : Nat := 0x07
def trapSpawn : Nat := 0x08
def trapQueue : Nat := 0x09
def trapClasp : Nat := 0x0A
def trapPrivileged : Nat := 0x0B
def trapBreakpoint : Nat := 0x0C
def trapSoftware : Nat := 0x0D
def trapOverrun : Nat := 0x0E
def trapWatchdog : Nat := 0x0F

/-- A leaf found by a walk or held in a TLB: the entry, its address, the page's bits (R210, R213). -/
structure Leaf where
  e : Word64
  addr : Nat
  bits : Nat
  deriving DecidableEq, Repr

namespace Leaf
def v (l : Leaf) : Bool := l.e.getLsbD 0
def r (l : Leaf) : Bool := l.e.getLsbD 1
def w (l : Leaf) : Bool := l.e.getLsbD 2
def x (l : Leaf) : Bool := l.e.getLsbD 3
def u (l : Leaf) : Bool := l.e.getLsbD 4
def glob (l : Leaf) : Bool := l.e.getLsbD 5
def a (l : Leaf) : Bool := l.e.getLsbD 6
def d (l : Leaf) : Bool := l.e.getLsbD 7
def tgt (l : Leaf) : Nat := field l.e 10 8
def mig (l : Leaf) : Nat := field l.e 12 11
def base (l : Leaf) : Nat := field l.e 47 16 * 2 ^ 16
def chip (l : Leaf) : Nat := field l.e 57 48
def gen (l : Leaf) : Nat := field l.e 61 58
/-- The physical address of a virtual address on the page. -/
def pa (l : Leaf) (va : Nat) : Nat := l.base + va % 2 ^ l.bits

/-- The rules a leaf of a walk must meet (R210, R211). -/
def wellFormed (l : Leaf) : Bool :=
  decide (field l.e 63 62 = 0 ∧ field l.e 15 13 = 0) && decide (l.tgt < 6) && decide (l.mig ≠ 3) &&
  decide (l.base % 2 ^ l.bits = 0) && (decide (l.chip = 0) || decide (l.tgt = 3)) &&
  (decide (2 < l.tgt) || decide (l.base / 2 ^ 46 = l.tgt))

/-- The physical address is one the module has (R207). -/
def reaches (l : Leaf) (va : Nat) : Bool := decide (2 < l.tgt) || fitted (l.pa va)

/-- The flat address an access reaches (R215; log 4). -/
def flat (l : Leaf) (va : Nat) : Nat :=
  if l.tgt = 3 then peerAddr l.chip (l.pa va) else if l.tgt = 4 then hostAddr (l.pa va)
  else if l.tgt = 5 then cxlAddr (l.pa va) else l.pa va

/-- The leaf permits the access (R211). -/
def permits (l : Leaf) (k : AccKind) (user : Bool) : Bool :=
  (!user || l.u) &&
  match k with
  | .read => l.r
  | .write => l.w
  | .both => l.r && l.w
  | .exec => l.x

end Leaf

/-- A pointer entry's reserved bits (R210). -/
def pointerOk (e : Word64) : Bool := decide (field e 63 48 = 0 ∧ field e 12 1 = 0)

/-- The walk from a table at a level; `none` ends it in the translation trap (R209-R211). -/
def walkFrom (s : State) (va : Nat) : Nat → Nat → Option Leaf
  | 0, _ => none
  | n + 1, table =>
    let addr := table + 8 * (va / 2 ^ (16 + 10 * n) % 1024)
    let e : Word64 := BitVec.ofNat 64 (s.homeNat addr 8)
    let isLeaf := n = 0 ∨ field e 3 1 ≠ 0
    if e.getLsbD 0 = false then none
    else if isLeaf then
      let l : Leaf := ⟨e, addr, 16 + 10 * n⟩
      if n < 3 ∧ l.wellFormed then some l else none
    else if pointerOk e then walkFrom s va n (field e 47 13 * 2 ^ 13) else none

/-- The entries that a walk from a table reads (R209, R210). -/
def walkEntries (s : State) (va : Nat) : Nat → Nat → List Nat
  | 0, _ => []
  | n + 1, table =>
    let addr := table + 8 * (va / 2 ^ (16 + 10 * n) % 1024)
    let e : Word64 := BitVec.ofNat 64 (s.homeNat addr 8)
    addr :: (if e.getLsbD 0 && decide (n ≠ 0 ∧ field e 3 1 = 0) && pointerOk e then walkEntries s va n (field e 47 13 * 2 ^ 13)
      else [])

/-- The entries that the walk of a virtual address reads (R209). -/
def State.walkReads (s : State) (va : Nat) : List Nat :=
  if va < 2 ^ 56 then walkEntries s va 4 (field (s.sysGet SysReg.ptroot 0) 47 13 * 2 ^ 13) else []

/-- The writes that a release of an entry covers are published before a walker outside the release's scope reads it: from the L1 to
the slice, and to the home (R212; 13 R305, R306; a write that a lease holds stays held: log 37). -/
def State.walkPublish (s : State) (tlbs : List Nat) (a : Nat) : State :=
  let col := (tlbs.getLast?.getD 0) - 256
  (s.ms.marks.filter fun k => decide (k.pa < a + 8 ∧ a < k.pa + k.n) && !decide (k.inside = .column ∧ k.cache / 5 = col) &&
    s.markOpen k).foldl (fun s k => (s.publishWrites k.cache k.upto).publishWrites k.cache k.upto) s

/-- A walk's reads reach the homes of its entries as acquires, and take them back from owners (R212, R226). -/
def State.walkRecall (s : State) (tlbs : List Nat) (va : Nat) : State :=
  (s.walkReads va).foldl (fun s a => (s.walkPublish tlbs a).readHome a 8) s

/-- The walk of a virtual address (R209); an address at or above 2^56 has none (R206). -/
def State.walk (s : State) (va : Nat) : Option Leaf :=
  if va < 2 ^ 56 then
    match walkFrom s va 4 (field (s.sysGet SysReg.ptroot 0) 47 13 * 2 ^ 13) with
    | some l => if l.reaches va then some l else none
    | none => none
  else none

/-- A TLB entry matches an address. -/
def TlbEntry.hits (t : TlbEntry) (tlb va : Nat) : Bool :=
  decide (t.tlb = tlb ∧ t.va / 2 ^ t.bits = va / 2 ^ t.bits)

/-- A TLB entry's leaf. -/
def TlbEntry.toLeaf (t : TlbEntry) : Leaf := ⟨t.leaf, t.leafPa, t.bits⟩

/-- Of two matching entries the one with the higher GEN, then the smaller page (R213). -/
def betterLeaf (a b : Leaf) : Leaf :=
  if a.gen < b.gen then b else if b.gen < a.gen then a else if b.bits < a.bits then b else a

/-- The leaf a TLB holds for an address (R213). -/
def tlbLookup (ts : List TlbEntry) (tlb va : Nat) : Option Leaf :=
  ts.foldl (fun o t => if t.hits tlb va then some (match o with
    | some l => betterLeaf l t.toLeaf
    | none => t.toLeaf) else o) none

/-- How many entries a TLB has (R213). -/
def tlbCap (tlb : Nat) : Nat := if tlb < 256 then 256 else 8192

/-- The oldest entry of a TLB removed while it is over its size (DESIGN CHOICE, log 39: R213 names no rule of replacement). -/
def tlbTrim (ts : List TlbEntry) (tlb : Nat) : List TlbEntry :=
  if tlbCap tlb < (ts.filter fun t => t.tlb = tlb).length then ts.eraseP fun t => t.tlb = tlb else ts

/-- An entry put into a TLB; an entry of the same page goes (R213). -/
def tlbFill (ts : List TlbEntry) (tlb va : Nat) (l : Leaf) : List TlbEntry :=
  let b := va / 2 ^ l.bits * 2 ^ l.bits
  tlbTrim ((ts.filter fun t => !decide (t.tlb = tlb ∧ t.bits = l.bits ∧ t.va = b)) ++ [⟨tlb, b, l.bits, l.e, l.addr⟩])
    tlb

/-- The outcome of a translation: a flat address with its leaf, a trap, a page to migrate (R211, R221), or a walk that has to wait (18
R393). -/
inductive Trans
  | ok (pa : Nat) (l : Leaf)
  | trap (kind : Nat)
  | migrate (l : Leaf)
  | wait
  deriving DecidableEq, Repr

/-- The A, or A and D, bits set in the entry at its home (R212, R230). -/
def State.markLeaf (s : State) (l : Leaf) (dirty : Bool) : State × Leaf :=
  let m : Nat := if dirty then 0xC0 else 0x40
  let e : Word64 := l.e ||| BitVec.ofNat 64 m
  if e = l.e then (s, l) else (s.orHome l.addr m, { l with e := e })

/-- A walk that loads the leaf into the given TLBs (R212). -/
def State.walkFill (s : State) (tlbs : List Nat) (va : Nat) (dirty : Bool) : Option (State × Leaf) :=
  match s.walk va with
  | none => none
  | some l =>
    let r := s.markLeaf l dirty
    some ({ r.1 with ms := { r.1.ms with tlb := tlbs.foldl (fun ts t => tlbFill ts t va r.2) r.1.ms.tlb } }, r.2)

/-- A walk has to wait: an entry that it reads lies in a resource that its slice drains, or that is taken, and its home slice has not got
it (18 R393, R394, R396; log 25). -/
def State.walkHeld (s : State) (tlbs : List Nat) (va : Nat) : Bool :=
  let cache := 5 * ((tlbs.getLast?.getD 256) - 256) + 4
  (s.walkReads va).any fun a => (s.draining cache a || s.taken a) && !s.sliceHas a 8

/-- The outcome a leaf gives an access (R211, R221). -/
def Leaf.judge (l : Leaf) (va : Nat) (k : AccKind) (user : Bool) : Trans :=
  if !l.permits k user then .trap trapPermission
  else if l.mig = 1 then .migrate l
  else .ok (l.flat va) l

/-- Translate(va, kind) with the TLBs of an agent (R212-R214): a hit, or a walk; a write that finds D = 0 walks again. An address
beyond fitted memory has no translation, whether or not the leaf of its page is held (R207). -/
def State.translate (s : State) (tlbs : List Nat) (va : Nat) (k : AccKind) (user : Bool) : State × Trans :=
  if 2 ^ 56 ≤ va then (s, .trap trapTranslation)
  else
    let wr := decide (k = .write ∨ k = .both)
    let hit := tlbs.findSome? fun t => tlbLookup s.ms.tlb t va
    match hit with
      | some l =>
        if !l.reaches va then (s, .trap trapTranslation)
        else if wr && !l.d && l.permits k user then
          if s.walkHeld tlbs va then (s, .wait)
          else
            let s0 := s.walkRecall tlbs va
            match s0.walkFill tlbs va true with
            | none => (s0, .trap trapTranslation)
            | some (s', l') => (s', l'.judge va k user)
        else (s, l.judge va k user)
      | none =>
        if s.walkHeld tlbs va then (s, .wait)
        else
          let s0 := s.walkRecall tlbs va
          match s0.walk va with
          | none => (s0, .trap trapTranslation)
          | some l =>
            match s0.walkFill tlbs va (wr && l.permits k user) with
            | none => (s0, .trap trapTranslation)
            | some (s', l') => (s', l'.judge va k user)

/-- The leaf of the page that holds an address, as the TLBs of an agent or a walk give it, whether or not the address is fitted
(R214). -/
def State.pageLeaf (s : State) (tlbs : List Nat) (va : Nat) : Option Leaf :=
  if 2 ^ 56 ≤ va then none
  else (tlbs.findSome? fun t => tlbLookup s.ms.tlb t va) <|> walkFrom s va 4 (field (s.sysGet SysReg.ptroot 0) 47 13 * 2 ^ 13)

/-- A translation that leaves no trace: for placement and home queries (04 R110; 10 R246). -/
def State.probe (s : State) (va : Nat) : Option Leaf := s.walk va

/-- The weight region of a weight-store address (R222). -/
def weightRegion (pa : Nat) : Nat := 32 * (pa / 2 ^ 44 % 4) + pa / 2 ^ 24 % 32

/-- The region is in serve state (R222). -/
def State.serving (s : State) (pa : Nat) : Bool :=
  let r := weightRegion pa
  (SMap.get 0 s.ms.wsEff (r / 64)).getLsbD (r % 64)

/-- The weight-store rule for an access by an instruction or an engine: at a column core's supervisor level, or any other. A write of the
collective unit for a supervisor-level command is allowed in load state (DESIGN CHOICE, log 39: R222's table has no row for it). -/
def State.wsAllows (s : State) (pa : Nat) (wr sup : Bool) : Bool :=
  if s.serving pa then !wr else sup

/-- The instruction-cache line of a virtual address (06 R141). -/
def icKey (cache va : Nat) : Nat := cache * 2 ^ 49 + va / 128

/-- Fetched bytes, when their lines are in the instruction cache (R141). -/
def State.icBytes (s : State) (cache va n : Nat) : Option (List Byte) :=
  (List.range n).mapM fun i =>
    (SMap.get none s.ms.icache (icKey cache (va + i))).bind fun l => l.bytes[(va + i) % 128]?

/-- The bytes of a block header as a hint or an arrival reads them, without a trap: from the instruction cache, else
from memory (06 R142, R150; 02 R52). -/
def State.peekHeader (s : State) (cache va : Nat) : Option Word64 :=
  if va % 16 = 0 then
    match s.icBytes cache va 8 with
    | some b => some (BitVec.ofNat 64 (leNat b))
    | none =>
      match s.walk va with
      | some l => if l.x then some (BitVec.ofNat 64 (s.homeNat (l.flat va) 8)) else none
      | none => none
  else none

end Sys2Proof.Machine
end

