-- ==== Sys2Proof/Machine/Time.lean ====
section
/-! DEFINITION. Clocks (00 R3, R5; 20 R421; log 1), and the naming of agents. -/

namespace Sys2Proof

namespace Machine

/-- Where an agent is kept in State.ctxs. -/
def ctxKey : CtxId → Nat
  | .cc n => n
  | .gang g => 64 + g

/-- The agent's state. -/
def State.ctx (s : State) (c : CtxId) : Ctx := SMap.get Ctx.none s.ctxs (ctxKey c)

/-- The agent's state replaced. -/
def State.setCtx (s : State) (c : CtxId) (x : Ctx) : State := { s with ctxs := SMap.set Ctx.none s.ctxs (ctxKey c) x }

/-- The agent's state changed by a function. -/
def State.modCtx (s : State) (c : CtxId) (f : Ctx → Ctx) : State := s.setCtx c (f (s.ctx c))

/-- The column of an agent: a gang's is in its GID (17 R366). -/
def State.colOf (_ : State) (c : CtxId) : Nat :=
  match c with
  | .cc n => n
  | .gang g => g / 2 ^ 26 % 64

/-- The agent a context number stands for. -/
def ctxOfKey (k : Nat) : CtxId := if k < 64 then .cc k else .gang (k - 64)

/-- The cache an agent's accesses go through: a core's L1, or the column core's (09 R225). -/
def State.cacheOf (_ : State) (c : CtxId) : Nat :=
  match c with
  | .cc n => 5 * n + 4
  | .gang g => 5 * (g / 2 ^ 26 % 64) + g / 2 ^ 24 % 4

/-- The TLBs an agent's accesses use (09 R213). -/
def State.tlbsOf (_ : State) (c : CtxId) : List Nat :=
  match c with
  | .cc n => [256 + n]
  | .gang g => [g / 2 ^ 24 % 256, 256 + g / 2 ^ 26 % 64]

end Machine

/-- An agent that is a column core. -/
def CtxId.isCC : CtxId → Bool
  | .cc _ => true
  | .gang _ => false

namespace Machine

/-- A column core at supervisor level (19 R399); threads on cores are at user level (03 R78). -/
def State.isSup (s : State) (c : CtxId) : Bool :=
  match c with
  | .cc n => (s.sysGet SysReg.cstat n).getLsbD 0
  | .gang _ => false

/-- The ticks of a clock of an agent: 2.4 GHz for a core, 3.0 GHz for a column core, four times as long under the fast
throttle (00 R3, R5; 20 R421). -/
def State.period (s : State) (c : CtxId) : Nat :=
  let k := if SMap.get false s.pw.fast (s.colOf c) then 4 else 1
  match c with
  | .cc _ => 4 * k
  | .gang _ => 5 * k

/-- The count of an agent's clock: its ticks so far, whatever the throttle (02 R62; 20 R421). -/
def State.clk (s : State) (c : CtxId) : Nat :=
  (match c with
   | .cc _ => s.pw.clkCc
   | .gang _ => s.pw.clkCore) + (s.now / s.period c - s.pw.clkAt / s.period c)

/-- The count of a core's clock. -/
def State.coreClk (s : State) (core : Nat) : Nat := s.clk (.gang (core * 2 ^ 24))

/-- The place of an agent in the order of one tick: column cores, then partitions (log 1). -/
def State.seat (s : State) (c : CtxId) : Nat :=
  match c with
  | .cc n => n
  | .gang _ => 64 + 8 * (s.ctx c).core + (s.ctx c).part

end Machine

end Sys2Proof
end

