-- ==== Sys2Proof/Machine/Events.lean ====
section
/-! DEFINITION. Event queues, their overflow stores, event records and fault records (19 R404-R408; 17 R365). -/

namespace Sys2Proof.Machine

/-- The entries of a queue's ring (R404). -/
def State.evqSize (s : State) (q : Nat) : Nat := 2 ^ (min (field (s.sysGet SysReg.evqbase q) 3 0) 8 + 7)

/-- A queue's ring base (R404). -/
def State.evqBase (s : State) (q : Nat) : Nat := field (s.sysGet SysReg.evqbase q) 47 12 * 2 ^ 12

/-- The queue accepts records (R404). -/
def State.evqOn (s : State) (q : Nat) : Bool := (s.sysGet SysReg.evqctl q).getLsbD 63

def State.evqHead (s : State) (q : Nat) : Nat := field (s.sysGet SysReg.evqctl q) 15 0

def State.evqTail (s : State) (q : Nat) : Nat := field (s.sysGet SysReg.evqctl q) 31 16

/-- Entries in use (R404). -/
def State.evqUsed (s : State) (q : Nat) : Nat := (s.evqTail q + 65536 - s.evqHead q) % 65536

/-- Entries free (R404). -/
def State.evqFree (s : State) (q : Nat) : Nat := s.evqSize q - s.evqUsed q

/-- The address of entry i of a ring (R404). -/
def State.evqEntry (s : State) (q i : Nat) : Nat := s.evqBase q + 32 * (i % s.evqSize q)

/-- A column in C1-C3 is to return to C0, once the slew limiter admits it (20 R417, R421). -/
def State.wakeColumn (s : State) (col : Nat) : State :=
  if SMap.get 0 s.pw.cstate col ≠ 0 ∧ !s.cl.exits.contains col then { s with cl := { s.cl with exits := s.cl.exits ++ [col] } } else s

/-- A column core waiting in wfi goes on when its own queue holds a record (R410). -/
def State.wakeWfi (s : State) (q : Nat) : State :=
  if q < 64 ∧ (s.ctx (.cc q)).run = .wfi then s.modCtx (.cc q) fun c => { c with run := .running } else s

/-- One entry written at TAIL, and TAIL moved past it (R405). -/
def State.evqPut (s : State) (q : Nat) (bs : List Byte) : State :=
  let t := s.evqTail q
  let s1 := s.hwWrite (s.evqEntry q t) bs
  s1.sysPut SysReg.evqctl q (setField (s1.sysGet SysReg.evqctl q) 31 16 ((t + 1) % 65536))

/-- A record's bytes from its fields (R408). -/
def recordBytes (ty fl cause col : Nat) (count : Nat) (a b t : Word64) : List Byte :=
  leBytes 1 ty ++ leBytes 1 fl ++ leBytes 1 cause ++ leBytes 1 col ++ leBytes 4 count ++ leBytes 8 a.toNat ++
    leBytes 8 b.toNat ++ leBytes 8 t.toNat

/-- Entries a record needs at a queue: two for a fault record, with a pad when TAIL is odd (R405). -/
def State.evqNeeds (s : State) (q : Nat) (bs : List Byte) : Nat :=
  if bs.length = 64 then 2 + s.evqTail q % 2 else 1

/-- A record written, with its pad, and the host told (R404, R405). -/
def State.evqWrite (s : State) (q col : Nat) (bs : List Byte) : State :=
  let s1 :=
    if bs.length = 64 then
      let s0 := if s.evqTail q % 2 = 1 then
        s.evqPut q (recordBytes 0x8A 0 0 col 0 0 0 (s.sliceTime col)) else s
      (s0.evqPut q (bs.take 32)).evqPut q (bs.drop 32)
    else s.evqPut q bs
  let ctl := s1.sysGet SysReg.evqctl q
  let s2 : State := if ctl.getLsbD 60 then { s1 with ev := { s1.ev with msix := s1.ev.msix ++ [field ctl 53 43] } } else s1
  s2.wakeWfi q

/-- A dropped record: OVF of its queue, where it is enabled, and DROPS (R405). -/
def State.evqDrop (s : State) (q : Option Nat) : State :=
  let d := field (s.sysGet SysReg.evqsel 0) 31 16
  let s1 := s.sysPut SysReg.evqsel 0 (setField (s.sysGet SysReg.evqsel 0) 31 16 (min (d + 1) 65535))
  match q with
  | some n => s1.sysPut SysReg.evqctl n (s1.sysGet SysReg.evqctl n ||| 0x4000000000000000)
  | none => s1

/-- A record of an overflow store is a fault record of a launch (17 R365). -/
def OvfRec.faultOf (r : OvfRec) (h : Word64) : Bool :=
  decide (r.bytes.length = 64 ∧ leNat ((r.bytes.drop 8).take 8) = h.toNat)

/-- A record for an enabled queue: written, kept in the column's overflow store, or dropped (R405). -/
def State.evqOffer (s : State) (q col : Nat) (bs : List Byte) : State :=
  let store := s.ev.ovf.filter fun r => r.col = col
  let waiting := store.any fun r => r.queue = q
  if !waiting && decide (s.evqNeeds q bs ≤ s.evqFree q) then s.evqWrite q col bs
  else if store.length < 64 then { s with ev := { s.ev with ovf := s.ev.ovf ++ [⟨col, q, bs⟩] } }
  else s.evqDrop (some q)

/-- The record of an overflow store that can be posted now: the first of its queue there, with room for it. -/
def State.ovfNext (s : State) (col : Nat) : Option OvfRec :=
  let store := s.ev.ovf.filter fun r => r.col = col
  store.find? fun r => decide ((store.find? fun x => x.queue = r.queue) = some r) &&
    (!s.evqOn r.queue || decide (s.evqNeeds r.queue r.bytes ≤ s.evqFree r.queue))

/-- A post of one column to a queue, redirected when the queue is disabled (R405). -/
def State.post (s : State) (q col : Nat) (bs : List Byte) : State :=
  let q' := if q < 256 then q else col
  if s.evqOn q' then s.evqOffer q' col bs
  else if s.evqOn col then s.evqOffer col col bs
  else s.evqDrop none

/-- An event record posted by a column's agent at its own time (R408). -/
def State.postEvent (s : State) (q col ty fl cause count : Nat) (a b : Word64) : State :=
  s.post q col (recordBytes ty fl cause col count a b (s.sliceTime col))

/-- A machine event (R408). -/
def State.machineEvent (s : State) (q col fl cause : Nat) (a b : Word64) : State :=
  s.postEvent q col 0x86 fl cause 0 a b

/-- Bits [23:16] of ctl.ashape, which a throttle event carries as its A (R408; 12 R275). -/
def State.throttleBits (s : State) (col : Nat) : Word64 :=
  BitVec.ofNat 64 (field (s.sysGet SysReg.ashape (4 * col)) 23 16)

/-- The module's allowance in W (20 R420). -/
def State.allowance (s : State) : Nat := min 4000 (field (s.sysGet SysReg.pbctl 0) 31 16)

/-- The pending throttle record of a column posted, where its queue has an entry free (17 R384). -/
def State.flushThrottle (s : State) (col : Nat) : State :=
  match SMap.get none s.ev.throttle col with
  | some r =>
    if s.evqOn col ∧ 0 < s.evqFree col then
      ({ s with ev := { s.ev with throttle := SMap.set none s.ev.throttle col none } } : State).evqWrite col col
        (recordBytes 0x85 0 r.cause col r.count r.a r.b r.time)
    else s
  | none => s

/-- A column's governor posts a throttle event: to the queue, or merged into the record it keeps while the queue is full
(17 R384). -/
def State.throttle (s : State) (col cause : Nat) : State :=
  let n := match SMap.get none s.ev.throttle col with
    | some r => r.count + 1
    | none => 1
  if s.evqOn col then
    let r : ThrottleRec := ⟨cause, n % 2 ^ 32, s.throttleBits col, BitVec.ofNat 64 s.allowance, s.sliceTime col⟩
    ({ s with ev := { s.ev with throttle := SMap.set none s.ev.throttle col (some r) } } : State).flushThrottle col
  else s.postEvent col col 0x85 0 cause 1 (s.throttleBits col) (BitVec.ofNat 64 s.allowance)

/-- A fault record's fields (17 R365). -/
structure FaultRec where
  kind : Nat
  imp : Bool
  post : Bool
  eng : Bool
  lnch : Bool
  park : Bool
  held : Bool
  sub : Nat
  slot : Nat
  code : Nat
  handle : Word64
  lanes : Word64
  pch : Word64
  pcw : Nat
  gid : Word
  line : Word64
  deriving DecidableEq, Repr

/-- A fault record with its defaults: a precise trap of one word, nothing parked. -/
def FaultRec.base (kind : Nat) (handle lanes pch : Word64) (pcw : Nat) (gid : Word) : FaultRec where
  kind := kind
  imp := false
  post := false
  eng := false
  lnch := false
  park := false
  held := false
  sub := 0
  slot := 255
  code := 0
  handle := handle
  lanes := lanes
  pch := pch
  pcw := pcw
  gid := gid
  line := 0

/-- The 64 bytes of a fault record (R365). -/
def FaultRec.bytes (f : FaultRec) (t : Word64) : List Byte :=
  leBytes 1 f.kind ++
  leBytes 1 (bit f.imp + 2 * bit f.post + 4 * bit f.eng + 8 * bit f.lnch + 16 * bit f.park + 32 * bit f.held) ++
  leBytes 1 f.sub ++ leBytes 1 f.slot ++ leBytes 4 f.code ++ leBytes 8 f.handle.toNat ++ leBytes 8 f.lanes.toNat ++
  leBytes 8 f.pch.toNat ++ leBytes 2 f.pcw ++ leBytes 2 0 ++ leBytes 4 f.gid.toNat ++ leBytes 8 f.line.toNat ++
  leBytes 8 t.toNat ++ leBytes 8 0

/-- A launch by its handle. -/
def State.launch? (s : State) (h : Word64) : Option Launch := s.la.launches.find? fun l => l.handle = h

/-- A little-endian field of a launch record (04 R107). -/
def Launch.recNat (l : Launch) (off n : Nat) : Nat := leNat ((l.record.drop off).take n)

/-- The event queue a launch's records go to (17 R366). -/
def State.launchQueue (s : State) (h : Word64) (col : Nat) : Nat :=
  match s.launch? h with
  | some l => l.recNat 28 2
  | none => col

/-- A fault record posted for an agent of a column (R366, R400). -/
def State.postFault (s : State) (q col : Nat) (f : FaultRec) : State := s.post q col (f.bytes (s.sliceTime col))

end Sys2Proof.Machine
end

