-- ==== Sys2Proof/Machine/Ops.lean ====
section
/-! DEFINITION. The operations every instruction shares: threads and their PCs, paths, arrival at headers and
reconvergence (06 R140-R151), taking a trap (17 R363-R370; 19 R400), write-backs (02 R62-R71), and the order of checks
at issue (02 R54-R69; 03 R76-R79). -/

namespace Sys2Proof

namespace Machine

/-! ### Threads -/

/-- The thread in a lane. -/
def Ctx.lane (c : Ctx) (l : Nat) : Lane := SMap.get Lane.none c.lanes l

/-- The thread in a lane replaced. -/
def Ctx.setLane (c : Ctx) (l : Nat) (x : Lane) : Ctx := { c with lanes := SMap.set Lane.none c.lanes l x }

/-- The thread in a lane changed by a function. -/
def Ctx.modLane (c : Ctx) (l : Nat) (f : Lane → Lane) : Ctx := c.setLane l (f (c.lane l))

/-- The threads of several lanes changed. -/
def Ctx.modLanes (c : Ctx) (ls : List Nat) (f : Nat → Lane → Lane) : Ctx := ls.foldl (fun c l => c.modLane l (f l)) c

/-- Register r of a lane. -/
def Ctx.reg (c : Ctx) (l r : Nat) : Word := SMap.get 0 c.g (256 * l + r)

/-- A register is empty (02 R68). -/
def Ctx.empty (c : Ctx) (l r : Nat) : Bool := SMap.get false c.e (256 * l + r)

/-- An ordinary write-back: the value, and full (02 R68). -/
def Ctx.putReg (c : Ctx) (l r : Nat) (v : Word) : Ctx :=
  { c with g := SMap.set 0 c.g (256 * l + r) v, e := SMap.set false c.e (256 * l + r) false }

/-- A register marked empty by an asynchronous producer (02 R68). -/
def Ctx.markEmpty (c : Ctx) (l r : Nat) : Ctx := { c with e := SMap.set false c.e (256 * l + r) true }

/-- Predicate n of a lane; p7 reads 1 (02 R61). -/
def Lane.pred (x : Lane) (n : Nat) : Bool := if n = 7 then true else x.p.getLsbD n

/-- A predicate written; p7 never is (02 R59). -/
def Lane.putPred (x : Lane) (n : Nat) (v : Bool) : Lane :=
  if n < 7 then { x with p := if v then x.p ||| BitVec.ofNat 7 (2 ^ n) else x.p &&& ~~~(BitVec.ofNat 7 (2 ^ n)) }
  else x

/-- A record slot as a gang or one of its sub-gangs sees it (04 R102). -/
def Ctx.recSlot (c : Ctx) (sub n : Nat) : Rec256 := SMap.get 0 c.b (16 * sub + n)

def Ctx.putRecSlot (c : Ctx) (sub n : Nat) (v : Rec256) : Ctx := { c with b := SMap.set 0 c.b (16 * sub + n) v }

/-- The record-slot copies of sub-gangs, which end with them (17 R367). -/
def Ctx.dropCopies (c : Ctx) (js : List Nat) : Ctx :=
  { c with b := SMap.setAll 0 c.b (js.flatMap fun j => (List.range 16).map fun n => (16 * j + n, (0 : Rec256))) }

/-- A sub-gang. -/
def Ctx.sub (c : Ctx) (j : Nat) : Sub := SMap.get Sub.none c.subs j

def Ctx.setSub (c : Ctx) (j : Nat) (x : Sub) : Ctx := { c with subs := SMap.set Sub.none c.subs j x }

/-- The g registers of the gang's block that words may name (02 R51, R61). -/
def Ctx.blockSize (c : Ctx) : Nat := min 224 (16 * 2 ^ c.regCode)

/-- Threads that have not exited. -/
def Ctx.living (c : Ctx) : Word64 := maskOf fun l => (c.lane l).act && !(c.lane l).exited

/-- The gang itself, or a sub-gang that has been resumed and has its gang slot, issues (17 R367, R368). -/
def Ctx.subRuns (c : Ctx) (j : Nat) : Bool :=
  decide (j = 0) || (decide ((c.sub j).st = .resumed) && (c.sub j).slot.isSome)

/-- A thread stands on a path of sub-gang j: it has not exited and is neither held, stalled nor parked (06 R140). -/
def Ctx.onPath (c : Ctx) (j l : Nat) : Bool :=
  let x := c.lane l
  x.act && !x.exited && !x.heldRcv && !x.heldRb && x.stalled.isNone && decide (x.sub = j)

/-- The paths of a gang or sub-gang: a PC and the threads that stand there (06 R140). -/
def Ctx.paths (c : Ctx) (j : Nat) : List (Word64 × Nat × Word64) :=
  if c.subRuns j then
    ((SMap.keys c.lanes).filter (c.onPath j)).foldl (fun ps l =>
      let x := c.lane l
      if ps.any fun p => p.1 = x.hdr ∧ p.2.1 = x.idx then
        ps.map fun p => if p.1 = x.hdr ∧ p.2.1 = x.idx then (p.1, p.2.1, p.2.2 ||| (1#64 <<< l)) else p
      else ps ++ [(x.hdr, x.idx, 1#64 <<< l)]) []
  else []

/-! ### Write-backs (02 R62-R68) -/

/-- One result enters its register. -/
def Ctx.applyRes (c : Ctx) : Res → Ctx
  | .g l r v => c.putReg l r v
  | .p l n v => c.modLane l fun x => x.putPred n v

/-- A write-back: its registers, and its flags ORed in (01 R30). -/
def Ctx.applyWB (c : Ctx) (w : WB) : Ctx := let c' := w.res.foldl Ctx.applyRes c; { c' with fp := c'.fp ||| w.fl }

/-- Every write-back that is due at a count of the clock enters its registers, the earliest issued first (02 R62). -/
def Ctx.writeBack (c : Ctx) (clk : Nat) : Ctx :=
  let due := c.wbs.filter fun w => decide (w.due ≤ clk)
  due.foldl Ctx.applyWB { c with wbs := c.wbs.filter fun w => !decide (w.due ≤ clk) }

/-- Results of latency `lat` clocks: written back then on a core, at once on a column core (02 R62; 06 R155). -/
def State.later (s : State) (c : CtxId) (lat : Nat) (res : List Res) (fl : Flags) (fp : Bool) : State :=
  let w : WB := ⟨s.clk c + lat, res, fl, fp⟩
  if c.isCC then s.modCtx c fun x => x.applyWB w else s.modCtx c fun x => { x with wbs := x.wbs ++ [w] }

/-! ### Arrival and reconvergence (06 R147-R151) -/

/-- A header that passes R50. -/
def headerOk (w : Word64) : Bool := let h := Header.ofWord w; h.valid && decide (h.resv = 0)

/-- A thread moves to a header: its check is outstanding (02 R50). -/
def Lane.moveTo (x : Lane) (hdr : Word64) : Lane := { x with hdr := hdr, idx := 0, fresh := true }

/-- A thread counts as arrived at an entry: the entry holds it, or it has exited (R148). -/
def Ctx.arrived (c : Ctx) (r : Rcv) (l : Nat) : Bool := (c.lane l).exited || !(c.lane l).act || r.held.getLsbD l

/-- An entry holds threads at an RB header: R150 alone releases them. -/
def Ctx.atRb (c : Ctx) (r : Rcv) : Bool := (lanesOf r.held).any fun l => (c.lane l).heldRb

/-- An entry is released, or popped because its mask is empty: every thread of its mask has arrived (R148, R149). -/
def Ctx.rcvOver (c : Ctx) (r : Rcv) : Bool := (lanesOf r.mask).all (c.arrived r) && !c.atRb r

/-- The entries that satisfy a test are popped and their threads released together (R148). -/
def Ctx.popRcv (c : Ctx) (p : Rcv → Bool) : Ctx :=
  let m := (c.rcv.filter p).foldl (fun (m : Word64) r => m ||| r.held) 0
  { (c.modLanes (lanesOf m) fun _ x => { x with heldRcv := false }) with rcv := c.rcv.filter fun r => !p r }

/-- Every entry that is over is popped (R148, R149). -/
def Ctx.releaseRcv (c : Ctx) : Ctx := c.popRcv c.rcvOver

/-- A gang slot of a partition is taken by a gang or a sub-gang. -/
def State.slotTaken (s : State) (core part slot : Nat) : Bool :=
  s.ctxs.any fun (k, c) => decide (64 ≤ k ∧ c.core = core ∧ c.part = part) && c.live &&
    (decide (c.slot = slot) || c.subs.any fun (_, u) => decide (u.slot = some slot))

/-- The lowest free gang slot of a partition (DESIGN CHOICE, log 39: R124 says `a gang slot`). -/
def State.freeSlot (s : State) (core part : Nat) : Option Nat :=
  (List.range 8).find? fun n => !s.slotTaken core part n

/-- The threads held at a barrier rejoin the gang: sub-gangs end, their copies go, the entries are emptied (R150). -/
def Ctx.releaseRb (c : Ctx) (hdr : Word64) : Ctx :=
  let ls := (SMap.keys c.lanes).filter fun l => (c.lane l).heldRb && decide ((c.lane l).hdr = hdr)
  let c1 := c.modLanes ls fun _ x => { x with heldRb := false, heldRcv := false, sub := 0 }
  let gone := (SMap.keys c1.subs).filter fun j => !((SMap.keys c1.lanes).any fun l =>
    decide ((c1.lane l).sub = j) && !(c1.lane l).exited)
  { c1.dropCopies (gone.filter fun j => decide (j ≠ 0)) with
    rcv := []
    subs := c1.subs.filter fun p => !gone.contains p.1 }

/-- The barrier's condition: no thread runs on, none is parked (R150), or all stand at barriers and the lowest header is
released (R151). A lane with an operation whose fate is unknown has not arrived (17 R370). -/
def Ctx.checkRb (c : Ctx) (pend : Nat → Bool) : Ctx :=
  let ls := (SMap.keys c.lanes).filter fun l => (c.lane l).act && !(c.lane l).exited
  let held := ls.filter fun l => (c.lane l).heldRb
  match held with
  | [] => c
  | l0 :: _ =>
    if ls.all fun l => (c.lane l).heldRb && !pend l then
      let low := held.foldl (fun (m : Word64) l => if (c.lane l).hdr < m then (c.lane l).hdr else m) (c.lane l0).hdr
      c.releaseRb low
    else c

/-- A lane has a store or reduction whose fate is unknown (17 R370). -/
def State.fateOpen (s : State) (c : CtxId) (l : Nat) : Bool :=
  s.ms.ops.any fun o => decide (o.ctx = c) && o.lanes.getLsbD l && (match o.kind with
    | .store | .red _ | .recSt | .dadd | .claspInit | .claspArrive | .claspExpect => true
    | _ => false)

/-- Entries and barriers after threads have moved, split off or exited. -/
def State.settle (s : State) (c : CtxId) : State :=
  if c.isCC then s else s.modCtx c fun x => (Ctx.releaseRcv x).checkRb (s.fateOpen c)

/-- The threads among those that have moved to a header that an entry holds: those of its mask, where the header is its own
(R148). -/
def Ctx.rcvHits (c : Ctx) (r : Rcv) (ls : List Nat) (hdr : Word64) : List Nat :=
  if r.hdr = hdr then ls.filter fun l => r.mask.getLsbD l && decide ((c.lane l).sub = 0) else []

/-- Threads of the top entry's mask that have moved to its header are held; with the first its limit starts (R148). -/
def Ctx.holdRcv (c : Ctx) (ls : List Nat) (hdr : Word64) (due : Nat) : Ctx :=
  match c.rcv with
  | r :: rest =>
    if (c.rcvHits r ls hdr).isEmpty then c
    else
      { (c.modLanes (c.rcvHits r ls hdr) fun _ y => { y with heldRcv := true }) with
        rcv := { r with held := r.held ||| maskOf fun l => (c.rcvHits r ls hdr).contains l, due := some (r.due.getD due) } :: rest }
  | [] => c

/-- Threads of lanes `ls` have moved to header `hdr`: they are held by the top entry whose header it is (R148), or by a
barrier (R150), and the gang takes its launch's priority (05 R122). A column core is never held (R155). -/
def State.arrive (s : State) (c : CtxId) (ls : List Nat) (hdr : Word64) : State :=
  if c.isCC then s
  else
    let x := s.ctx c
    let w := s.peekHeader (s.cacheOf c) hdr.toNat
    let rb := match w with
      | some h => headerOk h && (Header.ofWord h).rb
      | none => false
    let prio := match s.launch? x.handle with
      | some l => l.prio
      | none => x.prio
    let x1 := { x with prio := prio }
    let x2 := if rb then x1.modLanes ls fun _ y => { y with heldRb := true } else x1
    s.setCtx c (x2.holdRcv ls hdr (s.clk c + 64))

/-! ### Taking a trap (17 R363-R370; 19 R400) -/

/-- What raised a trap: the kind, CODE, the record slot (255 for none), the faulting line, and whether it was found after
issue (R363, R365), and whether the lanes park at a header before its word 0. -/
structure TrapInfo where
  kind : Nat
  code : Nat
  rslot : Nat
  line : Word64
  imp : Bool
  atHeader : Bool
  deriving DecidableEq, Repr

/-- A precise trap without CODE, slot or line. -/
def TrapInfo.plain (kind : Nat) : TrapInfo := ⟨kind, 0, 255, 0, false, false⟩

/-- The trap resumes at the next word (R363). -/
def trapNext (kind : Nat) : Bool := decide (kind = 0x08 ∨ kind = 0x0C ∨ kind = 0x0D)

/-- The PC after word idx of the block at hdr: the next word, or the next header (02 R47). -/
def nextPc (h : Header) (hdr : Word64) (idx : Nat) : Word64 × Nat :=
  if idx + 1 < h.len then (hdr, idx + 1) else (hdr + BitVec.ofNat 64 h.size, 0)

/-- FPOL of the launch a gang belongs to (04 R107). -/
def State.fpol (s : State) (h : Word64) : Nat :=
  match s.launch? h with
  | some l => l.recNat 27 1 / 4 % 4
  | none => 0

/-- Every launch with the handle changed. -/
def State.modLaunch (s : State) (h : Word64) (f : Launch → Launch) : State :=
  { s with la := { s.la with launches := s.la.launches.map fun l => if l.handle = h then f l else l } }

/-- The number of an access engine's stream among the commands that make drift queries. -/
def streamOp (core stream : Nat) : Nat := 2 ^ 60 + 16 * core + stream

/-- An access engine's program ends between two blocks of its streams; the drift queries of a block that has not begun are nobody's
when they are answered (11 R267; 15 R337). -/
def State.haltAe (s : State) (core : Nat) : State :=
  let cut (q : DQuery) : Option DQuery :=
    if (List.range 16).any fun i => q.op = some (streamOp core i) then (if q.stage = 4 then none else some { q with op := none }) else some q
  { s with
    en := { s.en with ae := s.en.ae.filter fun a => a.core ≠ core }
    dr := { s.dr with queries := s.dr.queries.filterMap cut } }

/-- The command identity of a quiesce marker (R380). -/
def markerId (h : Word64) (core : Nat) : CmdId := ⟨.cc (core / 4), h, 0, 0, 0, 0, false, core / 4, core⟩

/-- Quiesce markers enter every matrix queue and copy queue that holds commands of a launch, and the access engines end the
launch's programs as ae.halt does, between two blocks of their streams (R380 step 2). -/
def State.injectMarkers (s : State) (h : Word64) : State :=
  let cores := ((s.mx.cmds.filter fun m => m.by_.handle = h).map fun m => m.core).eraseDups
  let cols := ((s.en.cp.filter fun c => c.by_.handle = h).map fun c => c.col).eraseDups
  let ms : List MCmd := cores.mapIdx fun i k =>
    ⟨s.opId + i, k, markerId h k, 255, false, .marker, none, 0, false, 0, none, none, 0, 0, [], none⟩
  let cs : List CpCmd := cols.mapIdx fun i k =>
    ⟨s.opId + cores.length + i, k, markerId h (4 * k), none, 0, 255, 255, 0, none, false, [], true⟩
  let s1 : State := { s with
    opId := s.opId + cores.length + cols.length
    mx := { s.mx with cmds := s.mx.cmds ++ ms }
    en := { s.en with cp := s.en.cp ++ cs } }
  (s.en.ae.filter fun a => a.by_.handle = h).foldl (fun s a => s.haltAe a.core) s1

/-- A launch starts to end, with the status and cause of its completion record (R369, R381); one that is already ending keeps
its own. -/
def State.startEnd (s : State) (h : Word64) (status cause : Nat) : State :=
  match s.launch? h with
  | some l =>
    if l.ending then s
    else (s.modLaunch h fun l => { l with ending := true, status := status, cause := cause, quiescing := 1 }).injectMarkers h
  | none => s

/-- The lanes leave every reconvergence entry (R149). -/
def Ctx.leaveRcv (c : Ctx) (m : Word64) : Ctx :=
  { c with rcv := c.rcv.map fun r => { r with mask := r.mask &&& ~~~m, held := r.held &&& ~~~m } }

/-- The lowest free sub-gang index, 1-16 (R365, R367). -/
def Ctx.freeSub (c : Ctx) : Option Nat := ((List.range 16).map (· + 1)).find? fun j => decide ((c.sub j).st = .none)

/-- Sub-gang entries no living thread belongs to are freed. -/
def Ctx.dropSubs (c : Ctx) : Ctx :=
  let live (j : Nat) : Bool := (SMap.keys c.lanes).any fun l => decide ((c.lane l).sub = j) && !(c.lane l).exited
  { c.dropCopies (((List.range 16).map (· + 1)).filter fun j => !live j) with subs := c.subs.filter fun p => live p.1 }

/-- Lanes turned into a parked sub-gang: its number, or none where they stall at the word (R367). A rec.ld that an earlier sub-gang of the
number left in flight has lost its copy (04 R102). -/
def State.park (s : State) (c : CtxId) (m : Word64) (t : TrapInfo) (hdr : Word64) (idx : Nat) : State × Option Nat :=
  let x := s.ctx c
  let from_ := match lowestLane m with
    | some l => (x.lane l).sub
    | none => 0
  match x.freeSub with
  | some j =>
    let stale (o : MOp) : MOp := if o.ctx = c ∧ o.sub = j then { o with sub := 17 } else o
    let s : State := { s with ms := { s.ms with ops := s.ms.ops.map stale } }
    let slot := s.freeSlot x.core x.part
    let st : SubState := if slot.isSome then .parked else .dormant
    let x1 := (x.modLanes (lanesOf m) fun _ y => { y with sub := j, heldRcv := false, heldRb := false }).leaveRcv m
    let x2 := (List.range 16).foldl (fun (y : Ctx) n => y.putRecSlot j n (x.recSlot from_ n)) x1
    let x3 := x2.setSub j ⟨st, t.kind, m, hdr, idx, slot, t.atHeader⟩
    ((s.setCtx c x3.dropSubs).settle c, some j)
  | none =>
    match x.subs.find? fun p =>
        decide (p.2.st = .parked ∨ p.2.st = .dormant) && decide (p.2.code = t.kind ∧ p.2.hdr = hdr ∧ p.2.idx = idx) with
    | some (j, u) =>
      let x1 := (x.modLanes (lanesOf m) fun _ y => { y with sub := j, heldRcv := false, heldRb := false }).leaveRcv m
      ((s.setCtx c (x1.setSub j { u with mask := u.mask ||| m }).dropSubs).settle c, some j)
    | none => (s.modCtx c fun y => y.modLanes (lanesOf m) fun _ z => { z with stalled := some (t.kind, t.atHeader) }, none)

/-- The gang slots of a gang's sub-gangs taken as they are free: parked and resumed ones ask for one (17 R367, R368). -/
def State.giveSlots (s : State) (c : CtxId) (only : SubState → Bool) : State :=
  (SMap.keys (s.ctx c).subs).foldl (fun s j =>
    let x := s.ctx c
    let u := x.sub j
    if only u.st && u.slot.isNone then
      match s.freeSlot x.core x.part with
      | some n => s.setCtx c (x.setSub j { u with slot := some n })
      | none => if u.st = .parked then s.setCtx c (x.setSub j { u with st := .dormant }) else s
    else s) s

/-- Lanes that stalled because the gang had 16 sub-gangs form one once an entry is free (17 R367). -/
def State.unstall (s : State) (c : CtxId) : State :=
  let x := s.ctx c
  if s.fpol x.handle = 1 ∨ x.freeSub.isNone then s
  else
    match (SMap.keys x.lanes).findSome? fun l => (x.lane l).stalled.map fun t => (x.lane l, t) with
    | none => s
    | some (y, t) =>
      let m := maskOf fun l => decide ((x.lane l).stalled = some t ∧ (x.lane l).hdr = y.hdr ∧ (x.lane l).idx = y.idx)
      ((s.modCtx c fun z => z.modLanes (lanesOf m) fun _ w => { w with stalled := .none }).park c m
        { TrapInfo.plain t.1 with atHeader := t.2 } y.hdr y.idx).1

/-- A fault of a launch: its record is posted to a queue; under FPOL = 1 the first one ends the launch, and later ones are discarded
(R369). -/
def State.launchFault (s : State) (h : Word64) (kind q col : Nat) (r : FaultRec) : State :=
  match s.launch? h with
  | some l =>
    if s.fpol h ≠ 1 then s.postFault q col r else if l.ending then s else (s.startEnd h 3 kind).postFault q col r
  | none => s.postFault q col r

/-- A trap of a gang's lanes: under FPOL = 0 they park and a fault record is posted; under FPOL = 1 the record is posted
once and the launch ends (R366, R367, R369). -/
def State.gangTrap (s : State) (c : CtxId) (m : Word64) (t : TrapInfo) (hdr : Word64) (idx : Nat) : State :=
  let x := s.ctx c
  let col := s.colOf c
  let rec0 : FaultRec := { FaultRec.base t.kind x.handle m hdr idx x.gid with
    imp := t.imp, slot := t.rslot, code := t.code, line := t.line }
  let q := s.launchQueue x.handle col
  if s.fpol x.handle = 1 then
    (s.modCtx c fun y => y.modLanes (lanesOf m) fun _ z => { z with stalled := some (t.kind, t.atHeader) }).launchFault
      x.handle t.kind q col rec0
  else
    match s.park c m t hdr idx with
    | (s1, some j) => s1.postFault q col { rec0 with park := true, sub := j }
    | (s1, none) => s1.postFault q col { rec0 with held := true }

/-- A trap of a column core: at user level it enters the supervisor's vector with the resume PC saved; at supervisor
level it halts (19 R400). The record goes to its own event queue. -/
def State.ccTrap (s : State) (n : Nat) (t : TrapInfo) (hdr : Word64) (idx : Nat) (resume : Word64 × Nat) : State :=
  let c : CtxId := .cc n
  let rec0 : FaultRec := { FaultRec.base t.kind 0 1 hdr idx 0 with
    imp := t.imp, slot := t.rslot, code := t.code, line := t.line }
  if s.isSup c then
    let s1 := (s.postFault n n rec0).modCtx c fun x => { x with run := .halted }
    if n = 0 then s1 else s1.machineEvent 0 n 0 0x08 0 0
  else
    let s1 := s.sysPut SysReg.uepc n (resume.1 &&& 0x00FFFFFFFFFFFFF0)
    let s2 := s1.sysPut SysReg.uepw n (BitVec.ofNat 64 (resume.2 % 1024))
    let s3 := s2.sysPut SysReg.cstat n 1
    (s3.modCtx c fun x => x.modLane 0 fun y => { y.moveTo (s3.sysGet SysReg.svec n) with wait := .none }).postFault n n rec0

/-- A trap taken by lanes `m` of an agent at the word (hdr, idx) of a block with header h (R363). -/
def State.takeTrap (s : State) (c : CtxId) (m : Word64) (t : TrapInfo) (h : Header) (hdr : Word64) (idx : Nat) :
    State :=
  if m = 0 then s
  else
    match c with
    | .cc n => s.ccTrap n t hdr idx (if trapNext t.kind then nextPc h hdr idx else (hdr, idx))
    | .gang _ => s.gangTrap c m t hdr idx

/-- Traps of different kinds of one issue, in ascending kind code (R364). -/
def State.takeTraps (s : State) (c : CtxId) (ts : List (Word64 × TrapInfo)) (h : Header) (hdr : Word64) (idx : Nat) :
    State :=
  (List.range 16).foldl (fun s k =>
    (ts.filter fun t => t.2.kind = k).foldl (fun s t => s.takeTrap c t.1 t.2 h hdr idx) s) s

/-! ### Issue -/

/-- An instruction at its issue: the agent, the path's lanes, those whose guard is 1, the agent's state as its sources
are read, the word's place, and its row (02 R54). -/
structure Issue where
  ctx : CtxId
  sub : Nat
  path : Word64
  act : Word64
  c : Ctx
  hdr : Word64
  idx : Nat
  h : Header
  row : Row
  deriving DecidableEq, Repr

/-- What an instruction did: the state, the lanes that do not move past it (trapped or held), and the lanes that
transfer to a header (06 R143). -/
structure Done where
  s : State
  stay : Word64
  jump : List (Nat × Word64)
  split : Bool
  deriving DecidableEq, Repr

/-- An instruction whose lanes all move past it. -/
def Done.next (s : State) : Done := ⟨s, 0, [], false⟩

/-- An instruction some of whose lanes trapped or are held at it. -/
def Done.held (s : State) (m : Word64) : Done := ⟨s, m, [], false⟩

end Machine

/-- The registers a source or destination names: number, count, G bit. -/
structure RegUse where
  reg : Nat
  n : Nat
  g : Bool
  deriving DecidableEq, Repr

/-- The g register a source byte names (02 R58). -/
def srcUse (o : Opd) (k : SK) (g : Bool) : List RegUse :=
  match o with
  | .g r => if k.count = 0 then [] else [⟨r, k.count, g⟩]
  | _ => []

/-- The g registers DST names, when it names any (02 R59). -/
def Row.dstReg (r : Row) : Option Nat :=
  match r.d, r.dk.form with
  | .g n, .reg => some n
  | .g n, .predOrG => some n
  | .g n, .p0OrG => some n
  | _, _ => none

/-- The g sources of a word, DST among them where it is read (02 R69; 10 R234). -/
def Row.sources (r : Row) : List RegUse :=
  srcUse r.a r.ak (r.c.g.testBit 0) ++ srcUse r.b r.bk (r.c.g.testBit 1) ++ srcUse r.s r.sk (r.c.g.testBit 2) ++
  (match r.dstReg with
   | some n => if r.dk.src then [⟨n, r.dk.n, false⟩] else []
   | none => [])

/-- Every g register a word names (02 R51). -/
def Row.names (r : Row) : List RegUse :=
  r.sources ++ (match r.dstReg with
    | some n => [⟨n, r.dk.n, false⟩]
    | none => [])

/-- A word names a register at or above the gang's block size (02 R51; 03 R76). -/
def Row.outsideBlock (r : Row) (size : Nat) : Bool := r.names.any fun u => decide (size < u.reg + u.n)

/-- The codes a column core takes the illegal-instruction trap for (03 R79). -/
def Row.notOnColumnCore (r : Row) : Bool :=
  decide (r.cls = 9 ∧ (r.op ≤ 3 ∨ r.op = 8 ∨ r.op = 9)) || decide (r.cls = 8 ∧ 8 ≤ r.op) ||
  decide (r.cls = 10 ∧ (r.op = 8 ∨ r.op = 9)) ||
  decide (r.cls = 5 ∧ (r.op ≤ 3 ∨ (0x20 ≤ r.op ∧ r.op ≤ 0x23)))

/-- A register number that no map assigns (19 R402). -/
def Row.noRegister (r : Row) : Bool := decide (r.cls = 11 ∧ r.op ≤ 1) && !Machine.assignedReg (r.tail / 4096)

/-- The word is regx, whose latency ends with the answer to its request (02 R65; 05 R137). -/
def Row.isRegx (r : Row) : Bool := decide (r.cls = 10 ∧ r.op = 0x0E)

/-- A call that is not the last word of its block (06 R159). -/
def Row.misplaced (r : Row) (idx len : Nat) : Bool := decide (r.cls = 10 ∧ (r.op = 3 ∨ r.op = 4) ∧ idx + 1 ≠ len)

namespace Machine

/-- Lanes on which some register of the uses is empty. -/
def Ctx.emptyLanes (c : Ctx) (us : List RegUse) (m : Word64) : Word64 :=
  maskOf fun l => m.getLsbD l && us.any fun u => (List.range u.n).any fun i => c.empty l (u.reg + i)

/-- The lowest-numbered empty register among the uses on the lanes (R363). -/
def Ctx.lowestEmpty (c : Ctx) (us : List RegUse) (m : Word64) : Nat :=
  ((List.range 224).find? fun r => us.any fun u =>
    decide (u.reg ≤ r ∧ r < u.reg + u.n) && (lanesOf m).any fun l => c.empty l r).getD 0

end Machine

/-- Scoreboard slots a word waits on: WM, and its own slot when SE = 1 (02 R66). -/
def Ctl.waitMask (c : Ctl) : Nat := c.wm ||| (if c.se then 2 ^ c.sa else 0)

namespace Machine

/-- The operation reads memory, for fences (13 R296). -/
def OpKind.reads : OpKind → Bool
  | .load _ | .atom _ | .recLd _ | .inv | .dld _ | .claspTest => true
  | _ => false

/-- An operation of lane l of an agent that is still pending. -/
def MOp.ofLane (o : MOp) (c : CtxId) (l : Nat) : Bool := decide (o.ctx = c) && o.lanes.getLsbD l

end Machine

/-- A Memory or Engine command word (03 R75). -/
def Row.memKind (r : Row) : Bool := decide (6 ≤ r.cls ∧ r.cls ≤ 9)

/-- A word that writes memory, which a release fence holds (14 R318). -/
def Row.writesMem (r : Row) : Bool :=
  (decide (r.cls = 6) && [1, 4, 9].contains r.op) || (decide (r.cls = 7) && !([0x39, 0x3A, 0x3B, 0x3C].contains r.op)) ||
  (decide (r.cls = 8) && !([0, 4, 5, 6].contains r.op)) || decide (r.cls = 9)

namespace Machine

/-- An operation of lane l is one that a release of the lane covers: any but a dadd, which `.drift` covers, and a ddrain issued after it
(13 R302, R312). -/
def Lane.covers (x : Lane) (o : MOp) (drift : Bool) : Bool := decide (o.kind ≠ .dadd) || drift || decide (o.id < x.drained)

/-- Accepted writes that a release at a scope waits for, of those with an operation before `upto`: the thread's own, and every one that
its cache's agents are answered from, since a release covers what happens before it (13 R302, R304). -/
def State.fwdOpen (s : State) (c : CtxId) (m : Word64) (upto : Nat) (sc : Scope) : Bool :=
  s.ms.fwd.any fun f => decide (f.op < upto) && !f.stage.doneAt sc &&
    ((decide (f.ctx = c) && decide (f.lanes &&& m ≠ 0)) || f.seenBy (s.cacheOf c))

/-- Drains of trackers, named by cache, region and the count each needs, that are still to be done (13 R302, R312). -/
def State.owed (s : State) (ds : List (Nat × Nat × Nat)) : List Tracker :=
  s.dr.trackers.filter fun t => ds.any fun d => decide (t.cache = d.1 ∧ t.region = d.2.1 ∧ t.drains < d.2.2)

/-- A fence a lane has passed still waits: its reads to complete, and, for writes or after a full fence, its writes to be
performed at its scope, its covered drift to be applied; an acquire fence also waits for the marks that stood when it
issued (13 R305, R306, R312; 14 R318). -/
def State.fenceOpen (s : State) (c : CtxId) (l : Nat) (f : Fence) (wr : Bool) : Bool :=
  (f.ord.acquires &&
    ((s.ms.ops.any fun o => o.ofLane c l && decide (o.id < f.upto) && o.kind.reads) ||
     s.ms.marks.any fun k => decide (k.upto ≤ f.upto) && !k.covers (s.cacheOf c) && s.markOpen k)) ||
  (f.ord.releases && (wr || decide (f.ord = .acqrel)) &&
    ((s.ms.ops.any fun o => o.ofLane c l && decide (o.id < f.upto) && ((s.ctx c).lane l).covers o f.dr) ||
     s.fwdOpen c (1#64 <<< l) f.upto f.sc ||
     !(s.owed f.drift).isEmpty))

/-- An earlier acquire, or a fence, of lane l holds this word (13 R303, R305; 14 R318). -/
def State.fenceHolds (s : State) (c : CtxId) (x : Lane) (l : Nat) (r : Row) : Bool :=
  r.memKind &&
  (s.ms.ops.any (fun o => o.ofLane c l && o.ord.acquires && o.kind.reads) ||
   x.fences.any fun f => s.fenceOpen c l f r.writesMem)

/-- The producer's latency has passed, at a count of the clock (02 R63). -/
def Hold.over (h : Hold) (clk : Nat) : Bool :=
  match h.due with
  | some d => decide (d ≤ clk)
  | none => false

/-- The holds, bubbles, waits and fences of a path's lanes are over (06 R143, R144; 02 R63). -/
def State.laneReady (s : State) (c : CtxId) (l : Nat) (r : Row) : Bool :=
  let x := (s.ctx c).lane l
  decide (x.ready ≤ s.clk c) && decide (x.wait = .none) &&
  (c.isCC || x.holds.all fun h => decide (1 < h.left) || h.over (s.clk c)) && !s.fenceHolds c x l r

/-- The result of the checks at issue. -/
inductive Front
  | stall
  | trapped (s : State)
  | go (is : Issue) (s : State)

end Machine

/-- The privileged codes of a user-level thread; registers and clop operations are judged by their own entries
(03 R78). -/
def Row.privileged (r : Row) : Bool := decide (r.cls = 11) && [2, 3, 4, 6, 7, 8, 10, 11, 12].contains r.op

namespace Machine

/-- The imprecise failures of lane l that a word waits on (17 R370). -/
def Ctx.failsOn (c : Ctx) (l : Nat) (w : Nat) (rel : Bool) : Option Fail :=
  (c.lane l).fails.find? fun f => rel || (match f.slot with
    | some i => w.testBit i
    | .none => false)

end Machine

/-- A word that releases for its source lane alone (19 R407). -/
def Row.releasesOnce (r : Row) : Bool := decide (r.cls = 11 ∧ r.op = 5)

/-- The word releases (13 R302). -/
def Row.releases (r : Row) : Bool :=
  (decide (r.cls = 6 ∨ r.cls = 7 ∨ (r.cls = 8 ∧ r.op = 0)) && decide (2 ≤ r.tail / 1024 % 4)) ||
  decide (r.cls = 8 ∧ (r.op = 2 ∨ r.op = 0x0E ∨ (r.op = 9 ∧ 128 ≤ r.tail % 256))) ||
  decide (r.cls = 10 ∧ (r.op = 0x0F ∨ r.op = 0x10)) || decide (r.cls = 11 ∧ r.op = 5)

/-- A word that writes as an access of its thread: a store, a reduction, an atomic, a clasp operation (13 R296). -/
def Row.writes (r : Row) : Bool := r.writesMem && decide (r.cls < 8 ∨ (r.cls = 8 ∧ r.op < 4))

namespace Machine

/-- A word of a lane releases: one that does by itself, or a write after a release fence (13 R302, R305). -/
def Lane.releasesAt (x : Lane) (r : Row) : Bool := r.releases || (r.writes && x.fences.any fun f => f.ord.releases)

/-- Two failures of one operation. -/
def Fail.like (f g : Fail) : Bool := decide (f.kind = g.kind ∧ f.hdr = g.hdr ∧ f.idx = g.idx)

/-- Lanes with the same outstanding failure park, and the failure is settled (17 R370). -/
def State.parkFail (s : State) (c : CtxId) (m : Word64) (f : Fail) : State :=
  let s1 := s.modCtx c fun x => x.modLanes (lanesOf m) fun _ y => { y with fails := y.fails.filter fun g => !f.like g }
  let x := s1.ctx c
  let y := x.lane ((lowestLane m).getD 0)
  let t : TrapInfo := ⟨f.kind, 0, f.rslot, f.line, true, y.heldRb⟩
  if s1.fpol x.handle = 1 then s1.gangTrap c m t f.hdr f.idx
  else
    let rec0 : FaultRec := { FaultRec.base f.kind x.handle m f.hdr f.idx x.gid with
      imp := true, slot := f.rslot, line := f.line }
    let q := s1.launchQueue x.handle (s1.colOf c)
    match s1.park c m t y.hdr y.idx with
    | (s2, some j) => s2.postFault q (s1.colOf c) { rec0 with park := true, sub := j }
    | (s2, none) => s2.postFault q (s1.colOf c) { rec0 with held := true }

/-- Lanes that stand at a barrier with a failure outstanding park there (17 R370). -/
def State.parkAtRb (s : State) (c : CtxId) : State :=
  (List.range 64).foldl (fun s l =>
    let x := s.ctx c
    match (x.lane l).fails with
    | f :: _ =>
      if (x.lane l).heldRb then
        s.parkFail c (maskOf fun i => (x.lane i).heldRb && decide ((x.lane i).hdr = (x.lane l).hdr) &&
          (x.lane i).fails.any f.like) f
      else s
    | [] => s) s

/-- The checks at issue, in order: the illegal-instruction trap, once the WM wait is over and before any other trap (02 R66; 03 R76, R79),
failures a lane parks for (17 R370), readiness (06 R144), the privileged-operation trap (03 R78), and the full/empty bits (02 R69). -/
def front (r : Row) (s : State) : Front :=
  let sel := s.sel
  let c := s.ctx sel.ctx
  let h := Header.ofWord sel.hw
  match lowestLane sel.lanes with
  | none => .stall
  | some l0 =>
    let hdr := (c.lane l0).hdr
    let idx := (c.lane l0).idx
    let ls := lanesOf sel.lanes
    let guard := maskOf fun l => sel.lanes.getLsbD l && ((c.lane l).pred r.c.p != r.c.n)
    let failing (l : Nat) : Option Fail :=
      c.failsOn l r.c.waitMask ((c.lane l).releasesAt r && guard.getLsbD l && (!r.releasesOnce || decide (lowestLane guard = some l)))
    let illegal := r.outsideBlock c.blockSize || (sel.ctx.isCC && r.notOnColumnCore) || r.noRegister || r.misplaced idx h.len
    match (if illegal then none else ls.findSome? failing) with
    | some f => .trapped (s.parkFail sel.ctx (maskOf fun l => sel.lanes.getLsbD l && (failing l).any f.like) f)
    | none =>
      if ls.any fun l => decide ((c.lane l).sb.toNat &&& r.c.wm ≠ 0) then .stall
      else if illegal then .trapped (s.takeTrap sel.ctx sel.lanes (.plain trapIllegal) h hdr idx)
      else if !(ls.all fun l => s.laneReady sel.ctx l r) then .stall
      else if r.c.se && ls.any fun l => (c.lane l).sb.getLsbD r.c.sa then .stall
      else if guard ≠ 0 ∧ r.privileged ∧ !s.isSup sel.ctx then
        .trapped (s.takeTrap sel.ctx guard (.plain trapPrivileged) h hdr idx)
      else
        let g1 := r.sources.filter fun u => u.g
        let g0 := r.sources.filter fun u => !u.g
        let bad := c.emptyLanes g1 guard
        let path := sel.lanes &&& ~~~bad
        let act := guard &&& ~~~bad
        let s1 := if bad = 0 then s else
          s.takeTrap sel.ctx bad { TrapInfo.plain trapNotReady with code := c.lowestEmpty g1 guard } h hdr idx
        if path = 0 then .trapped s1
        else if c.emptyLanes g0 path ≠ 0 then (if bad = 0 then .stall else .trapped s1)
        else .go ⟨sel.ctx, sel.sub, path, act, s1.ctx sel.ctx, hdr, idx, h, r⟩ s1

/-- The holds of a thread that passes one instruction (02 R63). -/
def passHolds (hs : List Hold) : List Hold :=
  (hs.filter fun h => decide (1 < h.left)).map fun h => { h with left := h.left - 1 }

/-- A thread moves past its word, with the hold its PD sets (02 R47, R63). -/
def Lane.pass (x : Lane) (pc : Word64 × Nat) (hold : Option Hold) : Lane :=
  { x with
    hdr := pc.1
    idx := pc.2
    fresh := decide (pc.2 = 0)
    rewound := false
    holds := passHolds x.holds ++ hold.toList }

/-- The hold a word's PD sets on a lane, for a latency in clocks (02 R63). -/
def Issue.hold (is : Issue) (s : State) (lat : Nat) (l : Nat) : Option Hold :=
  if is.row.c.pd = 0 ∨ is.ctx.isCC ∨ !is.act.getLsbD l then none
  else some ⟨is.row.c.pd, if is.row.isRegx then none else some (s.clk is.ctx + lat)⟩

/-- The masks of the lanes that jumped, by target. -/
def jumpTargets (js : List (Nat × Word64)) : List Word64 := (js.map Prod.snd).eraseDups

/-- The lanes that move past their word without a transfer. -/
def Issue.falls (is : Issue) (d : Done) : List Nat :=
  (lanesOf is.path).filter fun l => !d.stay.getLsbD l && !(d.jump.any fun j => j.1 = l)

/-- The agent once the path's threads have left their word: they move to the next word or header (02 R47), or transfer and wait out
their bubble (06 R143). -/
def Issue.passed (is : Issue) (lat : Nat) (d : Done) : Ctx :=
  d.jump.foldl (fun (c : Ctx) j => c.modLane j.1 fun x =>
      { (x.pass (j.2, 0) (is.hold d.s lat j.1)) with ready := d.s.clk is.ctx + 3 })
    ((d.s.ctx is.ctx).modLanes (is.falls d) fun l x => x.pass (nextPc is.h is.hdr is.idx) (is.hold d.s lat l))

/-- An entry pushed on a full stack discards the oldest, whose threads go on (06 R147); that they go on is the model's choice
(DESIGN CHOICE, log 36: nothing else could release them). -/
def Ctx.pushRcv (c : Ctx) (r : Rcv) : Ctx :=
  let lost := (c.rcv.drop 7).foldl (fun (m : Word64) q => m ||| q.held) 0
  { (c.modLanes (lanesOf lost) fun _ x => { x with heldRcv := false }) with rcv := r :: c.rcv.take 7 }

/-- A split of a gang's path pushes a reconvergence entry, where the block names one that passes R50 (06 R147). Lanes that the word parks
with a trap count for no place (DESIGN CHOICE, log 39: R147 speaks of the threads that it moves). -/
def Issue.pushed (is : Issue) (d : Done) (c : Ctx) : Ctx :=
  let s := d.s
  let pc := nextPc is.h is.hdr is.idx
  let falls := is.falls d
  let places := (if falls.isEmpty then 0 else 1) +
    ((jumpTargets d.jump).filter fun t => !(decide (t = pc.1 ∧ pc.2 = 0) && !falls.isEmpty)).length
  let rcvHdr := is.hdr + BitVec.ofInt 64 (16 * is.h.rcv)
  let okRcv := match s.peekHeader (s.cacheOf is.ctx) rcvHdr.toNat with
    | some w => headerOk w
    | none => false
  let mask := maskOf fun l => is.path.getLsbD l && !d.stay.getLsbD l
  if d.split && decide (2 ≤ places) && decide (is.h.rcv ≠ 0) && okRcv && !is.ctx.isCC && decide (is.sub = 0)
    then c.pushRcv ⟨rcvHdr, mask, 0, none⟩ else c

/-- The end of an instruction: its threads move, arrivals are held, a split pushes an entry, and entries and barriers are settled
(06 R143, R147-R151). -/
def finish (is : Issue) (lat : Nat) (d : Done) : State :=
  let pc := nextPc is.h is.hdr is.idx
  let s1 := d.s.setCtx is.ctx (is.pushed d (is.passed lat d))
  let s2 := if pc.2 = 0 ∧ !(is.falls d).isEmpty then s1.arrive is.ctx (is.falls d) pc.1 else s1
  let s3 := (jumpTargets d.jump).foldl (fun s t =>
    s.arrive is.ctx ((d.jump.filter fun j => j.2 = t).map Prod.fst) t) s2
  (if is.ctx.isCC then s3 else s3.parkAtRb is.ctx).settle is.ctx

/-! ### Blocked threads (06 R144; 14 R319) -/

/-- Threads that stood blocked at their words move past them, and arrive where that is a header. -/
def State.passWord (s : State) (c : CtxId) (m : Word64) : State :=
  let x := s.ctx c
  let ls := lanesOf m
  let pcOf (l : Nat) : Word64 × Nat :=
    let y := x.lane l
    nextPc (Header.ofWord (y.hw.getD 0)) y.hdr y.idx
  let x1 := x.modLanes ls fun l y => { y.pass (pcOf l) none with wait := .none }
  let hs := ((ls.filter fun l => (pcOf l).2 = 0).map fun l => (pcOf l).1).eraseDups
  let s1 := hs.foldl (fun s h => s.arrive c (ls.filter fun l => decide (pcOf l = (h, 0))) h) (s.setCtx c x1)
  (if c.isCC then s1 else s1.parkAtRb c).settle c

/-- The trap that a blocked lane is to take. -/
def Wait.trap? : Wait → Option TrapInfo
  | .trap k n line _ => some ⟨k, 0, n, line, false, false⟩
  | _ => Option.none

/-- The failing lanes of a blocking instruction's path take their traps, one group for each kind, with the line of its lowest lane
(R364). -/
def State.trapPath (s : State) (c : CtxId) (ls : List Nat) : State :=
  let x := s.ctx c
  match ls with
  | [] => s
  | l0 :: _ =>
    let y := x.lane l0
    let group (k : Nat) : Option (Word64 × TrapInfo) :=
      match ls.filterMap fun l => (x.lane l).wait.trap?.bind fun t => if t.kind = k then some (l, t) else none with
      | [] => none
      | q :: r => some (maskOf fun l => (q :: r).any fun p => p.1 = l, q.2)
    (s.modCtx c fun x => x.modLanes ls fun _ z => { z with wait := .none }).takeTraps c ((List.range 16).filterMap group)
      (Header.ofWord (y.hw.getD 0)) y.hdr y.idx

/-- The path of a blocking instruction goes on once no lane of it still waits for a result; those that failed trap (R364). -/
def State.checkPeers (s : State) (c : CtxId) (path : Word64) : State :=
  let x := s.ctx c
  let mine := (lanesOf path).filter fun l => decide ((x.lane l).wait.path? = some path)
  let bad := mine.filter fun l => (x.lane l).wait.trap?.isSome
  let done := mine.filter fun l => decide ((x.lane l).wait = .peers path)
  if bad.length + done.length = mine.length then (s.trapPath c bad).passWord c (maskOf fun l => done.contains l) else s

/-- Lanes have their results; the last of their path lets it go on. -/
def State.doneWaiting (s : State) (c : CtxId) (m path : Word64) : State :=
  (s.modCtx c fun x => x.modLanes (lanesOf m) fun _ y => { y with wait := .peers path }).checkPeers c path

/-- Lanes of a path blocked at its word, each with its own wait. -/
def State.block (s : State) (is : Issue) (m : Word64) (f : Nat → Wait) : State :=
  s.modCtx is.ctx fun x => x.modLanes (lanesOf m) fun l y => { y with hw := some s.sel.hw, wait := f l }

/-- Blocked lanes fail: they trap at their word with the others of its path that do (R364). -/
def State.trapBlocked (s : State) (c : CtxId) (m path : Word64) (t : TrapInfo) : State :=
  (s.modCtx c fun x => x.modLanes (lanesOf m) fun _ z => { z with wait := .trap t.kind t.rslot t.line path }).checkPeers c path

/-- What a step answers: the next state, or the stop an untranslated access met (log 17). -/
def ret (s : State) : Host.Outcome State Fault Refusal :=
  match s.stuck with
  | some f => .fault f
  | none => .next s

/-- One instruction word at issue: the checks, then its effect on the path (log 2). An instruction that cannot issue yet
leaves the state as it is. -/
def issueWith (i : Instr) (lat : Nat) (eff : Issue → State → Option Done) (s : State) :
    Host.Outcome State Fault Refusal :=
  match i.row with
  | none => .next s
  | some r =>
    match front r s with
    | .stall => .next s
    | .trapped s1 => ret s1
    | .go is s1 =>
      if is.act = 0 then ret (finish is lat (.next s1))
      else
        match eff is s1 with
        | none => .next s
        | some d => ret (finish is lat d)

/-- A word that is no instruction takes the illegal-instruction trap on every lane of the path, once its WM wait is over
(03 R76). -/
def execIllegal (w : Nat) (s : State) : Host.Outcome State Fault Refusal :=
  let c := s.ctx s.sel.ctx
  let wm := (Raw.ofNat w).wm
  match lowestLane s.sel.lanes with
  | none => .next s
  | some l0 =>
    if (lanesOf s.sel.lanes).any fun l => decide ((c.lane l).sb.toNat &&& wm ≠ 0) then .next s
    else ret (s.takeTrap s.sel.ctx s.sel.lanes (.plain trapIllegal) (Header.ofWord s.sel.hw) (c.lane l0).hdr
      (c.lane l0).idx)

end Machine

end Sys2Proof
end

