-- ==== Sys2Proof/Machine/Operands.lean ====
section
/-! DEFINITION. Reading source operands and writing destinations (02 R58-R61; 07 R164; 01 R20). -/

namespace Sys2Proof

/-- imm24 sign-extended to 32 bits (R58, R73). -/
def imm32 (imm : Nat) : Nat := wrap 32 (sext 24 imm)

namespace Machine

/-- A register pair: the even register holds the low half (R60). -/
def Ctx.pair (c : Ctx) (l r : Nat) : Nat := (c.reg l r).toNat + 2 ^ 32 * (c.reg l (r + 1)).toNat

/-- n registers from r, the lowest first (R60). -/
def Ctx.regs (c : Ctx) (l r : Nat) : Nat → Nat
  | 0 => 0
  | n + 1 => (c.reg l r).toNat + 2 ^ 32 * c.regs l (r + 1) n

/-- The value an operand byte gives lane l (R58, R60); `imm` is the value of 0xFF, `gt` that of `%gtime`. -/
def Ctx.operand (c : Ctx) (gt imm : Nat) (wide : Bool) (o : Opd) (l : Nat) : Nat :=
  let x := c.lane l
  match o with
  | .g r => if wide then c.pair l r else (c.reg l r).toNat
  | .k n => if wide then (SMap.get 0 c.k n).toNat else (SMap.get 0 c.k n).toNat % 2 ^ 32
  | .p n => bit (x.pred n)
  | .lane => l
  | .team => x.team.toNat
  | .gtime => gt
  | .tid => x.tid.toNat
  | .cx => x.cx.toNat
  | .cy => x.cy.toNat
  | .zero => 0
  | .imm => imm

/-- The value of a source on lane l at issue (02 R54, R58). -/
def Issue.src (is : Issue) (s : State) (wide : Bool) (o : Opd) (l : Nat) : Nat :=
  is.c.operand ((s.gtime (s.cacheOf is.ctx)).toNat % 2 ^ 32) 0 wide o l

/-- A source of an immediate twin (R73). -/
def Issue.srcImm (is : Issue) (s : State) (imm : Nat) (o : Opd) (l : Nat) : Nat :=
  is.c.operand ((s.gtime (s.cacheOf is.ctx)).toNat % 2 ^ 32) (imm32 imm) false o l

/-- A source of type t (07 R164). -/
def Issue.ty (is : Issue) (s : State) (t : Ty) (o : Opd) (l : Nat) : Nat :=
  is.src s (decide (t.bits = 64)) o l

/-- V(S): a source read as a predicate value (07 R183). -/
def Issue.truth (is : Issue) (s : State) (o : Opd) (l : Nat) : Bool := decide (is.src s false o l ≠ 0)

/-- n registers from r written with a value's words (R60). -/
def regRes (l r v : Nat) : Nat → List Res
  | 0 => []
  | n + 1 => .g l r (BitVec.ofNat 32 v) :: regRes l (r + 1) (v / 2 ^ 32) n

/-- The writes of a result to DST: n registers, a predicate, or nothing (R59, R60). -/
def dstPut (d : Dst) (n l v : Nat) : List Res :=
  match d with
  | .g r => regRes l r v n
  | .p i => [.p l i (decide (v ≠ 0))]
  | .none => []

/-- The registers a value of type t takes (R164). -/
def tyRegs (t : Ty) : Nat := if t.bits = 64 then 2 else 1

/-- What an instruction computes on one lane: the writes and the flags raised. -/
structure LaneRes where
  res : List Res
  fl : Flags
  deriving DecidableEq, Repr

/-- The results of every lane that executes, written back `lat` clocks after issue (R54, R62, R64). -/
def perLane (lat : Nat) (fp : Bool) (f : Issue → State → Nat → LaneRes) (is : Issue) (s : State) : Option Done :=
  let rs := (lanesOf is.act).map (f is s)
  some (.next (s.later is.ctx lat (rs.flatMap LaneRes.res) (rs.foldl (fun x r => x ||| r.fl) 0) fp))

end Machine

end Sys2Proof
end

