-- ==== Sys2Proof/Machine/Records.lean ====
section
/-! DEFINITION. Buffer records: their fields, validity, the index and bounds of an element, the swizzle, roles and arenas
(04 R95-R104; 10 R235, R237). -/

namespace Sys2Proof

/-- A field of a record (R95). -/
def recField (r : Rec256) (hi lo : Nat) : Nat := bitsOf r.toNat hi lo

/-- The check byte of a record (R95). -/
def recCheck (r : Rec256) : Nat :=
  (List.range 31).foldl (fun x i => x ^^^ recField r (8 * i + 7) (8 * i)) 0xA5

/-- A record with its check byte computed (R244, R245). -/
def recSeal (r : Rec256) : Rec256 := BitVec.ofNat 256 (r.toNat % 2 ^ 248 + recCheck r * 2 ^ 248)

namespace Rec256

def base (r : Rec256) : Nat := recField r 63 0
def extx (r : Rec256) : Nat := recField r 95 64
def stride (r : Rec256) : Int := sext 32 (recField r 127 96)
def exty (r : Rec256) : Nat := recField r 159 128
def es (r : Rec256) : Nat := recField r 163 160
def swz (r : Rec256) : Nat := recField r 171 164
def space (r : Rec256) : Nat := recField r 175 172
def role (r : Rec256) : Nat := recField r 179 176
def rt (r : Rec256) : Nat := recField r 181 180
def ro (r : Rec256) : Bool := decide (recField r 182 182 = 1)
def wo (r : Rec256) : Bool := decide (recField r 183 183 = 1)
def oob (r : Rec256) : Nat := recField r 185 184

/-- The rows of a record; 0 is read as 1 (R95). -/
def rows (r : Rec256) : Nat := if Rec256.exty r = 0 then 1 else Rec256.exty r

/-- The bits of BASE that a space requires to be 0 (R96). -/
def baseOk (r : Rec256) : Bool :=
  let s := Rec256.space r
  if s = 0 ∨ s = 3 then decide (Rec256.base r < 2 ^ 56) else if s = 4 then decide (Rec256.base r < 16) else true

/-- A valid record (R97). -/
def valid (r : Rec256) : Bool :=
  decide (recField r 255 248 = recCheck r) && decide (recField r 247 186 = 0) && decide (Rec256.oob r < 2) &&
  decide (Rec256.space r < 5) && decide (Rec256.swz r < 4) && decide (Rec256.es r < 5) &&
  !(Rec256.ro r && Rec256.wo r) && (decide (Rec256.role r = 0) || decide (Rec256.space r = 2)) &&
  (decide (Rec256.swz r = 0) || decide (Rec256.base r % 128 = 0)) && Rec256.baseOk r

end Rec256

/-- Swizzle(o, m): the low bits of the line index put into the chunk index (R99). -/
def swizzle (o : Int) (m : Nat) : Int :=
  let c := (o / 16 % 8).toNat
  let k := (o / 128 % (2 ^ m : Nat)).toNat
  o + 16 * (((c ^^^ k : Nat) : Int) - (c : Int))

/-- The elements an access of `bytes` covers (R98, R243). -/
def recElems (r : Rec256) (bytes : Nat) : Nat := max 1 (bytes / 2 ^ Rec256.es r)

/-- BASE + o for element (x, y), when its index is within the record (R98). -/
def recAddr (r : Rec256) (x y : Int) (bytes : Nat) : Option Int :=
  if x < 0 ∨ (Rec256.extx r : Int) < x + recElems r bytes ∨ y < 0 ∨ (Rec256.rows r : Int) ≤ y then none
  else some ((Rec256.base r : Int) + swizzle (x * (2 ^ Rec256.es r : Nat) + y * Rec256.stride r) (Rec256.swz r))

/-- rec.adj: the window of a record from (x, y); the all-zero record where it has none (R245). -/
def recWindow (r : Rec256) (x y : Int) : Rec256 :=
  if !Rec256.valid r ∨ Rec256.space r = 4 ∨ x < 0 ∨ (Rec256.extx r : Int) < x ∨ y < 0 ∨ (Rec256.rows r : Int) ≤ y then 0
  else
    let b := wrap 64 ((Rec256.base r : Int) + x * (2 ^ Rec256.es r : Nat) + y * Rec256.stride r)
    let n := b + (Rec256.extx r - x.toNat) * 2 ^ 64 + recField r 127 96 * 2 ^ 96 +
      (Rec256.rows r - y.toNat) * 2 ^ 128 + r.toNat / 2 ^ 160 * 2 ^ 160
    recSeal (BitVec.ofNat 256 n)

namespace Machine

/-- Whose access it is: its TLBs, privilege, core, launch and cache. A core is numbered 4 times the column plus the logical
core; a column core has none of its own. -/
structure Who where
  tlbs : List Nat
  user : Bool
  sup : Bool
  isCC : Bool
  core : Nat
  handle : Word64
  cache : Nat
  deriving DecidableEq, Repr

/-- An agent as the source of an access. -/
def State.who (s : State) (c : CtxId) : Who where
  tlbs := s.tlbsOf c
  user := !s.isSup c
  sup := s.isSup c
  isCC := c.isCC
  core := if c.isCC then 4 * s.colOf c else (s.ctx c).core
  handle := (s.ctx c).handle
  cache := s.cacheOf c

/-- A logical core of a column is present (R105). -/
def State.corePresent (s : State) (core : Nat) : Bool :=
  decide (field (s.sysGet SysReg.corebind (core / 4)) (6 * (core % 4) + 5) (6 * (core % 4)) ≠ 0x3F)

/-- The core a role binds (R104). -/
def State.roleCore (s : State) (w : Who) (role : Nat) : Option Nat :=
  if w.isCC then none
  else
    let map := match s.launch? w.handle with
      | some l => l.recNat 40 8
      | none => 0
    let v := map / 16 ^ role % 16
    let col := 4 * (w.core / 4)
    let k := if 1 ≤ v ∧ v ≤ 4 then some (col + v - 1)
      else if 5 ≤ v ∧ v ≤ 8 then some (col + (w.core + v - 5) % 4) else none
    k.bind fun n => if s.corePresent n then some n else none

/-- A launch's arena on a core: base in the scratchpad and ARENA bytes (05 R128). -/
def State.arena (s : State) (h : Word64) (core : Nat) : Option (Nat × Nat) :=
  (s.la.arenas.find? fun a => decide (a.handle = h ∧ a.core = core)).map fun a => (a.base, a.size)

/-- A named queue of a core. -/
def State.queue (s : State) (core q : Nat) : Queue := SMap.get Queue.free s.en.queues (16 * core + q)

def State.putQueue (s : State) (core q : Nat) (x : Queue) : State :=
  { s with en := { s.en with queues := SMap.set Queue.free s.en.queues (16 * core + q) x } }

/-- Where an element lies: out of the record's bounds, outside an arena, a scratchpad address, or a virtual one (R98,
R237). -/
inductive Place
  | oob | bounds
  | scratch (pa : Nat)
  | virt (va : Int)
  deriving DecidableEq, Repr

/-- An offset into an arena, or nothing beyond it (R98); an offset below 0 is beyond it as well (DESIGN CHOICE, log 36). -/
def arenaPlace (a : Option (Nat × Nat)) (core : Nat) (off : Int) : Place :=
  match a with
  | some (b, n) => if 0 ≤ off ∧ off < n then .scratch (scratch core (b + off.toNat)) else .bounds
  | none => .bounds

/-- The place of element (x, y) for an access of `bytes` (R98, R237). An unbound role fails before the index (R104); a
queue ring that the launch does not own has no bytes (log 19). -/
def State.place? (s : State) (w : Who) (r : Rec256) (x y : Int) (bytes : Nat) : Place :=
  if Rec256.space r = 2 ∧ (s.roleCore w (Rec256.role r)).isNone then .bounds
  else
    match recAddr r x y bytes with
    | none => .oob
    | some a =>
      match Rec256.space r with
      | 1 => if w.isCC then .bounds else arenaPlace (s.arena w.handle w.core) w.core a
      | 2 =>
        (match s.roleCore w (Rec256.role r) with
         | some k => arenaPlace (s.arena w.handle k) k a
         | none => .bounds)
      | 4 =>
        let q := s.queue w.core (Rec256.base r)
        let off := a - Rec256.base r
        if w.isCC ∨ q.owner ≠ some w.handle then .bounds
        else
          (match s.arena w.handle w.core with
           | some (b, _) => arenaPlace (some (b + q.base, q.count * q.size * 128)) w.core off
           | none => .bounds)
      | _ => .virt a

/-- What the checks of one access found (R235, R236): an address with its leaf's TGT (7 for a scratchpad), zero-filled or
dropped by policy, a trap with the line and whether translation found it, a page to migrate, or a walk that has to wait (18 R393). -/
inductive Found
  | ok (pa tgt : Nat)
  | zero
  | trap (kind : Nat) (line : Word64) (late : Bool)
  | page (l : Leaf) (pa : Nat)
  | wait
  deriving DecidableEq, Repr

/-- The address found. -/
def Found.pa? : Found → Option Nat
  | .ok pa _ => some pa
  | _ => none

/-- It has to wait. -/
def Found.waits : Found → Bool
  | .wait => true
  | _ => false

/-- The 128-byte virtual line of an address, as a fault record gives it (17 R365). -/
def lineOf (va : Nat) : Word64 := BitVec.ofNat 64 (va / 128 * 128)

/-- A link. -/
def State.link (s : State) (l : Nat) : Link := SMap.get Link.reset s.fa.links l

/-- The striping width of a link: its working wavelengths, down to MINW in M1, but for one that a maintenance slot takes where another is
left (16 R352; 20 R417). -/
def State.linkWidth (s : State) (l : Nat) (x : Link) : Nat :=
  let w := if s.pw.mstate = 1 then min x.good (max 1 x.minw) else x.good
  if s.ca.retrain = some l ∧ 1 < w then w - 1 else w

/-- A link's width set as it stands now. -/
def State.settleWidth (s : State) (l : Nat) : State :=
  let x := s.link l
  if x.up then { s with fa := { s.fa with links := SMap.set Link.reset s.fa.links l { x with width := s.linkWidth l x } } } else s

/-- Requests to an address of another module are held: the link that leads there holds its flits (16 R351; 18 R391). -/
def State.stopped (s : State) (flat : Nat) : Bool := isPeer flat && (s.routeLink ((flat - 2 ^ 50) / 2 ^ 48)).any s.linkHeld

/-- An access that has no operation of its own begins to wait for its link, by its number (16 R348). -/
def State.stopBegins (s : State) (id : Nat) : State :=
  if s.fa.waits.any fun w => w.1 = id then s else { s with fa := { s.fa with waits := s.fa.waits ++ [(id, s.now)] } }

/-- It no longer waits. -/
def State.stopEnds (s : State) (id : Nat) : State :=
  if s.fa.waits.any fun w => w.1 = id then { s with fa := { s.fa with waits := s.fa.waits.filter fun w => w.1 ≠ id } } else s

/-- It has had no completion for 1 ms (16 R348). -/
def State.stopLate (s : State) (id : Nat) : Bool := s.fa.waits.any fun w => decide (w.1 = id ∧ w.2 + 12000000 ≤ s.now)

/-- A module serves requests for an address: not in tier 2 or 3, nor beyond fitted memory; a peer is taken to be fitted as this
module is (16 R349; log 24). -/
def served (pa : Nat) : Bool := decide (pa < 2 ^ 47) && fitted pa

/-- A peer's address can be reached: another module, by a link that is up, that serves it (16 R348). -/
def State.peerOk (s : State) (flat : Nat) : Bool :=
  let chip := (flat - 2 ^ 50) / 2 ^ 48
  decide (chip ≠ field (s.sysGet SysReg.pod 0) 57 48) && served (flat % 2 ^ 48) &&
  match s.routeLink chip with
  | some l => (s.link l).up
  | none => false

/-- What a leaf allows beyond its own bits: a weight region in load state is open at a column core's supervisor level alone, and another
module must be in reach (09 R222; 16 R348). -/
def State.leafAllows (s : State) (l : Leaf) (pa : Nat) (wr sup : Bool) : Bool :=
  (decide (l.tgt ≠ 2) || s.wsAllows pa wr sup) && (decide (l.tgt ≠ 3) || s.peerOk pa)

/-- The translated part of the checks but a peer's reach: the leaf, then the weight store, then space 3's target (R96, R211, R222). -/
def State.checkPage (s : State) (w : Who) (space : Nat) (va : Int) (k : AccKind) : State × Found :=
  if va < 0 ∨ (2 ^ 56 : Nat) ≤ va then (s, .trap trapTranslation (lineOf (wrap 64 va)) true)
  else
    let a := va.toNat
    match s.translate w.tlbs a k w.user with
    | (s1, .trap kind) => (s1, .trap kind (lineOf a) true)
    | (s1, .migrate l) => (s1, .page l (l.pa a))
    | (s1, .wait) => (s1, .wait)
    | (s1, .ok pa l) =>
      if space = 3 ∧ l.tgt ≠ 2 then (s1, .trap trapPermission (lineOf a) true)
      else if l.tgt = 2 ∧ !s1.wsAllows pa (decide (k ≠ .read)) w.sup then (s1, .trap trapPermission (lineOf a) true)
      else (s1, .ok pa l.tgt)

/-- The translated part of the checks, with a peer's reach last (16 R348). -/
def State.checkVirt (s : State) (w : Who) (space : Nat) (va : Int) (k : AccKind) : State × Found :=
  match s.checkPage w space va k with
  | (s1, .ok pa tgt) => if tgt = 3 ∧ !s1.peerOk pa then (s1, .trap trapPermission (lineOf (wrap 64 va)) true) else (s1, .ok pa tgt)
  | q => q

/-- The checks of one access through a valid record, in the order of R235; `n` bytes aligned to `al`. -/
def State.checkAccess (s : State) (w : Who) (r : Rec256) (x y : Int) (n al : Nat) (k : AccKind) : State × Found :=
  match s.place? w r x y n with
  | .oob => if Rec256.oob r = 1 then (s, .trap trapBounds 0 false) else (s, .zero)
  | .bounds => (s, .trap trapBounds 0 false)
  | p =>
    if (Rec256.ro r && decide (k ≠ .read)) || (Rec256.wo r && decide (k ≠ .write)) then
      (s, .trap trapPermission (match p with
        | .virt va => lineOf (wrap 64 va)
        | _ => 0) false)
    else
      match p with
      | .scratch pa => if pa % al ≠ 0 then (s, .trap trapMisaligned 0 false) else (s, .ok pa 7)
      | .virt va =>
        if va % al ≠ 0 then (s, .trap trapMisaligned (lineOf (wrap 64 va)) false)
        else s.checkVirt w (Rec256.space r) va k
      | _ => (s, .zero)

end Machine

end Sys2Proof
end

