-- ==== Sys2Proof/Machine/Access.lean ====
section
/-! DEFINITION. Where accesses are performed: leases, owners and sharers (09 R225-R232), accepted writes on their way home (10 R239;
13 R297), marks and forced publishes (13 R306), and the order operations of a thread are performed in (13 R299-R305). -/

namespace Sys2Proof

namespace Machine

/-- A region's entry. -/
def State.driftEntry (s : State) (i : Nat) : DriftRegion := SMap.get DriftRegion.off s.dr.table i

/-- The range of a region holds an address (15 R327). -/
def DriftRegion.holds (r : DriftRegion) (pa : Nat) : Bool :=
  r.valid && decide (r.base ≤ pa ∧ pa < r.base + 2 ^ 16 * r.size)

/-- The valid drift region that holds a physical address. -/
def State.driftOf (s : State) (pa : Nat) : Option Nat :=
  s.dr.table.findSome? fun p => if p.2.holds pa then some p.1 else none

/-! ### Copies in the caches -/

/-- Global time as a cache last sampled it: every 8 ns, or every 32 under the fast throttle (R229; log 37). -/
def State.sampled (s : State) (cache : Nat) : Nat :=
  let t := (s.gtime cache).toNat
  let p := if SMap.get false s.pw.fast (cache / 5) then 32 else 8
  t / p * p

/-- A copy that is a lease its holder may use now (R229). -/
def State.leaseHit (s : State) (cache line : Nat) : Bool :=
  match s.l1Line cache line with
  | some l => (match l.kind with
    | .lease ends _ => decide (s.sampled cache < ends)
    | _ => false)
  | none => false

/-- A cache answers a read of a request type from its own copy; an `.nc` read goes to the home, also of a line the cache owns (R225,
R228). -/
def State.hits (s : State) (cache : Nat) (rt : Rt) (line : Nat) : Bool :=
  match s.l1Line cache line, s.loadRt cache rt with
  | none, _ => false
  | some _, .nc => false
  | some l, t =>
    match l.kind with
    | .lease _ _ => decide (t = .wt ∨ t = .si) && s.leaseHit cache line
    | _ => true

/-- The lease copy that a cache of the same column, its column core's among them, supplies for a miss of a type that keeps copies, where
the predictor names one that holds it still live; its end is that one's. A cache whose time is out of its guard band takes none (R216,
R225, R228, R231). -/
def State.peerLease (s : State) (cache : Nat) (rt : Rt) (line : Nat) : Option CopyKind :=
  let peer (k : Nat) : Nat := 5 * (cache / 5) + k
  if s.loadRt cache rt ≠ .nc && !SMap.get false s.ms.skewed cache &&
      (List.range 5).any fun k => decide (peer k ≠ cache) && s.leaseHit (peer k) line then
    let p := peer (Config.predictor cache line s.ns % 5)
    if p ≠ cache ∧ s.leaseHit p line then (s.l1Line p line).map L1Line.kind else none
  else none

/-- Retention class of a fill: 1 for a laggard gang (R217; 06 R153). -/
def State.fillClass (s : State) (c : CtxId) : Nat := bit (s.ctx c).urgent

/-- What a read leaves behind in the caches: a copy used, a copy supplied by a peer, or what the home answers (R216, R225-R227). -/
def State.readCopies (s : State) (cls cache : Nat) (rt : Rt) (line : Nat) : State :=
  if s.hits cache rt line then s.touchL1 cache line
  else
    match s.peerLease cache rt line with
    | some k => s.putL1 cache line (some ⟨cache, line, k, [], cls⟩)
    | none =>
      let home (s : State) : State := s.sliceFill line
      match s.loadRt cache rt with
      | .own =>
        let s1 := (home (s.recall (some cache) line false)).disown (line * 128)
        let r := s1.region (line * 128)
        (s1.putRegion { r with sharers := r.sharers ||| (1#64 <<< (cache / 5)) }).putL1 cache line (some ⟨cache, line, .shared, [], cls⟩)
      | .nc => (home (s.recall none line false)).putL1 cache line none
      | _ => (home (s.recall (some cache) line false)).grantLease cls cache line

/-- What an agent's read leaves behind in its cache. -/
def State.loadCopies (s : State) (c : CtxId) (cache : Nat) (rt : Rt) (line : Nat) : State := s.readCopies (s.fillClass c) cache rt line

/-- A read of a line by a cache reaches the home (R216, R225). -/
def State.misses (s : State) (cache : Nat) (rt : Rt) (line : Nat) : Bool :=
  !s.hits cache rt line && (s.peerLease cache rt line).isNone

/-- A cache becomes the owner of a line, its region's too, whose leases have ended; a region that another L1 owns elsewhere has a conflict.
A line it shares it keeps, with its class; one it does not is filled (R217, R225-R227, R232). -/
def State.takeOwner (s : State) (cls cache line : Nat) : State :=
  if s.owns cache line then s.touchL1 cache line
  else
    let cls' := match s.l1Line cache line with
      | some l => if l.kind = .shared then l.cls else cls
      | none => cls
    let s0 := (s.recall (some cache) line true).dropSharers (some cache) line
    let s1 := if (s.l1Line cache line).isSome then s0 else s0.sliceFill line
    let r := s1.region (line * 128)
    let s2 := if r.owner ≠ some cache then s1.disown (line * 128) else s1
    (s2.putRegion { s2.region (line * 128) with owner := some cache, leases := [] }).putL1 cache line
      (some ⟨cache, line, .owned, [], cls'⟩)

/-- An access of bytes of a line reaches a memory controller: neither the cache it comes through, nor a peer, nor the home slice answers
it, which serves a copy with the whole line alone (18 R394). -/
def State.lineMisses (s : State) (cache : Nat) (rt : Rt) (pa n : Nat) : Bool :=
  s.misses cache rt (pa / 128) && !(if s.loadRt cache rt = .nc then s.sliceHas pa n else s.sliceFull (pa / 128))

/-- It waits there: its resource is taken (18 R394). -/
def State.lineHeld (s : State) (cache : Nat) (rt : Rt) (pa n : Nat) : Bool := s.taken pa && s.lineMisses cache rt pa n

/-- Bytes written in an owning L1 (R225). -/
def State.writeOwned (s : State) (cache line : Nat) (bs : List (Nat × Byte)) : State :=
  match s.l1Line cache line with
  | some l => s.putL1 cache line (some { l with dirty := bs.reverse ++ l.dirty.filter fun p => !(bs.any fun q => q.1 = p.1) })
  | none => s.flushBytes bs

/-- A cache's access of the lines of a range counts where it misses (R219). -/
def State.countMiss (s : State) (cache : Nat) (rt : Rt) (pa n : Nat) : State :=
  if (linesOf pa n).any fun l => s.misses cache rt l then s.countAccess pa else s

/-- A store into an owning L1 triggers the injections armed there (19 R413; log 23). -/
def State.injectL1 (s : State) (cache pa n : Nat) : State :=
  let hit (i : Inject) : Bool := decide (i.stage = 0 ∧ i.arr = 0 ∧ 5 * i.col + i.core = cache ∧ i.word < pa + n ∧ pa < i.word + 8)
  let now := s.ev.inject.filter hit
  let flip (l : L1Line) : L1Line := if l.cache ≠ cache then l
    else { l with dirty := l.dirty.map fun p => (p.1, now.foldl (fun b i => flipByte i.word p.1 i.flips b) p.2) }
  if now.isEmpty then s
  else { s with
    ms := { s.ms with l1 := s.ms.l1.map flip }
    ev := { s.ev with inject := s.ev.inject.map fun i => if hit i then { i with stage := 1 } else i } }

/-- An agent's read of a range meets an injected error (19 R413). -/
def State.injectRead (s : State) (c : CtxId) (pa n : Nat) : State := s.injectSeen (some (s.cacheOf c)) (errorGid c) pa n

/-- Lines a cache owns are taken back before it writes through them: their dirty words go home (R226). -/
def State.recallOwn (s : State) (cache pa n : Nat) : State :=
  (linesOf pa n).foldl (fun s l => if s.owns cache l then s.recall none l true else s) s

/-- What a request type other than `.own` leaves in its cache once its write is performed at the home: a read copy under a lease
granted now, or no copy (R225). -/
def State.writeCopies (s : State) (cls cache : Nat) (rt : Rt) (pa n : Nat) : State :=
  if rt = .wt then (linesOf pa n).foldl (fun s l => s.grantLease cls cache l) s
  else if rt = .own then s else (linesOf pa n).foldl (fun s l => s.putL1 cache l none) s

/-- A write in an owning L1, which of a weight-store line keeps a clean copy only (R215, R225; 10 R239). -/
def State.ownWrite (s : State) (cls cache pa : Nat) (bs : List Byte) : State :=
  (linesOf pa bs.length).foldl (fun s l =>
    let s1 := ((s.takeOwner cls cache l).writeOwned cache l ((spread pa bs).filter fun p => p.1 / 128 = l)).injectL1 cache pa bs.length
    if isWeight pa then s1.recall none l false else s1) (s.countMiss cache .own pa bs.length)

/-- A write performed where its request type puts it, its scope the module's: in an owning L1, or at the home. An element of a drift
region is written at its home (R225; 10 R239; 15 R337). -/
def State.writeAs (s : State) (cls cache : Nat) (rt : Rt) (pa : Nat) (bs : List Byte) : State :=
  if !cacheable pa then s.writeBytes pa bs
  else if rt = .own && (s.driftOf pa).isNone then s.ownWrite cls cache pa bs
  else ((s.countAccess pa).writeHome pa bs).writeCopies cls cache rt pa bs.length

/-- The lanes of a list of accesses. -/
def accLanes (as : List Acc) : Word64 := maskOf fun l => as.any fun a => a.lane = l

/-- A store or a reduction through the home that a scope narrower than stack lets an L1 or a slice accept; one to a drift region is
performed at its home (10 R239; 15 R337). -/
def State.accepts (s : State) (o : MOp) (a : Acc) : Bool :=
  (match o.kind with
   | .store => true
   | .recSt => true
   | .red _ => true
   | _ => false) && decide (o.rt ≠ .own ∧ o.sc.code ≤ 3) && cacheable a.pa && (s.driftOf a.pa).isNone

/-- A write or a reduction of lanes at one address accepted by the L1 or, at column scope, by the slice; it counts where it is applied (10
R239; 09 R219). -/
def State.accept (s : State) (o : MOp) (as : List Acc) (pa : Nat) (bs : List Byte) (red : List (Nat × Nat × Nat)) : State :=
  let cache := s.cacheOf o.ctx
  let s1 := s.recallOwn cache pa bs.length
  let f : Fwd := ⟨s.opId, cache, if o.sc.code ≤ 2 then .l1 else .slice, spread pa bs, o.id, o.ctx, accLanes as, red,
    if o.rt = .wt then some (s.fillClass o.ctx) else none⟩
  let s2 : State := { s1 with ms := { s1.ms with fwd := s1.ms.fwd ++ [f] }, opId := s1.opId + 1 }
  if o.rt = .wt then s2 else s2.writeCopies 0 cache o.rt pa bs.length

/-- One write of an operation's lanes at one address, where its request type and scope perform it (R225; 10 R239). -/
def State.performWrite (s : State) (o : MOp) (as : List Acc) (pa : Nat) (bs : List Byte) : State :=
  if as.any (s.accepts o) then s.accept o as pa bs [] else s.writeAs (s.fillClass o.ctx) (s.cacheOf o.ctx) o.rt pa bs

/-- The bytes an operation reads at an address (13 R297). -/
def State.performRead (s : State) (o : MOp) (pa n : Nat) : State × Nat :=
  let cache := s.cacheOf o.ctx
  let s0 := s.injectRead o.ctx pa n
  if !cacheable pa then (s0, leNat (s0.bytesAt pa n))
  else
    let v := s0.viewNat cache pa n
    ((linesOf pa n).foldl (fun s l => s.loadCopies o.ctx cache o.rt l) (s0.countMiss cache o.rt pa n), v)

/-! ### When an access may be performed -/

/-- A lane's access of a pending operation. -/
def MOp.accOf (o : MOp) (l : Nat) : List Acc := o.accs.filter fun a => decide (a.lane = l)

/-- The operation writes memory. -/
def OpKind.writes : OpKind → Bool
  | .store | .atom _ | .red _ | .recSt | .dadd | .claspInit | .claspArrive | .claspExpect | .claspTest | .wb => true
  | _ => false

/-- Two accesses share a location. -/
def Acc.overlaps (a b : Acc) : Bool := decide (a.pa < b.pa + b.n ∧ b.pa < a.pa + a.n)

/-- An earlier operation of the same thread that an access waits for: one at a common location (R299), or, for a release, any that it
covers (R302). -/
def State.earlierHolds (s : State) (o : MOp) (a : Acc) : Bool :=
  s.ms.ops.any fun q =>
    decide (q.id < o.id) && q.ofLane o.ctx a.lane &&
    ((o.ord.releases && ((s.ctx o.ctx).lane a.lane).covers q false) ||
     q.accs.any fun b => decide (a.lane = b.lane) && a.overlaps b)

/-- A release that no mark can stand for: at stack scope or wider, or at another module, the host or the CXL pool (R305, R306, R314). -/
def MOp.farRelease (o : MOp) (a : Acc) : Bool := o.ord.releases && decide (4 ≤ o.sc.code ∨ 2 ^ 50 ≤ a.pa)

/-- The drains a release waits for: its thread's additions before its last ddrain are still withheld (R302, R312). -/
def State.owedFor (s : State) (o : MOp) (a : Acc) : List Tracker :=
  if o.farRelease a then s.owed ((s.ctx o.ctx).lane a.lane).owes else []

/-- The marks a read or an acquire from a cache must see published first (R306). -/
def State.blockingMarks (s : State) (cache pa n : Nat) : List Mark :=
  s.ms.marks.filter fun k => !k.covers cache && decide (k.pa < pa + n ∧ pa < k.pa + k.n) && s.markOpen k

/-- Writes that a cache has accepted in the region of an address and that an agent behind another is not answered from: narrow-scope data,
which an outside read publishes (R227, R306). -/
def State.narrowData (s : State) (cache pa : Nat) : Bool :=
  let r := s.region pa
  s.ms.fwd.any fun f => f.cache ≠ hwCache && !f.seenBy cache && f.touches r.base r.size

/-- A read with a request type, or an acquire, waits for a publish: an acquire for the marks of its location, an `.own`, `.si` or
`.wt` read for those and for the narrow-scope data of its region (R306; 09 R225). -/
def State.publishHolds (s : State) (cache : Nat) (rt : Rt) (acq : Bool) (pa n : Nat) : Bool :=
  ((acq || decide (rt ≠ .nc)) && !(s.blockingMarks cache pa n).isEmpty) || (cacheable pa && decide (rt ≠ .nc) && s.narrowData cache pa)

/-- The access reads in a way that forces a publish that has not been made; a read before an acquire fence counts as an acquire
(R305, R306). -/
def State.markHolds (s : State) (o : MOp) (a : Acc) : Bool :=
  let acq := o.ord.acquires || ((s.ctx o.ctx).lane a.lane).fences.any fun f => f.ord.acquires && decide (o.id < f.upto)
  o.kind.reads && decide (o.kind ≠ .inv) && s.publishHolds (s.cacheOf o.ctx) (s.loadRt (s.cacheOf o.ctx) o.rt) acq a.pa a.n

/-- Accepted writes that must be applied first: those the thread's cache is answered from, for an access that acts at the home or in an
owning L1; and a reduction not applied, for a read (R297, R299, R300). -/
def State.fwdHolds (s : State) (o : MOp) (a : Acc) : Bool :=
  s.ms.fwd.any fun f => f.touches a.pa a.n && f.seenBy (s.cacheOf o.ctx) &&
    ((o.kind.writes && !s.accepts o a) || (o.kind.reads && !f.red.isEmpty))

/-- A lease holds the access: a write, atomic, reduction or clasp operation that acts at its home or takes ownership (R230; 14 R316). -/
def State.leaseHolds (s : State) (o : MOp) (a : Acc) : Bool :=
  o.kind.writes && decide (o.kind ≠ .wb ∧ o.kind ≠ .dadd) && !s.accepts o a && s.leaseLive a.pa &&
  !((match o.kind with
    | .store => true
    | .recSt => true
    | .atom _ => true
    | .red _ => true
    | _ => false) && decide (o.rt = .own) && s.owns (s.cacheOf o.ctx) (a.pa / 128) && (s.driftOf a.pa).isNone)

/-- A write to the region of an address is held there by a lease: an operation's, an accepted write, or a delta write (R230; 15
R333). -/
def State.heldWrite (s : State) (pa : Nat) : Bool :=
  let same (q : Nat) : Bool := decide ((s.region pa).base = (s.region q).base)
  (s.ms.ops.any fun q => decide (q.kind ≠ .dadd) && q.accs.any fun b => b.held && same b.pa) ||
  (s.ms.fwd.any fun f => decide (f.stage = .held) && f.bytes.any fun p => same p.1) ||
  (s.ms.ewaits.any fun w => same w.2) ||
  s.dr.msgs.any fun m => match m.2 with
    | .deltaWrite _ _ q _ _ _ held => held && same q
    | _ => false

/-- A cache's read that needs a lease copy of a region with a held write is queued behind the write (R230). -/
def State.queued (s : State) (cache : Nat) (rt : Rt) (pa : Nat) : Bool :=
  decide (s.loadRt cache rt = .wt ∨ s.loadRt cache rt = .si) && cacheable pa && (s.driftOf pa).isNone &&
  s.misses cache rt (pa / 128) && s.heldWrite pa

/-- An operation's read is queued behind a held write (R230). -/
def State.leaseQueue (s : State) (o : MOp) (a : Acc) : Bool :=
  o.kind.reads && !o.kind.writes && s.queued (s.cacheOf o.ctx) o.rt a.pa

/-- Accepted writes that a release, or a write after a release fence, waits for: those not performed at its scope; at another module,
the host or the CXL pool, where no mark can stand, those not performed at module scope (R302, R305, R306, R314). -/
def State.releaseHolds (s : State) (o : MOp) (a : Acc) : Bool :=
  let out := decide (2 ^ 50 ≤ a.pa)
  let m : Word64 := 1#64 <<< a.lane
  (o.ord.releases && s.fwdOpen o.ctx m o.id (if out then .module else o.sc)) ||
  (out && o.kind.writes && ((s.ctx o.ctx).lane a.lane).fences.any fun f =>
    f.ord.releases && decide (f.upto ≤ o.id) && s.fwdOpen o.ctx m f.upto .module)

/-- Something that the memory model puts before the access is outstanding. -/
def State.accHeld (s : State) (o : MOp) (a : Acc) : Bool :=
  s.earlierHolds o a || !(s.owedFor o a).isEmpty || s.releaseHolds o a || s.markHolds o a || s.fwdHolds o a || s.leaseQueue o a

/-! ### Effects of completing -/

/-- An acquire at column scope or wider discards the cache's lease copies (R225, R303). -/
def State.acquire (s : State) (c : CtxId) (sc : Scope) : State :=
  if 3 ≤ sc.code then
    let k := s.cacheOf c
    { s with ms := { s.ms with l1 := s.ms.l1.filter fun l => !(decide (l.cache = k) && (match l.kind with
      | .lease _ _ => true
      | _ => false)) } }
  else s

/-- A mark left on a location while what it stands for is on its way (R306). -/
def State.addMark (s : State) (k : Mark) : State :=
  if s.markOpen k then { s with ms := { s.ms with marks := s.ms.marks ++ [k] } } else s

/-- A release at a scope narrower than stack marks its location while writes of its cache are on their way; the deltas it covers, which an
L1 withholds at core scope and a slice at column scope, stand under a mark of their own (R306, R312). -/
def State.markRelease (s : State) (cache pa n upto : Nat) (sc : Scope) (drift : Bool) : State :=
  if 4 ≤ sc.code then s
  else
    let s1 := s.addMark ⟨pa, n, cache, upto, sc, false⟩
    if drift then s1.addMark ⟨pa, n, cache, 0, if cache % 5 = 4 then sc else .core, true⟩ else s1

/-- Scoreboard slots of the lanes freed (02 R65). -/
def State.freeSlotBit (s : State) (c : CtxId) (m : Word64) (slot : Option Nat) : State :=
  match slot with
  | none => s
  | some i => s.modCtx c fun x => x.modLanes (lanesOf m) fun _ y => { y with sb := y.sb &&& ~~~(1#8 <<< i) }

/-- The slots a word sets marked busy on the lanes (02 R65). -/
def State.busySlot (s : State) (c : CtxId) (m : Word64) (k : Ctl) : State :=
  if k.se then s.modCtx c fun x => x.modLanes (lanesOf m) fun _ y => { y with sb := y.sb ||| (1#8 <<< k.sa) } else s

end Machine

/-- The slot a word sets. -/
def Ctl.slot? (k : Ctl) : Option Nat := if k.se then some k.sa else none

namespace Machine

/-- The gang is still there to take a write-back. -/
def State.alive (s : State) (c : CtxId) : Bool := (s.ctx c).live

/-- Register words written back, and marked full (02 R67, R68). -/
def State.land (s : State) (c : CtxId) (rs : List Res) : State :=
  if s.alive c then s.modCtx c fun x => rs.foldl Ctx.applyRes x else s

end Machine

end Sys2Proof
end

