-- ==== Sys2Proof/Machine/Blocks.lean ====
section
/-! DEFINITION. BX4 and BX8 blocks (01 R33-R39), their instructions' results on one path (08 R199-R201), and the trees of
lane reductions and scans (01 R41; 08 R204). -/

namespace Sys2Proof

/-- Twice the magnitude of an e2m1 code (R33). -/
def e2m1Half (c : Nat) : Nat :=
  match c % 8 with
  | 0 => 0 | 1 => 1 | 2 => 2 | 3 => 3 | 4 => 4 | 5 => 6 | 6 => 8 | _ => 12

/-- The value of an e2m1 code other than 0b1000 (R33). -/
def e2m1Dy (c : Nat) : Dy := ⟨if 8 ≤ c then -(e2m1Half c : Int) else e2m1Half c, -1⟩

/-- A decoded value times a power of two. -/
def FVal.scale (v : FVal) (k : Int) : FVal :=
  match v with
  | .fin n m e => .fin n m (e + k)
  | v => v

/-- The value of a BX4 element with code c, scale byte s and spare byte sp (R36). -/
def bx4Value (c s sp : Nat) : FVal :=
  if s = 255 then .nan false
  else if c = 8 then
    match Ty.e4m3.decodeF sp with
    | .nan _ => .nan false
    | v => v.scale ((s : Int) - 127)
  else .fin (decide (8 ≤ c)) (e2m1Half c) ((s : Int) - 128)

/-- The value of a BX8 element with pattern c and scale byte s (R38). -/
def bx8Value (c s : Nat) : FVal :=
  if s = 255 then .nan false
  else
    match Ty.e4m3.decodeF c with
    | .nan _ => .nan false
    | v => v.scale ((s : Int) - 127)

/-- A quantised block: scale byte, spare byte, one code for each lane, flags. -/
structure Block where
  scale : Nat
  spare : Nat
  codes : List Nat
  fl : Flags
  deriving DecidableEq, Repr

/-- The largest magnitude of the values (R37 step 2). -/
def maxMag (xs : List FVal) : Dy := xs.foldl (fun m v => if m.lt v.dy.abs then v.dy.abs else m) ⟨0, 0⟩

/-- Some value is a NaN or an infinity (R37 step 1). -/
def anySpecial (xs : List FVal) : Bool :=
  xs.any fun v => match v with
    | .fin .. => false
    | _ => true

/-- The nearest of the codes to y, then of the spare: a tie of two codes goes to the even one, a tie of a code and the
spare to the code (R37 step 5). -/
def nearestCode (y : Dy) (spare : Option Dy) : Nat :=
  let dist (z : Dy) : Dy := (y.add z.neg).abs
  let best := [1, 2, 3, 4, 5, 6, 7, 9, 10, 11, 12, 13, 14, 15].foldl (fun b c =>
    if (dist (e2m1Dy c)).lt (dist (e2m1Dy b)) then c
    else if (dist (e2m1Dy b)).lt (dist (e2m1Dy c)) then b
    else if c % 2 = 0 then c else b) 0
  match spare with
  | some z => if (dist z).lt (dist (e2m1Dy best)) then 8 else best
  | none => best

/-- The 64 lanes' values as a path's instruction reads them: a lane that is no participant counts as +0. -/
def blockInputs (ftz : Bool) (xs : List (Option Nat)) : List FVal × Flags :=
  (xs.map fun x => match x with
    | some v => (Ty.f32.readF ftz v).1
    | none => .fin false 0 0,
   xs.foldl (fun fl x => match x with
    | some v => fl ||| (Ty.f32.readF ftz v).2
    | none => fl) 0)

/-- qz4 over the lanes 0-63 (R37). -/
def qz4 (ftz : Bool) (xs : List (Option Nat)) : Block :=
  let inp := blockInputs ftz xs
  let vs := inp.1
  if anySpecial vs then ⟨255, 0, vs.map fun _ => 0, inp.2 ||| Flags.nv⟩
  else
    let mm := maxMag vs
    if mm.m = 0 then ⟨0, 0, vs.map fun _ => 0, inp.2⟩
    else
      let e0 : Int := mm.e + mm.m.natAbs.log2 - 2
      let e : Int := max (-127) (min 127 e0)
      let neg := match vs.find? fun v => !(v.dy.abs.lt mm) with
        | some v => v.neg
        | none => false
      let sp := (Ty.e4m3.roundF .rne false ⟨neg, mm.m.natAbs, mm.e - e, false⟩).bits
      let spv := (Ty.e4m3.decodeF sp).dy
      let codes := vs.map fun v => nearestCode ⟨v.dy.m, v.dy.e - e⟩ (some spv)
      let differs := (vs.zip codes).any fun (v, c) =>
        let w := (bx4Value c (e + 127).toNat sp).dy
        w.lt v.dy || v.dy.lt w
      let live := (codes.zip xs).map fun (c, x) => if x.isSome then c else 0
      ⟨(e + 127).toNat, sp, live,
        inp.2 ||| (if differs then Flags.ix else 0) ||| (if e0 < -127 then Flags.uf else 0)⟩

/-- qz8 over the lanes 0-63 (R39). -/
def qz8 (ftz : Bool) (xs : List (Option Nat)) : Block :=
  let inp := blockInputs ftz xs
  let vs := inp.1
  if anySpecial vs then ⟨255, 0, vs.map fun _ => 0, inp.2 ||| Flags.nv⟩
  else
    let mm := maxMag vs
    if mm.m = 0 then ⟨0, 0, vs.map fun _ => 0, inp.2⟩
    else
      let b : Int := mm.e + mm.m.natAbs.log2 - 8
      let e0 : Int := if (⟨448, b⟩ : Dy).lt mm then b + 1 else b
      let e : Int := max (-127) (min 127 e0)
      let codes := vs.map fun v =>
        (Ty.e4m3.roundF .rne false ⟨v.neg, v.dy.m.natAbs, v.dy.e - e, false⟩).bits
      let differs := (vs.zip codes).any fun (v, c) =>
        let w := (bx8Value c (e + 127).toNat).dy
        w.lt v.dy || v.dy.lt w
      let live := (codes.zip xs).map fun (c, x) => if x.isSome then c else 0
      ⟨(e + 127).toNat, 0, live,
        inp.2 ||| (if differs then Flags.ix else 0) ||| (if e0 < -127 then Flags.uf else 0)⟩

/-- Word j of a BX4 data plane: eight codes (R35). -/
def Block.word4 (b : Block) (j : Nat) : Nat :=
  (List.range 8).foldl (fun w i => w + b.codes.getD (8 * j + i) 0 * 16 ^ i) 0

/-- Word j of a BX8 data plane: four bytes (R38). -/
def Block.word8 (b : Block) (j : Nat) : Nat :=
  (List.range 4).foldl (fun w i => w + b.codes.getD (4 * j + i) 0 * 256 ^ i) 0

/-- A decoded block value rounded to a register's format; a NaN raises no flag (R200). -/
def Ty.blockF (dt : Ty) (rm : Rnd) (ftz sat : Bool) (v : FVal) : FRes :=
  match v with
  | .nan _ => (dt.nanRes 0).sat dt sat
  | v => dt.roundV rm ftz sat 0 v

/-- dqz4 on one lane (R200). -/
def Ty.dqz4 (dt : Ty) (rm : Rnd) (ftz sat : Bool) (a b c : Nat) : FRes :=
  let i := c % 8
  dt.blockF rm ftz sat (bx4Value (a / 16 ^ i % 16) (b % 256) (b / 256 % 256))

/-- dqz8 on one lane (R200). -/
def Ty.dqz8 (dt : Ty) (rm : Rnd) (ftz sat : Bool) (a b c : Nat) : FRes :=
  let i := c % 4
  dt.blockF rm ftz sat (bx8Value (a / 256 ^ i % 256) (b % 256))

/-- The exact sum of two f32 values: a value, or a NaN with its flags (R187, R201). -/
def exactSum (rm : Rnd) (ftz : Bool) (a b : Nat) : FVal × Flags :=
  let x := Ty.f32.readF ftz a
  let y := Ty.f32.readF ftz b
  let fl := x.2 ||| y.2
  match x.1, y.1 with
  | .nan _, _ => (.nan false, fl)
  | _, .nan _ => (.nan false, fl)
  | .inf u, .inf v => if u = v then (.inf u, fl) else (.nan false, fl ||| Flags.nv)
  | .inf u, _ => (.inf u, fl)
  | _, .inf v => (.inf v, fl)
  | u, v =>
    let z := (u.dy.add v.dy).exact (zeroSign rm u.neg v.neg)
    (.fin z.neg z.m z.e, fl)

/-- qres on one lane: the rounded value and the residual (R201). -/
def Ty.qres (dt : Ty) (rm : Rnd) (ftz sat : Bool) (a b : Nat) : FRes × FRes :=
  let y := exactSum rm ftz a b
  let q := dt.roundV rm ftz sat y.2 y.1
  let r : FRes := match y.1 with
    | .fin n m e => Ty.f32.addV .rne false false 0 (.fin n m e) (dt.decodeF q.bits).negate
    | _ => ⟨Ty.f32.nanBits, 0⟩
  (q, r)

/-- One step of a reduction or a scan on integers, exact (R204). -/
def RedOp.int (o : RedOp) (t : Ty) (a b : Int) : Int :=
  let w := t.bits
  match o with
  | .add => a + b
  | .min => if a ≤ b then a else b
  | .max => if a ≤ b then b else a
  | .band => t.value (wrap w a &&& wrap w b)
  | .bor => t.value (wrap w a ||| wrap w b)
  | .bxor => t.value (wrap w a ^^^ wrap w b)

/-- One step of a reduction or a scan on floating values (R204). -/
def RedOp.flt (o : RedOp) (t : Ty) (rm : Rnd) (ftz sat : Bool) (a b : Nat) : FRes :=
  match o with
  | .min => (t.fminmax false ftz a b).sat t sat
  | .max => (t.fminmax true ftz a b).sat t sat
  | _ => t.fadd rm ftz sat a b

/-- Combine of R41: `none` is the value of a lane that is no participant. -/
def combine {α : Type} (f : α → α → α) : Option α → Option α → Option α
  | none, b => b
  | some a, none => some a
  | some a, some b => some (f a b)

/-- The tree of redl (R41). -/
def redTree {α : Type} (f : α → α → α) (v : List (Option α)) : Option α :=
  ((List.range 6).foldl (fun (v : List (Option α)) d =>
    let s := 2 ^ d
    (List.range 64).map fun l =>
      if l % (2 * s) = 0 then combine f (v.getD l none) (v.getD (l + s) none) else v.getD l none) v).getD 0 none

/-- The tree of scanl (R41). -/
def scanTree {α : Type} (f : α → α → α) (v : List (Option α)) : List (Option α) :=
  (List.range 6).foldl (fun (v : List (Option α)) d =>
    let s := 2 ^ d
    (List.range 64).map fun l =>
      if s ≤ l then combine f (v.getD (l - s) none) (v.getD l none) else v.getD l none) v

end Sys2Proof
end

