-- ==== Sys2Proof/Machine/Drift.lean ====
section
/-! DEFINITION. Drift regions: the table, the caches' trackers, the region homes' shares, drains, tolerance queries and
their messages (15 R327-R340). -/

namespace Sys2Proof

/-- A finite f32 magnitude in units of 2^-152 (log 20). -/
def unitsOf (x : Word) : Nat :=
  match Ty.f32.decodeF x.toNat with
  | .fin _ m e => m * 2 ^ (e + 152).toNat
  | _ => 0

/-- An f32 value is finite. -/
def f32Finite (x : Word) : Bool :=
  match Ty.f32.decodeF x.toNat with
  | .fin _ _ _ => true
  | _ => false

/-- |x| as f32 bits. -/
def f32Abs (x : Word) : Word := x &&& 0x7FFFFFFF

/-- An amount in units of 2^-152 as f32 (R346). -/
def ofUnits (u : Nat) : Word := BitVec.ofNat 32 (Ty.f32.roundF .rne false ⟨false, u, -152, false⟩).bits

/-- Round(T + |x|, f32, rup) (R330). -/
def trackAdd (t x : Word) : Word := BitVec.ofNat 32 (Ty.f32.fadd .rup false false t.toNat (f32Abs x).toNat).bits

/-- RoundRNE(a + b, f32) (R330, R335). -/
def f32Add (a b : Word) : Word := BitVec.ofNat 32 (Ty.f32.addRNE a.toNat b.toNat)

namespace Machine

/-- The element type of a region (R327). -/
def DriftRegion.ty (r : DriftRegion) : Ty := if r.fmt = 0 then .f32 else .bf16

/-- A cache's tracker for a region. -/
def State.tracker? (s : State) (cache region : Nat) : Option Tracker :=
  s.dr.trackers.find? fun t => decide (t.cache = cache ∧ t.region = region)

/-- A tracker as it is before any addition; its drains are counted from a number that no earlier tracker's count reached. -/
def State.freshTracker (s : State) (cache region : Nat) : Tracker := ⟨cache, region, 0, 0, 0, [], false, false, false, false, s.opId⟩

/-- Two trackers of one region in one cache. -/
def Tracker.same (t q : Tracker) : Bool := decide (q.cache = t.cache ∧ q.region = t.region)

/-- A tracker replaced in its place, or begun as the most recently used. Trackers stand in the order of their last use (R330). -/
def State.putTracker (s : State) (t : Tracker) : State :=
  let ts := s.dr.trackers
  { s with dr := { s.dr with trackers := if ts.any t.same then ts.map fun q => if t.same q then t else q else ts ++ [t] } }

/-- A tracker used by an addition (R330). -/
def State.useTracker (s : State) (cache region : Nat) : State :=
  let mine (t : Tracker) : Bool := decide (t.cache = cache ∧ t.region = region)
  { s with dr := { s.dr with trackers := (s.dr.trackers.filter fun t => !mine t) ++ s.dr.trackers.filter mine } }

/-- A tracker dropped (R330). -/
def State.dropTracker (s : State) (t : Tracker) : State :=
  { s with dr := { s.dr with trackers := s.dr.trackers.filter fun q => !decide (q.cache = t.cache ∧ q.region = t.region) } }

/-- What a region's home keeps; with nothing granted all of the limit is unallocated (R331). -/
def State.driftHome (s : State) (region : Nat) : DriftHome :=
  (s.dr.homes.find? fun h => h.region = region).getD ⟨region, unitsOf (s.driftEntry region).lim, [], [], [], [], [], false⟩

def State.putHome (s : State) (h : DriftHome) : State :=
  { s with dr := { s.dr with homes := (s.dr.homes.filter fun q => !decide (q.region = h.region)) ++ [h] } }

/-- A message sent (R338). -/
def State.send (s : State) (m : DMsg) : State :=
  { s with opId := s.opId + 1, dr := { s.dr with msgs := s.dr.msgs ++ [(s.opId, m)] } }

/-- A message received. -/
def State.took (s : State) (id : Nat) : State :=
  { s with dr := { s.dr with msgs := s.dr.msgs.filter fun p => p.1 ≠ id } }

/-- A message in flight. -/
def State.message (s : State) (id : Nat) : Option DMsg := (s.dr.msgs.find? fun p => p.1 = id).map Prod.snd

/-! ### Drains -/

/-- An injection aims at an entry of a tracker and is at a stage: armed, or written in that cache (19 R412, R413; log 23). -/
def Inject.atEntry (i : Inject) (t : Tracker) (k stage : Nat) : Bool :=
  decide (i.arr = 8 ∧ i.col = t.cache / 5 ∧ i.loc = 4096 * t.region + k ∧ i.stage = stage) &&
    (decide (stage = 0) || decide (i.core = t.cache % 5))

/-- Entries of a tracker written, or read, which triggers the injections armed there or meets what they left (19 R413; log 23). -/
def State.injectEntries (s : State) (t : Tracker) (ks : List Nat) (write : Bool) : State :=
  let hit (i : Inject) : Bool := ks.any fun k => i.atEntry t k (bit !write)
  let next (i : Inject) : Inject := if hit i then { i with stage := i.stage + 1, core := t.cache % 5, gid := noGang } else i
  if s.ev.inject.any hit then { s with ev := { s.ev with inject := s.ev.inject.map next } } else s

/-- The lines of a tracker's entries that an injected uncorrectable error stands in: their deltas are discarded when they are read
(R340). -/
def State.badLines (s : State) (t : Tracker) : List Nat :=
  (List.range t.pend.length).filterMap fun k =>
    if s.ev.inject.any fun i => i.atEntry t k 1 && decide (i.mode = 2) then (t.pend[k]?).map fun p => p.1 / 128 else none

/-- A drain of a cache's region starts: every pending entry goes home as a delta write (R330), but those of a line with an uncorrectable
error (R340). -/
def State.startDrain (s0 : State) (t : Tracker) : State :=
  let s := s0.injectEntries t (List.range t.pend.length) false
  let live := t.pend.filter fun p => decide (p.2.toNat % 2 ^ 31 ≠ 0) && !(s0.badLines t).contains (p.1 / 128)
  let s1 := live.foldl (fun s p => s.send (.deltaWrite t.cache t.region p.1 p.2 (s.driftEntry t.region).fmt none false)) s
  s1.putTracker { t with pend := [], draining := true }

/-- A drain is complete once every delta write that the cache has sent to the region has been acknowledged: T is 0 again, a forced drain gives the
share back, and a cache that stops tracking drops its tracker and returns its share, once (R330, R334, R339). -/
def State.endDrain (s : State) (t : Tracker) : State :=
  if t.draining && !s.deltaOut t.cache (some t.region) then
    let t1 := { t with total := 0, draining := false, drains := t.drains + 1, forced := false, share := if t.forced then 0 else t.share }
    let s0 : State := { s with opId := s.opId + 1 }
    let s1 := if t.ends then s0.dropTracker t else s0.putTracker t1
    if t.forced then s1.send (.drainAck t.cache t.region t.grant)
    else if t.ends && decide (t.share ≠ 0) then s1.send (.shareReturn t.cache t.region t.grant)
    else s1
  else s.putTracker t

/-- A drain begun, and ended at once where nothing was pending or outstanding. -/
def State.beginDrain (s : State) (t : Tracker) : State :=
  let s1 := s.startDrain t
  match s1.tracker? t.cache t.region with
  | some t1 => s1.endDrain t1
  | none => s1

/-- A self-drain of a region, where one is not in flight (R330, R345). -/
def State.selfDrain (s : State) (cache region : Nat) : State :=
  match s.tracker? cache region with
  | some t => if t.draining then s else s.beginDrain t
  | none => s

/-- How many regions a cache tracks: 8 for an L1, 16 for a slice (R330). -/
def trackCap (cache : Nat) : Nat := if cache % 5 = 4 then 16 else 8

/-- Room to track one region more; where there is none the least recently used region's drain starts, and its share is
returned at its end (R330). -/
def State.makeRoom (s : State) (cache : Nat) : State :=
  let mine := s.dr.trackers.filter fun t => t.cache = cache
  if mine.any fun t => t.ends then s
  else
    match mine with
    | t :: _ => if t.draining then s.putTracker { t with ends := true } else s.beginDrain { t with ends := true }
    | [] => s

/-- A drift line leaves a cache: its pending entries go home as delta writes; the trackers are unchanged (R330). -/
def State.evictDrift (s : State) (cache line : Nat) : State :=
  (s.dr.trackers.filter fun t => t.cache = cache).foldl (fun s t =>
    let out := t.pend.filter fun p => decide (p.1 / 128 = line)
    let live := out.filter fun p => p.2.toNat % 2 ^ 31 ≠ 0
    let s1 := live.foldl (fun s p =>
      s.send (.deltaWrite cache t.region p.1 p.2 (s.driftEntry t.region).fmt none false)) s
    if out.isEmpty then s else s1.putTracker { t with pend := t.pend.filter fun p => decide (p.1 / 128 ≠ line) }) s

/-- An addition sent home by a cache, behind what the cache withholds of its element (01 R42; 15 R330, R332). -/
def State.sendHome (s : State) (cache region pa : Nat) (x : Word) (op lane : Nat) : State :=
  let s1 := s.evictDrift cache (pa / 128)
  s1.send (.deltaWrite cache region pa x (s1.driftEntry region).fmt (some (op, lane)) false)

/-- The trackers of a cache whose regions have deltas on their way or withheld. -/
def State.withheld (s : State) (cache : Nat) : List Tracker :=
  s.dr.trackers.filter fun t => decide (t.cache = cache) && (!t.pend.isEmpty || t.draining || s.deltaOut cache (some t.region))

/-- The drains a release waits for are begun (13 R302, R312). -/
def State.startOwed (s : State) (ts : List Tracker) : State := ts.foldl (fun s t => s.selfDrain t.cache t.region) s

/-- What a cache does with an addition (R332): held, recorded, or sent home. -/
inductive Addition
  | held (s : State)
  | recorded (s : State)
  | sent (s : State)

/-- An entry of the pending list with an addition recorded (R330). -/
def addPend : List (Nat × Word) → Nat → Word → List (Nat × Word)
  | [], pa, x => [(pa, f32Add 0 x)]
  | (a, v) :: r, pa, x => if a = pa then (a, f32Add v x) :: r else (a, v) :: addPend r pa x

/-- An addition of x to an element by a cache (R332, R339). -/
def State.addDelta (s0 : State) (cache region pa : Nat) (x : Word) (op lane : Nat) : Addition :=
  let s := s0.useTracker cache region
  let home (s : State) : State := s.sendHome cache region pa x op lane
  match s.tracker? cache region with
  | none =>
    if (s.dr.trackers.filter fun t => t.cache = cache).length < trackCap cache then
      .sent (home ((s.putTracker { s.freshTracker cache region with requested := true }).send (.shareRequest cache region)))
    else .held (s.makeRoom cache)
  | some t =>
    if t.draining then .held s
    else if t.share = 0 then
      .sent (home (if t.requested then s else (s.send (.shareRequest cache region)).putTracker { t with requested := true }))
    else if !f32Finite x ∨ t.share < unitsOf x then .sent (home s)
    else if !f32Finite (trackAdd t.total x) ∨ t.share < unitsOf (trackAdd t.total x) then .held (s.beginDrain t)
    else
      let u := { t with total := trackAdd t.total x, pend := addPend t.pend pa x }
      let k := u.pend.findIdx fun p => p.1 = pa
      let s1 := if k < t.pend.length then s.injectEntries t [k] false else s
      .recorded ((s1.putTracker u).injectEntries u [k] true)

/-! ### Region homes -/

/-- The name of a grant. -/
def Grant.key (g : Grant) : Nat × Nat := (g.cache, g.num)

/-- Holders by share descending, ties by lowest column, then core (R331). -/
def holders (h : DriftHome) : List Grant :=
  (h.grants.filter fun g => decide (0 < g.share)).foldl
    (fun r g => insertBy (fun a b => decide (b.share < a.share) || (decide (a.share = b.share) && decide (a.cache < b.cache))) g r) []

/-- A forced drain sent to a holder, where none is under way (R334, R335). -/
def State.forceDrain (s : State) (region reason : Nat) (g : Grant) : State :=
  let h := s.driftHome region
  if h.forced.contains g.key then s
  else (s.putHome { h with forced := h.forced ++ [g.key] }).send (.forcedDrain g.cache region g.num reason)

/-- A share granted: min(unallocated, limit / 8) (R331). -/
def State.grantShare (s : State) (region cache : Nat) : State :=
  let h := s.driftHome region
  let a := min h.unalloc (unitsOf (s.driftEntry region).lim / 8)
  let gs := if a = 0 then h.grants else h.grants ++ [⟨cache, a, s.opId⟩]
  (s.putHome { h with unalloc := h.unalloc - a, grants := gs }).send (.shareGrant cache region a s.opId)

/-- A share request served, where it can be: a grant, after a reclaim when nothing is unallocated; it waits for the requester's own
drain acknowledgement, for a reclaim, and for tolerance queries from their service to their done (R331, R335, R336, R339). -/
def State.serveReq (s : State) (region cache : Nat) (reclaimed : Option (Nat × Nat)) : State × Bool :=
  let h := s.driftHome region
  if h.retiring || !(s.driftEntry region).valid then (s.send (.shareGrant cache region 0 s.opId), true)
  else if !h.queue.isEmpty || !h.clears.isEmpty || h.grants.any fun g => g.cache = cache then (s, false)
  else
    match reclaimed with
    | some k => if h.forced.contains k then (s, false) else (s.grantShare region cache, true)
    | none =>
      if h.unalloc ≠ 0 then (s.grantShare region cache, true)
      else
        match holders h with
        | [] => (s.grantShare region cache, true)
        | g :: _ =>
          let s1 := s.forceDrain region 0 g
          let h1 := s1.driftHome region
          (s1.putHome { h1 with reqs := h1.reqs.map fun r => if r.1 = cache then (cache, some g.key) else r }, false)

/-- The waiting requests of a region home served in order, as far as they can be. -/
def State.serveReqs (s : State) (region : Nat) : State :=
  (s.driftHome region).reqs.foldl (fun s r =>
    match s.serveReq region r.1 r.2 with
    | (s1, true) =>
      let h := s1.driftHome region
      s1.putHome { h with reqs := h.reqs.filter fun q => q.1 ≠ r.1 }
    | (s1, false) => s1) s

/-- A grant given back to the home; one of a region that has been retired since is nobody's (R329, R331, R334). -/
def State.takeBack (s : State) (region cache num : Nat) : State :=
  let h := s.driftHome region
  let back := ((h.grants.filter fun g => g.key = (cache, num)).map fun g => g.share).sum
  if (s.driftEntry region).valid then
    s.putHome { h with
      unalloc := h.unalloc + back
      grants := h.grants.filter fun g => g.key ≠ (cache, num)
      forced := h.forced.filter fun k => k ≠ (cache, num) }
  else s

/-! ### Tolerance queries -/

def State.query? (s : State) (id : Nat) : Option DQuery := s.dr.queries.find? fun q => q.id = id

def State.putQuery (s : State) (q : DQuery) : State :=
  { s with dr := { s.dr with queries := s.dr.queries.map fun p => if p.id = q.id then q else p } }

/-- Queries of an operation. -/
def State.queriesOf (s : State) (op : Nat) : List DQuery := s.dr.queries.filter fun q => q.op = some op

/-- The sum of the shares a query must bring to its tolerance (R335 step 4): the holders other than the loader, by share
descending, chosen until what is left is at most the tolerance. -/
def chosen : List Grant → Nat → Option Nat → List Grant
  | [], _, _ => []
  | g :: r, sum, eps =>
    match eps with
    | none => []
    | some e => if sum ≤ e then [] else g :: chosen r (sum - g.share) eps

/-- A tolerance: the magnitude of an f32, 0 for NaN, none for infinity (R336). -/
def toleranceOf (x : Word) : Option Nat :=
  match Ty.f32.decodeF x.toNat with
  | .nan _ => some 0
  | .inf _ => none
  | .fin _ _ _ => some (unitsOf x)

/-- The bytes of an element. -/
def State.elemBytes (s : State) (region : Nat) : Nat := (s.driftEntry region).ty.bits / 8

/-- A cache's deltas of a region that are recorded and not yet applied at their homes: those of drains on their way, and its pending
entries, by element (13 R313; log 32). -/
def State.ownDeltas (s : State) (cache : Option Nat) (region : Nat) : List (Nat × Word) :=
  match cache with
  | none => []
  | some k =>
    (s.dr.msgs.filterMap fun m => match m.2 with
      | .deltaWrite c i pa x _ none _ => if c = k ∧ i = region then some (pa, x) else none
      | _ => none) ++
    (match s.tracker? k region with
     | some t => t.pend
     | none => [])

/-- The deltas of one element. -/
def deltasOf (own : List (Nat × Word)) (pa : Nat) : List Word := (own.filter fun p => p.1 = pa).map Prod.snd

/-- The element home and the region home of a query are one column (R335). -/
def State.oneHome (s : State) (q : DQuery) : Bool := decide (homeOf q.pa = homeOf (s.driftEntry q.region).base)

/-- A query that its element's later accesses wait behind: it is not answered, or its access is not performed (R335 step 2). -/
def DQuery.busy (q : DQuery) : Bool := decide (q.stage < 4) || q.hold

/-- The queries whose turn has come at their elements go to their region homes, by message where that is another column (R335 steps 2
and 3). -/
def State.advance (s : State) : State :=
  s.dr.queries.foldl (fun s q =>
    let before := s.dr.queries.takeWhile fun p => p.id ≠ q.id
    if q.stage ≠ 0 ∨ before.any fun p => p.busy && decide (p.pa = q.pa) then s
    else if s.oneHome q then
      let h := s.driftHome q.region
      (s.putQuery { q with stage := 2 }).putHome { h with queue := h.queue ++ [q.id] }
    else (s.putQuery { q with stage := 1 }).send (.tolQuery q.id)) s

/-- The region home is told that an access is performed (R335 step 5, R337). -/
def State.tellDone (s : State) (q : DQuery) : State :=
  if s.oneHome q then
    let h := s.driftHome q.region
    s.putHome { h with clears := h.clears.filter fun k => k ≠ q.id }
  else s.send (.tolDone q.region q.id)

/-- The element read at its home: the load's serialisation point. A write is told to the region home once it is performed; a query whose
operation has gone ends here (R335 step 5, R337). -/
def State.answer (s : State) (q : DQuery) : State :=
  let s1 := s.readHome q.pa (s.elemBytes q.region)
  let a := { q with
    stage := 4
    value := s1.homeNat q.pa (s.elemBytes q.region)
    own := deltasOf (s1.ownDeltas q.loader q.region) q.pa }
  let s2 := if q.op.isNone then { s1 with dr := { s1.dr with queries := s1.dr.queries.filter fun p => p.id ≠ q.id } } else s1.putQuery a
  (if q.hold && q.op.isSome then s2 else s2.tellDone q).advance

/-- The first query in a region home's order is served: its drains are sent (R335 step 4). -/
def State.serveHead (s : State) (region : Nat) : State :=
  let h := s.driftHome region
  match h.queue.head?.bind s.query? with
  | some q =>
    if q.waits.isSome then s
    else
      let hs := (holders h).filter fun g => some g.cache ≠ q.loader
      let pick := chosen hs ((hs.map fun g => g.share).sum) (toleranceOf q.eps)
      (pick.foldl (fun s g => s.forceDrain region (if q.hold then 2 else 1) g) s).putQuery { q with waits := some (pick.map Grant.key) }
  | none => s

/-- The first query cleared once its drains are acknowledged; grants of the region stop until its done (R335 steps 4 and 5). -/
def State.clearHead (s : State) (region : Nat) : Option State :=
  let h := s.driftHome region
  (h.queue.head?.bind s.query?).bind fun q =>
    if q.waits.isNone || (q.waits.getD []).any h.forced.contains then none
    else
      let s1 := s.putHome { h with queue := h.queue.tail, clears := h.clears ++ [q.id] }
      some (if s.oneHome q then s1.answer q else (s1.putQuery { q with stage := 3 }).send (.tolClear q.id))

/-- The queries of a region home served in arrival order, as far as they can be. -/
def State.serveQueue (region : Nat) : Nat → State → State
  | 0, s => s
  | n + 1, s =>
    let s1 := s.serveHead region
    match s1.clearHead region with
    | some s2 => State.serveQueue region n s2
    | none => s1

/-- Retirement ends when every holder has acknowledged: the entry becomes invalid, and a column core that waits goes on
(R329). -/
def State.endRetire (s : State) (region : Nat) : State :=
  let h := s.driftHome region
  if h.retiring && h.forced.isEmpty && h.grants.isEmpty then
    let dr := { s.dr with
      table := SMap.set DriftRegion.off s.dr.table region { s.driftEntry region with valid := false }
      homes := s.dr.homes.filter fun q => q.region ≠ region
      trackers := s.dr.trackers.filter fun t => decide (t.region ≠ region) || !t.pend.isEmpty || s.deltaOut t.cache (some region) }
    (List.range 64).foldl (fun s n =>
      if ((s.ctx (.cc n)).lane 0).wait = .retire region then s.passWord (.cc n) 1 else s) { s with dr := dr }
  else s

/-- What a region home does after any of its messages. -/
def State.settleHome (s : State) (region : Nat) : State :=
  ((State.serveQueue region (s.dr.queries.length + 1) s).serveReqs region).endRetire region

/-- A query made for an element, and carried on as far as it can be. -/
def State.addQuery (s : State) (op lane region pa : Nat) (eps : Word) (loader : Option Nat) (hold : Bool) : State :=
  let q : DQuery := ⟨s.opId, some op, lane, region, pa, eps, loader, 0, 0, none, hold, []⟩
  ({ s with opId := s.opId + 1, dr := { s.dr with queries := s.dr.queries ++ [q] } } : State).advance.settleHome region

/-- Queries whose accesses have been performed end: a write tells the region home (R337). -/
def State.endQueries (s : State) (p : DQuery → Bool) : State :=
  (s.dr.queries.filter p).foldl (fun s q =>
    let s1 : State := { s with dr := { s.dr with queries := s.dr.queries.filter fun r => r.id ≠ q.id } }
    (if q.hold then s1.tellDone q else s1).advance.settleHome q.region) s

/-- An operation has gone: it holds no write, and its queries end: those not sent yet at once, those answered with their done, and the
others when they are answered. -/
def State.orphanQueries (s0 : State) (op : Nat) : State :=
  let s := ({ s0 with ms := { s0.ms with ewaits := s0.ms.ewaits.filter fun w => w.1 ≠ op } } : State).stopEnds op
  (s.queriesOf op).foldl (fun s q =>
    let s1 : State := { s with dr := { s.dr with queries := s.dr.queries.filter fun p => p.id ≠ q.id } }
    if q.stage = 0 then s1.advance
    else if q.stage = 4 then (if q.hold then s1.tellDone q else s1).advance.settleHome q.region
    else s.putQuery { q with op := none }) s

/-- The element starting addresses that a byte range covers (R337). -/
def elemsIn (eb pa n : Nat) : List Nat := (List.range ((pa + n + eb - 1) / eb - pa / eb)).map fun i => (pa / eb + i) * eb

/-- RoundRNE(m + x, F) of an element's encoding m and an f32 delta x: one rounding of the exact sum (R333, R337; 01 R42). -/
def deltaSum (t : Ty) (m : Nat) (x : Word) : Nat :=
  (t.roundV .rne false false 0 (exactSum .rne false (Ty.f32.cvt t .rne false false m).bits x.toNat).1).bits

/-- The element of a plain load as the loader's cache delivers it, in its own encoding, from the value read at home and the deltas of its
own, each rounded as its home would (R337; log 32). -/
def elemView (t : Ty) (m : Nat) (own : List Word) : Nat := own.foldl (deltaSum t) m

/-- The query that serves an operation's lane at an element; a write's serves all its lanes. -/
def State.queryFor (s : State) (op lane pa : Nat) : Option DQuery :=
  s.dr.queries.find? fun q => decide (q.op = some op ∧ q.pa = pa) && (q.hold || decide (q.lane = lane))

/-- The bytes a plain load takes from a drift region, from the answers to its elements' queries (R337). -/
def State.driftLoad (s : State) (op lane region pa n : Nat) : Nat :=
  let t := (s.driftEntry region).ty
  let eb := t.bits / 8
  let all := ((elemsIn eb pa n).mapIdx fun i a => (i, a)).foldl (fun z p =>
    z + (match s.queryFor op lane p.2 with
      | some q => elemView t q.value q.own
      | none => 0) * 2 ^ (8 * eb * p.1)) 0
  all / 2 ^ (8 * (pa % eb)) % 2 ^ (8 * n)

/-- A tolerance load's f32 value from the answer to its query (R335 step 6). -/
def State.driftValue (s : State) (q : DQuery) : Word :=
  q.own.foldl f32Add (BitVec.ofNat 32 (Ty.f32.cvt (s.driftEntry q.region).ty .rne false false q.value).bits)

/-- A cache has a drain or a delta write of a region under way (R335 step 1). -/
def State.deltasOut (s : State) (cache region : Nat) : Bool :=
  (s.dr.trackers.any fun t => decide (t.cache = cache ∧ t.region = region) && t.draining) || s.deltaOut cache (some region)

/-- The queries of one lane's elements made: a load's one at a time, each once its cache has no delta of the region on its way
(R335 steps 1 and 2, R337). -/
def State.askElems (s : State) (op lane region : Nat) (es : List Nat) (eps : Word) (loader : Option Nat) (hold : Bool) : State :=
  (es.foldl (fun (r : State × Bool) e =>
    if !r.2 then r
    else
      match r.1.queryFor op lane e with
      | some q => (r.1, hold || decide (q.stage = 4))
      | none =>
        if (loader.map fun k => r.1.deltasOut k region).getD false then (r.1, false)
        else
          let s1 := r.1.addQuery op lane region e eps loader hold
          (s1, hold || (s1.queryFor op lane e).any fun q => decide (q.stage = 4))) (s, true)).1

/-- Every element of a lane's access is answered. -/
def State.elemsDone (s : State) (op lane : Nat) (es : List Nat) : Bool :=
  es.all fun e => (s.queryFor op lane e).any fun q => decide (q.stage = 4)

/-- A delta applied at its element home, in the format it was sent in (R329, R333). -/
def State.applyDelta (s : State) (fmt pa : Nat) (x : Word) : State :=
  let t : Ty := if fmt = 0 then .f32 else .bf16
  (s.injectSeen none noGang pa (t.bits / 8)).writeHome pa (leBytes (t.bits / 8) (deltaSum t (s.homeNat pa (t.bits / 8)) x))

end Machine

end Sys2Proof
end

