-- ==== Sys2Proof/Machine/MemIssue.lean ====
section
/-! DEFINITION. The issue of memory operations: the lanes' accesses and checks (10 R235, R236), and the operations put in
flight (02 R65, R67). -/

namespace Sys2Proof.Machine

/-- The index of a memory operand on a lane (04 R98). -/
def Issue.index (is : Issue) (s : State) (m : MWord) (l : Nat) : Int × Int :=
  (sext 32 (is.src s false m.a l) + sext 10 m.disp, sext 32 (is.src s false m.b l))

/-- A lane with what its checks found. -/
abbrev LaneFound := Nat × Found

/-- The checks of several lanes in ascending order, each seeing the TLBs as the ones before left them (R214). -/
def State.checkLanes (s : State) (f : State → Nat → State × Found) (ls : List Nat) : State × List LaneFound :=
  ls.foldl (fun r l => let q := f r.1 l; (q.1, r.2 ++ [(l, q.2)])) (s, [])

/-- The checks of a finding came to the translation (R235 step 6). -/
def Found.translated : Found → Bool
  | .ok _ tgt => decide (tgt ≠ 7)
  | .page _ _ => true
  | .trap _ _ late => late
  | _ => false

/-- The lanes of one page have one outcome: where some lane's address on it is beyond fitted memory, the translation trap (R207,
R214). -/
def State.pageOutcome (s : State) (w : Who) (va : Nat → Option Nat) (fs : List LaneFound) : List LaneFound :=
  let leaf (q : LaneFound) : Option (Nat × Leaf) := if q.2.translated then
      (va q.1).bind fun a => (s.pageLeaf w.tlbs a).map fun x => (a, x) else none
  if fs.any fun q => match q.2 with
      | .trap k _ true => decide (k = trapTranslation)
      | _ => false then
    let bad := fs.filterMap fun q => (leaf q).bind fun p => if p.2.reaches p.1 then none else some p.2.addr
    fs.map fun q => match leaf q with
      | some p => if bad.contains p.2.addr then (q.1, .trap trapTranslation (lineOf p.1) true) else q
      | none => q
  else fs

/-- The virtual address of an access, where it has one. -/
def Place.va? : Place → Option Nat
  | .virt va => if 0 ≤ va ∧ va < 2 ^ 56 then some va.toNat else none
  | _ => none

/-- A precise trap of the checks. -/
def Found.precise (late : Bool) : Found → Option (Nat × Word64)
  | .trap k line lt => if lt && late then none else some (k, line)
  | _ => none

/-- The traps of one issue, one for each kind, with the line of its lowest lane (17 R364). -/
def trapGroups (fs : List LaneFound) (late : Bool) (rslot : Nat) : List (Word64 × TrapInfo) :=
  (List.range 16).filterMap fun k =>
    let ls := fs.filter fun q => match q.2.precise late with
      | some (j, _) => decide (j = k)
      | none => false
    match ls with
    | [] => none
    | q :: _ =>
      let line := match q.2.precise late with
        | some (_, ln) => ln
        | none => 0
      some (maskOf fun l => ls.any fun p => p.1 = l, ⟨k, 0, rslot, line, false, false⟩)

/-- The lanes that wait for a page to be migrated (09 R221; 17 R376). -/
def pageGroups (fs : List LaneFound) : List (Nat × Leaf × Nat) :=
  fs.filterMap fun q => match q.2 with
    | .page l pa => some (q.1, l, pa)
    | _ => none

/-- A move in progress, or already asked for, of the page that holds an address. -/
def State.moving (s : State) (pa : Nat) : Bool := s.ms.moves.any fun m => decide (m.old ≤ pa ∧ pa < m.old + 2 ^ 16)

/-- The pool frames of migration that hold no page (09 R218, R219). -/
def State.freePool (s : State) : Option Nat :=
  let r := s.sysGet SysReg.migpool 0
  let base := field r 47 16
  ((List.range (field r 63 48)).map fun i => (base + i) * 2 ^ 16).find? fun f =>
    !(s.ms.promos.any fun p => p.pool = f) && !(s.ms.moves.any fun m => m.new = f)

/-- The reverse-map entry of a frame (09 R218). -/
def State.revMap (s : State) (pa : Nat) : Nat :=
  s.homeNat (field (s.sysGet SysReg.rmap 0) 47 16 * 2 ^ 16 + 8 * bitsOf pa 45 16) 8

/-- A page of a valid drift region, which the migration logic does not move (15 R327). -/
def State.driftPage (s : State) (page : Nat) : Bool := (s.driftOf page).isSome

/-- A move that starts now: it ends by itself 512 ns later at the earliest, one for each of the page's lines (DESIGN CHOICE, log 21: R220
gives no time). -/
def State.newMove (s : State) (old new leafPa : Nat) (promote : Bool) : Move := ⟨old, new, leafPa, promote, s.ns + 512⟩

/-- A page marked migrate-on-touch has been touched: its move starts where hardware moves it, else the home's column core is
told, once until an answer (17 R376 step 2; log 21). -/
def State.touchPage (s : State) (l : Leaf) (pa : Nat) : State :=
  let page := l.base
  if s.moving pa then s
  else
    let hw := decide (l.bits = 16) && (s.sysGet SysReg.migctl 0).getLsbD 63 && decide (l.tgt = 1) && decide (s.revMap page ≠ 0) &&
      !s.driftPage page
    match (if hw then s.freePool else none) with
    | some f =>
      let s1 := s.homeWrite l.addr (leBytes 8 (setField l.e 12 11 2).toNat)
      { s1 with ms := { s1.ms with
          moves := s1.ms.moves ++ [s.newMove page f l.addr true]
          tlb := s1.ms.tlb.filter fun t => t.leafPa ≠ l.addr } }
    | none =>
      if s.ms.asked.contains page then s
      else ({ s with ms := { s.ms with asked := s.ms.asked ++ [page] } } : State).postEvent (homeOf l.addr) (homeOf l.addr) 0x82 0 0 0
        (BitVec.ofNat 64 page) (BitVec.ofNat 64 l.addr)

/-- Lanes held at the word until their pages are resident (17 R376). -/
def State.holdPages (s : State) (c : CtxId) (ps : List (Nat × Leaf × Nat)) : State :=
  ps.foldl (fun s p =>
    (s.touchPage p.2.1 p.2.2).modCtx c fun x => x.modLane p.1 fun y => { y with wait := .page p.2.2 false }) s

/-- An operation put in flight. -/
def State.addOp (s : State) (o : MOp) : State :=
  { s with opId := s.opId + 1, ms := { s.ms with ops := s.ms.ops ++ [o] } }

/-- The bound of a Bangle delivery, 3.2 µs, in ticks (09 R224). -/
def bangleBound : Nat := 38400

/-- An operation of an issue, before its accesses; it may go on by itself within the bound of a delivery (09 R224; log 7). -/
def Issue.op (is : Issue) (s : State) (m : MWord) (kind : OpKind) (reg : Option Nat) : MOp where
  id := s.opId
  ctx := is.ctx
  sub := is.sub
  kind := kind
  hdr := is.hdr
  idx := is.idx
  rt := m.rt
  sc := m.sc
  ord := m.ord
  w := m.w
  reg := reg
  slot := m.c.slot?
  rslot := m.slot
  lanes := 0
  accs := []
  due := s.now + min s.lag bangleBound
  handle := is.c.handle

/-- The g register a destination names. -/
def dstReg? (d : Dst) : Option Nat :=
  match d with
  | .g n => some n
  | _ => none

/-- An access without data or failure. -/
def Acc.at (lane pa n : Nat) : Acc := ⟨lane, pa, n, 0, 0, false, 0, 0, 0, 0, false⟩

/-- What an operation makes of its lanes: which findings become accesses, and with what data. -/
structure MemForm where
  kind : OpKind
  acc : AccKind
  n : Nat
  al : Nat
  late : Bool
  /-- Lanes out of bounds receive zeros. -/
  fills : Bool
  /-- SPACE 4 is allowed. -/
  ring : Bool
  /-- Bits of the record's policy that do not concern the form. -/
  strip : Rec256
  /-- Failures of alignment and translation end the lane without effect. -/
  soft : Bool
  data : Issue → State → Nat → Nat × Nat
  /-- The virtual line of a lane's access. -/
  line : Nat → Word64
  adjust : Rec256 → Word64 → Found → Found

/-- The finding of a lane with the form's own rules applied. -/
def MemForm.found (f : MemForm) (r : Rec256) (line : Word64) (q : Found) : Found :=
  let q1 := f.adjust r line q
  if f.soft then
    match q1 with
    | .trap k _ lt => if lt ∨ k = trapMisaligned ∨ k = trapPermission then .zero else q1
    | .page _ _ => .zero
    | _ => q1
  else q1

/-- The bytes a form covers at an address: its own, or those of the element of a drift region (10 R235; 15 R342). -/
def MemForm.width (f : MemForm) (s : State) (pa : Nat) : Nat :=
  if f.n = 0 then ((s.driftOf pa).map s.elemBytes).getD 4 else f.n

/-- The accesses of a lane, where its finding makes any: at an address, zero-filled, or failed after issue (R235, R236). One of 16 bytes
outside the module's own memory is two of 8 (R238). -/
def MemForm.accOf (f : MemForm) (is : Issue) (s : State) (q : LaneFound) : List Acc :=
  let d := f.data is s q.1
  match q.2 with
  | .ok pa _ =>
    let a : Acc := ⟨q.1, pa, f.width s pa, d.1, d.2, false, 0, f.line q.1, 0, 0, false⟩
    if f.n = 16 ∧ 2 ^ 50 ≤ pa then
      [{ a with n := 8, data := d.1 % 2 ^ 64 }, { a with pa := pa + 8, n := 8, data := d.1 / 2 ^ 64, off := 2 }]
    else [a]
  | .zero => if f.fills then [⟨q.1, 0, 0, 0, 0, true, 0, 0, 0, 0, false⟩] else []
  | .trap k line true => if f.late then [⟨q.1, 0, 0, 0, 0, false, k, line, 0, 0, false⟩] else []
  | _ => []

/-- The wait of a lane of a path that an operation keeps at its word: for its result, for its trap, or for the others (14 R319; 17
R364). -/
def blockedWait (path : Word64) (id : Nat) (busy : Word64) (gs : List (Word64 × TrapInfo)) (l : Nat) : Wait :=
  match gs.find? fun g => g.1.getLsbD l with
  | some g => .trap g.2.kind g.2.rslot g.2.line path
  | none => if busy.getLsbD l then .op id path else .peers path

/-- The accesses of an instruction put in flight for the lanes that found one; the others trap, wait for a page, or have no
effect (R235, R236, R100; 17 R364, R376). With `blk` the path is kept at its word until every lane has its result or its failure (14
R319). -/
def launchAccs (m : MWord) (f : MemForm) (reg : Option Nat) (slotLanes : Word64 → Word64) (blk : Bool) (is : Issue) (s : State)
    (fs : List LaneFound) : Done :=
  let ps := pageGroups fs
  let accs := fs.flatMap (f.accOf is s)
  let lanes := slotLanes (maskOf fun l => accs.any fun a => a.lane = l)
  let o : MOp := { is.op s m f.kind reg with accs := accs, lanes := lanes }
  let s1 := if accs.isEmpty then s else (s.addOp o).busySlot is.ctx lanes m.c
  let s2 := s1.holdPages is.ctx ps
  let gs := trapGroups fs f.late m.slot
  let away : Word64 := maskOf fun l => ps.any fun p => p.1 = l
  if blk && !accs.isEmpty then .held (s2.block is (is.path &&& ~~~away) (blockedWait is.path o.id lanes gs)) is.path
  else .held (s2.takeTraps is.ctx gs is.h is.hdr is.idx) (gs.foldl (fun z g => z ||| g.1) 0 ||| away)

/-- The virtual line of an access, as a fault record gives it (17 R365). -/
def State.accessLine (s : State) (w : Who) (r : Rec256) (x y : Int) (n : Nat) : Word64 :=
  match s.place? w r x y n with
  | .virt va => lineOf (wrap 64 va)
  | _ => 0

/-- A read or an atomic of another module keeps its path at the word, since it may still trap precisely (16 R348; log 24). -/
def MemForm.peerBlocks (f : MemForm) (fs : List LaneFound) : Bool :=
  (fs.any fun q => match q.2 with
    | .ok pa _ => isPeer pa
    | _ => false) && !f.late && !f.soft

/-- A memory instruction through a record: its checks and its accesses (R235). -/
def memEff (m : MWord) (f : MemForm) (reg : Option Nat) (is : Issue) (s : State) : Option Done :=
  let r := is.c.recSlot is.sub m.slot
  let all (k : Nat) : Done :=
    .held (s.takeTrap is.ctx is.act ⟨k, 0, m.slot, 0, false, false⟩ is.h is.hdr is.idx) is.act
  if !Rec256.valid r then some (all trapBounds)
  else if Rec256.space r = 4 && !f.ring then some (all trapQueue)
  else
    let w := s.who is.ctx
    let q := s.checkLanes (fun s l =>
      let i := is.index s m l
      s.checkAccess w (r &&& ~~~f.strip) i.1 i.2 f.n f.al f.acc) (lanesOf is.act)
    let place (l : Nat) : Place := let i := is.index s m l; s.place? w r i.1 i.2 f.n
    let line (l : Nat) : Word64 := let i := is.index s m l; s.accessLine w r i.1 i.2 f.n
    let fs := (q.1.pageOutcome w (fun l => (place l).va?) q.2).map fun p => (p.1, f.found r (line p.1) p.2)
    let g : MemForm := { f with line := line }
    if q.2.any fun p => p.2.waits then none
    else some (launchAccs m g reg id (f.peerBlocks fs) is q.1 fs)

/-- A form with no data of its own. -/
def MemForm.plain (kind : OpKind) (acc : AccKind) (n al : Nat) : MemForm where
  kind := kind
  acc := acc
  n := n
  al := al
  late := false
  fills := false
  ring := false
  strip := 0
  soft := false
  data := fun _ _ _ => (0, 0)
  line := fun _ => 0
  adjust := fun _ _ q => q

/-- How many registers a value of width code W takes (10 R233). -/
def wRegs (w : Nat) : Nat := if w = 4 then 4 else if w = 3 then 2 else 1

/-- The data source of a store or an operand: n registers from the one DST names, read at issue (10 R234). -/
def dstData (d : Dst) (n : Nat) (is : Issue) (l : Nat) : Nat :=
  match d with
  | .g r => is.c.regs l r n
  | _ => 0

end Sys2Proof.Machine
end

