-- ==== Sys2Proof/Machine/Memory.lean ====
section
/-! DEFINITION. Loads, stores, prefetches, records in slots, home queries and cache maintenance, class 0x6
(10 R233-R247). -/

namespace Sys2Proof

/-- The bits of a record's out-of-bounds policy. -/
def maskOob : Rec256 := BitVec.ofNat 256 (3 * 2 ^ 184)

/-- The bits of a record's policy and permissions. -/
def maskPolicy : Rec256 := BitVec.ofNat 256 (15 * 2 ^ 182)

/-- The record slot DST names (10 R233). -/
def slotOf (d : Dst) : Nat :=
  match d with
  | .g n => n % 16
  | _ => 0

namespace Machine

/-- ld (R240). -/
def loadForm (m : MWord) : MemForm :=
  { MemForm.plain (.load false) .read (2 ^ m.w) (2 ^ m.w) with fills := true, ring := true }

def execLd (m : MWord) (s : State) : Host.Outcome State Fault Refusal :=
  issueWith (.ld m) 0 (memEff m (loadForm m) (dstReg? m.d)) s

/-- st (R241): a store that fails translation fails after issue (R236). -/
def storeForm (m : MWord) : MemForm :=
  { MemForm.plain .store .write (2 ^ m.w) (2 ^ m.w) with
    late := true, ring := true, data := fun is _ l => (dstData m.d (wRegs m.w) is l % 2 ^ (8 * 2 ^ m.w), 0) }

def execSt (m : MWord) (s : State) : Host.Outcome State Fault Refusal :=
  issueWith (.st m) 0 (memEff m (storeForm m) none) s

/-- A prefetch of a drift region, or of an address no access would reach, has no effect (R242). -/
def prefetchForm (m : MWord) (s : State) : MemForm :=
  { MemForm.plain .prf .read (2 ^ m.w) (2 ^ m.w) with
    ring := true, soft := true, strip := maskOob,
    adjust := fun _ _ q => match q with
      | .ok pa _ => if (s.driftOf pa).isSome then .zero else q
      | _ => q }

def execPrf (m : MWord) (s : State) : Host.Outcome State Fault Refusal :=
  issueWith (.prf m) 0 (fun is s => memEff m (prefetchForm m s) none is s) s

/-- inv and wb: the line that holds the address (R247); the permissions and policy of the record do not concern them
(R100, R101). -/
def lineForm (kind : OpKind) (m : MWord) : MemForm :=
  { MemForm.plain kind .read (2 ^ m.w) (2 ^ m.w) with soft := true, strip := maskPolicy }

def execInv (m : MWord) (s : State) : Host.Outcome State Fault Refusal :=
  issueWith (.inv m) 0 (memEff m (lineForm .inv m) none) s

def execWb (m : MWord) (s : State) : Host.Outcome State Fault Refusal :=
  issueWith (.wb m) 0 (memEff m (lineForm .wb m) none) s

/-! ### Records in slots -/

/-- The access of a record by the source lane: its checks trap or hold every lane whose guard is 1 (R235, R243). -/
def recEff (m : MWord) (f : MemForm) (is : Issue) (s : State) : Option Done :=
  let r := is.c.recSlot is.sub m.slot
  let all (k : Nat) : Done :=
    .held (s.takeTrap is.ctx is.act ⟨k, 0, m.slot, 0, false, false⟩ is.h is.hdr is.idx) is.act
  if !Rec256.valid r then some (all trapBounds)
  else if Rec256.space r = 4 then some (all trapQueue)
  else
    (lowestLane is.act).bind fun l =>
      let i := is.index s m l
      let q := s.checkAccess (s.who is.ctx) r i.1 i.2 32 32 f.acc
      let fs : List LaneFound := match q.2 with
        | .ok _ _ => [(l, q.2)]
        | .zero => [(l, q.2)]
        | _ => (lanesOf is.act).map fun k => (k, q.2)
      let g : MemForm := { f with line := fun _ => s.accessLine (s.who is.ctx) r i.1 i.2 32 }
      if q.2.waits then none else some (launchAccs m g none (fun _ => is.act) (f.peerBlocks fs) is q.1 fs)

def execRecLd (m : MWord) (s : State) : Host.Outcome State Fault Refusal :=
  issueWith (.recLd m) 0 (recEff m { MemForm.plain (.recLd (slotOf m.d)) .read 32 32 with fills := true }) s

def execRecSt (m : MWord) (s : State) : Host.Outcome State Fault Refusal :=
  issueWith (.recSt m) 0 (recEff m { MemForm.plain .recSt .write 32 32 with
    late := true, data := fun is _ _ => ((is.c.recSlot is.sub (slotOf m.d)).toNat, 0) }) s

/-- The gang's slot, or its sub-gang's copy, written at issue (R102, R244, R245). -/
def slotEff (m : MWord) (f : Issue → State → Nat → Rec256) (is : Issue) (s : State) : Option Done :=
  (lowestLane is.act).map fun l =>
    .next (s.modCtx is.ctx fun c => c.putRecSlot is.sub (slotOf m.d) (f is s l))

/-- rec.mk: the record of eight registers, with its check byte computed (R244). -/
def execRecMk (m : MWord) (s : State) : Host.Outcome State Fault Refusal :=
  issueWith (.recMk m) 0 (slotEff m fun is _ l => recSeal (BitVec.ofNat 256 (match m.a with
    | .g r => is.c.regs l r 8
    | _ => 0))) s

/-- rec.adj: a window of a record (R245). -/
def execRecAdj (m : MWord) (s : State) : Host.Outcome State Fault Refusal :=
  issueWith (.recAdj m) 0 (slotEff m fun is s l =>
    let i := is.index s m l
    recWindow (is.c.recSlot is.sub m.slot) i.1 i.2) s

/-! ### Home queries -/

/-- The word that describes an address (R246). -/
def homeWord (failed : Bool) (mig tgt col : Nat) : Nat :=
  if failed then 2 ^ 31 else col % 64 + 64 * tgt + 512 * mig

/-- The home word of a place, or nothing where the lane has no effect; peers, the host and the CXL pool are homed on the executing column
(09 R208; R100, R235, R246). -/
def State.homeQuery (s : State) (col : Nat) (p : Place) (al : Nat) : Option Nat :=
  match p with
  | .scratch pa => if pa % al ≠ 0 then none else some (homeWord false 0 7 ((pa - 2 ^ 48) / 2 ^ 23))
  | .virt va =>
    if va % al ≠ 0 then none
    else if va < 0 then some (homeWord true 0 0 0)
    else
      (match s.probe va.toNat with
       | some l => some (homeWord false l.mig l.tgt (if 2 < l.tgt then col else homeOf (l.pa va.toNat)))
       | none => some (homeWord true 0 0 0))
  | _ => none

/-- home: one word for each lane, written when the query completes (R246). -/
def homeEff (m : MWord) (is : Issue) (s : State) : Option Done :=
  let r := is.c.recSlot is.sub m.slot
  let trap (k : Nat) (z : Word64) (s : State) : State :=
    s.takeTrap is.ctx z ⟨k, 0, m.slot, 0, false, false⟩ is.h is.hdr is.idx
  if !Rec256.valid r then some (.held (trap trapBounds is.act s) is.act)
  else if Rec256.space r = 4 then some (.held (trap trapQueue is.act s) is.act)
  else
    let n := 2 ^ m.w
    let w := s.who is.ctx
    let fs := (lanesOf is.act).map fun l =>
      let i := is.index s m l
      (l, s.place? w r i.1 i.2 n)
    let bad := maskOf fun l => fs.any fun q => decide (q = (l, .bounds))
    let waits := fs.any fun q => match q.2 with
      | .virt va => decide (0 ≤ va) && s.walkHeld w.tlbs va.toNat
      | _ => false
    let accs := fs.filterMap fun q => (s.homeQuery (w.core / 4) q.2 n).map fun v => { Acc.at q.1 0 0 with home := v }
    let lanes := maskOf fun l => accs.any fun a => a.lane = l
    let o : MOp := { is.op s m .home (dstReg? m.d) with accs := accs, lanes := lanes }
    let s1 := if accs.isEmpty then s else (s.addOp o).busySlot is.ctx lanes m.c
    if waits then none else some (.held (trap trapBounds bad s1) bad)

def execHome (m : MWord) (s : State) : Host.Outcome State Fault Refusal :=
  issueWith (.home m) 0 (homeEff m) s

end Machine

end Sys2Proof
end

