-- ==== Sys2Proof/Machine/Atomics.lean ====
section
/-! DEFINITION. Atomics and reductions, and the drift instructions, class 0x7 (10 R248-R252; 15 R341-R346). An operation
carries its op code; its value is computed where it is performed. -/

namespace Sys2Proof

namespace Machine

/-- A target that performs an atomic: on TGT 4 and 5 only add, xchg and cas of 32 and 64 bits, never SPACE 3 (R249). -/
def atomTarget (op : Nat) (atom : Bool) (r : Rec256) (line : Word64) (q : Found) : Found :=
  match q with
  | .ok pa tgt =>
    if Rec256.space r = 3 then .trap trapPermission line true
    else if (tgt = 4 ∨ tgt = 5) ∧ !(atom && (op = 0 ∨ op = 7 ∨ op = 0x0A)) then .trap trapPermission line true
    else .ok pa tgt
  | q => q

/-- The operand of an atomic or a reduction, and the new value of `cas` (R248). -/
def atomData (m : MWord) (op : Nat) (is : Issue) (_ : State) (l : Nat) : Nat × Nat :=
  let n := wRegs m.w
  let v := dstData m.d n is l % 2 ^ (8 * 2 ^ m.w)
  match m.d with
  | .g r => (v, if op = 0x0A then is.c.regs l (r + n) n else 0)
  | _ => (v, 0)

/-- An atomic: precise failures, zeros out of bounds (R100, R236). -/
def atomForm (m : MWord) (op : Nat) : MemForm :=
  { MemForm.plain (.atom op) .both (2 ^ m.w) (2 ^ m.w) with
    fills := true, data := atomData m op, adjust := atomTarget op true }

/-- A reduction: failures of translation are found after issue (R236). -/
def redForm (m : MWord) (op : Nat) : MemForm :=
  { MemForm.plain (.red op) .write (2 ^ m.w) (2 ^ m.w) with
    late := true, data := atomData m op, adjust := atomTarget op false }

def atomEff (m : MWord) (op : Nat) : Issue → State → Option Done := memEff m (atomForm m op) (dstReg? m.d)

def redEff (m : MWord) (op : Nat) : Issue → State → Option Done := memEff m (redForm m op) none

def execAtomAdd (m : MWord) (s : State) : Host.Outcome State Fault Refusal := issueWith (.atomAdd m) 0 (atomEff m 0x00) s
def execAtomSub (m : MWord) (s : State) : Host.Outcome State Fault Refusal := issueWith (.atomSub m) 0 (atomEff m 0x01) s
def execAtomMinU (m : MWord) (s : State) : Host.Outcome State Fault Refusal := issueWith (.atomMinU m) 0 (atomEff m 0x02) s
def execAtomMaxU (m : MWord) (s : State) : Host.Outcome State Fault Refusal := issueWith (.atomMaxU m) 0 (atomEff m 0x03) s
def execAtomAnd (m : MWord) (s : State) : Host.Outcome State Fault Refusal := issueWith (.atomAnd m) 0 (atomEff m 0x04) s
def execAtomOr (m : MWord) (s : State) : Host.Outcome State Fault Refusal := issueWith (.atomOr m) 0 (atomEff m 0x05) s
def execAtomXor (m : MWord) (s : State) : Host.Outcome State Fault Refusal := issueWith (.atomXor m) 0 (atomEff m 0x06) s
def execAtomXchg (m : MWord) (s : State) : Host.Outcome State Fault Refusal := issueWith (.atomXchg m) 0 (atomEff m 0x07) s
def execAtomIncw (m : MWord) (s : State) : Host.Outcome State Fault Refusal := issueWith (.atomIncw m) 0 (atomEff m 0x08) s
def execAtomDecw (m : MWord) (s : State) : Host.Outcome State Fault Refusal := issueWith (.atomDecw m) 0 (atomEff m 0x09) s
def execCas (m : MWord) (s : State) : Host.Outcome State Fault Refusal := issueWith (.cas m) 0 (atomEff m 0x0A) s
def execAtomMinS (m : MWord) (s : State) : Host.Outcome State Fault Refusal := issueWith (.atomMinS m) 0 (atomEff m 0x0B) s
def execAtomMaxS (m : MWord) (s : State) : Host.Outcome State Fault Refusal := issueWith (.atomMaxS m) 0 (atomEff m 0x0C) s
def execAtomAddF (m : MWord) (s : State) : Host.Outcome State Fault Refusal := issueWith (.atomAddF m) 0 (atomEff m 0x20) s
def execAtomSubF (m : MWord) (s : State) : Host.Outcome State Fault Refusal := issueWith (.atomSubF m) 0 (atomEff m 0x21) s
def execAtomMinF (m : MWord) (s : State) : Host.Outcome State Fault Refusal := issueWith (.atomMinF m) 0 (atomEff m 0x22) s
def execAtomMaxF (m : MWord) (s : State) : Host.Outcome State Fault Refusal := issueWith (.atomMaxF m) 0 (atomEff m 0x23) s
def execRedAdd (m : MWord) (s : State) : Host.Outcome State Fault Refusal := issueWith (.redAdd m) 0 (redEff m 0x00) s
def execRedSub (m : MWord) (s : State) : Host.Outcome State Fault Refusal := issueWith (.redSub m) 0 (redEff m 0x01) s
def execRedMinU (m : MWord) (s : State) : Host.Outcome State Fault Refusal := issueWith (.redMinU m) 0 (redEff m 0x02) s
def execRedMaxU (m : MWord) (s : State) : Host.Outcome State Fault Refusal := issueWith (.redMaxU m) 0 (redEff m 0x03) s
def execRedAnd (m : MWord) (s : State) : Host.Outcome State Fault Refusal := issueWith (.redAnd m) 0 (redEff m 0x04) s
def execRedOr (m : MWord) (s : State) : Host.Outcome State Fault Refusal := issueWith (.redOr m) 0 (redEff m 0x05) s
def execRedXor (m : MWord) (s : State) : Host.Outcome State Fault Refusal := issueWith (.redXor m) 0 (redEff m 0x06) s
def execRedMinS (m : MWord) (s : State) : Host.Outcome State Fault Refusal := issueWith (.redMinS m) 0 (redEff m 0x0B) s
def execRedMaxS (m : MWord) (s : State) : Host.Outcome State Fault Refusal := issueWith (.redMaxS m) 0 (redEff m 0x0C) s
def execRedAddF (m : MWord) (s : State) : Host.Outcome State Fault Refusal := issueWith (.redAddF m) 0 (redEff m 0x20) s
def execRedSubF (m : MWord) (s : State) : Host.Outcome State Fault Refusal := issueWith (.redSubF m) 0 (redEff m 0x21) s
def execRedMinF (m : MWord) (s : State) : Host.Outcome State Fault Refusal := issueWith (.redMinF m) 0 (redEff m 0x22) s
def execRedMaxF (m : MWord) (s : State) : Host.Outcome State Fault Refusal := issueWith (.redMaxF m) 0 (redEff m 0x23) s

/-! ### Drift instructions -/

/-- What a drift instruction's address is found to be: out of bounds, a trap, a page to migrate, or an element of a region
(R342). Records with WO concern the tolerance loads only (04 R101). The alignment check comes last, on the physical address. -/
def State.checkDrift (s : State) (w : Who) (r : Rec256) (x y : Int) (k : AccKind) (load : Bool) : State × Found :=
  match s.place? w r x y 1 with
  | .oob => if Rec256.oob r = 1 then (s, .trap trapBounds 0 false) else (s, .zero)
  | .bounds => (s, .trap trapBounds 0 false)
  | .scratch _ => (s, .trap trapPermission 0 false)
  | .virt va =>
    let line := lineOf (wrap 64 va)
    if (Rec256.ro r && decide (k ≠ .read)) || (Rec256.wo r && load) || decide (Rec256.space r ≠ 0) then
      (s, .trap trapPermission line false)
    else
      match s.checkVirt w 0 va k with
      | (s1, .ok pa tgt) =>
        (match s1.driftOf pa with
         | none => (s1, .trap trapPermission line true)
         | some i =>
           if pa % ((s1.driftEntry i).ty.bits / 8) ≠ 0 then (s1, .trap trapMisaligned line true) else (s1, .ok pa tgt))
      | q => q

/-- The kind is a tolerance load's. -/
def OpKind.tolLoad : OpKind → Bool
  | .dld _ => true
  | _ => false

/-- A drift instruction's lanes checked and put in flight (R342). SPACE 4 is queue misuse (R235). -/
def driftEff (m : MWord) (f : MemForm) (reg : Option Nat) (is : Issue) (s : State) : Option Done :=
  let r := is.c.recSlot is.sub m.slot
  let all (k : Nat) : Done :=
    .held (s.takeTrap is.ctx is.act ⟨k, 0, m.slot, 0, false, false⟩ is.h is.hdr is.idx) is.act
  if !Rec256.valid r then some (all trapBounds)
  else if Rec256.space r = 4 then some (all trapQueue)
  else
    let w := s.who is.ctx
    let q := s.checkLanes (fun s l =>
      let i := is.index s m l
      s.checkDrift w r i.1 i.2 f.acc f.kind.tolLoad) (lanesOf is.act)
    let va (l : Nat) : Option Nat := let i := is.index s m l; (s.place? w r i.1 i.2 f.n).va?
    let line (l : Nat) : Word64 := let i := is.index s m l; s.accessLine w r i.1 i.2 f.n
    if q.2.any fun p => p.2.waits then none
    else some (launchAccs m { f with line := line } reg id false is q.1 (q.1.pageOutcome w va q.2))

/-- The drift forms: an access covers its element. -/
def driftForm (kind : OpKind) (acc : AccKind) : MemForm := MemForm.plain kind acc 0 1

def execDadd (m : MWord) (s : State) : Host.Outcome State Fault Refusal :=
  issueWith (.dadd m) 0 (driftEff m { driftForm .dadd .write with
    late := true, data := fun is _ l => (dstData m.d 1 is l, 0) } none) s

/-- A tolerance load: the tolerance is read at issue (R344). -/
def dldForm (e : Bool) (m : MWord) : MemForm :=
  { driftForm (.dld e) .read with fills := true, data := fun is _ l => (dstData m.d 1 is l, 0) }

def execDld (m : MWord) (s : State) : Host.Outcome State Fault Refusal :=
  issueWith (.dld m) 0 (driftEff m (dldForm false m) (dstReg? m.d)) s

/-- dld.e also marks gd empty at issue, on the lanes whose load is under way (R344; 02 R68). -/
def execDldE (m : MWord) (s : State) : Host.Outcome State Fault Refusal :=
  issueWith (.dldE m) 0 (fun is s => (driftEff m (dldForm true m) (dstReg? m.d) is s).map fun d =>
    match m.d with
    | .g r => { d with s := d.s.modCtx is.ctx fun c =>
        (lanesOf (is.act &&& ~~~d.stay)).foldl (fun c l => c.markEmpty l r) c }
    | _ => d) s

def execDdrain (m : MWord) (s : State) : Host.Outcome State Fault Refusal :=
  issueWith (.ddrain m) 0 (driftEff m (driftForm .ddrain .read) none) s

def execDqry (m : MWord) (s : State) : Host.Outcome State Fault Refusal :=
  issueWith (.dqry m) 0 (driftEff m { driftForm .dqry .read with fills := true } (dstReg? m.d)) s

end Machine

end Sys2Proof
end

