-- ==== Sys2Proof/Machine/ElemAccess.lean ====
section
/-! DEFINITION. The element accesses of engines, launch units, the host and peers: whose writes they see, the copies their request types
leave, what holds them, and their part in drift regions (04 R103; 11 R257, R259; 12 R278; 13 R306, R311, R314; 15 R337). -/

namespace Sys2Proof.Machine

/-- Whose writes an engine's reads see: those performed at core, column or module scope (R311), with the core's cache, or the column from
whose slice it works. -/
inductive EView
  | core (cache : Nat) | column (col : Nat) | all (col : Nat)
  deriving DecidableEq, Repr

/-- An element access of an engine: what its checks found, its bytes, its record's request type, and whether it writes (R103). -/
structure EAcc where
  found : Found
  n : Nat
  rt : Rt
  write : Bool
  deriving DecidableEq, Repr

/-- The request type of a record (04 R95). -/
def recRt (r : Rec256) : Rt := Rt.ofCode (Rec256.rt r)

/-- The accesses of elements of n bytes through a record. -/
def elemAccs (r : Rec256) (n : Nat) (write : Bool) (fs : List Found) : List EAcc := fs.map fun f => ⟨f, n, recRt r, write⟩

/-- The cache an engine reads through; in a drift region, its loader's (11 R259; 15 R337). -/
def EView.cache? : EView → Option Nat
  | .core k => some k
  | _ => none

/-- The cache, or the slice's column core's, by whose view of time an engine works (18 R390). -/
def EView.agent : EView → Nat
  | .core k => k
  | .column c => 5 * c + 4
  | .all c => 5 * c + 4

/-- An accepted write that an engine's reads are answered from: its core's L1 has accepted it, or its column's slice is forwarding it
(10 R239). -/
def EView.sees (v : EView) (f : Fwd) : Bool :=
  match v with
  | .core k => f.seenBy k
  | .column c => decide (f.cache / 5 = c ∧ f.stage ≠ .l1)
  | .all _ => false

/-- An engine shares a scope with the agents a mark lies inside (13 R295, R306). -/
def EView.within (v : EView) (k : Mark) : Bool :=
  match v with
  | .core c => k.covers c
  | .column c => decide (k.inside = .column ∧ k.cache / 5 = c)
  | .all _ => false

/-- A byte as an engine reads it. -/
def State.engineByte (s : State) (v : EView) (a : Nat) : Byte :=
  (s.ms.fwd.reverse.findSome? fun f => if v.sees f && f.red.isEmpty then wlogGet f.bytes.reverse a else none).getD (s.homeByte a)

/-- Lines read at their homes by a slice, the host or a peer: owners give their dirty words back, and `.nc` leaves no copy in the slice
(11 R259; 09 R226). -/
def State.sliceRead (s : State) (rt : Rt) (pa n : Nat) : State :=
  if rt = .nc then (linesOf pa n).foldl (fun s l => s.recall none l false) s else s.readHome pa n

/-- n bytes as a command reads them, with the copies its request type leaves; those of a drift region from the answers to their queries
(R103; 11 R257, R259; 12 R278; 15 R337). -/
def State.engineRead (s : State) (id : Nat) (v : EView) (rt : Rt) (pa n : Nat) : State × Nat :=
  match s.driftOf pa with
  | some i => (s, s.driftLoad id 0 i pa n)
  | none =>
    let x := leNat ((List.range n).map fun i => s.engineByte v (pa + i))
    match v with
    | .core k =>
      let s1 := s.injectSeen (some k) noGang pa n
      (if cacheable pa then (linesOf pa n).foldl (fun s l => s.readCopies 0 k rt l) (s1.countMiss k rt pa n) else s1, x)
    | _ =>
      let s1 := s.injectSeen none noGang pa n
      (if cacheable pa then (s1.countAccess pa).sliceRead rt pa n else s1, x)

/-- Reads made in order; one that its record's bounds leave out reads as zero. -/
def State.engineReads (s : State) (id : Nat) (v : EView) (as : List EAcc) : State × List Nat :=
  let r := as.foldl (fun (z : State × List Nat) a => match a.found with
    | .ok pa _ =>
      let q := z.1.engineRead id v a.rt pa a.n
      (q.1, q.2 :: z.2)
    | _ => (z.1, 0 :: z.2)) (s, [])
  (r.1, r.2.reverse)

/-- An engine's element write, performed at its home; `.nc` leaves no copy in the slice (R239, R259). -/
def State.engineWrite (s : State) (rt : Rt) (a : Nat) (bs : List Byte) : State :=
  if !cacheable a then s.writeBytes a bs
  else
    let s1 := (s.countAccess a).writeHome a bs
    if rt = .nc then { s1 with ms := { s1.ms with slice := s.ms.slice } } else s1

/-- The places of a list of findings. -/
def foundPlaces (fs : List Found) : List Nat := fs.filterMap fun q => match q with
  | .ok pa _ => some pa
  | _ => none

/-- The first trap of a list of findings. -/
def firstTrap (fs : List Found) : Option (Nat × Word64) := fs.findSome? fun q => match q with
  | .trap k line _ => some (k, line)
  | _ => none

/-- Pages of a list of findings that must become resident first (09 R221), or walks that have to wait (18 R393). -/
def State.touchAll (s : State) (fs : List Found) : State × Bool :=
  fs.foldl (fun r q => match q with
    | .page l pa => (r.1.touchPage l pa, true)
    | .wait => (r.1, true)
    | _ => r) (s, false)

/-- An engine's access is a transaction of its own: its core's L1 does not answer it (18 R394). -/
def State.engineMisses (s : State) (v : EView) (pa : Nat) (a : EAcc) : Bool := v.cache?.all fun k => s.misses k a.rt (pa / 128)

/-- It reaches a memory controller or an optical link: the home slice has not got its bytes, nor takes its write (18 R394). -/
def State.engineReaches (s : State) (v : EView) (pa : Nat) (a : EAcc) : Bool :=
  s.engineMisses v pa a && !((a.write && decide (a.rt ≠ .nc) && cacheable pa) || s.sliceHas pa a.n)

/-- A slot holds an engine's access. Without ST it starts no transaction to a resource that it drains, whatever the slices hold; with ST,
and for a resource that is taken otherwise, it waits where it reaches the controller (18 R393-R396). -/
def State.engineHeld (s : State) (st : Bool) (v : EView) (pa : Nat) (a : EAcc) : Bool :=
  (!st && s.draining v.agent pa && s.engineMisses v pa a) || (s.taken pa && s.engineReaches v pa a)

/-- An access waits: a slot or a drain window takes its resource; marks of its location, or narrow-scope data of its region, are to be
published first; it is queued behind a held write; or accepted writes that the engine is answered from must be applied first (R230;
13 R297, R299, R306; 18 R393). -/
def State.elemHeld (s : State) (st : Bool) (v : EView) (acq : Bool) (pa : Nat) (a : EAcc) : Bool :=
  s.engineHeld st v pa a || s.stopped pa ||
  (!a.write && (
    ((acq || decide (a.rt ≠ .nc)) &&
      s.ms.marks.any fun k => !v.within k && decide (k.pa < pa + a.n ∧ pa < k.pa + k.n) && s.markOpen k) ||
    (cacheable pa && decide (a.rt ≠ .nc) && s.ms.fwd.any fun f => f.cache ≠ hwCache && !v.sees f && f.touches (s.region pa).base (s.region pa).size) ||
    v.cache?.any fun k => s.queued k a.rt pa)) ||
  s.ms.fwd.any fun f => v.sees f && f.touches pa a.n && (a.write || !f.red.isEmpty)

/-- The lane number under which a command's drift queries stand: 0 for reads, 1 for writes. -/
def EAcc.lane (a : EAcc) : Nat := bit a.write

/-- The drift queries of an access made or carried on (15 R337). -/
def State.askElem (s : State) (id : Nat) (v : EView) (pa : Nat) (a : EAcc) : State :=
  match s.driftOf pa with
  | some i => s.askElems id a.lane i (elemsIn (s.elemBytes i) pa a.n) 0 (if a.write then none else v.cache?) a.write
  | none => s

/-- They are answered. -/
def State.elemAnswered (s : State) (id pa : Nat) (a : EAcc) : Bool :=
  match s.driftOf pa with
  | some i => s.elemsDone id a.lane (elemsIn (s.elemBytes i) pa a.n)
  | none => true

/-- A command's writes that a lease holds: each is a conflict in its region when it is first held (09 R227, R230). -/
def State.noteEngine (s : State) (id : Nat) (pas : List Nat) : State :=
  (pas.filter fun pa => !s.ms.ewaits.contains (id, pa)).foldl (fun s pa =>
    ({ s with ms := { s.ms with ewaits := s.ms.ewaits ++ [(id, pa)] } } : State).splitRegion pa) s

/-- A command's accesses may be performed now: no page is awaited, nothing holds them, the queries of their drift elements are answered,
and no lease holds its writes; `acq` for an access that acts as an outside acquire (09 R221, R230; 13 R306, R314; 15 R337; 18
R393). -/
def State.engineReady (s : State) (id : Nat) (st : Bool) (v : EView) (acq : Bool) (as : List EAcc) : State × Bool :=
  let p := s.touchAll (as.map EAcc.found)
  let hot := as.filterMap fun a => a.found.pa?.map fun pa => (pa, a)
  let s0 := if hot.any fun q => p.1.stopped q.1 then p.1.stopBegins id else p.1.stopEnds id
  if p.2 || hot.any fun q => s0.elemHeld st v acq q.1 q.2 then (s0, false)
  else
    let s1 := hot.foldl (fun s q => s.askElem id v q.1 q.2) s0
    let late := (hot.filter fun q => q.2.write && s1.leaseLive q.1).map Prod.fst
    if !hot.all fun q => s1.elemAnswered id q.1 q.2 then (s1, false)
    else if !late.isEmpty then (s1.noteEngine id late, false)
    else (s1, true)

/-- A command's accesses have been performed: its queries end, and it holds no write (09 R230; 15 R337). -/
def State.engineDone (s : State) (id : Nat) : State :=
  let s1 := s.endQueries fun q => decide (q.op = some id)
  { s1 with ms := { s1.ms with ewaits := s1.ms.ewaits.filter fun w => w.1 ≠ id } }

end Sys2Proof.Machine
end

