-- ==== Sys2Proof/Machine/Clasps.lean ====
section
/-! DEFINITION. Fences and clasps (14 R315-R326): the clasp's fields and operations, waiting and waking, the class 0x8
instructions fence and clasp, and the waiting lanes' events. -/

namespace Sys2Proof

/-- A clasp's fields (R315). -/
structure Clasp where
  v : Bool
  phase : Nat
  bcnt : Nat
  bexp : Nat
  acnt : Nat
  aexp : Nat
  deriving DecidableEq, Repr

/-- The clasp of 16 bytes (R315). -/
def Clasp.ofNat (x : Nat) : Clasp :=
  ⟨decide (bitsOf x 127 127 = 1), bitsOf x 126 112, bitsOf x 111 72, bitsOf x 71 32, bitsOf x 31 16, bitsOf x 15 0⟩

/-- The 16 bytes of a clasp (R315). -/
def Clasp.toNat (c : Clasp) : Nat :=
  bit c.v * 2 ^ 127 + c.phase * 2 ^ 112 + c.bcnt * 2 ^ 72 + c.bexp * 2 ^ 32 + c.acnt * 2 ^ 16 + c.aexp

/-- The phase after a phase (R317). -/
def nextPhase (p : Nat) : Nat := (p + 1) % 2 ^ 15

/-- CheckFlip: the clasp, and whether it flipped (R317). -/
def Clasp.checkFlip (c : Clasp) : Clasp × Bool :=
  if (0 < c.aexp ∨ 0 < c.bexp) ∧ c.aexp ≤ c.acnt ∧ c.bexp ≤ c.bcnt then
    ({ c with phase := nextPhase c.phase, acnt := 0, bcnt := 0, bexp := 0 }, true)
  else (c, false)

/-- Arrive, or nothing where it is misuse (R317). -/
def Clasp.arrive (c : Clasp) : Option (Clasp × Bool) :=
  if c.v = false ∨ c.acnt = c.aexp then none else some { c with acnt := c.acnt + 1 }.checkFlip

/-- Expect(n), or nothing where it is misuse (R317). -/
def Clasp.expect (c : Clasp) (n : Nat) : Option (Clasp × Bool) :=
  if c.v = false ∨ 2 ^ 40 - 1 < c.bexp + n then none else some { c with bexp := c.bexp + n }.checkFlip

/-- AddBytes(n), or nothing where the clasp is not initialised (R317). -/
def Clasp.addBytes (c : Clasp) (n : Nat) : Option (Clasp × Bool) :=
  if c.v = false then none else some { c with bcnt := min (c.bcnt + n) (2 ^ 40 - 1) }.checkFlip

/-- clasp.init: the counts cleared, the expectations written, a phase passed where the clasp was in use; whether waiters
wake (R321). -/
def Clasp.init (c : Clasp) (aexp bexp : Nat) : Clasp × Bool :=
  let d : Clasp := ⟨true, if c.v then nextPhase c.phase else 0, 0, bexp, 0, aexp⟩
  let r := d.checkFlip
  (r.1, r.2 || c.v)

namespace Machine

/-- The clasp at its serialisation point (R316). -/
def State.clasp (s : State) (pa : Nat) : Clasp := Clasp.ofNat (s.homeNat pa 16)

/-- A column that waits for admission or whose wake is due is told at once while the slew limiter is off (R325). -/
def State.slewOn (s : State) : Bool := (s.sysGet SysReg.govctl 0).getLsbD 63

/-- The waiters of a clasp are woken with its new phase: those of a global one once the slew limiter, where it is on, admits their
columns; a wake that has been sent already goes on with the phase it carries (R317, R324, R325). -/
def State.wakeClasp (s : State) (pa phase : Nat) : State :=
  let st := if cacheable pa && s.slewOn then 1 else 2
  let wake (w : Waiter) : List Waiter :=
    let new : Waiter := { w with stage := st, phase := phase }
    if w.pa ≠ pa then [w] else if st = 1 ∧ w.stage = 2 then [w, new] else [new]
  { s with cl := { s.cl with waiters := (s.cl.waiters.flatMap wake).eraseDups } }

/-- A clasp written back at its serialisation point, its waiters woken by a flip (R316, R317). -/
def State.putClasp (s : State) (pa : Nat) (r : Clasp × Bool) : State :=
  let s1 := if cacheable pa then s.writeHome pa (leBytes 16 r.1.toNat) else s.writeBytes pa (leBytes 16 r.1.toNat)
  if r.2 then s1.wakeClasp pa r.1.phase else s1

/-! ### Fences -/

/-- A cache's drift that a `.drift` fence covers: at stack scope or wider its drains start and are waited for; a covered dadd that is
recorded later joins them (R312, R318). -/
def State.fenceDrift (s : State) (cache : Nat) (sc : Scope) : State × List (Nat × Nat × Nat) :=
  if 4 ≤ sc.code then (s.startOwed (s.withheld cache), (s.withheld cache).map fun t => (cache, t.region, t.drains + 1)) else (s, [])

/-- A fence is still needed: it holds words, its lane parks for a failure at a later write, or writes it covers are on their way, so that
later writes carry its mark (13 R305, R306; 17 R370). -/
def State.fenceLive (s : State) (c : CtxId) (l : Nat) (f : Fence) : Bool :=
  s.fenceOpen c l f true || (f.ord.releases && !((s.ctx c).lane l).fails.isEmpty) ||
  (f.ord.releases && decide (f.sc.code < 4) &&
    s.markOpen ⟨0, 1, s.cacheOf c, f.upto, f.sc, f.dr || !((s.ctx c).lane l).owes.isEmpty⟩)

/-- The drains that a lane's release fence waits for beside its own: of what the lane added before its last ddrain (13 R302, R312). -/
def Lane.fenceOwes (x : Lane) (ord : Ord) (sc : Scope) : List (Nat × Nat × Nat) := if ord.releases ∧ 4 ≤ sc.code then x.owes else []

/-- fence: recorded on each lane; the lane's later words wait as it states (R318). -/
def fenceEff (m : MWord) (ord : Ord) (is : Issue) (s : State) : Option Done :=
  let dr := decide (m.slot % 2 = 1) && ord.releases
  let q := if dr then s.fenceDrift (s.cacheOf is.ctx) m.sc else (s, [])
  let f : Fence := ⟨q.1.opId, ord, m.sc, dr, q.2⟩
  let s0 := q.1.startOwed (q.1.owed ((lanesOf is.act).flatMap fun l => (is.c.lane l).fenceOwes ord m.sc))
  let s1 := if ord.acquires then s0.acquire is.ctx m.sc else s0
  some (.next ({ s1 with opId := s1.opId + 1 }.modCtx is.ctx fun c => c.modLanes (lanesOf is.act) fun l x =>
    { x with fences := (x.fences.filter (s1.fenceLive is.ctx l)) ++ [{ f with drift := f.drift ++ x.fenceOwes ord m.sc }] }))

def execFenceAcq (m : MWord) (s : State) : Host.Outcome State Fault Refusal :=
  issueWith (.fenceAcq m) 0 (fenceEff m .acq) s

def execFenceRel (m : MWord) (s : State) : Host.Outcome State Fault Refusal :=
  issueWith (.fenceRel m) 0 (fenceEff m .rel) s

def execFenceAcqrel (m : MWord) (s : State) : Host.Outcome State Fault Refusal :=
  issueWith (.fenceAcqrel m) 0 (fenceEff m .acqrel) s

/-! ### Clasp instructions -/

/-- The checks of a clasp operand on one lane, in the order of R320: the address, or the trap; `wr` for the operations
that change the clasp, `bad` for an initialisation whose reserved bits are not 0. -/
def State.checkClasp (s : State) (w : Who) (r : Rec256) (x y : Int) (wr bad : Bool) : State × Found :=
  let line := s.accessLine w r x y 16
  if Rec256.space r = 3 ∨ Rec256.space r = 4 ∨ Rec256.es r ≠ 4 then (s, .trap trapClasp 0 false)
  else
    match s.place? w r x y 16 with
    | .oob => (s, .trap trapBounds 0 false)
    | .bounds => (s, .trap trapBounds 0 false)
    | p =>
      if (wr && Rec256.ro r) || (!wr && Rec256.wo r) then (s, .trap trapPermission line false)
      else
        match p with
        | .scratch pa =>
          if pa % 16 ≠ 0 then (s, .trap trapMisaligned 0 false)
          else if bad then (s, .trap trapClasp 0 false) else (s, .ok pa 7)
        | .virt va =>
          if va % 16 ≠ 0 then (s, .trap trapMisaligned line false)
          else
            (match s.checkPage w 0 va (if wr then .write else .read) with
             | (s1, .ok pa tgt) =>
               if tgt = 2 then (s1, .trap trapPermission line true)
               else if 3 ≤ tgt ∨ (s1.driftOf pa).isSome ∨ bad then (s1, .trap trapClasp line true) else (s1, .ok pa tgt)
             | q => q)
        | _ => (s, .zero)

/-- The lanes' clasps: the findings of every lane whose guard is 1, one outcome for a page, or the bounds trap of an invalid record (R320;
09 R214). -/
def claspLanes (m : MWord) (wr : Bool) (bad : Nat → Bool) (is : Issue) (s : State) : State × List LaneFound :=
  let r := is.c.recSlot is.sub m.slot
  let w := s.who is.ctx
  if !Rec256.valid r then (s, (lanesOf is.act).map fun l => (l, .trap trapBounds 0 false))
  else
    let q := s.checkLanes (fun s l =>
      let i := is.index s m l
      s.checkClasp w r i.1 i.2 wr (bad l)) (lanesOf is.act)
    let va (l : Nat) : Option Nat := let i := is.index s m l; (s.place? w r i.1 i.2 16).va?
    (q.1, q.1.pageOutcome w va q.2)

/-- An operation on clasps put in flight; a blocking one keeps its path at the word (R319, R320). -/
def claspEff (m : MWord) (kind : OpKind) (ord : Ord) (wr blocking : Bool) (reg : Option Nat) (bad : Issue → Nat → Bool)
    (data : Issue → Nat → Nat) (is : Issue) (s : State) : Option Done :=
  let q := claspLanes m wr (bad is) is s
  let line (l : Nat) : Word64 := let i := is.index s m l; s.accessLine (s.who is.ctx) (is.c.recSlot is.sub m.slot) i.1 i.2 16
  let f : MemForm := { MemForm.plain kind (if wr then .write else .read) 16 16 with
    data := fun is _ l => (data is l, 0), line := line }
  if q.2.any fun p => p.2.waits then none else some (launchAccs { m with ord := ord } f reg id blocking is q.1 q.2)

def execClaspInit (m : MWord) (s : State) : Host.Outcome State Fault Refusal :=
  issueWith (.claspInit m) 0 (claspEff m .claspInit .plain true false none
    (fun is l => decide (dstData m.d 2 is l / 2 ^ 56 ≠ 0)) (fun is l => dstData m.d 2 is l)) s

def execClaspExpect (m : MWord) (s : State) : Host.Outcome State Fault Refusal :=
  issueWith (.claspExpect m) 0 (claspEff m .claspExpect .plain true false none (fun _ _ => false)
    (fun is l => dstData m.d 2 is l)) s

/-- clasp.arrive: a release at its scope; with a destination it blocks (R319, R321). -/
def execClaspArrive (m : MWord) (s : State) : Host.Outcome State Fault Refusal :=
  issueWith (.claspArrive m) 0 (claspEff m .claspArrive .rel true (dstReg? m.d).isSome (dstReg? m.d) (fun _ _ => false)
    (fun _ _ => 0)) s

def execClaspTest (m : MWord) (s : State) : Host.Outcome State Fault Refusal :=
  issueWith (.claspTest m) 0 (claspEff m .claspTest .acq false true (dstReg? m.d) (fun _ _ => false)
    (fun is l => dstData m.d 1 is l % 2 ^ 15)) s

/-- A wait: each lane blocked on its clasp; the first read follows (R321, R322). -/
def waitEff (m : MWord) (timed : Bool) (is : Issue) (s : State) : Option Done :=
  let q := claspLanes m false (fun _ => false) is s
  let ps := pageGroups q.2
  let gs := trapGroups q.2 false m.slot
  let bad := gs.foldl (fun z g => z ||| g.1) 0 ||| maskOf fun l => ps.any fun p => p.1 = l
  let s1 := (q.1.holdPages is.ctx ps).takeTraps is.ctx gs is.h is.hdr is.idx
  let reg := (dstReg? m.d).getD 0
  let at_ (l : Nat) : Option Nat := q.2.findSome? fun p => match p.2 with
    | .ok pa _ => if p.1 = l then some pa else none
    | _ => none
  let rest := is.path &&& ~~~bad
  let wait (l : Nat) : Wait := match at_ l with
    | some pa => .clasp pa (dstData m.d 1 is l % 2 ^ 15)
        (if timed then some (is.c.pair l (reg + 2)) else none) reg m.sc none is.path
    | none => .peers is.path
  if q.2.any fun p => p.2.waits then none
  else if (lanesOf rest).any fun l => (at_ l).isSome then some (.held (s1.block is rest wait) is.path) else some (.held s1 bad)

def execClaspWait (m : MWord) (s : State) : Host.Outcome State Fault Refusal :=
  issueWith (.claspWait m) 0 (waitEff m false) s

def execClaspTwait (m : MWord) (s : State) : Host.Outcome State Fault Refusal :=
  issueWith (.claspTwait m) 0 (waitEff m true) s

/-! ### Waiting and waking (R324) -/

/-- A waiting lane's condition holds: its results, its acquire, and the path (R321, R322). -/
def State.endWait (s : State) (c : CtxId) (l : Nat) (timeout : Bool) (phase : Nat) : State :=
  match ((s.ctx c).lane l).wait with
  | .clasp _ _ dl reg sc _ path =>
    let res : List Res := if dl.isSome then [.g l reg (BitVec.ofNat 32 (bit timeout)), .g l (reg + 1) (BitVec.ofNat 32 phase)]
      else []
    let s1 := s.land c res
    let s2 := if timeout then s1 else s1.acquire c sc
    s2.doneWaiting c (1#64 <<< l) path
  | _ => s

/-- A waiter fits the tables: 512 entries at the clasp's home slice and 512 clasp masks in the waiter's column, for global clasps; a
scratchpad clasp always fits (R324). -/
def State.waiterFits (s : State) (pa col : Nat) : Bool :=
  let room (ws : List Waiter) : Bool :=
    let ps := ((ws.filter fun w => cacheable w.pa).map fun w => w.pa).eraseDups
    ps.contains pa || decide (ps.length < 512)
  !cacheable pa || (room (s.cl.waiters.filter fun w => homeOf w.pa = homeOf pa) && room (s.cl.waiters.filter fun w => w.col = col))

/-- An agent is recorded as waiting at a clasp (R324). -/
def State.recorded (s : State) (c : CtxId) (pa : Nat) : Bool := s.cl.waiters.any fun w => decide (w.ctx = c ∧ w.pa = pa)

def State.addWaiter (s : State) (c : CtxId) (pa : Nat) : State :=
  if s.recorded c pa || !s.waiterFits pa (s.colOf c) then s
  else { s with cl := { s.cl with waiters := s.cl.waiters ++ [⟨pa, s.colOf c, c, 0, 0⟩] } }

/-- The number under which a lane's wait holds its place at a lease. -/
def pollOp (c : CtxId) (l : Nat) : Nat := 2 ^ 72 + 64 * ctxKey c + l

/-- A lane of an agent waits at a clasp. -/
def Ctx.waitsAt (x : Ctx) (l pa : Nat) : Bool :=
  match (x.lane l).wait with
  | .clasp p _ _ _ _ _ _ => decide (p = pa)
  | _ => false

/-- Waiter entries, and places at leases, without a lane that waits go. -/
def State.dropWaiters (s : State) : State :=
  let polls (id pa : Nat) : Bool := (s.ctx (ctxOfKey ((id - 2 ^ 72) / 64))).waitsAt (id % 64) pa
  { s with
    cl := { s.cl with waiters := s.cl.waiters.filter fun w => (SMap.keys (s.ctx w.ctx).lanes).any fun l => (s.ctx w.ctx).waitsAt l w.pa }
    ms := { s.ms with ewaits := s.ms.ewaits.filter fun w => decide (w.1 < 2 ^ 72) || polls w.1 w.2 } }

/-- A lane's read of a clasp waits: for what its thread did there before, for accepted writes that its cache is answered from, and for
publishes that an arrival's mark asks for (R316; 13 R299, R306). -/
def State.pollHeld (s : State) (c : CtxId) (l pa : Nat) : Bool :=
  (s.ms.ops.any fun q => q.ofLane c l && q.accs.any fun b => decide (b.lane = l ∧ b.pa < pa + 16 ∧ pa < b.pa + b.n)) ||
  (s.ms.fwd.any fun f => f.touches pa 16 && f.seenBy (s.cacheOf c)) || !(s.blockingMarks (s.cacheOf c) pa 16).isEmpty ||
  s.lineHeld (s.cacheOf c) .nc pa 16

/-- A lane reads its clasp now: not read yet, or not recorded and 1 µs has passed; a read that a lease holds waits in its place (R316,
R322, R324). -/
def State.pollDue (s : State) (c : CtxId) (l : Nat) : Bool :=
  match ((s.ctx c).lane l).wait with
  | .clasp pa _ _ _ _ seen _ =>
    (match seen with
     | none => true
     | some t => !s.recorded c pa && decide (t + 1000 ≤ s.ns)) &&
    !s.pollHeld c l pa && !(s.leaseLive pa && s.ms.ewaits.contains (pollOp c l, pa))
  | _ => false

/-- One lane's read of its clasp at its serialisation point, where no lease holds it (R316, R322). -/
def State.pollLane (s : State) (c : CtxId) (l : Nat) : State :=
  match ((s.ctx c).lane l).wait with
  | .clasp pa p dl reg sc _ path =>
    if s.leaseLive pa then
      ({ s with ms := { s.ms with ewaits := s.ms.ewaits ++ [(pollOp c l, pa)] } } : State).splitRegion pa
    else
      let s1 := ({ s with ms := { s.ms with ewaits := s.ms.ewaits.filter fun w => w.1 ≠ pollOp c l } } : State).readHome pa 16
      let ph := (s1.clasp pa).phase
      if ph ≠ p then s1.endWait c l false ph
      else
        (s1.modCtx c fun x => x.modLane l fun y => { y with wait := .clasp pa p dl reg sc (some s.ns) path }).addWaiter c pa
  | _ => s

/-- CLASP_POLL: the lanes of an agent that are due read their clasps (R322, R324). -/
def execClaspPoll (c : CtxId) (s : State) : Host.Outcome State Fault Refusal :=
  let due := (SMap.keys (s.ctx c).lanes).filter (s.pollDue c)
  ret (due.foldl (fun s l => s.pollLane c l) s).dropWaiters

/-- A wake may reach an agent: it was sent, and no mark of an arrival outside its scope is open (13 R306). -/
def State.wakeReady (s : State) (w : Waiter) : Bool :=
  decide (w.stage = 2) && (s.blockingMarks (s.cacheOf w.ctx) w.pa 16).isEmpty

/-- A lane that a wake lets go on: it has read the clasp, and waits on another phase than the wake carries (R324). -/
def State.wakesLane (s : State) (w : Waiter) (l : Nat) : Bool :=
  match ((s.ctx w.ctx).lane l).wait with
  | .clasp pa p _ _ _ (some _) _ => decide (pa = w.pa ∧ p ≠ w.phase)
  | _ => false

/-- CLASP_WAKE_ARRIVE: the wake of a clasp reaches a column, and its waiting lanes observe the new phase (R324). -/
def execClaspWakeArrive (col key : Nat) (s : State) : Host.Outcome State Fault Refusal :=
  let ws := s.cl.waiters.filter fun w => decide (w.col = col ∧ w.pa = key) && s.wakeReady w
  let left := s.cl.waiters.map fun w => if ws.contains w then { w with stage := 0 } else w
  let s1 : State := { s with cl := { s.cl with waiters := left.eraseDups } }
  let s2 := ws.foldl (fun s w => (SMap.keys (s.ctx w.ctx).lanes).foldl (fun s l =>
    if s.wakesLane w l then s.endWait w.ctx l false w.phase else s) s) s1
  ret s2.dropWaiters

/-- A timed wait's deadline has passed: its time exceeds it after a read, and neither a wake that has come nor a read that is due shows
the lane a new phase in this clock (R322). -/
def State.timedOut (s : State) (c : CtxId) (l : Nat) : Bool :=
  match ((s.ctx c).lane l).wait with
  | .clasp _ _ (some d) _ _ (some _) _ =>
    decide (d < (s.gtime (s.cacheOf c)).toNat) && !s.pollDue c l &&
    !(s.cl.waiters.any fun w => decide (w.ctx = c) && s.wakeReady w && s.wakesLane w l)
  | _ => false

/-- CLASP_TWAIT_TIMEOUT: the lanes whose deadlines have passed complete with TO = 1 and the phase they last observed
(R322). -/
def execClaspTwaitTimeout (c : CtxId) (s : State) : Host.Outcome State Fault Refusal :=
  let late := (SMap.keys (s.ctx c).lanes).filter (s.timedOut c)
  ret (late.foldl (fun s l => match ((s.ctx c).lane l).wait with
    | .clasp _ p _ _ _ _ _ => s.endWait c l true p
    | _ => s) s).dropWaiters

/-! ### Clasps in saved arenas (R326) -/

/-- The physical address of a frame of a column's pool (17 R372). -/
def State.frameBase (s : State) (col num : Nat) : Nat :=
  field (s.sysGet SysReg.frmpool col) 47 17 * 2 ^ 17 + 2 ^ 17 * num

/-- A saved arena: the slice that homes its first byte, and where it lay in the scratchpad. -/
def State.arenaHome (s : State) (h : Word64) (core : Nat) : Option (Nat × Nat) :=
  s.la.frames.findSome? fun f => match f.use with
    | .arena k c 0 base => if k = h ∧ c = core then some (homeOf (s.frameBase f.col f.num), base) else none
    | _ => none

/-- A slice's table of pending arrivals holds 256 entries. -/
def State.pendFull (s : State) (home : Nat) : Bool :=
  decide (256 ≤ (s.cl.pend.filter fun p => (s.arenaHome p.handle p.core).map Prod.fst = some home).length)

/-- A pending arrival entered, behind the others. -/
def State.enterPend (s : State) (p : PendArr) : State := { s with cl := { s.cl with pend := s.cl.pend ++ [p] } }

/-- Where the clasp of an operation is served: at its address; in a saved arena, by the table of a slice; or nowhere any more. -/
inductive ClaspAt
  | here
  | saved (home core off : Nat)
  | gone
  deriving DecidableEq, Repr

/-- Where an operation's access of a clasp is served: an arena that is saved has left the scratchpad. -/
def State.claspAt (s : State) (h : Word64) (pa : Nat) : ClaspAt :=
  let core := (pa - 2 ^ 48) / 2 ^ 21
  if pa < 2 ^ 48 ∨ 2 ^ 50 ≤ pa ∨ (s.arena h core).isSome then .here
  else
    match s.arenaHome h core with
    | some (home, base) => .saved home core (pa % 2 ^ 21 - base)
    | none => .gone

/-! ### The slew limiter (R325; 20 R421) -/

/-- Admissions of the last 100 ns. -/
def State.admitted (s : State) : List Nat :=
  ((s.cl.admits.filter fun a => decide (s.ns < a.1 + 100)).map Prod.snd).eraseDups

/-- Columns that wait for admission. -/
def State.slewWants (s : State) : List Nat :=
  (((s.cl.waiters.filter fun w => w.stage = 1).map fun w => w.col) ++ s.cl.exits).eraseDups

/-- A column's urgency class for admission: the highest among its gangs that wait on a clasp whose flip is being delivered (R325). -/
def State.slewClass (s : State) (col : Nat) : Nat :=
  bit (s.cl.waiters.any fun w => decide (w.col = col ∧ w.stage ≠ 0) && (s.ctx w.ctx).urgent)

/-- The order of admission: descending class, then ascending column counted cyclically from the one after the recorded
first (R325). -/
def State.slewBefore (s : State) (a b : Nat) : Bool :=
  let place (c : Nat) : Nat := (c + 63 - s.cl.slewLast) % 64
  decide (s.slewClass b < s.slewClass a) || (decide (s.slewClass a = s.slewClass b) && decide (place a < place b))

/-- The columns the limiter admits now: all while it is off, else at most 8 in any 100 ns; a column already admitted in
that window counts once (R325). -/
def State.slewPick (s : State) : List Nat :=
  let order := s.slewWants.foldl (fun r c => insertBy s.slewBefore c r) []
  if !s.slewOn then order
  else
    let old := order.filter fun c => s.admitted.contains c
    let new := order.filter fun c => !s.admitted.contains c
    order.filter fun c => old.contains c || (new.take (8 - s.admitted.length)).contains c

/-- The columns of a list, with their first, are admitted: their wakes are sent, and they leave C1-C3 (R325; 20 R421). -/
def State.startExit (s : State) (first : Nat) (go : List Nat) : State :=
  { s with
    cl := { s.cl with
      waiters := s.cl.waiters.map fun w => if w.stage = 1 ∧ go.contains w.col then { w with stage := 2 } else w
      exits := s.cl.exits.filter fun c => !go.contains c
      admits := (s.cl.admits.filter fun a => decide (s.ns < a.1 + 100)) ++ go.map fun c => (s.ns, c)
      slewLast := if go.length < s.slewWants.length then first else s.cl.slewLast }
    pw := { s.pw with cstate := go.foldl (fun m c => if s.cl.exits.contains c then SMap.set 0 m c 0 else m) s.pw.cstate } }

/-- SLEW_ADMIT: the columns that the limiter admits now (R325). -/
def execSlewAdmit (s : State) : Host.Outcome State Fault Refusal :=
  match s.slewPick with
  | [] => .next s
  | first :: rest => ret (s.startExit first (first :: rest))

end Machine

end Sys2Proof
end

