-- ==== Sys2Proof/Machine/HoldList.lean ====
section
/-! DEFINITION. Lanes held for the debugger: halt-on-breakpoint and the launch hold (20 R431, R432). -/

namespace Sys2Proof.Machine

/-- Halt-on-breakpoint is armed. -/
def State.hob (s : State) : Bool := s.se.dctl.getLsbD 0

/-- The paths of a launch are held at the headers they move to. -/
def State.holdsLaunch (s : State) (h : Word64) : Bool := s.se.dctl.getLsbD 1 && decide (s.se.dhandle = h)

/-- The CODE of a launch hold. -/
def launchHoldCode : Nat := 0xFFFFFF

/-- An entry of the hold list added, or its lanes joined to the one its sub-gang has. -/
def State.addHold (s : State) (e : HoldEntry) : State :=
  let old (f : HoldEntry) : Bool := decide (f.gid = e.gid ∧ f.sub = e.sub)
  let hold := if s.se.dhold.any old then s.se.dhold.map fun f => if old f then { f with lanes := f.lanes ||| e.lanes } else f
    else s.se.dhold ++ [e]
  { s with se := { s.se with dhold := hold } }

/-- Lanes of a gang held for the debugger as a parked sub-gang; the breakpoint trap where the hold list is full, or no sub-gang
can be formed (log 27). -/
def State.debugHold (s : State) (c : CtxId) (gid : Nat) (m : Word64) (code : Nat) (hdr : Word64) (idx : Nat) (atHeader : Bool) :
    State :=
  let t : TrapInfo := ⟨0x0C, code, 255, 0, false, atHeader⟩
  if 64 ≤ s.se.dhold.length then s.gangTrap c m t hdr idx
  else
    match s.park c m t hdr idx with
    | (s1, some j) => s1.addHold ⟨gid, j, code, m, hdr, idx⟩
    | (_, none) => s.gangTrap c m t hdr idx

/-- A column core's thread held for the debugger at its word, where it stands stalled: it has no sub-gang, and its entry names number 0 and
the identity a first gang of its column would have (DESIGN CHOICE, log 27). -/
def State.holdCore (s : State) (n code : Nat) (h : Header) (hdr : Word64) (idx : Nat) : State :=
  if 64 ≤ s.se.dhold.length then s.takeTrap (.cc n) 1 { TrapInfo.plain 0x0C with code := code } h hdr idx
  else
    (s.modCtx (.cc n) fun c => c.modLane 0 fun y => { y with hw := some s.sel.hw, stalled := some (0x0C, false) }).addHold
      ⟨n * 2 ^ 26, 0, code, 1, hdr, idx⟩

end Sys2Proof.Machine
end

