-- ==== Sys2Proof/Machine/Schedule.lean ====
section
/-! DEFINITION. Paths and the fetch of their words: the instruction caches, the header check (02 R50; 06 R141, R142), and what a
fetch finds. -/

namespace Sys2Proof

namespace Machine

/-- A path: the agent and sub-gang, the PC, the lanes (R140). -/
structure Path where
  ctx : CtxId
  sub : Nat
  hdr : Word64
  idx : Nat
  lanes : Word64
  deriving DecidableEq, Repr

/-- What a fetch finds: bytes missing, a trap of the fetch, a page to migrate, a header that fails R50, a header at which the
debugger holds the path (20 R432), a PC past the block's words (log 18), or the word with its header. -/
inductive Fetched
  | miss (va : Word64)
  | trap (kind : Nat) (va : Word64)
  | migrate (va : Word64) (leaf : Leaf) (page : Nat)
  | header (kind : Nat)
  | hold
  | past (hw : Word64)
  | word (w : Nat) (hw : Word64)
  deriving DecidableEq, Repr

/-- The first byte of a range whose line is not in an instruction cache. -/
def State.icMissing (s : State) (cache va n : Nat) : Option Nat :=
  ((List.range n).map (va + ·)).find? fun a => (SMap.get none s.ms.icache (icKey cache a)).isNone

/-- The number of an agent's fetch of a line, among the accesses that wait for a link. -/
def fetchOp (c : CtxId) (line : Nat) : Nat := 2 ^ 80 + 2 ^ 60 * ctxKey c + line

/-- What a leaf allows a fetch beyond its X bit: what it allows any access, and no wait of 1 ms for another module (09 R211, R222; 16
R348). -/
def State.fetchJudge (s : State) (c : CtxId) (va : Nat) (t : Trans) : Trans :=
  match t with
  | .ok pa l =>
    if !s.leafAllows l pa false (s.isSup c) || (s.stopped pa && s.stopLate (fetchOp c (va / 128))) then .trap trapPermission else t
  | _ => t

/-- The translation of a fetch (R141). -/
def State.fetchPlace (s : State) (c : CtxId) (va : Nat) : State × Trans :=
  let r := s.translate (s.tlbsOf c) va .exec (!s.isSup c)
  (r.1, r.1.fetchJudge c va r.2)

/-- What keeps an agent from code at an address: the trap or the page that the translation of a line gives, whether or not its bytes are
held, or a line that is missing (R141, R50). -/
def State.fetchBar (s : State) (c : CtxId) (va n : Nat) : Option Fetched :=
  (linesOf va n).findSome? fun l =>
    let a := max va (128 * l)
    match (s.fetchPlace c a).2 with
    | .ok _ _ => if (s.icMissing (s.cacheOf c) a 1).isSome then some (.miss (BitVec.ofNat 64 a)) else none
    | .trap k => some (.trap k (BitVec.ofNat 64 (128 * l)))
    | .migrate lf => some (.migrate (BitVec.ofNat 64 a) lf (lf.pa a))
    | .wait => some (.miss (BitVec.ofNat 64 a))

/-- The header check of R50 on the lanes that have just moved to a header. -/
def headerTrap (hdr hw : Word64) : Option Nat :=
  let h := Header.ofWord hw
  if hdr.toNat % 16 ≠ 0 ∨ !h.valid then some trapTarget else if h.resv ≠ 0 then some trapIllegal else none

/-- The header word that the threads of a path hold since they moved into their block; none where one has just moved to the
header, or has been restored (R141; 17 R375). -/
def State.knownHeader (s : State) (p : Path) : Option Word64 :=
  let ls := lanesOf p.lanes
  if ls.any fun l => ((s.ctx p.ctx).lane l).fresh || ((s.ctx p.ctx).lane l).hw.isNone then none
  else ls.head?.bind fun l => ((s.ctx p.ctx).lane l).hw

/-- The fetch of the word of a path whose header is known (R141). -/
def State.fetchWord (s : State) (p : Path) (hw : Word64) : Fetched :=
  if (Header.ofWord hw).len ≤ p.idx then .past hw
  else
    let cache := s.cacheOf p.ctx
    let va := p.hdr.toNat + 8 + 10 * p.idx
    match s.fetchBar p.ctx va 10 with
    | some f => f
    | none => .word (leNat ((s.icBytes cache va 10).getD [])) hw

/-- The fetch of a path's next word, and of the header its threads have just moved to, with the check of R50 (R141). -/
def State.fetch (s : State) (p : Path) : Fetched :=
  let cache := s.cacheOf p.ctx
  match s.knownHeader p with
  | some hw => s.fetchWord p hw
  | none =>
    let fresh := (lanesOf p.lanes).any fun l => ((s.ctx p.ctx).lane l).fresh
    if p.hdr.toNat % 16 ≠ 0 then .header trapTarget
    else
      match s.fetchBar p.ctx p.hdr.toNat 8 with
      | some f => f
      | none =>
        let hw : Word64 := BitVec.ofNat 64 (leNat ((s.icBytes cache p.hdr.toNat 8).getD []))
        match (if fresh then headerTrap p.hdr hw else none) with
        | some k => .header k
        | none =>
          if fresh && !p.ctx.isCC && s.holdsLaunch (s.ctx p.ctx).handle then .hold else s.fetchWord p hw

/-- The path is selected for execution; its threads keep the header of their block. -/
def State.select (s : State) (p : Path) (hw : Word64) : State :=
  let s1 := s.modCtx p.ctx fun c => c.modLanes (lanesOf p.lanes) fun _ x => { x with hw := some hw }
  { s1 with sel := ⟨p.ctx, p.sub, p.lanes, hw⟩ }

/-- The threads of a path have their bubble and their waits behind them (R143, R144). -/
def State.threadsReady (s : State) (p : Path) : Bool :=
  (lanesOf p.lanes).all fun l =>
    let x := (s.ctx p.ctx).lane l
    decide (x.ready ≤ s.clk p.ctx) && decide (x.wait = .none)

/-- An agent issues at all: it runs, its column is clocked, and its block is not being moved (R144; 20 R417, R420). -/
def State.runs (s : State) (c : CtxId) : Bool :=
  let x := s.ctx c
  x.live && decide (s.pw.mstate ≠ 2 ∧ s.pw.entering ≠ 2) && decide (SMap.get 0 s.pw.cstate (s.colOf c) = 0) &&
  match c with
  | .cc _ => decide (x.run = .running)
  | .gang _ => !x.saving && !((s.launch? x.handle).map (fun l => l.ending || l.switched)).getD false

/-- The sub-gangs of an agent that issue on their own, the gang itself first (R152; 17 R368). -/
def Ctx.issuers (c : Ctx) : List Nat := 0 :: (SMap.keys c.subs).filter c.subRuns

/-- Threads at a PC past their block's words move to the next header (log 18). -/
def State.fallPast (s : State) (p : Path) (hw : Word64) : State :=
  let h := Header.ofWord hw
  let next := p.hdr + BitVec.ofNat 64 h.size
  ((s.modCtx p.ctx fun c => c.modLanes (lanesOf p.lanes) fun _ x => x.moveTo next).arrive p.ctx (lanesOf p.lanes)
    next).settle p.ctx

/-- Threads whose page is marked for migration wait for it, their PCs at the word (17 R376). -/
def State.waitPage (s : State) (c : CtxId) (m : Word64) (page : Nat) : State :=
  s.modCtx c fun x => x.modLanes (lanesOf m) fun _ y => { y with wait := .page page false }

/-- A line put into an instruction cache of 1,024 lines; where it is full a line goes, freely chosen among those whose block has
LH = 0 while there are any (R141, R142; the sets and their order are not given: log 37). -/
def State.putCode (s : State) (cache va : Nat) (x : CodeLine) : State :=
  let mine := s.ms.icache.filter fun p => decide (p.1 / 2 ^ 49 = cache ∧ p.1 ≠ icKey cache va)
  let soft := (mine.filter fun p => !(p.2.map CodeLine.last).getD false).map Prod.fst
  let ks := if soft.isEmpty then mine.map Prod.fst else soft
  let s1 : State := if mine.length < 1024 then s else
    { s with
      ms := { s.ms with icache := SMap.set none s.ms.icache (ks.getD ((Config.freeWord s.freeCtr).toNat % ks.length) 0) none }
      freeCtr := s.freeCtr + 1 }
  { s1 with ms := { s1.ms with icache := SMap.set none s1.ms.icache (icKey cache va) (some x) } }

/-- A line written into a core's instruction cache triggers an injection armed there, at a word of the line that is free (19 R413; log
23). -/
def State.injectCode (s : State) (cache va : Nat) : State :=
  match s.injectUse 3 (cache / 5) (cache % 5) true noGang with
  | (s1, some i) =>
    let w := 8 * ((Config.freeWord s1.freeCtr).toNat % 16)
    let flip (x : CodeLine) : CodeLine := { x with bytes := x.bytes.mapIdx fun k b => flipByte w k i.flips b }
    { s1 with
      freeCtr := s1.freeCtr + 1
      ms := { s1.ms with icache := SMap.modify none s1.ms.icache (icKey cache va) fun x => x.map flip } }
  | (s1, none) => s1

/-- A line of code as memory holds it: the home takes it back from an L1 that owns it (09 R226). `last` says of a block's header whether
the line is one of its own (R142). -/
def State.readCode (s : State) (cache va pa : Nat) (last : State → Bool) : State :=
  let base := pa / 128 * 128
  let s1 := (s.countAccess base).readHome base 128
  (s1.putCode cache va ⟨s1.bytesAt base 128, last s1⟩).injectCode cache va

/-- A line belongs to a block with LH = 1, by the block's header (R142). -/
def lhLine (hdr : Word64) (w : Word64) (line : Nat) : Bool :=
  headerOk w && (Header.ofWord w).lh && (linesOf hdr.toNat (Header.ofWord w).size).contains line

/-- A line belongs to a block with LH = 1 in which a thread of the agent stands (R142). -/
def State.hintedLine (c : CtxId) (line : Nat) (s : State) : Bool :=
  (SMap.keys (s.ctx c).lanes).any fun l =>
    let x := (s.ctx c).lane l
    x.act && !x.exited && (match (if x.fresh then none else x.hw) <|> s.peekHeader (s.cacheOf c) x.hdr.toNat with
      | some w => lhLine x.hdr w line
      | none => false)

/-- The line of a fetch read into an agent's instruction cache (R141). -/
def State.fillLine (s : State) (c : CtxId) (va : Nat) : State :=
  match s.fetchPlace c va with
  | (s', .ok pa _) => (s'.stopEnds (fetchOp c (va / 128))).readCode (s.cacheOf c) va pa (State.hintedLine c (va / 128))
  | (s', _) => s'

/-- A line that PF has asked for read, where a TLB holds its translation, a fetch of it would not trap, and a header that passes R50
stands there; else nothing is prefetched and nothing is seen (R142; 02 R52). -/
def State.prefetchLine (s : State) (c : CtxId) (va : Word64) : State :=
  let s1 : State := { s with ms := { s.ms with prefetch := s.ms.prefetch.filter fun p => p ≠ (c, va) } }
  match (s.tlbsOf c).findSome? fun t => tlbLookup s.ms.tlb t va.toNat with
  | some l =>
    (match s.fetchJudge c va.toNat (l.judge va.toNat .exec (!s.isSup c)) with
     | .ok pa _ =>
       let w : Word64 := BitVec.ofNat 64 (s.homeNat pa 8)
       if headerOk w && decide (va.toNat % 16 = 0) then s1.readCode (s.cacheOf c) va.toNat pa fun _ => lhLine va w (va.toNat / 128)
       else s1
     | _ => s1)
  | none => s1

/-- The lines of a block with LH = 1 are replaced last (R142). -/
def State.markLast (s : State) (cache : Nat) (hdr : Word64) (h : Header) : State :=
  if h.lh then
    { s with ms := { s.ms with icache := (linesOf hdr.toNat h.size).foldl (fun m l =>
        SMap.modify none m (icKey cache (128 * l)) fun x => x.map fun y => { y with last := true }) s.ms.icache } }
  else s

/-- What a header that has just been checked asks of the instruction cache: the first line of the block PF names, and the place of
its own lines (R142; 02 R48, R52). -/
def State.hints (s : State) (p : Path) (hw : Word64) : State :=
  let h := Header.ofWord hw
  let cache := s.cacheOf p.ctx
  let fresh := (lanesOf p.lanes).any fun l => ((s.ctx p.ctx).lane l).fresh
  let va := p.hdr + BitVec.ofInt 64 (16 * h.pf)
  let s1 := s.markLast cache p.hdr h
  if fresh && decide (h.pf ≠ 0) && !s1.ms.prefetch.contains (p.ctx, va) && (s1.icMissing cache va.toNat 8).isSome then
    { s1 with ms := { s1.ms with prefetch := s1.ms.prefetch ++ [(p.ctx, va)] } }
  else s1

/-- The translation of a path's word made as its fetch makes it, in the agent's TLBs (R141; 09 R213). -/
def State.fetchTouch (s : State) (p : Path) : State := (s.fetchPlace p.ctx (p.hdr.toNat + 8 + 10 * p.idx)).1

/-- The lines that the fetches of the machine wait for. -/
def State.wantedLines (s : State) : List (CtxId × Word64) :=
  (((SMap.keys s.ctxs).map ctxOfKey).filter s.runs).flatMap fun c =>
    (s.ctx c).issuers.flatMap fun j =>
      ((s.ctx c).paths j).filterMap fun p =>
        match s.fetch ⟨c, j, p.1, p.2.1, p.2.2⟩ with
        | .miss va => some (c, va)
        | _ => none

end Machine

end Sys2Proof
end

