-- ==== Sys2Proof/Machine/Complete.lean ====
section
/-! DEFINITION. Operations in flight as they are performed: LONG_LATENCY_COMPLETE and LEASE_HOLD_END, imprecise failures
(02 R65-R68; 09 R230; 10 R236-R252; 14 R316-R321; 15 R332-R346; 17 R370), and the events of the caches and homes (09
R226-R232; 13 R306-R308). -/

namespace Sys2Proof.Machine

/-- A pending operation. -/
def State.op? (s : State) (id : Nat) : Option MOp := s.ms.ops.find? fun o => o.id = id

/-- A pending operation replaced or, with `none`, removed. -/
def State.putOp (s : State) (id : Nat) (x : Option MOp) : State :=
  { s with ms := { s.ms with ops := s.ms.ops.filterMap fun o => if o.id = id then x else some o } }

/-- The drains of what lanes added before their last ddrains (13 R302, R312). -/
def Ctx.lanesOwe (x : Ctx) (m : Word64) : List (Nat × Nat × Nat) := (lanesOf m).flatMap fun l => (x.lane l).owes

/-- The drains that a release at a scope by these lanes waits for: those still to be done, at stack scope or wider (13 R302, R312). -/
def State.owedAt (s : State) (c : CtxId) (m : Word64) (sc : Scope) : List Tracker :=
  if 4 ≤ sc.code then s.owed ((s.ctx c).lanesOwe m) else []

/-- Everything a release at a scope by these lanes covers has been performed there (13 R302). -/
def State.released (s : State) (c : CtxId) (m : Word64) (sc : Scope) : Bool :=
  !(s.ms.ops.any fun o => decide (o.ctx = c) && (lanesOf (o.lanes &&& m)).any fun l => ((s.ctx c).lane l).covers o false) &&
  !s.fwdOpen c m s.opId sc && (s.owedAt c m sc).isEmpty

/-- A word that must wait for its lanes' release begins the drains it waits for (13 R302, R312). -/
def State.drainFirst (s : State) (is : Issue) (m : Word64) (sc : Scope) : Option Done :=
  if (s.owedAt is.ctx m sc).any fun t => !t.draining then some (.held (s.startOwed (s.owedAt is.ctx m sc)) is.path) else none

/-- The accesses that did not fail. -/
def MOp.good (o : MOp) : List Acc := o.accs.filter fun a => a.fail = 0

/-- The accesses that failed after issue. -/
def MOp.bad (o : MOp) : List Acc := o.accs.filter fun a => a.fail ≠ 0

/-- The lanes that failed: of a record store, all (10 R243). -/
def MOp.badLanes (o : MOp) : Word64 := maskOf fun l => o.bad.any fun a => a.lane = l

/-- Lanes that wait for an operation have their results (14 R319). -/
def State.wakeOp (s : State) (o : MOp) (m : Word64) : State :=
  let x := s.ctx o.ctx
  match (lanesOf m).findSome? fun l => match (x.lane l).wait with
      | .op id path => if id = o.id then some path else none
      | _ => none with
  | some path => s.doneWaiting o.ctx (maskOf fun l => m.getLsbD l && (match (x.lane l).wait with
      | .op id _ => decide (id = o.id)
      | _ => false)) path
  | none => s

/-- Lanes of an operation are done: their slots free, and with its last lane the operation goes (02 R65). -/
def State.endLanes (s : State) (o : MOp) (m : Word64) : State :=
  let left := o.accs.filter fun a => !m.getLsbD a.lane
  let s1 := s.putOp o.id (if left.isEmpty then none else some { o with accs := left, lanes := o.lanes &&& ~~~m })
  let s2 := if s1.alive o.ctx then s1.freeSlotBit o.ctx m o.slot else s1
  let s3 := s2.wakeOp o m
  if s3.alive o.ctx && !o.ctx.isCC then s3.settle o.ctx else s3

/-- Some of an operation's accesses are done; a lane is done with its last, and a record's lanes all with its one (02 R65; 10 R243). -/
def State.endAccs (s : State) (o : MOp) (as : List Acc) : State :=
  let left := o.accs.filter fun a => !as.contains a
  s.endLanes { o with accs := left } (if left.isEmpty then o.lanes else accLanes as &&& ~~~accLanes left)

/-! ### Performing one access -/

/-- The value of an access as its serialisation point holds it: an owning L1, or the home with what is dirty recalled
(10 R249; 14 R316). -/
def State.atPoint (s : State) (a : Acc) : Nat := s.homeNat a.pa a.n

/-- A value stored by an operation that acts at its serialisation point, whatever its scope (10 R249). -/
def State.putPoint (s : State) (o : MOp) (a : Acc) (v : Nat) : State :=
  s.writeAs (s.fillClass o.ctx) (s.cacheOf o.ctx) o.rt a.pa (leBytes a.n v)

/-- The drift region of an address, whether or not it is still valid. -/
def State.driftWas (s : State) (pa : Nat) : Option Nat :=
  match s.driftOf pa with
  | some i => some i
  | none => s.dr.table.findSome? fun p => if { p.2 with valid := true }.holds pa then some p.1 else none

/-- The drift region and the elements that an access is served by, where it is (10 R252; 15 R335, R337). A rec.ld is served as a plain
load is (DESIGN CHOICE, log 39: R252 and R337 name `ld`). -/
def State.accElems (s : State) (o : MOp) (a : Acc) : Option (Nat × List Nat) :=
  let plain := (s.driftOf a.pa).map fun i => (i, elemsIn (s.elemBytes i) a.pa a.n)
  if a.drop then none
  else
    match o.kind with
    | .dld _ => (s.driftWas a.pa).map fun i => (i, [a.pa])
    | .load _ => plain
    | .recLd _ => plain
    | .store => plain
    | .recSt => plain
    | .atom _ => plain
    | .red _ => plain
    | _ => none

/-- A load of one lane: zeros, the answers of its drift queries, or memory (10 R240, R252; 15 R337). -/
def State.loadAcc (s : State) (o : MOp) (a : Acc) : State × Nat :=
  if a.drop then (s, 0)
  else
    match s.accElems o a with
    | some p => (s, s.driftLoad o.id a.lane p.1 a.pa a.n)
    | none => s.performRead o a.pa a.n

/-- A tolerance load of one lane (15 R335, R344). -/
def State.dldAcc (s : State) (o : MOp) (a : Acc) : Nat :=
  if a.drop then 0
  else
    match s.queryFor o.id a.lane a.pa with
    | some q => (s.driftValue q).toNat
    | none => 0

/-- dqry: the tracker's magnitude and the share (15 R346). -/
def State.dqryAcc (s : State) (o : MOp) (a : Acc) : Nat :=
  match (if a.drop then none else s.driftWas a.pa) with
  | some i =>
    (match s.tracker? (s.cacheOf o.ctx) i with
     | some t => t.total.toNat + 2 ^ 32 * (ofUnits t.share).toNat
     | none => 0)
  | none => 0

/-- A clasp operation of one lane: the state with the result, or misuse (14 R317, R321). -/
def State.claspAcc (s0 : State) (o : MOp) (a : Acc) : Option (State × Nat) :=
  let s := s0.injectRead o.ctx a.pa 16
  let c := s.clasp a.pa
  match o.kind with
  | .claspInit => some (s.putClasp a.pa (c.init (bitsOf a.data 15 0) (bitsOf a.data 55 16)), 0)
  | .claspExpect => (c.expect a.data).map fun r => (s.putClasp a.pa r, 0)
  | .claspArrive => c.arrive.map fun r => (s.putClasp a.pa r, c.phase)
  | .claspTest => some (s.readHome a.pa 16, bit (decide (c.phase ≠ a.data)) + 2 ^ 32 * c.phase)
  | _ => some (s, 0)

/-- The position and scope a release leaves on its location: its own, and those of the release fences its thread has passed
(13 R305, R306). Another module's locations, the host's and the CXL pool's carry none (`releaseHolds`). -/
def State.leaveMarks (s : State) (o : MOp) (a : Acc) : State :=
  if 2 ^ 50 ≤ a.pa then s
  else
    let cache := s.cacheOf o.ctx
    let x := (s.ctx o.ctx).lane a.lane
    let owes := !x.owes.isEmpty
    let s1 := if o.ord.releases then s.markRelease cache a.pa a.n o.id o.sc owes else s
    (x.fences.filter fun f => f.ord.releases && decide (f.upto ≤ o.id)).foldl
      (fun s f => s.markRelease cache a.pa a.n f.upto f.sc (f.dr || owes)) s1

/-- One lane's access performed: the state and the value it returns (10 R238-R251). -/
def State.performAcc (s : State) (o : MOp) (a : Acc) : State × Nat :=
  match o.kind with
  | .load _ => s.loadAcc o a
  | .recLd _ => s.loadAcc o a
  | .atom op =>
    if a.drop then (s, 0)
    else
      let m := s.atPoint a
      (((s.injectRead o.ctx a.pa a.n).putPoint o a (atomValue op o.w m a.data a.data2)).leaveMarks o a, m)
  | .red op => (((s.injectRead o.ctx a.pa a.n).putPoint o a (atomValue op o.w (s.atPoint a) a.data a.data2)).leaveMarks o a, 0)
  | .prf =>
    if !cacheable a.pa then (s, 0)
    else if o.rt = .nc then (s.sliceFill (a.pa / 128), 0)
    else (s.loadCopies o.ctx (s.cacheOf o.ctx) o.rt (a.pa / 128), 0)
  | .home => (s, a.home)
  | .inv =>
    (match s.l1Line (s.cacheOf o.ctx) (a.pa / 128) with
     | some l => ((s.flushBytes l.dirty).putL1 l.cache l.line none, 0)
     | none => (s, 0))
  | .wb =>
    (match s.l1Line (s.cacheOf o.ctx) (a.pa / 128) with
     | some l => (((s.flushBytes l.dirty).putL1 l.cache l.line (some { l with dirty := [] })).leaveMarks o a, 0)
     | none => (s.leaveMarks o a, 0))
  | .dld _ => (s, s.dldAcc o a)
  | .dqry => (s, s.dqryAcc o a)
  | _ => (s, 0)

/-- The registers an operation's result takes (10 R240, R248; 14 R319; 15 R346). -/
def MOp.regs (o : MOp) : Nat :=
  match o.kind with
  | .claspTest => 2
  | .dqry => 2
  | .load _ => wRegs o.w
  | .atom _ => wRegs o.w
  | _ => 1

/-- An access's result written back: half of a load's where the access is one of two (02 R67; 10 R238). -/
def State.writeResult (s : State) (o : MOp) (a : Acc) (v : Nat) : State :=
  match o.reg with
  | some r => s.land o.ctx (regRes a.lane (r + a.off) v (if o.w = 4 ∧ a.n = 8 then 2 else o.regs))
  | none => s

/-- The lanes of one operation at one address, ascending, performed with nothing between them (10 R251): of a store the highest lane's
value remains; a store or a reduction that is accepted goes on its way as one. A rec.ld writes the slots of the side that issued it, by
the number it had then, also where its lanes have parked since (DESIGN CHOICE, log 39: R243 and R102 name no other copy); where that
number has gone to another sub-gang, no slot (02 R67; 04 R102). -/
def State.performLanes (s : State) (o : MOp) (as : List Acc) : State :=
  match as with
  | [] => s
  | a :: _ =>
    let last := (as.getLast?).getD a
    let marked (s : State) : State := as.foldl (fun s b => s.leaveMarks o b) s
    let each : State := as.foldl (fun s b =>
      let q := s.performAcc o b
      match o.kind with
      | .recLd slot => if s.alive o.ctx && decide (o.sub ≠ 17) then q.1.modCtx o.ctx fun c => c.putRecSlot o.sub slot (BitVec.ofNat 256 q.2) else q.1
      | _ => q.1.writeResult o b q.2) s
    match o.kind with
    | .store => marked (s.performWrite o as a.pa (leBytes a.n last.data))
    | .recSt => marked (s.performWrite o as a.pa (leBytes a.n last.data))
    | .red op =>
      if s.accepts o a then marked (s.accept o as a.pa (leBytes a.n 0) (as.map fun b => (op, o.w, b.data))) else each
    | _ => each

/-- Accesses performed, with their acquire, the end of their queries, and their slots (10 R251; 13 R303; 15 R337). -/
def State.performGroup (s : State) (o : MOp) (as : List Acc) : State :=
  let s1 := s.performLanes o as
  let s2 := if o.ord.acquires then s1.acquire o.ctx o.sc else s1
  let mine (q : DQuery) : Bool := decide (q.op = some o.id) && as.any fun a =>
    !a.drop && (elemsIn (s.elemBytes q.region) a.pa a.n).contains q.pa && (q.hold || decide (q.lane = a.lane))
  let queue := s2.ca.queue.filter fun q => !(decide (q.1 = o.id) && as.any fun a => a.pa = q.2)
  (({ s2 with ca := { s2.ca with queue := queue } } : State).endQueries mine).endAccs o as

/-! ### Drift operations (15) -/

/-- The queries of an operation's accesses made, or carried on (R252, R335, R337). -/
def State.startQueries (s : State) (o : MOp) (as : List Acc) : State :=
  as.foldl (fun s a =>
    match s.accElems o a with
    | some p =>
      let eps : Word := match o.kind with
        | .dld _ => BitVec.ofNat 32 a.data
        | _ => 0
      s.askElems o.id a.lane p.1 p.2 eps (if o.kind.writes then none else some (s.cacheOf o.ctx)) o.kind.writes
    | none => s) s

/-- Every drift query of an operation's accesses is answered. -/
def State.queriesDone (s : State) (o : MOp) (as : List Acc) : Bool :=
  as.all fun a => ((s.accElems o a).map fun p => s.elemsDone o.id a.lane p.2).getD true

/-- A dadd recorded after its thread passed `.drift` fences at stack scope or wider: they wait for its drain too (R312; 14 R318). -/
def State.coverDadd (s : State) (o : MOp) (lane region : Nat) : State :=
  let cache := s.cacheOf o.ctx
  let cov (f : Fence) : Bool := f.dr && decide (4 ≤ f.sc.code ∧ o.id < f.upto)
  match s.tracker? cache region with
  | some t =>
    if ((s.ctx o.ctx).lane lane).fences.any cov then
      let add (f : Fence) : Fence := if cov f then { f with drift := f.drift ++ [(cache, region, t.drains + 1)] } else f
      (s.modCtx o.ctx fun c => c.modLane lane fun x => { x with fences := x.fences.map add }).selfDrain cache region
    else s
  | none => s

/-- A lane's access of an operation replaced. -/
def State.setAcc (s : State) (id : Nat) (b : Acc) : State :=
  match s.op? id with
  | some p => s.putOp id (some { p with accs := p.accs.map fun c => if c.lane = b.lane then b else c })
  | none => s

/-- dadd: one lane's addition (R332, R343). The lane's access goes when it is recorded, and waits for its acknowledgement when it is sent
home. An entry that is no longer valid is a failure, but for an addition that has been held here: it is sent home (R329). -/
def State.daddAcc (s : State) (o : MOp) (a : Acc) : State × Bool :=
  let cache := s.cacheOf o.ctx
  let x : Word := BitVec.ofNat 32 a.data
  let sent (s : State) : State := s.setAcc o.id { a with home := 1 }
  let send (s : State) (i : Nat) : State := sent (s.sendHome cache i a.pa x o.id a.lane)
  match s.driftOf a.pa with
  | none =>
    (match (if a.held then s.driftWas a.pa else none) with
     | some i => (send s i, true)
     | none => (s.setAcc o.id { a with fail := trapPermission }, true))
  | some i =>
    if 4 ≤ o.sc.code then (send s i, true)
    else
      match s.addDelta cache i a.pa x o.id a.lane with
      | .held s1 => (s1.setAcc o.id { a with held := true }, false)
      | .sent s1 => (sent s1, true)
      | .recorded s1 =>
        (match s1.op? o.id with
         | some p => ((s1.endAccs p [a]).coverDadd o a.lane i, true)
         | none => (s1, true))

/-- dadd: each lane's addition, in ascending order at one element; a lane waits for what its thread did there before, and for the lanes
below it; with one of those it has reached the cache, and is held (R299; 10 R251; 15 R329, R343). -/
def State.daddAll (s : State) (o : MOp) : State :=
  ((o.good.filter fun a => a.home = 0).foldl (fun (r : State × List Nat × List Nat) a =>
    if r.2.2.contains a.pa then (r.1.setAcc o.id { a with held := true }, r.2)
    else if r.2.1.contains a.pa || r.1.earlierHolds o a then (r.1, a.pa :: r.2.1, r.2.2)
    else
      let q := r.1.daddAcc o a
      (q.1, r.2.1, if q.2 then r.2.2 else a.pa :: r.2.2)) (s, [], [])).1

/-- The drains still owed by a thread whose ddrain is done: of every region its cache still withholds from, for its later releases; those
that its later fences at stack scope or wider wait for are begun (13 R302, R312; 15 R345). -/
def State.oweDrains (s : State) (o : MOp) : State :=
  let cache := s.cacheOf o.ctx
  let ds := (s.withheld cache).map fun t => (cache, t.region, t.drains + 1)
  let wide (f : Fence) : Bool := f.ord.releases && decide (4 ≤ f.sc.code ∧ o.id < f.upto)
  let x := s.ctx o.ctx
  let s1 := if (lanesOf o.lanes).any fun l => (x.lane l).fences.any wide then s.startOwed (s.withheld cache) else s
  s1.modCtx o.ctx fun c => c.modLanes (lanesOf o.lanes) fun _ y => { y with
    drained := max y.drained o.id
    owes := (y.owes.filter fun d => d.1 ≠ cache) ++ ds
    fences := y.fences.map fun f => if wide f then { f with drift := f.drift ++ ds } else f }

/-- ddrain: each region the lanes name is drained once; the drain wanted of each is counted (R345). -/
def State.ddrainAll (s : State) (o : MOp) : State :=
  let cache := s.cacheOf o.ctx
  let earlier := s.ms.ops.any fun q => decide (q.kind = .dadd ∧ q.id < o.id ∧ q.ctx = o.ctx) && decide (q.lanes &&& o.lanes ≠ 0)
  if earlier then s
  else
    let rs := (o.good.filterMap fun a => s.driftWas a.pa).eraseDups
    let want := rs.filterMap fun i => match s.tracker? cache i with
      | some t => if t.draining then none else some (i, t.drains + 1)
      | none => some (i, 0)
    let mark (a : Acc) : Acc :=
      if a.home ≠ 0 then a
      else
        match s.driftWas a.pa with
        | some i => (match want.find? fun p => p.1 = i with
          | some p => { a with home := p.2 + 1 }
          | none => a)
        | none => { a with home := 1 }
    let fresh := want.filter fun p => o.good.any fun a => decide (a.home = 0) && decide (s.driftWas a.pa = some p.1)
    let s1 := s.putOp o.id (some { o with accs := o.accs.map mark })
    let s2 := fresh.foldl (fun s p => s.selfDrain cache p.1) s1
    let done (a : Acc) : Bool := decide (a.home ≠ 0) && (match s2.driftWas a.pa with
      | some i => (match s2.tracker? cache i with
        | some t => decide (a.home ≤ t.drains + 1)
        | none => true)
      | none => true)
    match s2.op? o.id with
    | some p =>
      if p.good.all done then (s2.oweDrains o).endLanes p o.lanes
      else s2
    | none => s2

/-! ### Clasp operations -/

/-- A lane of an operation as the source of a record. -/
def MOp.cmdId (o : MOp) (l : Nat) : CmdId where
  ctx := o.ctx
  handle := o.handle
  gid := match o.ctx with
    | .gang g => BitVec.ofNat 32 g
    | .cc _ => 0
  lane := l
  hdr := o.hdr
  idx := o.idx
  sup := false
  col := match o.ctx with
    | .gang g => g / 2 ^ 26 % 64
    | .cc n => n
  core := match o.ctx with
    | .gang g => g / 2 ^ 24 % 256
    | .cc n => 4 * n

/-- An arrival or an expectation that reaches a clasp in a saved arena: entered once what it releases has been performed and the table has
room; without a destination it completes then (14 R326). -/
def State.enterClasp (s : State) (o : MOp) (a : Acc) (home core off : Nat) : State :=
  let owed := s.owed ((s.ctx o.ctx).lane a.lane).owes
  if !owed.isEmpty then s.startOwed owed
  else if (s.cl.pend.any fun p => p.op = some (o.id, a.lane)) || s.pendFull home || s.fwdOpen o.ctx (1#64 <<< a.lane) o.id .module then s
  else
    let kind : PendKind := if o.kind = .claspArrive then .arrive else .expect
    let s1 := s.enterPend
      ⟨o.handle, core, off, kind, a.data, o.cmdId a.lane, o.rslot, if o.reg.isSome then some (o.id, a.lane) else none⟩
    if o.reg.isSome then s1 else s1.endAccs o [a]

/-- A clasp operation's lanes at one clasp performed in ascending order; misuse is a precise trap where it blocks, and a failure after
issue where it does not (14 R320, R321). -/
def State.claspGroup (s : State) (o : MOp) (as : List Acc) : State :=
  as.foldl (fun s a =>
    match s.op? o.id with
    | none => s
    | some p =>
      let m : Word64 := 1#64 <<< a.lane
      match s.claspAcc o a with
      | some (s1, v) =>
        let s2 := if o.kind = .claspTest then s1 else s1.leaveMarks o a
        let s3 := s2.writeResult o a v
        let s4 := if o.kind = .claspTest ∧ v % 2 = 1 then s3.acquire o.ctx o.sc else s3
        s4.endLanes p m
      | none =>
        if o.reg.isSome then
          let left := p.accs.filter fun b => b.lane ≠ a.lane
          let s1 := s.putOp o.id (if left.isEmpty then none else some { p with accs := left, lanes := p.lanes &&& ~~~m })
          (match ((s.ctx o.ctx).lane a.lane).wait.path? with
           | some path => s1.trapBlocked o.ctx m path ⟨trapClasp, 0, o.rslot, a.line, false, false⟩
           | none => s1)
        else s.putOp o.id (some { p with accs := p.accs.map fun b => if b.lane = a.lane then { b with fail := trapClasp } else b }))
    s

/-- A clasp operation's lanes at one clasp: performed there, or, in a saved arena, entered where they are arrivals or expectations, the
others waiting for the restore (14 R321, R326). -/
def State.claspWhere (s : State) (o : MOp) (as : List Acc) : State :=
  match s.claspAt o.handle ((as.head?.map Acc.pa).getD 0) with
  | .here => s.claspGroup o as
  | .gone => s.endAccs o as
  | .saved home core off =>
    if o.kind = .claspArrive ∨ o.kind = .claspExpect then
      as.foldl (fun s a => match s.op? o.id with
        | some p => s.enterClasp p a home core off
        | none => s) s
    else s

/-! ### The events of completion -/

/-- The accesses of an operation at one address, lanes ascending: they take effect together (10 R251). Others are independent of them
(R238). -/
def MOp.group (o : MOp) (k : Nat × Bool) : List Acc := o.good.filter fun a => (a.pa, a.drop) = k

def MOp.groupKeys (o : MOp) : List (Nat × Bool) := (o.good.map fun a => (a.pa, a.drop)).eraseDups

/-- The request type under which a thread's access reads a line at its home or fetches it for its cache; none for one that the home slice
takes or that reads nothing (18 R394). An atomic that acts at its home is answered by no cache of its thread's (10 R249). -/
def State.fetchRt (s : State) (o : MOp) (a : Acc) : Option Rt :=
  let own := decide (o.rt = .own) && (s.driftOf a.pa).isNone
  match o.kind with
  | .load _ => some o.rt
  | .recLd _ => some o.rt
  | .prf => some o.rt
  | .dld _ => some .nc
  | .atom _ => some (if own then .own else .nc)
  | .red _ => if s.accepts o a then none else some (if own then .own else .nc)
  | .store => if own then some .own else none
  | .recSt => if own then some .own else none
  | .claspArrive => some .nc
  | .claspExpect => some .nc
  | .claspTest => some .nc
  | _ => none

/-- A thread's access reaches a memory controller (18 R394). -/
def State.reaches (s : State) (o : MOp) (a : Acc) : Bool :=
  !a.drop && cacheable a.pa && (s.fetchRt o a).any fun rt => s.lineMisses (s.cacheOf o.ctx) rt a.pa a.n

/-- The controller of an address: its stack, its tier, and the quarter, half or stripe of it (18 R391). -/
def controller (pa : Nat) : Nat × Nat × Nat :=
  let t := pa / 2 ^ 46 % 4
  (pa / 2 ^ 44 % 4, t, if t = 0 then bitsOf pa 8 7 else if t = 1 then bitsOf pa 16 16 else bitsOf pa 28 24)

/-- A thread's access waits for a slot: at the controller of a resource that is taken, or behind one that came there before it (18
R394). -/
def State.slotHolds (s : State) (o : MOp) (a : Acc) : Bool :=
  s.reaches o a && (s.taken a.pa ||
    (s.ca.queue.takeWhile fun q => q ≠ (o.id, a.pa)).any fun q => decide (controller q.2 = controller a.pa) &&
      (s.op? q.1).any fun p => p.accs.any fun b => decide (b.pa = q.2) && !s.accHeld p b)

/-- Accesses at one address that cannot go on yet: what the memory model puts before them is outstanding, a slot takes the resource
they reach, or the link to another module signals stop (R65; 16 R351; 18 R394). -/
def State.groupHeld (s : State) (o : MOp) (as : List Acc) : Bool := as.any fun a => s.accHeld o a || s.slotHolds o a || s.stopped a.pa

/-- Accesses that wait for drains which have still to begin (13 R302, R312). -/
def State.mustDrain (s : State) (o : MOp) (as : List Acc) : Bool := as.any fun a => (s.owedFor o a).any fun t => !t.draining

/-- Accesses that come to a controller now and queue there (18 R394). -/
def State.mustQueue (s : State) (o : MOp) (as : List Acc) : Bool :=
  as.any fun a => s.slotHolds o a && !s.accHeld o a && !s.ca.queue.contains (o.id, a.pa)

/-- They queue at their controller; what has gone from the module leaves the queue. -/
def State.joinQueue (s : State) (o : MOp) (as : List Acc) : State :=
  { s with ca := { s.ca with queue := (s.ca.queue.filter fun q => (s.op? q.1).isSome) ++ (as.map fun a => (o.id, a.pa)).eraseDups } }

/-- An operation of which no access can go on yet. -/
def State.opHeld (s : State) (o : MOp) : Bool :=
  match o.kind with
  | .dadd => (o.good.filter fun a => a.home = 0).all (s.earlierHolds o)
  | .ddrain => o.good.any (s.earlierHolds o)
  | _ => o.groupKeys.all fun k => s.groupHeld o (o.group k) && !s.mustDrain o (o.group k) && !s.mustQueue o (o.group k)

/-- A lease holds accesses at their home: a conflict, at which their region splits (09 R227, R230). -/
def State.noteHeld (s : State) (o : MOp) (as : List Acc) : State :=
  match as with
  | [] => s
  | a :: _ =>
    if as.all Acc.held then s
    else (s.putOp o.id (some { o with accs := o.accs.map fun b => if as.contains b then { b with held := true } else b })).splitRegion
      a.pa

/-- Accesses at one address carried on: the drains that a release waits for begun, their drift queries made, or, once those are answered and no lease holds them, performed (R65;
09 R230; 15 R335). -/
def State.goGroup (s : State) (id : Nat) (k : Nat × Bool) : State :=
  match s.op? id with
  | none => s
  | some o =>
    let as := o.group k
    if s.mustDrain o as then s.startOwed (as.flatMap (s.owedFor o))
    else if s.mustQueue o as then s.joinQueue o as
    else if s.groupHeld o as then s
    else if !s.queriesDone o as then s.startQueries o as
    else if as.any (s.leaseHolds o) then s.noteHeld o as
    else
      match o.kind with
      | .claspInit => s.claspWhere o as
      | .claspArrive => s.claspWhere o as
      | .claspExpect => s.claspWhere o as
      | .claspTest => s.claspWhere o as
      | _ => s.performGroup o as

/-- The operation's own events carry it on (R65): drift operations step by step, the others address by address. -/
def State.complete (s : State) (o : MOp) : State :=
  match o.kind with
  | .dadd => s.daddAll o
  | .ddrain => if s.opHeld o then s else s.ddrainAll o
  | _ => o.groupKeys.foldl (fun s k => s.goGroup o.id k) s

/-- LONG_LATENCY_COMPLETE (02 R65). -/
def execLongLatencyComplete (id : Nat) (s : State) : Host.Outcome State Fault Refusal :=
  match s.op? id with
  | some o => ret (s.complete o)
  | none => .next s

/-- LEASE_HOLD_END: the home's time has passed the lease that held an operation (09 R230). -/
def execLeaseHoldEnd (id : Nat) (s : State) : Host.Outcome State Fault Refusal :=
  match s.op? id with
  | some o => if o.good.any (s.leaseHolds o) then .next s else ret (s.complete o)
  | none => .next s

/-- The failures of an operation, one for each trap kind, ascending. -/
def MOp.failKinds (o : MOp) : List (Nat × Word64 × Word64) :=
  (List.range 16).filterMap fun k =>
    match o.bad.filter fun a => a.fail = k with
    | [] => none
    | a :: r => some (k, maskOf fun l => (a :: r).any fun b => b.lane = l, a.line)

/-- An operation's failed lanes reported (17 R370, R371): a column core traps, a launch that ends at its first trap ends,
lanes that have exited get their record at once, and the others park at the next point that R370 names. -/
def State.reportFail (s : State) (o : MOp) (k : Nat) (m line : Word64) : State :=
  match o.ctx with
  | .cc n =>
    let x := (s.ctx o.ctx).lane 0
    s.ccTrap n ⟨k, 0, o.rslot, line, true, false⟩ o.hdr o.idx (x.hdr, x.idx)
  | .gang g =>
    let x := s.ctx o.ctx
    let gone := !x.live
    let out := maskOf fun l => m.getLsbD l && (gone || (x.lane l).exited)
    let on := m &&& ~~~out
    let col := s.colOf o.ctx
    let q := s.launchQueue o.handle col
    let rec0 : FaultRec := { FaultRec.base k o.handle out o.hdr o.idx (BitVec.ofNat 32 g) with
      imp := true, post := true, slot := o.rslot, line := line }
    let s1 := if out = 0 then s else s.launchFault o.handle k q (g / 2 ^ 26) rec0
    if on = 0 then s1
    else if s1.fpol o.handle = 1 then s1.gangTrap o.ctx on ⟨k, 0, o.rslot, line, true, false⟩ o.hdr o.idx
    else
      let f : Fail := ⟨k, o.hdr, o.idx, line, o.rslot, o.slot⟩
      (s1.modCtx o.ctx fun c => c.modLanes (lanesOf on) fun _ y => { y with fails := y.fails ++ [f] }).parkAtRb o.ctx

/-- The accesses of an operation that failed after issue are reported and done (10 R236). -/
def State.reportFails (s : State) (o : MOp) : State :=
  let m := o.badLanes
  let s1 := s.putOp o.id (if o.good.isEmpty then none else some { o with accs := o.good, lanes := o.lanes &&& ~~~m })
  let s2 := if s1.alive o.ctx then s1.freeSlotBit o.ctx m o.slot else s1
  let s3 := o.failKinds.foldl (fun s f => s.reportFail o f.1 f.2.1 f.2.2) s2
  if s3.alive o.ctx && !o.ctx.isCC then s3.settle o.ctx else s3

/-- A failure is taken now: a column core's between two of its instructions, not inside one that it has issued or that the debugger holds
it at (17 R370; 19 R400; log 36). -/
def State.failDue (s : State) (o : MOp) : Bool :=
  let y := (s.ctx o.ctx).lane 0
  !o.bad.isEmpty && (!o.ctx.isCC || (y.stalled.isNone && (match y.wait with
    | .none => true
    | .page _ _ => true
    | _ => false)))

/-- IMPRECISE_STORE_FAULT (10 R236). -/
def execImpreciseStoreFault (id : Nat) (s : State) : Host.Outcome State Fault Refusal :=
  match s.op? id with
  | none => .next s
  | some o => if s.failDue o then ret (s.reportFails o) else .next s

/-- FIXED_LATENCY_WRITEBACK: the results that are due enter their registers (02 R62). -/
def execFixedLatencyWriteback (c : CtxId) (s : State) : Host.Outcome State Fault Refusal :=
  .next (s.modCtx c fun x => x.writeBack (s.clk c))

/-- A fetch waits: its walk has to, its link holds it, or it is at the controller of a resource that a slot takes, where the home slice
has not got the line (16 R351; 18 R393, R394). -/
def State.fetchHeld (s : State) (c : CtxId) (va : Nat) : Bool :=
  match (s.fetchPlace c va).2 with
  | .ok pa _ => s.stopped pa || (s.taken pa && !s.sliceFull (pa / 128))
  | .wait => true
  | _ => false

/-- A fetch that waits for its link begins to. -/
def State.noteFetch (s : State) (c : CtxId) (va : Nat) : State :=
  match (s.fetchPlace c va).2 with
  | .ok pa _ => if s.stopped pa then s.stopBegins (fetchOp c (va / 128)) else s
  | _ => s

/-- INSTRUCTION_FETCH_FILL: a line of code that a path waits for, or that PF has asked for, enters an agent's instruction cache (06 R141,
R142). -/
def execInstructionFetchFill (c : CtxId) (va : Word64) (s : State) : Host.Outcome State Fault Refusal :=
  if s.fetchHeld c va.toNat then .next (s.noteFetch c va.toNat)
  else ret (if s.ms.prefetch.contains (c, va) then s.prefetchLine c va else s.fillLine c va.toNat)

/-! ### The caches and the homes -/

/-- OWNER_RECALL: the home takes a line back from the L1 that owns it; the owner keeps a clean copy (09 R226). -/
def execOwnerRecall (line : Nat) (s : State) : Host.Outcome State Fault Refusal := ret (s.recall none line false)

/-- The `.own` writes that wait to own a line. -/
def State.ownWriters (s : State) (cache line : Nat) : List MOp :=
  s.ms.ops.filter fun o => o.kind.writes && decide (o.rt = .own ∧ s.cacheOf o.ctx = cache) &&
    o.good.any fun a => !a.drop && decide (a.pa / 128 = line)

/-- A cache has asked to own a line: it holds a shared copy, or had one that the home has invalidated since, and an `.own` write waits for
it (09 R232). -/
def State.wantsLine (s : State) (cache line : Nat) : Bool :=
  match s.l1Line cache line with
  | some l => decide (l.kind = .shared)
  | none => !(s.ownWriters cache line).isEmpty

/-- The retention class of an ownership fill: of the first gang that waits for the line (R217). -/
def State.upgradeClass (s : State) (cache line : Nat) : Nat := ((s.ownWriters cache line).head?.map fun o => s.fillClass o.ctx).getD 0

/-- UPGRADE: a sharer becomes the owner, once no lease of the region holds it back; with its copy gone it is a read-for-ownership (09
R217, R230, R232). -/
def execUpgrade (cache line : Nat) (s : State) : Host.Outcome State Fault Refusal :=
  if s.leaseLive (line * 128) || isWeight (line * 128) || !cacheable (line * 128) || !s.wantsLine cache line ||
      s.lineHeld cache .own (line * 128) 128 then .next s
  else ret (s.takeOwner (s.upgradeClass cache line) cache line)

/-- A region's record that an owner's may take in at a time: its leases have ended, and nobody shares it (09 R227). -/
def Region.bare (r : Region) (ns : Nat) : Bool := decide (r.leaseEnd ≤ ns ∧ r.sharers = 0)

/-- Two sibling halves of a region, owned by nobody, or by one L1 between them and then neither leased nor shared (09 R227). -/
def Region.mergesWith (a b : Region) (ns : Nat) : Bool :=
  decide (a.size = b.size ∧ b.base = a.base + a.size ∧ a.size < 2 ^ 16 ∧ a.base % (2 * a.size) = 0) &&
  ((a.owner.isNone && b.owner.isNone) ||
    ((decide (a.owner = b.owner) || a.owner.isNone || b.owner.isNone) && a.bare ns && b.bare ns))

/-- REGION_MERGE: two halves without a conflict for the quiet time become one region again, with the later lease ends and
the union of their masks (09 R227, R228). -/
def execRegionMerge (base size : Nat) (s : State) : Host.Outcome State Fault Refusal :=
  let a := s.region base
  let b := s.region (base + a.size)
  let quiet := 1000 * max 1 (field (s.sysGet SysReg.quiet 0) 15 0)
  if a.base = base ∧ a.size = size ∧ a.mergesWith b s.ns ∧ a.conflict + quiet ≤ s.ns ∧ b.conflict + quiet ≤ s.ns then
    let rest := s.ms.regions.filter fun q => !decide (q = a ∨ q = b)
    let r : Region := { a with
      size := 2 * a.size, sharers := a.sharers ||| b.sharers, owner := a.owner <|> b.owner, conflict := max a.conflict b.conflict }
    let m := if r.owner.isSome then { r with leases := [] } else b.leases.foldl (fun r l => r.addLease l.1 l.2) r
    .next { s with ms := { s.ms with regions := rest ++ [m] } }
  else .next s

/-- The guard band of a cache's grants: the least of those whose copies it holds, or what it would be granted now (09 R229, R231). -/
def State.grantBand (s : State) (cache : Nat) : Nat :=
  let bands := s.ms.l1.filterMap fun l => match l.kind with
    | .lease _ b => if l.cache = cache then some b else none
    | _ => none
  match bands with
  | [] => s.guardBand cache
  | b :: r => r.foldl min b

/-- TIME_SKEW: a cache's time leaves the guard band of its grants; it drops its lease copies, its leases hold writes no
longer, and a machine event is posted (09 R231). -/
def execTimeSkew (cache : Nat) (skew : Int) (s : State) : Host.Outcome State Fault Refusal :=
  let col := cache / 5
  if 320 ≤ cache ∨ skew.natAbs ≤ s.grantBand cache then .next s
  else
    let l1 := s.ms.l1.filter fun l => !(decide (l.cache = cache) && (match l.kind with
      | .lease _ _ => true
      | _ => false))
    let regions := s.ms.regions.map fun r => { r with leases := r.leases.filter fun l => l.1 ≠ cache }
    let ms := { s.ms with skewed := SMap.set false s.ms.skewed cache true, l1 := l1, regions := regions }
    ret (({ s.setSkew cache skew with ms := ms } : State).machineEvent col col 0 0x03 0 0)

/-- TIME_SKEW_RECOVERED: the cache's clock is within 4 ns of the tree again; it takes new leases once its time, which never decreases, is
(09 R231; 18 R387). -/
def execTimeSkewRecovered (x : CacheSkew) (s : State) : Host.Outcome State Fault Refusal :=
  if 4 < x.skew.natAbs then .next s
  else
    let s1 := s.setSkew x.cache x.skew
    if s.ns + 4 < (s1.gtime x.cache).toNat then .next s1
    else .next { s1 with ms := { s1.ms with skewed := SMap.set false s1.ms.skewed x.cache false } }

/-- Marks whose caches have nothing outstanding any more (13 R306). -/
def State.dropMarks (s : State) : State := { s with ms := { s.ms with marks := s.ms.marks.filter s.markOpen } }

/-- WRITE_FORWARD_APPLY: an accepted write goes one stage towards its home (13 R308). -/
def execWriteForwardApply (id : Nat) (s : State) : Host.Outcome State Fault Refusal :=
  match s.ms.fwd.find? fun f => f.id = id with
  | some f => if s.fwdBehind f then .next s else ret (s.forward f).dropMarks
  | none => .next s

/-- A cache sends its accepted writes up to a position one stage further, with the deltas a release covered (13 R306). -/
def State.publish (s : State) (cache upto : Nat) : State :=
  let s1 := s.publishWrites cache upto
  if s.ms.marks.any fun k => decide (k.cache = cache) && k.drift then
    (s1.dr.trackers.filter fun t => t.cache = cache).foldl (fun s t => s.selfDrain cache t.region) s1
  else s1

/-- FORCED_PUBLISH (13 R306). -/
def execForcedPublish (cache upto : Nat) (s : State) : Host.Outcome State Fault Refusal := ret (s.publish cache upto)

end Sys2Proof.Machine
end

