-- ==== Sys2Proof/Machine/LaunchUnit.lean ====
section
/-! DEFINITION. The launch units' records, placement, bins, register blocks and arenas, teams, spill entries, and how a
thread ends (04 R106-R112; 05 R113-R129, R131). -/

namespace Sys2Proof

/-- The free blocks of a buddy tree: the largest aligned free blocks of [base, base + 2^k), in address order (05 R127). -/
def buddyFree (occ : List (Nat × Nat)) (floor : Nat) : Nat → Nat → List (Nat × Nat)
  | 0, base =>
    if occ.any fun o => decide (o.1 < base + 1 ∧ base < o.1 + o.2) then [] else [(base, 1)]
  | k + 1, base =>
    let n := 2 ^ (k + 1)
    if !(occ.any fun o => decide (o.1 < base + n ∧ base < o.1 + o.2)) then [(base, n)]
    else if n ≤ floor then []
    else buddyFree occ floor k base ++ buddyFree occ floor k (base + 2 ^ k)

/-- A block of a size: the lowest free block of that size, else the start of the lowest larger one (05 R127). -/
def buddyTake (free : List (Nat × Nat)) (size : Nat) : Option Nat :=
  match free.find? fun b => b.2 = size with
  | some b => some b.1
  | none => (free.find? fun b => size < b.2).map Prod.fst

/-- The smallest k ≤ n with v ≤ 2^k. -/
def ceilLog (v : Nat) : Nat → Nat
  | 0 => 0
  | n + 1 => if v ≤ 2 ^ (ceilLog v n) then ceilLog v n else n + 1

/-- SEQ a precedes SEQ b in a line's wrapping order (R115). -/
def seqBefore (a b : Nat) : Bool :=
  let d := (b + (2 ^ 32 - 1) - a % (2 ^ 32 - 1)) % (2 ^ 32 - 1)
  decide (1 ≤ d ∧ d ≤ 2 ^ 31 - 1)

namespace Machine

/-! ### Launch-signal lines and handles (R113-R116) -/

def State.launchLine (s : State) (col line : Nat) : LaunchLine := SMap.get LaunchLine.idle s.la.lines (16 * col + line)

def State.putLaunchLine (s : State) (col line : Nat) (x : LaunchLine) : State :=
  { s with la := { s.la with lines := SMap.set LaunchLine.idle s.la.lines (16 * col + line) x } }

/-- A handle (R115). -/
def handleOf (col line seq : Nat) (rej : Bool) : Word64 :=
  BitVec.ofNat 64 (seq * 2 ^ 32 + bit rej * 2 ^ 31 + 16 * col + line)

/-- The column and line of a handle (R115). -/
def handleCol (h : Word64) : Nat := field h 9 4
def handleLine (h : Word64) : Nat := field h 3 0
def handleSeq (h : Word64) : Nat := field h 63 32

/-- Bytes of a line replaced. -/
def LaunchLine.put (x : LaunchLine) (off : Nat) (bs : List Byte) : LaunchLine :=
  { x with bytes := (bs.mapIdx fun i b => (off + i, b)).foldl (fun m p => SMap.set 0 m p.1 p.2) x.bytes }

/-- The record in a line. -/
def LaunchLine.record (x : LaunchLine) : List Byte := (List.range 128).map fun i => SMap.get 0 x.bytes i

/-- The bytes of a line as they read: bytes 120-127 give the GO value while Pending, else the last handle taken (R114). -/
def LaunchLine.read (x : LaunchLine) : List Byte := if x.pending then x.record else x.record.take 120 ++ leBytes 8 x.taken.toNat

/-- A nonzero GO written to an Idle line: Pending, with the next SEQ; the handle (R113-R115). -/
def State.goWrite (s : State) (col line : Nat) (go : Word64) : State × Word64 :=
  let x := s.launchLine col line
  if go = 0 then (s, 0)
  else
    let q := if x.seq + 1 < 2 ^ 32 then x.seq + 1 else 1
    (s.putLaunchLine col line { (x.put 120 (leBytes 8 go.toNat)) with pending := true, seq := q }, handleOf col line q false)

/-- A write to a line: held while it is Pending; else bytes 0-119, or GO at byte 120 (R113, R114). -/
def State.lineWrite (s : State) (col line off : Nat) (bs : List Byte) : State :=
  let x := s.launchLine col line
  if x.pending then s.putLaunchLine col line { x with held := x.held ++ [(off, bs)] }
  else if off = 120 then (s.goWrite col line (BitVec.ofNat 64 (leNat bs))).1
  else s.putLaunchLine col line (x.put off bs)

/-- A line is Idle again: the writes held meanwhile are performed in order (R114). -/
def State.lineIdle (s : State) (col line : Nat) (taken : Word64) : State :=
  let x := s.launchLine col line
  x.held.foldl (fun s w => s.lineWrite col line w.1 w.2)
    (s.putLaunchLine col line { x with pending := false, taken := taken, held := [] })

/-- A field of a record. -/
def recNat (r : List Byte) (off n : Nat) : Nat := leNat ((r.drop off).take n)

/-- The fields' limits (04 R107), but for PRED's, which have a cause of their own (19 R416; log 31). -/
def recordOk (r : List Byte) : Bool :=
  let ex := recNat r 8 4
  let ey := recNat r 12 4
  let ez := recNat r 16 4
  let mode := recNat r 27 1
  let aff := recNat r 26 1
  decide (recNat r 0 8 % 16 = 0 ∧ recNat r 0 8 < 2 ^ 56) && decide (1 ≤ ex ∧ 1 ≤ ey ∧ 1 ≤ ez ∧ ex * ey * ez ≤ 2 ^ 32 - 1) &&
  decide (recNat r 20 4 % 4096 = 0 ∧ recNat r 20 4 ≤ 2 ^ 21) && decide (recNat r 24 1 ≤ 4 ∧ recNat r 25 1 ≤ 7 ∧ aff < 4) &&
  decide (mode < 16 ∧ mode / 4 ≤ 1) && decide (recNat r 28 2 ≤ 255 ∧ recNat r 30 2 = 0) && decide (recNat r 32 8 % 8 = 0) &&
  decide (recNat r 56 8 % 32 = 0 ∧ recNat r 64 8 < 2 ^ 56) &&
  (decide (aff ≠ 2) || decide (1 ≤ recNat r 72 4 ∧ recNat r 72 4 ≤ 65536 ∧ recNat r 76 4 = 0)) &&
  decide (recNat r 84 4 = 0) && decide (recNat r 96 24 = 0)

/-- The address a leaf gives hardware at user level, where it allows the access: MIG is not looked at, the weight store's state and a peer's
reach are (R108; 09 R222; 16 R348). -/
def State.unitLeaf (s : State) (l : Leaf) (pa : Nat) (k : AccKind) : Option Nat :=
  if s.leafAllows l pa (decide (k = .write)) false then some pa else none

/-- A field of a record as a launch unit reaches it: user level, through the slice's TLB (R108); nothing also where a walk has to wait
(`unitWaits`). -/
def State.unitPlace (s : State) (col va : Nat) (k : AccKind) : State × Option Nat :=
  match s.translate [256 + col] va k true with
  | (s1, .ok pa l) => (s1, s1.unitLeaf l pa k)
  | (s1, .migrate l) => (s1, s1.unitLeaf l (l.flat va) k)
  | (s1, _) => (s1, none)

/-- A walk that a launch unit needs for one of some addresses has to wait (18 R393). -/
def State.unitWaits (s : State) (col : Nat) (vas : List Nat) (k : AccKind) : Bool :=
  vas.any fun va => match (s.translate [256 + col] va k true).2 with
    | .wait => true
    | _ => false

/-- The virtual addresses of the argument block's words (04 R108). -/
def argAddrs (va : Nat) : List Nat := if va = 0 then [] else (List.range 16).map fun i => va + 8 * i

/-- The places of the argument block's 16 words, each translated for read; none of them where there is no block (04 R108). -/
def State.argPlaces (s : State) (col va : Nat) : State × Option (List Nat) :=
  (argAddrs va).foldl (fun (r : State × Option (List Nat)) a =>
    let q := r.1.unitPlace col a .read
    (q.1, r.2.bind fun xs => q.2.map fun pa => xs ++ [pa])) (s, some [])

/-- The number of a launch among the readers that make drift queries. -/
def unitOp (h : Word64) : Nat := 2 ^ 66 + h.toNat

/-- Bytes that a launch unit reads at their homes for a launch: a module-scope acquire where `acq` holds; nothing yet where it has to wait
(04 R108, R111; 13 R305). -/
def State.unitRead (s : State) (h : Word64) (acq : Bool) (n : Nat) (pas : List Nat) : State × Option (List Nat) :=
  let as : List EAcc := pas.map fun pa => ⟨.ok pa 0, n, .nc, false⟩
  let z := s.engineReady (unitOp h) true (.all (handleCol h)) acq as
  if !z.2 then (z.1, none)
  else
    let r := z.1.engineReads (unitOp h) (.all (handleCol h)) as
    (r.1.engineDone (unitOp h), some r.2)

/-- The present cores of a column (04 R105). -/
def State.coresOf (s : State) (col : Nat) : List Nat := ((List.range 4).map (4 * col + ·)).filter s.corePresent

/-- The column, or the next in ascending order with a present core (04 R112). -/
def State.presentColumn (s : State) (col : Nat) : Option Nat :=
  ((List.range 64).map fun i => (col + i) % 64).find? fun c => !(s.coresOf c).isEmpty

/-- A PRED that a record may name: in the form of a handle, not after its line's count, not the launch itself (R107, R115,
R116). -/
def State.predOk (s : State) (pred own : Word64) : Bool :=
  pred = 0 ||
    decide (pred.toNat / 2 ^ 10 % 2 ^ 21 = 0 ∧ handleSeq pred ≠ 0) &&
    (let x := s.launchLine (handleCol pred) (handleLine pred)
     (decide (handleSeq pred = x.seq) || seqBefore (handleSeq pred) x.seq) && decide (pred ≠ own))

/-- A walk for a record that is being taken has to wait (18 R393). -/
def State.recordWaits (s : State) (col : Nat) (r : List Byte) : Bool :=
  let sp := recNat r 56 8
  recordOk r && (s.unitWaits col [recNat r 0 8] .exec || s.unitWaits col (argAddrs (recNat r 32 8) ++ if sp = 0 then [] else [sp]) .read)

/-- Why a record is rejected, in the order of R416's causes as its rules stand: field limits, faults, no core, PRED,
SPILL (R108, R112, R116). -/
def State.rejectCause (s : State) (col : Nat) (r : List Byte) (own : Word64) : State × Option Nat × Rec256 :=
  if !recordOk r then (s, some 1, 0)
  else
    let e := s.unitPlace col (recNat r 0 8) .exec
    let a := e.1.argPlaces col (recNat r 32 8)
    let sp := recNat r 56 8
    let q := if sp = 0 then (a.1, some 0) else a.1.unitPlace col sp .read
    let p : State × Option Nat := (if sp = 0 then q.1 else q.1.readHome (q.2.getD 0) 32, q.2)
    let spill : Rec256 := BitVec.ofNat 256 (if sp = 0 then 0 else p.1.homeNat (q.2.getD 0) 32)
    if e.2.isNone || a.2.isNone || p.2.isNone then (p.1, some 2, 0)
    else if (p.1.presentColumn 0).isNone then (p.1, some 4, 0)
    else if !p.1.predOk (BitVec.ofNat 64 (recNat r 48 8)) own then (p.1, some 3, 0)
    else if sp ≠ 0 && !(Rec256.valid spill && decide (Rec256.space spill = 0 ∧ Rec256.es spill = 4)) then (p.1, some 5, 0)
    else (p.1, none, spill)

/-- A completion record posted (R116, R121; 19 R416). -/
def State.postCompletion (s : State) (evq col status cause : Nat) (h tag : Word64) : State :=
  s.postEvent evq col 0x80 status cause 0 h tag

/-- A launch's fields. -/
def Launch.ext (l : Launch) : Nat × Nat × Nat := (l.recNat 8 4, l.recNat 12 4, l.recNat 16 4)
def Launch.total (l : Launch) : Nat := l.ext.1 * l.ext.2.1 * l.ext.2.2
def Launch.col (l : Launch) : Nat := handleCol l.handle
def Launch.evq (l : Launch) : Nat := l.recNat 28 2
def Launch.tag (l : Launch) : Word64 := BitVec.ofNat 64 (l.recNat 88 8)
def Launch.entry (l : Launch) : Word64 := BitVec.ofNat 64 (l.recNat 0 8)
def Launch.arenaSize (l : Launch) : Nat := l.recNat 20 4
def Launch.regs (l : Launch) : Nat := l.recNat 24 1
def Launch.pred (l : Launch) : Word64 := BitVec.ofNat 64 (l.recNat 48 8)
def Launch.trigMode (l : Launch) : Bool := decide (l.recNat 27 1 / 2 % 2 = 1)

/-! ### Affinity (04 R109-R112) -/

/-- Mode 0: the coordinate hash. -/
def hashColumn (x y z : Nat) : Nat := (x * 0x9E3779B1 + y * 0x85EBCA77 + z * 0xC2B2AE3D) % 2 ^ 32 / 2 ^ 26

/-- The home of a virtual address for placement, or none where mode 0 takes over (R110). The state of a weight region is not looked at:
nothing is read there (DESIGN CHOICE, log 36). -/
def State.placeHome (s : State) (va : Int) : Option Nat :=
  if va < 0 then none
  else
    match s.probe va.toNat with
    | some l => if l.u && l.r && decide (l.tgt < 3 ∧ l.mig ≠ 1) then some (homeOf (l.pa va.toNat)) else none
    | none => none

/-- The column the affinity of a launch gives root thread i; a table byte is read as a plain load reads it, and nothing is given yet
while that has to wait (R109-R111). -/
def State.affinity (s : State) (l : Launch) (i : Nat) : State × Option Nat :=
  let x := i % l.ext.1
  let y := i / l.ext.1 % l.ext.2.1
  let z := i / (l.ext.1 * l.ext.2.1)
  let va := l.recNat 64 8
  let hash := hashColumn x y z
  match l.recNat 26 1 with
  | 0 => (s, some hash)
  | 1 => (s, some ((s.placeHome ((va : Int) + x * sext 32 (l.recNat 72 4) + y * sext 32 (l.recNat 76 4))).getD hash))
  | 2 =>
    let w : Who := ⟨[256 + l.col], true, false, false, 4 * l.col, l.handle, 5 * l.col + 4⟩
    (match s.checkVirt w 0 (va + i % l.recNat 72 4 : Nat) .read with
     | (s1, .ok pa _) =>
       let r := s1.unitRead l.handle false 1 [pa]
       (r.1, if s1.stopped pa && s1.stopLate (unitOp l.handle) then some hash else r.2.map fun vs => vs.headD 0 % 64)
     | (s1, .wait) => (s1, none)
     | (s1, _) => (s1, some hash))
  | _ => (s, some l.col)

/-! ### Bins (R123, R124) -/

/-- The open bin of a core with a key. -/
def State.openBin (s : State) (core : Nat) (h hdr : Word64) : Option Bin :=
  s.la.bins.find? fun b => decide (b.core = core ∧ b.handle = h ∧ b.hdr = hdr) && !b.closed

/-- The lowest free bin of a core. -/
def State.freeBin (s : State) (core : Nat) : Option Nat :=
  (List.range 32).find? fun n => !(s.la.bins.any fun b => decide (b.core = core ∧ b.num = n))

/-- The agents resident on a core. -/
def State.gangsOn (s : State) (core : Nat) : List (Nat × Ctx) :=
  s.ctxs.filter fun p => decide (64 ≤ p.1 ∧ p.2.core = core) && p.2.live

/-- Threads of any launch in a core's bins and resident gangs (R123). -/
def State.loadOf (s : State) (core : Nat) : Nat :=
  ((s.la.bins.filter fun b => b.core = core).map fun b => b.seeds.length).sum +
  ((s.gangsOn core).map fun p => (lanesOf p.2.living).length).sum

/-- The core of a column for a thread (R123). -/
def State.chooseCore (s : State) (col : Nat) (h hdr : Word64) : Option Nat :=
  match (s.coresOf col).find? fun k => (s.openBin k h hdr).isSome with
  | some k => some k
  | none => bestBy (fun a b => decide (s.loadOf a < s.loadOf b) || (decide (s.loadOf a = s.loadOf b) && decide (a < b)))
      (s.coresOf col)

/-- A bin closed, in its turn (R124). -/
def State.closeBin (s : State) (b : Bin) : State :=
  let mark (c : Bin) : Bin :=
    if c.core = b.core ∧ c.num = b.num ∧ !c.closed then { c with closed := true, order := s.la.binOrder } else c
  { s with la := { s.la with bins := s.la.bins.map mark, binOrder := s.la.binOrder + 1 } }

/-- A thread joins its core's open bin, or opens a free one; nothing where no bin can take it (R123, R124). It wakes its column
(20 R417). -/
def State.toBin (s0 : State) (core : Nat) (h hdr : Word64) (x : Seed) : Option State :=
  let s := s0.wakeColumn (core / 4)
  match s.openBin core h hdr with
  | some b =>
    let add (c : Bin) : Bin := if c.core = core ∧ c.num = b.num then { c with seeds := c.seeds ++ [x] } else c
    let s1 : State := { s with la := { s.la with bins := s.la.bins.map add } }
    some (if b.seeds.length + 1 = 64 then s1.closeBin b else s1)
  | none =>
    (s.freeBin core).map fun n =>
      let tmo := max 1 (field (s.sysGet SysReg.bintmo (core / 4)) 15 0)
      let b : Bin := ⟨core, n, h, hdr, [x], s.coreClk core, tmo, false, 0⟩
      { s with la := { s.la with bins := s.la.bins ++ [b] } }

/-- Every open bin of a launch closes (R124). -/
def State.flushBins (s : State) (h : Word64) : State :=
  (s.la.bins.filter fun b => decide (b.handle = h) && !b.closed).foldl State.closeBin s

/-- A column in which a launch has placed a thread. -/
def State.markPlaced (s : State) (h : Word64) (col : Nat) : State :=
  s.modLaunch h fun l => { l with placed := l.placed ||| (1#64 <<< col) }

/-! ### Register blocks and arenas (R127, R128) -/

/-- The registers of a size code. -/
def blockRegs (code : Nat) : Nat := 16 * 2 ^ min code 4

/-- The free blocks of a partition's three buddy trees (R127). -/
def freeBlocks (occ : List (Nat × Nat)) : List (Nat × Nat) :=
  buddyFree occ 16 8 0 ++ buddyFree occ 16 8 256 ++ buddyFree occ 16 8 512

/-- An asynchronous producer of a gang has not written back yet: a pop, an mmac, or a push into its box (02 R68). -/
def State.asyncPending (s : State) (c : CtxId) : Bool :=
  match c with
  | .cc _ => false
  | .gang g =>
    (s.en.queues.any fun q => q.2.pend.any fun p => p.gid = g) ||
    (s.mx.cmds.any fun m => decide (m.by_.ctx = c) && (match m.kind with
      | .mac _ _ _ => true
      | _ => false)) ||
    s.en.boxes.any fun b => b.2.any fun x => x.gid = g

/-- A gang the compactor may move: not ready at its last clock, with everything written back (R127). -/
def State.movable (s : State) (c : CtxId) (x : Ctx) : Bool :=
  !x.ready && x.wbs.isEmpty && !(s.ms.ops.any fun o => decide (o.ctx = c)) && !s.asyncPending c

/-- Blocks placed one after another beside those that stand (R127). -/
def placeBlocks (fixed : List (Nat × Nat × Nat)) : List (Nat × Nat × Nat) → Option (List (Nat × Nat × Nat))
  | [] => some fixed
  | b :: r =>
    (buddyTake (freeBlocks (fixed.map fun x => (x.2.1, x.2.2))) b.2.2).bind fun base => placeBlocks (fixed ++ [(b.1, base, b.2.2)]) r

/-- The blocks after the compactor has moved what it may and the request, under key 0, has its own: all placed the largest first, which
for powers of two finds room wherever there is any (R127). -/
def compacted (fixed moving : List (Nat × Nat × Nat)) (size : Nat) : Option (List (Nat × Nat × Nat)) :=
  placeBlocks fixed (((0, 0, size) :: moving).foldl (fun r b => insertBy (fun a c => decide (c.2.2 < a.2.2)) b r) [])

/-- A block of a size granted on a partition, after the compactor where it is needed; the gang `skip` gives up its own
(R127, R137), which counts as free when its larger one is sought (DESIGN CHOICE, log 39: R137 says neither). -/
def State.grantBlock (s : State) (core part size : Nat) (skip : Option Nat) : Option (State × Nat) :=
  let gs := (s.gangsOn core).filter fun p => decide (p.2.part = part) && decide (some p.1 ≠ skip)
  let blocks := gs.map fun p => (p.1, p.2.regBase, blockRegs p.2.regCode)
  let occ := blocks.map fun b => (b.2.1, b.2.2)
  match buddyTake (freeBlocks occ) size with
  | some b => some (s, b)
  | none =>
    if 768 < (occ.map Prod.snd).sum + size then none
    else
      let can (b : Nat × Nat × Nat) : Bool := s.movable (ctxOfKey b.1) (s.ctx (ctxOfKey b.1))
      (compacted (blocks.filter fun b => !can b) (blocks.filter can) size).bind fun new =>
        (new.find? fun n => n.1 = 0).map fun q =>
          ((new.filter fun n => n.1 ≠ 0).foldl (fun s n => s.modCtx (ctxOfKey n.1) fun x => { x with regBase := n.2.1 }) s, q.2.1)

/-- The granules of an arena block: the smallest power of two of 4 KiB at or above its size (R128). -/
def arenaGranules (size : Nat) : Nat := 2 ^ ceilLog ((size + 4095) / 4096) 9

/-- The base of an arena on a core's scratchpad (R128). -/
def State.arenaFit (s : State) (core size : Nat) : Option Nat :=
  let occ := (s.la.arenas.filter fun a => a.core = core).map fun a => (a.base / 4096, arenaGranules a.size)
  (buddyTake (buddyFree occ 1 9 0) (arenaGranules size)).map fun b => b * 4096

/-- A range of memory filled with zeros. -/
def State.zeroFill (s : State) (a n : Nat) : State :=
  let inside (k : Nat) : Bool := decide (a ≤ k ∧ k < a + n)
  let ks := ((SMap.keys s.mem).filter inside ++ (s.wlog.map Prod.fst).filter inside).eraseDups
  ks.foldl (fun s k => s.writeBytes k [0]) s

/-- The arenas of a launch on every present core of a column, zero-filled, or nothing where one cannot be granted
(R128). -/
def State.grantArenas (s : State) (l : Launch) (col : Nat) : Option State :=
  if l.arenaSize = 0 ∨ s.la.arenas.any (fun a => decide (a.handle = l.handle ∧ a.core / 4 = col)) then some s
  else
    (s.coresOf col).foldl (fun (r : Option State) k => r.bind fun s =>
      (s.arenaFit k l.arenaSize).map fun b =>
        let a : Arena := ⟨l.handle, k, b, l.arenaSize, arenaGranules l.arenaSize * 4096⟩
        ({ s with la := { s.la with arenas := s.la.arenas ++ [a] } } : State).zeroFill (scratch k b) l.arenaSize) (some s)

/-! ### The end of a thread (R131) -/

/-- The record of a failure whose lanes have exited (17 R370). -/
def State.postExited (s : State) (c : CtxId) (m : Word64) (f : Fail) : State :=
  let x := s.ctx c
  let rec0 : FaultRec := { FaultRec.base f.kind x.handle m f.hdr f.idx x.gid with
    imp := true, post := true, slot := f.rslot, line := f.line }
  s.postFault (s.launchQueue x.handle (s.colOf c)) (s.colOf c) rec0

/-- The frame is sealed: STATE bit 0 (17 R373). -/
def Saved.sealed (g : Saved) : Bool := decide (g.state % 2 = 1)

/-- Every thread of a launch that exists has triggered (R118). -/
def State.allTriggered (s : State) (h : Word64) : Bool :=
  (s.ctxs.all fun p => decide (p.2.handle ≠ h) || decide (p.1 < 64) || !p.2.live || (lanesOf p.2.living).all fun l => (p.2.lane l).trig) &&
  (s.la.bins.all fun b => decide (b.handle ≠ h) || b.seeds.all Seed.trig) &&
  !(s.la.spills.any fun e => e.handle = h) &&
  (s.la.saved.all fun g => decide (g.handle ≠ h) || !g.sealed ||
    (List.range 64).all fun l =>
      let f := s.hwNat (field (s.sysGet SysReg.frmpool g.col) 47 17 * 2 ^ 17 + 2 ^ 17 * g.frame + 0x400 + 32 * l + 11) 1
      decide (f % 2 = 0 ∨ f / 2 % 2 = 1 ∨ f / 16 % 2 = 1))

/-- The launch that a PRED names, while it is accepted and unretired. -/
def State.predLaunch (s : State) (l : Launch) : Option Launch :=
  s.launch? (handleOf (handleCol l.pred) (handleLine l.pred) (handleSeq l.pred) false)

/-- The threads of a launch that is Distributed have all triggered or exited (R118). -/
def State.triggered (s : State) (p : Launch) : Bool :=
  decide (p.stage = .distributed ∨ p.stage = .resident) && s.allTriggered p.handle

/-- Each launch notes the moment its threads have all triggered: a successor's condition holds from then on, though it be taken later
(R118). -/
def State.noteTriggers (s : State) : State :=
  let note (l : Launch) : Launch := if !l.trigOk && s.triggered l then { l with trigOk := true } else l
  { s with la := { s.la with launches := s.la.launches.map note } }

/-- Threads of a gang end: they leave their team, count as triggered and as arrived, and their gang's entries, barriers
and sub-gangs follow (R131; 17 R370). -/
def State.endThreads (s : State) (c : CtxId) (m : Word64) : State :=
  let x := s.ctx c
  let fs := ((lanesOf m).flatMap fun l => (x.lane l).fails).foldl (fun (r : List Fail) f =>
    if r.any f.like then r else r ++ [f]) []
  let s1 := fs.foldl (fun s f => s.postExited c (maskOf fun l => m.getLsbD l && (x.lane l).fails.any f.like) f) s
  let s2 := s1.modCtx c fun x => x.modLanes (lanesOf m) fun _ y =>
    { y with exited := true, team := 0xFFFFFFFF, trig := true, wait := .none, stalled := .none, heldRb := false,
             heldRcv := false, fails := [], holds := [] }
  (((s2.modCtx c Ctx.dropSubs).parkAtRb c).settle c).noteTriggers

/-! ### Teams (R129) -/

/-- A number is live in a launch (R129). -/
def State.teamLive (s : State) (h : Word64) (n : Nat) : Bool := s.la.teams.any fun t => decide (t.num = n ∧ t.handle = h)

/-- The free numbers of a column. -/
def State.teamFreeOf (s : State) (col : Nat) : List Nat :=
  ((List.range 1024).map (1024 * col + ·)).filter fun n => !(s.la.teams.any fun t => t.num = n)

/-- The team word of threads in frames (17 R374). -/
def State.frameTeams (s : State) (h : Word64) (n : Nat) : State :=
  (s.la.saved.filter fun g => decide (g.handle = h) && g.sealed).foldl (fun s g =>
    let base := field (s.sysGet SysReg.frmpool g.col) 47 17 * 2 ^ 17 + 2 ^ 17 * g.frame
    (List.range 64).foldl (fun s l =>
      let a := base + 0x400 + 32 * l + 28
      if s.hwNat a 4 = n then s.homeWrite a (leBytes 4 0xFFFFFFFF) else s) s) s

/-- A team freed: every member leaves it, in gangs and in frames (R135). -/
def State.freeTeam (s : State) (h : Word64) (n : Nat) : State :=
  let out (c : Ctx) : Ctx := if c.handle ≠ h then c else
    c.modLanes (SMap.keys c.lanes) fun _ x => if x.team.toNat = n then { x with team := 0xFFFFFFFF } else x
  let s1 := (SMap.keys s.ctxs).foldl (fun s k => s.modCtx (ctxOfKey k) out) s
  ({ s1 with la := { s1.la with teams := s1.la.teams.filter fun t => t.num ≠ n } } : State).frameTeams h n

/-! ### Spill entries (R126) -/

/-- The entries of a launch's spill area. -/
def Launch.spillSize (l : Launch) : Nat := if l.recNat 56 8 = 0 then 0 else Rec256.extx l.spill / 2

/-- The lowest spill entry of a launch not in use (DESIGN CHOICE, log 39: R126 says `a free entry`). -/
def State.freeSpill (s : State) (l : Launch) : Option Nat :=
  (List.range l.spillSize).find? fun i => !(s.la.spills.any fun e => decide (e.handle = l.handle ∧ e.entry = i))

/-- The flat address of half of a spill entry, as hardware reaches it from a column (R126). -/
def State.spillAddr (s : State) (l : Launch) (col x : Nat) (k : AccKind) : State × Option Nat :=
  match recAddr l.spill x 0 16 with
  | some va =>
    if va < 0 then (s, none) else s.unitPlace col va.toNat k
  | none => (s, none)

/-- A walk for a spill entry has to wait (18 R393). -/
def State.spillWaits (s : State) (l : Launch) (col i : Nat) (k : AccKind) : Bool :=
  [2 * i, 2 * i + 1].any fun x => match recAddr l.spill x 0 16 with
    | some va => decide (0 ≤ va) && s.unitWaits col [va.toNat] k
    | none => false

/-- A thread written to a spill entry (R126); nothing where the entry's address does not translate for write, so that the lane takes the
spawn-overflow trap (DESIGN CHOICE, log 39: R132 names no outcome). -/
def State.spillSeed (s : State) (l : Launch) (hdr : Word64) (x : Seed) (col : Nat) (home : Bool) : Option State :=
  (s.freeSpill l).bind fun i =>
    let a := s.spillAddr l col (2 * i) .write
    let b := a.1.spillAddr l col (2 * i + 1) .write
    match a.2, b.2 with
    | some pa, some pb =>
      let s1 := b.1.homeWrite pa (leBytes 8 hdr.toNat ++ leBytes 4 x.cx.toNat ++ leBytes 4 x.cy.toNat)
      let s2 := s1.homeWrite pb (leBytes 4 x.tid.toNat ++ leBytes 4 (1 + 2 * col + 128 * bit home) ++ leBytes 8 0)
      some { s2 with la := { s2.la with spills := s2.la.spills ++ [⟨l.handle, i, col, x.after⟩] } }
    | _, _ => none

/-- A spawned thread finds no bin, and the walk for its spill entry has to wait (R126; 18 R393). -/
def State.spawnWaits (s : State) (h hdr : Word64) (core col : Nat) : Bool :=
  (s.openBin core h hdr).isNone && (s.freeBin core).isNone &&
  match s.launch? h with
  | some l => (s.freeSpill l).any fun i => s.spillWaits l col i .write
  | none => false

/-- A spawned thread placed: in a bin of the given core, else in a spill entry (R123, R126, R132). -/
def State.placeSpawn (s : State) (h hdr : Word64) (core col : Nat) (home : Bool) (x : Seed) : Option State :=
  match s.toBin core h hdr x with
  | some s1 => some (s1.markPlaced h col)
  | none =>
    match s.launch? h with
    | some l => (s.spillSeed l hdr x col home).map fun s1 => s1.markPlaced h col
    | none => none

end Machine

end Sys2Proof
end

