-- ==== Sys2Proof/Machine/LaunchOps.lean ====
section
/-! DEFINITION. The instructions of threads, teams and launches, class 0xA (05 R131-R139). -/

namespace Sys2Proof.Machine

/-! ### Threads -/

/-- exit: the threads end; a column core halts (R131), at user level too, since R78 does not list exit (DESIGN CHOICE, log 36). -/
def execExit (t : TWord) (s : State) : Host.Outcome State Fault Refusal :=
  issueWith (.exit t) 0 (fun is s =>
    if is.ctx.isCC then some (.next (s.modCtx is.ctx fun c => { c with run := .halted }))
    else some (.held (s.endThreads is.ctx is.act) is.act)) s

/-- The next identifier of a launch (R132). -/
def State.nextTid (s : State) (h : Word64) : Nat :=
  match s.launch? h with
  | some l => l.nextTid
  | none => 0

/-- One child of a spawn: placed, with the identifier taken, or nothing (R132). -/
def State.spawnOne (s : State) (h hdr : Word64) (core col : Nat) (home : Bool) (cx cy : Nat) (after : Option (Nat × Nat)) : Option State :=
  let x : Seed := ⟨BitVec.ofNat 32 (s.nextTid h), BitVec.ofNat 32 cx, BitVec.ofNat 32 cy, false, after⟩
  (s.placeSpawn h hdr core col home x).map fun s1 => s1.modLaunch h fun l => { l with nextTid := l.nextTid + 1 }

/-- spawn and spawn.home: one child for each lane, ascending; lanes whose child finds no place trap (R132, R133). A child comes after
what its parent's core has accepted (R132; 13 R305). -/
def spawnEff (q : QWord) (off : Nat) (home : Bool) (is : Issue) (s : State) : Option Done :=
  let own := s.colOf is.ctx
  let hdr := is.hdr + BitVec.ofInt 64 (16 * sext 24 off)
  let colOfLane (s : State) (l : Nat) : Nat :=
    match q.d with
    | .g r => if home then (s.presentColumn ((s.placeHome (is.c.pair l r)).getD own)).getD own else own
    | _ => own
  let coreOf (s : State) (col : Nat) : Nat := if home then (s.chooseCore col is.c.handle hdr).getD is.c.core else is.c.core
  let r := (lanesOf is.act).foldl (fun (z : State × Word64 × Bool) l =>
    let col := colOfLane z.1 l
    let core := coreOf z.1 col
    let late := z.2.2 || z.1.spawnWaits is.c.handle hdr core col
    let after := if z.1.markOpen ⟨0, 1, s.cacheOf is.ctx, s.opId, .core, false⟩ then some (s.cacheOf is.ctx, s.opId) else none
    match z.1.spawnOne is.c.handle hdr core col home (is.src z.1 false q.a l) (is.src z.1 false q.b l) after with
    | some s1 => (s1, z.2.1, late)
    | none => (z.1, z.2.1 ||| (1#64 <<< l), late)) (s, 0#64, false)
  if r.2.2 then none else some (.held (r.1.takeTrap is.ctx r.2.1 (.plain trapSpawn) is.h is.hdr is.idx) r.2.1)

def execSpawn (q : QWord) (off : Nat) (s : State) : Host.Outcome State Fault Refusal :=
  issueWith (.spawn q off) 0 (spawnEff q off false) s

def execSpawnHome (q : QWord) (off : Nat) (s : State) : Host.Outcome State Fault Refusal :=
  issueWith (.spawnHome q off) 0 (spawnEff q off true) s

/-! ### Teams (R134-R136; log 12) -/

/-- Threads put into a team, or into none. -/
def State.setTeam (s : State) (c : CtxId) (ls : List Nat) (v : Word) : State :=
  s.modCtx c fun x => x.modLanes ls fun _ y => { y with team := v }

/-- A free number of a column, chosen freely (log 12). -/
def State.pickTeam (s : State) (col : Nat) : Option Nat :=
  let fs := s.teamFreeOf col
  match fs with
  | [] => none
  | n :: _ => some (fs.getD ((Config.freeWord s.freeCtr).toNat % fs.length) n)

/-- team.new: one new team for the lanes, or 0xFFFFFFFF when the column's numbers are all live; a core whose reserve is
empty waits (R134). -/
def teamNewEff (t : TWord) (is : Issue) (s : State) : Option Done :=
  let col := s.colOf is.ctx
  let ls := lanesOf is.act
  match s.pickTeam col with
  | none => some (.next (s.later is.ctx 8 (ls.flatMap fun l => dstPut t.d 1 l 0xFFFFFFFF) 0 false))
  | some n =>
    if !is.ctx.isCC ∧ 32 ≤ SMap.get 0 s.la.used is.c.core then none
    else
      let la := { s.la with
        teams := s.la.teams ++ [⟨n, is.c.handle⟩]
        used := if is.ctx.isCC then s.la.used else SMap.modify 0 s.la.used is.c.core (· + 1) }
      let s1 : State := { s with la := la, freeCtr := s.freeCtr + 1 }
      some (.next ((s1.setTeam is.ctx ls (BitVec.ofNat 32 n)).later is.ctx 8 (ls.flatMap fun l => dstPut t.d 1 l n) 0 false))

def execTeamNew (t : TWord) (s : State) : Host.Outcome State Fault Refusal :=
  issueWith (.teamNew t) 8 (teamNewEff t) s

/-- team.free: lane by lane (R135). -/
def execTeamFree (t : TWord) (s : State) : Host.Outcome State Fault Refusal :=
  issueWith (.teamFree t) 0 (fun is s => some (.next ((lanesOf is.act).foldl (fun s l =>
    let n := is.src s false t.a l
    if s.teamLive is.c.handle n then s.freeTeam is.c.handle n else s) s))) s

/-- join: each lane leaves its team and joins the live team it names (R136). -/
def execJoin (t : TWord) (s : State) : Host.Outcome State Fault Refusal :=
  issueWith (.join t) 0 (fun is s => some (.next ((lanesOf is.act).foldl (fun s l =>
    let n := is.src s false t.a l
    s.setTeam is.ctx [l] (if s.teamLive is.c.handle n then BitVec.ofNat 32 n else 0xFFFFFFFF)) s))) s

def execLeave (t : TWord) (s : State) : Host.Outcome State Fault Refusal :=
  issueWith (.leave t) 0 (fun is s => some (.next (s.setTeam is.ctx (lanesOf is.act) 0xFFFFFFFF))) s

/-! ### Register blocks (R137) -/

/-- regx: the request noted, its slot busy; on a column core granted at once (R137). -/
def execRegx (t : TWord) (s : State) : Host.Outcome State Fault Refusal :=
  issueWith (.regx t) 0 (fun is s =>
    if is.ctx.isCC then
      some (.next (s.land is.ctx ((lanesOf is.act).flatMap fun l => dstPut t.d 1 l 4)))
    else
      let code := min 4 (is.src s false t.a ((lowestLane is.act).getD 0))
      let reg := match t.d with
        | .g n => some n
        | _ => none
      let q : RegxReq := ⟨is.act, reg, code, t.c.slot?, decide (t.c.pd ≠ 0)⟩
      some (.next ((s.modCtx is.ctx fun c => { c with regx := c.regx ++ [q] }).busySlot is.ctx is.act t.c))) s

/-! ### trigger and launch (R139) -/

/-- The location that carries the marks of a launch's triggers: no address of memory (13 R306). -/
def trigPlace (h : Word64) : Nat := 2 ^ 70 + 16 * h.toNat

/-- trigger: a release at its scope, and the threads have triggered (R118, R139). -/
def triggerEff (sc : Scope) (is : Issue) (s : State) : Option Done :=
  if !s.released is.ctx is.act sc then s.drainFirst is is.act sc
  else
    let s1 := s.markRelease (s.cacheOf is.ctx) (trigPlace is.c.handle) 1 s.opId sc (!(is.c.lanesOwe is.act).isEmpty)
    some (.next (if is.ctx.isCC then s1 else s1.modCtx is.ctx fun c => c.modLanes (lanesOf is.act) fun _ x =>
      { x with trig := true }).noteTriggers)

def execTrigger (t : TWord) (sc : Scope) (s : State) : Host.Outcome State Fault Refusal :=
  issueWith (.trigger t sc) 0 (triggerEff sc) s

/-- The number of a launching lane among the readers that make drift queries. -/
def recordOp (c : CtxId) (l : Nat) : Nat := 2 ^ 67 + 64 * ctxKey c + l

/-- The record of a launching lane read, or its trap, its page, or a wait for a publish (R139 step 2). -/
def State.readRecord (s : State) (c : CtxId) (l va line reg : Nat) (path : Word64) : State :=
  let trap (s : State) (k : Nat) : State :=
    s.trapBlocked c (1#64 <<< l) path ⟨k, 0, 255, lineOf va, false, false⟩
  let wait (s : State) (w : Wait) : State := s.modCtx c fun x => x.modLane l fun y => { y with wait := w }
  if va % 128 ≠ 0 then trap s trapMisaligned
  else
    match s.checkVirt (s.who c) 0 va .read with
    | (s1, .trap k _ _) => trap s1 k
    | (s1, .page f pa) => ((wait s1 (.page pa false)).touchPage f pa).checkPeers c path
    | (s1, .zero) => s1
    | (_, .wait) => s
    | (s1, .ok pa _) =>
      let id := recordOp c l
      if s1.stopped pa && s1.stopLate id then trap (s1.stopEnds id) trapPermission
      else
      let v : EView := .core (s1.cacheOf c)
      let as : List EAcc := (List.range 16).map fun i => ⟨.ok (pa + 8 * i) 0, 8, .nc, false⟩
      let z := s1.engineReady id true v true as
      if z.2 then
        let r := z.1.engineReads id v as
        wait ((r.1.engineDone id).acquire c .module) (.launch va line reg (some (r.2.flatMap (leBytes 8))) path)
      else z.1

/-- The record of a launching lane submitted once its line is Idle: the handle written (R113, R139 steps 3-5). -/
def State.submit (s : State) (c : CtxId) (l line reg : Nat) (r : List Byte) (path : Word64) : State :=
  let col := line / 16 % 64
  let n := line % 16
  if (s.launchLine col n).pending then s
  else
    let s1 := s.putLaunchLine col n ((s.launchLine col n).put 0 (r.take 120))
    let q := s1.goWrite col n (BitVec.ofNat 64 (recNat r 120 8))
    (q.1.land c (regRes l reg q.2.toNat 2)).doneWaiting c (1#64 <<< l) path

/-- The lanes of a launch carried on in ascending order, as far as they can be (R139). -/
def State.runLaunch (c : CtxId) : Nat → State → State
  | 0, s => s
  | n + 1, s =>
    let x := s.ctx c
    match (SMap.keys x.lanes).findSome? fun l => match (x.lane l).wait with
        | .launch va line reg r path => some (l, va, line, reg, r, path)
        | _ => none with
    | none => s
    | some (l, va, line, reg, r, path) =>
      let s1 := match r with
        | none => s.readRecord c l va line reg path
        | some bs => s.submit c l line reg bs path
      if ((s1.ctx c).lane l).wait = (x.lane l).wait then s1 else State.runLaunch c n s1

/-- Every launch that waits carried on. -/
def State.resumeLaunches (s : State) : State :=
  ((SMap.keys s.ctxs).map ctxOfKey).foldl (fun s c => State.runLaunch c 128 s) s

/-- launch: the releases of step 1, then each lane in turn; the path is blocked until the last handle is written
(R139). -/
def launchEff (t : TWord) (is : Issue) (s : State) : Option Done :=
  if !s.released is.ctx is.act .module then s.drainFirst is is.act .module
  else
    let reg := match t.d with
      | .g n => n
      | _ => 0
    let s1 := s.block is is.path fun l =>
      if is.act.getLsbD l then .launch (is.src s true t.a l) (is.src s false t.b l % 1024) reg none is.path
      else .peers is.path
    let s2 := (lanesOf is.act).foldl (fun s l => s.orphanQueries (recordOp is.ctx l)) s1
    some (.held (State.runLaunch is.ctx 128 s2) is.path)

def execLaunch (t : TWord) (s : State) : Host.Outcome State Fault Refusal :=
  issueWith (.launch t) 0 (launchEff t) s

end Sys2Proof.Machine
end

