-- ==== Sys2Proof/Machine/Frames.lean ====
section
/-! DEFINITION. Context frames: the pools, saving a gang and restoring it, partial eviction and long faults (17 R371-R378;
05 R137, R138). -/

namespace Sys2Proof.Machine

/-! ### The pools (R372) -/

/-- The frames of a column's pool that are not in use, ascending (R372). -/
def State.freeFrames (s : State) (col : Nat) : List Nat :=
  (List.range (field (s.sysGet SysReg.frmpool col) 63 48)).filter fun n => !(s.la.frames.any fun f => decide (f.col = col ∧ f.num = n))

/-- The frame of a gang's record given back, and the record with it. -/
def State.dropSaved (s : State) (gid : Nat) : State :=
  { s with la := { s.la with
    saved := s.la.saved.filter fun g => g.gid ≠ gid
    frames := s.la.frames.filter fun f => f.use ≠ .gang gid } }

/-- The record of a gang that is being saved, or is saved. -/
def State.saved? (s : State) (gid : Nat) : Option Saved := s.la.saved.find? fun g => g.gid = gid

/-! ### Saving (R373-R375) -/

/-- A gang begins to be saved: the lowest free frame of its column is taken, with the STATE bits the frame will have; nothing
where no frame is free (R372). -/
def State.startSave (s : State) (gid bits wkey : Nat) : State :=
  let c : CtxId := .gang gid
  let x := s.ctx c
  let col := s.colOf c
  if !x.live ∨ x.saving then s
  else
    match (s.freeFrames col).head? with
    | none => s
    | some n =>
      let la := { s.la with
        frames := s.la.frames ++ [⟨col, n, .gang gid⟩]
        saved := s.la.saved ++ [⟨gid, x.handle, col, n, bits, x.age, x.regCode, wkey, [], [], [], [], [], [], []⟩] }
      ({ s with la := la } : State).modCtx c fun x => { x with saving := true }

/-- STATE bits added to the saves of a launch that are in progress, and to the frames of those that are done (R373, R382). -/
def State.markSaves (s : State) (h : Word64) (bits : Nat) : State :=
  let mine := s.la.saved.filter fun g => g.handle = h
  let s1 := (mine.filter Saved.sealed).foldl (fun s g =>
    s.homeWrite (s.frameBase g.col g.frame + 4) (leBytes 1 (g.state ||| bits))) s
  let mark (g : Saved) : Saved := if g.handle = h then { g with state := g.state ||| bits } else g
  { s1 with la := { s1.la with saved := s1.la.saved.map mark } }

/-- A write of a range at module scope has to wait: a lease of one of its lines is live (09 R230). -/
def State.rangeLeased (s : State) (a n : Nat) : Bool :=
  s.ms.regions.any fun r => decide (r.base < a + n ∧ a < r.base + r.size ∧ s.ns < r.leaseEnd)

/-- A module-scope acquire of a range has to wait: releases of narrower scopes to it are to be published first (R372; 13 R306). -/
def State.rangeMarked (s : State) (a n : Nat) : Bool :=
  s.ms.marks.any fun k => decide (k.pa < a + n ∧ a < k.pa + k.n) && s.markOpen k

/-- The 128 KiB of a saved gang's frame. -/
def State.frameOf (s : State) (g : Saved) : Nat := s.frameBase g.col g.frame

/-- Everything that must be over before a gang's frame is sealed: its results, its operations and their fates, its writes at module scope,
its fences, and the blocking instructions that are not issued again (02 R71; 13 R301; R370, R375). -/
def State.sealable (s : State) (c : CtxId) : Bool :=
  let x := s.ctx c
  x.wbs.isEmpty && !(s.ms.ops.any fun o => o.ctx = c) && !(s.ms.fwd.any fun f => f.ctx = c) && (SMap.keys x.lanes).all fun l =>
    (match (x.lane l).wait with
     | .op _ _ => false
     | .launch _ _ _ _ _ => false
     | .trap _ _ _ _ => false
     | _ => true) && !((x.lane l).fences.any (s.fenceLive c l))

/-- A lane's wait in an instruction that is issued again after the restore (R375; 11 R272). -/
def Wait.rewinds : Wait → Bool
  | .clasp _ _ _ _ _ _ _ => true
  | .push _ => true
  | _ => false

/-- The waits of a gang about to be sealed: clasp waits and pushes stand at their words again, lanes of their paths that have
their results move on, and a migration fault's lanes stand at their words (R375, R376). -/
def State.rewindWaits (s : State) (c : CtxId) : State :=
  let x := s.ctx c
  let peers := maskOf fun l => match (x.lane l).wait with
    | .peers _ => true
    | _ => false
  let x1 := x.modLanes (SMap.keys x.lanes) fun _ y =>
    if y.wait.rewinds then { y with wait := .none, rewound := true }
    else match y.wait with
      | .page _ _ => { y with wait := .none }
      | _ => y
  let en := { s.en with pushes := s.en.pushes.filter fun p => CtxId.gang p.gid ≠ c }
  (({ s with en := en } : State).setCtx c x1).passWord c peers

/-- A register block of a new size taken over: registers at and above it are discarded (R137). -/
def Ctx.resize (c : Ctx) (code base : Nat) : Ctx :=
  let n := blockRegs code
  { c with
    regCode := code
    regBase := base
    g := c.g.filter fun p => decide (p.1 % 256 < n)
    e := c.e.filter fun p => decide (p.1 % 256 < n) }

/-- The oldest hold that waits for a regx is over (02 R63, R65). -/
def endHold (clk : Nat) : List Hold → List Hold
  | [] => []
  | h :: r => if h.due.isNone then { h with due := some clk } :: r else h :: endHold clk r

/-- The answer of a regx on its lanes, its slot free, and its PD hold over (R137, R138). -/
def State.answerRegx (s : State) (c : CtxId) (q : RegxReq) (v : Nat) : State :=
  let res := match q.reg with
    | some r => (lanesOf q.lanes).flatMap fun l => regRes l r v 1
    | none => []
  (((s.land c res).freeSlotBit c q.lanes q.slot).modCtx c fun x =>
    { (if q.pd then x.modLanes (lanesOf q.lanes) fun _ y => { y with holds := endHold (s.clk c) y.holds } else x) with
      regx := x.regx.tail })

/-- The requests of regx answered before the frame is sealed; the block of the last one's size is granted with the restore
(R138, R375; log 22). -/
def State.settleRegx (c : CtxId) : Nat → State → State
  | 0, s => s
  | n + 1, s =>
    match (s.ctx c).regx with
    | [] => s
    | q :: _ =>
      let old := (s.ctx c).regCode
      State.settleRegx c n ((s.answerRegx c q old).modCtx c fun x => x.resize q.code x.regBase)

/-- Bytes 0-31 of a thread entry (R374). -/
def Lane.entry (x : Lane) (n : Nat) : List Byte :=
  leBytes 8 x.hdr.toNat ++ leBytes 2 x.idx ++ leBytes 1 x.p.toNat ++
  leBytes 1 (bit x.act + 2 * bit x.exited + 4 * bit x.heldRcv + 8 * bit x.heldRb + 16 * bit x.trig + 32 * bit x.rewound) ++
  leBytes 1 x.sub ++ leBytes 1 0 ++ leBytes 2 n ++ leBytes 4 x.tid.toNat ++ leBytes 4 x.cx.toNat ++ leBytes 4 x.cy.toNat ++
  leBytes 4 x.team.toNat

/-- The state byte of a sub-gang entry (R374). -/
def SubState.code : SubState → Nat
  | .none => 0
  | .parked => 1
  | .dormant => 2
  | .resumed => 3

/-- Bytes 0-31 of a sub-gang entry (R374). -/
def Sub.entry (u : Sub) : List Byte :=
  leBytes 1 u.st.code ++ leBytes 1 u.code ++ leBytes 6 0 ++ leBytes 8 u.mask.toNat ++ leBytes 8 u.hdr.toNat ++ leBytes 2 u.idx ++
  leBytes 6 0

/-- The E bits of a lane (R373). -/
def Ctx.emptyBits (c : Ctx) (l : Nat) : Nat :=
  (c.e.filter fun p => p.2 && decide (p.1 / 256 = l)).foldl (fun v p => v + 2 ^ (p.1 % 256)) 0

/-- The pieces of a gang's frame, by offset, with `n` registers of each lane; the other bytes are 0 (R373). The age is the clock; that a
`yield` set it stays beside the frame (06 R152; log 22). E bits are written for every lane, with a thread or without. -/
def Ctx.framePieces (c : Ctx) (g : Saved) (n : Nat → Nat) (t : Word64) : List (Nat × List Byte) :=
  let subs := (List.range 16).map (· + 1) |>.filter fun j => decide ((c.sub j).st ≠ .none)
  [(0, leBytes 4 g.gid ++ leBytes 1 (g.state ||| 1) ++ leBytes 1 c.regCode ++ leBytes 1 c.rcv.length ++ leBytes 1 subs.length ++
      leBytes 8 c.handle.toNat ++ leBytes 8 (c.age / 2) ++ leBytes 4 c.fp.toNat ++ leBytes 4 0 ++ leBytes 8 g.wkey ++ leBytes 8 0 ++
      leBytes 8 t.toNat)] ++
  (c.k.map fun p => (0x40 + 8 * p.1, leBytes 8 p.2.toNat)) ++
  (c.rcv.reverse.mapIdx fun i r => (0xC0 + 16 * i, leBytes 8 r.hdr.toNat ++ leBytes 8 r.mask.toNat)) ++
  ((List.range 16).map fun i => (0x200 + 32 * i, leBytes 32 (c.recSlot 0 i).toNat)) ++
  ((SMap.keys c.lanes).map fun l => (0x400 + 32 * l, (c.lane l).entry (n l))) ++
  (((List.range 64).filter fun l => c.emptyBits l ≠ 0).map fun l => (0xC00 + 32 * l, leBytes 32 (c.emptyBits l))) ++
  (subs.map fun j => (0x1400 + 32 * (j - 1), (c.sub j).entry)) ++
  (subs.flatMap fun j => (List.range 16).map fun i => (0x2000 + 512 * (j - 1) + 32 * i, leBytes 32 (c.recSlot j i).toNat)) ++
  ((c.g.filter fun p => decide (p.1 % 256 < n (p.1 / 256))).map fun p => (0x4000 + 256 * (p.1 % 256) + 4 * (p.1 / 256), leBytes 4 p.2.toNat))

/-- A frame, or other whole lines, cleared before it is written: no cache keeps a copy (09 R226). -/
def State.clearRange (s : State) (a n : Nat) : State :=
  let inside (x : Nat) : Bool := decide (a ≤ x ∧ x < a + n)
  let clean (r : Region) : Region := if inside r.base then { r with owner := none, sharers := 0 } else r
  ({ s with ms := { s.ms with l1 := s.ms.l1.filter fun l => !inside (128 * l.line), regions := s.ms.regions.map clean } } : State).zeroFill
    a n

/-- The header of a block, as the instruction cache or memory has it. -/
def State.codeHeader (s : State) (c : CtxId) (hdr : Word64) : Header :=
  match s.peekHeader (s.cacheOf c) hdr.toNat with
  | some w => Header.ofWord w
  | none =>
    match s.walk hdr.toNat with
    | some l => Header.ofWord (BitVec.ofNat 64 (s.homeNat (l.flat hdr.toNat) 8))
    | none => Header.ofWord 0

/-- LIVE of the block a lane's PC lies in (02 R51): of the header it holds, or, where it has not fetched one that is valid, every
register. -/
def State.liveOfLane (s : State) (c : CtxId) (l : Nat) : Nat :=
  let y := (s.ctx c).lane l
  let h := match (if y.fresh then none else y.hw) with
    | some w => Header.ofWord w
    | none => s.codeHeader c y.hdr
  if h.valid then h.live else 224

/-- A gang's frame sealed: the gang leaves its slot and block (R373-R375). -/
def State.sealGang (s : State) (g : Saved) : State :=
  let c : CtxId := .gang g.gid
  let n0 := (s.ctx c).blockSize
  let s1 := State.settleRegx c 64 (s.rewindWaits c)
  let x := s1.ctx c
  let base := s1.frameBase g.col g.frame
  if !okRange base (2 ^ 17) then { s1 with stuck := some .absentMemory }
  else
    let s2 := ((x.framePieces g (fun l => min (min n0 x.blockSize) (s1.liveOfLane c l)) (BitVec.ofNat 64 s1.ns)).foldl (fun s p => s.storeHome (base + p.1) p.2)
      (s1.clearRange base (2 ^ 17)))
    let fails := (SMap.keys x.lanes).flatMap fun l => (x.lane l).fails.map fun f => (l, f)
    let atHdr := (SMap.keys x.subs).filter fun j => (x.sub j).atHeader
    let stalls := (SMap.keys x.lanes).filterMap fun l => (x.lane l).stalled.map fun t => (l, t.1, t.2)
    let checked := (SMap.keys x.lanes).filter fun l => decide ((x.lane l).idx = 0) && !(x.lane l).fresh
    let g1 : Saved := { g with
      state := g.state ||| 1, age := x.age, regs := x.regCode, fails := fails, hdrSubs := atHdr, stalls := stalls, checked := checked
      owes := (SMap.keys x.lanes).map fun l => (l, (x.lane l).owes)
      limits := x.rcv.reverse.map fun r => r.due.map fun d => d - s1.clk c }
    let la := { s2.la with saved := s2.la.saved.map fun q => if q.gid = g.gid then g1 else q }
    (({ s2 with la := la } : State).setCtx c Ctx.none).dropWaiters

/-! ### Restoring (R375, R378) -/

/-- Bytes of a frame as a number. -/
def State.frameNat (s : State) (base off n : Nat) : Nat := s.hwNat (base + off) n

/-- A sub-gang entry read back, without a gang slot. -/
def State.readSub (s : State) (base j : Nat) : Sub :=
  let a := 0x1400 + 32 * (j - 1)
  let st := s.frameNat base a 1
  let hdr : Word64 := BitVec.ofNat 64 (s.frameNat base (a + 16) 8)
  let code := s.frameNat base (a + 1) 1
  let idx := s.frameNat base (a + 24) 2
  let bad := match s.walk hdr.toNat with
    | some l => !headerOk (BitVec.ofNat 64 (s.homeNat (l.flat hdr.toNat) 8))
    | none => false
  ⟨if st = 1 then .parked else if st = 2 then .dormant else if st = 3 then .resumed else .none, code,
    BitVec.ofNat 64 (s.frameNat base (a + 8) 8), hdr, idx, none,
    decide (idx = 0) && (decide (code = trapTarget) || (decide (code = trapIllegal) && bad))⟩

/-- A thread entry read back, with what stands beside the frame. -/
def State.readLane (s : State) (g : Saved) (l : Nat) : Lane :=
  let base := s.frameBase g.col g.frame
  let a := 0x400 + 32 * l
  let fl := s.frameNat base (a + 11) 1
  let idx := s.frameNat base (a + 8) 2
  { Lane.none with
    act := fl.testBit 0
    exited := fl.testBit 1
    heldRcv := fl.testBit 2
    heldRb := fl.testBit 3
    trig := fl.testBit 4
    rewound := fl.testBit 5
    hdr := BitVec.ofNat 64 (s.frameNat base a 8)
    idx := idx
    fresh := decide (idx = 0) && !g.checked.contains l
    p := BitVec.ofNat 7 (s.frameNat base (a + 10) 1)
    sub := s.frameNat base (a + 12) 1
    tid := BitVec.ofNat 32 (s.frameNat base (a + 16) 4)
    cx := BitVec.ofNat 32 (s.frameNat base (a + 20) 4)
    cy := BitVec.ofNat 32 (s.frameNat base (a + 24) 4)
    team := BitVec.ofNat 32 (s.frameNat base (a + 28) 4)
    stalled := (g.stalls.find? fun p => p.1 = l).map Prod.snd
    owes := ((g.owes.find? fun p => p.1 = l).map Prod.snd).getD []
    fails := (g.fails.filter fun p => p.1 = l).map Prod.snd }

/-- The listed cells of a sparse map built from a function on keys. -/
def sparse {α : Type} [DecidableEq α] (d : α) (ks : List Nat) (f : Nat → α) : SMap α :=
  ks.foldl (fun m k => SMap.set d m k (f k)) []

/-- Reconvergence entries read back, the top first, with the lanes that stand held: each is held by the topmost entry of its header
that has it in its mask. An entry goes on with the issue opportunities it had left; one that has none of its own and holds a lane has
64 (R373, R374; 06 R148; log 22). -/
def heldAgain (clk : Nat) (hs : List (Nat × Word64)) : List (Word64 × Word64 × Option Nat) → List Rcv
  | [] => []
  | (hdr, mask, left) :: r =>
    let mine := hs.filter fun h => decide (h.2 = hdr) && mask.getLsbD h.1
    let due := if left.isNone && mine.isEmpty then none else some (clk + left.getD 64)
    ⟨hdr, mask, maskOf fun l => mine.any fun h => h.1 = l, due⟩ :: heldAgain clk (hs.filter fun h => !mine.contains h) r

/-- A gang as its frame holds it (R373-R375). -/
def State.readGang (s : State) (g : Saved) : Ctx :=
  let base := s.frameBase g.col g.frame
  let ls := (List.range 64).filter fun l => (s.frameNat base (0x400 + 32 * l + 11) 1).testBit 0
  let code := min 4 (s.frameNat base 5 1)
  let size := min 224 (blockRegs code)
  let regs := ls.flatMap fun l => (List.range (min size (s.frameNat base (0x400 + 32 * l + 14) 2))).map fun r => 256 * l + r
  let js := ((List.range 16).map (· + 1)).filter fun j => decide ((s.readSub base j).st ≠ .none)
  let slots := (List.range 16).map fun i => (i, 0x200 + 32 * i)
  let copies := js.flatMap fun j => (List.range 16).map fun i => (16 * j + i, 0x2000 + 512 * (j - 1) + 32 * i)
  { Ctx.none with
    live := true
    run := .running
    gid := BitVec.ofNat 32 (s.frameNat base 0 4)
    handle := BitVec.ofNat 64 (s.frameNat base 8 8)
    core := g.gid / 2 ^ 24 % 256
    regCode := code
    age := 2 * s.frameNat base 0x10 8 + g.age % 2
    lanes := ls.map fun l => (l, s.readLane g l)
    g := sparse 0 regs fun k => BitVec.ofNat 32 (s.frameNat base (0x4000 + 256 * (k % 256) + 4 * (k / 256)) 4)
    e := (List.range 64).flatMap fun l =>
      let w := s.frameNat base (0xC00 + 32 * l) 32
      if w = 0 then []
      else
        let n := if ls.contains l then min size (s.frameNat base (0x400 + 32 * l + 14) 2) else size
        ((List.range n).filter w.testBit).map fun r => (256 * l + r, true)
    k := sparse 0 (List.range 16) fun i => BitVec.ofNat 64 (s.frameNat base (0x40 + 8 * i) 8)
    b := (slots ++ copies).foldl (fun m p => SMap.set 0 m p.1 (BitVec.ofNat 256 (s.frameNat base p.2 32))) []
    fp := BitVec.ofNat 6 (s.frameNat base 0x18 4)
    rcv := heldAgain (s.coreClk (g.gid / 2 ^ 24 % 256)) (ls.filterMap fun l =>
        let y := s.readLane g l
        if y.heldRcv then some (l, y.hdr) else none)
      ((List.range (min 8 (s.frameNat base 6 1))).map fun i =>
        (BitVec.ofNat 64 (s.frameNat base (0xC0 + 16 * i) 8), BitVec.ofNat 64 (s.frameNat base (0xC8 + 16 * i) 8),
          g.limits.getD i none)).reverse
    subs := js.map fun j =>
      let u := s.readSub base j
      (j, { u with atHeader := u.atHeader || g.hdrSubs.contains j }) }

/-! ### Settling sub-gangs (R368; 19 R409) -/

/-- A sub-gang's threads that have not ended. -/
def Ctx.subLanes (c : Ctx) (j : Nat) : List Nat :=
  (SMap.keys c.lanes).filter fun l => (c.lane l).act && !(c.lane l).exited && decide ((c.lane l).sub = j)

/-- Where a settled sub-gang continues, and whether it moves to a header there; none where it issues its word again (R363, R368;
20 R432). -/
def State.goesTo (s : State) (c : CtxId) (u : Sub) (skip : Bool) : Option (Word64 × Nat × Bool) :=
  if u.atHeader ∧ u.code = trapBreakpoint then some (u.hdr, 0, false)
  else if u.atHeader ∧ (u.code = trapTarget ∨ u.code = trapIllegal) then
    some (if skip then BitVec.ofNat 64 (u.hdr.toNat / 16 * 16 + 16) else u.hdr, 0, true)
  else if skip ∨ trapNext u.code then
    let pc := nextPc (s.codeHeader c u.hdr) u.hdr u.idx
    some (pc.1, pc.2, decide (pc.2 = 0))
  else if u.atHeader then some (u.hdr, 0, true)
  else none

/-- A parked sub-gang resumed, or resumed past its word, which counts for the PD holds of its threads (R368; 02 R63). -/
def State.goOn (s : State) (c : CtxId) (j : Nat) (skip : Bool) : State :=
  let x := s.ctx c
  let u := x.sub j
  let ls := x.subLanes j
  let passes := decide (¬u.atHeader) && (skip || trapNext u.code)
  let x1 := x.setSub j { u with st := .resumed }
  let s1 := match s.goesTo c u skip with
    | none => s.setCtx c x1
    | some (hdr, idx, fresh) =>
      let s2 := s.setCtx c (x1.modLanes ls fun _ y =>
        { y with
          hdr := hdr
          idx := idx
          hw := none
          fresh := fresh
          rewound := false
          holds := if passes then passHolds y.holds else y.holds })
      if fresh then s2.arrive c ls hdr else s2
  (s1.giveSlots c fun v => decide (v = .resumed)).settle c

/-- A parked sub-gang of a resident gang settled: 0 resumed, 1 skipped, 2 ended (R368). -/
def State.settleSub (s : State) (c : CtxId) (j act : Nat) : State :=
  if act = 2 then
    let m := maskOf fun l => ((s.ctx c).subLanes j).contains l
    let s1 := s.endThreads c m
    if (s1.ctx c).live then (s1.modCtx c Ctx.dropSubs).settle c else s1
  else s.goOn c j (decide (act = 1))

/-- A sub-gang awaits its settling. -/
def Sub.waits (u : Sub) : Bool := decide (u.st = .parked ∨ u.st = .dormant)

/-- The debugger's entry of a sub-gang removed (20 R432). -/
def State.dropHold (s : State) (gid j : Nat) : State :=
  { s with se := { s.se with dhold := s.se.dhold.filter fun e => !decide (e.gid = gid ∧ e.sub = j) } }

/-- A sub-gang settled wherever its gang is, with the status of R409. -/
def State.trapret (s : State) (gid j act : Nat) : State × Nat :=
  match s.saved? gid with
  | some g =>
    let base := s.frameBase g.col g.frame
    if !g.sealed then (s, 2)
    else if j = 0 ∨ 16 < j ∨ !(s.readSub base j).waits then (s, 1)
    else
      let s1 := (s.dropHold gid j).homeWrite (base + 0x1400 + 32 * (j - 1)) (leBytes 1 (if act = 2 then 0 else 3))
      let mark (q : Saved) : Saved := if q.gid = gid ∧ act ≠ 2 then { q with acts := q.acts ++ [(j, act)] } else q
      ({ s1 with la := { s1.la with saved := s1.la.saved.map mark } }, 0)
  | none =>
    let c : CtxId := .gang gid
    if (s.ctx c).live && decide (1 ≤ j) && ((s.ctx c).sub j).waits then ((s.dropHold gid j).settleSub c j act, 0) else (s, 1)

/-- A column core's held thread settled: resumed or skipped it goes on after its word, ended it halts as `exit` does (20 R432; log 27). -/
def State.settleCore (s : State) (n act : Nat) : State :=
  let s1 := s.modCtx (.cc n) fun c => c.modLane 0 fun y => { y with stalled := none }
  if act = 2 then s1.modCtx (.cc n) fun c => { c with run := .halted } else s1.passWord (.cc n) 1

/-- Entries of the debugger's hold list whose sub-gang no longer waits, or whose launch is ended, leave it (20 R432). -/
def State.pruneHold (s : State) : State :=
  let keeps (e : HoldEntry) : Bool :=
    if e.sub = 0 then ((s.ctx (.cc (e.gid / 2 ^ 26))).lane 0).stalled.isSome
    else match s.saved? e.gid with
    | some g => !((s.launch? g.handle).map Launch.ending).getD true
    | none =>
      let x := s.ctx (.gang e.gid)
      x.live && (x.sub e.sub).waits && !((s.launch? x.handle).map Launch.ending).getD true
  if s.se.dhold.isEmpty then s else { s with se := { s.se with dhold := s.se.dhold.filter keeps } }

/-- The debugger's settlements, oldest first, until one meets a gang that is being saved (20 R432). -/
def State.settleHeld : Nat → State → State
  | 0, s => s
  | n + 1, s =>
    match s.se.dhact with
    | [] => s
    | act :: rest =>
      let s1 := s.pruneHold
      let done : State := { s1 with se := { s1.se with dhact := rest } }
      match s1.se.dhold with
      | [] => State.settleHeld n done
      | e :: _ =>
        if e.sub = 0 then State.settleHeld n ((done.settleCore (e.gid / 2 ^ 26) act).dropHold e.gid 0)
        else match done.trapret e.gid e.sub act with
        | (_, 2) => s1
        | (s2, _) => State.settleHeld n (s2.dropHold e.gid e.sub)

/-- A column core's held thread takes the breakpoint trap after all (19 R400; log 27). -/
def State.dropCore (s : State) (n : Nat) (e : HoldEntry) : State :=
  let y := (s.ctx (.cc n)).lane 0
  (s.modCtx (.cc n) fun c => c.modLane 0 fun y => { y with stalled := none }).takeTrap (.cc n) 1
    { TrapInfo.plain trapBreakpoint with code := e.code } (Header.ofWord (y.hw.getD 0)) e.hdr e.idx

/-- Debug returns to locked: DCTL is cleared, and each entry of the hold list is posted as a breakpoint record and removed; its
lanes stay parked, and a column core takes its trap (20 R432; log 27). -/
def State.lockDebug (s : State) : State :=
  let s1 := s.pruneHold.se.dhold.foldl (fun s e =>
    if e.sub = 0 then s.dropCore (e.gid / 2 ^ 26) e
    else
    let h := match s.saved? e.gid with
      | some g => g.handle
      | none => (s.ctx (.gang e.gid)).handle
    let col := e.gid / 2 ^ 26 % 64
    s.postFault (s.launchQueue h col) col
      { FaultRec.base trapBreakpoint h e.lanes e.hdr e.idx (BitVec.ofNat 32 e.gid) with code := e.code, park := true, sub := e.sub }) s
  { s1 with se := { s1.se with dbg := 0, dctl := 0, dhold := [], dhact := [] } }

/-- A launch's priority, read when its gang is restored (R378). -/
def State.launchPrio (s : State) (h : Word64) : Nat :=
  match s.launch? h with
  | some l => l.prio
  | none => 0

/-- A restored gang in its slot and block (R375): its frame is free, sub-gangs ended meanwhile end their threads (19 R409). -/
def State.enterGang (s : State) (g : Saved) (part slot base : Nat) : State :=
  let c : CtxId := .gang g.gid
  let x0 := s.readGang g
  let s := s.injectSeen none noGang (s.frameOf g) (2 ^ 17)
  let x : Ctx := { x0 with part := part, slot := slot, regBase := base, prio := s.launchPrio x0.handle }
  let s0 := ((s.dropSaved g.gid).setCtx c x).giveSlots c fun u => decide (u = .parked ∨ u = .resumed)
  let s1 := g.acts.foldl (fun s p => if ((s.ctx c).sub p.1).st = .resumed then s.goOn c p.1 (decide (p.2 = 1)) else s) s0
  let gone := maskOf fun l => (x.lane l).act && !(x.lane l).exited && decide ((x.lane l).sub ≠ 0) &&
    decide ((x.sub (x.lane l).sub).st = .none)
  (if gone = 0 then s1 else s1.endThreads c gone).settle c

/-- A saved gang may be restored now: its launch goes on, or is being switched in and has its arenas, its page is there, and what was
released to its frame is published (R372, R376, R378, R380); a quiesced column forms and restores nothing (20 R419). -/
def State.restorable (s : State) (g : Saved) : Bool :=
  g.sealed && decide (g.wkey = 0) && decide (SMap.get 0 s.pw.quiesce g.col = 0) && !s.rangeMarked (s.frameOf g) (2 ^ 17) &&
  match s.launch? g.handle with
  | none => false
  | some l =>
    !l.ending && decide (l.quiescing = 0) &&
    (if l.switched then
      g.state.testBit 4 && s.la.ins.contains g.handle &&
      !(s.la.frames.any fun f => match f.use with
        | .arena h _ _ _ => decide (h = g.handle)
        | _ => false)
     else true)

/-- The core of a GID (R366). -/
def gidCore (g : Nat) : Nat := g / 2 ^ 24 % 256

/-- The saved gang of a core that is restored first: the highest launch priority, then the oldest (R378). -/
def State.restoreNext (s : State) (core : Nat) : Option Saved :=
  bestBy (fun a b => decide (s.launchPrio b.handle < s.launchPrio a.handle) ||
    (decide (s.launchPrio a.handle = s.launchPrio b.handle) && decide (a.age < b.age)))
    (s.la.saved.filter fun g => decide (gidCore g.gid = core) && s.restorable g)

/-- A saved gang restored on a partition that grants a slot and a block of its size (R375). -/
def State.restoreOn (s : State) (g : Saved) (part : Nat) : Option State :=
  let core := gidCore g.gid
  match s.freeSlot core part, s.grantBlock core part (blockRegs (min 4 (s.frameNat (s.frameBase g.col g.frame) 5 1))) none with
  | some slot, some (s1, base) => some (s1.enterGang g part slot base)
  | _, _ => none

/-! ### Making room (R376, R377) -/

/-- Gangs taken off their core. -/
def State.withoutGangs (s : State) (ks : List Nat) : State := ks.foldl (fun s k => s.setCtx (ctxOfKey k) Ctx.none) s

/-- A partition can grant a slot and a block once the given gangs are gone. -/
def State.roomWithout (s : State) (core part size : Nat) (ks : List Nat) : Bool :=
  let s1 := s.withoutGangs ks
  (s1.freeSlot core part).isSome && (s1.grantBlock core part size none).isSome

/-- The gangs of a partition that may be evicted for priority q, in the order of R377 step 2. -/
def State.evictable (s : State) (core part q : Nat) : List Nat :=
  (((s.gangsOn core).filter fun p => decide (p.2.part = part ∧ p.2.prio < q) && !p.2.saving).foldl (fun r p =>
    insertBy (fun (a b : Nat × Ctx) => decide (a.2.prio < b.2.prio) || (decide (a.2.prio = b.2.prio) && decide (b.2.age < a.2.age))) p r)
    []).map Prod.fst

/-- The victims of a partition: the fewest that free the slot and block, gangs that are being saved counted as gone; none
where even all are not enough. -/
def State.victims (s : State) (core part size q : Nat) : Option (List Nat) :=
  let out := ((s.gangsOn core).filter fun p => p.2.saving).map Prod.fst
  let vs := s.evictable core part q
  (List.range (vs.length + 1)).findSome? fun n => if s.roomWithout core part size (out ++ vs.take n) then some (vs.take n) else none

/-- The partition to evict from, with its victims: the fewest evictions, the lowest number (R377 step 1). -/
def State.evictPlan (s : State) (core size q : Nat) : Option (List Nat) :=
  bestBy (fun (a b : List Nat) => decide (a.length < b.length)) ((List.range 8).filterMap fun p => s.victims core p size q)

/-- A gang of a core, but one, held by a long fault, that may be saved to make room (R376 step 3). -/
def State.longFaulted (s : State) (core : Nat) (but : Option Nat) : Option (Nat × Nat) :=
  (s.gangsOn core).findSome? fun p =>
    if p.2.saving ∨ some (p.1 - 64) = but then none
    else (SMap.keys p.2.lanes).findSome? fun l => match (p.2.lane l).wait with
      | .page pa false => some (p.1 - 64, pa / 2 ^ 16 * 2 ^ 16)
      | _ => none

/-- A gang of a core that a long fault holds is saved, where another gang or bin waits for a slot or a block and the pool has a frame
(R376 step 3); none where no long fault holds one. -/
def State.saveLongFault (s : State) (core : Nat) (but : Option Nat) : Option State :=
  (s.longFaulted core but).map fun p => s.startSave p.1 4 p.2

/-- Room sought for a bin or gang of priority q that no partition can take: gangs held by long faults are saved first, then
gangs of lower priority are evicted, where the pool has the frames (R376, R377). -/
def State.seekRoom (s : State) (core size q : Nat) : State :=
  match s.saveLongFault core none with
  | some s1 => s1
  | none =>
    match s.evictPlan core size q with
    | some ks =>
      if (s.freeFrames (core / 4)).length < ks.length then s else ks.foldl (fun s k => s.startSave (k - 64) 8 0) s
    | none => s

/-! ### The events -/

/-- A path waits for the answer of a regx: its next word waits on the slot of a request, or is the consumer its PD names
(R138; 02 R63, R66). -/
def State.onRegx (s : State) (p : Path) : Bool :=
  let x := s.ctx p.ctx
  let slots (l : Nat) : Nat := x.regx.foldl (fun m q => if q.lanes.getLsbD l then m ||| (q.slot.map (2 ^ ·)).getD 0 else m) 0
  match s.fetch p with
  | .word w _ => (lanesOf p.lanes).any fun l =>
      ((x.lane l).holds.any fun h => decide (h.left ≤ 1) && h.due.isNone) ||
      decide ((((decode w).bind Instr.row).map fun r => r.c.waitMask).getD 0 &&& slots l ≠ 0)
  | _ => false

/-- A gang is blocked on a regx that grows its block: its oldest request asks for more, and every path of it waits for the answer
(R138). -/
def State.regxBlocked (s : State) (c : CtxId) : Bool :=
  let x := s.ctx c
  let ps := x.issuers.flatMap fun j => (x.paths j).map fun p => (⟨c, j, p.1, p.2.1, p.2.2⟩ : Path)
  (match x.regx with
   | q :: _ => decide (x.regCode < q.code)
   | [] => false) && !x.saving && !ps.isEmpty && ps.all s.onRegx

/-- The oldest or the youngest gang of a list. -/
def oldestOf (old : Bool) (gs : List (Nat × Ctx)) : Option Nat :=
  (bestBy (fun (a b : Nat × Ctx) => if old then decide (a.2.age < b.2.age) else decide (b.2.age < a.2.age)) gs).map Prod.fst

/-- Every resident gang of a partition is blocked on a growing regx, and the oldest cannot be granted: the youngest (R138). -/
def State.regxStuck (s : State) (core part : Nat) : Option Nat :=
  let gs := (s.gangsOn core).filter fun p => p.2.part = part
  if gs.all fun p => s.regxBlocked (ctxOfKey p.1) then
    match oldestOf true gs, oldestOf false gs with
    | some o, some y =>
      let code := match (s.ctx (ctxOfKey o)).regx with
        | q :: _ => q.code
        | [] => 0
      if (s.grantBlock core part (blockRegs code) (some o)).isSome then none else some (y - 64)
    | _, _ => none
  else none

/-- REGX_EVICT: the youngest gang of a partition whose gangs are all blocked on growing regx is evicted, or, with no frame
free, its regx is refused (R138). -/
def execRegxEvict (core part : Nat) (s : State) : Host.Outcome State Fault Refusal :=
  match s.regxStuck core part with
  | none => .next s
  | some gid =>
    if (s.freeFrames (core / 4)).isEmpty then
      match (s.ctx (.gang gid)).regx with
      | q :: _ => .next (s.answerRegx (.gang gid) q 0xFFFFFFFF)
      | [] => .next s
    else .next (s.startSave gid 8 0)

/-- GANG_SAVE: the frame of a gang that is being saved is sealed (R375). -/
def execGangSave (gid : Nat) (s : State) : Host.Outcome State Fault Refusal :=
  match s.saved? gid with
  | some g =>
    if (s.ctx (.gang gid)).live && (s.ctx (.gang gid)).saving && s.sealable (.gang gid) && !s.rangeLeased (s.frameOf g) (2 ^ 17) then
      ret (s.sealGang g)
    else .next s
  | none => .next s

/-- GANG_RESTORE: the saved gang that is due on its core is restored on a partition that can take it; where none can, room is
sought (R375, R377, R378). -/
def execGangRestore (col frame part : Nat) (s : State) : Host.Outcome State Fault Refusal :=
  match s.la.saved.find? fun g => decide (g.col = col ∧ g.frame = frame) with
  | none => .next s
  | some g =>
    let core := gidCore g.gid
    if s.restoreNext core ≠ some g ∨ 8 ≤ part then .next s
    else
      match s.restoreOn g part with
      | some s1 => ret s1
      | none =>
        if (List.range 8).any fun p => (s.restoreOn g p).isSome then .next s
        else .next (s.seekRoom core (blockRegs g.regs) (s.launchPrio g.handle))

/-- LONG_FAULT_RESUME: the lanes whose waits have ended issue their words again (R376 step 4). -/
def execLongFaultResume (c : CtxId) (s : State) : Host.Outcome State Fault Refusal :=
  .next (s.modCtx c fun x => x.modLanes (SMap.keys x.lanes) fun _ y => match y.wait with
    | .page _ true => { y with wait := .none }
    | _ => y)

/-- The waits for pages that satisfy a test end, of resident gangs, column cores and saved gangs, and their homes may be asked
again (R376 step 4). -/
def State.endPages (s : State) (p : Nat → Bool) : State :=
  let s1 := (SMap.keys s.ctxs).foldl (fun s k => s.modCtx (ctxOfKey k) fun x => x.modLanes (SMap.keys x.lanes) fun _ y =>
    match y.wait with
    | .page pa _ => if p (pa / 2 ^ 16 * 2 ^ 16) then { y with wait := .page pa true } else y
    | _ => y) s
  let wake (g : Saved) : Saved := if g.wkey ≠ 0 ∧ p g.wkey then { g with wkey := 0 } else g
  { s1 with
    la := { s1.la with saved := s1.la.saved.map wake }
    ms := { s1.ms with asked := s1.ms.asked.filter fun a => !p a } }

end Sys2Proof.Machine
end

