-- ==== Sys2Proof/Machine/Commands.lean ====
section
/-! DEFINITION. What the commands of every engine share: the word they came from, their faults, whose accesses they make, and their
clasps at issue and at completion (11 R258, R259, R269; 14 R323, R326, R445). -/

namespace Sys2Proof.Machine

/-- The command identity of a word's source lane (R365). -/
def Issue.cmdId (is : Issue) (s : State) (l : Nat) : CmdId where
  ctx := is.ctx
  handle := is.c.handle
  gid := is.c.gid
  lane := l
  hdr := is.hdr
  idx := is.idx
  sup := s.isSup is.ctx
  col := s.colOf is.ctx
  core := if is.ctx.isCC then 4 * s.colOf is.ctx else is.c.core

/-- The block that issued the word is slot-tolerant (02 R46; 18 R393). -/
def Issue.tolerant (is : Issue) : Bool := is.h.st

/-- n bytes that an instruction's unit reads at their home: owners give their dirty words back (09 R226; 13 R297). -/
def Issue.pull (is : Issue) (s : State) (pa n : Nat) : State × List Byte :=
  (s.readHome pa n, leBytes n (s.viewNat (s.cacheOf is.ctx) pa n))

/-- Several reads in order. -/
def Issue.pulls (is : Issue) (s : State) (pas : List Nat) (n : Nat) : State × List (List Byte) :=
  pas.foldl (fun r pa => let q := is.pull r.1 pa n; (q.1, r.2 ++ [q.2])) (s, [])

/-- A precise trap of the source lane, before any effect; the other lanes move on (11 R260). -/
def Issue.sourceTrap (is : Issue) (s : State) (l kind rslot : Nat) (line : Word64) : Done :=
  let m : Word64 := 1#64 <<< l
  .held (s.takeTrap is.ctx m ⟨kind, 0, rslot, line, false, false⟩ is.h is.hdr is.idx) m

/-- A launch whose commands are held at their issue while it is quiesced or ends (17 R380, R381). -/
def State.quiesced (s : State) (h : Word64) : Bool :=
  match s.launch? h with
  | some l => l.ending || decide (l.quiescing ≠ 0)
  | none => false

/-! ### Faults met after issue -/

/-- A fault of an engine command: its record goes to the launch's event queue, or to the column core's own (11 R258;
17 R363, R369, R381). -/
def State.engineFault (s : State) (b : CmdId) (kind code rslot : Nat) (line : Word64) : State :=
  let rec0 : FaultRec := { FaultRec.base kind b.handle (1#64 <<< b.lane) b.hdr b.idx b.gid with
    eng := true, slot := rslot, code := code, line := line }
  match s.launch? b.handle with
  | some l =>
    s.launchFault b.handle kind (l.recNat 28 2) b.col { rec0 with post := l.ending }
  | none => s.postFault b.col b.col rec0

/-! ### Element accesses -/

/-- Whose access an engine command's is: the command's level, its core, launch and column (09 R222). -/
def CmdId.who (b : CmdId) (tlbs : List Nat) : Who where
  tlbs := tlbs
  user := !b.sup
  sup := b.sup
  isCC := b.ctx.isCC
  core := b.core
  handle := b.handle
  cache := 5 * b.col + b.core % 4

/-- A command's access of element (x, y) of n bytes checked; one that has waited 1 ms for another module fails (16 R348). -/
def State.engineCheck (s : State) (id : Nat) (w : Who) (r : Rec256) (x y : Int) (n : Nat) (k : AccKind) : State × Found :=
  match s.checkAccess w r x y n n k with
  | (s1, .ok pa tgt) =>
    if s1.stopped pa && s1.stopLate id then (s1, .trap trapPermission (s1.accessLine w r x y n) true) else (s1, .ok pa tgt)
  | q => q

/-! ### Clasps -/

/-- A command's clasp record checked at issue, in the order of R268, R291 and R445: the clasp, a trap, or a page that must
become resident. -/
def State.commandClasp (s : State) (w : Who) (slot : Nat) (r : Rec256) (x y : Int) : State × Found × ClaspRef :=
  let q := s.checkClasp w r x y true false
  let ref : ClaspRef := match s.place? w r x y 16 with
    | .virt va => .virt (wrap 64 va) slot
    | .scratch pa =>
      let core := (pa - 2 ^ 48) / 2 ^ 21
      (match s.arena w.handle core with
       | some (b, _) => .scratch w.handle core (pa % 2 ^ 21 - b) slot
       | none => .virt 0 slot)
    | _ => .virt 0 slot
  (q.1, q.2, ref)

/-- The bytes of a completed command on their way to its clasp (R323). -/
def State.sendBytes (s : State) (b : CmdId) (ref : Option ClaspRef) (n : Nat) : State :=
  match ref with
  | some r => { s with opId := s.opId + 1, cl := { s.cl with adds := s.cl.adds ++ [⟨s.opId, r, n, b⟩] } }
  | none => s

/-- An addition that has been settled. -/
def State.dropAdd (s : State) (id : Nat) : State :=
  { s with
    cl := { s.cl with adds := s.cl.adds.filter fun a => a.id ≠ id }
    ms := { s.ms with ewaits := s.ms.ewaits.filter fun w => w.1 ≠ id } }

/-- Bytes added to a clasp at an address, or discarded where it is not initialised (R317, R323). -/
def State.addBytesAt (s : State) (a : ClaspAdd) (pa : Nat) : State :=
  match (s.clasp pa).addBytes a.n with
  | some r => (s.dropAdd a.id).putClasp pa r
  | none => (s.dropAdd a.id).engineFault a.by_ trapClasp 0 a.ref.slot a.ref.line

/-- CLASP_ADD_BYTES: a completed command's bytes reach its clasp; its address is translated again, and a clasp in an arena
that is switched out takes them when it is restored (R323, R326, R445). -/
def execClaspAddBytes (id : Nat) (s : State) : Host.Outcome State Fault Refusal :=
  match s.cl.adds.find? fun a => a.id = id with
  | none => .next s
  | some a =>
    match a.ref with
    | .scratch h core off slot =>
      (match s.arena h core with
       | some (b, _) => ret (s.addBytesAt a (scratch core (b + off)))
       | none =>
         match s.arenaHome h core with
         | none => .next (s.dropAdd id)
         | some (home, _) => if s.pendFull home then .next s
           else .next ((s.dropAdd id).enterPend ⟨h, core, off, .bytes, a.n, a.by_, slot, none⟩))
    | .virt va slot =>
      let fail (s : State) : State := (s.dropAdd id).engineFault a.by_ trapClasp 0 slot (lineOf va)
      match s.translate [256 + a.by_.col] va .write (!a.by_.sup) with
      | (s1, .trap _) => ret (fail s1)
      | (s1, .migrate l) => ret (s1.touchPage l (l.pa va))
      | (s1, .wait) => .next s1
      | (s1, .ok pa l) =>
        if l.mig = 2 ∨ s1.engineHeld true (.column a.by_.col) pa ⟨.ok pa l.tgt, 16, .nc, false⟩ then .next s1
        else if s1.leaseLive pa then ret (s1.noteEngine id [pa])
        else if 2 ≤ l.tgt ∨ (s1.driftOf pa).isSome then ret (fail s1)
        else ret (s1.addBytesAt a pa)

end Sys2Proof.Machine
end

