-- ==== Sys2Proof/Machine/Flags.lean ====
section
/-! DEFINITION. The conditions and carries an instruction computes besides its result (07 R168, R180-R182), and the
order of comparison. The exception flags of floating results are computed with the results (Float). -/

namespace Sys2Proof

/-- The carry-out of addc at width w (R168). -/
def carryOut (w a b c : Nat) : Bool := decide (2 ^ w ≤ a % 2 ^ w + b % 2 ^ w + c)

/-- The borrow-out of subb at width w (R168). -/
def borrowOut (w a b c : Nat) : Bool := decide (a % 2 ^ w < b % 2 ^ w + c)

/-- The condition of an integer comparison (R180, R181). -/
def CC.holds (cc : CC) (a b : Int) : Bool :=
  match cc with
  | .eq => decide (a = b)
  | .ne => decide (a ≠ b)
  | .lt => decide (a < b)
  | .le => decide (a ≤ b)
  | .gt => decide (b < a)
  | .ge => decide (b ≤ a)
  | .num => true
  | .nan => false

/-- The combine mode of cmp (R180). -/
def Comb.apply (m : Comb) (r v : Bool) : Bool :=
  match m with
  | .plain => r
  | .conj => r && v
  | .disj => r || v

namespace Machine

/-- The out-predicate of addc and subb: predicates 0-6, 7 for none (R168). -/
def carryRes (l p : Nat) (v : Bool) : List Res := if p < 7 then [.p l p v] else []

end Machine

end Sys2Proof
end

