-- ==== Sys2Proof/Machine/FloatOps.lean ====
section
/-! DEFINITION. Floating arithmetic, class 0x2 (08 R185-R194). -/

namespace Sys2Proof

namespace Machine

/-- The latency of an add, multiply or fma: class B, E for f64 (R188). -/
def latF (t : Ty) : Nat := if t = .f64 then 12 else 6

/-- The latency of fdiv and fsqrt: class G, I for f64 (R188). -/
def latFdiv (t : Ty) : Nat := if t = .f64 then 32 else 16

/-- One element, or two 16-bit elements with `.x2` (R186). -/
def elemwise (x2 : Bool) (w : Nat) (f : Nat → Nat → Nat → FRes) (a b c : Nat) : FRes :=
  let m := 2 ^ w
  let r := f (a % m) (b % m) (c % m)
  if x2 then
    let r' := f (a / m % m) (b / m % m) (c / m % m)
    ⟨r.bits + 2 ^ w * r'.bits, r.fl ||| r'.fl⟩
  else r

/-- A floating result of `n` registers from S1, S2 and S3, with its flags (R186, R187). -/
def floatEff (t : TWord) (x2 : Bool) (lat n : Nat) (f : Nat → Nat → Nat → FRes) : Issue → State → Option Done :=
  perLane lat true fun is s l =>
    let r := elemwise x2 t.ty.bits f (is.ty s t.ty t.a l) (is.ty s t.ty t.b l) (is.ty s t.ty t.s l)
    ⟨dstPut t.d n l r.bits, r.fl⟩

def execFadd (t : TWord) (x2 : Bool) (s : State) : Host.Outcome State Fault Refusal :=
  issueWith (.fadd t x2) (latF t.ty)
    (floatEff t x2 (latF t.ty) (tyRegs t.ty) fun a b _ => t.ty.fadd t.rnd t.ftz t.sat a b) s

def execFsub (t : TWord) (x2 : Bool) (s : State) : Host.Outcome State Fault Refusal :=
  issueWith (.fsub t x2) (latF t.ty)
    (floatEff t x2 (latF t.ty) (tyRegs t.ty) fun a b _ => t.ty.fsub t.rnd t.ftz t.sat a b) s

def execFmul (t : TWord) (x2 : Bool) (s : State) : Host.Outcome State Fault Refusal :=
  issueWith (.fmul t x2) (latF t.ty)
    (floatEff t x2 (latF t.ty) (tyRegs t.ty) fun a b _ => t.ty.fmul t.rnd t.ftz t.sat a b) s

def execFma (t : TWord) (x2 : Bool) (s : State) : Host.Outcome State Fault Refusal :=
  issueWith (.fma t x2) (latF t.ty)
    (floatEff t x2 (latF t.ty) (tyRegs t.ty) fun a b c => t.ty.fma t.rnd t.ftz t.sat a b c) s

def execFmin (t : TWord) (x2 : Bool) (s : State) : Host.Outcome State Fault Refusal :=
  issueWith (.fmin t x2) (latF t.ty)
    (floatEff t x2 (latF t.ty) (tyRegs t.ty) fun a b _ => t.ty.fminmax false t.ftz a b) s

def execFmax (t : TWord) (x2 : Bool) (s : State) : Host.Outcome State Fault Refusal :=
  issueWith (.fmax t x2) (latF t.ty)
    (floatEff t x2 (latF t.ty) (tyRegs t.ty) fun a b _ => t.ty.fminmax true t.ftz a b) s

def execFabs (t : TWord) (x2 : Bool) (s : State) : Host.Outcome State Fault Refusal :=
  issueWith (.fabs t x2) 4 (floatEff t x2 4 (tyRegs t.ty) fun a _ _ => t.ty.fsign false t.ftz a) s

def execFneg (t : TWord) (x2 : Bool) (s : State) : Host.Outcome State Fault Refusal :=
  issueWith (.fneg t x2) 4 (floatEff t x2 4 (tyRegs t.ty) fun a _ _ => t.ty.fsign true t.ftz a) s

def execFdiv (t : TWord) (x2 : Bool) (s : State) : Host.Outcome State Fault Refusal :=
  issueWith (.fdiv t x2) (latFdiv t.ty)
    (floatEff t x2 (latFdiv t.ty) (tyRegs t.ty) fun a b _ => t.ty.fdiv t.rnd t.ftz t.sat a b) s

def execFsqrt (t : TWord) (x2 : Bool) (s : State) : Host.Outcome State Fault Refusal :=
  issueWith (.fsqrt t x2) (latFdiv t.ty)
    (floatEff t x2 (latFdiv t.ty) (tyRegs t.ty) fun a _ _ => t.ty.fsqrt t.rnd t.ftz t.sat a) s

def execFrcp (t : TWord) (x2 : Bool) (s : State) : Host.Outcome State Fault Refusal :=
  issueWith (.frcp t x2) 10 (floatEff t x2 10 1 fun a _ _ => t.ty.frcp t.ftz t.sat a) s

def execFrsq (t : TWord) (x2 : Bool) (s : State) : Host.Outcome State Fault Refusal :=
  issueWith (.frsq t x2) 10 (floatEff t x2 10 1 fun a _ _ => t.ty.frsq t.ftz t.sat a) s

def execFex2 (t : TWord) (x2 : Bool) (s : State) : Host.Outcome State Fault Refusal :=
  issueWith (.fex2 t x2) 10 (floatEff t x2 10 1 fun a _ _ => t.ty.fex2 t.ftz t.sat a) s

def execFlg2 (t : TWord) (x2 : Bool) (s : State) : Host.Outcome State Fault Refusal :=
  issueWith (.flg2 t x2) 10 (floatEff t x2 10 1 fun a _ _ => t.ty.flg2 t.ftz t.sat a) s

/-- fcls writes one register and sets no flag (R193). -/
def execFcls (t : TWord) (x2 : Bool) (s : State) : Host.Outcome State Fault Refusal :=
  issueWith (.fcls t x2) 4 (floatEff t x2 4 1 fun a _ _ => ⟨t.ty.fcls a, 0⟩) s

/-- fscl: the 32-bit count serves both elements (R186, R194). -/
def execFscl (t : TWord) (x2 : Bool) (s : State) : Host.Outcome State Fault Refusal :=
  issueWith (.fscl t x2) (latF t.ty) (perLane (latF t.ty) true fun is s l =>
    let n := sext 32 (is.src s false t.b l)
    let r := elemwise x2 t.ty.bits (fun a _ _ => t.ty.fscl t.rnd t.ftz t.sat a n) (is.ty s t.ty t.a l) 0 0
    ⟨dstPut t.d (tyRegs t.ty) l r.bits, r.fl⟩) s

end Machine

end Sys2Proof
end

