-- ==== Sys2Proof/Machine/CrossLane.lean ====
section
/-! DEFINITION. Shuffles, reductions, scans and broadcast, class 0x5 (08 R202-R205). -/

namespace Sys2Proof

/-- The segment size of a width code (R202). -/
def segment (wd : Nat) : Nat := 64 / 2 ^ wd

/-- The first lane of a lane's segment (R202). -/
def segBase (S l : Nat) : Nat := l - l % S

/-- The source lane of shfl.idx (R203). -/
def shufIdx (S l n : Nat) : Nat := segBase S l + n % S

/-- The source lane of shfl.up (R203). -/
def shufUp (S l n : Nat) : Nat := if n < S ∧ segBase S l + n ≤ l then l - n else l

/-- The source lane of shfl.down (R203). -/
def shufDown (S l n : Nat) : Nat := if n < S ∧ l + n < segBase S l + S then l + n else l

/-- The source lane of shfl.xor (R203). -/
def shufXor (S l n : Nat) : Nat := segBase S l + ((l - segBase S l) ^^^ (n % S))

namespace Machine

/-- A shuffle: each participant takes the value of its source lane where that lane is a participant, else its own
(R203). -/
def shufEff (d : Dst) (a : Opd) (n : Nat) (wide : Bool) (lane : Nat → Nat → Nat) (cnt : Issue → State → Nat → Nat) :
    Issue → State → Option Done :=
  perLane 8 false fun is s l =>
    let k := lane l (cnt is s l)
    ⟨dstPut d n l (is.src s wide a (if is.act.getLsbD k then k else l)), 0⟩

/-- A shuffle by a register or an operand (R202). -/
def shufT (t : TWord) (wd : Nat) (f : Nat → Nat → Nat → Nat) : Issue → State → Option Done :=
  shufEff t.d t.a (tyRegs t.ty) (decide (t.ty.bits = 64)) (f (segment wd)) fun is s l => is.src s false t.b l

/-- A shuffle by an immediate (R202). -/
def shufQ (q : QWord) (n wd : Nat) (f : Nat → Nat → Nat → Nat) : Issue → State → Option Done :=
  shufEff q.d q.a 1 false (f (segment wd)) fun _ _ _ => n

def execShflIdx (t : TWord) (wd : Nat) (s : State) : Host.Outcome State Fault Refusal :=
  issueWith (.shflIdx t wd) 8 (shufT t wd shufIdx) s

def execShflUp (t : TWord) (wd : Nat) (s : State) : Host.Outcome State Fault Refusal :=
  issueWith (.shflUp t wd) 8 (shufT t wd shufUp) s

def execShflDown (t : TWord) (wd : Nat) (s : State) : Host.Outcome State Fault Refusal :=
  issueWith (.shflDown t wd) 8 (shufT t wd shufDown) s

def execShflXor (t : TWord) (wd : Nat) (s : State) : Host.Outcome State Fault Refusal :=
  issueWith (.shflXor t wd) 8 (shufT t wd shufXor) s

def execShflIdxImm (q : QWord) (n wd : Nat) (s : State) : Host.Outcome State Fault Refusal :=
  issueWith (.shflIdxImm q n wd) 8 (shufQ q n wd shufIdx) s

def execShflUpImm (q : QWord) (n wd : Nat) (s : State) : Host.Outcome State Fault Refusal :=
  issueWith (.shflUpImm q n wd) 8 (shufQ q n wd shufUp) s

def execShflDownImm (q : QWord) (n wd : Nat) (s : State) : Host.Outcome State Fault Refusal :=
  issueWith (.shflDownImm q n wd) 8 (shufQ q n wd shufDown) s

def execShflXorImm (q : QWord) (n wd : Nat) (s : State) : Host.Outcome State Fault Refusal :=
  issueWith (.shflXorImm q n wd) 8 (shufQ q n wd shufXor) s

/-- The participants' sources, in lane order (R41, R204). -/
def laneSources (t : TWord) (is : Issue) (s : State) : List (Option Nat) :=
  (List.range 64).map fun l => if is.act.getLsbD l then some (is.ty s t.ty t.a l) else none

/-- One floating step of a tree, flags ORed along (R204). -/
def fltStep (t : TWord) (op : RedOp) (a b : FRes) : FRes :=
  let r := op.flt t.ty t.rnd t.ftz t.sat a.bits b.bits
  ⟨r.bits, a.fl ||| b.fl ||| r.fl⟩

/-- A participant's source as a tree takes it: a NaN is the canonical one and a signalling one raises NV (R24); under ftz a subnormal is
flushed and raises DF (R27). -/
def fltLeaf (t : TWord) (x : Nat) : FRes :=
  let v := t.ty.readF t.ftz x
  match v.1 with
  | .nan _ => ⟨t.ty.nanBits, v.2⟩
  | _ => ⟨t.ty.flushed t.ftz x, v.2⟩

/-- The value of each lane after a scan, or of lane 0 after a reduction (R204); under `.sat` a result that no step combined is saturated
too (R28). -/
def reduced (t : TWord) (op : RedOp) (scan : Bool) (v : List (Option Nat)) (l : Nat) : FRes :=
  if t.ty.isFloat then
    let w := v.map fun o => o.map (fltLeaf t)
    (((if scan then (scanTree (fltStep t op) w).getD l none else redTree (fltStep t op) w)).getD ⟨0, 0⟩).sat t.ty t.sat
  else
    let w := v.map fun o => o.map t.ty.value
    ⟨fit t.sat t.ty (((if scan then (scanTree (op.int t.ty) w).getD l none else redTree (op.int t.ty) w)).getD 0), 0⟩

/-- The flags of every step of a tree (R30, R204). -/
def treeFlags (t : TWord) (op : RedOp) (scan : Bool) (v : List (Option Nat)) : Flags :=
  if t.ty.isFloat then
    let w := v.map fun o => o.map (fltLeaf t)
    let f := fltStep t op
    if scan then (scanTree f w).foldl (fun z o => z ||| (o.getD ⟨0, 0⟩).fl) 0 else ((redTree f w).getD ⟨0, 0⟩).fl
  else 0

/-- redl and scanl; on a column core the source of lane 0, unchanged (03 R79). -/
def treeEff (t : TWord) (op : RedOp) (scan : Bool) (is : Issue) (s : State) : Option Done :=
  let v := laneSources t is s
  let out (l : Nat) : Nat := if is.ctx.isCC then is.ty s t.ty t.a l else (reduced t op scan v l).bits
  let res := (lanesOf is.act).flatMap fun l => dstPut t.d (tyRegs t.ty) l (out l)
  some (.next (s.later is.ctx 14 res (if is.ctx.isCC then 0 else treeFlags t op scan v) t.ty.isFloat))

def execRedl (t : TWord) (op : RedOp) (s : State) : Host.Outcome State Fault Refusal :=
  issueWith (.redl t op) 14 (treeEff t op false) s

def execScanl (t : TWord) (op : RedOp) (s : State) : Host.Outcome State Fault Refusal :=
  issueWith (.scanl t op) 14 (treeEff t op true) s

/-- bcast: the lane the lowest participant names, where it is a participant (R205); on a column core lane 0 (03 R79). -/
def execBcast (t : TWord) (s : State) : Host.Outcome State Fault Refusal :=
  issueWith (.bcast t) 8 (perLane 8 false fun is s l =>
    let m := (lowestLane is.act).getD 0
    let k := is.src s false t.b m % 64
    ⟨dstPut t.d (tyRegs t.ty) l (is.ty s t.ty t.a (if is.act.getLsbD k then k else m)), 0⟩) s

end Machine

end Sys2Proof
end

