-- ==== Sys2Proof/Machine/Queues.lean ====
section
/-! DEFINITION. Named queues and push boxes: the queue instructions of class 0x8 and their events (11 R253-R255, R260-R265),
and cross-core pushes (R270-R272). -/

namespace Sys2Proof.Machine

/-! ### Landing a result in a gang, or in its frame -/

/-- The frame in which a gang stands saved (17 R373). -/
def State.savedFrame (s : State) (gid : Nat) : Option Nat :=
  (s.la.saved.find? fun g => g.gid = gid).map fun g => s.frameBase g.col g.frame

/-- A register of a lane in a frame written, its E bit cleared (17 R373, R375). -/
def State.landFrame (s : State) (base l r : Nat) (v : Word) : State :=
  let s1 := s.homeWrite (base + 0x4000 + 256 * r + 4 * l) (leBytes 4 v.toNat)
  let e := base + 0xC00 + 32 * l + r / 8
  s1.homeWrite e [BitVec.ofNat 8 (s1.hwNat e 1) &&& ~~~(BitVec.ofNat 8 (2 ^ (r % 8)))]

/-- An asynchronous producer's words for a gang's registers: into the registers while it is resident, else into its frame
(02 R71; 17 R375). -/
def State.deliver (s : State) (gid : Nat) (ws : List (Nat × Nat × Word)) : State :=
  if (s.ctx (.gang gid)).live then s.land (.gang gid) (ws.map fun w => .g w.1 w.2.1 w.2.2)
  else
    match s.savedFrame gid with
    | some base => ws.foldl (fun s w => s.landFrame base w.1 w.2.1 w.2.2) s
    | none => s

/-! ### Queues -/

/-- Slots from reservation to release (R255). -/
def Queue.occupied (q : Queue) : Nat := q.slots.length

/-- The allowance of a port. -/
def Queue.allowance (q : Queue) (port : Nat) : Nat := q.allow.getD port 0

/-- An allowance changed. -/
def Queue.setAllow (q : Queue) (port v : Nat) : Queue := { q with allow := q.allow.set port v }

/-- The arena offset of a slot (R254). -/
def Queue.offset (q : Queue) (num : Nat) : Nat := q.base + 128 * q.size * num

/-- The handle of a slot (R254). -/
def Queue.handle (q : Queue) (x : QSlot) : Nat :=
  x.tag * 2 ^ 24 + x.port * 2 ^ 21 + q.offset x.num % 2 ^ 21 / 128 * 128 + bit x.err

/-- The next slot reserved for a port: the queue, and the slot (R254, R263). -/
def Queue.reserve (q : Queue) (port tag : Nat) : Queue × QSlot :=
  let x : QSlot := ⟨q.rsv % max 1 q.count, q.rsv, port, tag, false, false, none, none⟩
  ({ q.setAllow port (q.allowance port - 1) with rsv := q.rsv + 1, slots := q.slots ++ [x] }, x)

/-- A slot replaced. -/
def Queue.putSlot (q : Queue) (x : QSlot) : Queue :=
  { q with slots := q.slots.map fun y => if y.seq = x.seq then x else y }

/-- A slot released: its port's allowance rises (R255). -/
def Queue.release (q : Queue) (x : QSlot) : Queue :=
  { q.setAllow x.port (q.allowance x.port + 1) with slots := q.slots.filter fun y => y.seq ≠ x.seq }

/-- The queue is Ready and the gang's launch owns it (R260). -/
def Queue.ownedBy (q : Queue) (h : Word64) : Bool := decide (q.owner = some h)

/-- A queue instruction on its source lane: the queue-misuse trap of R260 when the queue is not its launch's, else its
effect. -/
def queueEff (num : Nat) (f : Issue → State → Nat → Queue → Option Done) (is : Issue) (s : State) : Option Done :=
  (lowestLane is.act).bind fun l =>
    let q := s.queue is.c.core num
    if q.ownedBy is.c.handle then f is s l q else some (is.sourceTrap s l trapQueue 255 0)

/-- A word written on every participant after a class C latency (R260; 02 R62). -/
def Issue.writeAll (is : Issue) (s : State) (d : Dst) (n v : Nat) : Done :=
  .next (s.later is.ctx 8 ((lanesOf is.act).flatMap fun l => dstPut d n l v) 0 false)

/-- qinit (R261). -/
def qinitEff (t : TWord) (num : Nat) (is : Issue) (s : State) : Option Done :=
  (lowestLane is.act).map fun l =>
    let base := is.src s false t.a l
    let shape := is.src s false t.b l
    let count := bitsOf shape 8 0
    let size := bitsOf shape 25 16
    let q := s.queue is.c.core num
    let arena := ((s.arena is.c.handle is.c.core).map Prod.snd).getD 0
    let bad := decide (base % 128 ≠ 0) || decide (shape ≠ count + 2 ^ 16 * size) || !decide (1 ≤ count ∧ count ≤ 256) ||
      !decide (1 ≤ size ∧ size ≤ 512) || decide (arena < base + count * size * 128) ||
      (q.owner.isSome && !q.ownedBy is.c.handle) || (q.ownedBy is.c.handle && (!q.slots.isEmpty || !q.pend.isEmpty))
    if bad then is.sourceTrap s l trapQueue 255 0
    else .next (s.putQueue is.c.core num { Queue.free with owner := some is.c.handle, base := base, count := count, size := size })

def execQinit (t : TWord) (q : Nat) (s : State) : Host.Outcome State Fault Refusal :=
  issueWith (.qinit t q) 0 (qinitEff t q) s

/-- qallow (R262). -/
def execQallow (t : TWord) (q port : Nat) (s : State) : Host.Outcome State Fault Refusal :=
  issueWith (.qallow t q port) 0 (queueEff q fun is s l x =>
    let v := is.src s false t.a l
    let others := x.allow.sum - x.allowance port
    some (if x.count < v + others + x.occupied then is.sourceTrap s l trapQueue 255 0
      else .next (s.putQueue is.c.core q (x.setAllow port v)))) s

/-- qpush.rsv: it does not issue while its port's allowance is 0 (R263). -/
def qpushRsvEff (t : TWord) (q port : Nat) : Issue → State → Option Done :=
  queueEff q fun is s l x =>
    if x.allowance port = 0 then none
    else
      let r := x.reserve port (is.src s false t.a l % 256)
      some (is.writeAll (s.putQueue is.c.core q r.1) t.d 1 (r.1.handle r.2))

def execQpushRsv (t : TWord) (q port : Nat) (s : State) : Host.Outcome State Fault Refusal :=
  issueWith (.qpushRsv t q port) 8 (qpushRsvEff t q port) s

/-- qpush.pub: a core-scope release that publishes the slot its handle names (R263). -/
def qpushPubEff (t : TWord) (q : Nat) : Issue → State → Option Done :=
  queueEff q fun is s l x =>
    let off := is.src s false t.a l % 2 ^ 21 / 128 * 128
    match x.slots.find? fun y => decide (x.offset y.num % 2 ^ 21 / 128 * 128 = off) && !y.published with
    | none => some (is.sourceTrap s l trapQueue 255 0)
    | some y =>
      if !s.released is.ctx is.act .core then none
      else some (.next (s.putQueue is.c.core q (x.putSlot { y with published := true })))

def execQpushPub (t : TWord) (q : Nat) (s : State) : Host.Outcome State Fault Refusal :=
  issueWith (.qpushPub t q) 0 (qpushPubEff t q) s

/-- qpop: bound to the next reservation; the destination is empty until it is published (R264). -/
def qpopEff (t : TWord) (q : Nat) : Issue → State → Option Done :=
  queueEff q fun is s l x =>
    let gid := is.c.gid.toNat
    if x.pend.any fun p => p.gid = gid then some (is.sourceTrap s l trapQueue 255 0)
    else if x.count ≤ x.pend.length then none
    else
      let reg := (dstReg? t.d).getD 0
      let slots := x.slots.map fun y => if y.holder = some gid ∧ y.releasing = none then { y with releasing := some s.opId } else y
      let y : Queue := { x with slots := slots, pops := x.pops + 1, pend := x.pend ++ [⟨gid, x.pops, is.act, reg⟩] }
      some (.next ((s.putQueue is.c.core q y).modCtx is.ctx fun c =>
        (lanesOf is.act).foldl (fun (c : Ctx) l => c.markEmpty l reg) c))

def execQpop (t : TWord) (q : Nat) (s : State) : Host.Outcome State Fault Refusal :=
  issueWith (.qpop t q) 0 (qpopEff t q) s

/-- The word of qpeek (R265). -/
def Queue.peek (q : Queue) : Nat :=
  let pend := (q.slots.filter fun y => !y.published).length
  let rdy := (q.slots.filter fun y => y.published && decide (q.pops ≤ y.seq)).length
  (q.count - q.occupied) * 2 ^ 18 + pend * 2 ^ 9 + rdy

def execQpeek (t : TWord) (q : Nat) (s : State) : Host.Outcome State Fault Refusal :=
  issueWith (.qpeek t q) 8 (queueEff q fun is s _ x => some (is.writeAll s t.d 1 x.peek)) s

/-- QPOP_DELIVER: the reservation a gang's pop is bound to has been published; the handle is written, and the gang holds the
slot (R264). -/
def execQpopDeliver (core q gid : Nat) (s : State) : Host.Outcome State Fault Refusal :=
  let x := s.queue core q
  match x.pend.find? fun p => p.gid = gid with
  | none => .next s
  | some p =>
    match x.slots.find? fun y => decide (y.seq = p.seq) && y.published with
    | none => .next s
    | some y =>
      let x1 := { x.putSlot { y with holder := some gid } with pend := x.pend.filter fun r => r.gid ≠ gid }
      ret ((s.putQueue core q x1).deliver gid ((lanesOf p.lanes).map fun l => (l, p.reg, BitVec.ofNat 32 (x.handle y))))

/-- A gang's operations issued before a point have completed (R255). -/
def State.accessesDone (s : State) (gid upto : Nat) : Bool :=
  !s.ms.ops.any fun o => decide (o.ctx = .gang gid ∧ o.id < upto)

/-- A held slot is to be released: its holder has popped again, or has exited (R255). -/
def State.slotDue (s : State) (y : QSlot) : Bool :=
  match y.holder with
  | none => false
  | some g =>
    match y.releasing with
    | some u => s.accessesDone g u
    | none =>
      let c := s.ctx (.gang g)
      (if c.live then decide (c.living = 0) else !s.la.saved.any fun x => x.gid = g) && s.accessesDone g s.opId

/-- QUEUE_SLOT_RELEASE: the slots a gang held are released, and their ports' allowances rise (R255). -/
def execQueueSlotRelease (core q gid : Nat) (s : State) : Host.Outcome State Fault Refusal :=
  let x := s.queue core q
  let due := x.slots.filter fun y => decide (y.holder = some gid) && s.slotDue y
  if due.isEmpty then .next s else .next (s.putQueue core q (due.foldl Queue.release x))

/-! ### Push boxes (R270-R272) -/

def State.box (s : State) (core n : Nat) : Option Box := SMap.get none s.en.boxes (16 * core + n)

def State.putBox (s : State) (core n : Nat) (b : Option Box) : State :=
  { s with en := { s.en with boxes := SMap.set none s.en.boxes (16 * core + n) b } }

/-- A gang has an Armed box. -/
def State.hasBox (s : State) (gid : Nat) : Bool := s.en.boxes.any fun p => match p.2 with
  | some b => decide (b.gid = gid)
  | none => false

/-- xarm: a Free box armed for a gang that has none (R272). -/
def execXarm (t : TWord) (box : Nat) (s : State) : Host.Outcome State Fault Refusal :=
  issueWith (.xarm t box) 0 (fun is s => (lowestLane is.act).map fun l =>
    let gid := is.c.gid.toNat
    if (s.box is.c.core box).isSome || s.hasBox gid then is.sourceTrap s l trapQueue 255 0
    else
      let reg := (dstReg? t.d).getD 0
      .next ((s.putBox is.c.core box (some ⟨gid, is.c.handle, reg, is.act⟩)).modCtx is.ctx fun c =>
        (lanesOf is.act).foldl (fun (c : Ctx) l => c.markEmpty l reg) c)) s

/-- xpush: the path waits until its push is delivered (R272). -/
def execXpush (t : TWord) (box : Nat) (s : State) : Host.Outcome State Fault Refusal :=
  issueWith (.xpush t box) 0 (fun is s => (lowestLane is.act).map fun l =>
    match s.roleCore (s.who is.ctx) (is.src s false t.a l % 16) with
    | none => is.sourceTrap s l trapBounds 255 0
    | some core =>
      let p : Push := ⟨core, box, is.c.gid.toNat, is.sub, is.act, is.path,
        (lanesOf is.act).map fun l => (l, BitVec.ofNat 32 (dstData t.d 1 is l)), is.c.handle⟩
      .held ({ s.block is is.path fun _ => .push is.path with
        en := { s.en with pushes := s.en.pushes ++ [p] } }) is.path) s

/-- The first push that waits on a box and matches it, its releases done (R272). -/
def State.pushFor (s : State) (core n : Nat) (b : Box) : Option Push :=
  (s.en.pushes.find? fun p => decide (p.core = core ∧ p.box = n ∧ p.handle = b.handle)).bind fun p =>
    if s.released (.gang p.gid) p.lanes .column then some p else none

/-- XPUSH_DELIVER: a push lands in its armed box, and its path goes on (R272). -/
def execXpushDeliver (core box : Nat) (s : State) : Host.Outcome State Fault Refusal :=
  match s.box core box with
  | none => .next s
  | some b =>
    match s.pushFor core box b with
    | none => .next s
    | some p =>
      let val (l : Nat) : Word := ((p.data.find? fun d => d.1 = l).map Prod.snd).getD 0
      let s1 := (s.putBox core box none).deliver b.gid ((lanesOf b.lanes).map fun l => (l, b.reg, val l))
      let s2 := s1.acquire (.gang b.gid) .column
      let s3 : State := { s2 with en := { s2.en with pushes := s2.en.pushes.filter fun r => r ≠ p } }
      ret (s3.passWord (.gang p.gid) (maskOf fun l =>
        p.path.getLsbD l && decide (((s3.ctx (.gang p.gid)).lane l).wait = .push p.path)))

/-- Every receiving lane's thread of a box has exited (R270). -/
def State.boxDead (s : State) (b : Box) : Bool :=
  let c := s.ctx (.gang b.gid)
  if c.live then (c.living &&& b.lanes) = 0 else !s.la.saved.any fun x => x.gid = b.gid

/-- PUSH_BOX_FREE: a box whose receivers have exited, or whose launch has retired, is Free (R270). -/
def execPushBoxFree (core box : Nat) (s : State) : Host.Outcome State Fault Refusal :=
  match s.box core box with
  | none => .next s
  | some b => if s.boxDead b || (s.launch? b.handle).isNone then .next (s.putBox core box none) else .next s

end Sys2Proof.Machine
end

