-- ==== Sys2Proof/Machine/Engines.lean ====
section
/-! DEFINITION. The access engine and the copy engines: ae.go, ae.halt, cp.go and cp.fill of class 0x9, and their events
(11 R256-R259, R266-R269). -/

namespace Sys2Proof

/-- A field of an access-program descriptor (R256). -/
def descNat (d : List Byte) (off n : Nat) : Nat := leNat ((d.drop off).take n)

/-- The iterations of a loop level; 0 acts as 1 (R256). -/
def descCount (d : List Byte) (l : Nat) : Nat := max 1 (descNat d (6 * l) 2)

/-- All iterations of a stream. -/
def descTotal (d : List Byte) : Nat := ((List.range 5).map (descCount d)).foldl (· * ·) 1

/-- The loop indices of an iteration, level 0 fastest (R257). -/
def descIndex (d : List Byte) (it l : Nat) : Nat :=
  it / (((List.range l).map (descCount d)).foldl (· * ·) 1) % descCount d l

/-- The block's origin in an iteration (R257). -/
def descOrigin (d : List Byte) (it : Nat) : Int × Int :=
  (((List.range 5).map fun l => sext 16 (descNat d (6 * l + 2) 2) * (descIndex d it l : Int)).sum,
   ((List.range 5).map fun l => sext 16 (descNat d (6 * l + 4) 2) * (descIndex d it l : Int)).sum)

def descBX (d : List Byte) : Nat := descNat d 30 2
def descBY (d : List Byte) : Nat := descNat d 32 2
def descQueue (d : List Byte) : Nat := descNat d 34 1 % 16
def descPort (d : List Byte) : Nat := descNat d 34 1 / 16 % 8
def descTag (d : List Byte) : Nat := descNat d 35 1
def descSrc (d : List Byte) : Nat := descNat d 36 1 % 16
def descOn (d : List Byte) : Bool := decide (descNat d 37 1 % 2 = 1)

/-- The fields that must be 0, and the blocks' limits (R256). -/
def descOk (d : List Byte) : Bool :=
  decide (descNat d 34 1 < 128 ∧ descNat d 36 1 < 16 ∧ descNat d 37 1 < 2 ∧ descNat d 38 26 = 0) &&
  decide (1 ≤ descBX d ∧ 1 ≤ descBY d)

namespace Machine

/-- A path waits for a page that its source lane needs (09 R221; 14 R445). -/
def Issue.pathPage (is : Issue) (s : State) (l : Leaf) (pa : Nat) : Done :=
  .held ((s.touchPage l pa).modCtx is.ctx fun c => c.modLanes (lanesOf is.path) fun _ y => { y with wait := .page pa false }) is.path

/-! ### Bytes an instruction's source lane reads -/

/-- The number of an agent's read of a parameter block, among the accesses that wait for a link. -/
def blockOp (c : CtxId) : Nat := 2 ^ 79 + ctxKey c

/-- A read of bytes waits: its link holds them, or a slot takes the resource that they come from (16 R351; 18 R394). -/
def State.blockHeld (s : State) (cache pa n : Nat) : Bool := s.stopped pa || s.lineHeld cache .nc pa n

/-- Bytes that an instruction's source lane reads from global memory, in steps: a trap, a page to wait for, or the bytes; one whose link
begins to hold it is noted, and fails after 1 ms; nothing while it has to wait (16 R348, R351; 18 R393, R394). -/
def State.readBlock (s : State) (is : Issue) (va n step : Nat) : Option (State × Found × List Byte) :=
  let cs := (List.range (n / step)).foldl (fun (r : State × List Found) i =>
    let x := r.1.checkVirt (r.1.who is.ctx) 0 (va + step * i : Nat) .read
    (x.1, r.2 ++ [x.2])) (s, [])
  let id := blockOp is.ctx
  let pas := foundPlaces cs.2
  let stop := cs.2.find? fun f => match f with
    | .trap _ _ _ => true
    | .page _ _ => true
    | _ => false
  match stop with
  | some f => some (cs.1, f, [])
  | none =>
    if cs.2.any Found.waits then none
    else if pas.any cs.1.stopped then
      if cs.1.stopLate id then some (cs.1.stopEnds id, .trap trapPermission (lineOf va) true, [])
      else if cs.1.fa.waits.any fun w => w.1 = id then none
      else some (cs.1.stopBegins id, .wait, [])
    else if pas.any fun pa => cs.1.blockHeld (cs.1.cacheOf is.ctx) pa step then none
    else
      let z := is.pulls (cs.1.stopEnds id) pas step
      some (z.1, .zero, z.2.flatten)

/-- What a block that could not be read does to its instruction. -/
def Issue.blockStop (is : Issue) (s : State) (l : Nat) : Found → Option Done
  | .trap k line _ => some (is.sourceTrap s l k 255 line)
  | .page lf pa => some (is.pathPage s lf pa)
  | .wait => some (.held s is.path)
  | _ => none

/-- A list in pieces of n. -/
def pieces {α : Type} (n : Nat) : Nat → List α → List (List α)
  | 0, _ => []
  | k + 1, xs => xs.take n :: pieces n k (xs.drop n)

/-! ### The access engine -/

/-- The program of a core's access engine. -/
def State.aeRun (s : State) (core : Nat) : Option AERun := s.en.ae.find? fun a => a.core = core

/-- A core's program replaced; one without streams has ended (R267). -/
def State.putAe (s : State) (core : Nat) (x : Option AERun) : State :=
  let keep := match x with
    | some a => if a.streams.isEmpty then [] else [a]
    | none => []
  { s with en := { s.en with ae := (s.en.ae.filter fun a => a.core ≠ core) ++ keep } }

/-- A breach of R256 that gives the queue-misuse trap. -/
def State.descBreach (s : State) (is : Issue) (d : List Byte) : Bool :=
  let q := s.queue is.c.core (descQueue d)
  let r := is.c.recSlot is.sub (descSrc d)
  !descOk d || !q.ownedBy is.c.handle || decide (Rec256.space r = 4) ||
    decide (128 * q.size < descBX d * descBY d * 2 ^ Rec256.es r)

/-- ae.go on its source lane: the descriptors read and checked, and the program started (R267). -/
def aeGoEff (q : QWord) (n : Nat) (is : Issue) (s : State) : Option Done :=
  (lowestLane is.act).bind fun l =>
    if (s.aeRun is.c.core).isSome || s.quiesced is.c.handle then none
    else
      let va := is.src s true q.a l
      if va % 64 ≠ 0 then some (is.sourceTrap s l trapMisaligned 255 (lineOf va))
      else
        (s.readBlock is va (64 * (n + 1)) 64).bind fun b =>
        match is.blockStop b.1 l b.2.1 with
        | some d => some d
        | none =>
          let s1 := b.1
          let ds := pieces 64 (n + 1) b.2.2
          let r (d : List Byte) : Rec256 := is.c.recSlot is.sub (descSrc d)
          match ds.find? fun d => !Rec256.valid (r d) with
          | some d => some (is.sourceTrap s1 l trapBounds (descSrc d) 0)
          | none =>
            match ds.find? fun d => Rec256.wo (r d) with
            | some d => some (is.sourceTrap s1 l trapPermission (descSrc d) 0)
            | none =>
              if ds.any (s1.descBreach is) then some (is.sourceTrap s1 l trapQueue 255 0)
              else
                let ss := (ds.mapIdx fun i d => (⟨i, d, r d, descSrc d, 0⟩ : Stream)).filter fun t => descOn t.desc
                some (.next (s1.putAe is.c.core (some ⟨is.c.core, is.cmdId s1 l, is.tolerant, ss⟩)))

def execAeGo (q : QWord) (n : Nat) (s : State) : Host.Outcome State Fault Refusal :=
  issueWith (.aeGo q n) 0 (aeGoEff q n) s

/-- ae.halt (R267). -/
def execAeHalt (q : QWord) (s : State) : Host.Outcome State Fault Refusal :=
  issueWith (.aeHalt q) 0 (fun is s => some (.next (s.haltAe is.c.core))) s

/-- The elements of a block, row by row (R257). -/
def blockCoords (bx bY : Nat) : List (Nat × Nat) := (List.range bY).flatMap fun y => (List.range bx).map fun x => (x, y)

/-- A stream's block checked: its elements in order (R257, R258). -/
def State.checkBlock (s : State) (id : Nat) (w : Who) (t : Stream) : State × List Found :=
  let o := descOrigin t.desc t.iter
  (blockCoords (descBX t.desc) (descBY t.desc)).foldl (fun r p =>
    let q := r.1.engineCheck id w t.rec_ (o.1 + p.1) (o.2 + p.2) (2 ^ Rec256.es t.rec_) .read
    (q.1, r.2 ++ [q.2])) (s, [])

/-- A stream carried on: its next iteration, or its end. -/
def AERun.advance (a : AERun) (t : Stream) (stop : Bool) : AERun :=
  { a with streams :=
      if stop ∨ descTotal t.desc ≤ t.iter + 1 then a.streams.filter fun u => u.num ≠ t.num
      else a.streams.map fun u => if u.num = t.num then { t with iter := t.iter + 1 } else u }

/-- A slot reserved by the engine, and published once its bytes are written (R257). -/
def State.publishBlock (s : State) (core num : Nat) (t : Stream) (err : Bool) : State :=
  let q := s.queue core num
  let r := q.reserve (descPort t.desc) (descTag t.desc)
  s.putQueue core num (r.1.putSlot { r.2 with published := true, err := err })

/-- The scratchpad address of the slot that a queue reserves next. -/
def State.nextSlotAt (s : State) (b : CmdId) (num : Nat) : Nat :=
  let q := s.queue b.core num
  let base := ((s.arena b.handle b.core).map Prod.fst).getD 0
  scratch b.core (base + q.offset (q.rsv % max 1 q.count))

/-- Free bytes: contents that are not promised (log 11). -/
def State.freeFill (s : State) (a n : Nat) : State :=
  let bs := Config.freeBytes s.freeCtr n
  { s.writeBytes a ((List.range n).map fun i => bs.getD i 0) with freeCtr := s.freeCtr + 1 }

/-- AE_STREAM_BLOCK: a stream with allowance reserves a slot, fills it and publishes it; a fault publishes it with ERR = 1 and
ends the stream (R257, R258). -/
def execAeStreamBlock (core stream : Nat) (s : State) : Host.Outcome State Fault Refusal :=
  match s.aeRun core with
  | none => .next s
  | some a =>
    match a.streams.find? fun t => t.num = stream with
    | none => .next s
    | some t =>
      let num := descQueue t.desc
      let q := s.queue core num
      if q.allowance (descPort t.desc) = 0 then .next s
      else
        let c := s.checkBlock (streamOp core stream) (a.by_.who [core, 256 + core / 4]) t
        let es := 2 ^ Rec256.es t.rec_
        match firstTrap c.2 with
        | some (k, line) =>
          let s1 := c.1.freeFill (c.1.nextSlotAt a.by_ num) (128 * q.size)
          ret (((s1.publishBlock core num t true).putAe core (some (a.advance t true))).orphanQueries (streamOp core stream) |>.engineFault a.by_ k 0 t.rslot
            line)
        | none =>
          let v : EView := .core (5 * (core / 4) + core % 4)
          let id := streamOp core stream
          let as := elemAccs t.rec_ es false c.2
          let z := c.1.engineReady id a.st v false as
          if !z.2 then ret z.1
          else
            let r := z.1.engineReads id v as
            let s1 := r.1.writeBytes (r.1.nextSlotAt a.by_ num) (r.2.flatMap (leBytes es))
            ret (((s1.publishBlock core num t false).putAe core (some (a.advance t false))).engineDone id)

/-! ### The copy engines -/

/-- The commands of a column's copy engine that run: the first four (R259). -/
def State.cpRunning (s : State) (col : Nat) : List CpCmd :=
  (s.en.cp.filter fun c => decide (c.col = col) && !c.marker).take 4

/-- A copy command put in its queue. -/
def State.queueCopy (s : State) (c : CpCmd) : State :=
  { s with opId := s.opId + 1, en := { s.en with cp := s.en.cp ++ [c] } }

/-- A copy engine's queue is full, or the launch's commands are held (R268; 17 R380). -/
def State.cpFull (s : State) (is : Issue) : Bool :=
  decide (64 ≤ (s.en.cp.filter fun c => c.col = s.colOf is.ctx).length) || s.quiesced is.c.handle

/-- The records' own checks of cp.go and cp.fill, in R268's order: those before the clasp's, with the trap and the slot. On a column core,
which has no arena, a record of space 1 or 2 is turned away after the records' validity (R104). -/
def copyChecks (cc : Bool) (src : Option (Nat × Rec256)) (d : Nat) (dst : Rec256) (cl : Option (Nat × Rec256)) : Option (Nat × Nat) :=
  let rs := (d, dst) :: src.toList ++ cl.toList
  let near (r : Rec256) : Bool := decide (Rec256.space r = 1 ∨ Rec256.space r = 2)
  match (rs.find? fun r => !Rec256.valid r.2) <|> rs.find? fun r => cc && near r.2 with
  | some r => some (trapBounds, r.1)
  | none =>
    match src with
    | some (n, r) =>
      if Rec256.es r ≠ Rec256.es dst ∨ Rec256.space r = 4 then some (trapBounds, n)
      else if (Rec256.extx dst < Rec256.extx r ∨ Rec256.rows dst < Rec256.rows r) ∧ Rec256.oob dst = 1 then some (trapBounds, d)
      else none
    | none => none

/-- cp.go and cp.fill on the source lane: the checks in order, and the command queued (R268). -/
def copyEff (q : QWord) (src : Option Nat) (d : Nat) (cl : Option Nat) (fill : Issue → Nat → Nat) (is : Issue) (s : State) :
    Option Done :=
  (lowestLane is.act).bind fun l =>
    if s.cpFull is then none
    else
      let rec_ (n : Nat) : Rec256 := is.c.recSlot is.sub n
      let s0 := src.map fun n => (n, rec_ n)
      let c0 := cl.map fun n => (n, rec_ n)
      match copyChecks is.ctx.isCC s0 d (rec_ d) c0 with
      | some (k, slot) => some (is.sourceTrap s l k slot 0)
      | none =>
        let w := s.who is.ctx
        let c : State × Option Found × Option ClaspRef := match c0 with
          | some (n, r) =>
            let z := s.commandClasp w n r (sext 32 (is.src s false q.a l)) (sext 32 (is.src s false q.b l))
            (z.1, some z.2.1, some z.2.2)
          | none => (s, none, none)
        match c.2.1 with
        | some (.trap k line _) => some (is.sourceTrap c.1 l k (cl.getD 255) line)
        | some (.page lf pa) => some (is.pathPage c.1 lf pa)
        | some .wait => none
        | _ =>
          if (s0.map fun r => Rec256.wo r.2).getD false then some (is.sourceTrap c.1 l trapPermission (src.getD 255) 0)
          else if Rec256.ro (rec_ d) then some (is.sourceTrap c.1 l trapPermission d 0)
          else
            some (.next (c.1.queueCopy ⟨c.1.opId, c.1.colOf is.ctx, is.cmdId c.1 l, src.map rec_, rec_ d, src.getD 255, d, fill is l,
              c.2.2, is.tolerant, [], false⟩))

def execCpGo (q : QWord) (dd ss cl : Nat) (s : State) : Host.Outcome State Fault Refusal :=
  issueWith (.cpGo q dd ss cl) 0 (copyEff q (some ss) dd (some cl) fun _ _ => 0) s

def execCpGoNoc (q : QWord) (dd ss : Nat) (s : State) : Host.Outcome State Fault Refusal :=
  issueWith (.cpGoNoc q dd ss) 0 (copyEff q (some ss) dd none fun _ _ => 0) s

def execCpFill (q : QWord) (dd cl : Nat) (s : State) : Host.Outcome State Fault Refusal :=
  issueWith (.cpFill q dd cl) 0 (copyEff q none dd (some cl) fun is l => dstData q.d 4 is l) s

def execCpFillNoc (q : QWord) (dd : Nat) (s : State) : Host.Outcome State Fault Refusal :=
  issueWith (.cpFillNoc q dd) 0 (copyEff q none dd none fun is l => dstData q.d 4 is l) s

/-- The elements a copy command moves (R268). -/
def CpCmd.coords (c : CpCmd) : List (Nat × Nat) :=
  match c.src with
  | some r => blockCoords (Rec256.extx r) (Rec256.rows r)
  | none => blockCoords (Rec256.extx c.dst) (Rec256.rows c.dst)

/-- One element of a copy: what its source's and destination's checks found; a fill has no source. -/
structure CopyElem where
  src : Found
  dst : Found
  deriving DecidableEq, Repr

/-- The elements of a copy checked in order (R259). -/
def State.copyPlan (s : State) (c : CpCmd) : State × List CopyElem :=
  let w := c.by_.who [256 + c.col]
  let n := 2 ^ Rec256.es c.dst
  c.coords.foldl (fun r p =>
    let a : State × Found := match c.src with
      | some x => r.1.engineCheck c.id w x p.1 p.2 n .read
      | none => (r.1, .zero)
    let b := a.1.engineCheck c.id w c.dst p.1 p.2 n .write
    (b.1, r.2 ++ [⟨a.2, b.2⟩])) (s, [])

/-- The trap of an element, with the record slot concerned. -/
def CpCmd.trapOf (c : CpCmd) (e : CopyElem) : Option (Nat × Word64 × Nat) :=
  match e.src, e.dst with
  | .trap k line _, _ => some (k, line, c.sslot)
  | _, .trap k line _ => some (k, line, c.dslot)
  | _, _ => none

/-- The elements before the first that faults. -/
def CpCmd.before (c : CpCmd) (es : List CopyElem) : List CopyElem := es.takeWhile fun e => (c.trapOf e).isNone

/-- Elements moved, in order (R259). -/
def State.moveElems (s : State) (c : CpCmd) (es : List CopyElem) : State :=
  let n := 2 ^ Rec256.es c.dst
  es.foldl (fun s e =>
    match e.dst with
    | .ok pa _ =>
      let v : State × Nat := match e.src with
        | .ok q _ => s.engineRead c.id (.column c.col) ((c.src.map recRt).getD .nc) q n
        | _ => (s, c.fill % 256 ^ n)
      v.1.engineWrite (recRt c.dst) pa (leBytes n v.2)
    | _ => s) s

/-- A copy command that has ended. -/
def State.dropCopy (s : State) (id : Nat) : State :=
  { s with en := { s.en with cp := s.en.cp.filter fun c => c.id ≠ id } }

/-- The accesses of elements of a copy: their reads, and their writes. -/
def CpCmd.accs (c : CpCmd) (es : List CopyElem) : List EAcc :=
  let n := 2 ^ Rec256.es c.dst
  (match c.src with
   | some r => elemAccs r n false (es.map CopyElem.src)
   | none => []) ++ elemAccs c.dst n true (es.map CopyElem.dst)

/-- A slot, or a walk that has to wait, holds an element's transactions (18 R393). -/
def State.elemWaits (s : State) (c : CpCmd) (e : CopyElem) : Bool :=
  (c.accs [e]).any fun a => a.found.waits || a.found.pa?.any fun pa => s.engineHeld c.st (.column c.col) pa a

/-- A running copy command carried out up to its first fault, when nothing holds its accesses: the state, and whether that is done. Elements
whose transactions a slot holds wait for its end, and the others are moved (18 R393). -/
def State.runCopy (s : State) (c : CpCmd) : State × Bool :=
  let p := s.copyPlan c
  let todo := (c.coords.zip (c.before p.2)).filter fun q => !c.moved.contains q.1
  let free := todo.filter fun q => !p.1.elemWaits c q.2
  let es := free.map Prod.snd
  let z := p.1.engineReady c.id c.st (.column c.col) false (c.accs es)
  if !z.2 then (z.1, false)
  else
    let s1 := (z.1.moveElems c es).engineDone c.id
    if free.length = todo.length then (s1.dropCopy c.id, true)
    else
      let more (x : CpCmd) : CpCmd := if x.id = c.id then { x with moved := x.moved ++ free.map Prod.fst } else x
      ({ s1 with en := { s1.en with cp := s1.en.cp.map more } }, false)

/-- The fault a copy command will meet. -/
def State.copyFault (s : State) (c : CpCmd) : Option (Nat × Word64 × Nat) := (s.copyPlan c).2.findSome? c.trapOf

/-- CP_COMMAND_COMPLETE: a command that meets no fault moves its elements, and the bytes it wrote go to its clasp (R259,
R268). -/
def execCpCommandComplete (id : Nat) (s : State) : Host.Outcome State Fault Refusal :=
  match s.en.cp.find? fun c => c.id = id with
  | none => .next s
  | some c =>
    if !(s.cpRunning c.col).contains c ∨ (s.copyFault c).isSome then .next s
    else
      let n := ((s.copyPlan c).2.filter fun e => match e.dst with
        | .ok _ _ => true
        | _ => false).length * 2 ^ Rec256.es c.dst
      let r := s.runCopy c
      ret (if r.2 then r.1.sendBytes c.by_ c.clasp n else r.1)

/-- CP_COMMAND_FAULT: a command that meets a fault ends there; elements before it stay written, and its clasp receives nothing
(R259). -/
def execCpCommandFault (id : Nat) (s : State) : Host.Outcome State Fault Refusal :=
  match s.en.cp.find? fun c => c.id = id with
  | none => .next s
  | some c =>
    match s.copyFault c with
    | none => .next s
    | some (k, line, slot) =>
      if !(s.cpRunning c.col).contains c then .next s
      else
        let r := s.runCopy c
        ret (if r.2 then r.1.engineFault c.by_ k 0 slot line else r.1)

end Machine

end Sys2Proof
end

