-- ==== Sys2Proof/Machine/Fabric.lean ====
section
/-! DEFINITION. Other modules: links, peers, groups and collectives, and the pod's power budget (16 R347-R362; 14 R445). -/

namespace Sys2Proof.Machine

/-- A link replaced. -/
def State.putLink (s : State) (l : Nat) (x : Link) : State := { s with fa := { s.fa with links := SMap.set Link.reset s.fa.links l x } }

/-- This module's number in the pod (R347). -/
def State.modId (s : State) : Nat := field (s.sysGet SysReg.pod 0) 57 48

/-! ### Groups and collectives (R354-R357) -/

/-- A group slot. -/
def State.group (s : State) (n : Nat) : Group := SMap.get Group.none s.fa.groups n

/-- A collective in flight. -/
def State.coll? (s : State) (id : Nat) : Option Coll := s.fa.colls.find? fun c => c.id = id

/-- A collective replaced or, with `none`, ended. -/
def State.putColl (s : State) (id : Nat) (x : Option Coll) : State :=
  { s with fa := { s.fa with colls := s.fa.colls.filterMap fun c => if c.id = id then x else some c } }

/-- The ranks a member takes to be alive, in tree order (R355). -/
def liveRanks (members root : Nat) (down : List Nat) : List Nat :=
  ((List.range members).map fun i => (i + root) % members).filter fun r => !down.contains r

/-- The parent of a rank in a tree order (R355). -/
def treeParent (lv : List Nat) (rank : Nat) : Option Nat :=
  let p := lv.idxOf rank
  if p = 0 ∨ lv.length ≤ p then none else lv[(p - 1) / 2]?

/-- The children of a rank in a tree order (R355). -/
def treeChildren (lv : List Nat) (rank : Nat) : List Nat :=
  let p := lv.idxOf rank
  (lv[2 * p + 1]?).toList ++ (lv[2 * p + 2]?).toList

/-- The live ranks of a collective. -/
def State.liveOf (s : State) (c : Coll) : List Nat := liveRanks (s.group c.args.group).members.length c.args.root c.down

/-- The tree neighbours of this member. -/
def State.neighbours (s : State) (c : Coll) : List Nat :=
  let lv := s.liveOf c
  let me := (s.group c.args.group).rank
  (treeParent lv me).toList ++ treeChildren lv me

/-- No tree neighbour is left of a group of several members (R357; log 24). -/
def State.collAlone (s : State) (c : Coll) : Bool :=
  decide (1 < (s.group c.args.group).members.length) && (s.neighbours c).isEmpty

/-- The link that leads to a rank of a group. -/
def State.rankLink (s : State) (g : Group) (rank : Nat) : Option Nat := (g.members[rank]?).bind s.routeLink

/-- A link to a tree neighbour holds its flits: what a chunk sends waits (R351; 18 R391). -/
def State.collStopped (s : State) (c : Coll) : Bool :=
  (s.neighbours c).any fun r => (s.rankLink (s.group c.args.group) r).any s.linkHeld

/-- A tree neighbour has sent no flit for 100 µs of the chunk in progress (R357). -/
def State.collSilent (s : State) (c : Coll) (rank : Nat) : Bool :=
  (s.neighbours c).contains rank && ((s.group c.args.group).members[rank]?).any fun chip =>
    decide (max (SMap.get 0 s.fa.heard chip) c.since + 100000 ≤ s.ns)

/-- A member of a collective's group is down: its rank leaves the tree, and the chunk in progress is abandoned and replayed. A member
that finds this out itself tells every other that it takes to be alive (R357). -/
def State.memberLost (s : State) (id rank : Nat) (found : Bool) : State :=
  match s.coll? id with
  | none => s
  | some c =>
    let g := s.group c.args.group
    if g.members.length ≤ rank ∨ rank = g.rank ∨ c.down.contains rank then s
    else
      let x := { c with
        down := c.down ++ [rank], attempt := c.attempt + 1, since := s.ns, sentUp := [], sentDown := [], done := none }
      let tell := if found then ((s.liveOf x).filter fun r => r ≠ g.rank).map fun r => (rank, r) else []
      let groups := SMap.set Group.none s.fa.groups c.args.group { g with down := (g.down ++ [rank]).eraseDups }
      let s1 : State := { s with fa := { s.fa with groups := groups } }
      (s1.putColl id (some { x with told := x.told ++ tell })).machineEvent c.by_.col c.by_.col 0 0x06 0 0

/-- COLL_NEIGHBOUR_TIMEOUT: a tree neighbour has sent no flit for 100 µs of a chunk (R357). -/
def execCollNeighbourTimeout (id rank : Nat) (s : State) : Host.Outcome State Fault Refusal :=
  match s.coll? id with
  | none => .next s
  | some c =>
    if s.collSilent c rank then ret (s.memberLost id rank true) else .next s

/-- MEMBER_DOWN: a member-down message has come for a collective (R357). -/
def execMemberDown (id rank : Nat) (s : State) : Host.Outcome State Fault Refusal := ret (s.memberLost id rank false)

/-- The elements of a collective's chunk. -/
def Coll.elems (c : Coll) : List Nat :=
  (List.range (min 4096 (c.args.count - 4096 * c.chunk))).map fun i => 4096 * c.chunk + i

/-- Elements of a record checked in order (R360). -/
def State.collCheck (s : State) (c : Coll) (r : Rec256) (k : AccKind) : State × List Found :=
  let w := c.by_.who [256 + c.by_.col]
  c.elems.foldl (fun z i =>
    let q := z.1.engineCheck c.id w r (i % max 1 (Rec256.extx r) : Nat) (i / max 1 (Rec256.extx r) : Nat) 4 k
    (q.1, z.2 ++ [q.2])) (s, [])

/-- Two partial results combined (R355). -/
def collCombine (op a b : Nat) : Nat := atomValue (if op = 0 then 0x20 else if op = 1 then 0x22 else 0x23) 2 a b 0

/-- A value rounded to the wire's format (R356). -/
def toWire (t : Ty) (x : Nat) : Nat := (t.cvt .f32 .rne false false x).bits

/-- A value of the wire as f32 (R356). -/
def fromWire (t : Ty) (x : Nat) : Nat := (Ty.f32.cvt t .rne false false (x % 2 ^ t.bits)).bits

/-- What a member makes of a chunk: what it sends up and down, what it writes, and its residuals (R355, R356). -/
structure ChunkOut where
  up : List Nat
  dn : List Nat
  dst : List Nat
  res : List Nat
  deriving DecidableEq, Repr

/-- A chunk's arithmetic: own elements and residuals, the children's partial results in their order of arrival, and what
came from above (R355, R356). A member's own contribution comes first (log 24). -/
def chunkOut (a : CollArgs) (root : Bool) (own res : List Nat) (partials : List (List Nat)) (down : List Nat) : ChunkOut :=
  let t := a.fmt
  let sum := partials.foldl (fun acc p => List.zipWith (fun x y => collCombine a.op x (fromWire t y)) acc p) own
  if root then
    let dn := (if a.op = 3 then own else sum).map (toWire t)
    ⟨[], dn, dn.map (fromWire t), res⟩
  else if a.op = 3 then ⟨[], down, down.map (fromWire t), res⟩
  else if a.res.isSome then
    let q := List.zipWith (fun x r => t.qres .rne false false x r) sum res
    ⟨q.map fun p => p.1.bits, down, down.map (fromWire t), q.map fun p => p.2.bits⟩
  else ⟨sum.map (toWire t), down, down.map (fromWire t), res⟩

/-- A collective ends on a fault met after its issue; its clasp receives no bytes (R357; 11 R258). -/
def State.collFault (s : State) (c : Coll) (kind rslot : Nat) (line : Word64) : State :=
  ((s.orphanQueries c.id).putColl c.id none).engineFault c.by_ kind 0 rslot line

/-- The view of a collective's accesses: those of its column's slice, of module scope. -/
def Coll.view (c : Coll) : EView := .all c.by_.col

/-- A chunk that uses residuals and has not read them yet. -/
def Coll.unread (c : Coll) : Bool := c.args.res.isSome && c.res.isNone && !c.elems.isEmpty

/-- A chunk starts: its residuals are read, and stay as they are for its replays (R356, R357). -/
def State.startChunk (s : State) (c : Coll) : State :=
  match c.args.res with
  | none => s
  | some r =>
    if !c.unread then s
    else
      let p := s.collCheck c r .read
      match firstTrap p.2 with
      | some (k, line) => p.1.collFault c k c.args.rslot line
      | none =>
        let as := elemAccs r 4 false p.2
        let z := p.1.engineReady c.id c.st c.view false as
        if !z.2 then z.1
        else
          let a := z.1.engineReads c.id c.view as
          (a.1.engineDone c.id).putColl c.id (some { c with res := some (a.2.map (BitVec.ofNat 32)) })

/-- This member's part of a chunk that has started, with its children's partial results and what came from above; what it sends and what
it will write (R355, R356). -/
def State.runChunk (s : State) (c : Coll) (partials : List (List Word)) (down : List Word) : State :=
  let me := (s.group c.args.group).rank
  let lv := s.liveOf c
  let root := decide (lv.head? = some me)
  let n := c.elems.length
  let kids := if c.args.op = 3 then 0 else (treeChildren lv me).length
  if c.done.isSome ∨ n = 0 ∨ c.unread ∨ s.collAlone c ∨ s.collStopped c ∨ partials.length ≠ kids ∨
      !(partials.all fun p => p.length = n) ∨ (!root ∧ down.length ≠ n) then s
  else
    let reads := root || decide (c.args.op ≠ 3)
    let src := if reads then s.collCheck c c.args.src .read else (s, [])
    match firstTrap src.2 with
    | some (k, line) => src.1.collFault c k c.args.sslot line
    | none =>
      let as := elemAccs c.args.src 4 false src.2
      let z := src.1.engineReady c.id c.st c.view false as
      if !z.2 then z.1
      else
        let a := z.1.engineReads c.id c.view as
        let own := if reads then a.2 else List.replicate n 0
        let res := (c.res.getD []).map BitVec.toNat
        let o := chunkOut c.args root own res (partials.map fun p => p.map BitVec.toNat) (down.map BitVec.toNat)
        let words (xs : List Nat) : List Word := xs.map (BitVec.ofNat 32)
        (a.1.engineDone c.id).putColl c.id (some { c with
          sentUp := words o.up, sentDown := words o.dn, done := some (words o.dst, words o.res) })

/-- COLL_CHUNK: a chunk starts where it has not, and this member does its part of it once it has what that needs (R355, R356). -/
def execCollChunk (id : Nat) (partials : List (List Word)) (down : List Word) (s : State) : Host.Outcome State Fault Refusal :=
  match s.coll? id with
  | none => .next s
  | some c =>
    let s1 := s.startChunk c
    match s1.coll? id with
    | none => ret s1
    | some d => ret (s1.runChunk d partials down)

/-- Elements written at module scope, up to the first that faults (R360). -/
def State.collWrite (s : State) (r : Rec256) (fs : List Found) (vs : List Word) : State :=
  ((fs.zip vs).takeWhile fun p => match p.1 with
    | .trap _ _ _ => false
    | _ => true).foldl (fun s p => match p.1 with
      | .ok pa _ => s.engineWrite (recRt r) pa (leBytes 4 p.2.toNat)
      | _ => s) s

/-- COLL_CHUNK_COMMIT: a chunk's elements and residuals are written, and the next chunk begins (R356, R357). -/
def execCollChunkCommit (id : Nat) (s : State) : Host.Outcome State Fault Refusal :=
  match s.coll? id with
  | none => .next s
  | some c =>
    match c.done with
    | none => .next s
    | some (dst, res) =>
      let d := s.collCheck c c.args.dst .write
      let r := match c.args.res with
        | some x => d.1.collCheck c x .write
        | none => (d.1, [])
      let rr := c.args.res.getD 0
      let z := r.1.engineReady c.id c.st c.view false (elemAccs c.args.dst 4 true d.2 ++ elemAccs rr 4 true r.2)
      if !z.2 then ret z.1
      else
        let s1 := ((z.1.collWrite c.args.dst d.2 dst).collWrite rr r.2 res).engineDone c.id
        match firstTrap d.2, firstTrap r.2 with
        | some (k, line), _ => ret (s1.collFault c k c.args.dslot line)
        | none, some (k, line) => ret (s1.collFault c k c.args.rslot line)
        | none, none => ret (s1.putColl id (some { c with
            chunk := c.chunk + 1, attempt := 0, since := s1.ns, res := none, sentUp := [], sentDown := [], done := none }))

/-- COLL_COMPLETE: with its last chunk committed, a collective's bytes go to its clasp (R360). -/
def execCollComplete (id : Nat) (s : State) : Host.Outcome State Fault Refusal :=
  match s.coll? id with
  | some c => if c.elems.isEmpty then ret ((s.putColl id none).sendBytes c.by_ c.clasp (4 * c.args.count)) else .next s
  | none => .next s

/-- COLL_END_FAULT: a member without a live tree neighbour, or whose parameters do not match its peers', ends the collective
(R357). -/
def execCollEndFault (id : Nat) (s : State) : Host.Outcome State Fault Refusal :=
  match s.coll? id with
  | some c => ret (s.collFault c trapBounds 255 0)
  | none => .next s

/-! ### coll.grp (R354, R359) -/

/-- A group descriptor's fields are within R354. -/
def groupOk (d : List Byte) : Bool :=
  decide (1 ≤ descNat d 0 2 ∧ descNat d 0 2 ≤ 1024 ∧ descNat d 2 2 < descNat d 0 2 ∧ descNat d 4 4 = 0 ∧ descNat d 8 8 % 2 = 0) &&
  (d.drop 16).all fun b => b = 0

/-- coll.grp on its source lane (R359). -/
def collGrpEff (q : QWord) (n : Nat) (is : Issue) (s : State) : Option Done :=
  (lowestLane is.act).bind fun l =>
    if s.fa.colls.any fun c => c.args.group = n then none
    else
      let va := is.src s true q.a l
      if va % 64 ≠ 0 then some (is.sourceTrap s l trapMisaligned 255 (lineOf va))
      else
        (s.readBlock is va 64 64).bind fun b =>
        match is.blockStop b.1 l b.2.1 with
        | some d => some d
        | none =>
          if !groupOk b.2.2 then some (is.sourceTrap b.1 l trapBounds 255 0)
          else
            let k := descNat b.2.2 0 2
            (b.1.readBlock is (descNat b.2.2 8 8) (2 * k) 2).bind fun t =>
            match is.blockStop t.1 l t.2.1 with
            | some d => some d
            | none =>
              let ms := (List.range k).map fun i => descNat t.2.2 (2 * i) 2
              let rank := descNat b.2.2 2 2
              if (ms.any fun m => 1024 ≤ m) ∨ ms[rank]? ≠ some t.1.modId then some (is.sourceTrap t.1 l trapBounds 255 0)
              else
                some (.next { t.1 with fa := { t.1.fa with groups := SMap.set Group.none t.1.fa.groups n ⟨rank, ms, []⟩ } })

def execCollGrp (q : QWord) (n : Nat) (s : State) : Host.Outcome State Fault Refusal :=
  issueWith (.collGrp q n) 0 (collGrpEff q n) s

/-! ### coll.go (R360; 14 R445) -/

/-- A data record of a collective: valid, SPACE 0, ES 2, with COUNT elements (R360). -/
def collRecOk (r : Rec256) (count : Nat) : Bool :=
  Rec256.valid r && decide (Rec256.space r = 0 ∧ Rec256.es r = 2 ∧ count ≤ Rec256.extx r * Rec256.rows r)

/-- The wire formats (R360). -/
def wireFmt (code : Nat) : Option Ty := if [0xA, 0x9, 0x8, 0xC, 0xD].contains code then Ty.ofCode code else none

/-- The parameters of a block, within R360's limits. -/
def State.collArgs (s : State) (is : Issue) (d : List Byte) : Option CollArgs :=
  let rec_ (n : Nat) : Rec256 := is.c.recSlot is.sub n
  let b0 := descNat d 0 1
  let b1 := descNat d 1 1
  let op := descNat d 2 1
  let fl := descNat d 5 1
  let count := descNat d 8 4
  let root := descNat d 6 2
  let g := descNat d 4 1
  let res := fl / 2 % 2 = 1
  let src := rec_ (b0 % 16)
  let dst := rec_ (b0 / 16)
  let rr := rec_ (b1 % 16)
  (wireFmt (descNat d 3 1)).bind fun t =>
    if op < 4 ∧ fl < 4 ∧ g < 64 ∧ 1 ≤ count ∧ (d.drop 20).all (fun b => b = 0) ∧ root < (s.group g).members.length ∧
        (root = 0 ∨ op = 3) ∧ (!res ∨ (op = 0 ∧ t ≠ .f32)) ∧ collRecOk src count ∧ !Rec256.wo src ∧ collRecOk dst count ∧
        !Rec256.ro dst ∧ (!res ∨ (collRecOk rr count ∧ !Rec256.ro rr)) then
      some ⟨src, dst, if res then some rr else none, b0 % 16, b0 / 16, b1 % 16, op, t, g, root, count⟩
    else none

/-- The first data record of a block that is not valid, by its slot (04 R97). -/
def collBadRec (is : Issue) (d : List Byte) : Option Nat :=
  let ns := [descNat d 0 1 % 16, descNat d 0 1 / 16] ++ (if descNat d 5 1 / 2 % 2 = 1 then [descNat d 1 1 % 16] else [])
  ns.find? fun n => !Rec256.valid (is.c.recSlot is.sub n)

/-- coll.go on its source lane: the block, the records' validity, the clasp's checks, the other limits, and the collective (R360; 04 R97;
14 R445). -/
def collGoEff (q : QWord) (is : Issue) (s : State) : Option Done :=
  (lowestLane is.act).bind fun l =>
    if 8 ≤ s.fa.colls.length ∨ s.quiesced is.c.handle then none
    else
      let va := is.src s true q.a l
      if va % 64 ≠ 0 then some (is.sourceTrap s l trapMisaligned 255 (lineOf va))
      else
        (s.readBlock is va 64 64).bind fun b =>
        match is.blockStop b.1 l b.2.1 with
        | some d => some d
        | none =>
          let d := b.2.2
          let cl := descNat d 1 1 / 16
          let r := is.c.recSlot is.sub cl
          let noc := descNat d 5 1 % 2 = 1
          let z : State × Found × Option ClaspRef :=
            if noc then (b.1, .zero, none)
            else if !Rec256.valid r then (b.1, .trap trapBounds 0 false, none)
            else if Rec256.space r ≠ 0 then (b.1, .trap trapClasp 0 false, none)
            else
              let x := b.1.commandClasp (b.1.who is.ctx) cl r (sext 32 (descNat d 12 4)) (sext 32 (descNat d 16 4))
              (x.1, x.2.1, some x.2.2)
          match collBadRec is d with
          | some n => some (is.sourceTrap b.1 l trapBounds n 0)
          | none =>
            match z.2.1 with
            | .trap k line _ => some (is.sourceTrap z.1 l k cl line)
            | .page lf pa => some (is.pathPage z.1 lf pa)
            | .wait => none
            | _ =>
              match z.1.collArgs is d with
              | none => some (is.sourceTrap z.1 l trapBounds 255 0)
              | some a =>
                let c : Coll := ⟨z.1.opId, is.cmdId z.1 l, a, z.2.2, is.tolerant, 0, 0, z.1.ns, (z.1.group a.group).down, [], none, [], [], none⟩
                some (.next { z.1 with opId := z.1.opId + 1, fa := { z.1.fa with colls := z.1.fa.colls ++ [c] } })

def execCollGo (q : QWord) (s : State) : Host.Outcome State Fault Refusal := issueWith (.collGo q) 0 (collGoEff q) s

/-! ### Peers (R348, R349) -/

/-- Accesses of another module end without a completion: reads trap at their word, writes fail after issue (R348). -/
def State.failPeer (s : State) (o : MOp) (p : Acc → Bool) : State :=
  let hit (a : Acc) : Bool := decide (a.fail = 0) && isPeer a.pa && p a
  let bad := o.accs.filter hit
  match bad with
  | [] => s
  | b :: _ =>
    let kind := o.kind
    let late := match kind with
      | .store => true
      | .red _ => true
      | .recSt => true
      | _ => false
    if late then
      s.putOp o.id (some { o with accs := o.accs.map fun a => if hit a then { a with fail := trapPermission } else a })
    else
      let m := match kind with
        | .recLd _ => o.lanes
        | _ => maskOf fun l => bad.any fun a => a.lane = l
      let x := s.ctx o.ctx
      let left := o.accs.filter fun a => !hit a
      let s1 := s.putOp o.id (if left.isEmpty then none else some { o with accs := left, lanes := o.lanes &&& ~~~m })
      let s2 := if s1.alive o.ctx then s1.freeSlotBit o.ctx m o.slot else s1
      match (lanesOf m).findSome? fun l => match (x.lane l).wait with
          | .op id path => if id = o.id then some path else none
          | _ => none with
      | some path => s2.trapBlocked o.ctx m path ⟨trapPermission, 0, o.rslot, b.line, false, false⟩
      | none => s2

/-- PEER_COMPLETION_TIMEOUT: no completion has come from a peer within 1 ms (R348). -/
def execPeerCompletionTimeout (op : Nat) (s : State) : Host.Outcome State Fault Refusal :=
  match s.op? op with
  | some o => if o.due + 12000000 ≤ s.now then ret (s.failPeer o fun _ => true) else .next s
  | none => .next s

/-- A request of 1-128 naturally aligned bytes (R351). -/
def peerShape (pa n : Nat) : Bool := decide (1 ≤ n ∧ n ≤ 128 ∧ 2 ^ n.log2 = n ∧ pa % n = 0)

/-- A request is one that R351 gives: its size and alignment, its bytes, and an op and width of class 0x7 (R351; 10 R248). -/
def peerOk (r : PeerOp) (pa n : Nat) : Bool :=
  peerShape pa n && match r with
  | .read => true
  | .write bs => decide (bs.length = n)
  | .atomic op w _ _ _ =>
    decide (n = 2 ^ w) && (decide (op ≤ 0x0C ∧ (w = 2 ∨ w = 3)) || decide (0x20 ≤ op ∧ op ≤ 0x23 ∧ 1 ≤ w ∧ w ≤ 3))

/-- A request performed at its home, a write of the bytes it enables: the bytes of its completion (R349, R351; 10 R250). -/
def State.servePeer (s : State) (id : Nat) (r : PeerOp) (pa n : Nat) (enables : BitVec 128) : State × List Byte :=
  match r with
  | .read =>
    let v := s.engineRead id (.all (homeOf pa)) .nc pa n
    (v.1, leBytes n v.2)
  | .write bs => (s.engineWrite .nc pa (bs.mapIdx fun i b => if enables.getLsbD i then b else s.homeByte (pa + i)), [])
  | .atomic op w v x back =>
    let m := s.homeNat pa n
    ((s.injectSeen none noGang pa n).engineWrite .nc pa (leBytes n (atomValue op w m v x)), if back then leBytes n m else [])

/-- The accesses of a request. -/
def PeerIn.accs (p : PeerIn) : List EAcc :=
  (match p.req.op with
   | .write _ => []
   | _ => [⟨.ok p.pa 0, p.n, .nc, false⟩]) ++ if p.req.op = .read then [] else [⟨.ok p.pa 0, p.n, .nc, true⟩]

/-- A request served at the physical address it names, at its home, or refused, unless it has been: the completion, none yet while it
waits; its reads are outside acquires (R349, R351; 09 R230; 13 R306, R314). -/
def State.tryPeer (s : State) (p : PeerIn) : State × Option (Option (List Byte)) :=
  match p.answer with
  | some a => (s, some a)
  | none =>
    if !served p.pa ∨ !Machine.peerOk p.req.op p.pa p.n then (s, some none)
    else
      let z := s.engineReady p.id true (.all (homeOf p.pa)) true p.accs
      if !z.2 then (z.1, none)
      else
        let q := z.1.servePeer p.id p.req.op p.pa p.n p.enables
        (q.1.engineDone p.id, some (some q.2))

/-- A request carried on: served, and its completion sent on its link, which may hold it (R349, R351; 18 R391). -/
def State.goPeer (s : State) (id : Nat) : State :=
  match s.fa.inbox.find? fun p => p.id = id with
  | none => s
  | some p =>
    let r := s.tryPeer p
    let fa := r.1.fa
    match r.2 with
    | none => r.1
    | some a =>
      if r.1.linkHeld p.req.link then
        { r.1 with fa := { fa with inbox := fa.inbox.map fun q => if q.id = id then { q with answer := some a } else q } }
      else { r.1 with fa := { fa with inbox := fa.inbox.filter fun q => q.id ≠ id, reply := some (p.req.link, a) } }

/-- The number of a request among the accesses that hold writes and make drift queries. -/
def peerId (n : Nat) : Nat := 2 ^ 70 + n

/-- PEER_REQUEST: a peer's request comes, and is carried on (R349, R351). -/
def execPeerRequest (r : PeerReq) (pa n : Nat) (enables : BitVec 128) (s : State) : Host.Outcome State Fault Refusal :=
  let id := peerId s.opId
  let s1 : State := { s with
    opId := s.opId + 1
    fa := { s.fa with inbox := s.fa.inbox ++ [⟨id, r, pa, n, enables, none⟩] } }
  ret (s1.goPeer id)

/-! ### Links (R350-R353) -/

/-- A link goes down: accesses that it carried end, and the members it led to are lost (R348, R352, R357). -/
def State.loseLink (s : State) (l : Nat) : State :=
  let s1 := (s.putLink l { s.link l with up := false, err := true, width := 0 }).machineEvent (16 * (l / 8)) (16 * (l / 8)) 1 0x05 0 0
  let carried (a : Acc) : Bool := decide (s1.routeLink ((a.pa - 2 ^ 50) / 2 ^ 48) = some l)
  let s2 := s1.ms.ops.foldl (fun s o => match s.op? o.id with
    | some p => s.failPeer p carried
    | none => s) s1
  s2.fa.colls.foldl (fun s c =>
    ((s.neighbours c).filter fun r => decide (s.rankLink (s.group c.args.group) r = some l)).foldl (fun s r => s.memberLost c.id r true) s) s2

/-- WAVELENGTH_FAIL: a wavelength leaves the stripe; a link whose last one fails goes down (R352). -/
def execWavelengthFail (link : Nat) (s : State) : Host.Outcome State Fault Refusal :=
  let x := s.link link
  if 32 ≤ link ∨ !x.up then .next s
  else
    let s1 := (s.putLink link { x with good := x.good - 1 }).settleWidth link
    let s2 := s1.machineEvent (16 * (link / 8)) (16 * (link / 8)) 0 0x05 0 0
    ret (if x.good ≤ 1 then s2.loseLink link else s2)

/-- LINK_DOWN (R352). -/
def execLinkDown (link : Nat) (s : State) : Host.Outcome State Fault Refusal :=
  if link < 32 ∧ (s.link link).up then ret (s.loseLink link) else .next s

/-- LINK_UP: a link is trained, with the module number its far end announces; parked wavelengths stay out in M1 (R352, R353). -/
def execLinkUp (link peer : Nat) (s : State) : Host.Outcome State Fault Refusal :=
  if 32 ≤ link ∨ 1024 ≤ peer ∨ (s.link link).up then .next s
  else
    let x := { s.link link with up := true, peer := peer, good := 32, seq := 0, replay := false, heard := s.ns, stopIn := false, stopOut := false }
    .next ((s.putLink link x).settleWidth link)

/-- FLIT_RECEIVE: the next flit with a good CRC is taken where there is room for it, and any other is asked for again; without room, stop
is signalled. A flit carries the far end's stop signal, which holds this module's flits (R351). -/
def execFlitReceive (link seq : Nat) (flit : Flit) (s : State) : Host.Outcome State Fault Refusal :=
  let x := { s.link link with stopIn := if flit.crcOk then flit.stop else (s.link link).stopIn, stopOut := !flit.room }
  if 32 ≤ link ∨ !x.up then .next s
  else if !flit.crcOk || decide (seq ≠ x.seq) then .next (s.putLink link { x with replay := true })
  else if flit.room then
    let s1 := s.putLink link { x with seq := x.seq + 1, replay := false, heard := s.ns }
    .next { s1 with fa := { s1.fa with heard := SMap.set 0 s1.fa.heard flit.src s.ns } }
  else .next (s.putLink link x)

/-! ### The pod's power budget (R361, R362) -/

/-- The domain's members (R361). -/
def State.domain (s : State) : List Nat :=
  (List.range (field (s.sysGet SysReg.pbctl 0) 42 37 + 1)).map fun i =>
    s.homeNat (field (s.sysGet SysReg.pbtab 0) 47 7 * 2 ^ 7 + 2 * i) 2 % 1024

/-- The demands this member has announced that still count for itself: those of the last millisecond, and the one before them (R362). -/
def State.announced (s : State) : List (Nat × Nat) :=
  let recent (p : Nat × Nat) : Bool := decide (s.ns < p.2 + 1000000)
  ((s.fa.own.filter fun p => !recent p).getLast?).toList ++ s.fa.own.filter recent

/-- The demand this member counts for itself: a raise counts from 1 ms after it is announced (R362). -/
def State.ownDemand (s : State) : Nat := s.announced.foldl (fun m p => min m p.1) 4000

/-- The demand counted for a member (R362). -/
def State.demandOf (s : State) (chip : Nat) : Nat :=
  if chip = s.modId then s.ownDemand
  else match s.fa.demands.find? fun d => d.1 = chip with
    | some d => if s.ns < d.2.2 + 1000000 then d.2.1 else 4000
    | none => 4000

/-- The allowance from the members' demands, this member's own and the limit; in whole W (R362; log 24). -/
def podShare (ds : List Nat) (own b : Nat) : Nat :=
  let d := ds.sum
  if d ≤ b then own + (b - d) / max 1 ds.length
  else
    let fits (x : Nat) : Bool := decide ((ds.map fun d => min d x).sum ≤ b)
    min own (((List.range 4001).reverse.find? fits).getD 0)

/-- A demand within its limits (R362). -/
def clampDemand (d : Nat) : Nat := max 200 (min 4000 d)

/-- POD_BUDGET_TICK: the demand is announced and the allowance computed again, every 100 µs (R362). -/
def execPodBudgetTick (demand : Nat) (s : State) : Host.Outcome State Fault Refusal :=
  let r := s.sysGet SysReg.pbctl 0
  let early := s.fa.own.any fun p => decide (s.ns < p.2 + 100000)
  if !r.getLsbD 63 ∨ early then .next s
  else
    let d := clampDemand demand
    let s1 : State := { s with
      pw := { s.pw with demand := d }
      fa := { s.fa with own := s.announced ++ [(d, s.ns)] } }
    let a := min 65535 (podShare (s1.domain.map s1.demandOf) s1.ownDemand (field r 62 43))
    let s2 := s1.sysPut SysReg.pbctl 0 (setField (setField r 15 0 d) 31 16 a)
    ret (if a = field r 31 16 then s2 else (List.range 64).foldl (fun s c => s.throttle c 4) s2)

/-- DEMAND_MESSAGE: another member's demand has come (R362). -/
def execDemandMessage (chip demand : Nat) (s : State) : Host.Outcome State Fault Refusal :=
  .next { s with fa := { s.fa with
    demands := (s.fa.demands.filter fun d => d.1 ≠ chip) ++ [(chip, clampDemand demand, s.ns)] } }

end Sys2Proof.Machine
end

