-- ==== Sys2Proof/Machine/Matrix.lean ====
section
/-! DEFINITION. The matrix arrays: formats, one element of a result, the shape register, and the instructions mshape, mwld,
mmac and mstat of class 0x9 (12 R273-R293; 01 R40). -/

namespace Sys2Proof

/-- The floating type of a matrix format; s8 and BX4 have none of their own. -/
def MFmt.ty : MFmt → Ty
  | .bf16 => .bf16
  | .f16 => .f16
  | .e4m3 => .e4m3
  | .e5m2 => .e5m2
  | .s8 => .s8
  | .bx4 => .e2m1

/-- The element size code a record must have (R277). -/
def MFmt.es (f : MFmt) : Nat :=
  match f with
  | .bf16 => 1
  | .f16 => 1
  | _ => 0

/-- Twice the bytes of an element. -/
def MFmt.halves (f : MFmt) : Nat :=
  match f with
  | .bf16 => 4
  | .f16 => 4
  | .bx4 => 1
  | _ => 2

/-- Activation rows a pass takes per clock (R277). -/
def rateOf (a w : MFmt) : Nat :=
  if a = .bx4 ∧ w = .bx4 then 4
  else if a.halves ≤ 2 ∧ w.halves ≤ 2 then 2
  else 1

/-- An element as it takes part in a product: pattern, scale byte, spare byte (R36, R283). -/
structure Elem where
  raw : Nat
  scale : Nat
  spare : Nat
  deriving DecidableEq, Repr

/-- An element's value in a floating format (R36). -/
def Elem.value (f : MFmt) (e : Elem) : FVal :=
  match f with
  | .bx4 => bx4Value e.raw e.scale e.spare
  | f => f.ty.decodeF e.raw

/-- The array's flags: NV OF SAT NI in bits 0 to 3 (R293). -/
def mfNV : Nat := 1
def mfOF : Nat := 2
def mfSAT : Nat := 4
def mfNI : Nat := 8

/-- A value that is a NaN. -/
def FVal.isNan : FVal → Bool
  | .nan _ => true
  | _ => false

/-- A group of products summed exactly and rounded once to f32, with the flags it raises (R40, R283). -/
def groupSum (ps : List (FVal × FVal)) : Nat × Nat :=
  let prods := ps.map fun p => p.1.mulV p.2
  let ni := ps.any fun p => p.1.isNan || p.2.isNan
  let zi := prods.any Option.isNone
  let inf (n : Bool) : Bool := prods.any fun p => decide (p = some (.inf n))
  let fl := (if ni then mfNI else 0) + (if zi then mfNV else 0)
  if ni || zi then (Ty.f32.nanBits, fl)
  else if inf true && inf false then (Ty.f32.nanBits, mfNV)
  else if inf true then ((Ty.f32.infRes true 0).bits, 0)
  else if inf false then ((Ty.f32.infRes false 0).bits, 0)
  else
    let vs := prods.filterMap id
    let sum := vs.foldl (fun (d : Dy) v => d.add v.dy) ⟨0, 0⟩
    let negZero := vs.all fun v => v.isZero && v.neg
    let r := Ty.f32.finish .rne false false 0 (sum.exact negZero)
    (r.bits, if r.fl &&& Flags.ov ≠ 0 then mfOF else 0)

/-- A group's f32 result added to the accumulator; a NaN accumulator stays NaN (R40). -/
def accAdd (acc grp : Nat) : Nat × Nat :=
  let a := Ty.f32.decodeF acc
  let g := Ty.f32.decodeF grp
  if a.isNan then (Ty.f32.nanBits, 0)
  else
    let r := Ty.f32.addV .rne false false 0 a g
    (r.bits, (if (Ty.f32.decodeF r.bits).isNan && !g.isNan then mfNV else 0) +
      (if r.fl &&& Flags.ov ≠ 0 then mfOF else 0))

/-- One element of a floating result: the groups in ascending order (R283). -/
def macFloat (init : Nat) (groups : List (List (FVal × FVal))) : Nat × Nat :=
  let ni := if (Ty.f32.decodeF init).isNan then mfNI else 0
  groups.foldl (fun r g =>
    let x := groupSum g
    let y := accAdd r.1 x.1
    (y.1, r.2 ||| x.2 ||| y.2)) (init, ni)

/-- One element of an s8 result (R283). -/
def macInt (init : Nat) (groups : List (List (Int × Int))) : Nat × Nat :=
  let r := groups.foldl (fun (r : Int × Nat) g =>
    let v := r.1 + (g.map fun p => p.1 * p.2).sum
    let c := satTo .s32 v
    (c, r.2 ||| (if c = v then 0 else mfSAT))) (sext 32 init, 0)
  (wrap 32 r.1, r.2)

/-- A sparse map's first n values as an array. -/
def SMap.toArray (m : SMap Nat) (n : Nat) : Array Nat := m.foldl (fun a p => a.setIfInBounds p.1 p.2) (Array.replicate n 0)

namespace Machine

/-! ### Shape (R275, R276) -/

/-- The effective mask of a mask under the governor's (R276). -/
def effMask (mask gmask : Nat) : Nat :=
  let m := mask &&& gmask
  if m = 0 then ((List.range 4).find? fun i => mask.testBit i).elim 1 (2 ^ ·) else m

/-- The shape a command that starts now would take: mask and divisor code (R276). -/
def State.shapeNow (s : State) (core : Nat) : Nat × Nat :=
  let r := s.sysGet SysReg.ashape core
  (effMask (field r 3 0) (field r 19 16), max (field r 5 4) (field r 21 20))

/-- The commands of a core's queue, the head first. -/
def State.mcmds (s : State) (core : Nat) : List MCmd := s.mx.cmds.filter fun m => m.core = core

/-- EMASK and EDIV as they read: the running head's, else those of a command that starts now (R275). -/
def State.shapeRead (s : State) (core : Nat) : Nat × Nat :=
  match s.mcmds core with
  | c :: _ => if c.running then (c.emask, c.ediv) else s.shapeNow core
  | [] => s.shapeNow core

/-- ctl.ashape as it reads (R275). -/
def State.ashapeRead (s : State) (core : Nat) : Word64 :=
  let e := s.shapeRead core
  setField (setField (s.sysGet SysReg.ashape core) 27 24 e.1) 29 28 e.2

/-- A core's stage; after reset four groups of bf16 +0 (R273). -/
def State.stage (s : State) (core n : Nat) : Stage2 := SMap.get Stage2.reset s.mx.stages (2 * core + n)

/-- The format and groups of the stage a command at the end of the queue would use, once it is filled: that of the last mwld queued,
or the current one (R274, R292). -/
def State.shapeAhead (s : State) (core : Nat) : MFmt × Nat :=
  match (s.mcmds core).reverse.findSome? fun m => match m.kind with
      | .load f g _ _ => some (f, g)
      | _ => none with
  | some x => x
  | none => let t := s.stage core (SMap.get 0 s.mx.current core); (t.fmt, t.groups)

/-- The core's queue is full, or the launch's commands are held (R274; 17 R380). -/
def State.mxFull (s : State) (is : Issue) : Bool :=
  decide (16 ≤ (s.mcmds is.c.core).length) || s.quiesced is.c.handle

/-- A matrix command entered (R274). -/
def State.queueMatrix (s : State) (is : Issue) (l aslot stage : Nat) (kind : MCmdKind) (clasp : Option ClaspRef) : State :=
  let c : MCmd := ⟨s.opId, is.c.core, is.cmdId s l, aslot, is.tolerant, kind, clasp, stage, false, 0, none, none, 0, 0, [], none⟩
  { s with opId := s.opId + 1, mx := { s.mx with cmds := s.mx.cmds ++ [c] } }

/-- mshape (R290). -/
def mshapeEff (q : QWord) (is : Issue) (s : State) : Option Done :=
  (lowestLane is.act).bind fun l =>
    if s.mxFull is then none
    else some (.next (s.queueMatrix is l 255 0 (.shape (is.src s false q.a l)) none))

def execMshape (q : QWord) (s : State) : Host.Outcome State Fault Refusal :=
  issueWith (.mshape q) 0 (mshapeEff q) s

/-! ### mwld -/

/-- A record of a matrix operand: its element size, and whether its role is bound (R280, R291). -/
def State.operandBad (s : State) (w : Who) (r : Rec256) (es : Nat) (spaces : List Nat) : Bool :=
  decide (Rec256.es r ≠ es) || !spaces.contains (Rec256.space r) ||
    (decide (Rec256.space r = 2) && (s.roleCore w (Rec256.role r)).isNone)

/-- mwld on the source lane: the checks of R291, and the command queued. -/
def mwldEff (q : QWord) (wn sn : Nat) (cl : Option Nat) (fmt : MFmt) (kn : Nat) (is : Issue) (s : State) : Option Done :=
  (lowestLane is.act).bind fun l =>
    if s.mxFull is then none
    else
      let w := s.who is.ctx
      let rec_ (n : Nat) : Rec256 := is.c.recSlot is.sub n
      let ops := if fmt = .bx4 then [(wn, MFmt.es fmt), (sn, 0)] else [(wn, MFmt.es fmt)]
      let slots := ops.map Prod.fst ++ cl.toList
      let trap (s : State) (k n : Nat) (line : Word64) : Option Done := some (is.sourceTrap s l k n line)
      match slots.find? fun n => !Rec256.valid (rec_ n) with
      | some n => trap s trapBounds n 0
      | none =>
        match ops.find? fun o => s.operandBad w (rec_ o.1) o.2 [1, 2, 3] with
        | some o => trap s trapBounds o.1 0
        | none =>
          match ops.find? fun o => Rec256.wo (rec_ o.1) with
          | some o => trap s trapPermission o.1 0
          | none =>
            let c : State × Option Found × Option ClaspRef := match cl with
              | some n =>
                let z := s.commandClasp w n (rec_ n) (sext 32 (is.src s false q.a l)) (sext 32 (is.src s false q.b l))
                (z.1, some z.2.1, some z.2.2)
              | none => (s, none, none)
            match c.2.1 with
            | some (.trap k line _) => trap c.1 k (cl.getD 255) line
            | some (.page lf pa) => some (is.pathPage c.1 lf pa)
            | some .wait => none
            | _ =>
              let n := SMap.get 0 c.1.mx.loads is.c.core + 1
              let s1 : State := { c.1 with mx := { c.1.mx with loads := SMap.set 0 c.1.mx.loads is.c.core n } }
              some (.next (s1.queueMatrix is l wn (n % 2) (.load fmt (kn + 1) (rec_ wn) (rec_ sn)) c.2.2))

def execMwld (q : QWord) (w sl cl : Nat) (fmt : MFmt) (kn : Nat) (s : State) : Host.Outcome State Fault Refusal :=
  issueWith (.mwld q w sl cl fmt kn) 0 (mwldEff q w sl (some cl) fmt kn) s

def execMwldNoc (q : QWord) (w sl : Nat) (fmt : MFmt) (kn : Nat) (s : State) : Host.Outcome State Fault Refusal :=
  issueWith (.mwldNoc q w sl fmt kn) 0 (mwldEff q w sl none fmt kn) s

/-! ### mmac -/

/-- The parameter block's limits (R280). -/
def blockOk (b : List Byte) (core regs : Nat) : Bool :=
  let n (o k : Nat) : Nat := descNat b o k
  let g := n 3 1
  let noc := decide (n 5 1 / 2 % 2 = 1)
  let bx := decide (n 1 1 = 14)
  (MFmt.ofCode (n 1 1)).isSome && decide (1 ≤ n 2 1 ∧ n 2 1 ≤ 64 ∧ g < 8 ∧ 1 ≤ g ∧ g ≤ 4) &&
  decide (n 4 1 + 2 * n 2 1 ≤ regs) && decide (n 5 1 < 4 ∧ n 6 1 < 16 ∧ n 7 1 < 16) &&
  (bx || decide (n 0 1 < 16)) && (!bx || decide (n 8 4 % 64 = 0)) &&
  (!noc || decide (n 6 1 = 0 ∧ n 16 8 = 0)) && (decide (n 7 1 = 0) || (n 7 1).testBit (core % 4)) && decide (n 28 36 = 0)

/-- A pending mmac of the gang, with its first accumulator and rows. -/
def State.pendingMacs (s : State) (c : CtxId) : List MacArgs :=
  s.mx.cmds.filterMap fun m => match m.kind with
    | .mac a _ _ => if m.by_.ctx = c then some a else none
    | _ => none

/-- Two accumulators share a register (R282). -/
def MacArgs.meets (a : MacArgs) (acc m : Nat) : Bool := decide (a.acc < acc + 2 * m ∧ acc < a.acc + 2 * a.m)

/-- Another asynchronous producer than an mmac still has to write a register of a range. -/
def State.otherProducer (s : State) (gid acc m : Nat) : Bool :=
  let hit (r : Nat) : Bool := decide (acc ≤ r ∧ r < acc + 2 * m)
  (s.en.queues.any fun q => q.2.pend.any fun p => decide (p.gid = gid) && hit p.reg) ||
  (s.ms.ops.any fun o => decide (o.ctx = .gang gid) && (match o.kind with
    | .dld e => e
    | _ => false) && o.reg.any hit) ||
  s.en.boxes.any fun b => match b.2 with
    | some x => decide (x.gid = gid) && hit x.reg
    | none => false

/-- An accumulator register of some lane is empty. -/
def Ctx.accEmpty (c : Ctx) (acc m : Nat) : Bool :=
  (List.range 64).any fun l => (List.range (2 * m)).any fun i => c.empty l (acc + i)

/-- How an mmac's accumulator stands: it blocks the path, or it is read or chained (R282). -/
inductive AccState
  | blocked | read | chained
  deriving DecidableEq, Repr

def State.accState (s : State) (is : Issue) (acc m : Nat) (zero : Bool) : AccState :=
  let ps := (s.pendingMacs is.ctx).filter fun a => a.meets acc m
  if ps.isEmpty then (if !zero && is.c.accEmpty acc m then .blocked else .read)
  else if !zero && (ps.all fun a => decide (a.acc = acc ∧ a.m = m)) && !s.otherProducer is.c.gid.toNat acc m then .chained
  else .blocked

/-- The values an accumulator starts from, keyed 128 m + n (R281, R282). -/
def Ctx.accInit (c : Ctx) (acc m : Nat) (zero : Bool) : SMap Word :=
  if zero then []
  else ((List.range (128 * m)).map fun i => (i, c.reg (i % 64) (acc + i / 64))).filter fun p => p.2 ≠ 0

/-- Every accumulator register of every lane marked empty (R281). -/
def Ctx.emptyAcc (c : Ctx) (acc m : Nat) : Ctx :=
  (List.range 64).foldl (fun (c : Ctx) l => (List.range (2 * m)).foldl (fun (c : Ctx) i => c.markEmpty l (acc + i)) c) c

/-- The checks of an mmac's records and its clasp, in R292's order: the state with a trap, a page to wait for, or the clasp. -/
def State.macChecks (s : State) (is : Issue) (b : List Byte) : State × Found × Option ClaspRef :=
  let n (o k : Nat) : Nat := descNat b o k
  let w := s.who is.ctx
  let rec_ (n : Nat) : Rec256 := is.c.recSlot is.sub n
  let sl := s.shapeAhead is.c.core
  let trap (k : Nat) : State × Found × Option ClaspRef := (s, .trap k 0 false, none)
  if !blockOk b is.c.core is.c.blockSize then trap trapBounds
  else
    match MFmt.ofCode (n 1 1) with
    | none => trap trapBounds
    | some f =>
      let a := rec_ (n 0 1 % 16)
      let sc := rec_ (n 0 1 / 16)
      let bx := decide (f = .bx4)
      if (f = .s8) ≠ (sl.1 = .s8) ∨ sl.2 < n 3 1 then trap trapBounds
      else if !Rec256.valid a || s.operandBad w a f.es [0, 1, 2, 3] ||
          (bx && (!Rec256.valid sc || s.operandBad w sc 0 [0, 1, 2, 3])) then trap trapBounds
      else if Rec256.wo a || (bx && Rec256.wo sc) then trap trapPermission
      else if n 5 1 / 2 % 2 = 1 then (s, .ok 0 7, none)
      else
        let k := n 6 1
        let c := rec_ k
        let x := sext 32 (n 16 4)
        let y := sext 32 (n 20 4)
        if !Rec256.valid c then trap trapBounds
        else if Rec256.es c ≠ 4 ∨ 3 ≤ Rec256.space c ∨ (recAddr c x y 16).isNone then trap trapClasp
        else
          let z := s.commandClasp w k c x y
          (z.1, z.2.1, some z.2.2)

/-- mmac on the source lane; a fault record of the block's checks names its A slot (R280-R282, R292). -/
def mmacEff (q : QWord) (is : Issue) (s : State) : Option Done :=
  (lowestLane is.act).bind fun l =>
    if s.mxFull is then none
    else
      let off := is.src s false q.a l
      match s.arena is.c.handle is.c.core with
      | none => some (is.sourceTrap s l (if off % 64 ≠ 0 then trapMisaligned else trapBounds) 255 0)
      | some (base, size) =>
        if off % 64 ≠ 0 then some (is.sourceTrap s l trapMisaligned 255 0)
        else if size < off + 64 then some (is.sourceTrap s l trapBounds 255 0)
        else
          let b := s.bytesAt (scratch is.c.core (base + off)) 64
          let n (o k : Nat) : Nat := descNat b o k
          let z := s.macChecks is b
          let aslot := n 0 1 % 16
          match z.2.1 with
          | .trap k line _ => some (is.sourceTrap z.1 l k aslot line)
          | .page lf pa => some (is.pathPage z.1 lf pa)
          | .wait => none
          | _ =>
            let m := n 2 1
            let acc := n 4 1
            let zero := decide (n 5 1 % 2 = 1)
            let st := z.1.accState is acc m zero
            if st = .blocked then none
            else
              let rec_ (i : Nat) : Rec256 := is.c.recSlot is.sub i
              let a : MacArgs := ⟨m, n 3 1, acc, zero, (MFmt.ofCode (n 1 1)).getD .bf16, sext 32 (n 8 4), sext 32 (n 12 4),
                rec_ aslot, rec_ (n 0 1 / 16), n 7 1, n 24 4⟩
              let init := if st = .chained then [] else is.c.accInit acc m zero
              let s1 := z.1.queueMatrix is l aslot 0 (.mac a init (decide (st = .chained))) z.2.2
              some (.next (s1.modCtx is.ctx fun c => c.emptyAcc acc m))

def execMmac (q : QWord) (s : State) : Host.Outcome State Fault Refusal := issueWith (.mmac q) 0 (mmacEff q) s

/-! ### mstat -/

/-- The word of mstat (R293). -/
def State.mstatWord (s : State) (core : Nat) : Nat :=
  let t := s.stage core (SMap.get 0 s.mx.current core)
  let e := s.shapeRead core
  min 16 (s.mcmds core).length * 2 ^ 27 + t.groups * 2 ^ 24 + t.fmt.code * 2 ^ 20 + e.1 * 2 ^ 16 + e.2 * 2 ^ 14 +
    bit t.poison * 2 ^ 13 + SMap.get 0 s.mx.flags core

/-- mstat: with a wait, once the gang's mwld and mmac commands have completed; the flags cleared as they are read (R293). -/
def mstatEff (q : QWord) (wait clr : Bool) (is : Issue) (s : State) : Option Done :=
  let busy := s.mx.cmds.any fun m => decide (m.by_.ctx = is.ctx) && (match m.kind with
    | .load _ _ _ _ => true
    | .mac _ _ _ => true
    | _ => false)
  if wait && busy then none
  else
    let core := is.c.core
    let s1 : State := if clr then { s with mx := { s.mx with flags := SMap.set 0 s.mx.flags core 0 } } else s
    some (is.writeAll s1 q.d 1 (s.mstatWord core))

def execMstat (q : QWord) (wait clr : Bool) (s : State) : Host.Outcome State Fault Refusal :=
  issueWith (.mstat q wait clr) 8 (mstatEff q wait clr) s

end Machine

end Sys2Proof
end

