-- ==== Sys2Proof/Machine/DriftEvents.lean ====
section
/-! DEFINITION. The events of drift regions: messages received (15 R338, R339), evicted drift lines (R330), and writes of the
drift table's registers (R328, R329). -/

namespace Sys2Proof.Machine

/-- A message received by its kind, or nothing where no such message is in flight. -/
def onMessage (id : Nat) (f : DMsg → State → Option State) (s : State) : Host.Outcome State Fault Refusal :=
  match (s.message id).bind fun m => f m (s.took id) with
  | some t => ret t
  | none => .next s

/-- SHARE_REQUEST at a region home; a region that is no longer valid has nothing to grant (R329, R331). -/
def execShareRequest (id : Nat) (s : State) : Host.Outcome State Fault Refusal :=
  onMessage id (fun m s => match m with
    | .shareRequest cache region =>
      let h := s.driftHome region
      some (if (s.driftEntry region).valid then (s.putHome { h with reqs := h.reqs ++ [(cache, none)] }).settleHome region
        else s.send (.shareGrant cache region 0 s.opId))
    | _ => none) s

/-- A grant named by a forced drain before it came is void (R339). -/
def State.voided (s : State) (cache region num : Nat) : State :=
  { s with dr := { s.dr with voids := s.dr.voids ++ [(cache, region, num)] } }

/-- A void grant has come. -/
def State.unvoid (s : State) (cache region num : Nat) : State :=
  { s with dr := { s.dr with voids := s.dr.voids.filter fun v => v ≠ (cache, region, num) } }

/-- SHARE_GRANT at a cache: its share, unless the grant is void; a cache that tracks the region no longer returns it
(R338, R339). -/
def execShareGrant (id : Nat) (s : State) : Host.Outcome State Fault Refusal :=
  onMessage id (fun m s => match m with
    | .shareGrant cache region share num =>
      let void := decide (share = 0) || s.dr.voids.contains (cache, region, num)
      let s1 := s.unvoid cache region num
      some (match s1.tracker? cache region with
        | some t =>
          s1.putTracker (if void then { t with requested := false } else { t with requested := false, share := share, grant := num })
        | none => if void then s1 else s1.send (.shareReturn cache region num))
    | _ => none) s

/-- FORCED_DRAIN at a cache: it drains, after any drain in flight; one that names a grant the cache has not received is
acknowledged at once and the grant is void (R334, R339). A grant the cache has returned meanwhile is in no message on its way, and its
void name is never met. -/
def execForcedDrain (id : Nat) (s : State) : Host.Outcome State Fault Refusal :=
  onMessage id (fun m s => match m with
    | .forcedDrain cache region num _ =>
      let void := s.voided cache region num
      some (match s.tracker? cache region with
        | some t =>
          if t.share = 0 ∨ t.grant ≠ num then void.send (.drainAck cache region num)
          else if t.draining then s.putTracker { t with forced := true }
          else s.beginDrain { t with forced := true }
        | none => void.send (.drainAck cache region num))
    | _ => none) s

/-- An earlier delta write of the same cache to the same element is still on its way: a thread's additions are applied in their order
(13 R299). -/
def State.deltaBehind (s : State) (id cache pa : Nat) : Bool :=
  (s.dr.msgs.takeWhile fun m => m.1 ≠ id).any fun m => match m.2 with
    | .deltaWrite c _ p _ _ _ _ => decide (c = cache ∧ p = pa)
    | _ => false

/-- DELTA_WRITE at an element home: applied and acknowledged, once no lease holds it, nor a slot its resource (R333, R340). -/
def execDeltaWrite (id : Nat) (s : State) : Host.Outcome State Fault Refusal :=
  match s.message id with
  | some (.deltaWrite cache region pa x fmt op held) =>
    if s.deltaBehind id cache pa || (s.taken pa && !s.sliceHas pa 4) then .next s
    else if s.leaseLive pa then
      if held then .next s
      else
        let m : DMsg := .deltaWrite cache region pa x fmt op true
        ret (({ s with dr := { s.dr with msgs := s.dr.msgs.map fun p => if p.1 = id then (id, m) else p } } : State).splitRegion pa)
    else ret (((s.took id).applyDelta fmt pa x).send (.deltaAck cache region pa op))
  | _ => .next s

/-- DELTA_ACK at a cache: a delta write fewer is outstanding there, which may end a drain, and the addition it carried is performed (R330,
R338, R343). -/
def execDeltaAck (id : Nat) (s : State) : Host.Outcome State Fault Refusal :=
  onMessage id (fun m s => match m with
    | .deltaAck cache region _ op =>
      let s1 := match s.tracker? cache region with
        | some t => s.endDrain t
        | none => s
      some (match op with
        | some (i, lane) => (match s1.op? i with
          | some o => s1.endLanes o (1#64 <<< lane)
          | none => s1)
        | none => s1)
    | _ => none) s

/-- DRAIN_ACK at a region home: the share is unallocated again (R331, R334). -/
def execDrainAck (id : Nat) (s : State) : Host.Outcome State Fault Refusal :=
  onMessage id (fun m s => match m with
    | .drainAck cache region num => some ((s.takeBack region cache num).settleHome region)
    | _ => none) s

/-- SHARE_RETURN at a region home (R338). -/
def execShareReturn (id : Nat) (s : State) : Host.Outcome State Fault Refusal :=
  onMessage id (fun m s => match m with
    | .shareReturn cache region num => some ((s.takeBack region cache num).settleHome region)
    | _ => none) s

/-- TOLERANCE_QUERY at a region home: it joins the region's queue (R335 step 4). -/
def execToleranceQuery (id : Nat) (s : State) : Host.Outcome State Fault Refusal :=
  onMessage id (fun m s => match m with
    | .tolQuery q => some (match s.query? q with
      | some x =>
        let h := s.driftHome x.region
        ((s.putQuery { x with stage := 2 }).putHome { h with queue := h.queue ++ [q] }).settleHome x.region
      | none => s)
    | _ => none) s

/-- TOLERANCE_CLEAR at an element home: the element is read, and a load's region home is told (R335 step 5); a write tells it once
performed (R337). -/
def execToleranceClear (id : Nat) (s : State) : Host.Outcome State Fault Refusal :=
  onMessage id (fun m s => match m with
    | .tolClear q => some (match s.query? q with
      | some x => s.answer x
      | none => s)
    | _ => none) s

/-- TOLERANCE_DONE at a region home: grants resume (R338). -/
def execToleranceDone (id : Nat) (s : State) : Host.Outcome State Fault Refusal :=
  onMessage id (fun m s => match m with
    | .tolDone region q =>
      let h := s.driftHome region
      some ((s.putHome { h with clears := h.clears.filter fun k => k ≠ q }).settleHome region)
    | _ => none) s

/-- DRIFT_LINE_EVICT: the pending entries of a line go home as delta writes (R330). -/
def execDriftLineEvict (cache line : Nat) (s : State) : Host.Outcome State Fault Refusal := ret (s.evictDrift cache line)

/-! ### The table's registers (R328, R329) -/

/-- The selected entry. -/
def State.driftIdx (s : State) : Nat := field (s.sysGet SysReg.drsel 0) 5 0

/-- A commit was refused. -/
def State.driftErr (s : State) : State :=
  s.sysPut SysReg.drsel 0 (s.sysGet SysReg.drsel 0 ||| 0x8000000000000000)

/-- The last byte of a range is fitted memory of the same tier and stack as its first (09 R207). -/
def rangeFits (base granules : Nat) : Bool :=
  let last := base + 2 ^ 16 * granules - 1
  fitted base && decide (base / 2 ^ 44 = last / 2 ^ 44) && fitted last

/-- Two ranges share an address. -/
def DriftRegion.meets (r : DriftRegion) (base granules : Nat) : Bool :=
  r.valid && decide (r.base < base + 2 ^ 16 * granules ∧ base < r.base + 2 ^ 16 * r.size)

/-- A commit with V = 1: refused, or the entry valid with the staged limit and size (R329). -/
def State.commitDrift (s : State) (v : Word64) : State :=
  let i := s.driftIdx
  let base := field v 47 16 * 2 ^ 16
  let lim : Word := BitVec.ofNat 32 (field s.dr.staged 63 32)
  let size := field s.dr.staged 27 0
  let limOk := f32Finite lim && decide (0 < unitsOf lim) && decide (lim.toNat < 2 ^ 31)
  if (s.driftEntry i).valid || !limOk || decide (size = 0) || decide (2 ≤ base / 2 ^ 46) || !rangeFits base size ||
      s.dr.table.any fun p => p.2.meets base size then s.driftErr
  else
    let dr := { s.dr with
      table := SMap.set DriftRegion.off s.dr.table i ⟨true, field v 62 62, base, lim, size⟩
      homes := s.dr.homes.filter fun h => h.region ≠ i }
    { s with dr := dr }

/-- A commit with V = 0: forced drains to every holder, and no further grant (R329). -/
def State.retireDrift (s : State) : State :=
  let i := s.driftIdx
  let h := s.driftHome i
  if (s.driftEntry i).valid && !h.retiring then
    ((holders h).foldl (fun s g => s.forceDrain i 3 g) (s.putHome { h with retiring := true })).settleHome i
  else s

def execDrent0Commit (v : Word64) (s : State) : Host.Outcome State Fault Refusal :=
  ret (if v.getLsbD 63 then s.commitDrift v else s)

def execDrent0Retire (v : Word64) (s : State) : Host.Outcome State Fault Refusal :=
  ret (if v.getLsbD 63 then s else s.retireDrift)

def execDrent1Stage (v : Word64) (s : State) : Host.Outcome State Fault Refusal :=
  .next { s with dr := { s.dr with staged := v &&& 0xFFFFFFFF0FFFFFFF } }

end Sys2Proof.Machine
end

