-- ==== Sys2Proof/Machine/MatrixEvents.lean ====
section
/-! DEFINITION. The events of the matrix arrays: commands starting, passes, completion and faults, multicast and the bands'
power (12 R274-R288). -/

namespace Sys2Proof.Machine

/-! ### Operands -/

/-- The bytes an operand of `rows` rows and G groups reads, in order: whether from the scale record, its index, its size
(R278, R279). -/
def operandReads (f : MFmt) (g rows : Nat) (x0 y0 : Int) : List (Bool × Int × Int × Nat) :=
  if f = .bx4 then
    ((List.range rows).flatMap fun (r : Nat) => (List.range (16 * g)).map fun (j : Nat) =>
      (false, x0 / 2 + (j : Int), y0 + (r : Int), 1)) ++
    (List.range rows).flatMap fun (r : Nat) => (List.range (2 * ((g + 1) / 2))).map fun (h : Nat) =>
      (true, 2 * (x0 / 64) + (h : Int), y0 + (r : Int), 1)
  else (List.range rows).flatMap fun (r : Nat) => (List.range (32 * g)).map fun (k : Nat) =>
    (false, x0 + (k : Int), y0 + (r : Int), 2 ^ f.es)

/-- An operand's reads checked (R278, R287). -/
def State.checkOperand (s : State) (id : Nat) (w : Who) (data scale : Rec256) (rs : List (Bool × Int × Int × Nat)) : State × List Found :=
  rs.foldl (fun (z : State × List Found) r =>
    let q := z.1.engineCheck id w (if r.1 then scale else data) r.2.1 r.2.2.1 r.2.2.2 .read
    (q.1, z.2 ++ [q.2])) (s, [])

/-- An operand's reads as element accesses (R278, R279). -/
def operandAccs (data scale : Rec256) (rs : List (Bool × Int × Int × Nat)) (fs : List Found) : List EAcc :=
  (rs.zip fs).map fun p => ⟨p.2, p.1.2.2.2, recRt (if p.1.1 then scale else data), false⟩

/-- Element k of row r of an operand's values (R278, R279). -/
def elemAt (f : MFmt) (g rows : Nat) (a : Array Nat) (r k : Nat) : Elem :=
  if f = .bx4 then
    let byte := a.getD (r * 16 * g + k / 2) 0
    let h := rows * 16 * g + r * (2 * ((g + 1) / 2)) + 2 * (k / 64)
    ⟨if k % 2 = 0 then byte % 16 else byte / 16 % 16, a.getD h 0, a.getD (h + 1) 0⟩
  else ⟨a.getD (r * 32 * g + k) 0, 0, 0⟩

/-- The bytes a command's operand takes from memory (R286). -/
def operandBytes (f : MFmt) (g rows : Nat) : Nat :=
  if f = .bx4 then rows * 16 * g + 2 * rows * ((g + 1) / 2) else rows * 32 * g * 2 ^ f.es

/-- Whose access a core's array makes. -/
def MCmd.who (c : MCmd) : Who := c.by_.who [c.core, 256 + c.core / 4]

/-- What an array's reads see (13 R311). -/
def MCmd.view (c : MCmd) : EView := .core (5 * (c.core / 4) + c.core % 4)

/-! ### The queue -/

/-- The head of a core's queue. -/
def State.mhead (s : State) (core : Nat) : Option MCmd := (s.mcmds core).head?

/-- A command replaced or, with `none`, gone. -/
def State.putM (s : State) (id : Nat) (x : Option MCmd) : State :=
  { s with mx := { s.mx with cmds := s.mx.cmds.filterMap fun m => if m.id = id then x else some m } }

/-! ### Starting (R274, R276, R288) -/

/-- A command reads through a record of space 0 or 3 (R288). -/
def MCmd.remote (c : MCmd) : Bool :=
  let far (r : Rec256) : Bool := decide (Rec256.space r = 0 ∨ Rec256.space r = 3)
  match c.kind with
  | .load f _ d sc => far d || (decide (f = .bx4) && far sc)
  | .mac a _ _ => far a.data || (decide (a.fmt = .bx4) && far a.scale)
  | _ => false

/-- The worst-case time of a command in ns (R288). -/
def State.worstTime (s : State) (c : MCmd) : Nat :=
  let clocks := match c.kind with
    | .load f g _ _ => 1024 + 32 * g * f.halves
    | .mac a _ _ =>
      let b := ((List.range 4).filter fun i => (s.shapeNow c.core).1.testBit i).length
      let r := rateOf a.fmt (s.stage c.core (SMap.get 0 s.mx.current c.core)).fmt
      1024 + (a.groups + b - 1) / max 1 b * ((a.m + r - 1) / r) * 8
    | _ => 0
  (clocks * 5 + 2) / 3

/-- Global time as a command's array sees it (18 R390). -/
def State.arrayTime (s : State) (c : MCmd) : Nat := (s.gtime (5 * (c.core / 4) + c.core % 4)).toNat

/-- A command that may start now would meet the next slot, and waits until that has ended (R288). -/
def State.mustDefer (s : State) (c : MCmd) : Bool :=
  let t := s.arrayTime c
  !c.st && c.remote && c.deferred.isNone && decide (s.slotStart (s.nextSlot t) < t + s.worstTime c + s.horizon)

/-- A deferred command's slot has not ended (R288). -/
def State.stillDeferred (s : State) (c : MCmd) : Bool := c.deferred.any fun k => decide (s.arrayTime c < s.slotEndAt k)

/-- A command starts with its effective shape, or is deferred (R276, R288); an mmac reads its stage (19 R413; log 23). -/
def State.startM (s : State) (c : MCmd) : State :=
  if s.mustDefer c then s.putM c.id (some { c with deferred := some (s.nextSlot (s.arrayTime c)) })
  else if s.stillDeferred c then s
  else
    let e := s.shapeNow c.core
    let s1 := match c.kind with
      | .mac _ _ _ => (s.injectUse 9 (c.core / 4) (c.core % 4) false noGang).1
      | _ => s
    s1.putM c.id (some { c with running := true, emask := e.1, ediv := e.2 })

/-- The stage each mmac ahead of a command uses (R274). -/
def State.stageOf (s : State) (core : Nat) (id : Nat) : Nat :=
  match ((s.mcmds core).takeWhile fun m => m.id ≠ id).reverse.find? fun m => match m.kind with
      | .load _ _ _ _ => true
      | _ => false with
  | some m => m.stage
  | none => SMap.get 0 s.mx.current core

/-- The mwld that may start next: no mmac ahead of it uses its stage, and no command ahead is deferred (R274, R288). -/
def State.loadReady (s : State) (core : Nat) : Option MCmd :=
  let q := s.mcmds core
  q.find? fun c => !c.running && (match c.kind with
    | .load _ _ _ _ =>
      let ahead := q.takeWhile fun m => m.id ≠ c.id
      !(ahead.any fun m => (match m.kind with
          | .mac _ _ _ => decide (s.stageOf core m.id = c.stage)
          | _ => false) || (m.deferred.isSome && !m.running))
    | _ => false)

/-- MWLD_START (R274). -/
def execMwldStart (core : Nat) (s : State) : Host.Outcome State Fault Refusal :=
  match s.loadReady core with
  | some c => .next (s.startM c)
  | none => .next s

/-- A record as multicast compares it: a role by the core it binds (R285). -/
def State.castKey (s : State) (c : MCmd) (r : Rec256) : Rec256 × Option Nat :=
  if Rec256.space r = 2 then
    (r &&& ~~~(BitVec.ofNat 256 (15 * 2 ^ 176 + 255 * 2 ^ 248)), s.roleCore c.who (Rec256.role r))
  else (r, none)

/-- A core's head is a member that matches another (R285). -/
def State.matching (s : State) (c : MCmd) (a : MacArgs) (core : Nat) : Bool :=
  match s.mhead core with
  | some d =>
    (match d.kind with
     | .mac b _ _ =>
       decide (b.mcast ≠ 0 ∧ a.mtag = b.mtag ∧ a.m = b.m ∧ a.groups = b.groups ∧ a.fmt = b.fmt ∧ a.ax = b.ax ∧ a.ay = b.ay) &&
       decide (s.castKey c a.data = s.castKey d b.data) &&
       (decide (a.fmt ≠ .bx4) || decide (s.castKey c a.scale = s.castKey d b.scale))
     | _ => false)
  | none => false

/-- The cores of a member's mask (R285). -/
def MCmd.castCores (c : MCmd) (a : MacArgs) : List Nat :=
  ((List.range 4).filter fun i => a.mcast.testBit i).map fun i => 4 * (c.core / 4) + i

/-- Every core of a member's mask has brought a match, and none has started (R285). -/
def State.castReady (s : State) (c : MCmd) (a : MacArgs) : Bool :=
  (c.castCores a).all fun k => s.matching c a k && (s.mhead k).all fun d => !d.running

/-- A member's group has started without it (R285). -/
def State.castStarted (s : State) (c : MCmd) (a : MacArgs) : Bool :=
  (c.castCores a).any fun k => s.matching c a k && (s.mhead k).any fun d => d.running

/-- The members of a group start together, and share their reads of A (R285). -/
def State.startCast (s : State) (c : MCmd) (a : MacArgs) : State :=
  let ms := (c.castCores a).filterMap s.mhead
  ms.foldl (fun s m => s.startM { m with mates := (ms.map MCmd.id).filter fun i => i ≠ m.id }) s

/-- MMAC_START: an mmac at the head starts; a multicast member with its partners once they are there, alone where they have started,
else it begins to wait (R274, R276, R285). -/
def execMmacStart (core : Nat) (s : State) : Host.Outcome State Fault Refusal :=
  match s.mhead core with
  | some c =>
    (match c.kind with
     | .mac a _ _ =>
       if c.running then .next s
       else if a.mcast = 0 ∨ s.castStarted c a then .next (s.startM { c with mates := [] })
       else if s.castReady c a then .next (s.startCast c a)
       else if c.headSince.isNone then .next (s.putM c.id (some { c with headSince := some (s.coreClk core) }))
       else .next s
     | _ => .next s)
  | none => .next s

/-- MULTICAST_TIMEOUT: a member whose partners have not come within 512 clocks starts alone (R285). -/
def execMulticastTimeout (core : Nat) (s : State) : Host.Outcome State Fault Refusal :=
  match s.mhead core with
  | some c =>
    (match c.headSince with
     | some t => if !c.running ∧ t + 512 ≤ s.coreClk core then .next (s.startM { c with mates := [] }) else .next s
     | none => .next s)
  | none => .next s

/-! ### Bands (R276; log 13) -/

def State.bandsOff (s : State) (core : Nat) : Nat := SMap.get 0 s.mx.bandsOff core

def State.putBands (s : State) (core v : Nat) : State := { s with mx := { s.mx with bandsOff := SMap.set 0 s.mx.bandsOff core v } }

/-- A running command's band is off. -/
def State.bandWanted (s : State) (core band : Nat) : Bool :=
  (s.bandsOff core).testBit band && (s.mcmds core).any fun c => c.running && c.emask.testBit band

/-- BAND_POWER_ON: a band that a running command needs is powered (R276). -/
def execBandPowerOn (core band : Nat) (s : State) : Host.Outcome State Fault Refusal :=
  if band < 4 ∧ s.bandWanted core band then .next (s.putBands core (s.bandsOff core ^^^ 2 ^ band)) else .next s

/-- Every band of a mask is on. -/
def State.bandsOn (s : State) (core mask : Nat) : Bool := decide (mask &&& s.bandsOff core = 0)

/-- Bands that no command in the queue needs any more go off (R276). -/
def State.shedBands (s : State) (core : Nat) : State :=
  let need := (s.mcmds core).foldl (fun m c => if c.running then m ||| c.emask else m) (s.shapeNow core).1
  s.putBands core (s.bandsOff core ||| (15 - need % 16))

/-- MSHAPE_COMPLETE: an mshape at the head writes MASK and DIV; bands that no command needs go off (R276, R290). -/
def execMshapeComplete (core : Nat) (s : State) : Host.Outcome State Fault Refusal :=
  match s.mhead core with
  | some c =>
    (match c.kind with
     | .shape w =>
       let m := if w % 16 = 0 then 1 else w % 16
       let r := setField (setField (s.sysGet SysReg.ashape core) 3 0 m) 5 4 (w / 16 % 4)
       .next (((s.putM c.id none).sysPut SysReg.ashape core r).shedBands core)
     | _ => .next s)
  | none => .next s

/-! ### Passes and results (R283) -/

/-- MMAC_PASS: the next groups stream through the bands the mask holds now (R276, R283). -/
def execMmacPass (core : Nat) (s : State) : Host.Outcome State Fault Refusal :=
  match s.mhead core with
  | some c =>
    (match c.kind with
     | .mac a _ _ =>
       if !c.running ∨ a.groups ≤ c.pass then .next s
       else
         let e := s.shapeNow core
         let c1 := { c with emask := e.1, ediv := e.2 }
         if s.bandsOn core e.1 then
           .next (s.putM c.id (some { c1 with pass := c.pass + ((List.range 4).filter fun i => e.1.testBit i).length }))
         else .next (s.putM c.id (some c1))
     | _ => .next s)
  | none => .next s

/-- Elements of the results that are not 0, keyed 128 m + n. -/
def macMap (rs : List Nat) : SMap Word :=
  (rs.mapIdx fun i v => (i, BitVec.ofNat 32 v)).filter fun p => p.2 ≠ 0

/-- The results of an mmac from its operand's values and its stage, with the array's flags (R283). -/
def macResults (a : MacArgs) (init : SMap Word) (t : Stage2) (vals : Array Nat) : List Nat × Nat :=
  let tile := SMap.toArray t.tile 16384
  let sc := SMap.toArray t.scales 512
  let w (n k : Nat) : Elem := ⟨tile.getD (128 * n + k) 0, sc.getD (4 * n + 2 * (k / 64)) 0, sc.getD (4 * n + 2 * (k / 64) + 1) 0⟩
  let x (m k : Nat) : Elem := elemAt a.fmt a.groups a.m vals m k
  let one (i : Nat) : Nat × Nat :=
    let m := i / 128
    let n := i % 128
    let start := (SMap.get 0 init i).toNat
    let ks (g : Nat) : List Nat := (List.range 32).map (32 * g + ·)
    if a.fmt = .s8 then
      macInt start ((List.range a.groups).map fun g => (ks g).map fun k => (sext 8 (x m k).raw, sext 8 (w n k).raw))
    else
      macFloat start ((List.range a.groups).map fun g => (ks g).map fun k => ((x m k).value a.fmt, (w n k).value t.fmt))
  let rs := (List.range (128 * a.m)).map one
  (rs.map Prod.fst, rs.foldl (fun f r => f ||| r.2) 0)

/-- The results every element of a faulted or poisoned mmac takes (R287). -/
def macNan (a : MacArgs) : List Nat := List.replicate (128 * a.m) (if a.fmt = .s8 then 0x80000000 else Ty.f32.nanBits)

/-- The command chained on an mmac (R282). -/
def State.chainedOn (s : State) (c : MCmd) (a : MacArgs) : Option MCmd :=
  ((s.mcmds c.core).dropWhile fun m => m.id ≠ c.id).tail.find? fun m => decide (m.by_.ctx = c.by_.ctx) && (match m.kind with
    | .mac b _ ch => ch && decide (b.acc = a.acc ∧ b.m = a.m)
    | _ => false)

/-- An mmac's results handed to the mmac chained on it, or written to the gang's registers (R281, R282; R294). -/
def State.macLand (s : State) (c : MCmd) (a : MacArgs) (rs : List Nat) : State :=
  match s.chainedOn c a with
  | some d =>
    (match d.kind with
     | .mac b _ _ => s.putM d.id (some { d with kind := .mac b (macMap rs) false })
     | _ => s)
  | none =>
    match c.by_.ctx with
    | .gang g => s.deliver g (rs.mapIdx fun i v => (i % 64, a.acc + i / 64, BitVec.ofNat 32 v))
    | .cc _ => s

/-- The reads of an mmac checked: none where its stage is poisoned (R287). -/
def State.macPlan (s : State) (c : MCmd) (a : MacArgs) : State × List (Bool × Int × Int × Nat) × List Found :=
  let rs := operandReads a.fmt a.groups a.m a.ax a.ay
  let q := s.checkOperand c.id c.who a.data a.scale rs
  (q.1, rs, q.2)

/-- The stage an mmac at the head uses. -/
def State.headStage (s : State) (core : Nat) : Stage2 := s.stage core (SMap.get 0 s.mx.current core)

/-- Flags raised by an array. -/
def State.orFlags (s : State) (core fl : Nat) : State :=
  { s with mx := { s.mx with flags := SMap.set 0 s.mx.flags core (SMap.get 0 s.mx.flags core ||| fl) } }

/-- An mmac's operand handed to the members of its group that have not read it (R285). -/
def State.shareReads (s : State) (c : MCmd) (vals : List Nat) : State :=
  let give (m : MCmd) : MCmd := if m.running && m.given.isNone && c.mates.contains m.id then { m with given := some vals } else m
  { s with mx := { s.mx with cmds := s.mx.cmds.map give } }

/-- An mmac ends with its operand's values: its results, the array's flags, and the bytes of A to its clasp (R283, R286). -/
def State.macEnd (s : State) (c : MCmd) (a : MacArgs) (init : SMap Word) (t : Stage2) (vals : List Nat) : State :=
  let r := macResults a init t vals.toArray
  (((s.macLand c a r.1).orFlags c.core r.2).putM c.id none).sendBytes c.by_ c.clasp (operandBytes a.fmt a.groups a.m)

/-- MMAC_COMPLETE: every pass made, the accumulators are written and the bytes of A go to the clasp (R286); on a poisoned
stage the elements are NaN and nothing is read (R287). -/
def execMmacComplete (core : Nat) (s : State) : Host.Outcome State Fault Refusal :=
  match s.mhead core with
  | some c =>
    (match c.kind with
     | .mac a init _ =>
       let t := s.headStage core
       if !c.running then .next s
       else if t.poison then ret (((s.macLand c a (macNan a)).putM c.id none).shedBands core)
       else if c.pass < a.groups then .next s
       else
         match c.given with
         | some vals => ret ((s.macEnd c a init t vals).shedBands core)
         | none =>
           let p := s.macPlan c a
           if (firstTrap p.2.2).isSome then .next s
           else
             let as := operandAccs a.data a.scale p.2.1 p.2.2
             let z := p.1.engineReady c.id c.st c.view false as
             if !z.2 then ret z.1
             else
               let r := z.1.engineReads c.id c.view as
               ret ((((r.1.engineDone c.id).shareReads c r.2).macEnd c a init t r.2).shedBands core)
     | _ => .next s)
  | none => .next s

/-- MMAC_FAULT: a read that faults ends the command; its accumulators are NaN, and its record names the A slot (R287,
R292). -/
def execMmacFault (core : Nat) (s : State) : Host.Outcome State Fault Refusal :=
  match s.mhead core with
  | some c =>
    (match c.kind with
     | .mac a _ _ =>
       if !c.running ∨ (s.headStage core).poison ∨ c.given.isSome then .next s
       else
         let p := s.macPlan c a
         (match firstTrap p.2.2 with
          | some (k, line) =>
            let s1 := (p.1.macLand c a (macNan a)).orphanQueries c.id
            ret (((s1.putM c.id none).shedBands core).engineFault c.by_ k 0 c.aslot line)
          | none => .next s)
     | _ => .next s)
  | none => .next s

/-! ### Weight loads -/

/-- A stage filled or poisoned; it becomes the current stage (R273, R287). -/
def State.latch (s : State) (c : MCmd) (t : Stage2) : State :=
  let s1 := (s.injectUse 9 (c.core / 4) (c.core % 4) true noGang).1
  { s1 with mx := { s1.mx with
    stages := SMap.set Stage2.reset s1.mx.stages (2 * c.core + c.stage) t
    current := SMap.set 0 s1.mx.current c.core c.stage } }

/-- The tile of an operand's values (R278). -/
def tileOf (f : MFmt) (g : Nat) (vals : Array Nat) : Stage2 where
  fmt := f
  groups := g
  tile := ((List.range 128).flatMap fun n => (List.range (32 * g)).map fun k =>
    (128 * n + k, (elemAt f g 128 vals n k).raw)).filter fun p => p.2 ≠ 0
  scales := if f = .bx4 then
    ((List.range 128).flatMap fun n => (List.range (2 * ((g + 1) / 2))).map fun h =>
      (4 * n + h, vals.getD (128 * 16 * g + n * (2 * ((g + 1) / 2)) + h) 0)).filter fun p => p.2 ≠ 0
    else []
  poison := false

/-- The running mwld at the head with its checked reads. -/
def State.loadPlan (s : State) (core : Nat) :
    Option (MCmd × MFmt × Nat × State × List EAcc) :=
  (s.mhead core).bind fun c => match c.kind with
    | .load f g d sc =>
      if c.running then
        let rs := operandReads f g 128 0 0
        let q := s.checkOperand c.id c.who d sc rs
        some (c, f, g, q.1, operandAccs d sc rs q.2)
      else none
    | _ => none

/-- MWLD_COMPLETE: the tile is latched, and its bytes go to the clasp (R286). -/
def execMwldComplete (core : Nat) (s : State) : Host.Outcome State Fault Refusal :=
  match s.loadPlan core with
  | none => .next s
  | some (c, f, g, s0, as) =>
    if (firstTrap (as.map EAcc.found)).isSome ∨ !s.bandsOn core c.emask then .next s
    else
      let z := s0.engineReady c.id c.st c.view false as
      if !z.2 then ret z.1
      else
        let r := z.1.engineReads c.id c.view as
        let s1 := (r.1.latch c (tileOf f g r.2.toArray)).engineDone c.id
        ret (((s1.putM c.id none).sendBytes c.by_ c.clasp (operandBytes f g 128)).shedBands core)

/-- MWLD_FAULT: a read that faults ends the command and poisons its stage (R287). -/
def execMwldFault (core : Nat) (s : State) : Host.Outcome State Fault Refusal :=
  match s.loadPlan core with
  | none => .next s
  | some (c, f, g, s0, as) =>
    match firstTrap (as.map EAcc.found) with
    | none => .next s
    | some (k, line) =>
      let old := s.stage core c.stage
      let s1 := (s0.latch c { old with fmt := f, groups := g, poison := true }).orphanQueries c.id
      ret (((s1.putM c.id none).shedBands core).engineFault c.by_ k 0 c.aslot line)

end Sys2Proof.Machine
end

