-- ==== Sys2Proof/Machine/LaunchEvents.lean ====
section
/-! DEFINITION. The events of launches, bins, gangs and teams (05 R113-R137), and those of a core's path and gang selection
(06 R148-R154). -/

namespace Sys2Proof.Machine

/-! ### Lines (R113-R116) -/

/-- LAUNCH_LINE_WRITE: a write to bytes 0-119 of a line, held while it is Pending (R113, R114); in M2 nothing serves it (20 R422). -/
def execLaunchLineWrite (col line off : Nat) (bytes : List Byte) (s : State) : Host.Outcome State Fault Refusal :=
  if s.pw.mstate ≠ 2 ∧ col < 64 ∧ line < 16 ∧ off + bytes.length ≤ 120 ∧ off < 120 then .next (s.lineWrite col line off bytes) else .next s

/-- LAUNCH_GO_WRITE: a nonzero GO makes the line Pending and fixes its handle, once the line is Idle (R113-R115); in M2 nothing serves
the write (20 R422). -/
def execLaunchGoWrite (col line : Nat) (go : Word64) (s : State) : Host.Outcome State Fault Refusal :=
  if s.pw.mstate ≠ 2 ∧ col < 64 ∧ line < 16 then .next (s.lineWrite col line 120 (leBytes 8 go.toNat)) else .next s

/-- The launch of an accepted record. -/
def Launch.start (h : Word64) (r : List Byte) (spill : Rec256) : Launch where
  handle := h
  record := r
  stage := .waiting
  nextRoot := 0
  nextTid := Machine.recNat r 8 4 * Machine.recNat r 12 4 * Machine.recNat r 16 4
  args := []
  spill := spill
  prio := Machine.recNat r 25 1
  status := 0
  cause := 0
  ending := false
  switched := false
  quiescing := 0
  wdog := none
  hung := false
  trigOk := false
  placed := 0

/-- LAUNCH_TAKE: the launch unit takes a Pending record while fewer than 512 launches are held and M2 is neither entered nor
left, and accepts or rejects it (R116; 20 R423, R424). -/
def execLaunchTake (col line : Nat) (s : State) : Host.Outcome State Fault Refusal :=
  let x := s.launchLine col line
  if !x.pending ∨ 512 ≤ s.la.launches.length ∨ s.pw.entering ≠ 0 ∨ s.pw.mstate = 2 ∨ s.recordWaits col x.record then .next s
  else
    let h := handleOf col line x.seq false
    let q := s.rejectCause col x.record h
    match q.2.1 with
    | some cause =>
      let hr := handleOf col line x.seq true
      let s1 := q.1.lineIdle col line hr
      ret ((s1.postCompletion (recNat x.record 28 2) col 1 cause hr (BitVec.ofNat 64 (recNat x.record 88 8))).resumeLaunches)
    | none =>
      let s1 := q.1.lineIdle col line h
      let la := { s1.la with launches := s1.la.launches ++ [Launch.start h x.record q.2.2] }
      ret ({ s1 with la := la } : State).resumeLaunches

/-! ### Predecessors and distribution (R117-R120) -/

/-- The predecessor condition (R118). -/
def State.predHolds (s : State) (l : Launch) : Bool :=
  if l.pred = 0 ∨ field l.pred 31 31 = 1 then true
  else
    match s.predLaunch l with
    | some p =>
      l.trigMode && (p.trigOk || s.triggered p) && !(s.ms.marks.any fun k => decide (k.pa = trigPlace p.handle) && s.markOpen k)
    | none =>
      let x := s.launchLine (handleCol l.pred) (handleLine l.pred)
      seqBefore (handleSeq l.pred) x.seq || (decide (handleSeq l.pred = x.seq) && !x.pending)

/-- A launch taken off the list. -/
def State.dropLaunch (s : State) (h : Word64) : State :=
  { s with la := { s.la with launches := s.la.launches.filter fun l => l.handle ≠ h } }

/-- A launch accepted after a change of weight states was asked for waits until it has taken effect (09 R223). -/
def State.wsHeld (s : State) (l : Launch) : Bool := s.ms.wsPend.any fun w => !w.before.contains l.handle

/-- A launch rejected when it would place its first thread, though it was accepted: it places none, and its handle has REJ = 1 from then on
(R108, R112). -/
def State.rejectLate (s : State) (l : Launch) (cause : Nat) : State :=
  let n := handleLine l.handle
  let line := s.launchLine l.col n
  let hr := handleOf l.col n (handleSeq l.handle) true
  let s1 := if line.taken = l.handle then s.putLaunchLine l.col n { line with taken := hr } else s
  (s1.dropLaunch l.handle).postCompletion l.evq l.col 1 cause hr l.tag

/-- PREDECESSOR_SATISFIED: the argument block is read and the launch is Distributing, or it is rejected (R108, R117,
R118). -/
def execPredecessorSatisfied (h : Word64) (s : State) : Host.Outcome State Fault Refusal :=
  match s.launch? h with
  | none => .next s
  | some l =>
    if l.stage ≠ .waiting ∨ l.ending ∨ l.switched ∨ s.wsHeld l ∨ !s.predHolds l ∨ s.pw.entering ≠ 0 ∨ s.pw.mstate = 2 ∨
        s.unitWaits l.col (argAddrs (l.recNat 32 8)) .read then .next s
    else
      match s.argPlaces l.col (l.recNat 32 8) with
      | (s1, none) => ret (s1.rejectLate l 2)
      | (s1, some pas) =>
        if pas.any s1.stopped && s1.stopLate (unitOp h) then ret ((s1.stopEnds (unitOp h)).rejectLate l 2)
        else
        match s1.unitRead h true 8 pas with
        | (s2, none) => ret s2
        | (s2, some xs) =>
          let args := if pas.isEmpty then List.replicate 16 0 else xs.map (BitVec.ofNat 64)
          ret (s2.modLaunch h fun l => { l with args := args, stage := .distributing, wdog := some s2.now })

/-- A launch that may send its next root thread: Distributing, with the column, core and bin it goes to. -/
def State.rootPlace (s : State) (l : Launch) : Option (Nat × Nat) :=
  if l.stage = .distributing ∧ !l.ending ∧ !l.switched ∧ l.quiescing = 0 ∧ l.nextRoot < l.total then
    ((s.affinity l l.nextRoot).2.bind s.presentColumn).bind fun col =>
      (s.chooseCore col l.handle l.entry).bind fun core =>
        if (s.openBin core l.handle l.entry).isSome || (s.freeBin core).isSome then some (col, core) else none
  else none

/-- The launch whose root thread a launch unit sends next: the highest priority, then the order of acceptance (R120). -/
def State.rootNext (s : State) (col : Nat) : Option Launch :=
  (s.la.launches.filter fun l => decide (l.col = col) && (s.rootPlace l).isSome).foldl (fun b l => match b with
    | some m => if m.prio < l.prio then some l else some m
    | none => some l) none

/-- Every root thread of a launch is in a formed gang: it is Resident (R117). -/
def State.noteResident (s : State) (h : Word64) : State :=
  s.modLaunch h fun l =>
    if l.stage = .distributed && !(s.la.bins.any fun b => decide (b.handle = h) && b.seeds.any fun x => decide (x.tid.toNat < l.total)) then
      { l with stage := .resident }
    else l

/-- No column of the module has a core left for a launch that has placed no thread: it is rejected (R112). -/
def State.rootless (s : State) (l : Launch) : Bool :=
  decide (l.stage = .distributing ∧ l.nextRoot = 0) && !l.ending && (s.presentColumn 0).isNone

/-- The byte that places a launch's next root thread is still to be read (R111). -/
def State.rootReads (s : State) (l : Launch) : Bool :=
  decide (l.stage = .distributing ∧ l.nextRoot < l.total) && !l.ending && (s.affinity l l.nextRoot).2.isNone

/-- ROOT_DISTRIBUTE: the next root thread of a launch goes to its bin; with the last the launch is Distributed and its bins
close (R117, R120, R124). Where no column has a core left before the first, the launch is rejected (R112). -/
def execRootDistribute (h : Word64) (s : State) : Host.Outcome State Fault Refusal :=
  match s.launch? h with
  | none => .next s
  | some l =>
    match s.rootPlace l with
    | none =>
      if s.rootless l then ret (s.rejectLate l 4) else if s.rootReads l then ret (s.affinity l l.nextRoot).1
      else .next s
    | some (col, core) =>
      if s.rootNext l.col ≠ some l then .next s
      else
        let x : Seed := ⟨BitVec.ofNat 32 l.nextRoot, BitVec.ofNat 32 (l.nextRoot % l.ext.1),
          BitVec.ofNat 32 (l.nextRoot / l.ext.1 % l.ext.2.1), false, none⟩
        match (s.affinity l l.nextRoot).1.toBin core h l.entry x with
        | none => .next s
        | some s1 =>
          let last := decide (l.nextRoot + 1 = l.total)
          let s2 := (s1.markPlaced h col).modLaunch h fun l =>
            { l with nextRoot := l.nextRoot + 1, stage := if last then .distributed else l.stage }
          ret (if last then (s2.flushBins h).noteTriggers else s2)

/-! ### Bins and gangs (R123-R128) -/

/-- BIN_TIMEOUT: a bin's timer has run out (R124, R125). -/
def execBinTimeout (core bin : Nat) (s : State) : Host.Outcome State Fault Refusal :=
  match s.la.bins.find? fun b => decide (b.core = core ∧ b.num = bin) && !b.closed with
  | some b => if b.since + b.tmo ≤ s.coreClk core then .next (s.closeBin b) else .next s
  | none => .next s

/-- The launch of a bin may form gangs: it is neither ending nor switched out nor being quiesced (17 R380), and its column is
not quiesced (20 R419). -/
def State.formable (s : State) (b : Bin) : Bool :=
  b.closed && decide (SMap.get 0 s.pw.quiesce (b.core / 4) = 0) && match s.launch? b.handle with
    | some l => !l.ending && !l.switched && decide (l.quiescing = 0)
    | none => false

/-- A bin comes before another: the higher priority, then the first closed (R124). -/
def State.binBefore (s : State) (a b : Bin) : Bool :=
  decide (s.launchPrio b.handle < s.launchPrio a.handle) ||
  (decide (s.launchPrio a.handle = s.launchPrio b.handle) && decide (a.order < b.order))

/-- The closed bins of a core that may form gangs; none that an evicted gang of the same or a higher priority waits before (R124; 17
R378). -/
def State.binsClosed (s : State) (core : Nat) : List Bin :=
  s.la.bins.filter fun b => decide (b.core = core) && s.formable b &&
    !(s.la.saved.any fun g => decide (gidCore g.gid = core) && s.restorable g && decide (s.launchPrio b.handle ≤ s.launchPrio g.handle))

/-- The gang of a bin: its threads at the entry header, k registers from the argument block, registers 0 and full (02
R51, R61; R108, R120, R124, R132; 17 R366). -/
def gangOf (b : Bin) (l : Launch) (gid part slot base clk : Nat) : Ctx :=
  { Ctx.none with
    live := true
    run := .running
    gid := BitVec.ofNat 32 gid
    handle := b.handle
    core := b.core
    part := part
    slot := slot
    regBase := base
    regCode := l.regs
    age := 2 * clk
    prio := l.prio
    lanes := (b.seeds.mapIdx fun i x => (i, { Lane.none with
      act := true, hdr := b.hdr, fresh := true, tid := x.tid, cx := x.cx, cy := x.cy, team := 0xFFFFFFFF, trig := x.trig }))
    k := (l.args.mapIdx fun i v => (i, v)).filter fun p => p.2 ≠ 0 }

/-- The identity of the next gang of a core (17 R366). -/
def State.nextGid (s : State) (core part slot : Nat) : Nat :=
  core * 2 ^ 24 + part * 2 ^ 21 + slot * 2 ^ 18 + SMap.get 0 s.la.formed core % 2 ^ 18

/-- What the parents of a bin's threads had made is applied, where its core does not see it otherwise (R132; 13 R305). -/
def State.seedsReady (s : State) (b : Bin) : Bool :=
  b.seeds.all fun x => match x.after with
    | some (cache, upto) => decide (cache = 5 * (b.core / 4) + b.core % 4) || !s.markOpen ⟨0, 1, cache, upto, .core, false⟩
    | none => true

/-- A gang slot, a register block and the arenas for a bin on a partition (R124). -/
def State.formGang (s : State) (b : Bin) (l : Launch) (part : Nat) : Option State :=
  if !s.seedsReady b then none
  else match s.freeSlot b.core part, s.grantBlock b.core part (blockRegs l.regs) none with
  | some slot, some (s1, base) =>
    (s1.grantArenas l (b.core / 4)).map fun s2 =>
      let gid := s2.nextGid b.core part slot
      let la := { s2.la with
        bins := s2.la.bins.filter fun c => !decide (c.core = b.core ∧ c.num = b.num)
        formed := SMap.set 0 s2.la.formed b.core ((SMap.get 0 s2.la.formed b.core + 1) % 2 ^ 18) }
      let s3 := ({ s2 with la := la } : State).setCtx (.gang gid) (gangOf b l gid part slot base (s2.coreClk b.core))
      (((s3.acquire (.gang gid) .module).arrive (.gang gid) (List.range b.seeds.length) b.hdr).settle (.gang gid)).noteResident b.handle
  | _, _ => none

/-- A bin can be granted all it needs on some partition (R124). -/
def State.canForm (s : State) (b : Bin) : Bool :=
  match s.launch? b.handle with
  | some l => (List.range 8).any fun p => (s.formGang b l p).isSome
  | none => false

/-- The closed bin of a core that forms next: the first of those that can be granted what they need; where none can, the first of all, for
which room is sought (R124; 17 R377). -/
def State.binNext (s : State) (core : Nat) : Option Bin :=
  let bs := s.binsClosed core
  bestBy s.binBefore (bs.filter s.canForm) <|> bestBy s.binBefore bs

/-- GANG_FORM: a closed bin becomes a gang on a partition that can grant it (R124); where none can, room is sought, unless it
is an arena that is missing (17 R376, R377). -/
def execGangForm (core bin part : Nat) (s : State) : Host.Outcome State Fault Refusal :=
  match s.binNext core with
  | some b =>
    if b.num ≠ bin ∨ 8 ≤ part then .next s
    else
      match s.launch? b.handle with
      | none => .next s
      | some l =>
        match s.formGang b l part with
        | some s1 => ret s1
        | none =>
          let size := blockRegs l.regs
          if s.canForm b || !s.seedsReady b || (s.grantArenas l (core / 4)).isNone || (List.range 8).any fun p => s.roomWithout core p size [] then .next s
          else .next (s.seekRoom core size l.prio)
  | none => .next s

/-- A thread read back from a spill entry (R126). -/
def State.readSpill (s : State) (l : Launch) (e : Spill) : Option (Word64 × Seed × Nat) :=
  match (s.spillAddr l e.col (2 * e.entry) .read).2, (s.spillAddr l e.col (2 * e.entry + 1) .read).2 with
  | some pa, some pb =>
    some (BitVec.ofNat 64 (s.hwNat pa 8),
      ⟨BitVec.ofNat 32 (s.hwNat pb 4), BitVec.ofNat 32 (s.hwNat (pa + 8) 4), BitVec.ofNat 32 (s.hwNat (pa + 12) 4), false, e.after⟩,
      s.hwNat (pb + 4) 4 / 2 % 64)
  | _, _ => none

/-- SPILL_RETURN: a spilled thread is placed as though it had just arrived in its column, once a bin can take it; its entry
is free again (R126). An entry whose address no longer translates stays where it is (DESIGN CHOICE, log 36). -/
def execSpillReturn (h : Word64) (entry : Nat) (s : State) : Host.Outcome State Fault Refusal :=
  match s.launch? h, s.la.spills.find? fun e => decide (e.handle = h ∧ e.entry = entry) with
  | some l, some e =>
    if l.switched ∨ l.quiescing ≠ 0 ∨ s.spillWaits l e.col e.entry .write then .next s
    else
      (match s.readSpill l e with
       | none => .next s
       | some (hdr, x, col) =>
         match (s.presentColumn col).bind fun c => (s.chooseCore c h hdr).map fun k => (c, k) with
         | none => .next s
         | some (c, core) =>
           match s.toBin core h hdr x with
           | none => .next s
           | some s1 =>
             let s2 : State := { s1 with la := { s1.la with spills := s1.la.spills.filter fun q => q ≠ e } }
             let s3 := s2.markPlaced h c
             match (s3.spillAddr l e.col (2 * e.entry + 1) .write).2 with
             | some pb => ret (s3.homeWrite (pb + 4) (leBytes 4 0))
             | none => ret s3)
  | _, _ => .next s

/-! ### The end of gangs and launches (R121, R131) -/

/-- Everything that still has to land in a gang's registers: results, operations that return a value, queue pops, matrix
accumulators, regx (R131). -/
def State.landing (s : State) (c : CtxId) : Bool :=
  let x := s.ctx c
  let g := x.gid.toNat
  !x.wbs.isEmpty || !x.regx.isEmpty ||
  (s.ms.ops.any fun o => decide (o.ctx = c) && (o.reg.isSome || (match o.kind with
    | .recLd _ => true
    | _ => false))) ||
  (s.en.queues.any fun q => q.2.pend.any fun p => p.gid = g) ||
  (s.mx.cmds.any fun m => decide (m.by_.ctx = c) && (match m.kind with
    | .mac _ _ _ => true
    | _ => false))

/-- Operations of a gang that have not been performed at their homes. -/
def State.unperformed (s : State) (c : CtxId) : Bool :=
  (s.ms.ops.any fun o => o.ctx = c) || s.ms.fwd.any fun f => f.ctx = c

/-- GANG_FREE: a gang whose threads have all exited and whose results have landed gives up its slot and block; with
operations unperformed it is a tomb, when its slice's table has room (R131; 17 R371). -/
def execGangFree (gid : Nat) (s : State) : Host.Outcome State Fault Refusal :=
  let c : CtxId := .gang gid
  let x := s.ctx c
  if !x.live ∨ x.living ≠ 0 ∨ s.landing c then .next s
  else if !s.unperformed c then .next ((s.dropSaved gid).setCtx c Ctx.none)
  else if (s.la.tombs.filter fun t => t.gid / 2 ^ 26 = gid / 2 ^ 26).length < 64 then
    let la := { s.la with tombs := s.la.tombs ++ [⟨gid, x.handle⟩] }
    .next ((({ s with la := la } : State).dropSaved gid).setCtx c Ctx.none)
  else .next s

/-- TOMB_FREE: every operation of a tomb has performed or failed (17 R371). -/
def execTombFree (gid : Nat) (s : State) : Host.Outcome State Fault Refusal :=
  if s.unperformed (.gang gid) then .next s
  else .next { s with la := { s.la with tombs := s.la.tombs.filter fun t => t.gid ≠ gid } }

/-- Engine commands of a launch that have not completed (R121). -/
def State.engineBusy (s : State) (h : Word64) : Bool :=
  (s.en.ae.any fun a => a.by_.handle = h) || (s.en.cp.any fun c => c.by_.handle = h) ||
  (s.mx.cmds.any fun m => m.by_.handle = h) || (s.fa.colls.any fun c => c.by_.handle = h) || (s.en.pushes.any fun p => p.handle = h) || s.cl.adds.any fun a => a.by_.handle = h

/-- A launch has threads, or what stands for them (R121). -/
def State.hasThreads (s : State) (h : Word64) : Bool :=
  (s.ctxs.any fun p => decide (64 ≤ p.1 ∧ p.2.handle = h) && p.2.live) || (s.la.bins.any fun b => b.handle = h) ||
  (s.la.spills.any fun e => e.handle = h) || (s.la.saved.any fun g => g.handle = h) || s.la.tombs.any fun t => t.handle = h

/-- The condition of retirement (R121; 17 R381). A launch with a fault record in a column's overflow store waits for it to be posted, so
that its completion record follows (19 R405; DEDUCED, log 36). -/
def State.retirable (s : State) (l : Launch) : Bool :=
  (l.ending || decide (l.stage = .distributed ∨ l.stage = .resident)) && !s.hasThreads l.handle && !s.engineBusy l.handle &&
  !(s.ms.ops.any fun o => o.handle = l.handle) && !(s.ev.ovf.any fun r => r.faultOf l.handle)

/-- A launch retires: arenas, queues and teams are given back and the completion record is posted (R121; 19 R416). -/
def State.retire (s : State) (l : Launch) : State :=
  let h := l.handle
  let la := { s.la with
    arenas := s.la.arenas.filter fun a => a.handle ≠ h
    teams := s.la.teams.filter fun t => t.handle ≠ h
    frames := s.la.frames.filter fun f => match f.use with
      | .arena k _ _ _ => decide (k ≠ h)
      | _ => true }
  let en := { s.en with
    queues := s.en.queues.filter fun q => q.2.owner ≠ some h
    bsaved := s.en.bsaved.filter fun b => b.2.handle ≠ h }
  let cl := { s.cl with pend := s.cl.pend.filter fun p => p.handle ≠ h }
  let s1 : State := { s with la := la, en := en, cl := cl }
  (s1.dropLaunch h).postCompletion l.evq l.col l.status l.cause h l.tag

/-- LAUNCH_RETIRE (R121). -/
def execLaunchRetire (h : Word64) (s : State) : Host.Outcome State Fault Refusal :=
  match s.launch? h with
  | none => .next s
  | some l => if !s.retirable l then .next s else ret (s.retire l)

/-- TEAM_RESERVE_REFILL: a core's reserve holds 32 numbers again, when the column has free ones (R129; log 12). -/
def execTeamReserveRefill (core : Nat) (s : State) : Host.Outcome State Fault Refusal :=
  if (s.teamFreeOf (core / 4)).isEmpty then .next s
  else .next { s with la := { s.la with used := SMap.set 0 s.la.used core 0 } }

/-! ### regx (R137) -/

/-- A write-back to a register at or above n is pending (R137). -/
def State.pendingAbove (s : State) (c : CtxId) (n : Nat) : Bool :=
  let x := s.ctx c
  (x.wbs.any fun w => w.res.any fun r => match r with
    | .g _ k _ => decide (n ≤ k)
    | .p _ _ _ => false) ||
  (s.ms.ops.any fun o => decide (o.ctx = c) && (match o.reg with
    | some k => decide (n < k + o.regs)
    | none => false)) ||
  x.e.any fun p => p.2 && decide (n ≤ p.1 % 256)

/-- REGX_GRANT: a gang's oldest request granted, when it can be (R137); a gang that a long fault holds makes room for it (17 R376). -/
def execRegxGrant (gid : Nat) (s : State) : Host.Outcome State Fault Refusal :=
  let c : CtxId := .gang gid
  let x := s.ctx c
  match x.regx with
  | [] => .next s
  | q :: _ =>
    let old := x.regCode
    if q.code = old then .next (s.answerRegx c q old)
    else if q.code < old then
      if s.pendingAbove c (blockRegs q.code) then .next s
      else .next ((s.answerRegx c q old).modCtx c fun x => x.resize q.code x.regBase)
    else
      match s.grantBlock x.core x.part (blockRegs q.code) (some (64 + gid)) with
      | some (s1, base) => .next ((s1.modCtx c fun x => x.resize q.code base).answerRegx c q old)
      | none => .next ((s.saveLongFault x.core (some gid)).getD s)

/-! ### Selection on a core (06) -/

/-- The entry of a gang whose 64 issue opportunities have passed, the top first; not one at an RB header (06 R148, R150). -/
def State.rcvDue (s : State) (gid : Nat) : Option Rcv :=
  let x := s.ctx (.gang gid)
  x.rcv.find? fun r => (r.due.any fun d => decide (d ≤ s.clk (.gang gid))) && !x.atRb r

/-- RECONVERGENCE_TIMEOUT: 64 issue opportunities have passed since an entry's first thread was held; its threads are released
(06 R148). -/
def execReconvergenceTimeout (gid : Nat) (s : State) : Host.Outcome State Fault Refusal :=
  match s.rcvDue gid with
  | none => .next s
  | some r => .next ((s.modCtx (.gang gid) fun x => x.popRcv fun q => decide (q = r)).settle (.gang gid))

/-- STARVATION: a gang has been ready without issuing for 4,096 clocks, the present one among them once its partition has had its turn
(06 R154). -/
def execStarvation (gid : Nat) (s : State) : Host.Outcome State Fault Refusal :=
  let c : CtxId := .gang gid
  match (s.ctx c).readySince with
  | some t =>
    if t + 4096 ≤ s.clk c + bit (decide (s.seat c < s.turn)) then .next (s.modCtx c fun x => { x with starved := true }) else .next s
  | none => .next s

/-- The team of a gang: that of its lowest active lane (06 R153). -/
def Ctx.teamOf (c : Ctx) : Option Nat :=
  (lowestLane c.living).bind fun l => if (c.lane l).team = 0xFFFFFFFF then .none else some (c.lane l).team.toNat

/-- The teams of a core's gangs. -/
def State.teamsOn (s : State) (core : Nat) : List Nat := ((s.gangsOn core).filterMap fun p => p.2.teamOf).eraseDups

/-- The laggard of a tracked team: the gang with the lowest count, ties to the lower slot, where two or more are resident
(06 R153); slots of the same number on two partitions go by the lower partition (DESIGN CHOICE, log 36). -/
def State.laggard (s : State) (core team : Nat) : Option Nat :=
  let gs := (s.gangsOn core).filter fun p => p.2.teamOf = some team
  if gs.length < 2 then none
  else (bestBy (fun (a b : Nat × Ctx) => decide (a.2.issued < b.2.issued) ||
      (decide (a.2.issued = b.2.issued) && decide (8 * a.2.slot + a.2.part < 8 * b.2.slot + b.2.part))) gs).map Prod.fst

/-- A core's window begins, with the teams it tracks (06 R153). -/
def State.beginWindow (s : State) (core : Nat) (tracked : List Nat) (at_ : Nat) : State :=
  { s with la := { s.la with tracked := SMap.set [] s.la.tracked core tracked, windows := SMap.set 0 s.la.windows core at_ } }

/-- A core's window ends: each tracked team's laggard is marked and the counts start again (06 R153). -/
def State.endWindow (s : State) (core : Nat) : State :=
  let teams := s.teamsOn core
  let old := (SMap.get [] s.la.tracked core).filter fun t => teams.contains t
  let tracked := (old ++ teams.filter fun t => !old.contains t).take 64
  let marked := tracked.filterMap fun t => s.laggard core t
  (s.gangsOn core).foldl (fun s p => s.modCtx (ctxOfKey p.1) fun x =>
    { x with issued := 0, urgent := marked.contains p.1 }) (s.beginWindow core tracked (s.coreClk core + 1))

/-- URGENCY_WINDOW_END: 1,024 clocks of a core have passed (06 R153). A core's windows run while it has gangs: the first begins
here, and with the last gang they end (log 1). -/
def execUrgencyWindowEnd (core : Nat) (s : State) : Host.Outcome State Fault Refusal :=
  let start := SMap.get 0 s.la.windows core
  if (s.gangsOn core).isEmpty then .next (s.beginWindow core [] 0)
  else if start = 0 then .next (s.beginWindow core [] (s.coreClk core + 1))
  else if s.coreClk core + 1 < start + 1024 then .next s
  else .next (s.endWindow core)

/-- FORCED_PUBLISH_ACK: a cache has nothing outstanding up to a position; the marks that named it go, and launches that
waited for it go on (13 R306). -/
def execForcedPublishAck (cache upto : Nat) (s : State) : Host.Outcome State Fault Refusal :=
  let left := s.ms.marks.filter fun k => s.markOpen k || !decide (k.cache = cache ∧ k.upto ≤ upto)
  ret ({ s with ms := { s.ms with marks := left } } : State).resumeLaunches

end Sys2Proof.Machine
end

