-- ==== Sys2Proof/Machine/Switch.lean ====
section
/-! DEFINITION. Page moves, launch priorities, whole-launch switches, the end of launches, and watchdogs (09 R218-R221; 05
R122; 17 R376, R379-R383; 14 R326). -/

namespace Sys2Proof.Machine

/-! ### Page moves (09 R219, R220) -/

/-- The page tables at a depth below the root (09 R209). -/
def State.tablesAt (s : State) : Nat → List Nat
  | 0 => [field (s.sysGet SysReg.ptroot 0) 47 13 * 2 ^ 13]
  | d + 1 => (s.tablesAt d).flatMap fun t => (List.range 1024).filterMap fun i =>
      let e : Word64 := BitVec.ofNat 64 (s.homeNat (t + 8 * i) 8)
      if e.getLsbD 0 && decide (field e 3 1 = 0) && pointerOk e then some (field e 47 13 * 2 ^ 13) else none

/-- The leaf of a frame that hardware may move: the reverse map names it, it is a 64 KiB leaf, no move of it is under way, and no drift
region holds the frame (09 R218, R219; 15 R327). -/
def State.movableLeaf (s : State) (page : Nat) : Option Nat :=
  let a := s.revMap page
  let e : Word64 := BitVec.ofNat 64 (s.homeNat a 8)
  if a ≠ 0 ∧ (s.tablesAt 3).contains (a / 8192 * 8192) ∧ e.getLsbD 0 ∧ field e 12 11 ≠ 2 ∧ !s.moving page ∧ !s.driftPage page then
    some a
  else none

/-- Entries of a leaf leave every TLB. -/
def State.dropLeaf (s : State) (leafPa : Nat) : State :=
  { s with ms := { s.ms with tlb := s.ms.tlb.filter fun t => t.leafPa ≠ leafPa } }

/-- A move started: the leaf's MIG set to 2, and the leaf invalidated in every TLB (R220 steps 1, 2). -/
def State.startMove (s : State) (old new leafPa : Nat) (promote : Bool) : State :=
  let e : Word64 := BitVec.ofNat 64 (s.homeNat leafPa 8)
  let s1 := (s.homeWrite leafPa (leBytes 8 (setField e 12 11 2).toNat)).dropLeaf leafPa
  { s1 with ms := { s1.ms with moves := s1.ms.moves ++ [s.newMove old new leafPa promote] } }

/-- The pages of the capacity tier whose entries of the reverse map are listed in memory. -/
def State.mappedPages (s : State) : List Nat :=
  let base := field (s.sysGet SysReg.rmap 0) 47 16 * 2 ^ 16
  (((SMap.keys s.mem ++ s.wlog.map Prod.fst ++ (s.ms.l1.flatMap fun l => l.dirty.map Prod.fst)).filter fun a =>
    decide (base ≤ a ∧ a < base + 2 ^ 33)).map fun a => 2 ^ 30 + (a - base) / 8).eraseDups

/-- The pages a slice homes whose counts have a value to act on, and, where a count of 0 is hot, those the reverse map names (R219). -/
def State.countedPages (s : State) (col : Nat) : List Nat :=
  let all := if field (s.sysGet SysReg.migctl 0) 31 24 = 0 then s.mappedPages else []
  ((SMap.keys s.ms.counts ++ all).eraseDups).filter fun p => homeOf (p * 2 ^ 16) = col

/-- The end of a slice's epoch: hot pages are promoted, cold ones demoted, and the counters halved (R219). -/
def State.endEpoch (s : State) (col : Nat) : State :=
  let r := s.sysGet SysReg.migctl 0
  let count (s : State) (page : Nat) : Nat := SMap.get 0 s.ms.counts page
  let hot := (s.countedPages col).filter fun p => decide (p / 2 ^ 30 = 1) && decide (field r 31 24 ≤ count s p) &&
    !(s.ms.promos.any fun q => q.cap = p * 2 ^ 16)
  let s1 := hot.foldl (fun s p =>
    match s.movableLeaf (p * 2 ^ 16), s.freePool with
    | some a, some f => s.startMove (p * 2 ^ 16) f a true
    | _, _ => s) s
  let cold := s1.ms.promos.filter fun q => decide (homeOf q.pool = col) && decide (count s1 (q.pool / 2 ^ 16) < field r 39 32)
  let s2 := cold.foldl (fun s q =>
    if s.moving q.pool ∨ s.driftPage q.pool then s
    else
      match s.movableLeaf q.cap with
      | some a => s.startMove q.pool q.cap a false
      | none => s) s1
  let counts := (s2.countedPages col).foldl (fun m p => SMap.set 0 m p (SMap.get 0 m p / 2)) s2.ms.counts
  { s2 with ms := { s2.ms with counts := counts, epochs := SMap.set 0 s2.ms.epochs col s2.ns } }

/-- MIGRATION_EPOCH (R219). -/
def execMigrationEpoch (col : Nat) (s : State) : Host.Outcome State Fault Refusal :=
  let r := s.sysGet SysReg.migctl 0
  if 64 ≤ col ∨ !r.getLsbD 63 ∨ s.ns < SMap.get 0 s.ms.epochs col + 1000 * max 1 (field r 23 0) then .next s
  else ret (s.endEpoch col)

/-- An address of a page that moves, in its new frame. -/
def Move.map (m : Move) (a : Nat) : Nat := if m.old ≤ a ∧ a < m.old + 2 ^ 16 then m.new + (a - m.old) else a

/-- The addresses of a wait follow a moved page. -/
def Wait.moved (m : Move) : Wait → Wait
  | .clasp pa ph d r sc seen p => .clasp (m.map pa) ph d r sc seen p
  | w => w

/-- Accesses, accepted writes, marks and waits that reach the old frame reach the new one (R220). -/
def State.redirect (s : State) (m : Move) : State :=
  let op (o : MOp) : MOp := { o with accs := o.accs.map fun a => { a with pa := m.map a.pa } }
  let s1 : State := { s with
    ms := { s.ms with
      ops := s.ms.ops.map op
      fwd := s.ms.fwd.map fun f => { f with bytes := f.bytes.map fun p => (m.map p.1, p.2) }
      marks := s.ms.marks.map fun k => { k with pa := m.map k.pa } }
    cl := { s.cl with waiters := s.cl.waiters.map fun w => { w with pa := m.map w.pa } } }
  (SMap.keys s1.ctxs).foldl (fun s k => s.modCtx (ctxOfKey k) fun x =>
    x.modLanes (SMap.keys x.lanes) fun _ y => { y with wait := y.wait.moved m }) s1

/-- A page's bytes copied to its new frame: its owners' words come home, and no cache keeps a line of either frame (R220
step 3). -/
def State.copyPage (s : State) (m : Move) : State :=
  let touched (a : Nat) : Bool := decide (m.old ≤ a ∧ a < m.old + 2 ^ 16) || decide (m.new ≤ a ∧ a < m.new + 2 ^ 16)
  let own := s.ms.l1.filter fun l => decide (m.old ≤ l.line * 128 ∧ l.line * 128 < m.old + 2 ^ 16)
  let s1 := own.foldl (fun s l => s.flushBytes l.dirty) s
  let s2 : State := { s1 with ms := { s1.ms with l1 := s1.ms.l1.filter fun l => !touched (l.line * 128) } }
  let s3 := s2.clearRange m.new (2 ^ 16)
  let ks := ((SMap.keys s3.mem) ++ s3.wlog.map Prod.fst).filter fun a => decide (m.old ≤ a ∧ a < m.old + 2 ^ 16)
  ks.foldl (fun s a => s.writeBytes (m.map a) [s.byte a]) s3

/-- The end of a page's move: its bytes are copied, its leaf names the new frame, the waits for the page end, and an event says so
(R220; 17 R376). The moved page's counter is cleared, and its new frame counts from 0 (DESIGN CHOICE, log 39: R219 does not speak of the
counters at a move). -/
def State.finishMove (s : State) (m : Move) : State :=
  let s1 := (s.copyPage m).redirect m
  let e : Word64 := BitVec.ofNat 64 (s1.homeNat m.leafPa 8)
  let e1 := setField (setField (setField (setField e 47 16 (m.new / 2 ^ 16)) 10 8 (m.new / 2 ^ 46)) 61 58 ((field e 61 58 + 1) % 16)) 12 11 0
  let s2 := (s1.storeHome m.leafPa (leBytes 8 e1.toNat)).dropLeaf m.leafPa
  let promos := if m.promote then s2.ms.promos ++ [⟨m.new, m.old⟩] else s2.ms.promos.filter fun q => q.pool ≠ m.old
  let s3 : State := { s2 with ms := { s2.ms with
    moves := s2.ms.moves.filter fun q => q ≠ m
    promos := promos
    counts := SMap.set 0 s2.ms.counts (m.old / 2 ^ 16) 0 } }
  let col := homeOf m.old
  (s3.endPages fun p => decide (p = m.old)).postEvent col col 0x81 0 0 0 (BitVec.ofNat 64 m.new) (BitVec.ofNat 64 m.leafPa)

/-- The migration logic reads or writes a frame's lines in a resource that its home drains, or that is taken: a frame has lines in every
pseudo-channel quarter (18 R391, R393). -/
def State.frameHeld (s : State) (base : Nat) : Bool :=
  (List.range 4).any fun i => s.draining (5 * homeOf base + 4) (base + 128 * i) || s.taken (base + 128 * i)

/-- MIGRATION_DONE (R220). The move waits where a slot or a drain window holds its frames, and for the leases of its page and of its leaf
(R230; 18 R393). -/
def execMigrationDone (pa : Nat) (s : State) : Host.Outcome State Fault Refusal :=
  match s.ms.moves.find? fun m => decide (m.old = pa / 2 ^ 16 * 2 ^ 16) with
  | none => .next s
  | some m =>
    if s.frameHeld m.old || s.frameHeld m.new || s.rangeLeased m.old (2 ^ 16) || s.leased m.leafPa 8 then .next s
    else if !okRange m.new (2 ^ 16) then ret { s with stuck := some .absentMemory }
    else ret (s.finishMove m)

/-! ### sys.lprio (05 R122) -/

/-- The handle a value of sys.lprio or sys.lswitch names. -/
def namedHandle (v : Word64) : Word64 := handleOf (field v 9 4) (field v 3 0) (field v 63 32) false

/-- A write of sys.lprio (05 R122). One that names no live launch changes no field but ERR, and ERR stays until 1 is written to it (DESIGN
CHOICE, log 36). -/
def State.lprioWrite (s : State) (v : Word64) : State :=
  let old := s.sysGet SysReg.lprio 0
  match s.launch? (namedHandle v) with
  | none => s.sysPut SysReg.lprio 0 (old ||| 0x80000000)
  | some _ =>
    let s1 := s.sysPut SysReg.lprio 0 (maskWrite old v 0xFFFFFFFF00001FFF 0x80000000)
    s1.modLaunch (namedHandle v) fun l => { l with prio := field v 12 10 }

/-- LPRIO_WRITE (05 R122). -/
def execLprioWrite (v : Word64) (s : State) : Host.Outcome State Fault Refusal := .next (s.lprioWrite v)

/-! ### Switching a launch out (R379, R380) -/

/-- The resident gangs of a launch. -/
def State.residents (s : State) (h : Word64) : List Nat :=
  (s.ctxs.filter fun p => decide (64 ≤ p.1 ∧ p.2.handle = h) && p.2.live).map fun p => p.1 - 64

/-- The frames an arena block takes. -/
def arenaFrames (a : Arena) : Nat := (a.block + 2 ^ 17 - 1) / 2 ^ 17

/-- The frames of a column that a switch out of a launch needs: its resident gangs, and its arenas (R379). -/
def State.framesNeeded (s : State) (h : Word64) (col : Nat) : Nat :=
  ((s.residents h).filter fun g => g / 2 ^ 26 = col).length +
  ((s.la.arenas.filter fun a => decide (a.handle = h ∧ a.core / 4 = col)).map arenaFrames).sum

/-- Every column's pool has the frames a switch out of a launch needs (R379). -/
def State.framesEnough (s : State) (h : Word64) : Bool :=
  (List.range 64).all fun c => decide (s.framesNeeded h c = 0) || decide (s.framesNeeded h c ≤ (s.freeFrames c).length)

/-- A switch out begins: bins close, commands are held, and the quiesce markers enter the queues (R380 steps 1, 2). -/
def State.startOut (s : State) (h : Word64) : State :=
  match s.launch? h with
  | some l =>
    if l.quiescing ≠ 0 ∨ l.switched then s
    else ((s.modLaunch h fun l => { l with quiescing := 1 }).flushBins h).injectMarkers h
  | none => s

/-- The markers of a launch with no command ahead of them in their queues return (R380 step 2). -/
def State.popMarkers (s : State) (h : Word64) : State :=
  let mx := s.mx.cmds.foldl (fun (r : List MCmd) m =>
    if m.kind = .marker ∧ m.by_.handle = h ∧ !(r.any fun q => q.core = m.core) then r else r ++ [m]) []
  let cp := s.en.cp.foldl (fun (r : List CpCmd) c =>
    if c.marker ∧ c.by_.handle = h ∧ !(r.any fun q => q.col = c.col) then r else r ++ [c]) []
  { s with mx := { s.mx with cmds := mx }, en := { s.en with cp := cp } }

/-- A marker of a launch is still out: in a queue, or waiting for a collective or an access engine (R380). -/
def State.markersOut (s : State) (h : Word64) : Bool :=
  (s.mx.cmds.any fun m => m.by_.handle = h) || (s.en.cp.any fun c => c.by_.handle = h) ||
  (s.fa.colls.any fun c => c.by_.handle = h) || s.en.ae.any fun a => a.by_.handle = h

/-- Bytes copied from one range to another: only those listed differ from zero. -/
def State.copyBytes (s : State) (src dst n : Nat) : State :=
  let s1 := s.clearRange dst n
  let ks := ((SMap.keys s1.mem) ++ s1.wlog.map Prod.fst).filter fun a => decide (src ≤ a ∧ a < src + n)
  ks.foldl (fun s a => s.writeBytes (dst + (a - src)) [s.byte a]) s1

/-- The lowest free frames of a column's pool that are consecutive (R372, R380). -/
def State.frameRun (s : State) (col n : Nat) : Option (List Nat) :=
  let free := s.freeFrames col
  (free.find? fun k => (List.range n).all fun i => free.contains (k + i)).map fun k => (List.range n).map (k + ·)

/-- The state of the queues that a launch owns on a core goes into its arena's frames, behind the arena's bytes: where and how is not
given, so these bytes are free (R380; log 22). -/
def State.saveQueueBytes (s : State) (a : Arena) (base room : Nat) : State :=
  let mine := s.en.queues.filter fun q => q.2.owner = some a.handle ∧ q.1 / 16 = a.core
  let n := min room (64 * mine.length)
  if n = 0 then s
  else
    let bs := Config.freeBytes s.freeCtr n
    { s.writeBytes base ((List.range n).map fun i => bs.getD i 0) with freeCtr := s.freeCtr + 1 }

/-- One arena saved into the lowest consecutive free frames of its column's pool (R372, R380 step 4; log 22); nothing while there are none or
a frame cannot be written yet. -/
def State.saveArena (s : State) (a : Arena) : Option State :=
  let col := a.core / 4
  (s.frameRun col (arenaFrames a)).bind fun fs =>
    if fs.any fun n => s.rangeLeased (s.frameBase col n) (2 ^ 17) then none
    else
      let s1 := (fs.mapIdx fun i n => (i, n)).foldl (fun s p =>
        let base := s.frameBase col p.2
        let n := min (2 ^ 17) (a.block - p.1 * 2 ^ 17)
        if !okRange base (2 ^ 17) then { s with stuck := some .absentMemory }
        else
          ((s.clearRange base (2 ^ 17)).copyBytes (scratch a.core (a.base + p.1 * 2 ^ 17)) base n).saveQueueBytes a (base + n) (2 ^ 17 - n)) s
      let use := fs.mapIdx fun i n => (⟨col, n, .arena a.handle a.core i a.base⟩ : Frame)
      some { s1 with la := { s1.la with
        frames := s1.la.frames ++ use
        arenas := s1.la.arenas.filter fun b => b ≠ a } }

/-- A launch's queues leave their cores with its arenas, and its armed boxes with them (R380 step 4; 11 R270). -/
def State.saveQueues (s : State) (h : Word64) : State :=
  let mine := s.en.queues.filter fun q => q.2.owner = some h
  let armed := s.en.boxes.filterMap fun b => b.2.bind fun x => if x.handle = h then some (b.1, x) else none
  { s with en := { s.en with
    queues := s.en.queues.filter fun q => q.2.owner ≠ some h
    qsaved := s.en.qsaved ++ mine
    boxes := s.en.boxes.filter fun b => !(b.2.any fun x => decide (x.handle = h))
    bsaved := s.en.bsaved ++ armed } }

/-- Operations of a launch that are still to reach its arenas, but for arrivals and expectations (14 R326). -/
def State.arenasBusy (s : State) (h : Word64) : Bool :=
  s.ms.ops.any fun o => decide (o.handle = h ∧ o.kind ≠ .claspArrive ∧ o.kind ≠ .claspExpect) &&
    o.accs.any fun a => decide (2 ^ 48 ≤ a.pa ∧ a.pa < 2 ^ 50)

/-- The switch out is complete once no gang of the launch is resident and its arenas are saved (R380, R382). -/
def State.finishOut (s : State) (h : Word64) : State :=
  if (s.residents h).isEmpty && !s.arenasBusy h then
    match (s.la.arenas.filter fun a => a.handle = h).foldl (fun (r : Option State) a => r.bind fun s => s.saveArena a) (some s) with
    | some s1 => (s1.saveQueues h).modLaunch h fun l => { l with switched := true, quiescing := 0, wdog := none }
    | none => s
  else s

/-! ### Ending a launch (R381) -/

/-- Every thread of a launch that is resident, in a bin, a spill entry or a sealed frame ends, and the launch's frames are
freed; a gang being saved ends once its frame is sealed (R381 steps 2, 3). -/
def State.endAll (s : State) (h : Word64) : State :=
  let live := (s.residents h).filter fun g => !(s.ctx (.gang g)).saving
  let s1 := live.foldl (fun s g =>
    let c : CtxId := .gang g
    let s0 := s.endThreads c (s.ctx c).living
    s0.modCtx c fun x => { x with regx := [], wbs := [] }) s
  let gone := (s1.la.saved.filter fun g => decide (g.handle = h) && g.sealed).map fun g => g.gid
  let s2 := gone.foldl State.dropSaved s1
  let keep (f : Frame) : Bool := match f.use with
    | .arena k _ _ _ => decide (k ≠ h)
    | _ => true
  let la := { s2.la with
    bins := s2.la.bins.filter fun b => b.handle ≠ h
    spills := s2.la.spills.filter fun e => e.handle ≠ h
    frames := s2.la.frames.filter keep }
  let en := { s2.en with
    queues := (s2.en.queues.map fun q => if q.2.owner = some h then (q.1, { q.2 with pend := [] }) else q)
    qsaved := s2.en.qsaved.filter fun q => q.2.owner ≠ some h
    bsaved := s2.en.bsaved.filter fun b => b.2.handle ≠ h
    pushes := s2.en.pushes.filter fun p => p.handle ≠ h }
  ({ s2 with la := la, en := en, cl := { s2.cl with pend := s2.cl.pend.filter fun p => p.handle ≠ h } } : State).dropWaiters

/-! ### Switching a launch in (R380; 14 R326) -/

/-- Operations that wait for a saved arena reach it where it lies now (14 R326). -/
def State.moveClasps (s : State) (h : Word64) (core old new : Nat) : State :=
  let place (pa : Nat) : Nat := if scratch core 0 ≤ pa ∧ pa < scratch core (2 ^ 21) then pa - old + new else pa
  { s with ms := { s.ms with ops := s.ms.ops.map fun o =>
    if o.handle = h then { o with accs := o.accs.map fun a => { a with pa := place a.pa } } else o } }

/-- The frames of a saved arena, each with its place in it. -/
def State.framesOf (s : State) (h : Word64) (core : Nat) : List (Nat × Nat) :=
  s.la.frames.filterMap fun f => match f.use with
    | .arena k c i _ => if k = h ∧ c = core then some (i, s.frameBase f.col f.num) else none
    | _ => none

/-- One arena of a launch restored on its core, where the core can grant its block and its frames can be read (R372, R380). -/
def State.restoreArena (s : State) (h : Word64) (size core : Nat) : Option State :=
  if (s.framesOf h core).any fun p => s.rangeMarked p.2 (2 ^ 17) then none else
  (s.arenaFit core size).map fun b =>
    let a : Arena := ⟨h, core, b, size, arenaGranules size * 4096⟩
    let fs := s.framesOf h core
    let s1 := (s.clearRange (scratch core b) a.block)
    let s2 := fs.foldl (fun s p => s.copyBytes p.2 (scratch core (b + p.1 * 2 ^ 17)) (min (2 ^ 17) (a.block - p.1 * 2 ^ 17))) s1
    let keep (f : Frame) : Bool := match f.use with
      | .arena k c _ _ => !decide (k = h ∧ c = core)
      | _ => true
    let s3 := s2.moveClasps h core (((s.arenaHome h core).map Prod.snd).getD b) b
    { s3 with la := { s3.la with arenas := s3.la.arenas ++ [a], frames := s3.la.frames.filter keep } }

/-- The cores a launch has saved arenas of. -/
def State.savedArenas (s : State) (h : Word64) : List Nat :=
  s.la.frames.filterMap fun f => match f.use with
    | .arena k c 0 _ => if k = h then some c else none
    | _ => none

/-- A launch's queues and armed boxes back on their cores, where their numbers are Free (R380; 11 R270). -/
def State.restoreQueues (s : State) (h : Word64) : Option State :=
  let qs := s.en.qsaved.filter fun q => q.2.owner = some h
  let bs := s.en.bsaved.filter fun b => b.2.handle = h
  if (qs.any fun q => (SMap.get Queue.free s.en.queues q.1).owner.isSome) || bs.any fun b => (SMap.get none s.en.boxes b.1).isSome then none
  else some { s with en := { s.en with
    queues := qs.foldl (fun m q => SMap.set Queue.free m q.1 q.2) s.en.queues
    qsaved := s.en.qsaved.filter fun q => q.2.owner ≠ some h
    boxes := bs.foldl (fun m b => SMap.set none m b.1 (some b.2)) s.en.boxes
    bsaved := s.en.bsaved.filter fun b => b.2.handle ≠ h } }

/-- One pending arrival applied to its clasp; one that would break R317 is discarded and a record says so, or traps the thread that waits
for it (14 R317, R326). -/
def State.applyPend (s : State) (p : PendArr) (pa : Nat) : State :=
  let put (r : Option (Clasp × Bool)) : State := match r with
    | some r => s.putClasp pa r
    | none => s.launchFault p.handle trapClasp (s.launchQueue p.handle p.by_.col) p.by_.col
        { FaultRec.base trapClasp p.handle (1#64 <<< p.by_.lane) p.by_.hdr p.by_.idx p.by_.gid with imp := true, slot := p.slot }
  match p.kind, p.op.bind fun k => s.op? k.1 with
  | .bytes, _ => s.addBytesAt ⟨s.opId, .scratch p.handle p.core p.off p.slot, p.n, p.by_⟩ pa
  | _, some o => s.claspGroup o (o.good.filter fun a => a.lane = p.by_.lane)
  | .arrive, none => put (s.clasp pa).arrive
  | .expect, none => put ((s.clasp pa).expect p.n)

/-- The pending arrivals of a launch applied to its arenas, in the order of their entry (14 R326). -/
def State.applyPending (s : State) (h : Word64) : State :=
  let mine := s.cl.pend.filter fun p => p.handle = h
  let s1 : State := { s with cl := { s.cl with pend := s.cl.pend.filter fun p => p.handle ≠ h } }
  mine.foldl (fun s p => match s.arena h p.core with
    | some (b, _) => s.applyPend p (scratch p.core (b + p.off))
    | none => s) s1

/-- The arenas, queues and pending arrivals of a launch being switched in, all together once its cores can take them
(R380). -/
def State.enterArenas (s : State) (h : Word64) : State :=
  let cores := s.savedArenas h
  if cores.isEmpty then
    (match s.restoreQueues h with
     | some s1 => s1
     | none => s)
  else
    let size := match s.launch? h with
      | some l => l.arenaSize
      | none => 0
    match ((cores.foldl (fun (r : Option State) c => r.bind fun s => s.restoreArena h size c) (some s)).bind fun s => s.restoreQueues h) with
    | some s1 => s1.applyPending h
    | none => s

/-- A launch being switched in is whole again: its arenas and queues are restored, and every gang saved by the switch out. -/
def State.inDone (s : State) (h : Word64) : Bool :=
  (s.savedArenas h).isEmpty && !(s.en.qsaved.any fun q => q.2.owner = some h) && !(s.en.bsaved.any fun b => b.2.handle = h) &&
  !(s.la.saved.any fun g => decide (g.handle = h) && g.state.testBit 4)

/-- A launch that has been switched in goes on; its watchdog starts from zero (R380, R382). -/
def State.finishIn (s : State) (h : Word64) : State :=
  let s1 := s.modLaunch h fun l => { l with switched := false, hung := false, wdog := some s.now }
  { s1 with la := { s1.la with ins := s1.la.ins.filter fun k => k ≠ h } }

/-! ### The switch of a launch, step by step -/

/-- A resident gang is saved by its launch's switch out; one that is being saved already gets the STATE bits too (R380 step 3). -/
def State.saveOut (s : State) (gid bits : Nat) : State :=
  if (s.ctx (.gang gid)).saving then
    let mark (g : Saved) : Saved := if g.gid = gid then { g with state := g.state ||| bits } else g
    { s with la := { s.la with saved := s.la.saved.map mark } }
  else s.startSave gid bits 0

/-- The markers of a launch have all returned: its gangs are saved, or its threads end (R380 step 3, R381 step 2). -/
def State.afterMarkers (s : State) (h : Word64) : State :=
  match s.launch? h with
  | none => s
  | some l =>
    if l.ending then s.endAll h
    else ((s.residents h).foldl (fun s g => s.saveOut g (16 + 2 * bit l.hung)) s).finishOut h

/-- What the switch or the end of a launch can do now (R380, R381). -/
def State.switchStep (s : State) (h : Word64) : State :=
  match s.launch? h with
  | none => s
  | some l =>
    if l.quiescing = 1 then
      let s1 := s.popMarkers h
      if s1.markersOut h then s1
      else (s1.modLaunch h fun l => { l with quiescing := 2 }).afterMarkers h
    else if l.quiescing = 2 then s.afterMarkers h
    else if s.la.ins.contains h then
      let s1 := s.enterArenas h
      if s1.inDone h ∨ l.ending then s1.finishIn h else s1
    else s

/-- QUIESCE_MARKER_RETURN: the markers of a launch return as the commands ahead of them complete, and what waits for them
goes on (R380, R381). -/
def execQuiesceMarkerReturn (h : Word64) (s : State) : Host.Outcome State Fault Refusal := ret (s.switchStep h)

/-! ### sys.lswitch (R379) -/

/-- A write of sys.lswitch is refused (R379). -/
def State.lswitchRefused (s : State) (v : Word64) : Bool :=
  let h := namedHandle v
  s.la.switch.isSome ||
  match s.launch? h with
  | none => true
  | some l =>
    match field v 29 28 with
    | 1 => l.switched || !s.framesEnough h
    | 2 => !l.switched
    | _ => false

/-- A write of sys.lswitch by a column core (R379-R381). A write with OP 0 does no operation and is refused only as the
others are. -/
def State.lswitchWrite (s : State) (col : Nat) (v : Word64) : State :=
  let old := s.sysGet SysReg.lswitch 0
  let h := namedHandle v
  if s.lswitchRefused v then s.sysPut SysReg.lswitch 0 (old ||| 0x80000000)
  else
    let s1 := s.sysPut SysReg.lswitch 0 (maskWrite old v 0xFFFFFFFF300003FF 0x80000000)
    let op := field v 29 28
    if op = 0 then s1
    else
      let s2 : State := { s1 with la := { s1.la with switch := some ⟨op, h, col⟩ } }
      match op with
      | 1 => s2.startOut h
      | 2 => { s2 with la := { s2.la with ins := s2.la.ins ++ [h] } }
      | _ => s2.startEnd h 2 0

/-- LSWITCH_OUT: a write of sys.lswitch with OP 1 (R380). -/
def execLswitchOut (col : Nat) (v : Word64) (s : State) : Host.Outcome State Fault Refusal :=
  if col < 64 ∧ field v 29 28 = 1 then .next (s.lswitchWrite col v) else .next s

/-- LSWITCH_IN: a write of sys.lswitch with OP 2 (R380). -/
def execLswitchIn (col : Nat) (v : Word64) (s : State) : Host.Outcome State Fault Refusal :=
  if col < 64 ∧ field v 29 28 = 2 then .next (s.lswitchWrite col v) else .next s

/-- LSWITCH_END: a write of sys.lswitch with OP 3 (R381). -/
def execLswitchEnd (col : Nat) (v : Word64) (s : State) : Host.Outcome State Fault Refusal :=
  if col < 64 ∧ field v 29 28 = 3 then .next (s.lswitchWrite col v) else .next s

/-- The operation in progress is complete (R379). -/
def State.switchDone (s : State) (o : SwitchOp) : Bool :=
  match s.launch? o.handle with
  | none => true
  | some l =>
    match o.op with
    | 1 => l.switched
    | 2 => !s.la.ins.contains o.handle
    | _ => false

/-- LSWITCH_DONE_POST: the operation is complete, and the writer's event is posted (R379; 19 R408). -/
def execLswitchDonePost (s : State) : Host.Outcome State Fault Refusal :=
  match s.la.switch with
  | some o =>
    if s.switchDone o then
      ret (({ s with la := { s.la with switch := none } } : State).postEvent o.col o.col 0x87 o.op 0 0 o.handle 0)
    else .next s
  | none => .next s

/-! ### Watchdogs (R382, R383) -/

/-- A watchdog's record (R382, R383). -/
def State.postWatchdog (s : State) (l : Launch) (col code : Nat) : State :=
  s.postFault l.evq col { FaultRec.base trapWatchdog l.handle 0 0 0 0 with lnch := true, code := code }

/-- The columns on which the save of a launch is incomplete (R383). -/
def State.unsavedCols (s : State) (h : Word64) : List Nat :=
  let arenas := s.la.arenas.filterMap fun a => if a.handle = h then some (a.core / 4) else none
  let cmds := s.mx.cmds.filterMap fun m => if m.by_.handle = h then some (m.core / 4) else none
  let copies := s.en.cp.filterMap fun c => if c.by_.handle = h then some c.col else none
  ((s.residents h).map (fun g : Nat => g / 2 ^ 26) ++ arenas ++ cmds ++ copies).eraseDups

/-- The trackers of a reset L1: pending entries are discarded, the share goes back to its region, what waited for its drain goes on, and
the loss is reported (R383; 15 R340). -/
def State.loseTracker (s : State) (t : Tracker) : State :=
  let s1 := ((s.dropTracker t).takeBack t.region t.cache t.grant).settleHome t.region
  if t.pend.isEmpty then s1 else s1.machineEvent (t.cache / 5) (t.cache / 5) 1 0x02 (BitVec.ofNat 64 t.region) 0

/-- The state of one core lost (R383). -/
def State.loseCore (s : State) (core : Nat) : State :=
  let cache := 5 * (core / 4) + core % 4
  let col := core / 4
  let gids := (s.gangsOn core).map fun p => p.1
  let dirty := s.ms.l1.filter fun l => decide (l.cache = cache) && !l.dirty.isEmpty
  let s1 := dirty.foldl (fun s l => s.machineEvent col col 1 0x02 (BitVec.ofNat 64 (l.line * 128)) 0) s
  let s2 := (s1.dr.trackers.filter fun t => t.cache = cache).foldl State.loseTracker s1
  let s3 := gids.foldl (fun s k => (s.dropSaved (k - 64)).setCtx (ctxOfKey k) Ctx.none) s2
  let mine (c : CtxId) : Bool := gids.contains (ctxKey c)
  let lost := (s3.ms.ops.filter fun o => mine o.ctx).map (fun o => o.id) ++
    (s3.mx.cmds.filter fun m => m.core = core).map (fun m => m.id) ++ (List.range 16).map (streamOp core)
  let s4 := (lost.foldl State.orphanQueries s3).clearRange (scratch core 0) (2 ^ 21)
  ({ s4 with
    sys := s4.sys.filter fun p => p.1 ≠ sysKey SysReg.ashape core
    la := { s4.la with bins := s4.la.bins.filter fun b => b.core ≠ core }
    ms := { s4.ms with
      ops := s4.ms.ops.filter fun o => !mine o.ctx
      fwd := s4.ms.fwd.filter fun f => !decide (f.cache = cache ∧ f.stage = .l1)
      l1 := s4.ms.l1.filter fun l => l.cache ≠ cache
      tlb := s4.ms.tlb.filter fun t => t.tlb ≠ core
      icache := s4.ms.icache.filter fun p => p.1 / 2 ^ 49 ≠ cache }
    en := { s4.en with
      queues := s4.en.queues.filter fun q => q.1 / 16 ≠ core
      ae := s4.en.ae.filter fun a => a.core ≠ core
      boxes := s4.en.boxes.filter fun b => b.1 / 16 ≠ core
      pushes := s4.en.pushes.filter fun p => decide (p.core ≠ core) && !gids.contains (64 + p.gid) }
    mx := { s4.mx with
      stages := s4.mx.stages.filter fun p => p.1 / 2 ≠ core
      current := s4.mx.current.filter fun p => p.1 ≠ core
      loads := s4.mx.loads.filter fun p => p.1 ≠ core
      cmds := s4.mx.cmds.filter fun m => m.core ≠ core
      flags := s4.mx.flags.filter fun p => p.1 ≠ core
      bandsOff := s4.mx.bandsOff.filter fun p => p.1 ≠ core } } : State).dropWaiters

/-- The launches with threads or arenas on a column's cores. -/
def State.launchesOn (s : State) (col : Nat) : List Launch :=
  s.la.launches.filter fun l =>
    (s.ctxs.any fun p => decide (64 ≤ p.1 ∧ p.2.handle = l.handle ∧ p.2.core / 4 = col) && p.2.live) ||
    (s.la.bins.any fun b => decide (b.handle = l.handle ∧ b.core / 4 = col)) ||
    s.la.arenas.any fun a => decide (a.handle = l.handle ∧ a.core / 4 = col)

/-- The core domain of a column reset on behalf of a hung launch (R383). -/
def State.domainReset (s : State) (hung : Word64) (col : Nat) : State :=
  let ls := s.launchesOn col
  let s1 := (List.range 4).foldl (fun s k => s.loseCore (4 * col + k)) s
  let s2 := ls.foldl (fun s l => if l.handle = hung then s else (s.postWatchdog l col 1).startEnd l.handle 4 0) s1
  s2.machineEvent col col 0 0x04 0 0

/-- The watchdog's time of a launch, in ticks (04 R107; log 1). -/
def Launch.wdogTicks (l : Launch) : Nat := 12000 * l.recNat 80 4

/-- A launch's watchdog has expired (R382). -/
def State.wdogDue (s : State) (l : Launch) : Bool :=
  match l.wdog with
  | some t => decide (l.recNat 80 4 ≠ 0 ∧ t + l.wdogTicks ≤ s.now) && !l.switched && !l.ending && decide (l.stage ≠ .waiting)
  | none => false

/-- WATCHDOG_EXPIRE: the record is posted, and the launch is switched out with its frames marked hung, or, with frames
lacking, ended; at a second expiry before that save is complete, the core domains it is incomplete on are reset (R382,
R383). -/
def execWatchdogExpire (h : Word64) (s : State) : Host.Outcome State Fault Refusal :=
  match s.launch? h with
  | none => .next s
  | some l =>
    if !s.wdogDue l then .next s
    else
      let s1 := s.postWatchdog l l.col 0
      let s2 := s1.modLaunch h fun l => { l with wdog := some s1.now }
      if l.hung then
        ret (((s2.unsavedCols h).foldl (fun s c => s.domainReset h c) s2).startEnd h 4 0)
      else if l.quiescing = 0 ∧ !s2.framesEnough h then ret (s2.startEnd h 4 0)
      else ret (((s2.modLaunch h fun l => { l with hung := true }).markSaves h 2).startOut h)

end Sys2Proof.Machine
end

