-- ==== Sys2Proof/Machine/Power.lean ====
section
/-! DEFINITION. The power manager: C-states, M1, quiescing, governors, the fast throttle, and entering and leaving brown-out
(20 R417-R425; 17 R384; log 26). -/

namespace Sys2Proof.Machine

/-! ### Column states (R417) -/

/-- The engine commands of a column: matrix commands, access-engine programs, copies, collectives. -/
def State.columnBusy (s : State) (col : Nat) : Bool :=
  (s.mx.cmds.any fun m => m.core / 4 = col) || (s.en.ae.any fun a => a.core / 4 = col) || (s.en.cp.any fun c => c.col = col) ||
  s.fa.colls.any fun c => c.by_.col = col

/-- A column's cores hold a resident gang. -/
def State.columnGangs (s : State) (col : Nat) : List Nat :=
  (s.ctxs.filter fun p => decide (64 ≤ p.1 ∧ p.2.core / 4 = col) && p.2.live).map fun p => p.1 - 64

/-- The quiesce state of a column: 0 none, 1 draining, 2 quiet. -/
def State.qs (s : State) (col : Nat) : Nat := SMap.get 0 s.pw.quiesce col

/-- The column core of a column waits in wfi or is halted. -/
def State.coreStopped (s : State) (col : Nat) : Bool := decide ((s.ctx (.cc col)).run ≠ .running)

/-- A column is idle (R417). -/
def State.columnIdle (s : State) (col : Nat) : Bool :=
  (s.columnGangs col).isEmpty && !(s.la.bins.any fun b => decide (b.core / 4 = col) && b.closed) && !s.columnBusy col &&
  s.coreStopped col && decide (s.qs col ≠ 1)

/-- A column that is quiet may be off whatever its tolerance; its column core's thread is kept (R417, R419). -/
def State.columnQuiet (s : State) (col : Nat) : Bool := decide (s.qs col = 2)

/-- The exit time of a C-state in ns (R417). -/
def cExit (c : Nat) : Nat :=
  match c with
  | 0 => 0
  | 1 => 50
  | 2 => 3000
  | _ => 40000

/-- A column's tolerance (R418). -/
def State.tolerance (s : State) (col : Nat) : Nat := field (s.sysGet SysReg.lattol col) 31 0

/-- The condition of a C-state holds for a column. -/
def State.cAllowed (s : State) (col c : Nat) : Bool :=
  decide (c = 0) || (decide (cExit c ≤ s.tolerance col) && s.columnIdle col) || (decide (c = 3) && s.columnQuiet col)

/-- The deepest C-state of a column whose condition holds. -/
def State.cDeepest (s : State) (col : Nat) : Nat := ([3, 2, 1].find? (s.cAllowed col)).getD 0

def State.cstate (s : State) (col : Nat) : Nat := SMap.get 0 s.pw.cstate col

/-- The L1s of a column's cores are drained: their deltas acknowledged, their accepted writes applied, nothing dirty (15 R340). -/
def State.l1sDrained (s : State) (col : Nat) : Bool :=
  let mine (k : Nat) : Bool := decide (k / 5 = col ∧ k % 5 ≠ 4)
  !(s.dr.trackers.any fun t => mine t.cache) && !(s.ms.fwd.any fun f => mine f.cache)

/-- Trackers of caches begin their last drains, at whose end they are dropped and their shares returned (15 R330, R340). -/
def State.drainTrackers (s : State) (p : Nat → Bool) : State :=
  (s.dr.trackers.filter fun t => p t.cache && !(t.ends && t.draining)).foldl (fun s t =>
    match s.tracker? t.cache t.region with
    | some u => if u.draining then s.putTracker { u with ends := true } else s.beginDrain { u with ends := true }
    | none => s) s

/-- What the cores of a column that is switched off lose: L1s, written back first, instruction caches, TLBs and weight stages. -/
def State.columnOff (s : State) (col : Nat) : State :=
  let mine (k : Nat) : Bool := decide (k / 5 = col ∧ k % 5 ≠ 4)
  let s1 := (s.ms.l1.filter fun l => mine l.cache).foldl (fun s l => s.flushBytes l.dirty) s
  { s1 with
    ms := { s1.ms with
      l1 := s1.ms.l1.filter fun l => !mine l.cache
      tlb := s1.ms.tlb.filter fun t => t.tlb / 4 ≠ col ∨ 256 ≤ t.tlb
      icache := s1.ms.icache.filter fun p => !mine (p.1 / 2 ^ 49) }
    mx := { s1.mx with
      stages := s1.mx.stages.filter fun p => p.1 / 8 ≠ col
      current := s1.mx.current.filter fun p => p.1 / 4 ≠ col
      loads := s1.mx.loads.filter fun p => p.1 / 4 ≠ col } }

/-- C_STATE_ENTER: a column takes the deepest state whose condition holds; C3 once its L1s are drained (R417; 15 R340). -/
def execCStateEnter (col : Nat) (s : State) : Host.Outcome State Fault Refusal :=
  let c := s.cDeepest col
  if 64 ≤ col ∨ c ≤ s.cstate col ∨ s.cl.exits.contains col ∨ s.pw.mstate = 2 then .next s
  else if c = 3 then
    let s1 := s.drainTrackers fun k => decide (k / 5 = col ∧ k % 5 ≠ 4)
    if s1.l1sDrained col then
      let s2 := s1.columnOff col
      ret { s2 with pw := { s2.pw with cstate := SMap.set 0 s2.pw.cstate col 3 } }
    else ret s1
  else .next { s with pw := { s.pw with cstate := SMap.set 0 s.pw.cstate col c } }

/-- C_STATE_EXIT: a column whose state's condition no longer holds, or that has been woken, returns to C0, as the slew limiter
admits it (R417, R421). -/
def execCStateExit (col : Nat) (s : State) : Host.Outcome State Fault Refusal :=
  if 64 ≤ col ∨ s.cstate col = 0 ∨ (s.cAllowed col (s.cstate col) ∧ !s.cl.exits.contains col) then .next s
  else execSlewAdmit (s.wakeColumn col)

/-! ### The module's states (R417, R418) -/

/-- The module's tolerance. -/
def State.moduleTol (s : State) : Nat := field (s.sysGet SysReg.mlattol 0) 31 0

/-- No flit has moved on a link for 1 µs: none has come, and nothing that this module sends is under way. -/
def State.linksIdle (s : State) : Bool :=
  (s.fa.links.all fun p => !p.2.up || decide (p.2.heard + 1000 ≤ s.ns)) && s.fa.colls.isEmpty &&
  !(s.ms.ops.any fun o => o.accs.any fun a => decide (2 ^ 50 ≤ a.pa ∧ a.pa < 2 ^ 60))

/-- The module's state changes between run and parked links, which follow it (R417; 16 R352). -/
def State.setM1 (s : State) (m : Nat) : State :=
  (SMap.keys s.fa.links).foldl State.settleWidth { s with pw := { s.pw with mstate := m } }

/-- M1_ENTER: links park at their MINW (R417; 16 R353). -/
def execM1Enter (s : State) : Host.Outcome State Fault Refusal :=
  if s.pw.mstate = 0 ∧ s.pw.entering = 0 ∧ 10000 ≤ s.moduleTol ∧ s.linksIdle then .next (s.setM1 1) else .next s

/-- M1_EXIT: parked wavelengths join their links again (R417). -/
def execM1Exit (s : State) : Host.Outcome State Fault Refusal :=
  if s.pw.mstate = 1 ∧ (s.moduleTol < 10000 ∨ !s.linksIdle) then .next (s.setM1 0) else .next s

/-! ### Quiescing (R419) -/

/-- A column is quiesced by a column core; with FORCE its resident gangs are evicted where frames are free. The status. -/
def State.quiesceColumn (s : State) (by_ col : Nat) (force : Bool) : State × Nat :=
  if s.qs col ≠ 0 then (s, 1)
  else
    let s1 : State := { s with pw := { s.pw with
      quiesce := SMap.set 0 s.pw.quiesce col 1, quiesceBy := SMap.set 0 s.pw.quiesceBy col (by_ + 1) } }
    (if force then (s1.columnGangs col).foldl (fun s g => s.startSave g 8 0) s1 else s1, 0)

/-- A column released. The status. -/
def State.releaseColumn (s : State) (col : Nat) : State × Nat :=
  if s.qs col = 0 then (s, 1)
  else
    ({ s with pw := { s.pw with
      quiesce := SMap.set 0 s.pw.quiesce col 0, quiesceBy := SMap.set 0 s.pw.quiesceBy col 0 } }, 0)

/-- A draining column has become quiet. -/
def State.quietDue (s : State) (col : Nat) : Bool :=
  decide (s.qs col = 1) && (s.columnGangs col).isEmpty && !s.columnBusy col

/-- A power event (R425). -/
def State.powerEvent (s : State) (q cause count : Nat) (a b : Word64) : State := s.postEvent q q 0x89 0 cause count a b

/-- QUIESCE_QUIET: the column is quiet, and its requester is told (R419, R425). -/
def execQuiesceQuiet (col : Nat) (s : State) : Host.Outcome State Fault Refusal :=
  if 64 ≤ col ∨ !s.quietDue col then .next s
  else
    let by_ := SMap.get 0 s.pw.quiesceBy col - 1
    let s1 : State := { s with pw := { s.pw with quiesce := SMap.set 0 s.pw.quiesce col 2 } }
    ret (s1.powerEvent by_ 1 0 (BitVec.ofNat 64 col) 0)

/-! ### Governors (R420) -/

/-- The cores' copies of ctl.ashape in a column with GDIV and GMASK replaced; bands that no command needs any more go off (12 R275,
R276). -/
def State.govern (s : State) (col gdiv gmask : Nat) : State :=
  (List.range 4).foldl (fun s k =>
    let core := 4 * col + k
    (s.sysPut SysReg.ashape core (setField (setField (s.sysGet SysReg.ashape core) 21 20 gdiv) 19 16 gmask)).shedBands core) s

/-- GDIV and GMASK of a column. -/
def State.governed (s : State) (col : Nat) : Nat × Nat :=
  let r := s.sysGet SysReg.ashape (4 * col)
  (field r 21 20, field r 19 16)

/-- One step of a governor over a limit: GDIV up to 3, then the highest band off, band 0 kept; none where nothing is left. -/
def governUp (d m : Nat) : Option (Nat × Nat) :=
  if d < 3 then some (d + 1, m)
  else ([3, 2, 1].find? fun b => m.testBit b).map fun b => (d, m - 2 ^ b)

/-- One step back: the lowest band that is off comes on again, then GDIV goes down. -/
def governDown (d m : Nat) : Option (Nat × Nat) :=
  match [0, 1, 2, 3].find? fun b => !m.testBit b with
  | some b => some (d, m + 2 ^ b)
  | none => if 0 < d then some (d - 1, m) else none

/-- A column's cap in mW; before the caps are first set, an equal part of the allowance. -/
def State.capOf (s : State) (col : Nat) : Nat :=
  if s.pw.cap.isEmpty then s.allowance * 1000 / 64 else SMap.get 0 s.pw.cap col

/-- The junction limit in °C (R421). -/
def State.junction (s : State) : Nat := field (s.sysGet SysReg.govctl 0) 47 40

/-- Some alarm of the fast throttle stands (R421). -/
def State.alarmed (s : State) : Bool := s.pw.throtPin || s.pw.powerAlarm || s.pw.brownHold || !s.pw.hot.isEmpty

/-- Alarms as they are after a change; the time at which the last of them clears is kept. -/
def State.alarms (s : State) (pw : PowerSt) : State :=
  let t : State := { s with pw := pw }
  if s.alarmed && !t.alarmed then { t with pw := { t.pw with clearAt := t.ns } } else t

/-- GOVERNOR_TICK: every 1 µs a column's governor compares its draw, in mW, and its die's temperature, in °C, with its limits
(R420); a die above TJ + 10 °C is an alarm (R421). -/
def execGovernorTick (col draw temp : Nat) (s : State) : Host.Outcome State Fault Refusal :=
  if 64 ≤ col ∨ s.ns < SMap.get 0 s.pw.govAt col + 1000 then .next s
  else
    let s1 := s.alarms { s.pw with
      govAt := SMap.set 0 s.pw.govAt col s.ns, hot := SMap.set false s.pw.hot col (decide (s.junction + 10 < temp)) }
    let g := s1.governed col
    let high := decide (s.capOf col < draw ∨ s.junction < temp)
    let under := decide (5 * draw ≤ 4 * s.capOf col ∧ 5 * temp ≤ 4 * s.junction)
    let since := SMap.get 0 s1.pw.under col
    let mark (s : State) (v : Nat) : State := { s with pw := { s.pw with under := SMap.set 0 s.pw.under col v } }
    if s1.pw.brownHold then .next (mark s1 0)
    else if high then
      match governUp g.1 g.2 with
      | some x => ret (((mark s1 0).govern col x.1 x.2).throttle col 3)
      | none => .next (mark s1 0)
    else if !under then .next (mark s1 0)
    else if since = 0 then .next (mark s1 (s.ns + 1))
    else if s.ns < since - 1 + 10000 then .next s1
    else
      match governDown g.1 g.2 with
      | some x => ret (((mark s1 (s.ns + 1)).govern col x.1 x.2).throttle col 3)
      | none => .next s1

/-- The caps from the columns' draws: those whose proportional part falls below the floor receive it, until none does (R420). -/
def capShares : Nat → Nat → List Nat → List Nat → List Nat
  | 0, a, ds, low => (List.range ds.length).map fun i => if low.contains i then a / 128 else 0
  | n + 1, a, ds, low =>
    let free := (List.range ds.length).filter fun i => !low.contains i
    let rest := a - low.length * (a / 128)
    let total := (free.map fun i => ds.getD i 0).sum
    let part (i : Nat) : Nat := if total = 0 then rest / max 1 free.length else rest * ds.getD i 0 / total
    let less := free.filter fun i => decide (part i < a / 128)
    if less.isEmpty then (List.range ds.length).map fun i => if low.contains i then a / 128 else part i
    else capShares n a ds (low ++ less)

/-- COLUMN_CAP_TICK: every 10 µs the allowance is divided among the columns by their draws over the last 100 µs, in mW (R420). -/
def execColumnCapTick (draws : List Nat) (s : State) : Host.Outcome State Fault Refusal :=
  if draws.length ≠ 64 ∨ s.ns < s.pw.capAt + 10000 then .next s
  else
    let caps := capShares 64 (s.allowance * 1000) draws []
    .next { s with pw := { s.pw with
      capAt := s.ns
      cap := (List.range 64).foldl (fun m i => SMap.set 0 m i (caps.getD i 0)) s.pw.cap } }

/-! ### The fast throttle (R421) -/

/-- The clocks' counts as they stand before the throttle changes their periods (02 R62; R421). -/
def State.holdClocks (s : State) : State :=
  { s with pw := { s.pw with clkAt := s.now, clkCore := s.clk (.gang 0), clkCc := s.clk (.cc 0) } }

/-- Every core clock and column-core clock divided, or no longer, and every column core told (R421; 17 R384). -/
def State.setFast (s0 : State) (on : Bool) : State :=
  let s := s0.holdClocks
  let s1 : State := { s with pw := { s.pw with fast := (List.range 64).foldl (fun m c => SMap.set false m c on) s.pw.fast } }
  (List.range 64).foldl (fun s c => s.throttle c (if on then 1 else 2)) s1

/-- The fast throttle is in force. -/
def State.isFast (s : State) : Bool := !s.pw.fast.isEmpty

/-- FAST_THROTTLE_ON: an alarm divides the clocks. Where none of the alarms that other events bring stands, it is the power
alarm itself (R421). -/
def execFastThrottleOn (s : State) : Host.Outcome State Fault Refusal :=
  let s1 : State := if s.alarmed then s else { s with pw := { s.pw with powerAlarm := true } }
  if s1.isFast then .next s1 else ret (s1.setFast true)

/-- FAST_THROTTLE_OFF: the power alarm clears; and, FTHYS µs after every alarm has cleared, the fast throttle ends (R421). -/
def execFastThrottleOff (s : State) : Host.Outcome State Fault Refusal :=
  if !s.isFast then .next s
  else if s.alarmed then .next (s.alarms { s.pw with powerAlarm := false })
  else if s.ns < s.pw.clearAt + 1000 * field (s.sysGet SysReg.govctl 0) 31 16 then .next s
  else ret (s.setFast false)

/-- THROT_SIGNAL: the external THROT signal (R421). -/
def execThrotSignal (on : Bool) (s : State) : Host.Outcome State Fault Refusal := .next (s.alarms { s.pw with throtPin := on })

/-! ### Brown-out (R422-R425) -/

/-- A wake starts resumption, once entry has ended (R423, R424). -/
def State.wakeModule (s : State) : State :=
  if s.pw.mstate = 2 ∨ s.pw.entering ≠ 0 then
    { s with
      pw := { s.pw with wakeTime := some (s.pw.wakeTime.getD s.ns) }
      se := { s.se with hstat := setField s.se.hstat 47 40 0 } }
  else s

/-- Column core n goes on from halt or wfi (19 R410). -/
def State.wakeCore (s : State) (n : Nat) : State :=
  if s.se.held then s else s.modCtx (.cc n) fun c => { c with run := .running }

/-- A write of ctl.wake: in M2 a nonzero one from the host starts resumption; else each named column wakes, and its core's halt
ends (R418; 19 R410). -/
def State.wakeWrite (s : State) (v : Word64) (host : Bool) : State :=
  let up := decide (s.pw.mstate = 2 ∨ s.pw.entering ≠ 0)
  let s1 := if host && up && decide (v ≠ 0) then s.wakeModule else s
  if s.pw.mstate = 2 then s1
  else (List.range 64).foldl (fun s n => if v.getLsbD n then (s.wakeColumn n).wakeCore n else s) s1

/-- CTL_WAKE_WRITE (R418). -/
def execCtlWakeWrite (v : Word64) (host : Bool) (s : State) : Host.Outcome State Fault Refusal := .next (s.wakeWrite v host)

/-- A write of ctl.mlattol; in M2 a tolerance that forbids the state starts resumption (R418, R424). -/
def State.writeMlattol (s : State) (v : Word64) : State :=
  let s0 := s.sysPut SysReg.mlattol 0 (v &&& 0xFFFFFFFF)
  let s1 : State := { s0 with pw := { s0.pw with told := false } }
  if s1.moduleTol < 8000000 ∧ s.pw.mstate = 2 then s1.wakeModule else s1

/-- The launches that an entry into M2 switches out. -/
def State.outLaunches (s : State) : List Launch := s.la.launches.filter fun l => decide (l.stage ≠ .waiting) && !l.switched && !l.ending

/-- The bytes that a column's bins, spill entries and launch lines take in a frame of its pool (R423; log 26). -/
def State.columnBytes (s : State) (col : Nat) : Nat :=
  128 * (s.la.lines.filter fun p => p.1 / 16 = col).length +
  32 * ((s.la.bins.filter fun b => b.core / 4 = col).flatMap Bin.seeds).length + 64 * (s.la.spills.filter fun e => e.col = col).length

/-- The parts of a column that go into frames of its pool of their own: its column core's thread, and its bins, spill entries and lines,
where it has any (R423; log 26). -/
def State.columnParts (s : State) (col : Nat) : List Nat := if s.columnBytes col = 0 then [0] else [0, 1]

/-- The frames an entry into M2 needs of a column's pool and does not find: a switch out of every launch, and the column's own (R423). -/
def State.framesMissing (s : State) (col : Nat) : Nat :=
  (s.outLaunches.map fun l => s.framesNeeded l.handle col).sum + (s.columnParts col).length - (s.freeFrames col).length

/-- The frames that a column's own parts will take (R423). -/
def State.takeParts (s : State) (col : Nat) : State :=
  let use := ((s.freeFrames col).zip (s.columnParts col)).map fun p => (⟨col, p.1, .column p.2⟩ : Frame)
  { s with la := { s.la with frames := s.la.frames ++ use } }

/-- The frames missing in all the pools. -/
def State.m2Missing (s : State) : Nat := ((List.range 64).map s.framesMissing).sum

/-- The tolerance asks for M2 (R417). -/
def State.m2Tolerated (s : State) : Bool :=
  decide (8000000 ≤ s.moduleTol) && (List.range 64).all fun c => decide (s.cstate c = 3)

/-- M2 is asked for: by a column core, by the BROWN signal, or by tolerance (R423). -/
def State.m2Wanted (s : State) : Bool :=
  !s.pw.m2by.isEmpty || (s.pw.brownPin && !s.pw.brownHold) || (s.m2Tolerated && (!s.pw.told || decide (s.m2Missing = 0)))

/-- A request for M2 answered: its status is written, and its core goes on (R419, R423, R424). -/
def State.answerM2 (s : State) (v : Nat) : State :=
  let s1 : State := { s with pw := { s.pw with m2by := [] } }
  s.pw.m2by.foldl (fun s p =>
    let res := match p.2 with
      | some r => regRes 0 r v 1
      | none => []
    (s.land (.cc p.1) res).doneWaiting (.cc p.1) 1 1) s1

/-- A column's GDIV and GMASK as they are forced, and its column core told of a change (R420, R423; 17 R384). -/
def State.force (s : State) (col gdiv gmask : Nat) : State :=
  if s.governed col = (gdiv, gmask) then s else (s.govern col gdiv gmask).throttle col 3

/-- Entry refused: each requester receives status 3 and an event; column core 0 is told of a refusal under BROWN or by tolerance alone.
Under BROWN the fast throttle is held, with every column at GDIV 3 and band 0 alone (R423, R425; log 26). -/
def State.refuseM2 (s : State) (missing : Nat) : State :=
  let alone := s.pw.brownPin || s.pw.m2by.isEmpty
  let told := (s.pw.m2by.map Prod.fst) ++ if alone then [0] else []
  let s1 := told.foldl (fun (s : State) n => s.powerEvent n 2 missing 0 0) s
  let s2 := s1.answerM2 3
  let s3 : State := { s2 with pw := { s2.pw with told := s.m2Tolerated } }
  if s.pw.brownPin then
    let s4 : State := { s3 with pw := { s3.pw with brownHold := true } }
    let s5 := (List.range 64).foldl (fun s c => s.force c 3 1) s4
    if s5.isFast then s5 else s5.setFast true
  else s3

/-- Every launch that is to be out is out, and no engine holds a command. -/
def State.outsDone (s : State) : Bool :=
  s.outLaunches.isEmpty && s.mx.cmds.isEmpty && s.en.cp.isEmpty && s.en.ae.isEmpty && s.fa.colls.isEmpty

/-- Every cache is drained: no delta, no accepted write, no operation is under way; every access of the host and of peers is done, and no
record of an overflow store can be posted (R423 step 3; 19 R405). -/
def State.cachesDrained (s : State) : Bool :=
  s.dr.trackers.isEmpty && s.dr.msgs.isEmpty && s.ms.fwd.isEmpty && s.ms.ops.isEmpty && s.se.hostq.isEmpty && s.fa.inbox.isEmpty &&
  s.ev.ovf.all fun r => (s.ovfNext r.col).isNone

/-- A column core's thread as its frame has it: at the word after a request for M2 that it has issued (R423 step 4). -/
def State.sealedCore (s : State) (col : Nat) : Ctx :=
  let c : CtxId := .cc col
  if s.pw.m2by.any fun p => p.1 = col then (s.doneWaiting c 1 1).ctx c else s.ctx c

/-- One of a column's own parts written to its frame: its column core's thread as a gang of one thread, or bytes whose layout is not given
(R423 steps 2, 4; 17 R373; log 26). -/
def State.sealPart (s : State) (col num part : Nat) : State :=
  let base := s.frameBase col num
  if !okRange base (2 ^ 17) then { s with stuck := some .absentMemory }
  else
    let s1 := s.clearRange base (2 ^ 17)
    if part = 0 then
      let x := s.sealedCore col
      let g : Saved := ⟨0, 0, col, num, 1, x.age, x.regCode, 0, [], [], [], [], [], [], []⟩
      (x.framePieces g (fun l => min x.blockSize (s.liveOfLane (.cc col) l)) (BitVec.ofNat 64 s.ns)).foldl (fun s p => s.storeHome (base + p.1) p.2) s1
    else
      let n := min (2 ^ 17) (s.columnBytes col)
      let bs := Config.freeBytes s1.freeCtr n
      { s1.storeHome base ((List.range n).map fun i => bs.getD i 0) with freeCtr := s1.freeCtr + 1 }

/-- Every column's own parts written to their frames (R423). -/
def State.sealParts (s : State) : State :=
  s.la.frames.foldl (fun s f => match f.use with
    | .column part => s.sealPart f.col f.num part
    | _ => s) s

/-- M2 itself: the columns' own parts are in their frames, dirty lines are home, session keys go and debug is locked where it was
authenticated (R423 steps 2-5; R428). -/
def State.enterM2 (s0 : State) : State :=
  let s := s0.sealParts
  let s1 := s.ms.l1.foldl (fun s l => s.flushBytes l.dirty) s
  let s2 : State := { s1 with ms := { s1.ms with l1 := [], slice := [], prefetch := [] } }
  let s3 : State := if s2.se.dbg ≠ 0 then { s2.lockDebug with se := { s2.lockDebug.se with keysErased := true } } else s2
  { s3 with pw := { s3.pw with mstate := 2, entering := 0, entryTime := s3.ns } }

/-- BROWNOUT_ENTRY: M2 is refused, or entered step by step: launches are switched out, caches drain, and the rails go off
(R423). -/
def execBrownoutEntry (s : State) : Host.Outcome State Fault Refusal :=
  if s.pw.mstate = 2 then .next s
  else if s.pw.entering = 0 then
    if !s.m2Wanted then .next s
    else if s.m2Missing ≠ 0 then ret (s.refuseM2 s.m2Missing)
    else
      let outs := s.outLaunches.map Launch.handle
      let s1 := (List.range 64).foldl State.takeParts (outs.foldl State.startOut s)
      ret { s1 with pw := { s1.pw with entering := 1, m2outs := (s1.pw.m2outs ++ outs).eraseDups } }
  else if s.pw.entering = 1 then
    if s.outsDone then .next { s with pw := { s.pw with entering := 2 } } else .next s
  else
    let s1 := s.drainTrackers fun _ => true
    if s1.cachesDrained then ret s1.enterM2 else ret s1

/-- BROWN_ASSERT: the BROWN signal asks for M2, and column core 0 is told (R423, R425). -/
def execBrownAssert (s : State) : Host.Outcome State Fault Refusal :=
  if s.pw.brownPin then .next s
  else ret (({ s with pw := { s.pw with brownPin := true } } : State).powerEvent 0 4 0 (s.sliceTime 0) 0)

/-- BROWN_RELEASE: a refused entry's hold ends, and resumption starts (R423, R424). -/
def execBrownRelease (s : State) : Host.Outcome State Fault Refusal :=
  if s.pw.brownPin then .next (s.alarms { s.pw with brownPin := false, brownHold := false }).wakeModule else .next s

/-- The registers that take their reset values on resumption: those no map marks as kept (R424). -/
def lostRegs : List Nat := [SysReg.cstat, SysReg.svec, SysReg.uepc, SysReg.uepw, SysReg.lprio, SysReg.lswitch, SysReg.ashape,
  SysReg.ringsel]

/-- The registers as they are after resumption: COUNT of sys.frmpool, which is not marked as kept, is 0 too (R424; 17 R372). -/
def resumedRegs (m : SMap (Option Word64)) : SMap (Option Word64) :=
  (m.filter fun p => !lostRegs.contains (p.1 / 2 ^ 20)).filterMap fun p =>
    if p.1 / 2 ^ 20 = SysReg.frmpool then
      (p.2.map fun v => setField v 63 48 0).bind fun v => if v = 0 then none else some (p.1, some v)
    else some p

/-- What resumption leaves of the state: lines, bins and column cores' threads are back from their frames, which are free again, and launches
are to be switched in; no column is quiesced any more, since ctl.pmstat is not kept (R418, R424 steps 2-5). -/
def State.powerBack (s0 : State) : State :=
  let s := s0.holdClocks
  let outs := s.pw.m2outs.filter fun h => (s.launch? h).any fun l => l.switched && !l.ending
  let keep (f : Frame) : Bool := match f.use with
    | .column _ => false
    | _ => true
  { s with
    sys := resumedRegs s.sys
    la := { s.la with
      ins := (s.la.ins ++ outs).eraseDups
      frames := s.la.frames.filter keep
      tracked := []
      windows := []
      launches := s.la.launches.map fun l => { l with wdog := l.wdog.map fun _ => s.now } }
    ms := { s.ms with regions := [], tlb := [], icache := [], golden := [] }
    mx := ⟨[], [], [], [], [], []⟩
    dr := { s.dr with homes := s.dr.homes.filter fun h => h.retiring }
    en := { s.en with boxes := [] }
    ca := { s.ca with htErr := false, mapErr := false }
    pw := { s.pw with
      mstate := 0, cstate := [], wakeTime := none, m2outs := outs, told := false
      fast := [], hot := [], powerAlarm := false, under := []
      back := some (s.pw.entryTime, s.pw.wakeTime.getD s.ns)
      quiesce := [], quiesceBy := [] } }

/-- Power has come back: the links' wavelengths join them again, the fast throttle and what was forced with it end, and the column cores
that asked go on (R424 steps 2-5; 16 R352; 17 R384). -/
def State.resumed (s : State) : State :=
  let s1 := (SMap.keys s.fa.links).foldl State.settleWidth s.powerBack
  let s2 := if s.isFast then (List.range 64).foldl (fun s c => s.throttle c 2) s1 else s1
  let s3 := (List.range 64).foldl (fun t c => if t.governed c = s.governed c then t else t.throttle c 3) s2
  s3.answerM2 0

/-- Every launch switched out at entry has been switched in, or has ended (R424 step 5). -/
def State.backDone (s : State) : Bool := s.pw.back.isSome && decide (s.pw.mstate ≠ 2) && s.pw.m2outs.all fun h => !s.la.ins.contains h

/-- Column core 0 is told of the resumption (R424 step 6, R425). -/
def State.tellBack (s : State) : State :=
  match s.pw.back with
  | some t =>
    ({ s with pw := { s.pw with back := none, m2outs := if s.pw.entering = 0 then [] else s.pw.m2outs } } : State).powerEvent 0 3 0
      (BitVec.ofNat 64 t.1) (BitVec.ofNat 64 t.2)
  | none => s

/-- SHA-512 of the runtime image that BOOTIMG names (R427, R429). -/
def State.imageSha (s : State) : BitVec 512 :=
  Config.sha512 (field s.se.bootimg 63 48 * 2 ^ 16) fun i => s.homeByte (field s.se.bootimg 47 16 * 2 ^ 16 + i)

/-- Cameo finds the runtime image as it was measured; one that was never measured cannot differ (R424 step 1; log 28). -/
def State.imageGood (s : State) : Bool := s.se.measured.all fun m => decide (m = s.imageSha)

/-- BROWNOUT_RESUME: with the runtime image as it was measured, the module resumes; or it stays powered down and says so. Once the launches
are `back`, column core 0 is told (R424). -/
def execBrownoutResume (back : Bool) (s : State) : Host.Outcome State Fault Refusal :=
  if back then (if s.pw.mstate ≠ 2 ∧ s.backDone then ret s.tellBack else .next s)
  else if s.pw.mstate ≠ 2 ∨ s.pw.wakeTime.isNone then .next s
  else if s.imageGood then ret s.resumed
  else .next { s with pw := { s.pw with wakeTime := none }, se := { s.se with hstat := setField s.se.hstat 47 40 0xE1 } }

/-! ### pm.req (R419; 19 R401, R414) -/

/-- The register a pm.req writes its status to. -/
def dstOf (d : Dst) : Option Nat :=
  match d with
  | .g n => some n
  | _ => none

/-- A request answered at once: its status on every participant. -/
def pmEff (q : QWord) (f : State → Nat → Nat → State × Nat) (is : Issue) (s : State) : Option Done :=
  (lowestLane is.act).map fun l =>
    let r := f s (s.colOf is.ctx) (is.src s false q.a l)
    .next (r.1.land is.ctx ((lanesOf is.act).flatMap fun l => dstPut q.d 1 l r.2))

def execPmReqQuiesce (q : QWord) (s : State) : Host.Outcome State Fault Refusal :=
  issueWith (.pmReqQuiesce q) 0 (pmEff q fun s by_ v => s.quiesceColumn by_ (bitsOf v 5 0) (v.testBit 8)) s

def execPmReqRelease (q : QWord) (s : State) : Host.Outcome State Fault Refusal :=
  issueWith (.pmReqRelease q) 0 (pmEff q fun s _ v => s.releaseColumn (bitsOf v 5 0)) s

/-- The demand is counted from the pod's next announcement (16 R362). -/
def execPmReqSetDemand (q : QWord) (s : State) : Host.Outcome State Fault Refusal :=
  issueWith (.pmReqSetDemand q) 0 (pmEff q fun s _ v =>
    ({ s with pw := { s.pw with demand := clampDemand (bitsOf v 15 0) } }, 0)) s

/-- Enter M2: the column core waits for the answer, which resumption or a refusal gives (R419, R423). -/
def execPmReqEnterM2 (q : QWord) (s : State) : Host.Outcome State Fault Refusal :=
  issueWith (.pmReqEnterM2 q) 0 (fun is s =>
    let s1 := s.block is is.path fun _ => .op s.opId is.path
    some (.held { s1 with
      opId := s1.opId + 1
      pw := { s1.pw with m2by := s1.pw.m2by ++ [(s.colOf is.ctx, dstOf q.d)] } } is.path)) s

end Sys2Proof.Machine
end

