-- ==== Sys2Proof/Machine/Slots.lean ====
section
/-! DEFINITION. The maintenance calendar as it is written and as it runs: slots, drain windows, held transactions, extensions,
ring heaters and their monitors, and slotq (18 R388-R398; 25 R442). -/

namespace Sys2Proof.Machine

/-- A free number below a bound (log 11). -/
def State.freeBelow (s : State) (n : Nat) : State × Nat :=
  ({ s with freeCtr := s.freeCtr + 1 }, (Config.freeWord s.freeCtr).toNat % max 1 n)

/-! ### Writing the calendar (R388, R389) -/

/-- A value staged for a calendar register is within its limits (R388). -/
def calendarOk (reg v : Nat) : Bool :=
  if reg = SysReg.slotper then decide (2048 ≤ v ∧ v ≤ 16384)
  else if reg = SysReg.slotlen then decide (128 ≤ v ∧ v ≤ 8191)
  else if reg = SysReg.longevery then true
  else if reg = SysReg.longlen then decide (1024 ≤ v ∧ v ≤ 8191)
  else decide (v ≤ 4095)

/-- A write of a calendar register: its value is staged, and ERR clears where 1 is written (R388). -/
def State.writeCalendar (s : State) (reg : Nat) (v : Word64) : State :=
  let s1 := if reg = SysReg.slotper ∧ v.getLsbD 62 then
      s.sysPut SysReg.slotper 0 (s.sysGet SysReg.slotper 0 &&& ~~~0x4000000000000000) else s
  let x := if reg = SysReg.slotper then field v 19 0 else field v 15 0
  if calendarOk reg x then
    { s1 with ca := { s1.ca with staged := SMap.set none s1.ca.staged reg (some x), lastWrite := s1.ns } }
  else s1

/-- CALENDAR_WRITE (R388). -/
def execCalendarWrite (reg : Nat) (v : Word64) (s : State) : Host.Outcome State Fault Refusal :=
  if SysReg.slotper ≤ reg ∧ reg ≤ SysReg.horizon then .next (s.writeCalendar reg v) else .next s

/-- The staged value of a calendar register, or its active one. -/
def State.stagedOr (s : State) (reg : Nat) : Nat :=
  (SMap.get none s.ca.staged reg).getD (if reg = SysReg.slotper then s.slotPer else field (s.sysGet reg 0) 15 0)

/-- A staged set activates now: at a multiple of 2^20 ns, 65,536 ns after the last write, with no slot that began earlier in
progress (R389; log 25). -/
def State.activateDue (s : State) : Bool :=
  !s.ca.staged.isEmpty && decide (s.now % (12 * 2 ^ 20) = 0 ∧ s.ca.lastWrite + 65536 ≤ s.ns) &&
  match s.ca.slot with
  | some k => decide (s.slotStart k = s.ns)
  | none => true

/-- A link takes back the wavelength it gave up for a slot (16 R352). -/
def State.retrained (s : State) : State :=
  match s.ca.retrain with
  | some l => ({ s with ca := { s.ca with retrain := none } } : State).settleWidth l
  | none => s

/-- CALENDAR_ACTIVATE: the staged set becomes active, or is discarded; no command waits for a slot of the old calendar any longer (R389, R390;
12 R288). -/
def execCalendarActivate (s : State) : Host.Outcome State Fault Refusal :=
  if !s.activateDue then .next s
  else
    let per := s.stagedOr SysReg.slotper
    let short := s.stagedOr SysReg.slotlen
    let long := s.stagedOr SysReg.longlen
    let hor := s.stagedOr SysReg.horizon
    let s0 : State := { s with ca := { s.ca with staged := [] } }
    if per < 2 * short + hor ∨ per < 2 * long + hor then
      .next (s0.sysPut SysReg.slotper 0 (s0.sysGet SysReg.slotper 0 ||| 0x4000000000000000))
    else
      let put (s : State) (reg v : Nat) : State := s.sysPut reg 0 (BitVec.ofNat 64 v)
      let s1 := s0.sysPut SysReg.slotper 0 (setField (s0.sysGet SysReg.slotper 0) 19 0 per)
      let s2 := put (put (put (put s1 SysReg.slotlen short) SysReg.longevery (s.stagedOr SysReg.longevery)) SysReg.longlen long)
        SysReg.horizon hor
      let s3 := s2.retrained
      .next { s3 with
        ca := { s3.ca with anchor := s3.ns, slot := none, extended := 0, drain := false, past := none, retrain := none }
        mx := { s3.mx with cmds := s3.mx.cmds.map fun c => { c with deferred := none } } }

/-! ### Transactions under way (R393-R395) -/

/-- An engine's work under way: its number, its command, whether it tolerates slots, whose writes it sees, and the accesses that it makes
now. -/
structure EWork where
  id : Nat
  by_ : CmdId
  st : Bool
  view : EView
  accs : List EAcc
  deriving DecidableEq, Repr

/-- The work of a copy engine under way: the elements still to be moved. -/
def State.copyWork (s : State) (c : CpCmd) : EWork :=
  let es := ((c.coords.zip (s.copyPlan c).2).filter fun q => !c.moved.contains q.1).map Prod.snd
  ⟨c.id, c.by_, c.st, .column c.col, c.accs es⟩

/-- The work of an access engine's stream under way: its block. -/
def State.streamWork (s : State) (a : AERun) (t : Stream) : EWork :=
  let id := streamOp a.core t.num
  let fs := (s.checkBlock id (a.by_.who [a.core, 256 + a.core / 4]) t).2
  ⟨id, a.by_, a.st, .core (5 * (a.core / 4) + a.core % 4), elemAccs t.rec_ (2 ^ Rec256.es t.rec_) false fs⟩

/-- The work of a matrix array under way: its operand. -/
def State.arrayWork (s : State) (m : MCmd) : EWork :=
  ⟨m.id, m.by_, m.st, m.view, match m.kind with
    | .mac a _ _ =>
      let p := (s.macPlan m a).2
      operandAccs a.data a.scale p.1 p.2
    | .load f g d sc =>
      let rs := operandReads f g 128 0 0
      operandAccs d sc rs (s.checkOperand m.id m.who d sc rs).2
    | _ => []⟩

/-- The work of a collective under way: its chunk. -/
def State.collWork (s : State) (c : Coll) : EWork :=
  ⟨c.id, c.by_, c.st, c.view, elemAccs c.args.src 4 false (s.collCheck c c.args.src .read).2 ++
    elemAccs c.args.dst 4 true (s.collCheck c c.args.dst .write).2⟩

/-- The engines' work under way. -/
def State.underWay (s : State) : List EWork :=
  (((List.range 64).flatMap s.cpRunning).map s.copyWork) ++ (s.en.ae.flatMap fun a => a.streams.map (s.streamWork a)) ++
    ((s.mx.cmds.filter fun m => m.running).map s.arrayWork) ++ s.fa.colls.map s.collWork

/-- The transactions of a work that a slot's resources concern: those that reach a controller or a link (R393-R395). -/
def State.slotCount (s : State) (m : Word64) (w : EWork) : Nat :=
  (w.accs.filter fun a => a.found.pa?.any fun pa => s.affects m pa && s.engineReaches w.view pa a).length

/-- The drain window of the slot in progress or the next one begins now (R390). -/
def State.drainDue (s : State) : Bool := !s.ca.drain && decide (s.slotStart s.slot0 ≤ s.ns + s.horizon)

/-- SLOT_DRAIN_WINDOW: non-tolerant commands start no transaction to the slot's resources from now on; those under way may have
started some (R390, R393). -/
def execSlotDrainWindow (s : State) : Host.Outcome State Fault Refusal :=
  if !s.drainDue then .next s
  else
    let on := s.underWay.filter fun w => !w.st
    .next { s with ca := { s.ca with drain := true, held := on.map fun w => (w.id, w.by_, 0) } }

/-- The transactions of each work that the slot's start finds unserved: as many of them as it may have started before the
window (R395; log 25). -/
def State.countHeld (s : State) (m : Word64) : State :=
  let on := s.underWay
  let r := s.ca.held.foldl (fun (r : State × List (Nat × CmdId × Nat)) h =>
    match on.find? fun w => w.id = h.1 with
    | some w =>
      let z := r.1.freeBelow (s.slotCount m w + 1)
      (z.1, if z.2 = 0 then r.2 else r.2 ++ [(h.1, h.2.1, z.2)])
    | none => r) (s, [])
  { r.1 with ca := { r.1.ca with held := r.2 } }

/-- The tolerant transactions that queue during the slot (R394; log 25). -/
def State.countTolerated (s : State) (m : Word64) : State :=
  (s.underWay.filter EWork.st).foldl (fun s w =>
    let z := s.freeBelow (s.slotCount m w + 1)
    { z.1 with ca := { z.1.ca with tolerated := z.1.ca.tolerated + z.2 } }) s

/-! ### Slots (R390, R391, R395, R396) -/

/-- The slot whose time has come. -/
def State.startDue (s : State) : Option Nat :=
  let k := (s.ns - s.ca.anchor) / max 1 s.slotPer
  if s.ca.slot.isNone && decide (s.slotStart k ≤ s.ns ∧ s.ns < s.slotStart k + s.slotNominal k) then some k else none

/-- A slot takes its resources; a long one takes a wavelength of its link, where the link keeps another and no wavelength of it is
parked (R391, R395; 16 R352). -/
def State.beginSlot (s : State) (k : Nat) : State :=
  let m := s.slotMask k
  let s1 := s.countHeld m
  let l := field m 21 16
  let x := s1.link l
  let train := m.getLsbD 22 && x.up && decide (1 < x.width ∧ (s.pw.mstate = 0 ∨ s.pw.mstate = 1 ∧ x.width = x.good))
  let carried := if s1.ca.carried = 1 then 2 else s1.ca.carried
  let s2 : State := { s1 with ca := { s1.ca with
    slot := some k, extended := 0, carried := carried, tolerated := 0, retrain := if train then some l else none } }
  s2.settleWidth l

/-- SLOT_START (R391, R395). -/
def execSlotStart (s : State) : Host.Outcome State Fault Refusal :=
  match s.startDue with
  | none => .next s
  | some k => .next (s.beginSlot k)

/-- The slot in progress has reached its end as it is known (R390, R396). -/
def State.endDue (s : State) : Option Nat := s.ca.slot.bind fun k => if s.slotEndAt k ≤ s.ns then some k else none

/-- The slot-overrun records of a slot: one for each slot-strict launch with held transactions (R395). -/
def State.overrunRecords (s : State) (held : List (CmdId × Nat)) : State :=
  ((held.map fun h => h.1.handle).eraseDups).foldl (fun s h =>
    let mine := held.filter fun p => p.1.handle = h
    match s.launch? h, mine with
    | some l, p :: _ =>
      if l.recNat 27 1 % 2 = 1 then s.engineFault p.1 trapOverrun ((mine.map Prod.snd).sum) 255 0 else s
    | _, _ => s) s

/-- A slot ends: queued transactions are served, the overrun event and the slot-overrun records are posted, and ctl.slotstat is
written (R388, R395, R396). -/
def State.endSlot (s : State) (k : Nat) : State :=
  let s0 := (s.countTolerated (s.slotMask k)).retrained
  let held := (s0.ca.held.map fun h => h.2.2).sum
  let ext := s0.ca.extended
  let r := s0.sysGet SysReg.slotstat 0
  let ovr := (field r 23 0 + (if ext = 0 then 0 else 1)) % 2 ^ 24
  let stat := min 65535 held * 2 ^ 48 + min 65535 s0.ca.tolerated * 2 ^ 32 + min 255 ext * 2 ^ 24 + ovr
  let s1 := s0.sysPut SysReg.slotstat 0 (BitVec.ofNat 64 stat)
  let s2 := if ext = 0 then s1 else s1.postEvent 0 0 0x84 0 (bit (s.slotLong k)) ext (BitVec.ofNat 64 k) 0
  let s3 := s2.overrunRecords (s0.ca.held.map Prod.snd)
  let die := field (s.slotMask k) 9 8
  let carried := if s3.ca.carried = 2 then 0 else s3.ca.carried
  let monitor := if s.slotLong k then s3.ca.monitor.filter fun p => p.1 / 65536 ≠ die else s3.ca.monitor
  { s3 with ca := { s3.ca with
    slot := none, extended := 0, drain := false, past := some (k, ext), carried := carried, held := [], tolerated := 0,
    monitor := monitor, sampledAt := none, retrain := none } }

/-- SLOT_END (R395, R396). -/
def execSlotEnd (s : State) : Host.Outcome State Fault Refusal :=
  match s.endDue with
  | none => .next s
  | some k => ret (s.endSlot k)

/-- SLOT_EXTEND: housekeeping is unfinished at the slot's end: another 64 ns, or, at twice the nominal length, the work is carried
into the next slot, and work that had been carried into this one goes outside slots (R396; log 25). -/
def execSlotExtend (s : State) : Host.Outcome State Fault Refusal :=
  match s.endDue with
  | none => .next s
  | some k =>
    if 64 * (s.ca.extended + 1) ≤ s.slotNominal k then .next { s with ca := { s.ca with extended := s.ca.extended + 1 } }
    else
      let z := s.freeBelow 2
      let out := decide (s.ca.carried = 2 ∧ z.2 = 1)
      let s1 := if out then z.1.machineEvent 0 0 0 0x07 0 0 else z.1
      let outs := if out then s.ca.outs ++ [s.ca.carryMask] else s.ca.outs
      .next { s1 with ca := { s1.ca with carried := 1, carryMask := s.slotMask k, outs := outs } }

/-- CARRIED_WORK_PIECE: a piece of the oldest work outside slots, at most 64 ns; one of length 0 says that this work is finished
(R396). -/
def execCarriedWorkPiece (ns : Nat) (s : State) : Host.Outcome State Fault Refusal :=
  if s.ca.outs.isEmpty ∨ s.ca.slot.isSome ∨ 64 < ns ∨ s.ns < s.ca.pieceEnd then .next s
  else if ns = 0 then .next { s with ca := { s.ca with outs := s.ca.outs.drop 1 } }
  else .next { s with ca := { s.ca with pieceEnd := s.ns + ns } }

/-! ### Ring heaters (R392; 25 R442) -/

/-- The optical die, fibre and ring that sys.ringsel selects. -/
def State.ringDie (s : State) : Nat := field (s.sysGet SysReg.ringsel 0) 15 14
def State.ringFibre (s : State) : Nat := field (s.sysGet SysReg.ringsel 0) 13 10
def State.ringNum (s : State) : Nat := field (s.sysGet SysReg.ringsel 0) 4 0

/-- Where a ring's heater code, or a wavelength's ring, is kept. -/
def ringInst (die fibre n : Nat) : Nat := die * 512 + fibre * 32 + n

/-- The ring that carries a wavelength. -/
def State.ringOf (s : State) (die fibre w : Nat) : Nat := field (s.sysGet SysReg.ringmap (ringInst die fibre w)) 4 0

/-- A ring carries some wavelength. -/
def State.ringUsed (s : State) (die fibre ring : Nat) : Bool := (List.range 16).any fun w => s.ringOf die fibre w = ring

/-- Where a ring's monitor value is kept: 0 its detune, 1 its power. -/
def monitorKey (die fibre ring what : Nat) : Nat := 65536 * die + 4096 * what + 32 * fibre + ring

/-- A write of sys.ringht (R392). -/
def State.writeRinght (s : State) (v : Word64) : State :=
  if s.retuning s.ringDie then
    let s1 := s.sysPut SysReg.ringht (ringInst s.ringDie s.ringFibre s.ringNum) (BitVec.ofNat 64 (field v 9 0))
    { s1 with ca := { s1.ca with htErr := s1.ca.htErr && !v.getLsbD 63 } }
  else { s with ca := { s.ca with htErr := true } }

/-- A write of sys.ringmap: refused outside a window, for a wavelength above 15 or a ring above 17, or for a ring that carries
another wavelength (R392). A ring that receives a wavelength reads DETUNE 0 until it is sampled (R442). -/
def State.writeRingmap (s : State) (v : Word64) : State :=
  let die := s.ringDie
  let fibre := s.ringFibre
  let w := s.ringNum
  let r := field v 4 0
  let old := s.ringOf die fibre w
  if !s.retuning die ∨ 16 ≤ w ∨ 17 < r ∨ (r ≠ old ∧ s.ringUsed die fibre r) then { s with ca := { s.ca with mapErr := true } }
  else
    let s1 := s.sysPut SysReg.ringmap (ringInst die fibre w) (BitVec.ofNat 64 r)
    let monitor := if r = old then s1.ca.monitor else SMap.set 0 s1.ca.monitor (monitorKey die fibre r 0) 0
    { s1 with ca := { s1.ca with mapErr := s1.ca.mapErr && !v.getLsbD 63, monitor := monitor } }

/-- RINGHT_WRITE (R392). -/
def execRinghtWrite (v : Word64) (s : State) : Host.Outcome State Fault Refusal := .next (s.writeRinght v)

/-- RINGMAP_WRITE (R392). -/
def execRingmapWrite (v : Word64) (s : State) : Host.Outcome State Fault Refusal := .next (s.writeRingmap v)

/-- RING_MONITOR_SAMPLE: every ring of a die in a retune window is sampled. For each fibre and ring, 18 rings to a fibre, the
heater code that would centre the ring, and the power on its photodiode as a digit of a number to the base 65,536 (R442). -/
def execRingMonitorSample (die : Nat) (centre : List Nat) (power : Nat) (s : State) : Host.Outcome State Fault Refusal :=
  if 4 ≤ die ∨ !s.retuning die then .next s
  else
    let rings := (List.range 16).flatMap fun f => (List.range 18).map fun r => (f, r)
    let monitor := rings.foldl (fun m p =>
      let i := 18 * p.1 + p.2
      let code : Nat := field (s.sysGet SysReg.ringht (ringInst die p.1 p.2)) 9 0
      let detune := if s.ringUsed die p.1 p.2 then wrap 16 ((centre.getD i 0 : Int) - (code : Int)) else 0
      SMap.set 0 (SMap.set 0 m (monitorKey die p.1 p.2 0) detune) (monitorKey die p.1 p.2 1) (power / 65536 ^ i % 65536)) s.ca.monitor
    .next { s with freeCtr := s.freeCtr + 1, ca := { s.ca with monitor := monitor, sampledAt := some s.now } }

/-- The monitor's sample that is due now, as a retune window opens and every 64 ns in it: the die, with free measurements (R442; log 11). -/
def State.sampleDue (s : State) : Option (Nat × List Nat × Nat) :=
  if s.ca.sampledAt.any fun t => s.now < t + 768 then none
  else
    ((List.range 4).find? s.retuning).map fun die =>
      let bs := Config.freeBytes s.freeCtr 1152
      let at2 (i : Nat) : Nat := leNat ((bs.drop (2 * i)).take 2)
      (die, (List.range 288).map at2, (List.range 288).foldl (fun p i => p + at2 (288 + i) % 65536 * 65536 ^ i) 0)

/-- sys.ringmon as it reads (R392, R442). -/
def State.readRingmon (s : State) : Word64 :=
  let die := s.ringDie
  if s.retuning die then
    BitVec.ofNat 64 (2 ^ 32 + SMap.get 0 s.ca.monitor (monitorKey die s.ringFibre s.ringNum 0) % 65536 * 65536 +
      SMap.get 0 s.ca.monitor (monitorKey die s.ringFibre s.ringNum 1) % 65536)
  else 0

/-! ### slotq (R397, R398) -/

/-- Slot n at a time: the (n + 1)-th slot whose end as known is later (R398). -/
def State.slotAt (s : State) (t n : Nat) : Nat :=
  let k := (t - s.ca.anchor) / max 1 s.slotPer
  (if t < s.slotEndAt k then k else k + 1) + n

/-- What slotq writes (R398). -/
def State.slotInfo (s : State) (t which n : Nat) : Nat :=
  let k := s.slotAt t n
  let k0 := s.slotAt t 0
  match which with
  | 0 => s.slotStart k
  | 1 => bit (s.slotLong k) + 256 * k
  | 2 => s.slotNominal k
  | 3 => (s.slotMask k).toNat
  | 4 => s.slotEndAt k
  | _ => bit (decide (s.slotStart k0 ≤ t)) + 2 * bit (decide (s.slotStart k0 ≤ t + s.horizon)) + 4 * bit (!s.ca.staged.isEmpty) +
      256 * (s.slotSteps k0 % 256)

/-- slotq (R397, R398). -/
def execSlotq (q : QWord) (which n : Nat) (s : State) : Host.Outcome State Fault Refusal :=
  issueWith (.slotq q which n) 8 (fun is s =>
    some (is.writeAll s q.d 2 (s.slotInfo (s.gtime (s.cacheOf is.ctx)).toNat which n % 2 ^ 64))) s

end Sys2Proof.Machine
end

