-- ==== Sys2Proof/Machine/Registers.lean ====
section
/-! DEFINITION. The system registers as they read and as writes of them act, sysrd, syswr, and the column binding (19 R402; 04
R105, R106; and the register maps). -/

namespace Sys2Proof.Machine

/-! ### The column binding (04 R105, R106) -/

/-- The four fields of a value of sys.corebind. -/
def bindFields (v : Word64) : List Nat := (List.range 4).map fun i => field v (6 * i + 5) (6 * i)

/-- A write of a column's binding is refused (R106). -/
def State.bindRefused (s : State) (col : Nat) (v : Word64) : Bool :=
  let fs := bindFields v
  let present := fs.filter fun f => f ≠ 0x3F
  let others := ((List.range 8).map fun i => 8 * (col / 8) + i).filter fun c => c ≠ col
  let mine (l : Launch) : Bool := l.placed.getLsbD col || s.la.arenas.any fun a => decide (a.handle = l.handle ∧ a.core / 4 = col)
  (fs.any fun f => decide (34 ≤ f ∧ f ≤ 62)) || decide (present.eraseDups.length < present.length) ||
  (others.any fun c => (bindFields (s.sysGet SysReg.corebind c)).any fun f => decide (f ≠ 0x3F) && present.contains f) ||
  !(s.columnGangs col).isEmpty || (s.la.bins.any fun b => b.core / 4 = col) || s.la.launches.any mine ||
  s.la.frames.any fun f => match f.use with
    | .arena _ c _ _ => decide (c / 4 = col)
    | _ => false

/-- A write of sys.corebind at the die's binding unit (R106). -/
def State.writeBinding (s : State) (col : Nat) (v : Word64) : State :=
  let old := s.sysGet SysReg.corebind col
  if s.bindRefused col v then s.sysPut SysReg.corebind col (old ||| 0x8000000000000000)
  else s.sysPut SysReg.corebind col (maskWrite old v 0xFFFFFF 0x8000000000000000)

/-- CORBIND_WRITE (R106). -/
def execCorbindWrite (col : Nat) (v : Word64) (s : State) : Host.Outcome State Fault Refusal :=
  if col < 64 then .next (s.writeBinding col v) else .next s

/-! ### Weight states (09 R223) -/

/-- A write of sys.wsstate0 or sys.wsstate1: the request is recorded, and waits for the launches accepted before it. -/
def State.writeWsstate (s : State) (half col : Nat) (v : Word64) : State :=
  let s1 := s.sysPut (SysReg.wsstate0 + half) 0 v
  { s1 with ms := { s1.ms with wsPend := s1.ms.wsPend ++ [⟨half, v, col, s1.la.launches.map Launch.handle⟩] } }

/-- The change of a half that may take effect now: its oldest, once the launches before it have retired. -/
def State.wsDue (s : State) (half : Nat) : Option WsChange :=
  (s.ms.wsPend.find? fun w => w.half = half).bind fun w =>
    if w.before.any fun h => (s.launch? h).isSome then none else some w

/-- WSSTATE_TAKE_EFFECT: a requested change of weight states is in effect, and its writer is told (R223; 19 R408). -/
def execWsstateTakeEffect (half : Nat) (s : State) : Host.Outcome State Fault Refusal :=
  match s.wsDue half with
  | none => .next s
  | some w =>
    let s1 : State := { s with ms := { s.ms with
      wsEff := SMap.set 0 s.ms.wsEff half w.value, wsPend := s.ms.wsPend.erase w } }
    ret (s1.postEvent w.col w.col 0x83 0 0 0 w.value (BitVec.ofNat 64 (SysReg.wsstate0 + half)))

/-! ### Reading (R402) -/

/-- The error log that sys.errsel selects; none for an array 10-15 (19 R412). -/
def State.errInst (s : State) : Option Nat :=
  let r := s.sysGet SysReg.errsel 0
  let arr := field r 3 0
  if 10 ≤ arr then none else some (64 * field r 11 6 + (if arr ≤ 3 ∨ arr = 9 then 16 * field r 5 4 else 0) + arr)

/-- The queue that sys.evqsel selects (19 R404). -/
def State.evqIdx (s : State) : Nat := field (s.sysGet SysReg.evqsel 0) 7 0

/-- ctl.pmstat (20 R418). -/
def State.pmstat (s : State) (col : Nat) : Word64 :=
  BitVec.ofNat 64 (s.cstate col + 16 * s.qs col + 256 * bit (decide (s.pw.mstate = 1)) + 2048 * bit (SMap.get false s.pw.fast col))

/-- A link's register (16 R353). -/
def State.linkWord (s : State) (l : Nat) : Word64 :=
  let x := s.link l
  BitVec.ofNat 64 (2 ^ 63 * bit x.up + 2 ^ 62 * bit x.err + 2 ^ 30 * (x.peer % 1024) + 2 ^ 8 * (x.minw % 64) + x.width % 64)

/-- ctl.ashape as a column core reads it: the copy of the lowest present core of its column, or the reset values (12 R275). -/
def State.ashapeOf (s : State) (col : Nat) : Word64 :=
  match (s.coresOf col).head? with
  | some k => s.ashapeRead k
  | none => sysReset SysReg.ashape 0

/-- sys.drent0 and sys.drent1 of the selected entry (15 R328). -/
def State.drentWord (s : State) (n : Nat) : Word64 :=
  let r := s.driftEntry s.driftIdx
  if n = 0 then BitVec.ofNat 64 (2 ^ 63 * bit r.valid + 2 ^ 62 * r.fmt + r.base)
  else BitVec.ofNat 64 (2 ^ 32 * r.lim.toNat + r.size)

/-- A register as a supervisor of a column reads it; `free` stands for what no map gives (R402; log 11). -/
def State.readSys (s : State) (reg col : Nat) (free : Nat) : Word64 :=
  if reg = SysReg.gtime then s.sliceTime col
  else if reg = SysReg.fpflags then (s.ctx (.cc col)).fp.setWidth 64
  else if reg ≤ SysReg.uepw ∨ reg = SysReg.lease ∨ reg = SysReg.lattol ∨ reg = SysReg.corebind ∨ reg = SysReg.bintmo ∨
      reg = SysReg.frmpool then s.sysGet reg col
  else if reg = SysReg.slotper then s.sysGet reg 0 ||| BitVec.ofNat 64 (2 ^ 63 * bit (!s.ca.staged.isEmpty))
  else if reg = SysReg.pmstat then s.pmstat col
  else if reg = SysReg.wake then 0
  else if reg = SysReg.drent0 then s.drentWord 0
  else if reg = SysReg.drent1 then s.drentWord 1
  else if reg = SysReg.ashape then s.ashapeOf col
  else if reg = SysReg.lswitch then s.sysGet reg 0 ||| BitVec.ofNat 64 (2 ^ 30 * bit s.la.switch.isSome)
  else if reg = SysReg.evqbase ∨ reg = SysReg.evqctl then s.sysGet reg s.evqIdx
  else if reg = SysReg.errlog0 ∨ reg = SysReg.errlog1 then
    (match s.errInst with
     | some i => s.sysGet reg i
     | none => 0)
  else if SysReg.lnk0 ≤ reg ∧ reg < SysReg.lnk0 + 32 then s.linkWord (reg - SysReg.lnk0)
  else if reg = SysReg.ringht then
    s.sysGet reg (ringInst s.ringDie s.ringFibre s.ringNum) ||| BitVec.ofNat 64 (2 ^ 63 * bit s.ca.htErr)
  else if reg = SysReg.ringmon then s.readRingmon
  else if reg = SysReg.ringmap then
    let r := if s.ringNum < 16 then s.ringOf s.ringDie s.ringFibre s.ringNum else free % 32
    BitVec.ofNat 64 (r + 2 ^ 63 * bit s.ca.mapErr)
  else s.sysGet reg 0

/-- A register as an agent reads it: a gang has flags and a shape register of its own (01 R29; 12 R275). -/
def State.readReg (s : State) (c : CtxId) (reg : Nat) : State × Word64 :=
  let v := match c with
    | .gang _ =>
      if reg = SysReg.fpflags then (s.ctx c).fp.setWidth 64
      else if reg = SysReg.ashape then s.ashapeRead (s.ctx c).core
      else if reg = SysReg.gtime then s.gtime (s.cacheOf c)
      else s.readSys reg (s.colOf c) 0
    | .cc n => s.readSys reg n (Config.freeWord s.freeCtr).toNat
  ({ s with freeCtr := s.freeCtr + 1 }, v)

/-! ### Writing -/

/-- sys.govctl: a TJ outside 60-110 keeps its value (20 R421). -/
def State.writeGovctl (s : State) (v : Word64) : State :=
  let old := s.sysGet SysReg.govctl 0
  let tj := field v 47 40
  let keep : Word64 := if 60 ≤ tj ∧ tj ≤ 110 then 0x0000FF0000000000 else 0
  s.sysPut SysReg.govctl 0 (maskWrite old v (0x80000000FFFF0000 ||| keep) 0)

/-- sys.migctl: the epochs begin when migration is enabled (09 R218, R219). -/
def State.writeMigctl (s : State) (v : Word64) : State :=
  let old := s.sysGet SysReg.migctl 0
  let s1 := s.sysPut SysReg.migctl 0 (v &&& 0x800000FFFFFFFFFF)
  if v.getLsbD 63 && !old.getLsbD 63 then
    { s1 with ms := { s1.ms with epochs := (List.range 64).foldl (fun m c => SMap.set 0 m c s1.ns) s1.ms.epochs } }
  else s1

/-- sys.pbctl: a write that sets EN with too low a limit is ignored (16 R361). -/
def State.writePbctl (s : State) (v : Word64) : State :=
  if v.getLsbD 63 ∧ field v 62 43 < 250 * (field v 42 37 + 1) then s
  else s.sysPut SysReg.pbctl 0 (maskWrite (s.sysGet SysReg.pbctl 0) v 0xFFFFFFE000000000 0)

/-- sys.frmpool of a column: ignored while a frame of the pool is in use (17 R372). -/
def State.writeFrmpool (s : State) (col : Nat) (v : Word64) : State :=
  if s.la.frames.any fun f => f.col = col then s else s.sysPut SysReg.frmpool col (v &&& 0xFFFFFFFFFFFE0000)

/-- sys.evqbase of the selected queue: ignored while it is enabled; SIZE 9-15 is 8 (19 R404). -/
def State.writeEvqbase (s : State) (v : Word64) : State :=
  if s.evqOn s.evqIdx then s
  else s.sysPut SysReg.evqbase s.evqIdx (setField (v &&& 0x0000FFFFFFFFF00F) 3 0 (min 8 (field v 3 0)))

/-- HEAD of a queue written: a throttle record that waits for room may be posted (19 R404; 17 R384). -/
def State.movedHead (s : State) (q : Nat) : State := if q < 64 then s.flushThrottle q else s

/-- sys.evqctl of the selected queue: a write that changes OWNER while it is enabled is ignored (19 R404). -/
def State.writeEvqctl (s : State) (v : Word64) : State :=
  let q := s.evqIdx
  let old := s.sysGet SysReg.evqctl q
  if old.getLsbD 63 ∧ field v 59 54 ≠ field old 59 54 then s
  else (s.sysPut SysReg.evqctl q (maskWrite old v 0xBFFFF8000000FFFF 0x4000000000000000)).movedHead q

/-- The selected log is cleared where V is written 1 (19 R412). -/
def State.clearErrlog (s : State) (i : Nat) : State := (s.sysPut SysReg.errlog0 i 0).sysPut SysReg.errlog1 i 0

/-- A link's register: ERR clears, and MINW takes a width 1-32 (16 R353). -/
def State.writeLink (s : State) (l : Nat) (v : Word64) : State :=
  let x := s.link l
  let w := field v 13 8
  s.putLink l { x with err := x.err && !v.getLsbD 62, minw := if 1 ≤ w ∧ w ≤ 32 then w else x.minw }

/-- sys.ringsel: a RING of 18-31 is not taken (18 R392). -/
def State.writeRingsel (s : State) (v : Word64) : State :=
  s.sysPut SysReg.ringsel 0 (maskWrite (s.sysGet SysReg.ringsel 0) v (if field v 4 0 < 18 then 0xFC1F else 0xFC00) 0)

/-- A write of a register by a column core at supervisor level, where nothing but the register and what its rule names follows
(R402). Read-only registers are left alone. -/
def State.writeReg (s : State) (reg col : Nat) (v : Word64) : State :=
  if reg = SysReg.cstat then s.sysPut reg col (v &&& 1)
  else if reg = SysReg.svec ∨ reg = SysReg.uepc then s.sysPut reg col (v &&& 0x00FFFFFFFFFFFFF0)
  else if reg = SysReg.uepw then s.sysPut reg col (v &&& 0x3FF)
  else if reg = SysReg.fpflags then s.modCtx (.cc col) fun c => { c with fp := c.fp &&& ~~~(v.setWidth 6) }
  else if reg = SysReg.lease ∨ reg = SysReg.bintmo then s.sysPut reg col (v &&& 0xFFFF)
  else if reg = SysReg.quiet then s.sysPut reg 0 (v &&& 0xFFFF)
  else if SysReg.slotper ≤ reg ∧ reg ≤ SysReg.horizon then s.writeCalendar reg v
  else if reg = SysReg.lattol then s.sysPut reg col (v &&& 0xFFFFFFFF)
  else if reg = SysReg.mlattol then s.writeMlattol v
  else if reg = SysReg.wake then s.wakeWrite v false
  else if reg = SysReg.govctl then s.writeGovctl v
  else if reg = SysReg.ptroot then s.sysPut reg 0 (v &&& 0x0000FFFFFFFFE000)
  else if reg = SysReg.migctl then s.writeMigctl v
  else if reg = SysReg.migpool ∨ reg = SysReg.rmap then
    (if (s.sysGet SysReg.migctl 0).getLsbD 63 then s
     else s.sysPut reg 0 (v &&& (if reg = SysReg.migpool then 0xFFFF3FFFFFFF0000 else 0x0000FFFFFFFF0000)))
  else if reg = SysReg.wsstate0 then s.writeWsstate 0 col v
  else if reg = SysReg.wsstate1 then s.writeWsstate 1 col v
  else if reg = SysReg.drsel then s.sysPut reg 0 (maskWrite (s.sysGet reg 0) v 0x3F 0x8000000000000000)
  else if reg = SysReg.drent0 then (if v.getLsbD 63 then s.commitDrift v else s.retireDrift)
  else if reg = SysReg.drent1 then { s with dr := { s.dr with staged := v &&& 0xFFFFFFFF0FFFFFFF } }
  else if reg = SysReg.pod then s.sysPut reg 0 (v &&& 0x03FFFFFFFFFFF800)
  else if reg = SysReg.pbctl then s.writePbctl v
  else if reg = SysReg.pbtab then s.sysPut reg 0 (v &&& 0x0000FFFFFFFFFF80)
  else if reg = SysReg.corebind then s.writeBinding col v
  else if reg = SysReg.lprio then s.lprioWrite v
  else if reg = SysReg.lswitch then s.lswitchWrite col v
  else if reg = SysReg.frmpool then s.writeFrmpool col v
  else if reg = SysReg.evqsel then s.sysPut reg 0 (maskWrite (s.sysGet reg 0) v 0xFF 0)
  else if reg = SysReg.evqbase then s.writeEvqbase v
  else if reg = SysReg.evqctl then s.writeEvqctl v
  else if reg = SysReg.errsel then s.sysPut reg 0 (v &&& 0xFFF)
  else if reg = SysReg.errlog0 then
    (match s.errInst with
     | some i => if v.getLsbD 63 then s.clearErrlog i else s
     | none => s)
  else if SysReg.lnk0 ≤ reg ∧ reg < SysReg.lnk0 + 32 then s.writeLink (reg - SysReg.lnk0) v
  else if reg = SysReg.ringsel then s.writeRingsel v
  else if reg = SysReg.ringht then s.writeRinght v
  else if reg = SysReg.ringmap then s.writeRingmap v
  else s

/-! ### sysrd and syswr (R401, R402) -/

/-- The lanes of an instruction that its level does not allow take the privileged-operation trap (R402; 03 R78). -/
def Issue.privilegeTrap (is : Issue) (s : State) : Done :=
  .held (s.takeTrap is.ctx is.act (.plain trapPrivileged) is.h is.hdr is.idx) is.act

/-- A floating result of the agent is still on its way (01 R30). -/
def Ctx.floating (c : Ctx) : Bool := c.wbs.any WB.fp

/-- sysrd (R402; 01 R30). -/
def sysrdEff (q : QWord) (reg : Nat) (b32 : Bool) (is : Issue) (s : State) : Option Done :=
  if !s.isSup is.ctx && !userReads reg then some (is.privilegeTrap s)
  else if reg = SysReg.fpflags ∧ is.c.floating then none
  else
    let r := s.readReg is.ctx reg
    some (is.writeAll r.1 q.d (if b32 then 1 else 2) r.2.toNat)

def execSysrd (q : QWord) (reg : Nat) (b32 : Bool) (s : State) : Host.Outcome State Fault Refusal :=
  issueWith (.sysrd q reg b32) 8 (sysrdEff q reg b32) s

/-- A write of sys.cstat that clears SUP: the column core goes on at user level at the saved PC (19 R400). -/
def State.toUser (s : State) (n : Nat) : State :=
  let s1 := s.sysPut SysReg.cstat n 0
  let idx := (s1.sysGet SysReg.uepw n).toNat
  s1.modCtx (.cc n) fun c => c.modLane 0 fun x =>
    { (x.moveTo (s1.sysGet SysReg.uepc n)) with idx := idx, fresh := decide (idx = 0), hw := none }

/-- A syswr of sys.drent0 that retires a valid entry waits until every holder has acknowledged (15 R329). -/
def retireEff (is : Issue) (s : State) : Done :=
  let i := s.driftIdx
  if (s.driftEntry i).valid then .held ((s.block is is.path fun _ => .retire i).retireDrift) is.path else .next s

/-- syswr, by the source lane's value (R402). -/
def syswrEff (q : QWord) (reg : Nat) (b32 : Bool) (is : Issue) (s : State) : Option Done :=
  (lowestLane is.act).map fun l =>
    let v : Word64 := BitVec.ofNat 64 (is.src s (!b32) q.a l)
    if !s.isSup is.ctx && !userWrites reg then is.privilegeTrap s
    else if reg = SysReg.ashape then .next s
    else if reg = SysReg.fpflags then .next (s.modCtx is.ctx fun c => { c with fp := c.fp &&& ~~~(v.setWidth 6) })
    else
      let col := s.colOf is.ctx
      if reg = SysReg.cstat ∧ !v.getLsbD 0 then .held (s.toUser col) is.path
      else if reg = SysReg.drent0 ∧ !v.getLsbD 63 then retireEff is s
      else .next (s.writeReg reg col v)

def execSyswr (q : QWord) (reg : Nat) (b32 : Bool) (s : State) : Host.Outcome State Fault Refusal :=
  issueWith (.syswr q reg b32) 0 (syswrEff q reg b32) s

end Sys2Proof.Machine
end

