-- ==== Sys2Proof/Machine/System.lean ====
section
/-! DEFINITION. System instructions and their events: TLB maintenance, event queues, settling traps, stopping, cache operations,
error logs and injection (19 R401-R413, R415; 06 R45). -/

namespace Sys2Proof.Machine

/-! ### TLB maintenance (R403) -/

/-- Every TLB of the module: 256 cores' and 64 slices'. -/
def allTlbs : List Nat := List.range 320

/-- An invalidation sent to every TLB. -/
def State.sendInv (s : State) (c : CtxId) (form va : Nat) : State :=
  { s with opId := s.opId + 1, ms := { s.ms with invs := s.ms.invs ++ [⟨s.opId, form, va, c, allTlbs, 0⟩] } }

/-- tlbinv.page: nothing for an address outside the address space. -/
def execTlbinvPage (t : TWord) (s : State) : Host.Outcome State Fault Refusal :=
  issueWith (.tlbinvPage t) 0 (fun is s => (lowestLane is.act).map fun l =>
    let va := is.src s true t.a l
    .next (if va < 2 ^ 56 then s.sendInv is.ctx 0 va else s)) s

def execTlbinvNonglobal (t : TWord) (s : State) : Host.Outcome State Fault Refusal :=
  issueWith (.tlbinvNonglobal t) 0 (fun is s => some (.next (s.sendInv is.ctx 1 0))) s

def execTlbinvAll (t : TWord) (s : State) : Host.Outcome State Fault Refusal :=
  issueWith (.tlbinvAll t) 0 (fun is s => some (.next (s.sendInv is.ctx 2 0))) s

/-- An entry of a TLB that an invalidation names. -/
def TlbInv.names (v : TlbInv) (t : TlbEntry) : Bool :=
  match v.form with
  | 0 => decide (t.va ≤ v.va ∧ v.va < t.va + 2 ^ t.bits)
  | 1 => !t.toLeaf.glob
  | _ => true

/-- TLB_INVALIDATION_ARRIVE: an invalidation reaches one TLB. -/
def execTlbInvalidationArrive (tlb which : Nat) (s : State) : Host.Outcome State Fault Refusal :=
  match s.ms.invs.find? fun v => decide (v.id = which) && v.tlbs.contains tlb with
  | none => .next s
  | some v =>
    let w : TlbInv := { v with tlbs := v.tlbs.erase tlb, upto := s.opId }
    .next { s with ms := { s.ms with
      tlb := s.ms.tlb.filter fun t => decide (t.tlb ≠ tlb) || !v.names t
      invs := s.ms.invs.map fun x => if x.id = which then w else x } }

/-- A thread's invalidations have reached every TLB, and the accesses that were under way then are over. -/
def State.invsDone (s : State) (c : CtxId) : Bool :=
  (s.ms.invs.filter fun v => v.by_ = c).all fun v =>
    v.tlbs.isEmpty && !(s.ms.ops.any fun o => o.id < v.upto) && !(s.ms.fwd.any fun f => decide (f.op < v.upto) && !f.stage.doneAt .module)

/-- tlbsync: it holds its thread until then; waits for pages end with it (R403; 17 R376). -/
def tlbsyncEff (is : Issue) (s : State) : Option Done :=
  if s.invsDone is.ctx then
    let s1 : State := { s with ms := { s.ms with invs := s.ms.invs.filter fun v => v.by_ ≠ is.ctx } }
    some (.next (s1.endPages fun _ => true))
  else none

def execTlbsync (t : TWord) (s : State) : Host.Outcome State Fault Refusal :=
  issueWith (.tlbsync t) 0 tlbsyncEff s

/-! ### Event queues (R404-R407) -/

/-- evq.pop: the entry at HEAD, or zeros (R406); its read waits where a slot holds it (18 R394). -/
def evqPopEff (t : TWord) (is : Issue) (s : State) : Option Done :=
  (lowestLane is.act).bind fun l =>
    let q := is.src s false t.a l
    if 256 ≤ q ∨ field (s.sysGet SysReg.evqctl q) 59 54 ≠ s.colOf is.ctx ∨ !s.evqOn q then some (is.sourceTrap s l trapQueue 255 0)
    else
      let put (s : State) (v : Nat) : State := s.land is.ctx ((lanesOf is.act).flatMap fun k => dstPut t.d 8 k v)
      if s.evqUsed q = 0 then some (.next (put s 0))
      else
        let a := s.evqEntry q (s.evqHead q)
        if !okRange a 32 then some (.next { s with stuck := some .absentMemory })
        else if s.lineHeld (s.cacheOf is.ctx) .nc a 32 then none
        else
          let s1 := put ((s.readHome a 32).acquire is.ctx .module) (s.hwNat a 32)
          let ctl := s1.sysGet SysReg.evqctl q
          some (.next ((s1.sysPut SysReg.evqctl q (setField ctl 15 0 ((field ctl 15 0 + 1) % 65536))).movedHead q))

def execEvqPop (t : TWord) (s : State) : Host.Outcome State Fault Refusal := issueWith (.evqPop t) 0 (evqPopEff t) s

/-- The register a word's DST names, read as a source. -/
def dstSrc (d : Dst) : Nat :=
  match d with
  | .g n => n
  | _ => 0

/-- evq.post: the checks of R407 in their order, and the record, once what the lane releases has been performed. -/
def evqPostEff (t : TWord) (is : Issue) (s : State) : Option Done :=
  (lowestLane is.act).bind fun l =>
    let q := is.src s false t.a l
    let sup := s.isSup is.ctx
    if 256 ≤ q then some (is.sourceTrap s l trapQueue 255 0)
    else if !sup && !(s.sysGet SysReg.evqctl q).getLsbD 61 then some (.held (s.takeTrap is.ctx is.act (.plain trapPrivileged) is.h is.hdr is.idx) is.act)
    else if !s.evqOn q then some (is.sourceTrap s l trapQueue 255 0)
    else if !s.released is.ctx (1#64 <<< l) .module then s.drainFirst is (1#64 <<< l) .module
    else
      let r := dstSrc t.d
      let a : Word64 := BitVec.ofNat 64 (is.c.pair l r)
      let b : Word64 := BitVec.ofNat 64 (is.c.pair l (r + 2))
      some (.next (s.postEvent q (s.colOf is.ctx) 0x88 0 0 (is.c.lane l).tid.toNat a b))

def execEvqPost (t : TWord) (s : State) : Host.Outcome State Fault Refusal := issueWith (.evqPost t) 0 (evqPostEff t) s

/-- EVQ_OVERFLOW_POST: a record that waits in a column's overflow store is posted; where its queue has been disabled, as R405
says of such a queue (R405). -/
def execEvqOverflowPost (col : Nat) (s : State) : Host.Outcome State Fault Refusal :=
  match s.ovfNext col with
  | none => .next s
  | some r =>
    let s1 : State := { s with ev := { s.ev with ovf := s.ev.ovf.erase r } }
    if s.evqOn r.queue then ret (s1.evqWrite r.queue col r.bytes)
    else if s.evqOn col then ret (s1.evqOffer col col r.bytes)
    else .next (s1.evqDrop none)

/-- EVQ_HEAD_HOST_WRITE: the host writes HEAD of a queue; in M2 the port does not serve it (R404; 20 R422). -/
def execEvqHeadHostWrite (q head : Nat) (s : State) : Host.Outcome State Fault Refusal :=
  if 256 ≤ q ∨ s.pw.mstate = 2 then .next s
  else
    ret ((s.sysPut SysReg.evqctl q (setField (s.sysGet SysReg.evqctl q) 15 0 (head % 65536))).movedHead q)

/-! ### Settling traps and stopping (R409, R410, R415) -/

/-- trapret: its status on every participant (R409). -/
def trapretEff (t : TWord) (act : Nat) (is : Issue) (s : State) : Option Done :=
  (lowestLane is.act).map fun l =>
    let r := s.trapret (is.src s false t.a l) (is.src s false t.b l) act
    .next (r.1.land is.ctx ((lanesOf is.act).flatMap fun k => dstPut t.d 1 k r.2))

def execTrapretResume (t : TWord) (s : State) : Host.Outcome State Fault Refusal :=
  issueWith (.trapretResume t) 0 (trapretEff t 0) s

def execTrapretSkip (t : TWord) (s : State) : Host.Outcome State Fault Refusal :=
  issueWith (.trapretSkip t) 0 (trapretEff t 1) s

def execTrapretEnd (t : TWord) (s : State) : Host.Outcome State Fault Refusal :=
  issueWith (.trapretEnd t) 0 (trapretEff t 2) s

/-- halt (R410). -/
def execHalt (t : TWord) (s : State) : Host.Outcome State Fault Refusal :=
  issueWith (.halt t) 0 (fun is s => some (.next (s.modCtx is.ctx fun c => { c with run := .halted }))) s

/-- wfi: it goes on at once where the core's own queue is not empty (R410). -/
def execWfi (t : TWord) (s : State) : Host.Outcome State Fault Refusal :=
  issueWith (.wfi t) 0 (fun is s =>
    some (.next (if s.evqUsed (s.colOf is.ctx) = 0 then s.modCtx is.ctx fun c => { c with run := .wfi } else s))) s

/-- brk: the breakpoint trap, or the lanes held for the debugger (R415; 20 R432). -/
def execBrk (q : QWord) (code : Nat) (s : State) : Host.Outcome State Fault Refusal :=
  issueWith (.brk q code) 0 (fun is s =>
    let n := code % 2 ^ 24
    match is.ctx with
    | .gang g =>
      if s.hob then some (.held (s.debugHold is.ctx g is.act n is.hdr is.idx false) is.act)
      else some (.held (s.takeTrap is.ctx is.act { TrapInfo.plain trapBreakpoint with code := n } is.h is.hdr is.idx) is.act)
    | .cc k =>
      if s.hob then some (.held (s.holdCore k n is.h is.hdr is.idx) is.act)
      else some (.held (s.takeTrap is.ctx is.act { TrapInfo.plain trapBreakpoint with code := n } is.h is.hdr is.idx) is.act)) s

/-! ### Cache operations (R411) -/

/-- clop.iinv: one line leaves every instruction cache. -/
def execClopIinv (q : QWord) (s : State) : Host.Outcome State Fault Refusal :=
  issueWith (.clopIinv q) 0 (fun is s => (lowestLane is.act).map fun l =>
    let line := is.src s true q.a l / 128
    .next { s with ms := { s.ms with icache := s.ms.icache.filter fun p => p.1 % 2 ^ 49 ≠ line } }) s

/-- A cache operation of the supervisor's. -/
def clopEff (f : State → Nat → State) (is : Issue) (s : State) : Option Done :=
  if s.isSup is.ctx then some (.next (f s (s.colOf is.ctx))) else some (is.privilegeTrap s)

def execClopIall (q : QWord) (s : State) : Host.Outcome State Fault Refusal :=
  issueWith (.clopIall q) 0 (clopEff fun s _ => { s with ms := { s.ms with icache := [] } }) s

/-- The dirty words of a column's L1s written home; the lines kept clean, or dropped. -/
def State.cleanL1s (s : State) (col : Nat) (drop : Bool) : State :=
  let mine (l : L1Line) : Bool := decide (l.cache / 5 = col)
  let s1 := (s.ms.l1.filter mine).foldl (fun s l => s.flushBytes l.dirty) s
  let left := if drop then s1.ms.l1.filter fun l => !mine l
    else s1.ms.l1.map fun l => if mine l then { l with dirty := [] } else l
  { s1 with ms := { s1.ms with l1 := left } }

def execClopL1wb (q : QWord) (s : State) : Host.Outcome State Fault Refusal :=
  issueWith (.clopL1wb q) 0 (clopEff fun s col => s.cleanL1s col false) s

def execClopL1inv (q : QWord) (s : State) : Host.Outcome State Fault Refusal :=
  issueWith (.clopL1inv q) 0 (clopEff fun s col => s.cleanL1s col true) s

/-! ### Errors (R412, R413) -/

/-- Arrays with a log for each core. -/
def perCoreArr (arr : Nat) : Bool := decide (arr ≤ 3 ∨ arr = 9)

/-- errinj: the selected column's log of an array is armed with one injection, or disarmed (R413). -/
def errinjEff (q : QWord) (arr mode bt : Nat) (is : Issue) (s : State) : Option Done :=
  (lowestLane is.act).map fun l =>
    let col := field (s.sysGet SysReg.errsel 0) 11 6
    let core := if perCoreArr arr then is.src s false q.b l % 4 else 0
    let others := s.ev.inject.filter fun i => !decide (i.arr = arr ∧ i.col = col ∧ i.core = core ∧ i.stage = 0)
    let armed : List Inject := if mode = 0 then [] else [⟨arr, col, core, is.src s true q.a l, mode, bt, 0, 0⟩]
    .next { s with ev := { s.ev with inject := others ++ armed } }

def execErrinjFlip1 (q : QWord) (arr bt : Nat) (s : State) : Host.Outcome State Fault Refusal :=
  issueWith (.errinjFlip1 q arr bt) 0 (errinjEff q arr 1 bt) s

def execErrinjFlip2 (q : QWord) (arr bt : Nat) (s : State) : Host.Outcome State Fault Refusal :=
  issueWith (.errinjFlip2 q arr bt) 0 (errinjEff q arr 2 bt) s

def execErrinjDisarm (q : QWord) (arr bt : Nat) (s : State) : Host.Outcome State Fault Refusal :=
  issueWith (.errinjDisarm q arr bt) 0 (errinjEff q arr 0 bt) s

/-- The number of an error log. -/
def errlogInst (arr col core : Nat) : Nat := 64 * col + (if perCoreArr arr then 16 * core else 0) + arr

/-- An error entered in its log: the first with its syndrome, context and location, the others counted (R412). -/
def State.logError (s : State) (inst loc : Nat) (uc : Bool) (synd : Byte) (gid : Word) : State :=
  let e := s.sysGet SysReg.errlog0 inst
  if e.getLsbD 63 then
    let e1 := setField e 55 40 (min 65535 (field e 55 40 + 1))
    s.sysPut SysReg.errlog0 inst (if uc then setField e1 61 61 1 else e1)
  else
    let v := 2 ^ 63 + 2 ^ 62 * bit uc + 2 ^ 32 * synd.toNat + gid.toNat
    (s.sysPut SysReg.errlog0 inst (BitVec.ofNat 64 v)).sysPut SysReg.errlog1 inst (BitVec.ofNat 64 (loc % 2 ^ 48))

/-- What an error in a cache's tracker or pending entry does: the region's drain, whose end returns the share, and the loss of the entry's
line where the error is uncorrectable (15 R340). -/
def State.trackerError (s : State) (cache loc : Nat) (uc : Bool) : State :=
  match s.tracker? cache (loc / 4096) with
  | some t =>
    let line := ((t.pend[loc % 4096]?).map fun p => p.1 / 128)
    let u : Tracker := { t with pend := if uc then t.pend.filter fun p => some (p.1 / 128) ≠ line else t.pend, ends := true }
    if t.draining then s.putTracker u else s.beginDrain u
  | none => s

/-- What an error in an array does beside its log (12 R287; 15 R340). Which stage of the pair an offset lies in is not given: a
free value (log 23). -/
def State.errorEffect (s : State) (arr col core loc : Nat) (uc : Bool) : State :=
  if arr = 8 then s.trackerError (5 * col + core) loc uc
  else if arr = 9 ∧ uc then
    let z := s.freeBelow 2
    let k := 2 * (4 * col + core) + z.2
    let t := SMap.get Stage2.reset z.1.mx.stages k
    { z.1 with mx := { z.1.mx with stages := SMap.set Stage2.reset z.1.mx.stages k { t with poison := true } } }
  else s

/-- ERROR_DETECTED: an error is logged, its column core is told, and its array acts (R412); one of a tracker names its cache by `core`, 4
the slice. An error that an injection brought
ends the injection (R413). -/
def execErrorDetected (arr col core loc : Nat) (uc : Bool) (synd : Byte) (gid : Word) (s : State) :
    Host.Outcome State Fault Refusal :=
  if 10 ≤ arr ∨ 64 ≤ col ∨ (if arr = 8 then 5 else 4) ≤ core then .next s
  else
    let inst := errlogInst arr col core
    let first := !(s.sysGet SysReg.errlog0 inst).getLsbD 63
    let done (i : Inject) : Bool := decide (i.stage = 2 ∧ i.arr = arr ∧ i.col = col ∧ i.loc = loc ∧ (perCoreArr arr → i.core = core))
    let s0 : State := { s with freeCtr := s.freeCtr + 1 }
    let s1 := (s0.logError inst loc uc synd gid).errorEffect arr col core loc uc
    let s2 : State := { s1 with ev := { s1.ev with inject := s1.ev.inject.filter fun i => !done i } }
    let a : Word64 := BitVec.ofNat 64 loc
    let b := s2.sysGet SysReg.errlog0 inst
    ret (if uc then s2.machineEvent col col 1 0x02 a b else if first then s2.machineEvent col col 0 0x01 a b else s2)

/-- ERRLOG_CLEAR: clearing V clears the whole log (R412). -/
def execErrlogClear (col core arr : Nat) (s : State) : Host.Outcome State Fault Refusal :=
  if 10 ≤ arr ∨ 64 ≤ col ∨ 4 ≤ core then .next s else .next (s.clearErrlog (errlogInst arr col core))

/-- The injected error that has been read and not yet reported, with a free syndrome (R413; log 11). -/
def State.errorDue (s : State) : Option (Inject × Byte) :=
  (s.ev.inject.find? fun i => i.stage = 2).map fun i => (i, (Config.freeWord s.freeCtr).setWidth 8)

/-! ### The Bangle (09 R224) -/

/-- The packet of an operation reaches its endpoint now, where it was still on its way. -/
def State.arriveNow (s : State) (pkt : Nat) : State :=
  { s with ms := { s.ms with ops := s.ms.ops.map fun o => if o.id = pkt ∧ s.now < o.due then { o with due := s.now } else o } }

/-- GOLDEN_ROTATE: a loop makes another packet golden, 1.6 µs after the last; it wins every arbitration from then on (R224). -/
def execGoldenRotate (loop pkt : Nat) (s : State) : Host.Outcome State Fault Refusal :=
  if (SMap.get none s.ms.golden loop).any fun q => decide (s.ns < q.2 + 1600) then .next s
  else .next (({ s with ms := { s.ms with golden := SMap.set none s.ms.golden loop (some (pkt, s.ns)) } } : State).arriveNow pkt)

/-- BANGLE_DELIVER: the packet of an operation reaches its endpoint, where the operation may be served (R224). -/
def execBangleDeliver (pkt : Nat) (s : State) : Host.Outcome State Fault Refusal :=
  .next (s.arriveNow pkt)

end Sys2Proof.Machine
end

