-- ==== Sys2Proof/Machine/Choose.lean ====
section
/-! DEFINITION. The choice of the paths that issue (06 R143-R146, R152-R154), and the passing of time (logs 1, 2). -/

namespace Sys2Proof

/-- The issue kinds (03 R75; 06 R146, R161). -/
inductive IssueKind
  | alu | memory | engine | control | system
  deriving DecidableEq, Repr

/-- The issue kind of a word by its class and op. -/
def issueKind (cls op : Nat) : IssueKind :=
  if cls ≤ 5 then .alu else if cls ≤ 8 then .memory else if cls = 9 then .engine
  else if cls = 10 then (if op = 0x11 ∨ op = 0x12 then .alu else .control) else .system

/-- Pairs of R146. -/
def pairs (a b : IssueKind) : Bool :=
  match a, b with
  | .system, _ => false
  | _, .system => false
  | .alu, _ => true
  | _, .alu => true
  | .memory, .control => true
  | .control, .memory => true
  | _, _ => false

namespace Machine

/-! ### Words that wait (R144) -/

/-- The effect of the words whose entries let them wait at their word, beside what R144 lists of every word: blocking words that
have not issued, words of a full queue or of releases that are not done, and words whose reads wait for a slot or a link. -/
def waiting : Instr → Option (Issue → State → Option Done)
  | .teamNew t => some (teamNewEff t)
  | .trigger _ sc => some (triggerEff sc)
  | .launch t => some (launchEff t)
  | .qpushRsv t q port => some (qpushRsvEff t q port)
  | .qpushPub t q => some (qpushPubEff t q)
  | .qpop t q => some (qpopEff t q)
  | .aeGo q n => some (aeGoEff q n)
  | .cpGo q d a cl => some (copyEff q (some a) d (some cl) fun _ _ => 0)
  | .cpGoNoc q d a => some (copyEff q (some a) d none fun _ _ => 0)
  | .cpFill q d cl => some (copyEff q none d (some cl) fun _ _ => 0)
  | .cpFillNoc q d => some (copyEff q none d none fun _ _ => 0)
  | .mshape q => some (mshapeEff q)
  | .mwld q w sn cl fmt kn => some (mwldEff q w sn (some cl) fmt kn)
  | .mwldNoc q w sn fmt kn => some (mwldEff q w sn none fmt kn)
  | .mmac q => some (mmacEff q)
  | .mstat q wait clr => some (mstatEff q wait clr)
  | .collGrp q n => some (collGrpEff q n)
  | .collGo q => some (collGoEff q)
  | .tlbsync _ => some tlbsyncEff
  | .evqPop t => some (evqPopEff t)
  | .evqPost t => some (evqPostEff t)
  | .sysrd q reg b32 => some (sysrdEff q reg b32)
  | .spawn q off => some (spawnEff q off false)
  | .spawnHome q off => some (spawnEff q off true)
  | _ => none

/-- Some resource may be taken or drained now, by some agent's view (18 R390-R396). -/
def State.slotsStand (s : State) : Bool :=
  s.ca.drain || s.ca.slot.isSome || decide (s.ns < s.ca.pieceEnd) || !s.skew.isEmpty

/-- The walk of some lane's access through the record of a memory word has to wait (18 R393). -/
def State.walksWait (s : State) (is : Issue) (m : MWord) (writes : Bool) : Bool :=
  let w := s.who is.ctx
  (lanesOf is.act).any fun l =>
    let i := is.index s m l
    match s.place? w (is.c.recSlot is.sub m.slot) i.1 i.2 1 with
    | .virt va => decide (0 ≤ va) && decide ((s.translate w.tlbs va.toNat (if writes then .write else .read) w.user).2 = .wait)
    | _ => false

/-- A word that accesses memory through a record waits at its word for a walk (10 R235; 18 R393). -/
def State.memWaits (s : State) (is : Issue) (r : Row) (m : Option MWord) : Bool :=
  let accesses := decide ((r.cls = 6 ∧ r.op ≠ 5 ∧ r.op ≠ 6) ∨ r.cls = 7 ∨ (r.cls = 8 ∧ 1 ≤ r.op ∧ r.op ≤ 6))
  s.slotsStand && accesses && m.any fun m => s.walksWait is m r.writesMem

/-- A word of a selected path issues now, or traps (R144). -/
def State.wordReady (s : State) (i : Instr) (r : Row) (m : Option MWord) : Bool :=
  match front r s with
  | .stall => false
  | .trapped _ => true
  | .go is s1 =>
    match waiting i with
    | some eff => decide (is.act = 0) || (eff is s1).isSome
    | none => !s1.memWaits is r m

/-- A word that is no instruction takes its trap once its WM wait is over (03 R76). -/
def State.illegalReady (s : State) (p : Path) (w : Nat) : Bool :=
  (lanesOf p.lanes).all fun l => decide (((s.ctx p.ctx).lane l).sb.toNat &&& (Raw.ofNat w).wm = 0)

/-- The next word of a path may issue, or its fetch or its encoding has something to say (R144). -/
def State.pathReady (s : State) (p : Path) : Bool :=
  s.threadsReady p &&
  match s.fetch p with
  | .miss _ => false
  | .word w hw =>
    match decode w with
    | some i => (i.row.map fun r => (s.select p hw).wordReady i r (Raw.ofNat w).mword).getD (s.illegalReady p w)
    | none => s.illegalReady p w
  | _ => true

/-- The issue kind of a path's next word; a trap of its fetch counts as System. -/
def State.pathKind (s : State) (p : Path) : IssueKind :=
  match s.fetch p with
  | .word w _ => issueKind (Raw.ofNat w).cls (Raw.ofNat w).op
  | _ => .system

/-- A Control word that pushes no reconvergence entry: of a pair it is executed last, so that both words read what stood before
either acted. It alone changes at its issue what the other may read (%team), and an ALU or Memory word changes no source of
it before a later clock. `br`, `jmpx`, `call` and `callx` change no source, and keep their place: what the leading path
pushes is on top when the other arrives (02 R62; R145, R147). -/
def State.actsLast (s : State) (p : Path) : Bool :=
  match s.fetch p with
  | .word w _ =>
    let op := (Raw.ofNat w).op
    decide (issueKind (Raw.ofNat w).cls op = .control ∧ op ≠ 0 ∧ op ≠ 2 ∧ op ≠ 3 ∧ op ≠ 4)
  | _ => false

/-- Population: the threads of a path (R140). -/
def population (m : Word64) : Nat := (lanesOf m).length

/-- Paths ordered by population descending, then by PC ascending (R145). -/
def pathBefore (a b : Path) : Bool :=
  let pa := a.hdr.toNat + 8 + 10 * a.idx
  let pb := b.hdr.toNat + 8 + 10 * b.idx
  decide (population b.lanes < population a.lanes) ||
    (decide (population a.lanes = population b.lanes) && decide (pa < pb))

/-- The ready paths of an agent's sub-gang, in order. -/
def State.readyPaths (s : State) (c : CtxId) (j : Nat) : List Path :=
  (((s.ctx c).paths j).map fun p => (⟨c, j, p.1, p.2.1, p.2.2⟩ : Path)).foldl
    (fun r p => if s.pathReady p then insertBy pathBefore p r else r) []

/-- A gang or sub-gang that may issue, with its rank keys (R152). -/
structure Cand where
  ctx : CtxId
  sub : Nat
  starved : Bool
  prio : Nat
  urgent : Bool
  age : Nat
  slot : Nat
  paths : List Path
  deriving DecidableEq, Repr

/-- The order of R145 and R152: starved first by age, else priority, urgency, age, slot, sub-gang. -/
def Cand.before (a b : Cand) : Bool :=
  if a.starved != b.starved then a.starved
  else if !a.starved && a.prio != b.prio then decide (b.prio < a.prio)
  else if !a.starved && a.urgent != b.urgent then a.urgent
  else if a.age ≠ b.age then decide (a.age < b.age)
  else if a.slot ≠ b.slot then decide (a.slot < b.slot)
  else decide (a.sub < b.sub)

/-- The agents whose clock ticks now and that run. -/
def State.ticking (s : State) : List CtxId :=
  ((SMap.keys s.ctxs).map ctxOfKey).filter fun c => s.runs c && decide (s.now % s.period c = 0)

/-- The candidates of one seat. -/
def State.candsAt (s : State) (seat : Nat) : List Cand :=
  (s.ticking.filter fun c => s.seat c = seat).flatMap fun c =>
    let x := s.ctx c
    (x.issuers.map fun j => (⟨c, j, x.starved, x.prio, x.urgent, x.age, x.slot, s.readyPaths c j⟩ : Cand)).filter
      fun k => !k.paths.isEmpty

/-- The seats, rising, that have not had their turn this tick. -/
def State.seats (s : State) : List Nat :=
  (s.ticking.map s.seat).foldl (fun r n => if n < s.turn ∨ r.contains n then r else insertBy (fun a b => decide (a < b)) n r) []

/-- The next paths to issue: the seat, the leading path, and the one that pairs with it (R145, R146), in the order
they are executed. -/
def State.pick (s : State) : Option (Nat × Path × Option Path) :=
  s.seats.findSome? fun n =>
    match bestBy Cand.before (s.candsAt n) with
    | none => none
    | some k =>
      match k.paths with
      | [] => none
      | p :: rest =>
        (match rest.head?.bind fun q => if pairs (s.pathKind p) (s.pathKind q) && !p.ctx.isCC then some q else none with
         | some q => some (if s.actsLast p then (n, q, some p) else (n, p, some q))
         | none => some (n, p, none))

/-- The lanes of a path still stand where they stood when it was chosen, and may issue. -/
def State.stillThere (s : State) (p : Path) : Bool :=
  let x := s.ctx p.ctx
  s.runs p.ctx && (lanesOf p.lanes).all fun l => x.onPath p.sub l && decide ((x.lane l).hdr = p.hdr ∧ (x.lane l).idx = p.idx)

/-- An issue counted: the urgency window's count, and the starvation count cleared (R153, R154). A gang and its resumed sub-gangs have one
count, which an issue of any of them clears (DESIGN CHOICE, log 39: R152 gives a sub-gang its gang's keys and no rule a count). -/
def State.counted (s : State) (c : CtxId) : State :=
  if c.isCC then s else s.modCtx c fun x => { x with issued := x.issued + 1, readySince := none, starved := false }

/-- A word's issue reads and writes its core's register file, and reads its instruction cache: an injection armed in either may be met, and
a flipped word of the gang's registers is a free one (19 R413; log 23). -/
def State.injectIssue (s : State) (c : CtxId) : State :=
  match c with
  | .cc _ => s
  | .gang _ =>
    let core := (s.ctx c).core
    let s1 := (s.injectUse 3 (core / 4) (core % 4) false (errorGid c)).1
    let s2 := (s1.injectUse 1 (core / 4) (core % 4) false (errorGid c)).1
    match s2.injectUse 1 (core / 4) (core % 4) true (errorGid c) with
    | (s3, some i) =>
      let ks := SMap.keys (s3.ctx c).g
      let k := ks.getD ((Config.freeWord s3.freeCtr).toNat % max 1 ks.length) 0 / 2 * 2
      let flip (g : SMap Word) : SMap Word :=
        i.flips.foldl (fun g b => SMap.modify 0 g (k + b / 32) fun x => x ^^^ BitVec.ofNat 32 (2 ^ (b % 32))) g
      ({ s3 with freeCtr := s3.freeCtr + 1 } : State).modCtx c fun x => { x with g := flip x.g }
    | (s3, none) => s3

/-- A path's turn, up to the word it executes: the word's number with the state in which the path is selected, or the
state after a trap or a wait of its fetch (R141, R50). -/
def State.fetchTurn (s : State) (p : Path) : State × Option Nat :=
  let h : Header := Header.ofWord 0
  match s.fetch p with
  | .miss _ => (s, none)
  | .trap k va => ((s.stopEnds (fetchOp p.ctx (va.toNat / 128))).takeTrap p.ctx p.lanes ⟨k, 0, 255, va, false, false⟩ h p.hdr p.idx, none)
  | .migrate _ l page => ((s.touchPage l page).waitPage p.ctx p.lanes page, none)
  | .header k =>
    let fresh := maskOf fun l => p.lanes.getLsbD l && ((s.ctx p.ctx).lane l).fresh
    let m := if fresh = 0 then p.lanes else fresh
    (s.takeTrap p.ctx m ⟨k, 0, 255, 0, false, true⟩ h p.hdr 0, none)
  | .hold =>
    let fresh := maskOf fun l => p.lanes.getLsbD l && ((s.ctx p.ctx).lane l).fresh
    (match p.ctx with
     | .gang g => (s.debugHold p.ctx g fresh launchHoldCode p.hdr 0 true, none)
     | .cc _ => (s, none))
  | .past hw => (s.fallPast p hw, none)
  | .word w hw => (((((s.fetchTouch p).hints p hw).select p hw).counted p.ctx).injectIssue p.ctx, some w)

/-- The next moment an agent's clock may tick: multiples of the column cores' 4 ticks and the cores' 5 (log 1). -/
def nextTick (now : Nat) : Nat := min ((now / 4 + 1) * 4) ((now / 5 + 1) * 5)

/-- The gangs of a seat that are ready: those that do not issue have waited since this clock at the latest (R154). -/
def State.noteReady (s : State) (seat : Nat) (chosen : CtxId) : State :=
  ((s.candsAt seat).map Cand.ctx).foldl (fun s c =>
    if c.isCC then s else s.modCtx c fun x =>
      { x with ready := true, readySince := if c = chosen then x.readySince else some (x.readySince.getD (s.clk c)) }) s

/-- The gangs that are not ready at a clock of theirs start their count again (R154). -/
def State.clearReady (s : State) : State :=
  ((SMap.keys s.ctxs).map ctxOfKey).foldl (fun s c =>
    if !c.isCC && (s.ctx c).ready && decide (s.now % s.period c = 0) &&
        !(s.runs c && (s.ctx c).issuers.any fun j => !(s.readyPaths c j).isEmpty) then
      s.modCtx c fun x => { x with ready := false, readySince := none, starved := false }
    else s) s

/-- Resumed sub-gangs of a gang take the gang slots that are free, and its stalled lanes the sub-gang entries; where a sub-gang still waits
for a slot, a gang that a long fault holds makes room for it (17 R367, R368, R376). -/
def State.keepSub (s : State) (k : Nat) : State :=
  let s1 := (s.giveSlots (ctxOfKey k) fun u => decide (u = .resumed)).unstall (ctxOfKey k)
  let x := s1.ctx (ctxOfKey k)
  if x.subs.any fun p => decide (p.2.st = .resumed) && p.2.slot.isNone then (s1.saveLongFault x.core (some (k - 64))).getD s1 else s1

/-- The sub-gangs of every gang looked after (17 R367, R368). -/
def State.keepSubs (s : State) : State := (SMap.keys s.ctxs).foldl (fun s k => if k < 64 then s else s.keepSub k) s

/-- Time passes to the next tick. -/
def State.pass (s : State) : State :=
  let s' := s.clearReady.keepSubs
  { s' with now := nextTick s.now, turn := 0, second := none }

end Machine

end Sys2Proof
end

