-- ==== Sys2Proof/Machine/Security.lean ====
section
/-! DEFINITION. Cameo's services, bring-up, alarms, and the host port with its memory aperture and debug window (20 R426-R432;
19 R414; log 28). -/

namespace Sys2Proof.Machine

/-! ### Services (R426) -/

/-- A refused service's answer. -/
def secRefused : Nat := 0xFFFFFFFFFFFFFFFE

/-- The answer of a service that Cameo does not provide (19 R414). -/
def secUnknown : Nat := 0xFFFFFFFFFFFFFFFF

/-- A buffer Cameo may use: 64-byte aligned and in fitted memory. -/
def cameoBuffer (pa n : Nat) : Bool := decide (pa % 64 = 0 ∧ pa < 2 ^ 48) && okRange pa n

/-- Free bytes taken. -/
def State.freeBytes (s : State) (n : Nat) : State × List Byte :=
  let bs := Config.freeBytes s.freeCtr n
  ({ s with freeCtr := s.freeCtr + 1 }, (List.range n).map fun i => bs.getD i 0)

/-- svc 1: lifecycle, debug level, alarms logged. -/
def State.securityState (s : State) (_ : Nat) : State × Nat :=
  (s, s.se.lifecycle % 4 + 4 * (s.se.dbg % 4) + 256 * min 255 s.se.alarms)

/-- Locket holds no keys: in the retired lifecycle, or once all are erased (R428). -/
def State.keyless (s : State) : Bool := decide (s.se.lifecycle = 2) || s.se.allErased

/-- svc 2: the buffer receives the device key's signature of its nonce, the boot measurement, the lifecycle and the debug state; refused
without keys or without a buffer. Where in the buffer the signature lies is not given (R426, R427; log 28). -/
def State.attest (s : State) (pa : Nat) : State × Nat :=
  if s.keyless ∨ !cameoBuffer pa 256 then (s, secRefused)
  else
    let nonce := (List.range 32).map fun i => s.homeByte (pa + i)
    let sig := Config.attestation nonce s.se.measured s.se.lifecycle s.se.dbg s.freeCtr
    (({ s with freeCtr := s.freeCtr + 1 } : State).homeWrite pa ((List.range 256).map sig), 0)

/-- svc 3: a key handle, whose value is free; refused without keys (R426, R428). -/
def State.deriveKey (s : State) (_ : Nat) : State × Nat :=
  if s.keyless then (s, secRefused)
  else ({ s with freeCtr := s.freeCtr + 1, se := { s.se with keysErased := false } }, (Config.freeWord s.freeCtr).toNat)

/-- svc 4. -/
def State.eraseKeys (s : State) (_ : Nat) : State × Nat := ({ s with se := { s.se with keysErased := true } }, 0)

/-- A debug level in force; on entry to invasive the session keys are erased (R428, R430). -/
def State.setDebug (s : State) (level : Nat) : State :=
  { s with se := { s.se with dbg := level, keysErased := s.se.keysErased || decide (level = 2) } }

/-- A token is accepted: its fields, its device, its challenge, its signer's key against Locket's hash, and its signature (R430). -/
def State.tokenOk (s : State) (t : List Byte) : Bool :=
  let at_ (off n : Nat) : Nat := leNat ((t.drop off).take n)
  let sha (off n : Nat) : BitVec 512 := Config.sha512 n fun i => t.getD (off + i) 0
  decide (at_ 0 4 = 0x4B54425A ∧ at_ 6 2 = 0 ∧ at_ 213 3 = 0 ∧ at_ 348 4 = 0) && decide (at_ 4 1 = 1 ∨ at_ 4 1 = 2) &&
  decide (at_ 5 1 = s.se.lifecycle ∧ s.se.nonce = some (at_ 48 32) ∧ s.ns ≤ at_ 8 8) &&
  decide (at_ 16 32 = (Config.sha512 Config.deviceKeyLength Config.deviceKey).toNat % 2 ^ 256) &&
  decide (sha 80 133 = Config.keyHash (if at_ 5 1 = 0 then 2 else 3)) &&
  Config.ecdsaVerifies (at_ 80 133) (sha 0 216) (at_ 216 66) (at_ 282 66)

/-- svc 5: a token is accepted with its level, or refused; either way the challenge is used up (R430). -/
def State.authDebug (s : State) (pa : Nat) : State × Nat :=
  if s.se.lifecycle = 2 then (s.setDebug 2, 0)
  else
    let t := if cameoBuffer pa 352 then (List.range 352).map fun i => s.homeByte (pa + i) else []
    let s1 : State := { s with se := { s.se with nonce := none } }
    if s.tokenOk t then (s1.setDebug (leNat ((t.drop 4).take 1)), 0) else (s1, secRefused)

/-- svc 6: a fresh nonce, whose bytes are free. -/
def State.debugChallenge (s : State) (pa : Nat) : State × Nat :=
  if !cameoBuffer pa 32 then (s, secRefused)
  else
    let z := s.freeBytes 32
    let s1 := z.1.homeWrite pa z.2
    ({ s1 with se := { s1.se with nonce := some (leNat z.2) } }, 0)

/-- svc 7. -/
def State.lockDebugCall (s : State) (_ : Nat) : State × Nat := (s.lockDebug, 0)

/-- sec.call: the answer on every participant (19 R414). -/
def secEff (q : QWord) (f : State → Nat → State × Nat) (is : Issue) (s : State) : Option Done :=
  (lowestLane is.act).map fun l =>
    let r := f s (is.src s true q.a l)
    .next (r.1.land is.ctx ((lanesOf is.act).flatMap fun k => dstPut q.d 2 k r.2))

def execSecCallSecurityState (q : QWord) (s : State) : Host.Outcome State Fault Refusal :=
  issueWith (.secCallSecurityState q) 0 (secEff q State.securityState) s

def execSecCallAttest (q : QWord) (s : State) : Host.Outcome State Fault Refusal :=
  issueWith (.secCallAttest q) 0 (secEff q State.attest) s

def execSecCallDeriveKey (q : QWord) (s : State) : Host.Outcome State Fault Refusal :=
  issueWith (.secCallDeriveKey q) 0 (secEff q State.deriveKey) s

def execSecCallEraseKeys (q : QWord) (s : State) : Host.Outcome State Fault Refusal :=
  issueWith (.secCallEraseKeys q) 0 (secEff q State.eraseKeys) s

def execSecCallAuthDebug (q : QWord) (s : State) : Host.Outcome State Fault Refusal :=
  issueWith (.secCallAuthDebug q) 0 (secEff q State.authDebug) s

def execSecCallDebugChallenge (q : QWord) (s : State) : Host.Outcome State Fault Refusal :=
  issueWith (.secCallDebugChallenge q) 0 (secEff q State.debugChallenge) s

def execSecCallLockDebug (q : QWord) (s : State) : Host.Outcome State Fault Refusal :=
  issueWith (.secCallLockDebug q) 0 (secEff q State.lockDebugCall) s

def execSecCallOther (q : QWord) (svc : Nat) (s : State) : Host.Outcome State Fault Refusal :=
  issueWith (.secCallOther q svc) 0 (secEff q fun s _ => (s, secUnknown)) s

/-! ### Bring-up and alarms (R427, R428) -/

/-- The bring-up stage. -/
def State.bootStage (s : State) : Nat := field s.se.hstat 55 48

def State.setStage (s : State) (v : Nat) : State := { s with se := { s.se with hstat := setField s.se.hstat 55 48 v } }

/-- The module after a reset; the lifecycle and the erasure of all keys are Locket's and last. -/
def State.powerReset (s : State) : State :=
  { State.reset with
    freeCtr := s.freeCtr
    se := { State.reset.se with lifecycle := s.se.lifecycle, allErased := s.se.allErased, keysErased := true } }

/-- POWER_ON_RESET: global time starts at 0, compute is held in reset, and the Cameo image verifies or not (R427). -/
def execPowerOnReset (ok : Bool) (s : State) : Host.Outcome State Fault Refusal :=
  .next (s.powerReset.setStage (if ok then 0x01 else 0xF0))

/-- A write of BOOTIMG: it starts the verification of the runtime image, or is ignored (R429). -/
def State.writeBootimg (s : State) (v : Word64) : State :=
  if s.bootStage = 0x01 ∧ field v 63 48 ≠ 0 ∧ field v 47 46 = 0 then
    ({ s with se := { s.se with bootimg := v &&& 0xFFFFFFFFFFFF0000 } } : State).setStage 0x02
  else s

def execBootimgWrite (v : Word64) (s : State) : Host.Outcome State Fault Refusal := .next (s.writeBootimg v)

/-- RUNTIME_VERIFY_DONE: the image's SHA-512 is its boot measurement, and column core 0 starts at word 0 of the image's entry header at
supervisor level, or compute stays in reset. In the retired lifecycle nothing is verified (R427). -/
def execRuntimeVerifyDone (ok : Bool) (entry : Word64) (s : State) : Host.Outcome State Fault Refusal :=
  if s.bootStage ≠ 0x02 then .next s
  else if !ok ∧ s.se.lifecycle ≠ 2 then .next (s.setStage 0xF1)
  else
    let s1 := (s.setStage 0x03).sysPut SysReg.cstat 0 1
    let s2 := s1.modCtx (.cc 0) fun c => { (c.modLane 0 fun x => x.moveTo entry) with run := .running }
    .next { s2 with se := { s2.se with held := false, measured := some s.imageSha } }

/-- The place of an alarm source in R428. -/
def alarmPlace : AlarmSrc → Nat
  | .glitch => 0
  | .glitchAlwaysOn => 0
  | .temperature => 1
  | .tamper => 2
  | .debugMisuse => 3
  | .faultDetector => 4

/-- The alarms armed in M2 (R428). -/
def alarmInM2 : AlarmSrc → Bool
  | .glitch => false
  | .glitchAlwaysOn => true
  | .temperature => true
  | .tamper => true
  | .debugMisuse => false
  | .faultDetector => false

/-- SECURITY_ALARM: the source's response, which the Cameo image sets (R428). -/
def execSecurityAlarm (src : AlarmSrc) (s : State) : Host.Outcome State Fault Refusal :=
  if s.pw.mstate = 2 ∧ !alarmInM2 src then .next s
  else
    match Config.alarmResponse (alarmPlace src) % 4 with
    | 0 => .next { s with se := { s.se with alarms := s.se.alarms + 1 } }
    | 1 => .next s.powerReset
    | 2 => .next { s with se := { s.se with keysErased := true } }
    | _ => .next { s with se := { s.se with keysErased := true, allErased := true } }

/-! ### The memory aperture (R429) -/

/-- The number of a host's access among those that hold writes and make drift queries. -/
def hostId (n : Nat) : Nat := 2 ^ 68 + n

/-- An access is refused: it sets APERR. -/
def State.apertureErr (s : State) : State := { s with se := { s.se with hstat := s.se.hstat ||| 1 } }

/-- An access at an address reaches memory that the aperture serves. -/
def State.apertureOk (s : State) (pa n : Nat) (wr : Bool) : Bool :=
  decide (s.pw.mstate ≠ 2 ∧ 0 < n ∧ pa + n ≤ 2 ^ 48) && (List.range n).all fun i =>
    fitted (pa + i) && (!wr || !isWeight (pa + i) || !s.serving (pa + i))

/-- The parts of an access, one for each line: system-scope `.nc` accesses at their homes (R429). -/
def HostAcc.accs (h : HostAcc) : List EAcc := (linePieces h.pa h.n).map fun p => ⟨.ok p.1 0, p.2, .nc, h.data.isSome⟩

/-- A host's access performed, unless it has to wait: a read, which is an outside acquire, answered, with all ones where it is refused; a
write applied after any lease hold, and dropped where it is refused (R429; 09 R230; 13 R306). -/
def State.tryHost (s : State) (h : HostAcc) : State × Bool :=
  let answer (s : State) (bs : List Byte) : State := { s with se := { s.se with hostOut := bs } }
  let v : EView := .all (homeOf h.pa)
  if !s.apertureOk h.pa h.n h.data.isSome then
    (if h.data.isSome then s.apertureErr else answer s.apertureErr (List.replicate h.n 0xFF), true)
  else
    let z := s.engineReady h.id true v true h.accs
    if !z.2 then (z.1, false)
    else
      match h.data with
      | none =>
        let r := z.1.engineReads h.id v h.accs
        (answer (r.1.engineDone h.id) (((h.accs.map EAcc.n).zip r.2).flatMap fun p => leBytes p.1 p.2), true)
      | some bs =>
        let s1 := (linePieces h.pa h.n).foldl (fun s p => s.engineWrite .nc p.1 ((bs.drop (p.1 - h.pa)).take p.2)) z.1
        (s1.engineDone h.id, true)

/-- The host's accesses carried on in their order, up to the first that waits (R429). -/
def State.goHost : Nat → State → State
  | 0, s => s
  | n + 1, s =>
    match s.se.hostq with
    | [] => s
    | h :: rest =>
      let r := s.tryHost h
      if r.2 then State.goHost n { r.1 with se := { r.1.se with hostq := rest } } else r.1

/-- A host's access comes, behind those that came before it. -/
def State.hostAccess (s : State) (pa n : Nat) (data : Option (List Byte)) : State :=
  State.goHost (s.se.hostq.length + 1) { s with
    opId := s.opId + 1
    se := { s.se with hostq := s.se.hostq ++ [⟨hostId s.opId, pa, data, n⟩] } }

/-- A host's read of memory. -/
def State.hostRead (s : State) (pa n : Nat) : State := s.hostAccess pa n none

/-- A host's write of memory. -/
def State.hostWrite (s : State) (pa : Nat) (bs : List Byte) : State := s.hostAccess pa bs.length (some bs)

/-- The physical address of an aperture offset. -/
def State.aperturePa (s : State) (off : Nat) : Nat := (s.se.apbase &&& 0xFFF000000000).toNat + off

/-- APERTURE_READ (R429). -/
def execApertureRead (off n : Nat) (s : State) : Host.Outcome State Fault Refusal :=
  if 2 ^ 36 < off + n then .next s else ret (s.hostRead (s.aperturePa off) n)

/-- APERTURE_WRITE (R429). -/
def execApertureWrite (off : Nat) (bytes : List Byte) (s : State) : Host.Outcome State Fault Refusal :=
  if 2 ^ 36 < off + bytes.length then .next s else ret (s.hostWrite (s.aperturePa off) bytes)

/-! ### The debug window (R431, R432) -/

/-- A register of the window used below its level: a read gives 0, a write is ignored and sets APERR. In M2 debug is locked (R428). -/
def State.debugRead (s : State) (level : Nat) (v : Word64) : State :=
  { s with se := { s.se with hostOut := leBytes 8 (if level ≤ s.se.dbg then v.toNat else 0) } }

/-- A write of the window at its level. -/
def State.debugWrite (s : State) (level : Nat) (f : State → State) : State :=
  if level ≤ s.se.dbg then f s else s.apertureErr

/-- DDATA_READ: the 8 bytes at DADDR. -/
def execDdataRead (s : State) : Host.Outcome State Fault Refusal :=
  if s.se.dbg = 0 then .next (s.debugRead 1 0) else ret (s.hostRead s.se.daddr.toNat 8)

/-- DDATA_WRITE. -/
def execDdataWrite (v : Word64) (s : State) : Host.Outcome State Fault Refusal :=
  ret (s.debugWrite 2 fun s => s.hostWrite s.se.daddr.toNat (leBytes 8 v.toNat))

/-- The register that DREG names, in the copy of the named core where there is one for each core (R431). -/
def State.debugReg (s : State) : Word64 :=
  let reg := field s.se.dreg 11 0
  let col := field s.se.dreg 17 12
  if !assignedReg reg then 0
  else if reg = SysReg.ashape then s.ashapeRead (4 * col + field s.se.dreg 19 18)
  else s.readSys reg col (Config.freeWord s.freeCtr).toNat

/-- DRDATA_READ. -/
def execDrdataRead (s : State) : Host.Outcome State Fault Refusal :=
  let t := s.debugRead 1 s.debugReg
  .next { t with freeCtr := t.freeCtr + 1 }

/-- DCC_WRITE: column cores halt as halt does. -/
def execDccWrite (v : Word64) (s : State) : Host.Outcome State Fault Refusal :=
  .next (s.debugWrite 2 fun s => (List.range 64).foldl (fun s n =>
    if v.getLsbD n then s.modCtx (.cc n) fun c => { c with run := .halted } else s) s)

/-- DCTL_WRITE: halt-on-breakpoint and the launch hold. -/
def execDctlWrite (v : Word64) (s : State) : Host.Outcome State Fault Refusal :=
  .next (s.debugWrite 2 fun s => { s with se := { s.se with dctl := v &&& 3 } })

/-- A write of DHACT: the oldest entry is settled, once its gang is not being saved (R432). -/
def State.dhact (s : State) (act : Nat) : State :=
  s.debugWrite 2 fun s => State.settleHeld 64 { s with se := { s.se with dhact := s.se.dhact ++ [act] } }

def execDhactResume (s : State) : Host.Outcome State Fault Refusal := ret (s.dhact 0)

def execDhactSkip (s : State) : Host.Outcome State Fault Refusal := ret (s.dhact 1)

def execDhactEnd (s : State) : Host.Outcome State Fault Refusal := ret (s.dhact 2)

/-! ### BAR 0 (R429, R431) -/

/-- HSTAT: BROWN follows the power state, and keeps 0xE1 (R429). -/
def State.hstatWord (s : State) : Word64 :=
  let b := if field s.se.hstat 47 40 = 0xE1 then 0xE1
    else if s.pw.mstate = 2 then (if s.pw.wakeTime.isSome then 3 else 2)
    else if s.pw.entering ≠ 0 then 1 else 0
  setField s.se.hstat 47 40 b

/-- A word of the hold list's oldest entry (R431). -/
def State.holdWord (s : State) (n : Nat) : Word64 :=
  match s.pruneHold.se.dhold with
  | [] => 0xFFFFFFFFFFFFFFFF
  | e :: _ =>
    match n with
    | 0 => BitVec.ofNat 64 (e.gid % 2 ^ 32 + 2 ^ 32 * (e.sub % 256) + 2 ^ 40 * e.code)
    | 1 => e.lanes
    | 2 => e.hdr
    | _ => BitVec.ofNat 64 (e.idx % 1024)

/-- The registers of the window, with the level that reading each needs; DDATA and DRDATA have events of their own. -/
def State.windowWord (s : State) (off : Nat) : Nat × Word64 :=
  match off with
  | 0x4000 => (2, s.se.dctl)
  | 0x4008 => (2, s.se.dhandle)
  | 0x4010 => (1, s.se.daddr)
  | 0x4020 => (1, s.se.dreg)
  | 0x4028 => (1, s.debugReg)
  | 0x4030 => (1, maskOf fun n => decide ((s.ctx (.cc n)).run = .halted))
  | 0x4040 => (2, s.holdWord 0)
  | 0x4048 => (2, s.holdWord 1)
  | 0x4050 => (2, s.holdWord 2)
  | 0x4058 => (2, s.holdWord 3)
  | _ => (3, 0)

/-- What the host reads at an offset of BAR 0 (R429, R431). In M2 the island serves HSTAT, ctl.mlattol and ctl.wake alone
(R422). -/
def State.bar0 (s : State) (off : Nat) : Word64 :=
  if off = 0 then s.hstatWord
  else if off = 0x2200 then s.sysGet SysReg.mlattol 0
  else if 0x4000 ≤ off then (if (s.windowWord off).1 ≤ s.se.dbg then (s.windowWord off).2 else 0)
  else if s.pw.mstate = 2 then 0
  else if off = 0x8 then s.se.apbase
  else if off = 0x10 then s.se.bootimg
  else if 0x1000 ≤ off ∧ off < 0x1800 ∧ off % 8 = 0 then s.sysGet SysReg.evqctl ((off - 0x1000) / 8)
  else if 0x2000 ≤ off ∧ off < 0x2200 ∧ off % 8 = 0 then s.sysGet SysReg.lattol ((off - 0x2000) / 8)
  else 0

/-- A host's write at an offset of BAR 0 of a register that has no event of its own (R429, R431): APERR, APBASE, ctl.lattol,
ctl.mlattol, DHANDLE, DADDR, DREG, DHACT, and the window's registers that are only read. -/
def State.bar0Write (s : State) (off : Nat) (v : Word64) : State :=
  let put (f : SecSt → SecSt) (s : State) : State := { s with se := f s.se }
  if off = 0 then (if v.getLsbD 0 then { s with se := { s.se with hstat := s.se.hstat &&& ~~~1 } } else s)
  else if off = 0x2200 then s.writeMlattol v
  else if off = 0x4008 then s.debugWrite 2 (put fun e => { e with dhandle := v })
  else if off = 0x4010 then s.debugWrite 1 (put fun e => if v.toNat % 8 = 0 then { e with daddr := v } else e)
  else if off = 0x4020 then s.debugWrite 1 (put fun e => { e with dreg := v &&& 0xFFFFF })
  else if off = 0x4028 then s.debugWrite 1 id
  else if off = 0x4060 then (if v.toNat % 4 = 3 then s.debugWrite 2 id else s.dhact (v.toNat % 4))
  else if off = 0x4040 ∨ off = 0x4048 ∨ off = 0x4050 ∨ off = 0x4058 then s.debugWrite 2 id
  else if s.pw.mstate = 2 then s
  else if off = 0x8 then { s with se := { s.se with apbase := v &&& 0xFFF000000000 } }
  else if 0x2000 ≤ off ∧ off < 0x2200 ∧ off % 8 = 0 then s.sysPut SysReg.lattol ((off - 0x2000) / 8) (v &&& 0xFFFFFFFF)
  else s

/-- REGISTER_WRITE: a write of a system register by the column core of a column, or, numbered from 0x10000 with its offset, of a
register of BAR 0 by the host (19 R402; R429). -/
def execRegisterWrite (reg col core : Nat) (v : Word64) (s : State) : Host.Outcome State Fault Refusal :=
  if 0x10000 ≤ reg then .next (s.bar0Write (reg - 0x10000) v)
  else if 64 ≤ col ∨ 4 ≤ core then .next s
  else ret (s.writeReg reg col v)

end Sys2Proof.Machine
end

