-- ==== Sys2Proof/Machine/Auto.lean ====
section
/-! DEFINITION. The events that come about by themselves, with no agenda: what the module's own agents can do in a state, in
a fixed order (log 2). Each is an event of the opcode table, run by that event's meaning. What depends on a measurement, on
another module, on the host, or on a choice that no rule makes is brought by the agenda alone. -/

namespace Sys2Proof.Machine

/-- An event that comes about by itself; the names and arguments are those of Instr, but for the two that carry on the requests of peers
(16 R349) and the accesses of the host (20 R429) that have had to wait. -/
inductive Auto
  | instructionFetchFill (ctx : CtxId) (va : Word64)
  | longLatencyComplete (op : Nat)
  | impreciseStoreFault (op : Nat)
  | peerCompletionTimeout (op : Nat)
  | writeForwardApply (id : Nat)
  | forcedPublish (cache upto : Nat)
  | forcedPublishAck (cache upto : Nat)
  | regionMerge (base size : Nat)
  | tlbInvalidationArrive (tlb which : Nat)
  | wsstateTakeEffect (half : Nat)
  | migrationEpoch (col : Nat)
  | migrationDone (pa : Nat)
  | claspPoll (ctx : CtxId)
  | claspWakeArrive (col key : Nat)
  | claspTwaitTimeout (ctx : CtxId)
  | claspAddBytes (id : Nat)
  | slewAdmit
  | shareRequest (msg : Nat)
  | shareGrant (msg : Nat)
  | forcedDrain (msg : Nat)
  | deltaWrite (msg : Nat)
  | deltaAck (msg : Nat)
  | drainAck (msg : Nat)
  | shareReturn (msg : Nat)
  | toleranceQuery (msg : Nat)
  | toleranceClear (msg : Nat)
  | toleranceDone (msg : Nat)
  | launchTake (col line : Nat)
  | predecessorSatisfied (h : Word64)
  | rootDistribute (h : Word64)
  | binTimeout (core bin : Nat)
  | gangForm (core bin part : Nat)
  | spillReturn (h : Word64) (entry : Nat)
  | launchRetire (h : Word64)
  | gangFree (gid : Nat)
  | tombFree (gid : Nat)
  | teamReserveRefill (core : Nat)
  | regxGrant (gid : Nat)
  | regxEvict (core part : Nat)
  | gangSave (gid : Nat)
  | gangRestore (col frame part : Nat)
  | longFaultResume (ctx : CtxId)
  | quiesceMarkerReturn (h : Word64)
  | lswitchDonePost
  | watchdogExpire (h : Word64)
  | reconvergenceTimeout (gid : Nat)
  | starvation (gid : Nat)
  | urgencyWindowEnd (core : Nat)
  | aeStreamBlock (core stream : Nat)
  | queueSlotRelease (core q gid : Nat)
  | qpopDeliver (core q gid : Nat)
  | cpCommandComplete (id : Nat)
  | cpCommandFault (id : Nat)
  | xpushDeliver (core box : Nat)
  | pushBoxFree (core box : Nat)
  | mshapeComplete (core : Nat)
  | mwldStart (core : Nat)
  | mwldComplete (core : Nat)
  | mwldFault (core : Nat)
  | mmacStart (core : Nat)
  | mmacPass (core : Nat)
  | mmacComplete (core : Nat)
  | mmacFault (core : Nat)
  | multicastTimeout (core : Nat)
  | bandPowerOn (core band : Nat)
  | collChunk (id : Nat)
  | collChunkCommit (id : Nat)
  | collComplete (id : Nat)
  | collEndFault (id : Nat)
  | collNeighbourTimeout (id rank : Nat)
  | podBudgetTick (demand : Nat)
  | peerCarryOn (id : Nat)
  | hostCarryOn
  | slotEnd
  | calendarActivate
  | slotDrainWindow
  | slotStart
  | ringMonitorSample (die : Nat) (centre : List Nat) (power : Nat)
  | evqOverflowPost (col : Nat)
  | errorDetected (arr col core loc : Nat) (uc : Bool) (synd : Byte) (gid : Word)
  | cStateEnter (col : Nat)
  | cStateExit (col : Nat)
  | m1Enter
  | m1Exit
  | quiesceQuiet (col : Nat)
  | brownoutEntry
  | brownoutResume (back : Bool)
  | fastThrottleOn
  | fastThrottleOff
  deriving DecidableEq, Repr

/-- The meaning of an event that comes about by itself: that of the event of its name. A root without children, whose chunk
needs nothing from its neighbours, performs it by itself. -/
def runAuto (a : Auto) (s : State) : Host.Outcome State Fault Refusal :=
  match a with
  | .instructionFetchFill c va => execInstructionFetchFill c va s
  | .longLatencyComplete op => execLongLatencyComplete op s
  | .impreciseStoreFault op => execImpreciseStoreFault op s
  | .peerCompletionTimeout op => execPeerCompletionTimeout op s
  | .writeForwardApply id => execWriteForwardApply id s
  | .forcedPublish cache upto => execForcedPublish cache upto s
  | .forcedPublishAck cache upto => execForcedPublishAck cache upto s
  | .regionMerge base size => execRegionMerge base size s
  | .tlbInvalidationArrive tlb which => execTlbInvalidationArrive tlb which s
  | .wsstateTakeEffect half => execWsstateTakeEffect half s
  | .migrationEpoch col => execMigrationEpoch col s
  | .migrationDone pa => execMigrationDone pa s
  | .claspPoll c => execClaspPoll c s
  | .claspWakeArrive col key => execClaspWakeArrive col key s
  | .claspTwaitTimeout c => execClaspTwaitTimeout c s
  | .claspAddBytes id => execClaspAddBytes id s
  | .slewAdmit => execSlewAdmit s
  | .shareRequest m => execShareRequest m s
  | .shareGrant m => execShareGrant m s
  | .forcedDrain m => execForcedDrain m s
  | .deltaWrite m => execDeltaWrite m s
  | .deltaAck m => execDeltaAck m s
  | .drainAck m => execDrainAck m s
  | .shareReturn m => execShareReturn m s
  | .toleranceQuery m => execToleranceQuery m s
  | .toleranceClear m => execToleranceClear m s
  | .toleranceDone m => execToleranceDone m s
  | .launchTake col line => execLaunchTake col line s
  | .predecessorSatisfied h => execPredecessorSatisfied h s
  | .rootDistribute h => execRootDistribute h s
  | .binTimeout core bin => execBinTimeout core bin s
  | .gangForm core bin part => execGangForm core bin part s
  | .spillReturn h e => execSpillReturn h e s
  | .launchRetire h => execLaunchRetire h s
  | .gangFree gid => execGangFree gid s
  | .tombFree gid => execTombFree gid s
  | .teamReserveRefill core => execTeamReserveRefill core s
  | .regxGrant gid => execRegxGrant gid s
  | .regxEvict core part => execRegxEvict core part s
  | .gangSave gid => execGangSave gid s
  | .gangRestore col frame part => execGangRestore col frame part s
  | .longFaultResume c => execLongFaultResume c s
  | .quiesceMarkerReturn h => execQuiesceMarkerReturn h s
  | .lswitchDonePost => execLswitchDonePost s
  | .watchdogExpire h => execWatchdogExpire h s
  | .reconvergenceTimeout gid => execReconvergenceTimeout gid s
  | .starvation gid => execStarvation gid s
  | .urgencyWindowEnd core => execUrgencyWindowEnd core s
  | .aeStreamBlock core stream => execAeStreamBlock core stream s
  | .queueSlotRelease core q gid => execQueueSlotRelease core q gid s
  | .qpopDeliver core q gid => execQpopDeliver core q gid s
  | .cpCommandComplete id => execCpCommandComplete id s
  | .cpCommandFault id => execCpCommandFault id s
  | .xpushDeliver core box => execXpushDeliver core box s
  | .pushBoxFree core box => execPushBoxFree core box s
  | .mshapeComplete core => execMshapeComplete core s
  | .mwldStart core => execMwldStart core s
  | .mwldComplete core => execMwldComplete core s
  | .mwldFault core => execMwldFault core s
  | .mmacStart core => execMmacStart core s
  | .mmacPass core => execMmacPass core s
  | .mmacComplete core => execMmacComplete core s
  | .mmacFault core => execMmacFault core s
  | .multicastTimeout core => execMulticastTimeout core s
  | .bandPowerOn core band => execBandPowerOn core band s
  | .collChunk id => execCollChunk id [] [] s
  | .collChunkCommit id => execCollChunkCommit id s
  | .collComplete id => execCollComplete id s
  | .collEndFault id => execCollEndFault id s
  | .collNeighbourTimeout id rank => execCollNeighbourTimeout id rank s
  | .podBudgetTick demand => execPodBudgetTick demand s
  | .peerCarryOn id => ret (s.goPeer id)
  | .hostCarryOn => ret (State.goHost s.se.hostq.length s)
  | .slotEnd => execSlotEnd s
  | .calendarActivate => execCalendarActivate s
  | .slotDrainWindow => execSlotDrainWindow s
  | .slotStart => execSlotStart s
  | .ringMonitorSample die centre power => execRingMonitorSample die centre power s
  | .evqOverflowPost col => execEvqOverflowPost col s
  | .errorDetected arr col core loc uc synd gid => execErrorDetected arr col core loc uc synd gid s
  | .cStateEnter col => execCStateEnter col s
  | .cStateExit col => execCStateExit col s
  | .m1Enter => execM1Enter s
  | .m1Exit => execM1Exit s
  | .quiesceQuiet col => execQuiesceQuiet col s
  | .brownoutEntry => execBrownoutEntry s
  | .brownoutResume back => execBrownoutResume back s
  | .fastThrottleOn => execFastThrottleOn s
  | .fastThrottleOff => execFastThrottleOff s

/-! ### What is ready -/

/-- The agents, by their numbers. -/
def State.agents (s : State) : List CtxId := (SMap.keys s.ctxs).map ctxOfKey

/-- The identities of the resident gangs. -/
def State.gangIds (s : State) : List Nat := (s.ctxs.filter fun p => decide (64 ≤ p.1) && p.2.live).map fun p => p.1 - 64

/-- Some lane of an agent satisfies a test. -/
def State.anyLane (s : State) (c : CtxId) (p : Nat → Bool) : Bool := (SMap.keys (s.ctx c).lanes).any p

/-- The lines that waiting fetches need (06 R141). -/
def State.autoFetch (s : State) : List Auto :=
  (s.wantedLines ++ s.ms.prefetch).map fun p => .instructionFetchFill p.1 p.2

/-- The packet of an operation is golden on some loop: it wins every arbitration (09 R224). -/
def State.isGolden (s : State) (id : Nat) : Bool := s.ms.golden.any fun p => p.2.any fun q => decide (q.1 = id ∧ s.ns < q.2 + 1600)

/-- Operations, those with golden packets first, accepted writes, marks and invalidations (02 R65; 09 R224; 10 R236; 13 R306, R308; 16
R348; 19 R403). -/
def State.autoMemory (s : State) : List Auto :=
  (((s.ms.ops.filter fun o => s.isGolden o.id) ++ s.ms.ops.filter fun o => !s.isGolden o.id).flatMap fun o =>
    (if o.due ≤ s.now ∧ !o.good.isEmpty ∧ !s.opHeld o then [Auto.longLatencyComplete o.id] else []) ++
    (if s.failDue o then [.impreciseStoreFault o.id] else []) ++
    (if o.due + 12000000 ≤ s.now then [.peerCompletionTimeout o.id] else [])) ++
  (s.ms.fwd.map fun f => .writeForwardApply f.id) ++
  (s.ms.marks.flatMap fun k => [.forcedPublish k.cache k.upto, .forcedPublishAck k.cache k.upto]) ++
  (s.ms.invs.filterMap fun v => v.tlbs.head?.map fun t => Auto.tlbInvalidationArrive t v.id)

/-- Page moves, weight states, regions (09 R219, R220, R223, R227). -/
def State.autoHomes (s : State) : List Auto :=
  (if (s.sysGet SysReg.migctl 0).getLsbD 63 then (List.range 64).filterMap fun c =>
      if SMap.get 0 s.ms.epochs c + 1000 * max 1 (field (s.sysGet SysReg.migctl 0) 23 0) ≤ s.ns then some (Auto.migrationEpoch c)
      else none
    else []) ++
  (s.ms.moves.filterMap fun m => if m.due ≤ s.ns then some (Auto.migrationDone m.old) else none) ++
  ([0, 1].filterMap fun h => (s.wsDue h).map fun _ => Auto.wsstateTakeEffect h) ++
  (s.ms.regions.filterMap fun a =>
    let b := s.region (a.base + a.size)
    let quiet := 1000 * max 1 (field (s.sysGet SysReg.quiet 0) 15 0)
    if a.mergesWith b s.ns && decide (a.conflict + quiet ≤ s.ns ∧ b.conflict + quiet ≤ s.ns) then some (Auto.regionMerge a.base a.size)
    else none)

/-- Clasps and the slew limiter (14 R322-R326). -/
def State.autoClasps (s : State) : List Auto :=
  (((s.cl.waiters.filter s.wakeReady).map fun w => Auto.claspWakeArrive w.col w.pa).eraseDups) ++
  (s.agents.flatMap fun c =>
    (if s.anyLane c (s.pollDue c) then [Auto.claspPoll c] else []) ++
    (if s.anyLane c (s.timedOut c) then [.claspTwaitTimeout c] else []) ++
    (if s.anyLane c fun l => (match ((s.ctx c).lane l).wait with
        | .page _ true => true
        | _ => false) then [.longFaultResume c] else [])) ++
  (s.cl.adds.map fun a => .claspAddBytes a.id) ++
  (if s.slewPick.isEmpty then [] else [.slewAdmit])

/-- The event that receives a drift message (15 R338). -/
def DMsg.auto (id : Nat) : DMsg → Auto
  | .shareRequest _ _ => .shareRequest id
  | .shareGrant _ _ _ _ => .shareGrant id
  | .forcedDrain _ _ _ _ => .forcedDrain id
  | .deltaWrite _ _ _ _ _ _ _ => .deltaWrite id
  | .deltaAck _ _ _ _ => .deltaAck id
  | .drainAck _ _ _ => .drainAck id
  | .shareReturn _ _ _ => .shareReturn id
  | .tolQuery _ => .toleranceQuery id
  | .tolClear _ => .toleranceClear id
  | .tolDone _ _ => .toleranceDone id

/-- Launch lines, launches, bins and spill entries (05 R116-R126). A bin forms on the lowest partition that can take it. -/
def State.autoLaunches (s : State) : List Auto :=
  (s.la.lines.filterMap fun p => if p.2.pending then some (Auto.launchTake (p.1 / 16) (p.1 % 16)) else none) ++
  (s.la.launches.filterMap fun l => if l.stage = .waiting then some (Auto.predecessorSatisfied l.handle) else none) ++
  ((List.range 64).filterMap fun c => (s.rootNext c).map fun l => Auto.rootDistribute l.handle) ++
  ((s.la.launches.filter fun l => s.rootless l || s.rootReads l).map fun l => .rootDistribute l.handle) ++
  (s.la.bins.filterMap fun b => if b.closed then none else some (Auto.binTimeout b.core b.num)) ++
  (((s.la.bins.map fun b => b.core).eraseDups).filterMap fun k => (s.binNext k).map fun b =>
    let part := (s.launch? b.handle).bind fun l => (List.range 8).find? fun p => (s.formGang b l p).isSome
    Auto.gangForm k b.num (part.getD 0)) ++
  (s.la.spills.map fun e => .spillReturn e.handle e.entry) ++
  (s.la.launches.filterMap fun l => if s.retirable l then some (Auto.launchRetire l.handle) else none)

/-- Gangs, frames and teams (05 R129-R137; 17 R371-R378). -/
def State.autoGangs (s : State) : List Auto :=
  (s.gangIds.filterMap fun g => if (s.ctx (.gang g)).living = 0 && !s.landing (.gang g) then some (Auto.gangFree g) else none) ++
  (s.la.tombs.filterMap fun t => if s.unperformed (.gang t.gid) then none else some (Auto.tombFree t.gid)) ++
  ((SMap.keys s.la.used).map fun k => .teamReserveRefill k) ++
  (s.gangIds.flatMap fun g =>
    let x := s.ctx (.gang g)
    if x.regx.isEmpty then []
    else [Auto.regxGrant g] ++ (if s.regxStuck x.core x.part = some g then [.regxEvict x.core x.part] else [])) ++
  (s.la.saved.filterMap fun g =>
    if (s.ctx (.gang g.gid)).saving && s.sealable (.gang g.gid) && !s.rangeLeased (s.frameOf g) (2 ^ 17) then some (Auto.gangSave g.gid) else none) ++
  (((s.la.saved.map fun g => gidCore g.gid).eraseDups).filterMap fun k => (s.restoreNext k).map fun g =>
    Auto.gangRestore g.col g.frame (((List.range 8).find? fun p => (s.restoreOn g p).isSome).getD 0))

/-- Launches being switched or ended, and watchdogs (17 R379-R383). -/
def State.autoSwitch (s : State) : List Auto :=
  (s.la.launches.flatMap fun l =>
    (if l.quiescing ≠ 0 ∨ s.la.ins.contains l.handle then [Auto.quiesceMarkerReturn l.handle] else []) ++
    (if s.wdogDue l then [.watchdogExpire l.handle] else [])) ++
  (if (s.la.switch.map s.switchDone).getD false then [.lswitchDonePost] else [])

/-- The timers of the cores (06 R148, R153, R154). -/
def State.autoTimers (s : State) : List Auto :=
  (s.gangIds.flatMap fun g =>
    let c : CtxId := .gang g
    let x := s.ctx c
    (if (s.rcvDue g).isSome then [Auto.reconvergenceTimeout g] else []) ++
    (match x.readySince with
     | some t => if !x.starved ∧ t + 4096 ≤ s.clk c then [.starvation g] else []
     | none => [])) ++
  (s.la.windows.filterMap fun p =>
    if p.2 + 1024 ≤ s.coreClk p.1 + 1 then some (Auto.urgencyWindowEnd p.1) else none) ++
  ((((s.ctxs.filter fun p => decide (64 ≤ p.1) && p.2.live).map fun p => p.2.core).eraseDups).filterMap fun k =>
    if SMap.get 0 s.la.windows k = 0 then some (Auto.urgencyWindowEnd k) else none)

/-- Queues, engines and boxes (11). -/
def State.autoEngines (s : State) : List Auto :=
  (s.en.queues.flatMap fun p =>
    let k := p.1 / 16
    let n := p.1 % 16
    (((p.2.slots.filter s.slotDue).filterMap fun y => y.holder.map fun g => Auto.queueSlotRelease k n g).eraseDups) ++
    p.2.pend.filterMap fun q =>
      if p.2.slots.any fun y => decide (y.seq = q.seq) && y.published then some (Auto.qpopDeliver k n q.gid) else none) ++
  (s.en.ae.flatMap fun a => a.streams.map fun t => .aeStreamBlock a.core t.num) ++
  ((List.range 64).flatMap fun c => (s.cpRunning c).map fun x =>
    if (s.copyFault x).isSome then Auto.cpCommandFault x.id else .cpCommandComplete x.id) ++
  s.en.boxes.filterMap fun p => match p.2 with
    | some b =>
      if s.boxDead b || (s.launch? b.handle).isNone then some (Auto.pushBoxFree (p.1 / 16) (p.1 % 16))
      else if (s.pushFor (p.1 / 16) (p.1 % 16) b).isSome then some (.xpushDeliver (p.1 / 16) (p.1 % 16))
      else none
    | none => none

/-- The head of a core's matrix queue (12 R274-R288). -/
def State.autoHead (s : State) (k : Nat) : List Auto :=
  match s.mhead k with
  | none => []
  | some c =>
    match c.kind with
    | .shape _ => [.mshapeComplete k]
    | .load _ _ _ _ => if c.running then [.mwldFault k, .mwldComplete k] else []
    | .mac a _ _ =>
      if !c.running then [.mmacStart k] ++ (if c.headSince.isSome then [.multicastTimeout k] else [])
      else if (s.headStage k).poison ∨ a.groups ≤ c.pass then [.mmacFault k, .mmacComplete k]
      else [.mmacPass k]
    | .marker => []

/-- The matrix arrays (12). -/
def State.autoMatrix (s : State) : List Auto :=
  ((s.mx.cmds.map fun c => c.core).eraseDups).flatMap fun k =>
    ((List.range 4).filterMap fun b => if s.bandWanted k b then some (Auto.bandPowerOn k b) else none) ++
    (if (s.loadReady k).isSome then [.mwldStart k] else []) ++ s.autoHead k

/-- Collectives, as far as this module alone carries them on, the requests of peers and of the host, and the pod's budget (16 R349-R362; 20
R429). -/
def State.autoFabric (s : State) : List Auto :=
  (s.fa.colls.flatMap fun c =>
    if c.elems.isEmpty then [Auto.collComplete c.id]
    else if s.collAlone c then [.collEndFault c.id]
    else if c.done.isSome then [.collChunkCommit c.id]
    else
      (if c.unread ∨ ((s.liveOf c).head? = some (s.group c.args.group).rank ∧
          (c.args.op = 3 ∨ (treeChildren (s.liveOf c) (s.group c.args.group).rank).isEmpty)) then [.collChunk c.id] else []) ++
      ((s.neighbours c).filter (s.collSilent c)).map fun r => .collNeighbourTimeout c.id r) ++
  (s.fa.inbox.map fun p => .peerCarryOn p.id) ++ (if s.se.hostq.isEmpty then [] else [.hostCarryOn]) ++
  (if (s.sysGet SysReg.pbctl 0).getLsbD 63 && !(s.fa.own.any fun p => decide (s.ns < p.2 + 100000)) then [.podBudgetTick s.pw.demand] else [])

/-- Overflow stores and injected errors (19 R405, R413). -/
def State.autoSystem (s : State) : List Auto :=
  (((s.ev.ovf.map fun r => r.col).eraseDups).filterMap fun c => (s.ovfNext c).map fun _ => Auto.evqOverflowPost c) ++
  (match s.errorDue with
   | some (i, b) => [.errorDetected i.arr i.col i.core i.loc (decide (i.mode = 2)) b i.gid]
   | none => [])

/-- The power manager (20 R417-R424). -/
def State.autoPower (s : State) : List Auto :=
  ((List.range 64).flatMap fun c =>
    (if s.cstate c < s.cDeepest c ∧ !s.cl.exits.contains c then [Auto.cStateEnter c] else []) ++
    (if s.cstate c ≠ 0 ∧ !s.cAllowed c (s.cstate c) ∧ !s.cl.exits.contains c then [.cStateExit c] else []) ++
    (if s.quietDue c then [.quiesceQuiet c] else [])) ++
  (if s.pw.mstate = 0 ∧ s.pw.entering = 0 ∧ 10000 ≤ s.moduleTol ∧ s.linksIdle then [.m1Enter] else []) ++
  (if s.pw.mstate = 1 ∧ (s.moduleTol < 10000 ∨ !s.linksIdle) then [.m1Exit] else []) ++
  (if s.pw.entering ≠ 0 ∨ s.m2Wanted then [.brownoutEntry] else []) ++
  (if s.alarmed && !s.isFast then [.fastThrottleOn] else []) ++
  (if s.isFast && !s.alarmed then [.fastThrottleOff] else []) ++ (if s.backDone then [.brownoutResume true] else [])

/-- Everything that is ready to come about, in a fixed order. In M2 only resumption is (20 R422, R424). -/
def State.autoEvents (s : State) : List Auto :=
  if s.pw.mstate = 2 then (if s.pw.wakeTime.isSome then [.brownoutResume false] else [])
  else
    s.autoFetch ++ s.autoMemory ++ s.autoHomes ++ s.autoClasps ++ (s.dr.msgs.map fun m => m.2.auto m.1) ++ s.autoLaunches ++
    s.autoGangs ++ s.autoSwitch ++ s.autoTimers ++ s.autoEngines ++ s.autoMatrix ++ s.autoFabric ++ s.autoSystem ++ s.autoPower

/-- The events of the calendar that are due now, and a sample of the retune monitor, which no other turn precedes (18 R389-R396; 25
R442). -/
def State.clockEvent (s : State) : Option Auto :=
  if s.endDue.isSome then some .slotEnd
  else if s.activateDue then some .calendarActivate
  else if s.drainDue then some .slotDrainWindow
  else if s.startDue.isSome then some .slotStart
  else s.sampleDue.map fun x => .ringMonitorSample x.1 x.2.1 x.2.2

/-- The agent whose fixed-latency results are due (02 R62). -/
def State.dueCtx (s : State) : Option CtxId := s.agents.find? fun c => (s.ctx c).wbs.any fun w => decide (w.due ≤ s.clk c)

end Sys2Proof.Machine
end

