-- ==== Sys2Proof/Machine/BitOps.lean ====
section
/-! DEFINITION. Bits, shifts, moves and select, class 0x1 (07 R171-R178). -/

namespace Sys2Proof

/-- The logical complement at width w (R172). -/
def notAt (w a : Nat) : Nat := 2 ^ w - 1 - a % 2 ^ w

/-- shl (R173). -/
def shiftLeft (w a n : Nat) : Nat := if n < w then a * 2 ^ n % 2 ^ w else 0

/-- shr (R173). -/
def shiftRight (w a n : Nat) : Nat := if n < w then a % 2 ^ w / 2 ^ n else 0

/-- sar (R173). -/
def shiftArith (w a n : Nat) : Nat :=
  if n < w then wrap w (Int.fdiv (sext w a) (2 ^ n : Nat)) else if sext w a < 0 then 2 ^ w - 1 else 0

/-- rol (R173). -/
def rotLeft (w a n : Nat) : Nat :=
  let k := n % w
  (a % 2 ^ w * 2 ^ k) % 2 ^ w + a % 2 ^ w / 2 ^ (w - k)

/-- ror (R173). -/
def rotRight (w a n : Nat) : Nat := rotLeft w a (w - n % w)

/-- bfe: position in bits 7:0 of the field operand, length in bits 15:8 (R174). -/
def bitExtract (t : Ty) (a f : Nat) : Nat :=
  let w := t.bits
  let pos := f % 256
  let len := f / 256 % 256
  if len = 0 ∨ w ≤ pos then 0
  else
    let n := min (pos + len) w - pos
    let x := a / 2 ^ pos % 2 ^ n
    if t.isSigned then wrap w (sext n x) else x

/-- bfi: the low bits of `a` put into `b` (R174). -/
def bitInsert (w a b f : Nat) : Nat :=
  let pos := f % 256
  let len := f / 256 % 256
  if len = 0 ∨ w ≤ pos then b
  else
    let n := min (pos + len) w - pos
    b % 2 ^ pos + a % 2 ^ n * 2 ^ pos + b / 2 ^ (pos + n) * 2 ^ (pos + n)

/-- brev: the bits in reverse order (R175). -/
def bitReverse : Nat → Nat → Nat
  | 0, _ => 0
  | w + 1, a => a % 2 * 2 ^ w + bitReverse w (a / 2)

/-- The number of 1 bits among the low w (R175). -/
def bitCount : Nat → Nat → Nat
  | 0, _ => 0
  | w + 1, a => a % 2 + bitCount w (a / 2)

/-- The number of 0 bits below the lowest 1; w for 0 (R175). -/
def trailingZeros : Nat → Nat → Nat
  | 0, _ => 0
  | w + 1, a => if a % 2 = 1 then 0 else 1 + trailingZeros w (a / 2)

/-- The number of 0 bits above the highest 1; w for 0 (R175). -/
def leadingZeros (w a : Nat) : Nat := trailingZeros w (bitReverse w a)

/-- perm: four bytes chosen from the eight of (b : a) (R176). -/
def permBytes (a b sel : Nat) : Nat :=
  (List.range 4).foldl (fun r i =>
    let d := sel / 16 ^ i % 16
    let x := (a + 2 ^ 32 * b) / 256 ^ (d % 8) % 256
    r + (if d < 8 then x else if 128 ≤ x then 255 else 0) * 256 ^ i) 0

/-- movk: one 16-bit part of a 64-bit value replaced (R178). -/
def replaceHalf (x imm h : Nat) : Nat :=
  x % 2 ^ (16 * h) + imm * 2 ^ (16 * h) + x / 2 ^ (16 * h + 16) * 2 ^ (16 * h + 16)

namespace Machine

/-- A class A result from S1 and S2 in the word's type (R164). -/
def bitEff (t : TWord) (f : Nat → Nat → Nat) : Issue → State → Option Done :=
  perLane 4 false fun is s l => ⟨dstPut t.d (tyRegs t.ty) l (f (is.ty s t.ty t.a l) (is.ty s t.ty t.b l)), 0⟩

/-- A class A result from S1 in the word's type and a 32-bit S2 (R164). -/
def bitCountEff (t : TWord) (f : Nat → Nat → Nat) : Issue → State → Option Done :=
  perLane 4 false fun is s l => ⟨dstPut t.d (tyRegs t.ty) l (f (is.ty s t.ty t.a l) (is.src s false t.b l)), 0⟩

/-- An immediate twin's 32-bit result (R73). -/
def bitImmEff (q : QWord) (imm : Nat) (f : Nat → Nat → Nat) : Issue → State → Option Done :=
  perLane 4 false fun is s l => ⟨dstPut q.d 1 l (f (is.srcImm s imm q.a l) (is.srcImm s imm q.b l)), 0⟩

def execAnd (t : TWord) (s : State) : Host.Outcome State Fault Refusal :=
  issueWith (.and t) 4 (bitEff t fun a b => a &&& b) s

def execOr (t : TWord) (s : State) : Host.Outcome State Fault Refusal :=
  issueWith (.or t) 4 (bitEff t fun a b => a ||| b) s

def execXor (t : TWord) (s : State) : Host.Outcome State Fault Refusal :=
  issueWith (.xor t) 4 (bitEff t fun a b => a ^^^ b) s

def execAndn (t : TWord) (s : State) : Host.Outcome State Fault Refusal :=
  issueWith (.andn t) 4 (bitEff t fun a b => a &&& notAt t.ty.bits b) s

def execOrn (t : TWord) (s : State) : Host.Outcome State Fault Refusal :=
  issueWith (.orn t) 4 (bitEff t fun a b => a ||| notAt t.ty.bits b) s

def execNot (t : TWord) (s : State) : Host.Outcome State Fault Refusal :=
  issueWith (.not t) 4 (bitEff t fun a _ => notAt t.ty.bits a) s

def execShl (t : TWord) (s : State) : Host.Outcome State Fault Refusal :=
  issueWith (.shl t) 4 (bitCountEff t (shiftLeft t.ty.bits)) s

def execShr (t : TWord) (s : State) : Host.Outcome State Fault Refusal :=
  issueWith (.shr t) 4 (bitCountEff t (shiftRight t.ty.bits)) s

def execSar (t : TWord) (s : State) : Host.Outcome State Fault Refusal :=
  issueWith (.sar t) 4 (bitCountEff t (shiftArith t.ty.bits)) s

def execRol (t : TWord) (s : State) : Host.Outcome State Fault Refusal :=
  issueWith (.rol t) 4 (bitCountEff t (rotLeft t.ty.bits)) s

def execRor (t : TWord) (s : State) : Host.Outcome State Fault Refusal :=
  issueWith (.ror t) 4 (bitCountEff t (rotRight t.ty.bits)) s

def execBfe (t : TWord) (s : State) : Host.Outcome State Fault Refusal :=
  issueWith (.bfe t) 4 (bitCountEff t (bitExtract t.ty)) s

def execBfi (t : TWord) (s : State) : Host.Outcome State Fault Refusal :=
  issueWith (.bfi t) 4 (perLane 4 false fun is s l =>
    ⟨dstPut t.d (tyRegs t.ty) l (bitInsert t.ty.bits (is.ty s t.ty t.a l) (is.ty s t.ty t.b l)
      (is.src s false t.s l)), 0⟩) s

def execBrev (t : TWord) (s : State) : Host.Outcome State Fault Refusal :=
  issueWith (.brev t) 4 (bitEff t fun a _ => bitReverse t.ty.bits a) s

/-- clz, ctz and popc write one register (R175). -/
def countEff (t : TWord) (f : Nat → Nat → Nat) : Issue → State → Option Done :=
  perLane 4 false fun is s l => ⟨dstPut t.d 1 l (f t.ty.bits (is.ty s t.ty t.a l)), 0⟩

def execClz (t : TWord) (s : State) : Host.Outcome State Fault Refusal :=
  issueWith (.clz t) 4 (countEff t leadingZeros) s

def execCtz (t : TWord) (s : State) : Host.Outcome State Fault Refusal :=
  issueWith (.ctz t) 4 (countEff t trailingZeros) s

def execPopc (t : TWord) (s : State) : Host.Outcome State Fault Refusal :=
  issueWith (.popc t) 4 (countEff t bitCount) s

def execPerm (t : TWord) (s : State) : Host.Outcome State Fault Refusal :=
  issueWith (.perm t) 4 (perLane 4 false fun is s l =>
    ⟨dstPut t.d 1 l (permBytes (is.src s false t.a l) (is.src s false t.b l) (is.src s false t.s l)), 0⟩) s

def execMov (t : TWord) (s : State) : Host.Outcome State Fault Refusal :=
  issueWith (.mov t) 4 (bitEff t fun a _ => a) s

def execSel (t : TWord) (s : State) : Host.Outcome State Fault Refusal :=
  issueWith (.sel t) 4 (perLane 4 false fun is s l =>
    ⟨dstPut t.d (tyRegs t.ty) l (if is.truth s t.s l then is.ty s t.ty t.a l else is.ty s t.ty t.b l), 0⟩) s

def execMovi (q : QWord) (imm : Nat) (s : State) : Host.Outcome State Fault Refusal :=
  issueWith (.movi q imm) 4 (perLane 4 false fun _ _ l => ⟨dstPut q.d 1 l (imm32 imm), 0⟩) s

def execMovhi (q : QWord) (imm : Nat) (s : State) : Host.Outcome State Fault Refusal :=
  issueWith (.movhi q imm) 4 (perLane 4 false fun is s l =>
    ⟨dstPut q.d 1 l (imm * 256 + is.src s false q.b l % 256), 0⟩) s

def execMovk (q : QWord) (imm h : Nat) (s : State) : Host.Outcome State Fault Refusal :=
  issueWith (.movk q imm h) 4 (perLane 4 false fun is s l =>
    ⟨dstPut q.d 2 l (replaceHalf (is.src s true q.b l) imm h), 0⟩) s

def execAndImm (q : QWord) (imm : Nat) (s : State) : Host.Outcome State Fault Refusal :=
  issueWith (.andImm q imm) 4 (bitImmEff q imm fun a b => a &&& b) s

def execOrImm (q : QWord) (imm : Nat) (s : State) : Host.Outcome State Fault Refusal :=
  issueWith (.orImm q imm) 4 (bitImmEff q imm fun a b => a ||| b) s

def execXorImm (q : QWord) (imm : Nat) (s : State) : Host.Outcome State Fault Refusal :=
  issueWith (.xorImm q imm) 4 (bitImmEff q imm fun a b => a ^^^ b) s

def execShlImm (q : QWord) (imm : Nat) (s : State) : Host.Outcome State Fault Refusal :=
  issueWith (.shlImm q imm) 4 (bitImmEff q imm (shiftLeft 32)) s

def execShrImm (q : QWord) (imm : Nat) (s : State) : Host.Outcome State Fault Refusal :=
  issueWith (.shrImm q imm) 4 (bitImmEff q imm (shiftRight 32)) s

def execSarImm (q : QWord) (imm : Nat) (s : State) : Host.Outcome State Fault Refusal :=
  issueWith (.sarImm q imm) 4 (bitImmEff q imm (shiftArith 32)) s

def execRolImm (q : QWord) (imm : Nat) (s : State) : Host.Outcome State Fault Refusal :=
  issueWith (.rolImm q imm) 4 (bitImmEff q imm (rotLeft 32)) s

def execRorImm (q : QWord) (imm : Nat) (s : State) : Host.Outcome State Fault Refusal :=
  issueWith (.rorImm q imm) 4 (bitImmEff q imm (rotRight 32)) s

end Machine

end Sys2Proof
end

