-- ==== Sys2Proof/Machine/Control.lean ====
section
/-! DEFINITION. Transfers of control, yield, nop, trap and exit, class 0xA (06 R156-R162; 05 R131, R136). -/

namespace Sys2Proof.Machine

/-- The header a C-format offset names (02 R48). -/
def Issue.target (is : Issue) (off : Nat) : Word64 := is.hdr + BitVec.ofInt 64 (16 * sext 24 off)

/-- A transfer of every lane whose guard is 1 to one header (R157). -/
def branchEff (off : Nat) (split : Bool) (is : Issue) (s : State) : Option Done :=
  some ⟨s, 0, (lanesOf is.act).map fun l => (l, is.target off), split⟩

def execBr (q : QWord) (off : Nat) (s : State) : Host.Outcome State Fault Refusal :=
  issueWith (.br q off) 0 (branchEff off true) s

def execJmp (q : QWord) (off : Nat) (s : State) : Host.Outcome State Fault Refusal :=
  issueWith (.jmp q off) 0 (branchEff off false) s

/-- A transfer of each lane to the address in its pair; one outside the address range takes the translation trap
(R158). -/
def indirectEff (o : Opd) (split : Bool) (is : Issue) (s : State) : Option Done :=
  let js := (lanesOf is.act).map fun l => (l, is.src s true o l)
  let bad := js.filter fun j => 2 ^ 56 ≤ j.2
  let ok := (js.filter fun j => j.2 < 2 ^ 56).map fun j => (j.1, BitVec.ofNat 64 j.2)
  let m := maskOf fun l => bad.any fun j => j.1 = l
  let line := match bad with
    | j :: _ => BitVec.ofNat 64 (j.2 / 128 * 128)
    | [] => 0
  some ⟨s.takeTrap is.ctx m { TrapInfo.plain trapTranslation with line := line } is.h is.hdr is.idx, m, ok, split⟩

def execJmpx (t : TWord) (s : State) : Host.Outcome State Fault Refusal :=
  issueWith (.jmpx t) 0 (indirectEff t.a true) s

def execRet (t : TWord) (s : State) : Host.Outcome State Fault Refusal :=
  issueWith (.ret t) 0 (indirectEff t.a false) s

/-- The link written on the lanes that transfer, in latency class A (R159). -/
def linked (d : Dst) (is : Issue) (x : Option Done) : Option Done :=
  x.map fun z =>
    let link := (is.hdr + BitVec.ofNat 64 is.h.size).toNat
    { z with s := z.s.later is.ctx 4 (z.jump.flatMap fun j => dstPut d 2 j.1 link) 0 false }

def execCall (q : QWord) (off : Nat) (s : State) : Host.Outcome State Fault Refusal :=
  issueWith (.call q off) 4 (fun is s => linked q.d is (branchEff off true is s)) s

def execCallx (t : TWord) (s : State) : Host.Outcome State Fault Refusal :=
  issueWith (.callx t) 4 (fun is s => linked t.d is (indirectEff t.a true is s)) s

def execNop (t : TWord) (s : State) : Host.Outcome State Fault Refusal :=
  issueWith (.nop t) 0 (fun _ s => some (.next s)) s

/-- yield: the gang becomes the youngest of its class, whatever the guard (R160). -/
def execYield (t : TWord) (s : State) : Host.Outcome State Fault Refusal :=
  match (Instr.yield t).row with
  | none => .next s
  | some r =>
    match front r s with
    | .stall => .next s
    | .trapped s1 => ret s1
    | .go is s1 =>
      ret (finish is 0 (.next (if is.ctx.isCC then s1 else s1.modCtx is.ctx fun c => { c with age := 2 * s1.clk is.ctx + 1 })))

/-- trap: the software trap with its code (R162). -/
def execTrap (q : QWord) (code : Nat) (s : State) : Host.Outcome State Fault Refusal :=
  issueWith (.trap q code) 0 (fun is s =>
    some (.held (s.takeTrap is.ctx is.act { TrapInfo.plain trapSoftware with code := code % 2 ^ 24 } is.h is.hdr is.idx)
      is.act)) s

end Sys2Proof.Machine
end

