-- ==== Sys2Proof/Machine/ConvOps.lean ====
section
/-! DEFINITION. Conversion and block formats, class 0x3 (08 R195-R201). -/

namespace Sys2Proof

/-- Element i of a packed register (R20). -/
def elemOf (t : Ty) (x i : Nat) : Nat := x / 2 ^ (t.bits * i) % 2 ^ t.bits

/-- One converted source of pack (R198). -/
def packOne (dt : Ty) (rm : Rnd) (ftz sat : Bool) (x : Nat) : FRes :=
  if dt.isFloat then dt.cvt .f32 rm ftz sat x else ⟨fit sat dt (sext 32 x), 0⟩

/-- pack: two adjacent elements of a register replaced (R198). -/
def packWord (dt : Ty) (n : Nat) (rm : Rnd) (ftz sat : Bool) (a b c : Nat) : FRes :=
  let w := dt.bits
  let x := packOne dt rm ftz sat a
  let y := packOne dt rm ftz sat b
  let lo := 2 * n * w
  ⟨c % 2 ^ lo + (x.bits + y.bits * 2 ^ w) * 2 ^ lo + c / 2 ^ (lo + 2 * w) * 2 ^ (lo + 2 * w), x.fl ||| y.fl⟩

/-- One element of unpk: as f32, or as a 32-bit integer of the element's signedness (R198). -/
def unpkOne (st : Ty) (ftz : Bool) (x : Nat) : FRes :=
  if st.isFloat then Ty.f32.cvt st .rne ftz false x else ⟨wrap 32 (st.value x), 0⟩

/-- unpk: elements 2n and 2n + 1 in a pair (R198). -/
def unpkPair (st : Ty) (n : Nat) (ftz : Bool) (a : Nat) : FRes :=
  let x := unpkOne st ftz (elemOf st a (2 * n))
  let y := unpkOne st ftz (elemOf st a (2 * n + 1))
  ⟨x.bits + 2 ^ 32 * y.bits, x.fl ||| y.fl⟩

namespace Machine

def execCvt (t : TWord) (src : Ty) (el : Nat) (s : State) : Host.Outcome State Fault Refusal :=
  issueWith (.cvt t src el) 6 (perLane 6 true fun is s l =>
    let r := t.ty.cvt src t.rnd t.ftz t.sat (elemOf src (is.ty s src t.a l) el)
    ⟨dstPut t.d (tyRegs t.ty) l r.bits, r.fl⟩) s

def execFrnd (t : TWord) (s : State) : Host.Outcome State Fault Refusal :=
  issueWith (.frnd t) (latF t.ty)
    (floatEff t false (latF t.ty) (tyRegs t.ty) fun a _ _ => t.ty.frnd t.rnd t.ftz a) s

def execPack (t : TWord) (at_ : Nat) (s : State) : Host.Outcome State Fault Refusal :=
  issueWith (.pack t at_) 6 (perLane 6 true fun is s l =>
    let r := packWord t.ty at_ t.rnd t.ftz t.sat (is.src s false t.a l) (is.src s false t.b l) (is.src s false t.s l)
    ⟨dstPut t.d 1 l r.bits, r.fl⟩) s

def execUnpk (t : TWord) (at_ : Nat) (s : State) : Host.Outcome State Fault Refusal :=
  issueWith (.unpk t at_) 6 (perLane 6 true fun is s l =>
    let r := unpkPair t.ty at_ t.ftz (is.src s false t.a l)
    ⟨dstPut t.d 2 l r.bits, r.fl⟩) s

/-- The block a path's participants form: the other lanes contribute +0 (R199). -/
def blockSources (t : TWord) (is : Issue) (s : State) : List (Option Nat) :=
  (List.range 64).map fun l => if is.act.getLsbD l then some (is.src s false t.a l) else none

/-- qz4 and qz8: every participant receives its words of the block (R199). -/
def blockEff (t : TWord) (quant : Bool → List (Option Nat) → Block) (word : Block → Nat → Nat) (own : Block → Nat → Nat)
    (is : Issue) (s : State) : Option Done :=
  let b := quant t.ftz (blockSources t is s)
  let res := (lanesOf is.act).flatMap fun l => dstPut t.d 2 l (word b l + 2 ^ 32 * own b l)
  some (.next (s.later is.ctx 12 res b.fl true))

def execQz4 (t : TWord) (s : State) : Host.Outcome State Fault Refusal :=
  issueWith (.qz4 t) 12 (blockEff t qz4 (fun b l => b.word4 (l % 8))
    fun b l => b.scale + 256 * b.spare + 65536 * b.codes.getD l 0) s

def execQz8 (t : TWord) (s : State) : Host.Outcome State Fault Refusal :=
  issueWith (.qz8 t) 12 (blockEff t qz8 (fun b l => b.word8 (l % 16))
    fun b l => b.scale + 256 * b.codes.getD l 0) s

def execDqz4 (t : TWord) (s : State) : Host.Outcome State Fault Refusal :=
  issueWith (.dqz4 t) 12 (perLane 12 true fun is s l =>
    let r := t.ty.dqz4 t.rnd t.ftz t.sat (is.src s false t.a l) (is.src s false t.b l) (is.src s false t.s l)
    ⟨dstPut t.d 1 l r.bits, r.fl⟩) s

def execDqz8 (t : TWord) (s : State) : Host.Outcome State Fault Refusal :=
  issueWith (.dqz8 t) 12 (perLane 12 true fun is s l =>
    let r := t.ty.dqz8 t.rnd t.ftz t.sat (is.src s false t.a l) (is.src s false t.b l) (is.src s false t.s l)
    ⟨dstPut t.d 1 l r.bits, r.fl⟩) s

def execQres (t : TWord) (s : State) : Host.Outcome State Fault Refusal :=
  issueWith (.qres t) 12 (perLane 12 true fun is s l =>
    let r := t.ty.qres t.rnd t.ftz t.sat (is.src s false t.a l) (is.src s false t.b l)
    ⟨dstPut t.d 2 l (r.1.bits + 2 ^ 32 * r.2.bits), r.1.fl ||| r.2.fl⟩) s

end Machine

end Sys2Proof
end

