-- ==== Sys2Proof/Machine/IntOps.lean ====
section
/-! DEFINITION. Integer arithmetic, class 0x0 (07 R163-R170). -/

namespace Sys2Proof

/-- Bits(value, w) of an integer of type t, without clamping. -/
def Ty.low (t : Ty) (v : Int) : Nat := wrap t.bits v

/-- div (R168). -/
def intDiv (sat : Bool) (t : Ty) (a b : Int) : Nat := if b = 0 then 2 ^ t.bits - 1 else fit sat t (a.tdiv b)

/-- rem (R168). -/
def intRem (t : Ty) (a b : Int) : Nat := if b = 0 then t.low a else t.low (a - b * a.tdiv b)

/-- Element i of a packed register, as a value of type t (R170). -/
def elemValue (t : Ty) (x i : Nat) : Int := t.value (x / 2 ^ (t.bits * i))

/-- sad: the sum of the elements' absolute differences and C (R170). -/
def sadSum (t : Ty) (a b c : Nat) : Int :=
  (List.range t.elems).foldl (fun z i => z + (elemValue t a i - elemValue t b i).natAbs) (c : Int)

/-- The type of S2's elements in dp4 (R170). -/
def dp4Other (t : Ty) (mixed : Bool) : Ty := if mixed then (if t = .s8 then .n8 else .s8) else t

/-- The accumulator's type in dp4 (R170). -/
def dp4Acc (t : Ty) (mixed : Bool) : Ty := if t = .n8 ∧ mixed = false then .n32 else .s32

/-- dp4: the dot product of four 8-bit elements added to C (R170). -/
def dp4Sum (t : Ty) (mixed : Bool) (a b c : Nat) : Int :=
  (List.range 4).foldl (fun z i => z + elemValue t a i * elemValue (dp4Other t mixed) b i)
    ((dp4Acc t mixed).value c)

namespace Machine

/-- The latency of a multiply: class B, E for 64 bits (R167). -/
def latMul (t : Ty) : Nat := if t.bits = 64 then 12 else 6

/-- The latency of a division: class H, I for 64 bits (R167). -/
def latDiv (t : Ty) : Nat := if t.bits = 64 then 32 else 20

/-- An integer result of A, B and C read in the word's type (R164, R168). -/
def intEff (t : TWord) (lat : Nat) (f : Int → Int → Int → Nat) : Issue → State → Option Done :=
  perLane lat false fun is s l =>
    ⟨dstPut t.d (tyRegs t.ty) l (f (t.ty.value (is.ty s t.ty t.a l)) (t.ty.value (is.ty s t.ty t.b l))
      (t.ty.value (is.ty s t.ty t.s l))), 0⟩

/-- addc and subb: the result, and the carry or borrow in its predicate (R168). -/
def carryEff (t : TWord) (co : Nat) (f : Int → Int → Int → Int) (out : Nat → Nat → Nat → Nat → Bool) :
    Issue → State → Option Done :=
  perLane 4 false fun is s l =>
    let a := is.ty s t.ty t.a l
    let b := is.ty s t.ty t.b l
    let c := is.src s false t.s l % 2
    ⟨dstPut t.d (tyRegs t.ty) l (t.ty.low (f a b c)) ++ carryRes l co (out t.ty.bits a b c), 0⟩

/-- An immediate twin: a 32-bit result in s32 (R73). -/
def immEff (q : QWord) (imm lat : Nat) (f : Nat → Nat → Nat) : Issue → State → Option Done :=
  perLane lat false fun is s l => ⟨dstPut q.d 1 l (f (is.srcImm s imm q.a l) (is.srcImm s imm q.b l)), 0⟩

def execAdd (t : TWord) (s : State) : Host.Outcome State Fault Refusal :=
  issueWith (.add t) 4 (intEff t 4 fun a b _ => fit t.sat t.ty (a + b)) s

def execSub (t : TWord) (s : State) : Host.Outcome State Fault Refusal :=
  issueWith (.sub t) 4 (intEff t 4 fun a b _ => fit t.sat t.ty (a - b)) s

def execAddc (t : TWord) (co : Nat) (s : State) : Host.Outcome State Fault Refusal :=
  issueWith (.addc t co) 4 (carryEff t co (fun a b c => a + b + c) carryOut) s

def execSubb (t : TWord) (co : Nat) (s : State) : Host.Outcome State Fault Refusal :=
  issueWith (.subb t co) 4 (carryEff t co (fun a b c => a - b - c) borrowOut) s

def execMul (t : TWord) (s : State) : Host.Outcome State Fault Refusal :=
  issueWith (.mul t) (latMul t.ty) (intEff t (latMul t.ty) fun a b _ => fit t.sat t.ty (a * b)) s

def execMulhi (t : TWord) (s : State) : Host.Outcome State Fault Refusal :=
  issueWith (.mulhi t) (latMul t.ty) (intEff t (latMul t.ty) fun a b _ =>
    t.ty.low (Int.fdiv (a * b) (2 ^ t.ty.bits : Nat))) s

def execMad (t : TWord) (s : State) : Host.Outcome State Fault Refusal :=
  issueWith (.mad t) (latMul t.ty) (intEff t (latMul t.ty) fun a b c => fit t.sat t.ty (a * b + c)) s

def execMadhi (t : TWord) (s : State) : Host.Outcome State Fault Refusal :=
  issueWith (.madhi t) (latMul t.ty) (intEff t (latMul t.ty) fun a b c =>
    t.ty.low (Int.fdiv (a * b) (2 ^ t.ty.bits : Nat) + c)) s

def execDiv (t : TWord) (s : State) : Host.Outcome State Fault Refusal :=
  issueWith (.div t) (latDiv t.ty) (intEff t (latDiv t.ty) fun a b _ => intDiv t.sat t.ty a b) s

def execRem (t : TWord) (s : State) : Host.Outcome State Fault Refusal :=
  issueWith (.rem t) (latDiv t.ty) (intEff t (latDiv t.ty) fun a b _ => intRem t.ty a b) s

def execNeg (t : TWord) (s : State) : Host.Outcome State Fault Refusal :=
  issueWith (.neg t) 4 (intEff t 4 fun a _ _ => fit t.sat t.ty (-a)) s

def execAbs (t : TWord) (s : State) : Host.Outcome State Fault Refusal :=
  issueWith (.abs t) 4 (intEff t 4 fun a _ _ => fit t.sat t.ty a.natAbs) s

def execMin (t : TWord) (s : State) : Host.Outcome State Fault Refusal :=
  issueWith (.min t) 4 (intEff t 4 fun a b _ => t.ty.low (if b < a then b else a)) s

def execMax (t : TWord) (s : State) : Host.Outcome State Fault Refusal :=
  issueWith (.max t) 4 (intEff t 4 fun a b _ => t.ty.low (if a < b then b else a)) s

/-- lea: a 64-bit base and a 32-bit index (R169). -/
def execLea (t : TWord) (sh : Nat) (s : State) : Host.Outcome State Fault Refusal :=
  issueWith (.lea t sh) 4 (perLane 4 false fun is s l =>
    ⟨dstPut t.d 2 l (wrap 64 ((is.src s true t.a l : Int) + t.ty.value (is.src s false t.b l) * (2 ^ sh : Nat))), 0⟩) s

def execSad (t : TWord) (s : State) : Host.Outcome State Fault Refusal :=
  issueWith (.sad t) 6 (perLane 6 false fun is s l =>
    ⟨dstPut t.d 1 l (fit t.sat .n32 (sadSum t.ty (is.src s false t.a l) (is.src s false t.b l)
      (is.src s false t.s l))), 0⟩) s

def execDp4 (t : TWord) (mixed : Bool) (s : State) : Host.Outcome State Fault Refusal :=
  issueWith (.dp4 t mixed) 6 (perLane 6 false fun is s l =>
    ⟨dstPut t.d 1 l (fit t.sat (dp4Acc t.ty mixed) (dp4Sum t.ty mixed (is.src s false t.a l) (is.src s false t.b l)
      (is.src s false t.s l))), 0⟩) s

def execAddImm (q : QWord) (imm : Nat) (s : State) : Host.Outcome State Fault Refusal :=
  issueWith (.addImm q imm) 4 (immEff q imm 4 fun a b => wrap 32 ((a : Int) + b)) s

def execSubImm (q : QWord) (imm : Nat) (s : State) : Host.Outcome State Fault Refusal :=
  issueWith (.subImm q imm) 4 (immEff q imm 4 fun a b => wrap 32 ((a : Int) - b)) s

def execMulImm (q : QWord) (imm : Nat) (s : State) : Host.Outcome State Fault Refusal :=
  issueWith (.mulImm q imm) 6 (immEff q imm 6 fun a b => a * b % 2 ^ 32) s

def execMinImm (q : QWord) (imm : Nat) (s : State) : Host.Outcome State Fault Refusal :=
  issueWith (.minImm q imm) 4 (immEff q imm 4 fun a b => if sext 32 b < sext 32 a then b else a) s

def execMaxImm (q : QWord) (imm : Nat) (s : State) : Host.Outcome State Fault Refusal :=
  issueWith (.maxImm q imm) 4 (immEff q imm 4 fun a b => if sext 32 a < sext 32 b then b else a) s

end Machine

end Sys2Proof
end

