-- ==== Sys2Proof/Machine/PredOps.lean ====
section
/-! DEFINITION. Compares, predicates, votes and lane masks, class 0x4 (07 R179-R184). -/

namespace Sys2Proof

/-- A run of lanes from `st`, clipped to the lanes there are, whatever their state: 64, or on a column core lane 0 alone (R184; 03
R79). -/
def runMask (cc : Bool) (st : Int) (len : Nat) : Word64 :=
  maskOf fun l => decide (st ≤ (l : Int) ∧ (l : Int) < st + (len : Int)) && (!cc || decide (l = 0))

/-- lanemask.abs (R184). -/
def runAbs (cc : Bool) (d : Nat) : Word64 := runMask cc ((d % 64 : Nat) : Int) (bitsOf d 13 7)

/-- lanemask.rel (R184). -/
def runRel (cc : Bool) (l d : Nat) : Word64 := runMask cc ((l : Int) + sext 7 d) (bitsOf d 13 7)

namespace Machine

/-- cmp: an integer or floating comparison combined with S3 (R180-R182). -/
def execCmp (t : TWord) (cc : CC) (comb : Comb) (s : State) : Host.Outcome State Fault Refusal :=
  issueWith (.cmp t cc comb) 4 (perLane 4 t.ty.isFloat fun is s l =>
    let a := is.ty s t.ty t.a l
    let b := is.ty s t.ty t.b l
    let r : Bool × Flags := if t.ty.isFloat then t.ty.fcmp t.ftz cc (a % 2 ^ t.ty.bits) (b % 2 ^ t.ty.bits)
      else (cc.holds (t.ty.value a) (t.ty.value b), 0)
    ⟨dstPut t.d 1 l (bit (comb.apply r.1 (is.truth s t.s l))), r.2⟩) s

/-- A predicate, or a register, written with a truth value (R183). -/
def truthEff (t : TWord) (f : Bool → Bool → Bool) : Issue → State → Option Done :=
  perLane 4 false fun is s l => ⟨dstPut t.d 1 l (bit (f (is.truth s t.a l) (is.truth s t.b l))), 0⟩

def execTst (t : TWord) (z : Bool) (s : State) : Host.Outcome State Fault Refusal :=
  issueWith (.tst t z) 4 (perLane 4 false fun is s l =>
    ⟨dstPut t.d 1 l (bit (decide ((is.ty s t.ty t.a l &&& is.ty s t.ty t.b l) ≠ 0) != z)), 0⟩) s

def execPand (t : TWord) (s : State) : Host.Outcome State Fault Refusal :=
  issueWith (.pand t) 4 (truthEff t fun a b => a && b) s

def execPor (t : TWord) (s : State) : Host.Outcome State Fault Refusal :=
  issueWith (.por t) 4 (truthEff t fun a b => a || b) s

def execPxor (t : TWord) (s : State) : Host.Outcome State Fault Refusal :=
  issueWith (.pxor t) 4 (truthEff t fun a b => a != b) s

def execPnot (t : TWord) (s : State) : Host.Outcome State Fault Refusal :=
  issueWith (.pnot t) 4 (truthEff t fun a _ => !a) s

def execPmov (t : TWord) (s : State) : Host.Outcome State Fault Refusal :=
  issueWith (.pmov t) 4 (truthEff t fun a _ => a) s

/-- pmov.all: the eight predicates into a register, or seven predicates from one (R183). -/
def execPmovAll (t : TWord) (s : State) : Host.Outcome State Fault Refusal :=
  issueWith (.pmovAll t) 4 (perLane 4 false fun is s l =>
    match t.d with
    | .p _ => ⟨(List.range 7).map fun i => .p l i ((is.src s false t.a l).testBit i), 0⟩
    | _ => ⟨dstPut t.d 1 l (((is.c.lane l).p.toNat) + 128), 0⟩) s

/-- One value written to every participant (R184). -/
def toAll (t : TWord) (lat n : Nat) (f : Issue → State → Nat → Nat) : Issue → State → Option Done :=
  perLane lat false fun is s l => ⟨dstPut t.d n l (f is s l), 0⟩

def execVoteAny (t : TWord) (s : State) : Host.Outcome State Fault Refusal :=
  issueWith (.voteAny t) 8 (toAll t 8 1 fun is s _ => bit ((lanesOf is.act).any (is.truth s t.a))) s

def execVoteAll (t : TWord) (s : State) : Host.Outcome State Fault Refusal :=
  issueWith (.voteAll t) 8 (toAll t 8 1 fun is s _ => bit ((lanesOf is.act).all (is.truth s t.a))) s

def execBallot (t : TWord) (s : State) : Host.Outcome State Fault Refusal :=
  issueWith (.ballot t) 8 (toAll t 8 2 fun is s _ =>
    (maskOf fun l => is.act.getLsbD l && is.truth s t.a l).toNat) s

def execLanemaskAct (t : TWord) (s : State) : Host.Outcome State Fault Refusal :=
  issueWith (.lanemaskAct t) 8 (toAll t 8 2 fun is _ _ => is.act.toNat) s

def execLanemaskAbs (t : TWord) (s : State) : Host.Outcome State Fault Refusal :=
  issueWith (.lanemaskAbs t) 8 (toAll t 8 2 fun is s l => (runAbs is.ctx.isCC (is.src s false t.a l)).toNat) s

def execLanemaskRel (t : TWord) (s : State) : Host.Outcome State Fault Refusal :=
  issueWith (.lanemaskRel t) 8 (toAll t 8 2 fun is s l => (runRel is.ctx.isCC l (is.src s false t.a l)).toNat) s

end Machine

end Sys2Proof
end

