-- ==== Sys2Proof/Machine/Dispatch.lean ====
section
/-! DEFINITION. The one match from an instruction to its meaning. -/

namespace Sys2Proof.Machine

def exec (i : Instr) (s : State) : Host.Outcome State Fault Refusal :=
  match i with
  | .add t => Sys2Proof.Machine.execAdd t s
  | .sub t => Sys2Proof.Machine.execSub t s
  | .addc t co => Sys2Proof.Machine.execAddc t co s
  | .subb t co => Sys2Proof.Machine.execSubb t co s
  | .mul t => Sys2Proof.Machine.execMul t s
  | .mulhi t => Sys2Proof.Machine.execMulhi t s
  | .mad t => Sys2Proof.Machine.execMad t s
  | .madhi t => Sys2Proof.Machine.execMadhi t s
  | .div t => Sys2Proof.Machine.execDiv t s
  | .rem t => Sys2Proof.Machine.execRem t s
  | .neg t => Sys2Proof.Machine.execNeg t s
  | .abs t => Sys2Proof.Machine.execAbs t s
  | .min t => Sys2Proof.Machine.execMin t s
  | .max t => Sys2Proof.Machine.execMax t s
  | .lea t sh => Sys2Proof.Machine.execLea t sh s
  | .sad t => Sys2Proof.Machine.execSad t s
  | .dp4 t mixed => Sys2Proof.Machine.execDp4 t mixed s
  | .and t => Sys2Proof.Machine.execAnd t s
  | .or t => Sys2Proof.Machine.execOr t s
  | .xor t => Sys2Proof.Machine.execXor t s
  | .andn t => Sys2Proof.Machine.execAndn t s
  | .orn t => Sys2Proof.Machine.execOrn t s
  | .not t => Sys2Proof.Machine.execNot t s
  | .shl t => Sys2Proof.Machine.execShl t s
  | .shr t => Sys2Proof.Machine.execShr t s
  | .sar t => Sys2Proof.Machine.execSar t s
  | .rol t => Sys2Proof.Machine.execRol t s
  | .ror t => Sys2Proof.Machine.execRor t s
  | .bfe t => Sys2Proof.Machine.execBfe t s
  | .bfi t => Sys2Proof.Machine.execBfi t s
  | .brev t => Sys2Proof.Machine.execBrev t s
  | .clz t => Sys2Proof.Machine.execClz t s
  | .ctz t => Sys2Proof.Machine.execCtz t s
  | .popc t => Sys2Proof.Machine.execPopc t s
  | .perm t => Sys2Proof.Machine.execPerm t s
  | .mov t => Sys2Proof.Machine.execMov t s
  | .sel t => Sys2Proof.Machine.execSel t s
  | .fadd t x2 => Sys2Proof.Machine.execFadd t x2 s
  | .fsub t x2 => Sys2Proof.Machine.execFsub t x2 s
  | .fmul t x2 => Sys2Proof.Machine.execFmul t x2 s
  | .fma t x2 => Sys2Proof.Machine.execFma t x2 s
  | .fmin t x2 => Sys2Proof.Machine.execFmin t x2 s
  | .fmax t x2 => Sys2Proof.Machine.execFmax t x2 s
  | .fabs t x2 => Sys2Proof.Machine.execFabs t x2 s
  | .fneg t x2 => Sys2Proof.Machine.execFneg t x2 s
  | .fdiv t x2 => Sys2Proof.Machine.execFdiv t x2 s
  | .fsqrt t x2 => Sys2Proof.Machine.execFsqrt t x2 s
  | .frcp t x2 => Sys2Proof.Machine.execFrcp t x2 s
  | .frsq t x2 => Sys2Proof.Machine.execFrsq t x2 s
  | .fex2 t x2 => Sys2Proof.Machine.execFex2 t x2 s
  | .flg2 t x2 => Sys2Proof.Machine.execFlg2 t x2 s
  | .fcls t x2 => Sys2Proof.Machine.execFcls t x2 s
  | .fscl t x2 => Sys2Proof.Machine.execFscl t x2 s
  | .cvt t src el => Sys2Proof.Machine.execCvt t src el s
  | .frnd t => Sys2Proof.Machine.execFrnd t s
  | .pack t at_ => Sys2Proof.Machine.execPack t at_ s
  | .unpk t at_ => Sys2Proof.Machine.execUnpk t at_ s
  | .qz4 t => Sys2Proof.Machine.execQz4 t s
  | .dqz4 t => Sys2Proof.Machine.execDqz4 t s
  | .qz8 t => Sys2Proof.Machine.execQz8 t s
  | .dqz8 t => Sys2Proof.Machine.execDqz8 t s
  | .qres t => Sys2Proof.Machine.execQres t s
  | .cmp t cc comb => Sys2Proof.Machine.execCmp t cc comb s
  | .tst t z => Sys2Proof.Machine.execTst t z s
  | .pand t => Sys2Proof.Machine.execPand t s
  | .por t => Sys2Proof.Machine.execPor t s
  | .pxor t => Sys2Proof.Machine.execPxor t s
  | .pnot t => Sys2Proof.Machine.execPnot t s
  | .pmov t => Sys2Proof.Machine.execPmov t s
  | .pmovAll t => Sys2Proof.Machine.execPmovAll t s
  | .voteAny t => Sys2Proof.Machine.execVoteAny t s
  | .voteAll t => Sys2Proof.Machine.execVoteAll t s
  | .ballot t => Sys2Proof.Machine.execBallot t s
  | .lanemaskAct t => Sys2Proof.Machine.execLanemaskAct t s
  | .lanemaskAbs t => Sys2Proof.Machine.execLanemaskAbs t s
  | .lanemaskRel t => Sys2Proof.Machine.execLanemaskRel t s
  | .shflIdx t wd => Sys2Proof.Machine.execShflIdx t wd s
  | .shflUp t wd => Sys2Proof.Machine.execShflUp t wd s
  | .shflDown t wd => Sys2Proof.Machine.execShflDown t wd s
  | .shflXor t wd => Sys2Proof.Machine.execShflXor t wd s
  | .redl t op => Sys2Proof.Machine.execRedl t op s
  | .scanl t op => Sys2Proof.Machine.execScanl t op s
  | .bcast t => Sys2Proof.Machine.execBcast t s
  | .qinit t q => Sys2Proof.Machine.execQinit t q s
  | .qpushRsv t q port => Sys2Proof.Machine.execQpushRsv t q port s
  | .qpushPub t q => Sys2Proof.Machine.execQpushPub t q s
  | .qpop t q => Sys2Proof.Machine.execQpop t q s
  | .qallow t q port => Sys2Proof.Machine.execQallow t q port s
  | .qpeek t q => Sys2Proof.Machine.execQpeek t q s
  | .xarm t box => Sys2Proof.Machine.execXarm t box s
  | .xpush t box => Sys2Proof.Machine.execXpush t box s
  | .jmpx t => Sys2Proof.Machine.execJmpx t s
  | .callx t => Sys2Proof.Machine.execCallx t s
  | .ret t => Sys2Proof.Machine.execRet t s
  | .exit t => Sys2Proof.Machine.execExit t s
  | .teamNew t => Sys2Proof.Machine.execTeamNew t s
  | .teamFree t => Sys2Proof.Machine.execTeamFree t s
  | .join t => Sys2Proof.Machine.execJoin t s
  | .leave t => Sys2Proof.Machine.execLeave t s
  | .regx t => Sys2Proof.Machine.execRegx t s
  | .trigger t sc => Sys2Proof.Machine.execTrigger t sc s
  | .launch t => Sys2Proof.Machine.execLaunch t s
  | .yield t => Sys2Proof.Machine.execYield t s
  | .nop t => Sys2Proof.Machine.execNop t s
  | .tlbinvPage t => Sys2Proof.Machine.execTlbinvPage t s
  | .tlbinvNonglobal t => Sys2Proof.Machine.execTlbinvNonglobal t s
  | .tlbinvAll t => Sys2Proof.Machine.execTlbinvAll t s
  | .tlbsync t => Sys2Proof.Machine.execTlbsync t s
  | .evqPop t => Sys2Proof.Machine.execEvqPop t s
  | .evqPost t => Sys2Proof.Machine.execEvqPost t s
  | .trapretResume t => Sys2Proof.Machine.execTrapretResume t s
  | .trapretSkip t => Sys2Proof.Machine.execTrapretSkip t s
  | .trapretEnd t => Sys2Proof.Machine.execTrapretEnd t s
  | .halt t => Sys2Proof.Machine.execHalt t s
  | .wfi t => Sys2Proof.Machine.execWfi t s
  | .addImm q imm => Sys2Proof.Machine.execAddImm q imm s
  | .subImm q imm => Sys2Proof.Machine.execSubImm q imm s
  | .mulImm q imm => Sys2Proof.Machine.execMulImm q imm s
  | .minImm q imm => Sys2Proof.Machine.execMinImm q imm s
  | .maxImm q imm => Sys2Proof.Machine.execMaxImm q imm s
  | .movi q imm => Sys2Proof.Machine.execMovi q imm s
  | .movhi q imm => Sys2Proof.Machine.execMovhi q imm s
  | .movk q imm h => Sys2Proof.Machine.execMovk q imm h s
  | .andImm q imm => Sys2Proof.Machine.execAndImm q imm s
  | .orImm q imm => Sys2Proof.Machine.execOrImm q imm s
  | .xorImm q imm => Sys2Proof.Machine.execXorImm q imm s
  | .shlImm q imm => Sys2Proof.Machine.execShlImm q imm s
  | .shrImm q imm => Sys2Proof.Machine.execShrImm q imm s
  | .sarImm q imm => Sys2Proof.Machine.execSarImm q imm s
  | .rolImm q imm => Sys2Proof.Machine.execRolImm q imm s
  | .rorImm q imm => Sys2Proof.Machine.execRorImm q imm s
  | .shflIdxImm q n wd => Sys2Proof.Machine.execShflIdxImm q n wd s
  | .shflUpImm q n wd => Sys2Proof.Machine.execShflUpImm q n wd s
  | .shflDownImm q n wd => Sys2Proof.Machine.execShflDownImm q n wd s
  | .shflXorImm q n wd => Sys2Proof.Machine.execShflXorImm q n wd s
  | .mshape q => Sys2Proof.Machine.execMshape q s
  | .mwld q w st cl fmt kn => Sys2Proof.Machine.execMwld q w st cl fmt kn s
  | .mwldNoc q w st fmt kn => Sys2Proof.Machine.execMwldNoc q w st fmt kn s
  | .mmac q => Sys2Proof.Machine.execMmac q s
  | .mstat q wait clr => Sys2Proof.Machine.execMstat q wait clr s
  | .aeGo q n => Sys2Proof.Machine.execAeGo q n s
  | .aeHalt q => Sys2Proof.Machine.execAeHalt q s
  | .cpGo q dd ss cl => Sys2Proof.Machine.execCpGo q dd ss cl s
  | .cpGoNoc q dd ss => Sys2Proof.Machine.execCpGoNoc q dd ss s
  | .cpFill q dd cl => Sys2Proof.Machine.execCpFill q dd cl s
  | .cpFillNoc q dd => Sys2Proof.Machine.execCpFillNoc q dd s
  | .collGo q => Sys2Proof.Machine.execCollGo q s
  | .collGrp q n => Sys2Proof.Machine.execCollGrp q n s
  | .br q off => Sys2Proof.Machine.execBr q off s
  | .jmp q off => Sys2Proof.Machine.execJmp q off s
  | .call q off => Sys2Proof.Machine.execCall q off s
  | .spawn q off => Sys2Proof.Machine.execSpawn q off s
  | .spawnHome q off => Sys2Proof.Machine.execSpawnHome q off s
  | .slotq q which n => Sys2Proof.Machine.execSlotq q which n s
  | .trap q code => Sys2Proof.Machine.execTrap q code s
  | .sysrd q reg b32 => Sys2Proof.Machine.execSysrd q reg b32 s
  | .syswr q reg b32 => Sys2Proof.Machine.execSyswr q reg b32 s
  | .clopIinv q => Sys2Proof.Machine.execClopIinv q s
  | .clopIall q => Sys2Proof.Machine.execClopIall q s
  | .clopL1wb q => Sys2Proof.Machine.execClopL1wb q s
  | .clopL1inv q => Sys2Proof.Machine.execClopL1inv q s
  | .errinjFlip1 q arr bt => Sys2Proof.Machine.execErrinjFlip1 q arr bt s
  | .errinjFlip2 q arr bt => Sys2Proof.Machine.execErrinjFlip2 q arr bt s
  | .errinjDisarm q arr bt => Sys2Proof.Machine.execErrinjDisarm q arr bt s
  | .pmReqQuiesce q => Sys2Proof.Machine.execPmReqQuiesce q s
  | .pmReqRelease q => Sys2Proof.Machine.execPmReqRelease q s
  | .pmReqEnterM2 q => Sys2Proof.Machine.execPmReqEnterM2 q s
  | .pmReqSetDemand q => Sys2Proof.Machine.execPmReqSetDemand q s
  | .secCallSecurityState q => Sys2Proof.Machine.execSecCallSecurityState q s
  | .secCallAttest q => Sys2Proof.Machine.execSecCallAttest q s
  | .secCallDeriveKey q => Sys2Proof.Machine.execSecCallDeriveKey q s
  | .secCallEraseKeys q => Sys2Proof.Machine.execSecCallEraseKeys q s
  | .secCallAuthDebug q => Sys2Proof.Machine.execSecCallAuthDebug q s
  | .secCallDebugChallenge q => Sys2Proof.Machine.execSecCallDebugChallenge q s
  | .secCallLockDebug q => Sys2Proof.Machine.execSecCallLockDebug q s
  | .secCallOther q svc => Sys2Proof.Machine.execSecCallOther q svc s
  | .brk q code => Sys2Proof.Machine.execBrk q code s
  | .ld m => Sys2Proof.Machine.execLd m s
  | .st m => Sys2Proof.Machine.execSt m s
  | .prf m => Sys2Proof.Machine.execPrf m s
  | .recLd m => Sys2Proof.Machine.execRecLd m s
  | .recSt m => Sys2Proof.Machine.execRecSt m s
  | .recMk m => Sys2Proof.Machine.execRecMk m s
  | .recAdj m => Sys2Proof.Machine.execRecAdj m s
  | .home m => Sys2Proof.Machine.execHome m s
  | .inv m => Sys2Proof.Machine.execInv m s
  | .wb m => Sys2Proof.Machine.execWb m s
  | .atomAdd m => Sys2Proof.Machine.execAtomAdd m s
  | .atomSub m => Sys2Proof.Machine.execAtomSub m s
  | .atomMinU m => Sys2Proof.Machine.execAtomMinU m s
  | .atomMaxU m => Sys2Proof.Machine.execAtomMaxU m s
  | .atomAnd m => Sys2Proof.Machine.execAtomAnd m s
  | .atomOr m => Sys2Proof.Machine.execAtomOr m s
  | .atomXor m => Sys2Proof.Machine.execAtomXor m s
  | .atomXchg m => Sys2Proof.Machine.execAtomXchg m s
  | .atomIncw m => Sys2Proof.Machine.execAtomIncw m s
  | .atomDecw m => Sys2Proof.Machine.execAtomDecw m s
  | .cas m => Sys2Proof.Machine.execCas m s
  | .atomMinS m => Sys2Proof.Machine.execAtomMinS m s
  | .atomMaxS m => Sys2Proof.Machine.execAtomMaxS m s
  | .redAdd m => Sys2Proof.Machine.execRedAdd m s
  | .redSub m => Sys2Proof.Machine.execRedSub m s
  | .redMinU m => Sys2Proof.Machine.execRedMinU m s
  | .redMaxU m => Sys2Proof.Machine.execRedMaxU m s
  | .redAnd m => Sys2Proof.Machine.execRedAnd m s
  | .redOr m => Sys2Proof.Machine.execRedOr m s
  | .redXor m => Sys2Proof.Machine.execRedXor m s
  | .redMinS m => Sys2Proof.Machine.execRedMinS m s
  | .redMaxS m => Sys2Proof.Machine.execRedMaxS m s
  | .atomAddF m => Sys2Proof.Machine.execAtomAddF m s
  | .atomSubF m => Sys2Proof.Machine.execAtomSubF m s
  | .atomMinF m => Sys2Proof.Machine.execAtomMinF m s
  | .atomMaxF m => Sys2Proof.Machine.execAtomMaxF m s
  | .redAddF m => Sys2Proof.Machine.execRedAddF m s
  | .redSubF m => Sys2Proof.Machine.execRedSubF m s
  | .redMinF m => Sys2Proof.Machine.execRedMinF m s
  | .redMaxF m => Sys2Proof.Machine.execRedMaxF m s
  | .dadd m => Sys2Proof.Machine.execDadd m s
  | .dld m => Sys2Proof.Machine.execDld m s
  | .ddrain m => Sys2Proof.Machine.execDdrain m s
  | .dqry m => Sys2Proof.Machine.execDqry m s
  | .dldE m => Sys2Proof.Machine.execDldE m s
  | .fenceAcq m => Sys2Proof.Machine.execFenceAcq m s
  | .fenceRel m => Sys2Proof.Machine.execFenceRel m s
  | .fenceAcqrel m => Sys2Proof.Machine.execFenceAcqrel m s
  | .claspInit m => Sys2Proof.Machine.execClaspInit m s
  | .claspArrive m => Sys2Proof.Machine.execClaspArrive m s
  | .claspExpect m => Sys2Proof.Machine.execClaspExpect m s
  | .claspWait m => Sys2Proof.Machine.execClaspWait m s
  | .claspTwait m => Sys2Proof.Machine.execClaspTwait m s
  | .claspTest m => Sys2Proof.Machine.execClaspTest m s
  | .impreciseStoreFault op => Sys2Proof.Machine.execImpreciseStoreFault op s
  | .tombFree gid => Sys2Proof.Machine.execTombFree gid s
  | .fixedLatencyWriteback ctx => Sys2Proof.Machine.execFixedLatencyWriteback ctx s
  | .longLatencyComplete op => Sys2Proof.Machine.execLongLatencyComplete op s
  | .instructionFetchFill ctx va => Sys2Proof.Machine.execInstructionFetchFill ctx va s
  | .reconvergenceTimeout gid => Sys2Proof.Machine.execReconvergenceTimeout gid s
  | .starvation gid => Sys2Proof.Machine.execStarvation gid s
  | .urgencyWindowEnd core => Sys2Proof.Machine.execUrgencyWindowEnd core s
  | .launchLineWrite col line off bytes => Sys2Proof.Machine.execLaunchLineWrite col line off bytes s
  | .launchGoWrite col line go => Sys2Proof.Machine.execLaunchGoWrite col line go s
  | .launchTake col line => Sys2Proof.Machine.execLaunchTake col line s
  | .predecessorSatisfied h => Sys2Proof.Machine.execPredecessorSatisfied h s
  | .rootDistribute h => Sys2Proof.Machine.execRootDistribute h s
  | .binTimeout core bin => Sys2Proof.Machine.execBinTimeout core bin s
  | .gangForm core bin part => Sys2Proof.Machine.execGangForm core bin part s
  | .spillReturn h entry => Sys2Proof.Machine.execSpillReturn h entry s
  | .launchRetire h => Sys2Proof.Machine.execLaunchRetire h s
  | .gangFree gid => Sys2Proof.Machine.execGangFree gid s
  | .teamReserveRefill core => Sys2Proof.Machine.execTeamReserveRefill core s
  | .regxGrant gid => Sys2Proof.Machine.execRegxGrant gid s
  | .regxEvict core part => Sys2Proof.Machine.execRegxEvict core part s
  | .gangSave gid => Sys2Proof.Machine.execGangSave gid s
  | .gangRestore col frame part => Sys2Proof.Machine.execGangRestore col frame part s
  | .longFaultResume ctx => Sys2Proof.Machine.execLongFaultResume ctx s
  | .migrationEpoch col => Sys2Proof.Machine.execMigrationEpoch col s
  | .migrationDone pa => Sys2Proof.Machine.execMigrationDone pa s
  | .tlbInvalidationArrive tlb which => Sys2Proof.Machine.execTlbInvalidationArrive tlb which s
  | .ownerRecall line => Sys2Proof.Machine.execOwnerRecall line s
  | .upgrade cache line => Sys2Proof.Machine.execUpgrade cache line s
  | .regionMerge base size => Sys2Proof.Machine.execRegionMerge base size s
  | .leaseHoldEnd op => Sys2Proof.Machine.execLeaseHoldEnd op s
  | .timeSkew cache skew => Sys2Proof.Machine.execTimeSkew cache skew s
  | .goldenRotate loop pkt => Sys2Proof.Machine.execGoldenRotate loop pkt s
  | .bangleDeliver pkt => Sys2Proof.Machine.execBangleDeliver pkt s
  | .forcedPublish cache upto => Sys2Proof.Machine.execForcedPublish cache upto s
  | .forcedPublishAck cache upto => Sys2Proof.Machine.execForcedPublishAck cache upto s
  | .writeForwardApply id => Sys2Proof.Machine.execWriteForwardApply id s
  | .wsstateTakeEffect half => Sys2Proof.Machine.execWsstateTakeEffect half s
  | .aeStreamBlock core stream => Sys2Proof.Machine.execAeStreamBlock core stream s
  | .queueSlotRelease core q gid => Sys2Proof.Machine.execQueueSlotRelease core q gid s
  | .qpopDeliver core q gid => Sys2Proof.Machine.execQpopDeliver core q gid s
  | .cpCommandComplete id => Sys2Proof.Machine.execCpCommandComplete id s
  | .cpCommandFault id => Sys2Proof.Machine.execCpCommandFault id s
  | .xpushDeliver core box => Sys2Proof.Machine.execXpushDeliver core box s
  | .pushBoxFree core box => Sys2Proof.Machine.execPushBoxFree core box s
  | .mwldStart core => Sys2Proof.Machine.execMwldStart core s
  | .mwldComplete core => Sys2Proof.Machine.execMwldComplete core s
  | .mwldFault core => Sys2Proof.Machine.execMwldFault core s
  | .mmacStart core => Sys2Proof.Machine.execMmacStart core s
  | .mmacPass core => Sys2Proof.Machine.execMmacPass core s
  | .mmacComplete core => Sys2Proof.Machine.execMmacComplete core s
  | .mmacFault core => Sys2Proof.Machine.execMmacFault core s
  | .mshapeComplete core => Sys2Proof.Machine.execMshapeComplete core s
  | .multicastTimeout core => Sys2Proof.Machine.execMulticastTimeout core s
  | .bandPowerOn core band => Sys2Proof.Machine.execBandPowerOn core band s
  | .claspAddBytes id => Sys2Proof.Machine.execClaspAddBytes id s
  | .claspWakeArrive col key => Sys2Proof.Machine.execClaspWakeArrive col key s
  | .claspPoll ctx => Sys2Proof.Machine.execClaspPoll ctx s
  | .claspTwaitTimeout ctx => Sys2Proof.Machine.execClaspTwaitTimeout ctx s
  | .slewAdmit => Sys2Proof.Machine.execSlewAdmit s
  | .shareRequest msg => Sys2Proof.Machine.execShareRequest msg s
  | .shareGrant msg => Sys2Proof.Machine.execShareGrant msg s
  | .forcedDrain msg => Sys2Proof.Machine.execForcedDrain msg s
  | .deltaWrite msg => Sys2Proof.Machine.execDeltaWrite msg s
  | .deltaAck msg => Sys2Proof.Machine.execDeltaAck msg s
  | .drainAck msg => Sys2Proof.Machine.execDrainAck msg s
  | .shareReturn msg => Sys2Proof.Machine.execShareReturn msg s
  | .toleranceQuery msg => Sys2Proof.Machine.execToleranceQuery msg s
  | .toleranceClear msg => Sys2Proof.Machine.execToleranceClear msg s
  | .toleranceDone msg => Sys2Proof.Machine.execToleranceDone msg s
  | .driftLineEvict cache line => Sys2Proof.Machine.execDriftLineEvict cache line s
  | .drent0Commit v => Sys2Proof.Machine.execDrent0Commit v s
  | .drent0Retire v => Sys2Proof.Machine.execDrent0Retire v s
  | .drent1Stage v => Sys2Proof.Machine.execDrent1Stage v s
  | .collChunk id partials down => Sys2Proof.Machine.execCollChunk id partials down s
  | .collChunkCommit id => Sys2Proof.Machine.execCollChunkCommit id s
  | .collNeighbourTimeout id rank => Sys2Proof.Machine.execCollNeighbourTimeout id rank s
  | .memberDown id rank => Sys2Proof.Machine.execMemberDown id rank s
  | .collComplete id => Sys2Proof.Machine.execCollComplete id s
  | .collEndFault id => Sys2Proof.Machine.execCollEndFault id s
  | .peerRequest r pa n enables => Sys2Proof.Machine.execPeerRequest r pa n enables s
  | .peerCompletionTimeout op => Sys2Proof.Machine.execPeerCompletionTimeout op s
  | .wavelengthFail link => Sys2Proof.Machine.execWavelengthFail link s
  | .linkDown link => Sys2Proof.Machine.execLinkDown link s
  | .linkUp link peer => Sys2Proof.Machine.execLinkUp link peer s
  | .flitReceive link seq flit => Sys2Proof.Machine.execFlitReceive link seq flit s
  | .podBudgetTick demand => Sys2Proof.Machine.execPodBudgetTick demand s
  | .demandMessage chip demand => Sys2Proof.Machine.execDemandMessage chip demand s
  | .slotDrainWindow => Sys2Proof.Machine.execSlotDrainWindow s
  | .slotStart => Sys2Proof.Machine.execSlotStart s
  | .slotEnd => Sys2Proof.Machine.execSlotEnd s
  | .slotExtend => Sys2Proof.Machine.execSlotExtend s
  | .carriedWorkPiece ns => Sys2Proof.Machine.execCarriedWorkPiece ns s
  | .calendarWrite reg v => Sys2Proof.Machine.execCalendarWrite reg v s
  | .calendarActivate => Sys2Proof.Machine.execCalendarActivate s
  | .ringhtWrite v => Sys2Proof.Machine.execRinghtWrite v s
  | .ringmapWrite v => Sys2Proof.Machine.execRingmapWrite v s
  | .ringMonitorSample die centre power => Sys2Proof.Machine.execRingMonitorSample die centre power s
  | .corbindWrite col v => Sys2Proof.Machine.execCorbindWrite col v s
  | .lprioWrite v => Sys2Proof.Machine.execLprioWrite v s
  | .lswitchOut col v => Sys2Proof.Machine.execLswitchOut col v s
  | .lswitchIn col v => Sys2Proof.Machine.execLswitchIn col v s
  | .lswitchEnd col v => Sys2Proof.Machine.execLswitchEnd col v s
  | .quiesceMarkerReturn h => Sys2Proof.Machine.execQuiesceMarkerReturn h s
  | .lswitchDonePost => Sys2Proof.Machine.execLswitchDonePost s
  | .watchdogExpire h => Sys2Proof.Machine.execWatchdogExpire h s
  | .evqOverflowPost col => Sys2Proof.Machine.execEvqOverflowPost col s
  | .evqHeadHostWrite q head => Sys2Proof.Machine.execEvqHeadHostWrite q head s
  | .errorDetected arr col core loc uc synd gid => Sys2Proof.Machine.execErrorDetected arr col core loc uc synd gid s
  | .errlogClear col core arr => Sys2Proof.Machine.execErrlogClear col core arr s
  | .governorTick col draw temp => Sys2Proof.Machine.execGovernorTick col draw temp s
  | .columnCapTick draws => Sys2Proof.Machine.execColumnCapTick draws s
  | .fastThrottleOn => Sys2Proof.Machine.execFastThrottleOn s
  | .fastThrottleOff => Sys2Proof.Machine.execFastThrottleOff s
  | .cStateEnter col => Sys2Proof.Machine.execCStateEnter col s
  | .cStateExit col => Sys2Proof.Machine.execCStateExit col s
  | .m1Enter => Sys2Proof.Machine.execM1Enter s
  | .m1Exit => Sys2Proof.Machine.execM1Exit s
  | .quiesceQuiet col => Sys2Proof.Machine.execQuiesceQuiet col s
  | .ctlWakeWrite v host => Sys2Proof.Machine.execCtlWakeWrite v host s
  | .brownoutEntry => Sys2Proof.Machine.execBrownoutEntry s
  | .brownAssert => Sys2Proof.Machine.execBrownAssert s
  | .brownRelease => Sys2Proof.Machine.execBrownRelease s
  | .throtSignal on => Sys2Proof.Machine.execThrotSignal on s
  | .brownoutResume back => Sys2Proof.Machine.execBrownoutResume back s
  | .powerOnReset ok => Sys2Proof.Machine.execPowerOnReset ok s
  | .bootimgWrite v => Sys2Proof.Machine.execBootimgWrite v s
  | .runtimeVerifyDone ok entry => Sys2Proof.Machine.execRuntimeVerifyDone ok entry s
  | .securityAlarm src => Sys2Proof.Machine.execSecurityAlarm src s
  | .apertureRead off n => Sys2Proof.Machine.execApertureRead off n s
  | .apertureWrite off bytes => Sys2Proof.Machine.execApertureWrite off bytes s
  | .ddataRead => Sys2Proof.Machine.execDdataRead s
  | .ddataWrite v => Sys2Proof.Machine.execDdataWrite v s
  | .drdataRead => Sys2Proof.Machine.execDrdataRead s
  | .dccWrite v => Sys2Proof.Machine.execDccWrite v s
  | .dctlWrite v => Sys2Proof.Machine.execDctlWrite v s
  | .dhactResume => Sys2Proof.Machine.execDhactResume s
  | .dhactSkip => Sys2Proof.Machine.execDhactSkip s
  | .dhactEnd => Sys2Proof.Machine.execDhactEnd s
  | .registerWrite reg col core v => Sys2Proof.Machine.execRegisterWrite reg col core v s
  | .timeSkewRecovered x => Sys2Proof.Machine.execTimeSkewRecovered x s

end Sys2Proof.Machine
end

