-- ==== Sys2Proof/Machine/Turn.lean ====
section
/-! DEFINITION. One step of the machine (log 2), and a word placed where the next step fetches it (log 6). -/

namespace Sys2Proof.Machine

/-- The stores of a step from `s` enter memory with its next state (log 4). -/
def committed (s : State) (o : Host.Outcome State Fault Refusal) : Host.Outcome State Fault Refusal :=
  match o with
  | .next t => .next (t.commit s)
  | .fault f => .fault f
  | .refused r => .refused r

/-- A word executed on the selected path: its instruction, or the illegal-instruction trap (03 R76). -/
def runWord (w : Nat) (s : State) : Host.Outcome State Fault Refusal :=
  match decode w with
  | some i => if i.isWord then exec i s else execIllegal w s
  | none => execIllegal w s

/-- A path's turn. -/
def runPath (p : Path) (s : State) : Host.Outcome State Fault Refusal :=
  match s.fetchTurn p with
  | (s', none) => ret s'
  | (s', some w) => runWord w s'

/-- The second path of a clock, where it stands and may still issue. -/
def State.secondPath (s : State) (q : Sel) : Option Path :=
  match lowestLane q.lanes with
  | none => none
  | some l =>
    let x := (s.ctx q.ctx).lane l
    let p : Path := ⟨q.ctx, q.sub, x.hdr, x.idx, q.lanes⟩
    if s.stillThere p && s.pathReady p then some p else none

/-- What the machine does next: an event of the agenda, a write-back that is due, an event of the calendar that is due, the
second path of the clock, the next path, an event that comes about by itself, or the passing of time (log 2). -/
def advance (s : State) : Host.Outcome State Fault Refusal :=
  match s.agenda with
  | e :: rest => committed s (exec e { s with agenda := rest })
  | [] =>
    match s.dueCtx with
    | some c => committed s (execFixedLatencyWriteback c s)
    | none =>
      match s.clockEvent with
      | some a => committed s (runAuto a s)
      | none =>
        match s.second with
        | some q =>
          let s1 : State := { s with second := none }
          (match s1.secondPath q with
           | some p => committed s (runPath p s1)
           | none => .next s1)
        | none =>
          match s.pick with
          | some (n, p, q) =>
            committed s (runPath p { s.noteReady n p.ctx with
              turn := n + 1, second := q.map fun q => ⟨q.ctx, q.sub, q.lanes, 0⟩ })
          | none =>
            let k := max s.turn 4096
            match s.autoEvents[k - 4096]? with
            | some a => committed s (runAuto a { s with turn := k + 1 })
            | none => committed s (ret (State.settleHeld 64 s.pass.pruneHold))

/-- Where a word is placed to run next: the header's address. -/
def placeAt : Nat := 0x4000

/-- The header of a block of one word. -/
def placeHeader : Nat := 0xB007800000000000 + 0xE1

/-- The line with the header and the word. -/
def placeLine (w : Nat) : List Byte := leBytes 8 placeHeader ++ leBytes 10 w ++ leBytes 110 0

/-- The calendar's events that are due have come about. -/
def State.settleClock : Nat → State → State
  | 0, s => s
  | n + 1, s =>
    match s.clockEvent with
    | none => s
    | some e =>
      match runAuto e s with
      | .next t => State.settleClock n (t.commit s)
      | _ => s

/-- A word placed on column core 0 at supervisor level: a page table that maps the first 64 GiB to themselves, the block,
its line in the instruction cache with the leaf in the TLB, and the thread at the header (log 6). -/
def State.place (s : State) (w : Nat) : State :=
  let s1 := s.sysPut SysReg.ptroot 0 0
  let s2 := s1.sysPut SysReg.cstat 0 (s1.sysGet SysReg.cstat 0 ||| 1)
  let s3 := ((s2.writeBytes 0 (leBytes 8 0x2001)).writeBytes 0x2000 (leBytes 8 0xDF)).writeBytes placeAt
    (leBytes 18 (placeHeader + 2 ^ 64 * w))
  let s4 := s3.commit s
  let x : Lane := { (s4.ctx (.cc 0)).lane 0 with
    act := true, exited := false, hdr := BitVec.ofNat 64 placeAt, idx := 0, hw := none, fresh := true, ready := 0, holds := [], sb := 0,
    wait := .none, fences := [], fails := [], sub := 0, heldRcv := false, heldRb := false, stalled := .none }
  let s5 := s4.modCtx (.cc 0) fun c => { (c.setLane 0 x) with live := true, run := .running, wbs := [] }
  State.settleClock 4 { s5 with
    agenda := []
    second := none
    turn := 0
    now := (s5.now + 19) / 20 * 20
    ms := { s5.ms with
      icache := SMap.set none s5.ms.icache (icKey 4 placeAt) (some ⟨placeLine w, false⟩)
      tlb := tlbFill s5.ms.tlb 256 placeAt ⟨0xDF, 36, 0x2000⟩ }
    pw := { s5.pw with mstate := 0, entering := 0, cstate := SMap.set 0 s5.pw.cstate 0 0 } }

end Sys2Proof.Machine
end

