-- ==== Sys2Proof/Machine/Step.lean ====
section
/-! DEFINITION. The step of the machine, and a word placed for the next step to run. -/

namespace Sys2Proof.Machine

/-- One step (log 2). -/
def step (s : State) : Host.Outcome State Fault Refusal := advance s

/-- The instruction of `nbits` bits placed where the next step fetches (log 6). -/
def State.withFetchWord (s : State) (_nbits w : Nat) : State := s.place (w % 2 ^ 80)

end Sys2Proof.Machine
end

