-- ==== Sys2Proof/Safety.lean ====
section
/-! DEFINITION. What the statements speak of: when a word issues, what its issue is, where a path's threads stand after it, the
registers once every result on its way has arrived, and the invariant that every step keeps. -/

namespace Sys2Proof

/-- The word of register m among the n words of a value put at a destination (02 R59, R60). -/
def Dst.word (d : Dst) (n v m : Nat) : Option Word :=
  match d with
  | .g r => if r ≤ m ∧ m < r + n then some (BitVec.ofNat 32 (v / 2 ^ (32 * (m - r)))) else Option.none
  | _ => Option.none

/-- The truth value of predicate j where a value is put at a destination (02 R59; 07 R183). -/
def Dst.truth (d : Dst) (v j : Nat) : Option Bool :=
  match d with
  | .p i => if j = i then some (decide (v ≠ 0)) else Option.none
  | _ => Option.none

/-! ### Floating numbers -/

/-- The number at or, where `sticky`, next to which an exact result lies. -/
def Exact.val (x : Exact) : ℚ := (if x.neg then -1 else 1) * x.m * (2 : ℚ) ^ x.e

/-- An exact result stands for the number v: it is v, or, where `sticky`, v lies strictly between it and the next multiple of its last bit,
with two bits below the format's significand (01 R25). -/
def Exact.Is (x : Exact) (t : Ty) (v : ℚ) : Prop :=
  x.m ≠ 0 ∧ (x.neg = true ↔ v < 0) ∧
  if x.sticky then x.m * (2 : ℚ) ^ x.e < |v| ∧ |v| < (x.m + 1) * (2 : ℚ) ^ x.e ∧ t.fmt.fb + 2 ≤ x.m.log2 else x.val = v

/-- The number of a finite pattern of a format (01 R21-R23). -/
def Ty.num (t : Ty) (y : Nat) : Option ℚ :=
  match t.decodeF y with
  | .fin n m e => some (Exact.val ⟨n, m, e, false⟩)
  | _ => none

/-- The largest finite number of a format, and its distance from the next smaller one (01 R21). -/
def Ty.maxNum (t : Ty) : ℚ := (t.num t.fmt.maxBits).getD 0
def Ty.maxGap (t : Ty) : ℚ := t.maxNum - (t.num (t.fmt.maxBits - 1)).getD 0

/-- The smallest normal number of a format, and its distance from the next smaller one of an unlimited range (01 R21, R25). -/
def Ty.minNum (t : Ty) : ℚ := (2 : ℚ) ^ (1 - (t.fmt.bias : Int))
def Ty.minGap (t : Ty) : ℚ := t.minNum / 2 ^ (t.fmt.fb + 1)

/-- A mode rounds a number of a sign towards zero, or away from it (01 R19). -/
def Rnd.inwards (rm : Rnd) (neg : Bool) : Prop := rm = .rtz ∨ (rm = .rup ∧ neg = true) ∨ (rm = .rdn ∧ neg = false)
def Rnd.outwards (rm : Rnd) (neg : Bool) : Prop := (rm = .rup ∧ neg = false) ∨ (rm = .rdn ∧ neg = true)

/-- A number rounds to more than the largest finite value (01 R26): the value above it is the even one of a tie where its pattern is odd. -/
def Ty.Overflows (t : Ty) (rm : Rnd) (neg : Bool) (v : ℚ) : Prop :=
  (rm = .rne ∧ (t.maxNum + t.maxGap / 2 < |v| ∨ (t.maxNum + t.maxGap / 2 = |v| ∧ t.fmt.maxBits % 2 = 1))) ∨
  (rm.inwards neg ∧ t.maxNum + t.maxGap ≤ |v|) ∨ (rm.outwards neg ∧ t.maxNum < |v|)

/-- A number rounds, in a range without a lower limit, to less than the smallest normal value (01 R25). -/
def Ty.Tiny (t : Ty) (rm : Rnd) (neg : Bool) (v : ℚ) : Prop :=
  (rm = .rne ∧ |v| < t.minNum - t.minGap / 2) ∨ (rm.inwards neg ∧ |v| < t.minNum) ∨ (rm.outwards neg ∧ |v| ≤ t.minNum - t.minGap)

/-- The pattern y, of the number p, is v rounded to the format in a mode (01 R19). -/
def Ty.Rounds (t : Ty) (rm : Rnd) (v : ℚ) (y : Nat) (p : ℚ) : Prop :=
  match rm with
  | .rne => ∀ z q, t.num z = some q → |p - v| ≤ |q - v| ∧ (|q - v| = |p - v| → q ≠ p → y % 2 = 0)
  | .rtz => |p| ≤ |v| ∧ 0 ≤ p * v ∧ ∀ z q, t.num z = some q → |q| ≤ |v| → |q| ≤ |p|
  | .rup => v ≤ p ∧ ∀ z q, t.num z = some q → v ≤ q → p ≤ q
  | .rdn => p ≤ v ∧ ∀ z q, t.num z = some q → q ≤ v → q ≤ p

namespace Machine

/-! ### Issue -/

/-- The selected path's threads whose guard is 1 (02 R54). -/
def State.guardMask (s : State) (r : Row) : Word64 :=
  maskOf fun l => s.sel.lanes.getLsbD l && (((s.ctx s.sel.ctx).lane l).pred r.c.p != r.c.n)

/-- The lowest thread of the selected path. -/
def State.selLane (s : State) : Lane := (s.ctx s.sel.ctx).lane ((lowestLane s.sel.lanes).getD 0)

/-- The issue of a row's word on the selected path. -/
def State.issued (s : State) (r : Row) : Issue where
  ctx := s.sel.ctx
  sub := s.sel.sub
  path := s.sel.lanes
  act := s.guardMask r
  c := s.ctx s.sel.ctx
  hdr := s.selLane.hdr
  idx := s.selLane.idx
  h := Header.ofWord s.sel.hw
  row := r

/-- The registers of a source on a lane are full (02 R69). -/
def Ctx.isFull (c : Ctx) (u : RegUse) (l : Nat) : Prop := ∀ i, i < u.n → c.empty l (u.reg + i) = false

/-- A row's word has its scoreboard waits behind it on the selected path (02 R66), and the agent has no failed operation to park for
(17 R370). -/
structure Waited (s : State) (r : Row) : Prop where
  path : s.sel.lanes ≠ 0
  running : s.stuck = none
  settled : ∀ l, ((s.ctx s.sel.ctx).lane l).fails = []
  wait : ∀ l ∈ lanesOf s.sel.lanes, ((s.ctx s.sel.ctx).lane l).sb.toNat &&& r.c.wm = 0

/-- The word takes the illegal-instruction trap where it stands (03 R76, R79). -/
def State.illegalHere (s : State) (r : Row) : Bool :=
  r.outsideBlock (s.ctx s.sel.ctx).blockSize || (s.sel.ctx.isCC && r.notOnColumnCore) || r.noRegister ||
  r.misplaced s.selLane.idx (Header.ofWord s.sel.hw).len

/-- The word is legal and its threads are ready (02 R63, R66; 06 R143, R144; 14 R318). -/
structure Reaches (s : State) (r : Row) : Prop extends Waited s r where
  legal : s.illegalHere r = false
  slot : r.c.se = true → ∀ l ∈ lanesOf s.sel.lanes, ((s.ctx s.sel.ctx).lane l).sb.getLsbD r.c.sa = false
  ready : ∀ l ∈ lanesOf s.sel.lanes, s.laneReady s.sel.ctx l r = true

/-- The word of a row may issue on the selected path: its waits are over, and no trap of the front applies (03 R78; 02 R69). -/
structure MayIssue (s : State) (r : Row) : Prop extends Reaches s r where
  level : s.guardMask r = 0 ∨ r.privileged = false ∨ s.isSup s.sel.ctx = true
  full : ∀ l ∈ lanesOf s.sel.lanes, ∀ u ∈ r.sources, (u.g = true → (s.guardMask r).getLsbD l = true) →
    (s.ctx s.sel.ctx).isFull u l

/-! ### What an issue leaves -/

/-- A thread but for its predicates and the place it stands at: its PC, its holds, and what holds it there (06 R140-R151). -/
def Lane.Kept (x y : Lane) : Prop :=
  { y with p := x.p, hdr := x.hdr, idx := x.idx, fresh := x.fresh, ready := x.ready, holds := x.holds, sub := x.sub,
           heldRcv := x.heldRcv, heldRb := x.heldRb, rewound := x.rewound } = x

/-- An agent but for its g registers, predicates and flags, and for its threads' places, its reconvergence entries and its
sub-gangs: its k registers and record slots, the threads' identifiers, scoreboard slots, waits and fences. -/
structure Ctx.Kept (x y : Ctx) : Prop where
  rest : { y with lanes := x.lanes, g := x.g, e := x.e, fp := x.fp, wbs := x.wbs, prio := x.prio, rcv := x.rcv, subs := x.subs,
                  b := x.b } = x
  lanes : ∀ l, (x.lane l).Kept (y.lane l)
  slots : ∀ n, n < 16 → y.recSlot 0 n = x.recSlot 0 n

/-- An agent's g registers, full/empty bits, predicates and flags, and the results on their way. -/
structure Ctx.SameRegs (x y : Ctx) : Prop where
  g : y.g = x.g
  e : y.e = x.e
  fp : y.fp = x.fp
  wbs : y.wbs = x.wbs
  p : ∀ l, (y.lane l).p = (x.lane l).p

/-- Only one agent differs. -/
structure OnlyCtx (c : CtxId) (s t : State) : Prop where
  rest : { t with ctxs := s.ctxs } = s
  others : ∀ k, ctxKey k ≠ ctxKey c → t.ctx k = s.ctx k

/-- The path's threads have moved past their word, to the next word or the next header (02 R47), and no other thread has. -/
def Advanced (s t : State) (is : Issue) : Prop :=
  ∀ l, l < 64 →
    (((t.ctx is.ctx).lane l).hdr, ((t.ctx is.ctx).lane l).idx) =
      if is.path.getLsbD l then nextPc is.h is.hdr is.idx
      else (((s.ctx is.ctx).lane l).hdr, ((s.ctx is.ctx).lane l).idx)

/-! ### Results -/

/-- An agent's registers with every result on its way entered, in the order of issue; a column core has none on its way (02 R62;
06 R155). -/
def State.final (s : State) (c : CtxId) : Ctx :=
  if c.isCC then s.ctx c else (s.ctx c).wbs.foldl Ctx.applyWB { s.ctx c with wbs := [] }

/-- What a word of fixed latency leaves: on every active lane the words `word` and the predicates `pred`, and the flags raised,
`lat` clocks later on a core and at once on a column core; every other register and predicate, the rest of the agent but its
threads' places, every other agent, memory and the rest of the machine are as before; the path has moved on. -/
structure Produces (s t : State) (is : Issue) (lat : Nat) (word : Nat → Nat → Option Word) (pred : Nat → Nat → Option Bool)
    (fl : Flags) : Prop where
  only : OnlyCtx is.ctx s t
  moved : Advanced s t is
  kept : Ctx.Kept (s.ctx is.ctx) (t.ctx is.ctx)
  regs : ∀ l m, l < 64 → m < 256 → (t.final is.ctx).reg l m =
    (if is.act.getLsbD l then word l m else none).getD ((s.final is.ctx).reg l m)
  full : ∀ l m, l < 64 → m < 256 → (t.final is.ctx).empty l m =
    if is.act.getLsbD l = true ∧ (word l m).isSome then false else (s.final is.ctx).empty l m
  preds : ∀ l j, l < 64 → j < 7 → ((t.final is.ctx).lane l).pred j =
    (if is.act.getLsbD l then pred l j else none).getD (((s.final is.ctx).lane l).pred j)
  flags : (t.final is.ctx).fp = (s.final is.ctx).fp ||| fl
  later : is.ctx.isCC = false → Ctx.SameRegs { s.ctx is.ctx with wbs := (t.ctx is.ctx).wbs } (t.ctx is.ctx) ∧
    ∀ w ∈ (t.ctx is.ctx).wbs, w ∈ (s.ctx is.ctx).wbs ∨ w.due = s.clk is.ctx + lat

/-- A word writes one value to its destination: `n` registers or a predicate, the value `v` of each lane, the flags `fl`. -/
def Gives (i : Instr) (lat : Nat) (d : Dst) (n : Nat) (v : Issue → State → Nat → Nat) (fl : Issue → State → Flags) : Prop :=
  ∀ s r, i.row = some r → i.wf = true → MayIssue s r →
    ∃ t, exec i s = .next t ∧ Produces s t (s.issued r) lat (fun l => d.word n (v (s.issued r) s l))
      (fun l => d.truth (v (s.issued r) s l)) (fl (s.issued r) s)

/-- No flag is raised. -/
def noFlags (_ : Issue) (_ : State) : Flags := 0

/-- The flags the active lanes raise, together (01 R30). -/
def laneFlags (f : Issue → State → Nat → Flags) (is : Issue) (s : State) : Flags :=
  (lanesOf is.act).foldl (fun x l => x ||| f is s l) 0

/-- The value of a source in an integer type (07 R164). -/
def Issue.val (is : Issue) (s : State) (t : Ty) (o : Opd) (l : Nat) : Int := t.value (is.ty s t o l)

/-- A word of class 0x0 gives a number of its type, computed from the values of S1 and S2 (07 R164). -/
def GivesInt (i : Instr) (t : TWord) (lat : Nat) (f : Int → Int → Nat) : Prop :=
  Gives i lat t.d (tyRegs t.ty) (fun is s l => f (is.val s t.ty t.a l) (is.val s t.ty t.b l)) noFlags

/-- A word gives a pattern of its type, computed from the patterns of S1 and S2. -/
def GivesBits (i : Instr) (t : TWord) (f : Nat → Nat → Nat) : Prop :=
  Gives i 4 t.d (tyRegs t.ty) (fun is s l => f (is.ty s t.ty t.a l) (is.ty s t.ty t.b l)) noFlags

/-- The same with a 32-bit S2. -/
def GivesCount (i : Instr) (t : TWord) (f : Nat → Nat → Nat) : Prop :=
  Gives i 4 t.d (tyRegs t.ty) (fun is s l => f (is.ty s t.ty t.a l) (is.src s false t.b l)) noFlags

/-- An immediate twin gives a 32-bit pattern (03 R73). -/
def GivesImm (i : Instr) (q : QWord) (imm lat : Nat) (f : Nat → Nat → Nat) : Prop :=
  Gives i lat q.d 1 (fun is s l => f (is.srcImm s imm q.a l) (is.srcImm s imm q.b l)) noFlags

/-- A word of class 0x2 gives `n` registers of a floating result and raises its flags, for one element or two (08 R186, R187). -/
def GivesFloat (i : Instr) (t : TWord) (x2 : Bool) (lat n : Nat) (f : Nat → Nat → Nat → FRes) : Prop :=
  Gives i lat t.d n
    (fun is s l => (elemwise x2 t.ty.bits f (is.ty s t.ty t.a l) (is.ty s t.ty t.b l) (is.ty s t.ty t.s l)).bits)
    (laneFlags fun is s l => (elemwise x2 t.ty.bits f (is.ty s t.ty t.a l) (is.ty s t.ty t.b l) (is.ty s t.ty t.s l)).fl)

/-- A word gives `n` registers of a result computed from 32-bit sources, and raises its flags (08 R195-R201). -/
def GivesConv (i : Instr) (t : TWord) (lat n : Nat) (f : Nat → Nat → Nat → FRes) : Prop :=
  Gives i lat t.d n (fun is s l => (f (is.src s false t.a l) (is.src s false t.b l) (is.src s false t.s l)).bits)
    (laneFlags fun is s l => (f (is.src s false t.a l) (is.src s false t.b l) (is.src s false t.s l)).fl)

/-- A shuffle: each active lane takes the value of the lane `k` names, where that lane is active, else its own (08 R203). -/
def GivesShuffle (i : Instr) (d : Dst) (n : Nat) (wide : Bool) (a : Opd) (k : Issue → State → Nat → Nat) : Prop :=
  Gives i 8 d n (fun is s l => is.src s wide a (if is.act.getLsbD (k is s l) then k is s l else l)) noFlags

/-! ### Words of the other classes -/

/-- The path's threads have moved past their word, but for those of `stay`, and nothing else differs from `u` but what holds
threads: the registers, memory and the rest of the machine are those of `u` (02 R47; 06 R140-R151). -/
structure Passes (u t : State) (is : Issue) (stay : Word64) : Prop where
  only : OnlyCtx is.ctx u t
  kept : Ctx.Kept (u.ctx is.ctx) (t.ctx is.ctx)
  regs : Ctx.SameRegs (u.ctx is.ctx) (t.ctx is.ctx)
  moved : ∀ l, l < 64 →
    (((t.ctx is.ctx).lane l).hdr, ((t.ctx is.ctx).lane l).idx) =
      if is.path.getLsbD l = true ∧ stay.getLsbD l = false then nextPc is.h is.hdr is.idx
      else (((u.ctx is.ctx).lane l).hdr, ((u.ctx is.ctx).lane l).idx)

/-- A word with some guard at 1 completes where `pre` holds: the machine is `u` with the path moved past the word but for the
lanes of `stay`. Asked only where `u` meets no absent memory (log 17). -/
def DoesBut (i : Instr) (pre : Issue → State → Prop) (u : Issue → State → State) (stay : Issue → State → Word64) : Prop :=
  ∀ s r, i.row = some r → i.wf = true → MayIssue s r → s.guardMask r ≠ 0 → pre (s.issued r) s →
    (u (s.issued r) s).stuck = none →
    ∃ t, exec i s = .next t ∧ Passes (u (s.issued r) s) t (s.issued r) (stay (s.issued r) s)

/-- The same where every lane moves past the word. -/
def Does (i : Instr) (pre : Issue → State → Prop) (u : Issue → State → State) : Prop := DoesBut i pre u fun _ _ => 0

/-- No condition. -/
def always (_ : Issue) (_ : State) : Prop := True

/-- The source lane: the lowest whose guard is 1 (11 R260; 19 R401). -/
def Issue.first (is : Issue) : Nat := (lowestLane is.act).getD 0

/-- A value on its way to the destination of every active lane, `lat` clocks long (02 R62). -/
def State.gives (s : State) (is : Issue) (lat : Nat) (d : Dst) (n : Nat) (v : Nat → Nat) : State :=
  s.later is.ctx lat ((lanesOf is.act).flatMap fun l => dstPut d n l (v l)) 0 false

/-- A thread that leaves its word does so as the transfers of its lane say (06 R143, R157): to the header `tgt`, with a bubble of three
clocks, or past the word; the lanes of `stay` are where `u` has them. Nothing else differs from `u` but what holds threads. -/
structure Jumps (u t : State) (is : Issue) (tgt : Nat → Option Word64) (stay : Word64) : Prop where
  only : OnlyCtx is.ctx u t
  kept : Ctx.Kept (u.ctx is.ctx) (t.ctx is.ctx)
  regs : Ctx.SameRegs (u.ctx is.ctx) (t.ctx is.ctx)
  moved : ∀ l, l < 64 →
    (((t.ctx is.ctx).lane l).hdr, ((t.ctx is.ctx).lane l).idx) =
      if is.path.getLsbD l = true ∧ stay.getLsbD l = false then
        (match tgt l with
         | some h => (h, 0)
         | none => nextPc is.h is.hdr is.idx)
      else (((u.ctx is.ctx).lane l).hdr, ((u.ctx is.ctx).lane l).idx)
  bubble : ∀ l h, l < 64 → is.path.getLsbD l = true → stay.getLsbD l = false → tgt l = some h →
    ((t.ctx is.ctx).lane l).ready = u.clk is.ctx + 3

/-- A word transfers its lanes where `pre` holds. -/
def Transfers (i : Instr) (pre : Issue → State → Prop) (u : Issue → State → State) (tgt : Issue → State → Nat → Option Word64)
    (stay : Issue → State → Word64) : Prop :=
  ∀ s r, i.row = some r → i.wf = true → MayIssue s r → s.guardMask r ≠ 0 → pre (s.issued r) s →
    (u (s.issued r) s).stuck = none →
    ∃ t, exec i s = .next t ∧ Jumps (u (s.issued r) s) t (s.issued r) (tgt (s.issued r) s) (stay (s.issued r) s)

/-- A word waits where `pre` holds: nothing changes (02 R66; 06 R144). -/
def Waits (i : Instr) (pre : Issue → State → Prop) : Prop :=
  ∀ s r, i.row = some r → i.wf = true → MayIssue s r → s.guardMask r ≠ 0 → pre (s.issued r) s → exec i s = .next s

/-- One value at the destination of every active lane at once. -/
def State.putAll (s : State) (is : Issue) (d : Dst) (n v : Nat) : State :=
  s.land is.ctx ((lanesOf is.act).flatMap fun l => dstPut d n l v)

/-- The trap of the source lane alone, at its word (11 R260). -/
def State.firstTraps (s : State) (is : Issue) (kind rslot : Nat) (line : Word64) : State :=
  s.takeTrap is.ctx (1#64 <<< is.first) ⟨kind, 0, rslot, line, false, false⟩ is.h is.hdr is.idx

/-- A word's source lane traps where `pre` holds, before any effect; the other lanes move on. -/
def FirstTraps (i : Instr) (pre : Issue → State → Prop) (kind rslot : Nat) : Prop :=
  DoesBut i pre (fun is s => s.firstTraps is kind rslot 0) fun is _ => 1#64 <<< is.first

/-- A word whose source lane's checks leave the machine as `v` completes: the machine is `u`, and the path moves past the word. -/
def DoesAfter (i : Instr) (pre : Issue → State → State → Prop) (u : Issue → State → State → State) : Prop :=
  ∀ s r v, i.row = some r → i.wf = true → MayIssue s r → s.guardMask r ≠ 0 → pre (s.issued r) s v →
    (u (s.issued r) s v).stuck = none →
    ∃ t, exec i s = .next t ∧ Passes (u (s.issued r) s v) t (s.issued r) 0

/-- A register marked empty on every active lane (02 R68). -/
def State.emptied (s : State) (is : Issue) (r : Nat) : State :=
  s.modCtx is.ctx fun c => (lanesOf is.act).foldl (fun (c : Ctx) l => c.markEmpty l r) c

/-- The queue that a gang's word names is the launch's (11 R260). -/
def State.hasQueue (s : State) (is : Issue) (q : Nat) : Prop := (s.queue is.c.core q).ownedBy is.c.handle = true

/-- The record of a slot, as the word's gang or sub-gang sees it. -/
def Issue.rec_ (is : Issue) (n : Nat) : Rec256 := is.c.recSlot is.sub n

/-- A command's clasp found by its checks (11 R268; 12 R291; 14 R445). -/
def State.claspFound (s : State) (is : Issue) (n : Nat) (x y : Int) (v : State) (ref : ClaspRef) : Prop :=
  ∃ pa tgt, s.commandClasp (s.who is.ctx) n (is.rec_ n) x y = (v, .ok pa tgt, ref)

/-! ### Operations put in flight -/

/-- A finding that lets its lane move past the word: an address, an element filled or dropped by policy, or a failure that is
found after issue (10 R235, R236). -/
def MemForm.lets (f : MemForm) (q : Found) : Prop :=
  (∃ pa tgt, q = .ok pa tgt) ∨ q = .zero ∨ (f.late = true ∧ ∃ k line, q = .trap k line true)

/-- No finding is at another module (16 R348). -/
def noPeer (fs : List LaneFound) : Prop := ∀ q ∈ fs, ∀ pa tgt, q.2 = .ok pa tgt → isPeer pa = false

/-- The lanes' accesses put in flight as one operation, and its slot set busy on those lanes (02 R65). -/
def State.putOut (v : State) (is : Issue) (m : MWord) (kind : OpKind) (reg : Option Nat) (lanes : Word64) (accs : List Acc) :
    State :=
  if accs.isEmpty then v
  else
    let o : MOp := {
      id := v.opId, ctx := is.ctx, sub := is.sub, kind := kind, hdr := is.hdr, idx := is.idx, rt := m.rt, sc := m.sc,
      ord := m.ord, w := m.w, reg := reg, slot := m.c.slot?, rslot := m.slot, lanes := lanes, accs := accs,
      due := v.now + min v.lag bangleBound, handle := is.c.handle }
    ({ v with opId := v.opId + 1, ms := { v.ms with ops := v.ms.ops ++ [o] } } : State).busySlot is.ctx lanes m.c

/-- The path blocked at its word: the lanes of the operation `id` until their results come, the others with them (14 R319). -/
def State.waits (s : State) (is : Issue) (id : Nat) (busy : Word64) : State :=
  s.block is is.path fun l => if busy.getLsbD l then .op id is.path else .peers is.path

/-- The virtual address of a lane's operand of n bytes, where it has one. -/
def Issue.vaOf (is : Issue) (s : State) (m : MWord) (n l : Nat) : Option Nat :=
  let i := is.index s m l
  (s.place? (s.who is.ctx) (is.c.recSlot is.sub m.slot) i.1 i.2 n).va?

/-- A word puts one operation in flight where every lane's check, each seeing the TLBs as the ones before left them, and lanes of one page
having one outcome (09 R214), lets the lane move past it, `fin` being the form's own rule: the machine is as the checks leave it (`v`),
with the operation added, changed by `mark`; the lanes of `stay` do not move past the word. -/
def GoesOut (i : Instr) (m : MWord) (form : Issue → State → MemForm) (check : Issue → State → State → Nat → State × Found)
    (fin : Issue → State → Nat → Found → Found) (line : Issue → State → Nat → Word64) (reg : Option Nat)
    (cond : MemForm → List LaneFound → List Acc → Prop) (mark : Issue → Nat → Word64 → State → State) (stay : Issue → Word64) : Prop :=
  ∀ s r v qs, i.row = some r → i.wf = true → MayIssue s r → s.guardMask r ≠ 0 →
    let is := s.issued r
    let rc := is.c.recSlot is.sub m.slot
    let f : MemForm := { form is s with line := line is s }
    s.checkLanes (check is s) (lanesOf is.act) = (v, qs) →
    let fs := (v.pageOutcome (s.who is.ctx) (is.vaOf s m f.n) qs).map fun q => (q.1, fin is s q.1 q.2)
    let accs := fs.flatMap (f.accOf is v)
    Rec256.valid rc = true → (Rec256.space rc ≠ 4 ∨ f.ring = true) →
    (∀ q ∈ fs, f.lets q.2) → cond f fs accs → v.stuck = none →
    ∃ t, exec i s = .next t ∧
      Passes (mark is v.opId (accLanes accs) (v.putOut is m f.kind reg (accLanes accs) accs)) t is (stay is)

/-- The lanes whose checks found a precise trap, group by group (17 R364). -/
def trapLanes (fs : List LaneFound) (late : Bool) (rslot : Nat) : Word64 :=
  (trapGroups fs late rslot).foldl (fun z g => z ||| g.1) 0

/-- A word some of whose lanes' checks find a precise trap: those lanes take it, one group for each kind, and stay at the word; the others'
accesses go in flight (10 R235; 17 R364). A path that an answer of another module keeps at its word is `Accesses`'s second case. -/
def TrapsSome (i : Instr) (m : MWord) (form : Issue → State → MemForm) (check : Issue → State → State → Nat → State × Found)
    (fin : Issue → State → Nat → Found → Found) (line : Issue → State → Nat → Word64) (reg : Option Nat) : Prop :=
  ∀ s r v qs, i.row = some r → i.wf = true → MayIssue s r → s.guardMask r ≠ 0 →
    let is := s.issued r
    let rc := is.c.recSlot is.sub m.slot
    let f : MemForm := { form is s with line := line is s }
    s.checkLanes (check is s) (lanesOf is.act) = (v, qs) →
    let fs := (v.pageOutcome (s.who is.ctx) (is.vaOf s m f.n) qs).map fun q => (q.1, fin is s q.1 q.2)
    let accs := fs.flatMap (f.accOf is v)
    let u := (v.putOut is m f.kind reg (accLanes accs) accs).takeTraps is.ctx (trapGroups fs f.late m.slot) is.h is.hdr is.idx
    Rec256.valid rc = true → (Rec256.space rc ≠ 4 ∨ f.ring = true) →
    (∀ q ∈ fs, f.lets q.2 ∨ ∃ k ln lt, q.2 = .trap k ln lt) → (f.late = true ∨ f.soft = true ∨ noPeer fs) → u.stuck = none →
    ∃ t, exec i s = .next t ∧ Passes u t is (trapLanes fs f.late m.slot)

/-- Every lane whose guard is 1 takes a trap that names a record slot, at the word (17 R363, R364). -/
def State.allTrap (s : State) (is : Issue) (kind slot : Nat) : State :=
  s.takeTrap is.ctx is.act ⟨kind, 0, slot, 0, false, false⟩ is.h is.hdr is.idx

/-- The check of one lane's ordinary access (10 R235). -/
def MemForm.check (f : MemForm) (m : MWord) (is : Issue) (s0 s : State) (l : Nat) : State × Found :=
  let rc := is.c.recSlot is.sub m.slot
  let i := is.index s m l
  s.checkAccess (s0.who is.ctx) (rc &&& ~~~f.strip) i.1 i.2 f.n f.al f.acc

/-- The virtual line of a lane's ordinary access (17 R365). -/
def MemForm.lineAt (f : MemForm) (m : MWord) (is : Issue) (s : State) (l : Nat) : Word64 :=
  let i := is.index s m l
  s.accessLine (s.who is.ctx) (is.c.recSlot is.sub m.slot) i.1 i.2 f.n

/-- The form's own rule for a lane. -/
def MemForm.fin (f : MemForm) (m : MWord) (is : Issue) (s : State) (l : Nat) (q : Found) : Found :=
  f.found (is.c.recSlot is.sub m.slot) (f.lineAt m is s l) q

/-- An ordinary memory word of a form puts its operation in flight (10 R235). One that could still trap after another module's answer keeps
its path at the word until its results are there (16 R348; the block is the model's reading, log 24). Lanes whose checks find a precise trap
take it; an invalid record is the bounds trap, and a ring the queue-misuse trap, of every active lane (10 R235, R236). -/
def Accesses (i : Instr) (m : MWord) (form : Issue → State → MemForm) (reg : Option Nat) : Prop :=
  let goes (cond : MemForm → List LaneFound → List Acc → Prop) (mark : Issue → Nat → Word64 → State → State)
      (stay : Issue → Word64) : Prop :=
    GoesOut i m form (fun is s => (form is s).check m is s) (fun is s => (form is s).fin m is s)
      (fun is s => (form is s).lineAt m is s) reg cond mark stay
  goes (fun f fs _ => f.late = true ∨ f.soft = true ∨ noPeer fs) (fun _ _ _ u => u) (fun _ => 0) ∧
  goes (fun f fs _ => f.late = false ∧ f.soft = false ∧ ¬ noPeer fs) (fun is id busy u => u.waits is id busy) (fun is => is.path) ∧
  TrapsSome i m form (fun is s => (form is s).check m is s) (fun is s => (form is s).fin m is s) (fun is s => (form is s).lineAt m is s)
    reg ∧
  DoesBut i (fun is _ => Rec256.valid (is.rec_ m.slot) = false) (fun is s => s.allTrap is 0x04 m.slot) (fun is _ => is.act) ∧
  DoesBut i (fun is s => Rec256.valid (is.rec_ m.slot) = true ∧ Rec256.space (is.rec_ m.slot) = 4 ∧ (form is s).ring = false)
    (fun is s => s.allTrap is 0x09 m.slot) fun is _ => is.act

/-- A drift word of a form puts its operation in flight (15 R342). -/
def Drifts (i : Instr) (m : MWord) (f : MemForm) (reg : Option Nat) (mark : Issue → State → State) : Prop :=
  GoesOut i m (fun _ _ => f)
    (fun is s0 s l => let i := is.index s m l
      s.checkDrift (s0.who is.ctx) (is.c.recSlot is.sub m.slot) i.1 i.2 f.acc f.kind.tolLoad)
    (fun _ _ _ q => q) (fun is s => f.lineAt m is s) reg (fun _ _ _ => True) (fun is _ _ u => mark is u) fun _ => 0

/-- A clasp word puts its operation in flight (14 R320, R321); one that blocks keeps its path at the word (14 R319). -/
def Clasps (i : Instr) (m : MWord) (kind : OpKind) (ord : Ord) (wr blocking : Bool) (reg : Option Nat) (bad : Issue → Nat → Bool)
    (data : Issue → Nat → Nat) : Prop :=
  GoesOut i { m with ord := ord }
    (fun _ _ => { MemForm.plain kind (if wr then .write else .read) 16 16 with
      ring := true, data := fun is _ l => (data is l, 0) })
    (fun is s0 s l => let i := is.index s m l
      s.checkClasp (s0.who is.ctx) (is.c.recSlot is.sub m.slot) i.1 i.2 wr (bad is l))
    (fun _ _ _ q => q)
    (fun is s l => let i := is.index s m l; s.accessLine (s.who is.ctx) (is.c.recSlot is.sub m.slot) i.1 i.2 16) reg
    (fun _ _ accs => accs.isEmpty = false ∨ blocking = false)
    (fun is id busy u => if blocking then u.waits is id busy else u) fun is => if blocking then is.path else 0

/-- Only the TLBs, the caches and their homes' records, the accepted writes that a walk publishes or that its own held bits join, the access
counters, the injected errors that it meets, and the step's stores differ: what an access's checks may change (09 R212, R214, R219, R226,
R230; 13 R305; 19 R413). -/
def ChecksOnly (s v : State) : Prop :=
  { v with
    ms := { v.ms with tlb := s.ms.tlb, l1 := s.ms.l1, slice := s.ms.slice, regions := s.ms.regions, fwd := s.ms.fwd,
                      counts := s.ms.counts }
    ev := { v.ev with inject := s.ev.inject }
    opId := s.opId, wlog := s.wlog } = s

/-- A fence recorded on every active lane, beside those that still hold words (14 R318). -/
def State.fenced (s : State) (is : Issue) (f : Lane → Fence) : State :=
  ({ s with opId := s.opId + 1 } : State).modCtx is.ctx fun c => c.modLanes (lanesOf is.act) fun l x =>
    { x with fences := x.fences.filter (s.fenceLive is.ctx l) ++ [f x] }

/-- The drains begun that the active lanes' release at a scope waits for: at stack scope or wider, those of what the lanes added before
their last ddrain (13 R302, R312). -/
def State.owedBegun (s : State) (is : Issue) (sc : Scope) : State :=
  if 4 ≤ sc.code then s.startOwed (s.owed ((lanesOf is.act).flatMap fun l => (is.c.lane l).owes)) else s

/-- The drains that a lane's own release at a scope waits for. -/
def Lane.owesAt (x : Lane) (sc : Scope) : List (Nat × Nat × Nat) := if 4 ≤ sc.code then x.owes else []

/-- The address the checks found for a lane. -/
def foundAt (fs : List LaneFound) (l : Nat) : Option Nat :=
  fs.findSome? fun q => match q.2 with
    | .ok pa _ => if q.1 = l then some pa else none
    | _ => none

/-- A waiting word blocks its path: each active lane waits on its clasp, the others with them (14 R319, R321, R322). -/
def ClaspBlocks (i : Instr) (m : MWord) (deadline : Issue → Nat → Option Nat) : Prop :=
  ∀ s r v qs, i.row = some r → i.wf = true → MayIssue s r → s.guardMask r ≠ 0 →
    let is := s.issued r
    let rc := is.c.recSlot is.sub m.slot
    Rec256.valid rc = true →
    s.checkLanes (fun z l => z.checkClasp (s.who is.ctx) rc (is.index z m l).1 (is.index z m l).2 false false)
      (lanesOf is.act) = (v, qs) →
    let fs := v.pageOutcome (s.who is.ctx) (is.vaOf s m 16) qs
    (∀ q ∈ fs, ∃ pa tgt, q.2 = .ok pa tgt) → v.stuck = none →
    ∃ t, exec i s = .next t ∧ Passes (v.block is is.path fun l => match foundAt fs l with
        | some pa => .clasp pa (dstData m.d 1 is l % 2 ^ 15) (deadline is l) ((dstReg? m.d).getD 0) m.sc none is.path
        | none => .peers is.path) t is is.path

/-! ### Caches and operations that go on -/

/-- The lines of the caches as their rules keep them (09 R225, R226): a cache holds a line once, one cache owns it, only an owner holds dirty
bytes, and those are of its line, in the module's own tiers. -/
structure State.OneOwner (s : State) : Prop where
  once : ∀ l ∈ s.ms.l1, ∀ q ∈ s.ms.l1, l.cache = q.cache → l.line = q.line → l = q
  owner : ∀ l ∈ s.ms.l1, ∀ q ∈ s.ms.l1, l.kind = .owned → q.kind = .owned → l.line = q.line → l = q
  dirty : ∀ l ∈ s.ms.l1, l.dirty ≠ [] → l.kind = .owned
  own : ∀ l ∈ s.ms.l1, l.kind = .owned → cacheable (128 * l.line) = true
  inLine : ∀ l ∈ s.ms.l1, ∀ p ∈ l.dirty, p.1 / 128 = l.line

/-- The state keeps its owners, and every byte as its home merges it. -/
def State.KeepsBytes (s t : State) : Prop := t.OneOwner ∧ ∀ a, t.homeByte a = s.homeByte a

/-- An operation in flight, of its own number, whose accesses at one address nothing holds, that touches no drift region (13 R299-R306; 09
R230; 15 R327); no thread is blocked at a word of its agent. -/
structure State.GroupGoes (s : State) (o : MOp) (k : Nat × Bool) : Prop where
  here : s.op? o.id = some o
  one : ∀ p ∈ s.ms.ops, p.id = o.id → p = o
  some_ : o.group k ≠ []
  free : s.groupHeld o (o.group k) = false
  still : ∀ a ∈ o.group k, s.accElems o a = none
  lease : ∀ a ∈ o.group k, s.leaseHolds o a = false
  waits : ∀ l, ((s.ctx o.ctx).lane l).wait = .none
  owners : s.OneOwner

/-- Accesses at one address are done: they have left their operation, which goes with its last, and a lane that has no other has its
scoreboard slot free (02 R65). -/
def State.GroupGone (s t : State) (o : MOp) (k : Nat × Bool) : Prop :=
  (t.op? o.id).map MOp.accs = (if (o.accs.filter fun a => !(o.group k).contains a).isEmpty then none
    else some (o.accs.filter fun a => !(o.group k).contains a)) ∧
  (s.alive o.ctx = true → ∀ a ∈ o.group k, ∀ i, a.lane < 64 → o.lanes.getLsbD a.lane = true → o.slot = some i →
    (∀ b ∈ o.accs, b.lane = a.lane → b ∈ o.group k) →
    ((t.ctx o.ctx).lane a.lane).sb.getLsbD i = false)

/-- The event that carries an operation on leaves the state `t` where it has accesses at one address only. -/
def Completes (s t : State) (o : MOp) (k : Nat × Bool) : Prop :=
  s.stuck = none → o.groupKeys = [k] → exec (.longLatencyComplete o.id) s = .next t

/-! ### Events -/

/-- An event comes about where `pre` holds, and leaves `u`; asked only where `u` meets no absent memory (log 17). -/
def Happens (i : Instr) (pre : State → Prop) (u : State → State) : Prop :=
  ∀ s, pre s → (u s).stuck = none → exec i s = .next (u s)

/-! ### The invariant of every step -/

/-- Memory keeps its canonical form: addresses rising, no byte listed that reads as an unlisted one does; and no store is left
over from an earlier step (log 4). -/
def State.Inv (s : State) : Prop := Memory.wf s.mem = true ∧ s.wlog = []

end Machine

end Sys2Proof
end

