-- ==== Sys2Proof/Certificates/Slice0/Obligations.lean ====
section
/-! DEFINITION. The statements: what the machine does, for the provers. Each docstring names the rules of the spec it states, or says
that it states a choice of the model and names its log entry. -/

open Sys2Proof Sys2Proof.Machine

/-! ### Integer, bit and predicate words (07) -/

/-- Class 0x0 (07 R164-R170): every integer word completes wherever it may issue, and gives its destination the value of its entry. addc and
subb give the wrapped sum or difference with the carry-in of S3, and the carry-out or borrow-out of the unsigned values in the out-predicate,
where one is named (R168). Fit (R165) keeps the low bits of the exact value, or with sat gives the nearest value of the type; a value of the
type is its own result either way. -/
def Obligations.IntegerArithmetic : Prop :=
  (∀ t, GivesInt (.add t) t 4 fun a b => fit t.sat t.ty (a + b)) ∧
  (∀ t, GivesInt (.sub t) t 4 fun a b => fit t.sat t.ty (a - b)) ∧
  (∀ t, GivesInt (.mul t) t (if t.ty.bits = 64 then 12 else 6) fun a b => fit t.sat t.ty (a * b)) ∧
  (∀ t, GivesInt (.mulhi t) t (if t.ty.bits = 64 then 12 else 6) fun a b => wrap t.ty.bits (Int.fdiv (a * b) (2 ^ t.ty.bits : Nat))) ∧
  (∀ t, Gives (.mad t) (if t.ty.bits = 64 then 12 else 6) t.d (tyRegs t.ty) (fun is s l =>
    fit t.sat t.ty (is.val s t.ty t.a l * is.val s t.ty t.b l + is.val s t.ty t.s l)) noFlags) ∧
  (∀ t, Gives (.madhi t) (if t.ty.bits = 64 then 12 else 6) t.d (tyRegs t.ty) (fun is s l =>
    wrap t.ty.bits (Int.fdiv (is.val s t.ty t.a l * is.val s t.ty t.b l) (2 ^ t.ty.bits : Nat) + is.val s t.ty t.s l)) noFlags) ∧
  (∀ t, GivesInt (.div t) t (if t.ty.bits = 64 then 32 else 20) fun a b =>
    if b = 0 then 2 ^ t.ty.bits - 1 else fit t.sat t.ty (a.tdiv b)) ∧
  (∀ t, GivesInt (.rem t) t (if t.ty.bits = 64 then 32 else 20) fun a b =>
    if b = 0 then wrap t.ty.bits a else wrap t.ty.bits (a - b * a.tdiv b)) ∧
  (∀ t, GivesInt (.neg t) t 4 fun a _ => fit t.sat t.ty (-a)) ∧
  (∀ t, GivesInt (.abs t) t 4 fun a _ => fit t.sat t.ty a.natAbs) ∧
  (∀ t, GivesInt (.min t) t 4 fun a b => wrap t.ty.bits (if b < a then b else a)) ∧
  (∀ t, GivesInt (.max t) t 4 fun a b => wrap t.ty.bits (if a < b then b else a)) ∧
  (∀ t sh, Gives (.lea t sh) 4 t.d 2 (fun is s l =>
    wrap 64 ((is.src s true t.a l : Int) + t.ty.value (is.src s false t.b l) * (2 ^ sh : Nat))) noFlags) ∧
  (∀ t, Gives (.sad t) 6 t.d 1 (fun is s l =>
    fit t.sat .n32 (sadSum t.ty (is.src s false t.a l) (is.src s false t.b l) (is.src s false t.s l))) noFlags) ∧
  (∀ t m, Gives (.dp4 t m) 6 t.d 1 (fun is s l =>
    fit t.sat (dp4Acc t.ty m) (dp4Sum t.ty m (is.src s false t.a l) (is.src s false t.b l) (is.src s false t.s l))) noFlags) ∧
  (∀ q imm, GivesImm (.addImm q imm) q imm 4 fun a b => (a + b) % 2 ^ 32) ∧
  (∀ q imm, GivesImm (.subImm q imm) q imm 4 fun a b => wrap 32 ((a : Int) - b)) ∧
  (∀ q imm, GivesImm (.mulImm q imm) q imm 6 fun a b => a * b % 2 ^ 32) ∧
  (∀ q imm, GivesImm (.minImm q imm) q imm 4 fun a b => if sext 32 b < sext 32 a then b else a) ∧
  (∀ q imm, GivesImm (.maxImm q imm) q imm 4 fun a b => if sext 32 a < sext 32 b then b else a) ∧
  (∀ t co s r, (Instr.addc t co).row = some r → (Instr.addc t co).wf = true → MayIssue s r →
    let is := s.issued r
    let w := t.ty.bits
    let cin (l : Nat) : Nat := is.src s false t.s l % 2
    ∃ t', exec (.addc t co) s = .next t' ∧
      Produces s t' is 4
        (fun l => t.d.word (tyRegs t.ty) (wrap w (is.val s t.ty t.a l + is.val s t.ty t.b l + cin l)))
        (fun l j => if co < 7 ∧ j = co then
          some (decide (2 ^ w ≤ is.ty s t.ty t.a l % 2 ^ w + is.ty s t.ty t.b l % 2 ^ w + cin l)) else none) 0) ∧
  (∀ t co s r, (Instr.subb t co).row = some r → (Instr.subb t co).wf = true → MayIssue s r →
    let is := s.issued r
    let w := t.ty.bits
    let cin (l : Nat) : Nat := is.src s false t.s l % 2
    ∃ t', exec (.subb t co) s = .next t' ∧
      Produces s t' is 4
        (fun l => t.d.word (tyRegs t.ty) (wrap w (is.val s t.ty t.a l - is.val s t.ty t.b l - cin l)))
        (fun l j => if co < 7 ∧ j = co then
          some (decide (is.ty s t.ty t.a l % 2 ^ w < is.ty s t.ty t.b l % 2 ^ w + cin l)) else none) 0) ∧
  ∀ (t : Ty), [Ty.s8, .n8, .s16, .n16, .s32, .n32, .s64, .n64].contains t = true →
    (∀ v, t.value (fit false t v) % (2 ^ t.bits : Nat) = v % (2 ^ t.bits : Nat)) ∧
    (∀ v, t.minVal ≤ v → v ≤ t.maxVal → ∀ sat, t.value (fit sat t v) = v) ∧
    (∀ v, v < t.minVal → t.value (fit true t v) = t.minVal) ∧
    (∀ v, t.maxVal < v → t.value (fit true t v) = t.maxVal)

/-- What a source byte names, and what it reads (02 R58, R60): a register or a pair, a k register or its low half, a predicate, p7 reading
1, the lane's number, its team, the low half of global time, which one issue reads once, the thread's identifier and coordinates, zero, and
the immediate. A gang that forms from a bin has its threads' identifiers, no team, registers that are 0 and full, p0 to p6 at 0, free
scoreboard slots, no flag, and the launch's arguments in its k registers (02 R61). -/
def Obligations.SpecialSources : Prop :=
  (∀ n, n < 224 → Opd.ofCode n = .g n) ∧ (∀ n, n < 16 → Opd.ofCode (0xE0 + n) = .k n) ∧ (∀ n, n < 8 → Opd.ofCode (0xF0 + n) = .p n) ∧
  Opd.ofCode 0xF8 = .lane ∧ Opd.ofCode 0xF9 = .team ∧ Opd.ofCode 0xFA = .gtime ∧ Opd.ofCode 0xFB = .tid ∧ Opd.ofCode 0xFC = .cx ∧
  Opd.ofCode 0xFD = .cy ∧ Opd.ofCode 0xFE = .zero ∧ Opd.ofCode 0xFF = .imm ∧
  (∀ (is : Issue) (s : State) (l : Nat),
    (∀ r, is.src s false (.g r) l = (is.c.reg l r).toNat ∧
      is.src s true (.g r) l = (is.c.reg l r).toNat + 2 ^ 32 * (is.c.reg l (r + 1)).toNat) ∧
    (∀ n, is.src s true (.k n) l = (SMap.get 0 is.c.k n).toNat ∧ is.src s false (.k n) l = (SMap.get 0 is.c.k n).toNat % 2 ^ 32) ∧
    (∀ wide n, n < 7 → is.src s wide (.p n) l = if (is.c.lane l).p.getLsbD n then 1 else 0) ∧
    (∀ wide, is.src s wide (.p 7) l = 1 ∧ is.src s wide .lane l = l ∧ is.src s wide .team l = (is.c.lane l).team.toNat ∧
      is.src s wide .tid l = (is.c.lane l).tid.toNat ∧ is.src s wide .cx l = (is.c.lane l).cx.toNat ∧
      is.src s wide .cy l = (is.c.lane l).cy.toNat ∧ is.src s wide .zero l = 0 ∧
      is.src s wide .gtime l = (s.gtime (s.cacheOf is.ctx)).toNat % 2 ^ 32) ∧
    (∀ imm, is.srcImm s imm .imm l = wrap 32 (sext 24 imm)) ∧
    (∀ imm o, o ≠ .imm → is.srcImm s imm o l = is.src s false o l)) ∧
  ∀ (b : Bin) (q : Launch) (gid part slot base clk : Nat),
    let c := gangOf b q gid part slot base clk
    (∀ i x, b.seeds[i]? = some x → (c.lane i).tid = x.tid ∧ (c.lane i).cx = x.cx ∧ (c.lane i).cy = x.cy ∧ (c.lane i).team = 0xFFFFFFFF) ∧
    (∀ l r, c.reg l r = 0 ∧ c.empty l r = false) ∧ (∀ l, (c.lane l).p = 0 ∧ (c.lane l).sb = 0) ∧ c.fp = 0 ∧
    (∀ i v, q.args[i]? = some v → SMap.get 0 c.k i = v) ∧ ∀ i, q.args.length ≤ i → SMap.get 0 c.k i = 0

/-- Class 0x1 (07 R171-R178): every word on bits, shifts, moves and selections completes wherever it may issue, and gives its
destination the value of its entry. -/
def Obligations.BitsAndMoves : Prop :=
  (∀ t, GivesBits (.and t) t fun a b => a &&& b) ∧
  (∀ t, GivesBits (.or t) t fun a b => a ||| b) ∧
  (∀ t, GivesBits (.xor t) t fun a b => a ^^^ b) ∧
  (∀ t, GivesBits (.andn t) t fun a b => a &&& (2 ^ t.ty.bits - 1 - b % 2 ^ t.ty.bits)) ∧
  (∀ t, GivesBits (.orn t) t fun a b => a ||| (2 ^ t.ty.bits - 1 - b % 2 ^ t.ty.bits)) ∧
  (∀ t, GivesBits (.not t) t fun a _ => 2 ^ t.ty.bits - 1 - a % 2 ^ t.ty.bits) ∧
  (∀ t, GivesCount (.shl t) t fun a n => if n < t.ty.bits then a * 2 ^ n % 2 ^ t.ty.bits else 0) ∧
  (∀ t, GivesCount (.shr t) t fun a n => if n < t.ty.bits then a % 2 ^ t.ty.bits / 2 ^ n else 0) ∧
  (∀ t, GivesCount (.sar t) t fun a n => if n < t.ty.bits then wrap t.ty.bits (Int.fdiv (sext t.ty.bits a) (2 ^ n : Nat))
    else if sext t.ty.bits a < 0 then 2 ^ t.ty.bits - 1 else 0) ∧
  (∀ t, GivesCount (.rol t) t (rotLeft t.ty.bits)) ∧
  (∀ t, GivesCount (.ror t) t (rotRight t.ty.bits)) ∧
  (∀ t, GivesCount (.bfe t) t (bitExtract t.ty)) ∧
  (∀ t, Gives (.bfi t) 4 t.d (tyRegs t.ty) (fun is s l =>
    bitInsert t.ty.bits (is.ty s t.ty t.a l) (is.ty s t.ty t.b l) (is.src s false t.s l)) noFlags) ∧
  (∀ t, GivesBits (.brev t) t fun a _ => bitReverse t.ty.bits a) ∧
  (∀ t, Gives (.clz t) 4 t.d 1 (fun is s l => leadingZeros t.ty.bits (is.ty s t.ty t.a l)) noFlags) ∧
  (∀ t, Gives (.ctz t) 4 t.d 1 (fun is s l => trailingZeros t.ty.bits (is.ty s t.ty t.a l)) noFlags) ∧
  (∀ t, Gives (.popc t) 4 t.d 1 (fun is s l => bitCount t.ty.bits (is.ty s t.ty t.a l)) noFlags) ∧
  (∀ t, Gives (.perm t) 4 t.d 1 (fun is s l =>
    permBytes (is.src s false t.a l) (is.src s false t.b l) (is.src s false t.s l)) noFlags) ∧
  (∀ t, GivesBits (.mov t) t fun a _ => a) ∧
  (∀ t, Gives (.sel t) 4 t.d (tyRegs t.ty) (fun is s l =>
    if is.src s false t.s l ≠ 0 then is.ty s t.ty t.a l else is.ty s t.ty t.b l) noFlags) ∧
  (∀ q imm, Gives (.movi q imm) 4 q.d 1 (fun _ _ _ => imm32 imm) noFlags) ∧
  (∀ q imm, Gives (.movhi q imm) 4 q.d 1 (fun is s l => imm * 256 + is.src s false q.b l % 256) noFlags) ∧
  (∀ q imm h, Gives (.movk q imm h) 4 q.d 2 (fun is s l => replaceHalf (is.src s true q.b l) imm h) noFlags) ∧
  (∀ q imm, GivesImm (.andImm q imm) q imm 4 fun a b => a &&& b) ∧
  (∀ q imm, GivesImm (.orImm q imm) q imm 4 fun a b => a ||| b) ∧
  (∀ q imm, GivesImm (.xorImm q imm) q imm 4 fun a b => a ^^^ b) ∧
  (∀ q imm, GivesImm (.shlImm q imm) q imm 4 fun a n => if n < 32 then a * 2 ^ n % 2 ^ 32 else 0) ∧
  (∀ q imm, GivesImm (.shrImm q imm) q imm 4 fun a n => if n < 32 then a % 2 ^ 32 / 2 ^ n else 0) ∧
  (∀ q imm, GivesImm (.sarImm q imm) q imm 4 fun a n => if n < 32 then wrap 32 (Int.fdiv (sext 32 a) (2 ^ n : Nat))
    else if sext 32 a < 0 then 2 ^ 32 - 1 else 0) ∧
  (∀ q imm, GivesImm (.rolImm q imm) q imm 4 (rotLeft 32)) ∧
  (∀ q imm, GivesImm (.rorImm q imm) q imm 4 (rotRight 32))

/-- What the bit words compute, bit by bit (07 R172-R178): reversal, counts, rotations, field extraction and insertion, the byte
permutation's choice, and movk's replacement of one half. -/
def Obligations.BitMeanings : Prop :=
  (∀ w a i, i < w → (bitReverse w a).testBit i = a.testBit (w - 1 - i)) ∧
  (∀ w a, bitReverse w a < 2 ^ w) ∧
  (∀ w a, bitCount w a = ((List.range w).filter fun i => a.testBit i).length) ∧
  (∀ w a n, trailingZeros w a = n ↔ (n = w ∧ (∀ i, i < w → a.testBit i = false)) ∨
    (n < w ∧ a.testBit n = true ∧ ∀ i, i < n → a.testBit i = false)) ∧
  (∀ w a n, leadingZeros w a = n ↔ (n = w ∧ (∀ i, i < w → a.testBit i = false)) ∨
    (n < w ∧ a.testBit (w - 1 - n) = true ∧ ∀ i, i < n → a.testBit (w - 1 - i) = false)) ∧
  (∀ w a n i, i < w → (rotLeft w a n).testBit i = a.testBit ((i + w - n % w) % w)) ∧
  (∀ w a n i, i < w → (rotRight w a n).testBit i = a.testBit ((i + n) % w)) ∧
  (∀ w a b f i, b < 2 ^ w → i < w → (bitInsert w a b f).testBit i =
    if f % 256 ≤ i ∧ i < f % 256 + f / 256 % 256 then a.testBit (i - f % 256) else b.testBit i) ∧
  (∀ t a f i, i < t.bits → (bitExtract t a f).testBit i =
    (let pos := f % 256
     let n := min (pos + f / 256 % 256) t.bits - pos
     if i < n then a.testBit (pos + i) else decide (0 < n) && t.isSigned && a.testBit (pos + n - 1))) ∧
  (∀ a b sel i, a < 2 ^ 32 → i < 4 → permBytes a b sel / 256 ^ i % 256 =
    (let d := sel / 16 ^ i % 16
     let x := if d % 8 < 4 then a / 256 ^ (d % 8) % 256 else b / 256 ^ (d % 8 - 4) % 256
     if d < 8 then x else if x < 128 then 0 else 255)) ∧
  (∀ a b sel, permBytes a b sel < 2 ^ 32) ∧
  (∀ x imm h i, imm < 2 ^ 16 → (replaceHalf x imm h).testBit i =
    if 16 * h ≤ i ∧ i < 16 * h + 16 then imm.testBit (i - 16 * h) else x.testBit i)

/-- Floating results (01 R19, R25-R28). A nonzero exact value is rounded once: to the finite number that its mode names, raising IX where
that is not the value and UF where it is tiny as well; beyond the largest finite value to what the mode and the format give, with OF and IX.
Tininess is judged after rounding in a range without a lower limit. Under .ftz a tiny result is a zero of its sign with UF and IX. .sat gives
the largest finite value for an infinity and +0 for a NaN, and keeps the flags. Sums, products, quotients and square roots of finite operands
are such roundings of the exact value. -/
def Obligations.FloatRounding : Prop :=
  (∀ (t : Ty) (rm : Rnd) (x : Exact) (v : ℚ), t.isFloat = true → x.Is t v →
    let r := t.roundF rm false x
    (t.Overflows rm x.neg v → r.fl = Flags.ov ||| Flags.ix ∧
      (t.fmt.hasInf = true → rm = .rne ∨ rm.outwards x.neg → r.bits = t.signBits x.neg + t.fmt.maxBits + 1) ∧
      (t.fmt.hasInf = false ∨ rm.inwards x.neg → r.bits = t.signBits x.neg + t.fmt.maxBits)) ∧
    (¬ t.Overflows rm x.neg v → ∃ p, t.num r.bits = some p ∧ t.Rounds rm v r.bits p ∧
      (t ≠ .e2m1 → (2 ^ (t.bits - 1) ≤ r.bits ↔ x.neg = true)) ∧
      (p = v → r.fl = 0) ∧ (p ≠ v → t.Tiny rm x.neg v → r.fl = Flags.uf ||| Flags.ix) ∧
      (p ≠ v → ¬ t.Tiny rm x.neg v → r.fl = Flags.ix)) ∧
    (t.flushes = true → t.Tiny rm x.neg v → t.roundF rm true x = ⟨t.signBits x.neg, Flags.uf ||| Flags.ix⟩) ∧
    (t.flushes = false ∨ ¬ t.Tiny rm x.neg v → t.roundF rm true x = r)) ∧
  (∀ t rm ftz sat fl x, (Ty.finish t rm ftz sat fl x).fl = fl ||| (t.roundF rm ftz x).fl ∧
    (t.finish rm ftz sat fl x).bits = t.satF sat (t.roundF rm ftz x).bits) ∧
  (∀ (t : Ty) y, t.satF false y = y ∧ (∀ q, t.decodeF y = .nan q → t.satF true y = 0) ∧
    (∀ n, t.decodeF y = .inf n → t.satF true y = t.signBits n + t.fmt.maxBits) ∧
    (∀ n m e, t.decodeF y = .fin n m e → t.satF true y = y)) ∧
  (∀ (t : Ty) rm sat a b p q, t.num a = some p → t.num b = some q →
    (p + q ≠ 0 → ∃ x, x.Is t (p + q) ∧ t.fadd rm false sat a b = t.finish rm false sat 0 x) ∧
    (p - q ≠ 0 → ∃ x, x.Is t (p - q) ∧ t.fsub rm false sat a b = t.finish rm false sat 0 x) ∧
    (p * q ≠ 0 → ∃ x, x.Is t (p * q) ∧ t.fmul rm false sat a b = t.finish rm false sat 0 x) ∧
    (p ≠ 0 → q ≠ 0 → ∃ x, x.Is t (p / q) ∧ t.fdiv rm false sat a b = t.finish rm false sat 0 x) ∧
    (∀ c z, t.num c = some z → p * q + z ≠ 0 → ∃ x, x.Is t (p * q + z) ∧ t.fma rm false sat a b c = t.finish rm false sat 0 x)) ∧
  ∀ (t : Ty) rm sat a p, t.num a = some p → 0 < p → ∃ x : Exact, x.neg = false ∧ t.fmt.fb + 2 ≤ x.m.log2 ∧
    x.val ^ 2 ≤ p ∧ p < ((x.m + 1) * (2 : ℚ) ^ x.e) ^ 2 ∧ (x.sticky = false ↔ x.val ^ 2 = p) ∧
    t.fsqrt rm false sat a = t.finish rm false sat 0 x

/-- Class 0x4 (07 R179-R184): compares, predicate logic, votes and lane masks complete wherever they may issue; the participants of a
vote are the active lanes of the path. pmov.all gives a predicate destination the seven predicates from the low bits of S1, and a
register p0 to p7, p7 reading 1. -/
def Obligations.ComparesAndPredicates : Prop :=
  (∀ t cc comb, Gives (.cmp t cc comb) 4 t.d 1
    (fun is s l => bit (comb.apply (if t.ty.isFloat
      then (t.ty.fcmp t.ftz cc (is.ty s t.ty t.a l % 2 ^ t.ty.bits) (is.ty s t.ty t.b l % 2 ^ t.ty.bits)).1
      else cc.holds (is.val s t.ty t.a l) (is.val s t.ty t.b l)) (decide (is.src s false t.s l ≠ 0))))
    (laneFlags fun is s l => if t.ty.isFloat
      then (t.ty.fcmp t.ftz cc (is.ty s t.ty t.a l % 2 ^ t.ty.bits) (is.ty s t.ty t.b l % 2 ^ t.ty.bits)).2 else 0)) ∧
  (∀ t z, Gives (.tst t z) 4 t.d 1
    (fun is s l => bit (decide ((is.ty s t.ty t.a l &&& is.ty s t.ty t.b l) ≠ 0) != z)) noFlags) ∧
  (∀ t, Gives (.pand t) 4 t.d 1 (fun is s l => bit (is.truth s t.a l && is.truth s t.b l)) noFlags) ∧
  (∀ t, Gives (.por t) 4 t.d 1 (fun is s l => bit (is.truth s t.a l || is.truth s t.b l)) noFlags) ∧
  (∀ t, Gives (.pxor t) 4 t.d 1 (fun is s l => bit (is.truth s t.a l != is.truth s t.b l)) noFlags) ∧
  (∀ t, Gives (.pnot t) 4 t.d 1 (fun is s l => bit (!is.truth s t.a l)) noFlags) ∧
  (∀ t, Gives (.pmov t) 4 t.d 1 (fun is s l => bit (is.truth s t.a l)) noFlags) ∧
  (∀ t, Gives (.voteAny t) 8 t.d 1 (fun is s _ => bit ((lanesOf is.act).any (is.truth s t.a))) noFlags) ∧
  (∀ t, Gives (.voteAll t) 8 t.d 1 (fun is s _ => bit ((lanesOf is.act).all (is.truth s t.a))) noFlags) ∧
  (∀ t, Gives (.ballot t) 8 t.d 2 (fun is s _ => (maskOf fun l => is.act.getLsbD l && is.truth s t.a l).toNat) noFlags) ∧
  (∀ t, Gives (.lanemaskAct t) 8 t.d 2 (fun is _ _ => is.act.toNat) noFlags) ∧
  (∀ t, Gives (.lanemaskAbs t) 8 t.d 2 (fun is s l => (maskOf fun k => (!is.ctx.isCC || decide (k = 0)) &&
    decide (is.src s false t.a l % 64 ≤ k ∧ k < is.src s false t.a l % 64 + is.src s false t.a l / 128 % 128)).toNat) noFlags) ∧
  (∀ t, Gives (.lanemaskRel t) 8 t.d 2 (fun is s l => (maskOf fun k => (!is.ctx.isCC || decide (k = 0)) &&
    decide ((l : Int) + sext 7 (is.src s false t.a l) ≤ k ∧
      (k : Int) < l + sext 7 (is.src s false t.a l) + (is.src s false t.a l / 128 % 128 : Nat))).toNat) noFlags) ∧
  (∀ t s r, (Instr.pmovAll t).row = some r → (Instr.pmovAll t).wf = true → MayIssue s r →
    let is := s.issued r
    ∃ t', exec (.pmovAll t) s = .next t' ∧
      Produces s t' is 4
        (fun l => t.d.word 1 (((s.ctx is.ctx).lane l).p.toNat + 128))
        (fun l j => if t.d.isP then some ((is.src s false t.a l).testBit j) else none) 0)

/-! ### Floating and cross-lane words (08) -/

/-- Class 0x2 (08 R185-R194): every floating word completes wherever it may issue, gives its destination the rounded result of its
entry, for one element or two, and raises its flags. What each function gives is stated by `FloatRounding`; that fex2 and flg2 computed
to 256 bits are the exact results truncated is the model's deduction (log 8), and the sign of an exact zero in a mode that R187 does not
name its choice (log 36). -/
def Obligations.FloatingArithmetic : Prop :=
  (∀ t x2, GivesFloat (.fadd t x2) t x2 (latF t.ty) (tyRegs t.ty) fun a b _ => t.ty.fadd t.rnd t.ftz t.sat a b) ∧
  (∀ t x2, GivesFloat (.fsub t x2) t x2 (latF t.ty) (tyRegs t.ty) fun a b _ => t.ty.fsub t.rnd t.ftz t.sat a b) ∧
  (∀ t x2, GivesFloat (.fmul t x2) t x2 (latF t.ty) (tyRegs t.ty) fun a b _ => t.ty.fmul t.rnd t.ftz t.sat a b) ∧
  (∀ t x2, GivesFloat (.fma t x2) t x2 (latF t.ty) (tyRegs t.ty) fun a b c => t.ty.fma t.rnd t.ftz t.sat a b c) ∧
  (∀ t x2, GivesFloat (.fmin t x2) t x2 (latF t.ty) (tyRegs t.ty) fun a b _ => t.ty.fminmax false t.ftz a b) ∧
  (∀ t x2, GivesFloat (.fmax t x2) t x2 (latF t.ty) (tyRegs t.ty) fun a b _ => t.ty.fminmax true t.ftz a b) ∧
  (∀ t x2, GivesFloat (.fabs t x2) t x2 4 (tyRegs t.ty) fun a _ _ => t.ty.fsign false t.ftz a) ∧
  (∀ t x2, GivesFloat (.fneg t x2) t x2 4 (tyRegs t.ty) fun a _ _ => t.ty.fsign true t.ftz a) ∧
  (∀ t x2, GivesFloat (.fdiv t x2) t x2 (latFdiv t.ty) (tyRegs t.ty) fun a b _ => t.ty.fdiv t.rnd t.ftz t.sat a b) ∧
  (∀ t x2, GivesFloat (.fsqrt t x2) t x2 (latFdiv t.ty) (tyRegs t.ty) fun a _ _ => t.ty.fsqrt t.rnd t.ftz t.sat a) ∧
  (∀ t x2, GivesFloat (.frcp t x2) t x2 10 1 fun a _ _ => t.ty.frcp t.ftz t.sat a) ∧
  (∀ t x2, GivesFloat (.frsq t x2) t x2 10 1 fun a _ _ => t.ty.frsq t.ftz t.sat a) ∧
  (∀ t x2, GivesFloat (.fex2 t x2) t x2 10 1 fun a _ _ => t.ty.fex2 t.ftz t.sat a) ∧
  (∀ t x2, GivesFloat (.flg2 t x2) t x2 10 1 fun a _ _ => t.ty.flg2 t.ftz t.sat a) ∧
  (∀ t x2, Gives (.fcls t x2) 4 t.d 1
    (fun is s l => (elemwise x2 t.ty.bits (fun a _ _ => ⟨t.ty.fcls a, 0⟩) (is.ty s t.ty t.a l) (is.ty s t.ty t.b l)
      (is.ty s t.ty t.s l)).bits) noFlags) ∧
  (∀ t x2, Gives (.fscl t x2) (latF t.ty) t.d (tyRegs t.ty)
    (fun is s l => (elemwise x2 t.ty.bits (fun a _ _ => t.ty.fscl t.rnd t.ftz t.sat a (sext 32 (is.src s false t.b l)))
      (is.ty s t.ty t.a l) 0 0).bits)
    (laneFlags fun is s l => (elemwise x2 t.ty.bits
      (fun a _ _ => t.ty.fscl t.rnd t.ftz t.sat a (sext 32 (is.src s false t.b l))) (is.ty s t.ty t.a l) 0 0).fl))

/-- Class 0x3 (08 R195-R201): conversions, packed elements and block formats complete wherever they may issue. A path's block is that of
its 64 lanes, a lane that is no participant counting as +0. The sign of a zero of frnd, the flag of a NaN in cvt.e4m3.e4m3, and contents
that no rule promises are the model's (logs 36, 11). -/
def Obligations.ConversionsAndBlocks : Prop :=
  (∀ t src el, Gives (.cvt t src el) 6 t.d (tyRegs t.ty)
    (fun is s l => (t.ty.cvt src t.rnd t.ftz t.sat (elemOf src (is.ty s src t.a l) el)).bits)
    (laneFlags fun is s l => (t.ty.cvt src t.rnd t.ftz t.sat (elemOf src (is.ty s src t.a l) el)).fl)) ∧
  (∀ t, GivesFloat (.frnd t) t false (latF t.ty) (tyRegs t.ty) fun a _ _ => t.ty.frnd t.rnd t.ftz a) ∧
  (∀ t at_, GivesConv (.pack t at_) t 6 1 fun a b c => packWord t.ty at_ t.rnd t.ftz t.sat a b c) ∧
  (∀ t at_, GivesConv (.unpk t at_) t 6 2 fun a _ _ => unpkPair t.ty at_ t.ftz a) ∧
  (∀ t, Gives (.qz4 t) 12 t.d 2
    (fun is s l => let b := qz4 t.ftz (blockSources t is s)
      b.word4 (l % 8) + 2 ^ 32 * (b.scale + 256 * b.spare + 65536 * b.codes.getD l 0))
    (fun is s => if is.act = 0 then 0 else (qz4 t.ftz (blockSources t is s)).fl)) ∧
  (∀ t, Gives (.qz8 t) 12 t.d 2
    (fun is s l => let b := qz8 t.ftz (blockSources t is s)
      b.word8 (l % 16) + 2 ^ 32 * (b.scale + 256 * b.codes.getD l 0))
    (fun is s => if is.act = 0 then 0 else (qz8 t.ftz (blockSources t is s)).fl)) ∧
  (∀ t, GivesConv (.dqz4 t) t 12 1 fun a b c => t.ty.dqz4 t.rnd t.ftz t.sat a b c) ∧
  (∀ t, GivesConv (.dqz8 t) t 12 1 fun a b c => t.ty.dqz8 t.rnd t.ftz t.sat a b c) ∧
  (∀ t, GivesConv (.qres t) t 12 2 fun a b _ =>
    ⟨(t.ty.qres t.rnd t.ftz t.sat a b).1.bits + 2 ^ 32 * (t.ty.qres t.rnd t.ftz t.sat a b).2.bits,
     (t.ty.qres t.rnd t.ftz t.sat a b).1.fl ||| (t.ty.qres t.rnd t.ftz t.sat a b).2.fl⟩)

/-- Class 0x5 (08 R202-R205; 03 R79): shuffles within a segment, reductions, scans and broadcast complete wherever they may issue; on a
column core a reduction and a scan give the source of lane 0. The sign of an exact zero sum is the model's where R187 does not name it
(log 36). -/
def Obligations.CrossLaneWords : Prop :=
  (∀ t wd, GivesShuffle (.shflIdx t wd) t.d (tyRegs t.ty) (decide (t.ty.bits = 64)) t.a fun is s l =>
    shufIdx (64 / 2 ^ wd) l (is.src s false t.b l)) ∧
  (∀ t wd, GivesShuffle (.shflUp t wd) t.d (tyRegs t.ty) (decide (t.ty.bits = 64)) t.a fun is s l =>
    shufUp (64 / 2 ^ wd) l (is.src s false t.b l)) ∧
  (∀ t wd, GivesShuffle (.shflDown t wd) t.d (tyRegs t.ty) (decide (t.ty.bits = 64)) t.a fun is s l =>
    shufDown (64 / 2 ^ wd) l (is.src s false t.b l)) ∧
  (∀ t wd, GivesShuffle (.shflXor t wd) t.d (tyRegs t.ty) (decide (t.ty.bits = 64)) t.a fun is s l =>
    shufXor (64 / 2 ^ wd) l (is.src s false t.b l)) ∧
  (∀ q n wd, GivesShuffle (.shflIdxImm q n wd) q.d 1 false q.a fun _ _ l => shufIdx (64 / 2 ^ wd) l n) ∧
  (∀ q n wd, GivesShuffle (.shflUpImm q n wd) q.d 1 false q.a fun _ _ l => shufUp (64 / 2 ^ wd) l n) ∧
  (∀ q n wd, GivesShuffle (.shflDownImm q n wd) q.d 1 false q.a fun _ _ l => shufDown (64 / 2 ^ wd) l n) ∧
  (∀ q n wd, GivesShuffle (.shflXorImm q n wd) q.d 1 false q.a fun _ _ l => shufXor (64 / 2 ^ wd) l n) ∧
  (∀ t op, Gives (.redl t op) 14 t.d (tyRegs t.ty)
    (fun is s l => if is.ctx.isCC then is.ty s t.ty t.a l else (reduced t op false (laneSources t is s) l).bits)
    (fun is s => if is.act = 0 ∨ is.ctx.isCC then 0 else treeFlags t op false (laneSources t is s))) ∧
  (∀ t op, Gives (.scanl t op) 14 t.d (tyRegs t.ty)
    (fun is s l => if is.ctx.isCC then is.ty s t.ty t.a l else (reduced t op true (laneSources t is s) l).bits)
    (fun is s => if is.act = 0 ∨ is.ctx.isCC then 0 else treeFlags t op true (laneSources t is s))) ∧
  (∀ t, Gives (.bcast t) 8 t.d (tyRegs t.ty)
    (fun is s _ => let m := (lowestLane is.act).getD 0
      let k := is.src s false t.b m % 64
      is.ty s t.ty t.a (if is.act.getLsbD k then k else m)) noFlags)

/-- An integer reduction is the sum, minimum or maximum of the participants' values, whatever the tree (01 R41; 08 R204): the exact sum
clamped or wrapped once, and a bound that is one of the values. -/
def Obligations.IntegerReductions : Prop :=
  ∀ (t : TWord) (v : List (Option Nat)), t.ty.isFloat = false → v.length = 64 → (∃ x, some x ∈ v) →
    (∀ l, (reduced t .add false v l).bits =
      fit t.sat t.ty (v.map fun o => (o.map t.ty.value).getD 0).sum) ∧
    (∃ z, (∃ x, some x ∈ v ∧ t.ty.value x = z) ∧ (∀ x, some x ∈ v → z ≤ t.ty.value x) ∧
      ∀ l, (reduced t .min false v l).bits = fit t.sat t.ty z) ∧
    (∃ z, (∃ x, some x ∈ v ∧ t.ty.value x = z) ∧ (∀ x, some x ∈ v → t.ty.value x ≤ z) ∧
      ∀ l, (reduced t .max false v l).bits = fit t.sat t.ty z)

/-! ### Every word -/

/-- A word whose guard is 0 on every lane of its path only advances the path's PCs: no register, no memory, no scoreboard slot, no hold
(02 R54). yield alone acts whatever its guard (06 R160). -/
def Obligations.GuardZeroPasses : Prop :=
  ∀ i s r, i.isWord = true → (∀ t, i ≠ .yield t) → i.row = some r → MayIssue s r → s.guardMask r = 0 →
    ∃ t, exec i s = .next t ∧ Passes s t (s.issued r) 0 ∧
      ∀ l, ((t.ctx s.sel.ctx).lane l).holds = if l < 64 ∧ s.sel.lanes.getLsbD l then passHolds ((s.ctx s.sel.ctx).lane l).holds
        else ((s.ctx s.sel.ctx).lane l).holds

/-! ### Records and addresses (04, 10) -/

/-- The swizzle of R99 permutes the 16-byte chunks of each 128-byte line and leaves every chunk whole: it is the exclusive or that the
rule states, keeps the line and the low four bits, and undoes itself. The window of rec.adj shows the same elements as its record (10
R245): with no swizzle, where the window's base is a 64-bit number, element (a, b) of the window lies where element (x + a, y + b) of the
record lies, and the window is a valid record. -/
def Obligations.SwizzleAndWindows : Prop :=
  (∀ o m : Nat, m ≤ 3 →
    swizzle o m = ((o ^^^ (o / 128 % 2 ^ m * 16) : Nat) : Int) ∧
    swizzle (swizzle o m) m = o ∧
    (swizzle o m).toNat / 128 = o / 128 ∧ (swizzle o m).toNat % 16 = o % 16) ∧
  (∀ (r : Rec256) (x y a b : Int) (n : Nat), Rec256.valid r = true → Rec256.space r = 0 → Rec256.swz r = 0 →
    0 ≤ x → x ≤ Rec256.extx r → 0 ≤ y → y < Rec256.rows r →
    0 ≤ (Rec256.base r : Int) + x * (2 ^ Rec256.es r : Nat) + y * Rec256.stride r →
    (Rec256.base r : Int) + x * (2 ^ Rec256.es r : Nat) + y * Rec256.stride r < (2 ^ 56 : Nat) →
    Rec256.valid (recWindow r x y) = true ∧
    (0 ≤ a → 0 ≤ b → recAddr (recWindow r x y) a b n = recAddr r (x + a) (y + b) n))

/-- The checks of one access through a valid record, in the order of R235 (10 R235; 04 R98, R100, R101): bounds with the record's
policy, the arena's bound whatever the policy, the record's permissions, alignment, then translation. -/
def Obligations.AccessChecksInOrder : Prop :=
  ∀ (s : State) (w : Who) (r : Rec256) (x y : Int) (n al : Nat) (k : AccKind),
    (s.place? w r x y n = .oob → Rec256.oob r = 1 → s.checkAccess w r x y n al k = (s, .trap trapBounds 0 false)) ∧
    (s.place? w r x y n = .oob → Rec256.oob r ≠ 1 → s.checkAccess w r x y n al k = (s, .zero)) ∧
    (s.place? w r x y n = .bounds → s.checkAccess w r x y n al k = (s, .trap trapBounds 0 false)) ∧
    (∀ pa, s.place? w r x y n = .scratch pa →
      (Rec256.ro r = true ∧ k ≠ .read ∨ Rec256.wo r = true ∧ k ≠ .write →
        s.checkAccess w r x y n al k = (s, .trap trapPermission 0 false)) ∧
      (¬ (Rec256.ro r = true ∧ k ≠ .read) → ¬ (Rec256.wo r = true ∧ k ≠ .write) →
        s.checkAccess w r x y n al k = (s, if pa % al = 0 then .ok pa 7 else .trap trapMisaligned 0 false))) ∧
    (∀ va, s.place? w r x y n = .virt va →
      (Rec256.ro r = true ∧ k ≠ .read ∨ Rec256.wo r = true ∧ k ≠ .write →
        s.checkAccess w r x y n al k = (s, .trap trapPermission (lineOf (wrap 64 va)) false)) ∧
      (¬ (Rec256.ro r = true ∧ k ≠ .read) → ¬ (Rec256.wo r = true ∧ k ≠ .write) → va % al ≠ 0 →
        s.checkAccess w r x y n al k = (s, .trap trapMisaligned (lineOf (wrap 64 va)) false)) ∧
      (¬ (Rec256.ro r = true ∧ k ≠ .read) → ¬ (Rec256.wo r = true ∧ k ≠ .write) → va % al = 0 → va < 0 ∨ (2 ^ 56 : Nat) ≤ va →
        s.checkAccess w r x y n al k = (s, .trap trapTranslation (lineOf (wrap 64 va)) true)))

/-- The checks of an access change nothing but the TLBs, what a walk's reads do to the caches and to accepted writes, and the entry the
walk found: every byte of memory outside the eight bytes of that entry and outside accepted writes, as its home merges it, is as before,
and so is every register and the rest of the machine (09 R212, R214, R226; 13 R305). -/
def Obligations.ChecksTouchOnlyLeaves : Prop :=
  ∀ (s : State) (w : Who) (r : Rec256) (x y : Int) (n al : Nat) (k : AccKind),
    let v := (s.checkAccess w r x y n al k).1
    ChecksOnly s v ∧
    (s.OneOwner → ∀ a, (∀ f ∈ s.ms.fwd, ∀ p ∈ f.bytes, p.1 ≠ a) → v.homeByte a ≠ s.homeByte a →
      ∃ va l, s.place? w r x y n = .virt va ∧ (s.walkRecall w.tlbs va.toNat).walk va.toNat = some l ∧ l.addr ≤ a ∧ a < l.addr + 8)

/-- Caches keep one owner of a line and lose no byte (09 R225-R227; 00 R5, R6): a recall, a line evicted for want of room, taken into the
slice or by an owner, the copies that a read leaves, and a read that reaches the home keep every byte as its home merges it; bytes
written in an owning L1, and a write at the home, change those bytes and no other. Reset meets it. -/
def Obligations.CachesKeepOneOwner : Prop :=
  State.reset.OneOwner ∧
  ∀ s : State, s.OneOwner →
    (∀ by_ line wr, s.KeepsBytes (s.recall by_ line wr)) ∧
    (∀ by_ line, s.KeepsBytes (s.dropSharers by_ line)) ∧
    (∀ line, s.KeepsBytes (s.sliceFill line)) ∧
    (∀ l ∈ s.ms.l1, s.KeepsBytes (s.evict l)) ∧
    (∀ cache line, s.KeepsBytes (s.touchL1 cache line)) ∧
    (∀ cls cache line, cacheable (128 * line) = true → s.KeepsBytes (s.takeOwner cls cache line) ∧
      (s.takeOwner cls cache line).owns cache line = true) ∧
    (∀ cls cache rt line, s.KeepsBytes (s.readCopies cls cache rt line)) ∧
    (∀ pa n, s.KeepsBytes (s.readHome pa n)) ∧
    (∀ cache line bs, s.owns cache line = true → (∀ p ∈ bs, p.1 / 128 = line) → (bs.map Prod.fst).Nodup →
      (s.writeOwned cache line bs).OneOwner ∧
      ∀ a, (s.writeOwned cache line bs).homeByte a = ((bs.find? fun p => p.1 = a).map Prod.snd).getD (s.homeByte a)) ∧
    (∀ pa bs, (s.writeHome pa bs).OneOwner ∧
      ∀ a, (s.writeHome pa bs).homeByte a = if pa ≤ a then bs.getD (a - pa) (s.homeByte a) else s.homeByte a)

/-! ### Memory words (10) -/

/-- Loads, stores, prefetches and cache maintenance (10 R235, R236, R240-R242, R247): where the checks let every lane pass, one
operation goes out with each lane's access: the width's bytes, for a store the low bytes of its data source; a lane out of bounds gives
a load its zeros and drops any other access. Lanes whose checks find a trap take it, one group for each kind, and stay at the word; an
invalid record is the bounds trap, and a ring where none may stand the queue-misuse trap, of every active lane (10 R236; 17 R364). -/
def Obligations.MemoryWordsGoOut : Prop :=
  (∀ m, Accesses (.ld m) m (fun _ _ =>
    { MemForm.plain (.load false) .read (2 ^ m.w) (2 ^ m.w) with fills := true, ring := true }) (dstReg? m.d)) ∧
  (∀ m, Accesses (.st m) m (fun _ _ =>
    { MemForm.plain .store .write (2 ^ m.w) (2 ^ m.w) with
      late := true, ring := true, data := fun is _ l => (dstData m.d (wRegs m.w) is l % 2 ^ (8 * 2 ^ m.w), 0) }) none) ∧
  (∀ m, Accesses (.prf m) m (fun _ s => prefetchForm m s) none) ∧
  (∀ m, Accesses (.inv m) m (fun _ _ =>
    { MemForm.plain .inv .read (2 ^ m.w) (2 ^ m.w) with soft := true, strip := maskPolicy }) none) ∧
  (∀ m, Accesses (.wb m) m (fun _ _ =>
    { MemForm.plain .wb .read (2 ^ m.w) (2 ^ m.w) with soft := true, strip := maskPolicy }) none)

/-- Atomics, cas and reductions (10 R248, R249): where the checks let every lane pass, one operation goes out; an atomic needs read and
write permission and gives zeros out of bounds, a reduction is dropped there. Lanes whose checks find a trap take it, one group for each
kind, and stay at the word; an invalid record is the bounds trap, and a ring where none may stand the queue-misuse trap, of every active
lane (10 R236; 17 R364). -/
def Obligations.AtomicsGoOut : Prop :=
  let atom (i : MWord → Instr) (op : Nat) : Prop := ∀ m, Accesses (i m) m (fun _ _ => atomForm m op) (dstReg? m.d)
  let red (i : MWord → Instr) (op : Nat) : Prop := ∀ m, Accesses (i m) m (fun _ _ => redForm m op) none
  (atom .atomAdd 0x00 ∧ atom .atomSub 0x01 ∧ atom .atomMinU 0x02 ∧ atom .atomMaxU 0x03 ∧ atom .atomAnd 0x04 ∧ atom .atomOr 0x05 ∧
    atom .atomXor 0x06 ∧ atom .atomXchg 0x07 ∧ atom .atomIncw 0x08 ∧ atom .atomDecw 0x09 ∧ atom .cas 0x0A ∧ atom .atomMinS 0x0B ∧
    atom .atomMaxS 0x0C) ∧
  (atom .atomAddF 0x20 ∧ atom .atomSubF 0x21 ∧ atom .atomMinF 0x22 ∧ atom .atomMaxF 0x23) ∧
  (red .redAdd 0x00 ∧ red .redSub 0x01 ∧ red .redMinU 0x02 ∧ red .redMaxU 0x03 ∧ red .redAnd 0x04 ∧ red .redOr 0x05 ∧
    red .redXor 0x06 ∧ red .redMinS 0x0B ∧ red .redMaxS 0x0C) ∧
  (red .redAddF 0x20 ∧ red .redSubF 0x21 ∧ red .redMinF 0x22 ∧ red .redMaxF 0x23)

/-- What an atomic stores (10 R250), on stored values and operands of its width: sums and differences wrap, minimum and maximum in the
selected signedness, the counters wrap at their bound, cas exchanges on equality. The floating atomics store, in bf16, f32 or f64 by the
width code, the sum or difference rounded to nearest, and the minimum or maximum, with no flush and no saturation. -/
def Obligations.AtomicValues : Prop :=
  (∀ w m v n : Nat, w = 1 ∨ w = 2 ∨ w = 3 →
    let t : Ty := if w = 1 then .bf16 else if w = 2 then .f32 else .f64
    atomValue 0x20 w m v n = (t.fadd .rne false false m v).bits ∧ atomValue 0x21 w m v n = (t.fsub .rne false false m v).bits ∧
    (∀ p q, t.num m = some p → t.num v = some q →
      t.num (atomValue 0x22 w m v n) = some (min p q) ∧ t.num (atomValue 0x23 w m v n) = some (max p q)) ∧
    (∀ b, t.decodeF m = .nan b → (∀ c, t.decodeF v ≠ .nan c) → m < 2 ^ t.bits → v < 2 ^ t.bits →
      atomValue 0x22 w m v n = v ∧ atomValue 0x23 w m v n = v ∧ atomValue 0x22 w v m n = v ∧ atomValue 0x23 w v m n = v) ∧
    ((∃ b, t.decodeF m = .nan b) → (∃ b, t.decodeF v = .nan b) →
      atomValue 0x22 w m v n = t.nanBits ∧ atomValue 0x23 w m v n = t.nanBits)) ∧
  ∀ w m v n : Nat, (w = 2 ∨ w = 3) → m < 2 ^ (8 * 2 ^ w) → v < 2 ^ (8 * 2 ^ w) → n < 2 ^ (8 * 2 ^ w) →
    let b := 8 * 2 ^ w
    atomValue 0x00 w m v n = (m + v) % 2 ^ b ∧
    (atomValue 0x01 w m v n + v) % 2 ^ b = m ∧
    atomValue 0x02 w m v n = min m v ∧ atomValue 0x03 w m v n = max m v ∧
    atomValue 0x04 w m v n = m &&& v ∧ atomValue 0x05 w m v n = m ||| v ∧ atomValue 0x06 w m v n = m ^^^ v ∧
    atomValue 0x07 w m v n = v ∧
    atomValue 0x08 w m v n = (if m ≥ v then 0 else m + 1) ∧
    atomValue 0x09 w m v n = (if m = 0 ∨ m > v then v else m - 1) ∧
    atomValue 0x0A w m v n = (if m = v then n else m) ∧
    sext b (atomValue 0x0B w m v n) = min (sext b m) (sext b v) ∧
    sext b (atomValue 0x0C w m v n) = max (sext b m) (sext b v) ∧
    (∀ op, op < 0x20 → atomValue op w m v n < 2 ^ b)

/-- Drift words (15 R342-R346): where the checks let every lane pass, one operation goes out; dadd carries the f32 value of gs, a
tolerance load its tolerance, and dld.e also marks gd empty on its lanes. -/
def Obligations.DriftWordsGoOut : Prop :=
  (∀ m, Drifts (.dadd m) m { MemForm.plain .dadd .write 0 1 with
    late := true, data := fun is _ l => (dstData m.d 1 is l, 0) } none fun _ u => u) ∧
  (∀ m, Drifts (.dld m) m { MemForm.plain (.dld false) .read 0 1 with
    fills := true, data := fun is _ l => (dstData m.d 1 is l, 0) } (dstReg? m.d) fun _ u => u) ∧
  (∀ m r, m.d = .g r → Drifts (.dldE m) m { MemForm.plain (.dld true) .read 0 1 with
    fills := true, data := fun is _ l => (dstData m.d 1 is l, 0) } (dstReg? m.d) fun is u =>
      u.modCtx is.ctx fun c => (lanesOf is.act).foldl (fun c l => c.markEmpty l r) c) ∧
  (∀ m, Drifts (.ddrain m) m (MemForm.plain .ddrain .read 0 1) none fun _ u => u) ∧
  (∀ m, Drifts (.dqry m) m { MemForm.plain .dqry .read 0 1 with fills := true } (dstReg? m.d) fun _ u => u)

/-- Records in slots (10 R243-R246; 04 R95, R102): rec.mk builds its record from eight registers of the source lane with the check byte
computed, rec.adj writes a window, both into the slot of the gang or its sub-gang; rec.ld and rec.st put one access of 32 bytes by
the source lane in flight for every lane whose guard is 1; home puts its words in flight. -/
def Obligations.RecordWords : Prop :=
  (∀ m g, m.a = .g g → Does (.recMk m) always fun is s => s.modCtx is.ctx fun c => c.putRecSlot is.sub (slotOf m.d)
    (recSeal (BitVec.ofNat 256 (is.c.regs is.first g 8)))) ∧
  (∀ m, Does (.recAdj m) always fun is s => s.modCtx is.ctx fun c => c.putRecSlot is.sub (slotOf m.d)
    (recWindow (is.c.recSlot is.sub m.slot) (is.index s m is.first).1 (is.index s m is.first).2)) ∧
  (∀ m s r v pa tgt, (Instr.recLd m).row = some r → (Instr.recLd m).wf = true → MayIssue s r → s.guardMask r ≠ 0 →
    let is := s.issued r
    let rc := is.c.recSlot is.sub m.slot
    let x := is.index s m is.first
    Rec256.valid rc = true → Rec256.space rc ≠ 4 →
    s.checkAccess (s.who is.ctx) rc x.1 x.2 32 32 .read = (v, .ok pa tgt) → isPeer pa = false → v.stuck = none →
    ∃ t, exec (.recLd m) s = .next t ∧ Passes (v.putOut is m (.recLd (slotOf m.d)) none is.act
      [⟨is.first, pa, 32, 0, 0, false, 0, s.accessLine (s.who is.ctx) rc x.1 x.2 32, 0, 0, false⟩]) t is 0) ∧
  (∀ m s r v pa tgt, (Instr.recSt m).row = some r → (Instr.recSt m).wf = true → MayIssue s r → s.guardMask r ≠ 0 →
    let is := s.issued r
    let rc := is.c.recSlot is.sub m.slot
    let x := is.index s m is.first
    Rec256.valid rc = true → Rec256.space rc ≠ 4 →
    s.checkAccess (s.who is.ctx) rc x.1 x.2 32 32 .write = (v, .ok pa tgt) → v.stuck = none →
    ∃ t, exec (.recSt m) s = .next t ∧ Passes (v.putOut is m .recSt none is.act
      [⟨is.first, pa, 32, (is.c.recSlot is.sub (slotOf m.d)).toNat, 0, false, 0,
        s.accessLine (s.who is.ctx) rc x.1 x.2 32, 0, 0, false⟩]) t is 0) ∧
  (∀ m s r, (Instr.home m).row = some r → (Instr.home m).wf = true → MayIssue s r → s.guardMask r ≠ 0 →
    let is := s.issued r
    let rc := is.c.recSlot is.sub m.slot
    let place (l : Nat) : Place := s.place? (s.who is.ctx) rc (is.index s m l).1 (is.index s m l).2 (2 ^ m.w)
    let accs := (lanesOf is.act).filterMap fun l =>
      (s.homeQuery ((s.who is.ctx).core / 4) (place l) (2 ^ m.w)).map fun v => (⟨l, 0, 0, 0, 0, false, 0, 0, v, 0, false⟩ : Acc)
    Rec256.valid rc = true → Rec256.space rc ≠ 4 → (∀ l ∈ lanesOf is.act, place l ≠ .bounds) →
    ∃ t, exec (.home m) s = .next t ∧ Passes (s.putOut is m .home (dstReg? m.d) (accLanes accs) accs) t is 0)

/-! ### Fences and clasps (14) -/

/-- fence (14 R318; 13 R302, R305, R312): it is recorded on each active lane with the operations issued so far; one that acquires at column
scope or wider discards the lease copies. One that releases at stack scope or wider begins, and waits for, the drains of what its lanes added
before their last ddrain; with `.drift` also the drains of all that the cache withholds. -/
def Obligations.FencesAreRecorded : Prop :=
  (∀ m, Does (.fenceAcq m) always fun is s => (s.acquire is.ctx m.sc).fenced is fun _ => ⟨s.opId, .acq, m.sc, false, []⟩) ∧
  (∀ m, m.slot % 2 = 0 → Does (.fenceRel m) always fun is s =>
    (s.owedBegun is m.sc).fenced is fun x => ⟨s.opId, .rel, m.sc, false, x.owesAt m.sc⟩) ∧
  (∀ m, m.slot % 2 = 0 → Does (.fenceAcqrel m) always fun is s =>
    ((s.owedBegun is m.sc).acquire is.ctx m.sc).fenced is fun x => ⟨s.opId, .acqrel, m.sc, false, x.owesAt m.sc⟩) ∧
  (∀ m, m.slot % 2 = 1 → Does (.fenceRel m) always fun is s =>
    let q := s.fenceDrift (s.cacheOf is.ctx) m.sc
    (q.1.owedBegun is m.sc).fenced is fun x => ⟨q.1.opId, .rel, m.sc, true, q.2 ++ x.owesAt m.sc⟩) ∧
  (∀ m, m.slot % 2 = 1 → Does (.fenceAcqrel m) always fun is s =>
    let q := s.fenceDrift (s.cacheOf is.ctx) m.sc
    ((q.1.owedBegun is m.sc).acquire is.ctx m.sc).fenced is fun x => ⟨q.1.opId, .acqrel, m.sc, true, q.2 ++ x.owesAt m.sc⟩)

/-- Clasp words (14 R319-R322): where the checks let every lane pass, init, expect and an arrive without destination put their operation
in flight; an arrive with a destination, and test, also keep the path at the word until the results come; wait and twait block each
lane on its clasp with its phase, twait with its deadline. -/
def Obligations.ClaspWords : Prop :=
  (∀ m, Clasps (.claspInit m) m .claspInit .plain true false none (fun is l => decide (dstData m.d 2 is l / 2 ^ 56 ≠ 0))
    fun is l => dstData m.d 2 is l) ∧
  (∀ m, Clasps (.claspExpect m) m .claspExpect .plain true false none (fun _ _ => false) fun is l => dstData m.d 2 is l) ∧
  (∀ m, Clasps (.claspArrive m) m .claspArrive .rel true (dstReg? m.d).isSome (dstReg? m.d) (fun _ _ => false) fun _ _ => 0) ∧
  (∀ m, Clasps (.claspTest m) m .claspTest .acq false true (dstReg? m.d) (fun _ _ => false)
    fun is l => dstData m.d 1 is l % 2 ^ 15) ∧
  (∀ m, ClaspBlocks (.claspWait m) m fun _ _ => none) ∧
  (∀ m, ClaspBlocks (.claspTwait m) m fun is l => some (is.c.pair l ((dstReg? m.d).getD 0 + 2)))

/-- A clasp's phase (14 R315, R317): an arrival, expected bytes or added bytes are counted; a surplus arrival, too many expected bytes and an
operation on a clasp that is not initialised are misuse; and the phase passes exactly when every expected arrival and byte has come, of a
clasp that expects any, with its counts and its expected bytes cleared. -/
def Obligations.ClaspPhases : Prop :=
  let top := 2 ^ 40 - 1
  let flipped (c : Clasp) : Clasp := { c with phase := (c.phase + 1) % 2 ^ 15, acnt := 0, bcnt := 0, bexp := 0 }
  (∀ c : Clasp, c.v = true → c.acnt < c.aexp → c.acnt + 1 < c.aexp ∨ c.bcnt < c.bexp →
    c.arrive = some ({ c with acnt := c.acnt + 1 }, false)) ∧
  (∀ c : Clasp, c.v = true → c.acnt < c.aexp → c.acnt + 1 = c.aexp → c.bexp ≤ c.bcnt → c.arrive = some (flipped c, true)) ∧
  (∀ c : Clasp, c.v = false ∨ c.acnt = c.aexp → c.arrive = none) ∧
  (∀ (c : Clasp) n, c.v = false ∨ top < c.bexp + n → c.expect n = none) ∧
  (∀ (c : Clasp) n, c.v = true → c.bexp + n ≤ top → c.acnt < c.aexp ∨ c.bcnt < c.bexp + n →
    c.expect n = some ({ c with bexp := c.bexp + n }, false)) ∧
  (∀ (c : Clasp) n, c.v = true → c.bexp + n ≤ top → c.aexp ≤ c.acnt → c.bexp + n ≤ c.bcnt → 0 < c.aexp ∨ 0 < c.bexp + n →
    c.expect n = some (flipped c, true)) ∧
  (∀ (c : Clasp) n, c.v = false → c.addBytes n = none) ∧
  (∀ (c : Clasp) n, c.v = true → c.acnt < c.aexp ∨ min (c.bcnt + n) top < c.bexp →
    c.addBytes n = some ({ c with bcnt := min (c.bcnt + n) top }, false)) ∧
  (∀ (c : Clasp) n, c.v = true → c.acnt = c.aexp → c.bexp ≤ c.bcnt + n → c.bexp ≤ top → 0 < c.aexp ∨ 0 < c.bexp →
    c.addBytes n = some (flipped c, true)) ∧
  (∀ (c : Clasp) n, c.v = true → c.aexp = 0 → c.bexp = 0 →
    c.expect 0 = some (c, false) ∧ c.addBytes n = some ({ c with bcnt := min (c.bcnt + n) top }, false)) ∧
  (∀ x : Nat, x < 2 ^ 128 → (Clasp.ofNat x).toNat = x)

/-! ### What operations in flight do when they are performed -/

/-- A store or record store is performed address by address (02 R65; 10 R239, R241, R251): of the lanes at one address the highest lane's
bytes remain, at the home or in an owning L1, and every other byte of memory is as before; where its scope lets an L1 or a slice accept
it, the home is as before and the reads of its cache see the bytes. Its accesses are done. Asked where no injected error is armed. -/
def Obligations.StoresReachMemory : Prop :=
  ∀ (s : State) (o : MOp) (k : Nat × Bool) (a : Acc), s.GroupGoes o k → (o.kind = .store ∨ o.kind = .recSt) →
    (o.group k).getLast? = some a → (∀ b ∈ o.group k, b.n = a.n) → s.ev.inject = [] →
    let t := s.goGroup o.id k
    let view := s.cacheOf o.ctx
    let new (b : Nat) (old : Byte) : Byte := if a.pa ≤ b ∧ b < a.pa + a.n then BitVec.ofNat 8 (a.data / 256 ^ (b - a.pa)) else old
    (∀ b, t.homeByte b = if s.accepts o a then s.homeByte b else new b (s.homeByte b)) ∧
    (s.accepts o a = true → ∀ b, t.viewByte view b = new b (s.viewByte view b)) ∧
    s.GroupGone t o k ∧ Completes s t o k

/-- A load is performed address by address (02 R65, R67, R68; 10 R238, R240; 13 R297): each lane's registers receive the bytes as its
agent's cache sees them, zeros where the lane was out of bounds, and are full; a lane's 16 bytes from outside the module's memory come as
two halves. Every other register is as before, memory keeps every byte, and the accesses are done. -/
def Obligations.LoadsReadMemory : Prop :=
  ∀ (s : State) (o : MOp) (k : Nat × Bool) (r : Nat), s.GroupGoes o k → o.kind = .load false → o.reg = some r →
    (∀ a ∈ o.group k, a.lane < 64) → ((o.group k).map Acc.lane).Nodup → s.alive o.ctx = true →
    let words (a : Acc) : Nat := if o.w = 4 ∧ a.n = 8 then 2 else wRegs o.w
    (∀ a ∈ o.group k, r + a.off + words a ≤ 224) →
    let t := s.goGroup o.id k
    (∀ a, t.homeByte a = s.homeByte a) ∧
    (∀ a ∈ o.group k, ∀ i, i < words a →
      (t.ctx o.ctx).empty a.lane (r + a.off + i) = false ∧
      (t.ctx o.ctx).reg a.lane (r + a.off + i) = BitVec.ofNat 32 ((if a.drop then 0
        else if cacheable a.pa then s.viewNat (s.cacheOf o.ctx) a.pa a.n else leNat (s.bytesAt a.pa a.n)) / 2 ^ (32 * i))) ∧
    (∀ l m, l < 64 → m < 256 → (∀ a ∈ o.group k, a.lane = l → ¬ (r + a.off ≤ m ∧ m < r + a.off + words a)) →
      (t.ctx o.ctx).reg l m = (s.ctx o.ctx).reg l m ∧ (t.ctx o.ctx).empty l m = (s.ctx o.ctx).empty l m) ∧
    s.GroupGone t o k ∧ Completes s t o k

/-- Atomics and reductions are performed address by address, lanes ascending (10 R248-R251): each lane's new value is computed from the one
before it and stored, an atomic returns the one before it; every byte of memory outside the access is as before. A lane out of bounds
gets zeros and stores nothing. A reduction that its scope lets an L1 or a slice accept goes on its way whole. Asked where no injected
error is armed. -/
def Obligations.AtomicsActAtTheirPoint : Prop :=
  ∀ (s : State) (o : MOp) (k : Nat × Bool) (op : Nat) (a : Acc), s.GroupGoes o k → (o.kind = .atom op ∨ o.kind = .red op) →
    a ∈ o.group k → (∀ b ∈ o.group k, b.n = a.n ∧ b.off = 0 ∧ b.lane < 64) → s.ev.inject = [] →
    let t := s.goGroup o.id k
    let after (as : List Acc) : Nat :=
      as.foldl (fun v b => atomValue op o.w v b.data b.data2 % 256 ^ a.n) (s.homeNat a.pa a.n)
    let stored (v : Nat) (b : Nat) : Byte := if a.pa ≤ b ∧ b < a.pa + a.n then BitVec.ofNat 8 (v / 256 ^ (b - a.pa)) else s.homeByte b
    (∀ b, t.homeByte b = if (a.drop = true ∧ o.kind = .atom op) ∨ s.accepts o a = true then s.homeByte b
      else stored (after (o.group k)) b) ∧
    (s.accepts o a = true → ∃ f ∈ t.ms.fwd, f.op = o.id ∧ f.bytes.map Prod.fst = (List.range a.n).map (a.pa + ·) ∧
      f.red = (o.group k).map fun b => (op, o.w, b.data)) ∧
    (∀ r, o.kind = .atom op → o.reg = some r → r + wRegs o.w ≤ 224 → o.w < 4 → s.alive o.ctx = true → ((o.group k).map Acc.lane).Nodup →
      ∀ pre b post, o.group k = pre ++ b :: post → ∀ i, i < wRegs o.w →
        (t.ctx o.ctx).reg b.lane (r + i) = BitVec.ofNat 32 ((if a.drop then 0 else after pre) / 2 ^ (32 * i))) ∧
    s.GroupGone t o k ∧ Completes s t o k

/-! ### Transfers of control (06) -/

/-- br, jmp, jmpx, ret, call and callx (06 R143, R157-R159): each active lane goes to its header and waits out its bubble, the other
lanes of the path pass the word; call and callx write the next header's address on the lanes that transfer. A lane whose address is
beyond the address range takes the translation trap at its word. -/
def Obligations.TransfersOfControl : Prop :=
  let there (off : Nat) (is : Issue) (_ : State) (l : Nat) : Option Word64 :=
    if is.act.getLsbD l then some (is.hdr + BitVec.ofInt 64 (16 * sext 24 off)) else none
  let toPair (o : Opd) (is : Issue) (s : State) (l : Nat) : Option Word64 :=
    if is.act.getLsbD l = true ∧ is.src s true o l < 2 ^ 56 then some (BitVec.ofNat 64 (is.src s true o l)) else none
  let inRange (o : Opd) (is : Issue) (s : State) : Prop := ∀ l ∈ lanesOf is.act, is.src s true o l < 2 ^ 56
  let link (is : Issue) (_ : Nat) : Nat := (is.hdr + BitVec.ofNat 64 is.h.size).toNat
  (∀ q off, Transfers (.br q off) always (fun _ s => s) (there off) fun _ _ => 0) ∧
  (∀ q off, Transfers (.jmp q off) always (fun _ s => s) (there off) fun _ _ => 0) ∧
  (∀ q off, Transfers (.call q off) always (fun is s => s.gives is 4 q.d 2 (link is)) (there off) fun _ _ => 0) ∧
  (∀ t, Transfers (.jmpx t) (inRange t.a) (fun _ s => s) (toPair t.a) fun _ _ => 0) ∧
  (∀ t, Transfers (.ret t) (inRange t.a) (fun _ s => s) (toPair t.a) fun _ _ => 0) ∧
  (∀ t, Transfers (.callx t) (inRange t.a) (fun is s => s.gives is 4 t.d 2 (link is)) (toPair t.a) fun _ _ => 0) ∧
  (∀ i, (∃ t, (i = .jmpx t ∨ i = .ret t)) → ∀ s r, i.row = some r → i.wf = true → MayIssue s r → s.guardMask r ≠ 0 →
    let is := s.issued r
    (∀ l ∈ lanesOf is.act, 2 ^ 56 ≤ is.src s true r.a l) →
    let line : Word64 := BitVec.ofNat 64 (is.src s true r.a is.first / 128 * 128)
    let u := s.takeTrap is.ctx is.act ⟨0x05, 0, 255, line, false, false⟩ is.h is.hdr is.idx
    u.stuck = none → ∃ t, exec i s = .next t ∧ Passes u t is is.act)

/-- nop passes; yield makes its gang the youngest of its class whatever the guard; trap and brk take their traps with their codes on the
active lanes, or brk holds them for the debugger (06 R160, R162; 19 R415; 20 R432). That a column core's thread is held where it stands, its
entry of the hold list naming number 0 and the identity of a first gang, and that lanes which find no entry trap, is the model's choice (log
27). -/
def Obligations.NopYieldTrapBreak : Prop :=
  (∀ t, Does (.nop t) always fun _ s => s) ∧
  (∀ t s r, (Instr.yield t).row = some r → MayIssue s r →
    let is := s.issued r
    let u := if is.ctx.isCC then s else s.modCtx is.ctx fun c => { c with age := 2 * s.clk is.ctx + 1 }
    ∃ v, exec (.yield t) s = .next v ∧ Passes u v is 0) ∧
  (∀ q code, DoesBut (.trap q code) always (fun is s =>
    s.takeTrap is.ctx is.act ⟨0x0D, code % 2 ^ 24, 255, 0, false, false⟩ is.h is.hdr is.idx) fun is _ => is.act) ∧
  (∀ q code, DoesBut (.brk q code) (fun _ s => s.hob = false) (fun is s =>
    s.takeTrap is.ctx is.act ⟨0x0C, code % 2 ^ 24, 255, 0, false, false⟩ is.h is.hdr is.idx) fun is _ => is.act) ∧
  (∀ q code g, DoesBut (.brk q code) (fun is s => is.ctx = .gang g ∧ s.hob = true) (fun is s =>
    s.debugHold is.ctx g is.act (code % 2 ^ 24) is.hdr is.idx false) fun is _ => is.act) ∧
  (∀ q code n, DoesBut (.brk q code) (fun is s => is.ctx = .cc n ∧ s.hob = true ∧ s.se.dhold.length < 64) (fun is s =>
    (s.modCtx (.cc n) fun c => c.modLane 0 fun y => { y with hw := some s.sel.hw, stalled := some (0x0C, false) }).addHold
      ⟨n * 2 ^ 26, 0, code % 2 ^ 24, 1, is.hdr, is.idx⟩) fun is _ => is.act) ∧
  (∀ q code n, DoesBut (.brk q code) (fun is s => is.ctx = .cc n ∧ s.hob = true ∧ 64 ≤ s.se.dhold.length) (fun is s =>
    s.takeTrap (.cc n) 1 ⟨0x0C, code % 2 ^ 24, 255, 0, false, false⟩ is.h is.hdr is.idx) fun is _ => is.act)

/-! ### Traps (02, 03, 17, 19) -/

/-- The order of the checks at issue (02 R66, R69; 03 R76, R78, R79): a word waits for its WM slots; an illegal word then traps on every
lane of its path whatever the guards; a word waits until its lanes are ready and the slot it sets is free; a privileged word of a user
traps on the lanes whose guard is 1; a word waits for its full sources, and where every lane has an empty guarded source all take the
register-not-ready trap with the lowest such register. -/
def Obligations.WordsWaitAndTrap : Prop :=
  ∀ i s r, i.isWord = true → i.row = some r → s.sel.lanes ≠ 0 → s.stuck = none →
    (∀ l, ((s.ctx s.sel.ctx).lane l).fails = []) →
    let c := s.ctx s.sel.ctx
    let is := s.issued r
    let trap (m : Word64) (k code : Nat) : State := s.takeTrap s.sel.ctx m ⟨k, code, 255, 0, false, false⟩ is.h is.hdr is.idx
    ((∃ l ∈ lanesOf s.sel.lanes, (c.lane l).sb.toNat &&& r.c.wm ≠ 0) → exec i s = .next s) ∧
    (Waited s r → s.illegalHere r = true → (trap s.sel.lanes 0x01 0).stuck = none →
      exec i s = .next (trap s.sel.lanes 0x01 0)) ∧
    (Waited s r → s.illegalHere r = false → (∃ l ∈ lanesOf s.sel.lanes, s.laneReady s.sel.ctx l r = false ∨
      (r.c.se = true ∧ (c.lane l).sb.getLsbD r.c.sa = true)) → exec i s = .next s) ∧
    (Reaches s r → s.guardMask r ≠ 0 → r.privileged = true → s.isSup s.sel.ctx = false → (trap is.act 0x0B 0).stuck = none →
      exec i s = .next (trap is.act 0x0B 0)) ∧
    (Reaches s r → r.privileged = false ∨ s.isSup s.sel.ctx = true →
      (∀ l ∈ lanesOf is.act, ∀ u ∈ r.sources, u.g = true → c.isFull u l) →
      (∃ l ∈ lanesOf s.sel.lanes, ∃ u ∈ r.sources, u.g = false ∧ ¬ c.isFull u l) → exec i s = .next s) ∧
    (Reaches s r → r.privileged = false ∨ s.isSup s.sel.ctx = true → s.guardMask r = s.sel.lanes →
      (∀ l ∈ lanesOf s.sel.lanes, ∃ u ∈ r.sources, u.g = true ∧ ¬ c.isFull u l) →
      let code := c.lowestEmpty (r.sources.filter fun u => u.g) s.sel.lanes
      (trap s.sel.lanes 0x03 code).stuck = none → exec i s = .next (trap s.sel.lanes 0x03 code))

/-- A trap of a column core (19 R400): at user level the resume PC is saved, the core goes to supervisor level at its vector, and the
record goes to its own queue; at supervisor level the core halts where it stands. Its registers are as before, no other agent differs
but column core 0, which a machine event may wake, and no byte of memory outside the two queues' rings differs. -/
def Obligations.ColumnCoreTraps : Prop :=
  ∀ (s : State) (n : Nat) (m : Word64) (t : TrapInfo) (h : Header) (hdr : Word64) (idx : Nat), n < 64 → m ≠ 0 →
    let v := s.takeTrap (.cc n) m t h hdr idx
    let resume := if t.kind = 0x08 ∨ t.kind = 0x0C ∨ t.kind = 0x0D then nextPc h hdr idx else (hdr, idx)
    (s.isSup (.cc n) = false →
      v.sysGet SysReg.uepc n = resume.1 &&& 0x00FFFFFFFFFFFFF0 ∧ (v.sysGet SysReg.uepw n).toNat = resume.2 % 1024 ∧
      v.sysGet SysReg.cstat n = 1 ∧
      ((v.ctx (.cc n)).lane 0).hdr = s.sysGet SysReg.svec n ∧ ((v.ctx (.cc n)).lane 0).idx = 0) ∧
    (s.isSup (.cc n) = true → (v.ctx (.cc n)).run = .halted ∧ (v.ctx (.cc n)).lanes = (s.ctx (.cc n)).lanes) ∧
    Ctx.SameRegs (s.ctx (.cc n)) (v.ctx (.cc n)) ∧
    (v.ctx (.cc n)).b = (s.ctx (.cc n)).b ∧
    (∀ k, ctxKey k ≠ n → ctxKey k ≠ 0 → v.ctx k = s.ctx k) ∧
    (s.OneOwner → ∀ a, (a < s.evqBase n ∨ s.evqBase n + 32 * s.evqSize n ≤ a) → (a < s.evqBase 0 ∨ s.evqBase 0 + 32 * s.evqSize 0 ≤ a) →
      v.homeByte a = s.homeByte a)

/-- A trap of a gang's lanes (17 R365, R367, R369). Under FPOL = 0, with a sub-gang entry free, the lanes park as a sub-gang at the word, with
the trap's kind and a copy of their record slots; the other lanes stand where they stood, and every register is as before. Under FPOL = 1 the
lanes stall at the word, and the launch ends with status 3 and the trap's kind as its cause, unless it is ending already. -/
def Obligations.GangTraps : Prop :=
  (∀ (s : State) (g : Nat) (m : Word64) (t : TrapInfo) (h : Header) (hdr : Word64) (idx j : Nat), m ≠ 0 →
     s.fpol (s.ctx (.gang g)).handle ≠ 1 → (s.ctx (.gang g)).freeSub = some j →
     (∀ l ∈ lanesOf m, ((s.ctx (.gang g)).lane l).act = true ∧ ((s.ctx (.gang g)).lane l).exited = false ∧
       ((s.ctx (.gang g)).lane l).sub = 0) →
     let c := s.ctx (.gang g)
     let v := s.takeTrap (.gang g) m t h hdr idx
     let d := v.ctx (.gang g)
     ((d.sub j).st = .parked ∨ (d.sub j).st = .dormant) ∧ (d.sub j).code = t.kind ∧ (d.sub j).mask = m ∧
     (d.sub j).hdr = hdr ∧ (d.sub j).idx = idx ∧
     (∀ l, l < 64 → (d.lane l).hdr = (c.lane l).hdr ∧ (d.lane l).idx = (c.lane l).idx ∧ (d.lane l).sb = (c.lane l).sb ∧
       (m.getLsbD l = true → (d.lane l).sub = j)) ∧
     (∀ n, n < 16 → d.recSlot j n = c.recSlot 0 n) ∧ Ctx.SameRegs c d ∧
     (∀ k, 64 ≤ ctxKey k → ctxKey k ≠ 64 + g → v.ctx k = s.ctx k)) ∧
  (∀ (s : State) (g : Nat) (m : Word64) (t : TrapInfo) (h : Header) (hdr : Word64) (idx : Nat) (a : Launch), m ≠ 0 →
     let c := s.ctx (.gang g)
     s.launch? c.handle = some a → s.fpol c.handle = 1 →
     let v := s.takeTrap (.gang g) m t h hdr idx
     (∀ l, l < 64 → ((v.ctx (.gang g)).lane l).stalled =
       if m.getLsbD l then some (t.kind, t.atHeader) else (c.lane l).stalled) ∧ Ctx.SameRegs c (v.ctx (.gang g)) ∧
     ∃ b, v.launch? c.handle = some b ∧ b.ending = true ∧
       (a.ending = false → b.status = 3 ∧ b.cause = t.kind) ∧ (a.ending = true → b = a))

/-! ### Threads, teams and launches (05) -/

/-- exit (05 R131): on a column core it halts; on a core the active lanes' threads end: they are exited, in no team, hold nothing and
count as triggered. The other lanes keep their state, every register and every byte of memory is as before. That a column core's exit halts
it at user level too, without a trap, is the model's choice (log 36). -/
def Obligations.ExitEndsThreads : Prop :=
  (∀ t, Does (.exit t) (fun is _ => is.ctx.isCC = true) fun is s => s.modCtx is.ctx fun c => { c with run := .halted }) ∧
  (∀ t, DoesBut (.exit t) (fun is _ => is.ctx.isCC = false) (fun is s => s.endThreads is.ctx is.act) fun is _ => is.act) ∧
  (∀ (s : State) (g : Nat) (m : Word64), (∀ l, ((s.ctx (.gang g)).lane l).fails = []) →
    let c := s.ctx (.gang g)
    let d := (s.endThreads (.gang g) m).ctx (.gang g)
    (∀ l, l < 64 → m.getLsbD l = true →
      (d.lane l).exited = true ∧ (d.lane l).team = 0xFFFFFFFF ∧ (d.lane l).trig = true ∧ (d.lane l).heldRcv = false ∧
      (d.lane l).heldRb = false ∧ (d.lane l).wait = .none) ∧
    (∀ l, l < 64 → m.getLsbD l = false →
      (d.lane l).exited = (c.lane l).exited ∧ (d.lane l).team = (c.lane l).team ∧ (d.lane l).hdr = (c.lane l).hdr ∧
      (d.lane l).idx = (c.lane l).idx) ∧
    Ctx.SameRegs c d ∧ (∀ a, (s.endThreads (.gang g) m).byte a = s.byte a) ∧
    ∀ k, ctxKey k ≠ 64 + g → (s.endThreads (.gang g) m).ctx k = s.ctx k)

/-- team.new, team.free, join and leave (05 R134-R136): a free number of the column becomes a live team of the launch and the active
lanes join it, all ones where the column has none free, and a core whose reserve is empty waits; lane by lane, a live team's number is freed,
and its resident members leave it; each lane joins the live team it names, or none; a lane leaves. Which free number is taken is a free value
(log 12). -/
def Obligations.Teams : Prop :=
  (∀ t, Does (.teamNew t) (fun is s => s.teamFreeOf (s.colOf is.ctx) = []) fun is s => s.gives is 8 t.d 1 fun _ => 0xFFFFFFFF) ∧
  (∀ t, DoesAfter (.teamNew t) (fun is s v => ∃ n ∈ s.teamFreeOf (s.colOf is.ctx), s.pickTeam (s.colOf is.ctx) = some n ∧
      (is.ctx.isCC = true ∨ SMap.get 0 s.la.used is.c.core < 32) ∧
      v = (({ s with
        la := { s.la with
          teams := s.la.teams ++ [⟨n, is.c.handle⟩],
          used := if is.ctx.isCC then s.la.used else SMap.modify 0 s.la.used is.c.core (· + 1) },
        freeCtr := s.freeCtr + 1 } : State).setTeam is.ctx (lanesOf is.act) (BitVec.ofNat 32 n)).gives is 8 t.d 1 fun _ => n)
    fun _ _ v => v) ∧
  (∀ t, Waits (.teamNew t) fun is s => s.teamFreeOf (s.colOf is.ctx) ≠ [] ∧ is.ctx.isCC = false ∧ 32 ≤ SMap.get 0 s.la.used is.c.core) ∧
  (∀ t, Does (.teamFree t) (fun is s => ∀ l ∈ lanesOf is.act, s.teamLive is.c.handle (is.src s false t.a l) = false) fun _ s => s) ∧
  (∀ t, Does (.teamFree t) always fun is s => (lanesOf is.act).foldl (fun (z : State) l =>
    if z.teamLive is.c.handle (is.src s false t.a l) then z.freeTeam is.c.handle (is.src s false t.a l) else z) s) ∧
  (∀ (s : State) (h : Word64) (n : Nat),
    (∀ m, (s.freeTeam h n).teamLive h m = (s.teamLive h m && decide (m ≠ n))) ∧
    (∀ c l, (s.ctx c).live = true → (s.ctx c).handle = h → ((s.ctx c).lane l).act = true →
      (((s.freeTeam h n).ctx c).lane l).team = if ((s.ctx c).lane l).team.toNat = n then 0xFFFFFFFF else ((s.ctx c).lane l).team) ∧
    ∀ c, (s.ctx c).handle ≠ h → (s.freeTeam h n).ctx c = s.ctx c) ∧
  (∀ t, Does (.join t) always fun is s => s.modCtx is.ctx fun c => c.modLanes (lanesOf is.act) fun l x =>
    { x with team := if s.teamLive is.c.handle (is.src s false t.a l) then BitVec.ofNat 32 (is.src s false t.a l) else 0xFFFFFFFF }) ∧
  (∀ t, Does (.leave t) always fun is s => s.setTeam is.ctx (lanesOf is.act) 0xFFFFFFFF)

/-- spawn and spawn.home (05 R132, R133): each active lane, ascending, has its child placed at the header the word names, with the next
identifier of the launch and its coordinates: spawn on its own core and column, spawn.home in the column its address is homed in. The
child stands in a bin of its core, or in a spill entry. The lanes whose child finds no place, some or all, take the spawn-overflow trap
and resume at the next word; the others' children are placed all the same. A word whose spill entry's walk waits for a slot waits whole
(18 R393). That a child goes to the lowest free spill entry, and that an entry whose address does not translate for write counts as no
place, is the model's choice (log 39). -/
def Obligations.Spawns : Prop :=
  let start (off : Nat) (is : Issue) : Word64 := is.hdr + BitVec.ofInt 64 (16 * sext 24 off)
  let homeCol (is : Issue) (r : Nat) (s : State) (z : State) (l : Nat) : Nat :=
    (z.presentColumn ((z.placeHome (is.c.pair l r)).getD (s.colOf is.ctx))).getD (s.colOf is.ctx)
  let homeCore (is : Issue) (off r : Nat) (s : State) (z : State) (l : Nat) : Nat :=
    (z.chooseCore (homeCol is r s z l) is.c.handle (start off is)).getD is.c.core
  let run (home : Bool) (q : QWord) (off : Nat) (is : Issue) (s : State) (col core : State → Nat → Nat) : State × Word64 × Bool :=
    (lanesOf is.act).foldl (fun (z : State × Word64 × Bool) l =>
      let after := if z.1.ms.fwd.any fun f => decide (f.op < s.opId) && f.seenBy (s.cacheOf is.ctx)
        then some (s.cacheOf is.ctx, s.opId) else none
      let late := z.2.2 || z.1.spawnWaits is.c.handle (start off is) (core z.1 l) (col z.1 l)
      match z.1.spawnOne is.c.handle (start off is) (core z.1 l) (col z.1 l) home (is.src z.1 false q.a l) (is.src z.1 false q.b l) after with
      | some s1 => (s1, z.2.1, late)
      | none => (z.1, z.2.1 ||| (1#64 <<< l), late)) (s, 0#64, false)
  let places (i : Instr) (out : Issue → State → State × Word64 × Bool) : Prop :=
    DoesAfter i (fun is s v => out is s = (v, 0, false)) (fun _ _ v => v) ∧
    DoesBut i (fun is s => (out is s).2.1 ≠ 0 ∧ (out is s).2.2 = false)
      (fun is s => (out is s).1.takeTrap is.ctx (out is s).2.1 ⟨0x08, 0, 255, 0, false, false⟩ is.h is.hdr is.idx)
      (fun is s => (out is s).2.1) ∧
    Waits i fun is s => (out is s).2.2 = true
  (∀ q off, places (.spawn q off) fun is s => run false q off is s (fun _ _ => s.colOf is.ctx) (fun _ _ => is.c.core)) ∧
  (∀ q off r, q.d = .g r → places (.spawnHome q off) fun is s => run true q off is s (homeCol is r s) (homeCore is off r s)) ∧
  (∀ (s s1 : State) (h hdr : Word64) (core col cx cy : Nat) (home : Bool) (after : Option (Nat × Nat)) (a : Launch),
    s.launch? h = some a → s.spawnOne h hdr core col home cx cy after = some s1 →
    (∃ b, s1.launch? h = some b ∧ b.nextTid = a.nextTid + 1) ∧
    ((∃ b ∈ s1.la.bins, b.core = core ∧ b.handle = h ∧ b.hdr = hdr ∧
        b.seeds.getLast? = some ⟨BitVec.ofNat 32 a.nextTid, BitVec.ofNat 32 cx, BitVec.ofNat 32 cy, false, after⟩) ∨
      ∃ i, s1.la.spills = s.la.spills ++ [⟨h, i, col, after⟩]))

/-- regx, trigger and slotq (05 R137, R139; 13 R302; 18 R397, R398): a gang's request for a block of min(4, S1) of the source lane is
noted and its slot is busy, on a column core 4 is written at once; trigger, once what it releases is performed, marks its threads as
having triggered, and waits until then, having begun the drains that its release waits for; slotq gives the calendar's answer at the agent's
time. -/
def Obligations.RegxTriggerSlotq : Prop :=
  (∀ t, Does (.regx t) (fun is _ => is.ctx.isCC = true) fun is s => s.putAll is t.d 1 4) ∧
  (∀ t, Does (.regx t) (fun is _ => is.ctx.isCC = false) fun is s =>
    (s.modCtx is.ctx fun c => { c with
      regx := c.regx ++ [⟨is.act, dstReg? t.d, min 4 (is.src s false t.a is.first), t.c.slot?, decide (t.c.pd ≠ 0)⟩] }).busySlot is.ctx is.act t.c) ∧
  (∀ t sc, Does (.trigger t sc) (fun is s => s.released is.ctx is.act sc = true ∧ is.ctx.isCC = false) fun is s =>
    ((s.markRelease (s.cacheOf is.ctx) (trigPlace is.c.handle) 1 s.opId sc (!(is.c.lanesOwe is.act).isEmpty)).modCtx is.ctx fun c =>
      c.modLanes (lanesOf is.act) fun _ x => { x with trig := true }).noteTriggers) ∧
  (∀ t sc, Does (.trigger t sc) (fun is s => s.released is.ctx is.act sc = true ∧ is.ctx.isCC = true) fun is s =>
    (s.markRelease (s.cacheOf is.ctx) (trigPlace is.c.handle) 1 s.opId sc (!(is.c.lanesOwe is.act).isEmpty)).noteTriggers) ∧
  (∀ t sc, Waits (.trigger t sc) fun is s => s.released is.ctx is.act sc = false ∧
    ∀ d ∈ s.owedAt is.ctx is.act sc, d.draining = true) ∧
  (∀ t sc, DoesBut (.trigger t sc) (fun is s => s.released is.ctx is.act sc = false ∧ ∃ d ∈ s.owedAt is.ctx is.act sc, d.draining = false)
    (fun is s => s.startOwed (s.owedAt is.ctx is.act sc)) fun is _ => is.path) ∧
  (∀ q which n, Does (.slotq q which n) always fun is s =>
    s.gives is 8 q.d 2 fun _ => s.slotInfo (s.gtime (s.cacheOf is.ctx)).toNat which n % 2 ^ 64)

/-- launch by one lane (05 R139; 05 R113-R115), its releases performed, its record readable and its line Idle: the record and its GO are
in the line, the line is Pending with the next SEQ, the lane's pair holds the line's handle, and its path stands past the word. -/
def Obligations.LaunchSubmits : Prop :=
  ∀ t s r l g v pa tgt z, (Instr.launch t).row = some r → (Instr.launch t).wf = true → MayIssue s r → t.d = .g g →
    let is := s.issued r
    is.act = 1#64 <<< l → l < 64 → s.released is.ctx is.act .module = true → s.alive is.ctx = true →
    (∀ k, ((s.ctx is.ctx).lane k).wait = .none) →
    (∀ k ∈ lanesOf is.path, ((s.ctx is.ctx).lane k).hdr = is.hdr ∧ ((s.ctx is.ctx).lane k).idx = is.idx) →
    let va := is.src s true t.a l
    let line := is.src s false t.b l % 16
    let col := is.src s false t.b l % 1024 / 16
    let s1 := (s.block is is.path fun k => if is.act.getLsbD k then .launch va (is.src s false t.b l % 1024) g none is.path
      else .peers is.path).orphanQueries (recordOp is.ctx l)
    let view : EView := .core (v.cacheOf is.ctx)
    let parts : List EAcc := (List.range 16).map fun i => ⟨.ok (pa + 8 * i) 0, 8, .nc, false⟩
    va % 128 = 0 → s1.checkVirt (s1.who is.ctx) 0 va .read = (v, .ok pa tgt) → v.stopped pa = false →
    v.engineReady (recordOp is.ctx l) true view true parts = (z, true) →
    let x := z.launchLine col line
    let rec0 := (z.engineReads (recordOp is.ctx l) view parts).2.flatMap (leBytes 8)
    let go := recNat rec0 120 8
    x.pending = false → go ≠ 0 →
    let q := if x.seq + 1 < 2 ^ 32 then x.seq + 1 else 1
    ∃ u, exec (.launch t) s = .next u ∧
      u.launchLine col line = { ((x.put 0 (rec0.take 120)).put 120 (leBytes 8 go)) with pending := true, seq := q } ∧
      (∀ i, i < 2 → (u.ctx is.ctx).reg l (g + i) = BitVec.ofNat 32 ((handleOf col line q false).toNat / 2 ^ (32 * i))) ∧
      ∀ k, k < 64 → is.path.getLsbD k = true →
        (((u.ctx is.ctx).lane k).hdr, ((u.ctx is.ctx).lane k).idx) = nextPc is.h is.hdr is.idx ∧ ((u.ctx is.ctx).lane k).wait = .none

/-! ### Queues and boxes (11) -/

/-- Queue words (11 R260-R265, R272): qinit makes a free or idle queue Ready, qallow sets a port's allowance, qpush.rsv takes the next
reservation and gives its handle, qpush.pub publishes the slot its handle names once its release is performed, qpop is bound to the
next reservation and marks its destination empty, qpeek gives the counts, xarm arms a free box; each on a queue of its launch. The source
lane takes the queue-misuse trap before any effect where the queue is not its launch's, where an allowance would exceed the slots, where
no slot is reserved, where a pop of the gang is pending, or where the box is not free; xpush takes the bounds trap where its role binds
no core. -/
def Obligations.QueueWords : Prop :=
  (∀ t q, Does (.qinit t q) (fun is s =>
      let base := is.src s false t.a is.first
      let shape := is.src s false t.b is.first
      let x := s.queue is.c.core q
      base % 128 = 0 ∧ shape = bitsOf shape 8 0 + 2 ^ 16 * bitsOf shape 25 16 ∧ 1 ≤ bitsOf shape 8 0 ∧ bitsOf shape 8 0 ≤ 256 ∧
      1 ≤ bitsOf shape 25 16 ∧ bitsOf shape 25 16 ≤ 512 ∧
      (∃ a n, s.arena is.c.handle is.c.core = some (a, n) ∧ base + bitsOf shape 8 0 * bitsOf shape 25 16 * 128 ≤ n) ∧
      (x.owner = none ∨ (x.owner = some is.c.handle ∧ x.slots = [] ∧ x.pend = []))) fun is s =>
    s.putQueue is.c.core q { Queue.free with
      owner := some is.c.handle, base := is.src s false t.a is.first, count := bitsOf (is.src s false t.b is.first) 8 0,
      size := bitsOf (is.src s false t.b is.first) 25 16 }) ∧
  (∀ t q port, Does (.qallow t q port) (fun is s => s.hasQueue is q ∧
      let x := s.queue is.c.core q
      is.src s false t.a is.first + (x.allow.sum - x.allowance port) + x.occupied ≤ x.count) fun is s =>
    s.putQueue is.c.core q ((s.queue is.c.core q).setAllow port (is.src s false t.a is.first))) ∧
  (∀ t q port, Does (.qpushRsv t q port) (fun is s => s.hasQueue is q ∧ (s.queue is.c.core q).allowance port ≠ 0) fun is s =>
    let x := (s.queue is.c.core q).reserve port (is.src s false t.a is.first % 256)
    (s.putQueue is.c.core q x.1).gives is 8 t.d 1 fun _ => x.1.handle x.2) ∧
  (∀ t q port, Waits (.qpushRsv t q port) fun is s => s.hasQueue is q ∧ (s.queue is.c.core q).allowance port = 0) ∧
  (∀ t q y, Does (.qpushPub t q) (fun is s => s.hasQueue is q ∧ s.released is.ctx is.act .core = true ∧
      (s.queue is.c.core q).slots.find? (fun z => decide ((s.queue is.c.core q).offset z.num % 2 ^ 21 / 128 * 128 =
        is.src s false t.a is.first % 2 ^ 21 / 128 * 128) && !z.published) = some y) fun is s =>
    s.putQueue is.c.core q ((s.queue is.c.core q).putSlot { y with published := true })) ∧
  (∀ t q g, t.d = .g g → Does (.qpop t q) (fun is s => s.hasQueue is q ∧
      (∀ p ∈ (s.queue is.c.core q).pend, p.gid ≠ is.c.gid.toNat) ∧
      (s.queue is.c.core q).pend.length < (s.queue is.c.core q).count) fun is s =>
    let x := s.queue is.c.core q
    let slots := x.slots.map fun y =>
      if y.holder = some is.c.gid.toNat ∧ y.releasing = none then { y with releasing := some s.opId } else y
    (s.putQueue is.c.core q { x with
      slots := slots, pops := x.pops + 1, pend := x.pend ++ [⟨is.c.gid.toNat, x.pops, is.act, g⟩] }).emptied is g) ∧
  (∀ t q, Does (.qpeek t q) (fun is s => s.hasQueue is q) fun is s => s.gives is 8 t.d 1 fun _ => (s.queue is.c.core q).peek) ∧
  (∀ t box g, t.d = .g g → Does (.xarm t box) (fun is s => s.box is.c.core box = none ∧ s.hasBox is.c.gid.toNat = false) fun is s =>
    (s.putBox is.c.core box (some ⟨is.c.gid.toNat, is.c.handle, g, is.act⟩)).emptied is g) ∧
  (∀ t box core, DoesBut (.xpush t box) (fun is s => s.roleCore (s.who is.ctx) (is.src s false t.a is.first % 16) = some core)
    (fun is s => { s.block is is.path fun _ => .push is.path with
      en := { s.en with pushes := s.en.pushes ++ [⟨core, box, is.c.gid.toNat, is.sub, is.act, is.path,
        (lanesOf is.act).map fun l => (l, BitVec.ofNat 32 (dstData t.d 1 is l)), is.c.handle⟩] } }) fun is _ => is.path) ∧
  (∀ t q port, FirstTraps (.qallow t q port) (fun is s => ¬ s.hasQueue is q) 0x09 255) ∧
  (∀ t q port, FirstTraps (.qpushRsv t q port) (fun is s => ¬ s.hasQueue is q) 0x09 255) ∧
  (∀ t q, FirstTraps (.qpushPub t q) (fun is s => ¬ s.hasQueue is q) 0x09 255) ∧
  (∀ t q, FirstTraps (.qpop t q) (fun is s => ¬ s.hasQueue is q) 0x09 255) ∧
  (∀ t q, FirstTraps (.qpeek t q) (fun is s => ¬ s.hasQueue is q) 0x09 255) ∧
  (∀ t q port, FirstTraps (.qallow t q port) (fun is s => s.hasQueue is q ∧
    let x := s.queue is.c.core q
    x.count < is.src s false t.a is.first + (x.allow.sum - x.allowance port) + x.occupied) 0x09 255) ∧
  (∀ t q, FirstTraps (.qpushPub t q) (fun is s => s.hasQueue is q ∧ ∀ z ∈ (s.queue is.c.core q).slots, z.published = true) 0x09 255) ∧
  (∀ t q, FirstTraps (.qpop t q) (fun is s => s.hasQueue is q ∧ ∃ p ∈ (s.queue is.c.core q).pend, p.gid = is.c.gid.toNat) 0x09 255) ∧
  (∀ t box, FirstTraps (.xarm t box) (fun is s => s.box is.c.core box ≠ none ∨ s.hasBox is.c.gid.toNat = true) 0x09 255) ∧
  (∀ t box, FirstTraps (.xpush t box) (fun is s => s.roleCore (s.who is.ctx) (is.src s false t.a is.first % 16) = none) 0x04 255)

/-! ### Engines, matrix arrays and collectives (11, 12, 16) -/

/-- ae.go, ae.halt, cp.go and cp.fill on the source lane (11 R266-R268): ae.go, on a core whose engine is idle, reads its descriptors and
starts the streams that are on; ae.halt ends them; a copy command whose records pass its checks enters its column's queue, with its clasp
where it has one; a full queue, and a running program, make the word wait. A block's bytes are read at their home, piece by piece, as the
agent's cache sees them, where every piece has an address that no link and no slot holds (09 R226; 16 R351; 18 R394). -/
def Obligations.EngineWords : Prop :=
  (∀ (is : Issue) (s v : State) (va n step : Nat) (fs : List Found),
    (List.range (n / step)).foldl (fun (r : State × List Found) i =>
      let x := r.1.checkVirt (r.1.who is.ctx) 0 (va + step * i : Nat) .read
      (x.1, r.2 ++ [x.2])) (s, []) = (v, fs) → (∀ f ∈ fs, ∃ pa tgt, f = .ok pa tgt) →
    (∀ pa ∈ foundPlaces fs, v.stopped pa = false ∧ v.lineHeld (v.cacheOf is.ctx) .nc pa step = false) →
    ∃ z bs, s.readBlock is va n step = some (z, .zero, bs) ∧
      (v.OneOwner → bs = ((foundPlaces fs).map fun pa => leBytes step (v.viewNat (v.cacheOf is.ctx) pa step)).flatten ∧
        ∀ a, z.homeByte a = v.homeByte a)) ∧
  (∀ q n s r v bs, (Instr.aeGo q n).row = some r → (Instr.aeGo q n).wf = true → MayIssue s r → s.guardMask r ≠ 0 →
    let is := s.issued r
    let va := is.src s true q.a is.first
    let ds := (List.range (n + 1)).map fun i => (bs.drop (64 * i)).take 64
    s.aeRun is.c.core = none → s.quiesced is.c.handle = false → va % 64 = 0 →
    s.readBlock is va (64 * (n + 1)) 64 = some (v, .zero, bs) →
    (∀ d ∈ ds, Rec256.valid (is.rec_ (descSrc d)) = true ∧ Rec256.wo (is.rec_ (descSrc d)) = false ∧ v.descBreach is d = false) →
    v.stuck = none →
    ∃ t, exec (.aeGo q n) s = .next t ∧ Passes (v.putAe is.c.core (some ⟨is.c.core, is.cmdId v is.first, is.tolerant,
      (ds.mapIdx fun i d => (⟨i, d, is.rec_ (descSrc d), descSrc d, 0⟩ : Stream)).filter fun t => descOn t.desc⟩)) t is 0) ∧
  (∀ q n, Waits (.aeGo q n) fun is s => s.aeRun is.c.core ≠ none) ∧
  (∀ q, Does (.aeHalt q) always fun is s => s.haltAe is.c.core) ∧
  (∀ q dd ss, Does (.cpGoNoc q dd ss) (fun is s => s.cpFull is = false ∧
      copyChecks is.ctx.isCC (some (ss, is.rec_ ss)) dd (is.rec_ dd) none = none ∧ Rec256.wo (is.rec_ ss) = false ∧ Rec256.ro (is.rec_ dd) = false)
    fun is s => s.queueCopy ⟨s.opId, s.colOf is.ctx, is.cmdId s is.first, some (is.rec_ ss), is.rec_ dd, ss, dd, 0, none,
      is.tolerant, [], false⟩) ∧
  (∀ q dd, Does (.cpFillNoc q dd) (fun is s => s.cpFull is = false ∧ copyChecks is.ctx.isCC none dd (is.rec_ dd) none = none ∧
      Rec256.ro (is.rec_ dd) = false)
    fun is s => s.queueCopy ⟨s.opId, s.colOf is.ctx, is.cmdId s is.first, none, is.rec_ dd, 255, dd, dstData q.d 4 is is.first, none,
      is.tolerant, [], false⟩) ∧
  (∀ q dd ss cl ref, DoesAfter (.cpGo q dd ss cl) (fun is s v => s.cpFull is = false ∧
      copyChecks is.ctx.isCC (some (ss, is.rec_ ss)) dd (is.rec_ dd) (some (cl, is.rec_ cl)) = none ∧
      s.claspFound is cl (sext 32 (is.src s false q.a is.first)) (sext 32 (is.src s false q.b is.first)) v ref ∧
      Rec256.wo (is.rec_ ss) = false ∧ Rec256.ro (is.rec_ dd) = false)
    fun is _ v => v.queueCopy ⟨v.opId, v.colOf is.ctx, is.cmdId v is.first, some (is.rec_ ss), is.rec_ dd, ss, dd, 0, some ref,
      is.tolerant, [], false⟩) ∧
  (∀ q dd cl ref, DoesAfter (.cpFill q dd cl) (fun is s v => s.cpFull is = false ∧
      copyChecks is.ctx.isCC none dd (is.rec_ dd) (some (cl, is.rec_ cl)) = none ∧
      s.claspFound is cl (sext 32 (is.src s false q.a is.first)) (sext 32 (is.src s false q.b is.first)) v ref ∧
      Rec256.ro (is.rec_ dd) = false)
    fun is _ v => v.queueCopy ⟨v.opId, v.colOf is.ctx, is.cmdId v is.first, none, is.rec_ dd, 255, dd, dstData q.d 4 is is.first,
      some ref, is.tolerant, [], false⟩) ∧
  ∀ i, (∃ q dd ss cl, i = .cpGo q dd ss cl ∨ i = .cpGoNoc q dd ss ∨ i = .cpFill q dd cl ∨ i = .cpFillNoc q dd) →
    Waits i fun is s => 64 ≤ (s.en.cp.filter fun c => c.col = s.colOf is.ctx).length ∨ s.quiesced is.c.handle = true

/-- The matrix words on the source lane (12 R274, R281, R282, R290-R293): mshape enters the queue with its shape; mwld, its records
valid, of its format's element size, in spaces 1 to 3 and readable, takes the next stage in turn; mmac with its block's checks passed
enters with its accumulator's values, or chained behind one at the same registers, and marks them empty on every lane; mstat writes its
word, with a wait only once the gang's commands are done. A full queue makes them wait. -/
def Obligations.MatrixWords : Prop :=
  let ops (wn sn : Nat) (fmt : MFmt) (is : Issue) (s : State) : Prop :=
    Rec256.valid (is.rec_ wn) = true ∧ s.operandBad (s.who is.ctx) (is.rec_ wn) fmt.es [1, 2, 3] = false ∧
    Rec256.wo (is.rec_ wn) = false ∧
    (fmt = .bx4 → Rec256.valid (is.rec_ sn) = true ∧ s.operandBad (s.who is.ctx) (is.rec_ sn) 0 [1, 2, 3] = false ∧
      Rec256.wo (is.rec_ sn) = false)
  let load (v : State) (is : Issue) (wn sn : Nat) (fmt : MFmt) (kn : Nat) (ref : Option ClaspRef) : State :=
    let n := SMap.get 0 v.mx.loads is.c.core + 1
    ({ v with mx := { v.mx with loads := SMap.set 0 v.mx.loads is.c.core n } } : State).queueMatrix is is.first wn (n % 2)
      (.load fmt (kn + 1) (is.rec_ wn) (is.rec_ sn)) ref
  let busy (is : Issue) (s : State) : Bool := s.mx.cmds.any fun m => decide (m.by_.ctx = is.ctx) && (match m.kind with
    | .load _ _ _ _ => true
    | .mac _ _ _ => true
    | _ => false)
  (∀ q, Does (.mshape q) (fun is s => s.mxFull is = false) fun is s =>
    s.queueMatrix is is.first 255 0 (.shape (is.src s false q.a is.first)) none) ∧
  (∀ q w sl fmt kn, Does (.mwldNoc q w sl fmt kn) (fun is s => s.mxFull is = false ∧ ops w sl fmt is s) fun is s =>
    load s is w sl fmt kn none) ∧
  (∀ q w sl cl fmt kn ref, DoesAfter (.mwld q w sl cl fmt kn) (fun is s v => s.mxFull is = false ∧ ops w sl fmt is s ∧
      Rec256.valid (is.rec_ cl) = true ∧
      s.claspFound is cl (sext 32 (is.src s false q.a is.first)) (sext 32 (is.src s false q.b is.first)) v ref)
    fun is _ v => load v is w sl fmt kn (some ref)) ∧
  (∀ q s r v base size pa tgt ref, (Instr.mmac q).row = some r → (Instr.mmac q).wf = true → MayIssue s r → s.guardMask r ≠ 0 →
    let is := s.issued r
    let off := is.src s false q.a is.first
    s.mxFull is = false → s.arena is.c.handle is.c.core = some (base, size) → off % 64 = 0 → off + 64 ≤ size →
    let b := s.bytesAt (scratch is.c.core (base + off)) 64
    s.macChecks is b = (v, .ok pa tgt, ref) →
    let m := descNat b 2 1
    let acc := descNat b 4 1
    let zero := decide (descNat b 5 1 % 2 = 1)
    let st := v.accState is acc m zero
    st ≠ .blocked → v.stuck = none →
    let a : MacArgs := ⟨m, descNat b 3 1, acc, zero, (MFmt.ofCode (descNat b 1 1)).getD .bf16, sext 32 (descNat b 8 4),
      sext 32 (descNat b 12 4), is.rec_ (descNat b 0 1 % 16), is.rec_ (descNat b 0 1 / 16), descNat b 7 1, descNat b 24 4⟩
    ∃ t, exec (.mmac q) s = .next t ∧ Passes ((v.queueMatrix is is.first (descNat b 0 1 % 16) 0
      (.mac a (if st = .chained then [] else is.c.accInit acc m zero) (decide (st = .chained))) ref).modCtx is.ctx
        fun c => c.emptyAcc acc m) t is 0) ∧
  (∀ q wt clr, Does (.mstat q wt clr) (fun is s => wt = false ∨ busy is s = false) fun is s =>
    ((if clr then { s with mx := { s.mx with flags := SMap.set 0 s.mx.flags is.c.core 0 } } else s : State)).gives is 8 q.d 1
      fun _ => s.mstatWord is.c.core) ∧
  (∀ q clr, Waits (.mstat q true clr) fun is s => busy is s = true) ∧
  ∀ i, (∃ q w sl cl fmt kn, i = .mshape q ∨ i = .mmac q ∨ i = .mwld q w sl cl fmt kn ∨ i = .mwldNoc q w sl fmt kn) →
    Waits i fun is s => 16 ≤ (s.mcmds is.c.core).length ∨ s.quiesced is.c.handle = true

/-- coll.grp and coll.go on the source lane (16 R359, R360; 14 R445): a group with no collective in flight takes the members its
descriptor lists, the own module among them at its rank; a collective whose block, clasp and records pass starts; fewer than eight may be
in flight, and the word waits until then. -/
def Obligations.CollectiveWords : Prop :=
  (∀ q n s r v w d tb, (Instr.collGrp q n).row = some r → (Instr.collGrp q n).wf = true → MayIssue s r → s.guardMask r ≠ 0 →
    let is := s.issued r
    let va := is.src s true q.a is.first
    (∀ c ∈ s.fa.colls, c.args.group ≠ n) → va % 64 = 0 → s.readBlock is va 64 64 = some (v, .zero, d) → groupOk d = true →
    let k := descNat d 0 2
    v.readBlock is (descNat d 8 8) (2 * k) 2 = some (w, .zero, tb) →
    let ms := (List.range k).map fun i => descNat tb (2 * i) 2
    (∀ m ∈ ms, m < 1024) → ms[descNat d 2 2]? = some w.modId → w.stuck = none →
    ∃ t, exec (.collGrp q n) s = .next t ∧
      Passes { w with fa := { w.fa with groups := SMap.set Group.none w.fa.groups n ⟨descNat d 2 2, ms, []⟩ } } t is 0) ∧
  (∀ q n, Waits (.collGrp q n) fun _ s => ∃ c ∈ s.fa.colls, c.args.group = n) ∧
  (∀ q s r v d a, (Instr.collGo q).row = some r → (Instr.collGo q).wf = true → MayIssue s r → s.guardMask r ≠ 0 →
    let is := s.issued r
    let va := is.src s true q.a is.first
    s.fa.colls.length < 8 → s.quiesced is.c.handle = false → va % 64 = 0 → s.readBlock is va 64 64 = some (v, .zero, d) →
    descNat d 5 1 % 2 = 1 → collBadRec is d = none → v.collArgs is d = some a → v.stuck = none →
    ∃ t, exec (.collGo q) s = .next t ∧ Passes { v with
      opId := v.opId + 1,
      fa := { v.fa with colls := v.fa.colls ++ [⟨v.opId, is.cmdId v is.first, a, none, is.tolerant, 0, 0, v.ns,
        (v.group a.group).down, [], none, [], [], none⟩] } }
      t is 0) ∧
  (∀ q s r v w d a pa tgt ref, (Instr.collGo q).row = some r → (Instr.collGo q).wf = true → MayIssue s r → s.guardMask r ≠ 0 →
    let is := s.issued r
    let va := is.src s true q.a is.first
    let rc := is.rec_ (descNat d 1 1 / 16)
    s.fa.colls.length < 8 → s.quiesced is.c.handle = false → va % 64 = 0 → s.readBlock is va 64 64 = some (v, .zero, d) →
    descNat d 5 1 % 2 ≠ 1 → collBadRec is d = none → Rec256.valid rc = true → Rec256.space rc = 0 →
    v.commandClasp (v.who is.ctx) (descNat d 1 1 / 16) rc (sext 32 (descNat d 12 4)) (sext 32 (descNat d 16 4)) = (w, .ok pa tgt, ref) →
    w.collArgs is d = some a → w.stuck = none →
    ∃ t, exec (.collGo q) s = .next t ∧ Passes { w with
      opId := w.opId + 1,
      fa := { w.fa with
        colls := w.fa.colls ++ [⟨w.opId, is.cmdId w is.first, a, some ref, is.tolerant, 0, 0, w.ns,
          (w.group a.group).down, [], none, [], [], none⟩] } } t is 0) ∧
  (∀ q, Waits (.collGo q) fun _ s => 8 ≤ s.fa.colls.length)

/-! ### System words (19, 20) -/

/-- TLB words and cache operations (19 R403, R411; 06 R45): an invalidation is sent to every TLB of the module, for an address within the
address space, for what is not global, or for all; tlbsync waits until the thread's have arrived; iinv drops one line from every
instruction cache, iall all, l1wb writes the column's dirty words home and l1inv drops the lines as well; a user takes the
privileged-operation trap for the last three. -/
def Obligations.TlbAndCacheWords : Prop :=
  (∀ t, Does (.tlbinvPage t) (fun is s => is.src s true t.a is.first < 2 ^ 56) fun is s =>
    s.sendInv is.ctx 0 (is.src s true t.a is.first)) ∧
  (∀ t, Does (.tlbinvPage t) (fun is s => 2 ^ 56 ≤ is.src s true t.a is.first) fun _ s => s) ∧
  (∀ t, Does (.tlbinvNonglobal t) always fun is s => s.sendInv is.ctx 1 0) ∧
  (∀ t, Does (.tlbinvAll t) always fun is s => s.sendInv is.ctx 2 0) ∧
  (∀ t, Does (.tlbsync t) (fun is s => s.invsDone is.ctx = true) fun is s =>
    ({ s with ms := { s.ms with invs := s.ms.invs.filter fun v => v.by_ ≠ is.ctx } } : State).endPages fun _ => true) ∧
  (∀ t, Waits (.tlbsync t) fun is s => s.invsDone is.ctx = false) ∧
  (∀ q, Does (.clopIinv q) always fun is s => { s with ms := { s.ms with
    icache := s.ms.icache.filter fun p => p.1 % 2 ^ 49 ≠ is.src s true q.a is.first / 128 } }) ∧
  (∀ q, Does (.clopIall q) (fun is s => s.isSup is.ctx = true) fun _ s => { s with ms := { s.ms with icache := [] } }) ∧
  (∀ q, Does (.clopL1wb q) (fun is s => s.isSup is.ctx = true) fun is s => s.cleanL1s (s.colOf is.ctx) false) ∧
  (∀ q, Does (.clopL1inv q) (fun is s => s.isSup is.ctx = true) fun is s => s.cleanL1s (s.colOf is.ctx) true) ∧
  (∀ i q, (i = .clopIall q ∨ i = .clopL1wb q ∨ i = .clopL1inv q) → DoesBut i (fun is s => s.isSup is.ctx = false)
    (fun is s => s.takeTrap is.ctx is.act ⟨0x0B, 0, 255, 0, false, false⟩ is.h is.hdr is.idx) fun is _ => is.act)

/-- Event-queue words, the settling of traps, and stopping (19 R405-R410): evq.pop of a queue the column owns gives the entry at HEAD and
moves it, once no calendar slot holds the read, zeros where the queue is empty, and traps for any other queue; evq.post posts a thread
record once its release is performed and the drains it waits for are over, and a user's that may not post is a privileged operation of
every active lane;
trapret settles a parked sub-gang and gives its status; halt stops the core; wfi waits while the core's own queue is empty. -/
def Obligations.EventAndTrapWords : Prop :=
  let own (t : TWord) (is : Issue) (s : State) : Prop :=
    let q := is.src s false t.a is.first
    q < 256 ∧ field (s.sysGet SysReg.evqctl q) 59 54 = s.colOf is.ctx ∧ s.evqOn q = true
  let may (t : TWord) (is : Issue) (s : State) : Prop :=
    let q := is.src s false t.a is.first
    q < 256 ∧ (s.isSup is.ctx = true ∨ (s.sysGet SysReg.evqctl q).getLsbD 61 = true) ∧ s.evqOn q = true
  let settled (t : TWord) (act : Nat) (is : Issue) (s : State) : State :=
    let x := s.trapret (is.src s false t.a is.first) (is.src s false t.b is.first) act
    x.1.putAll is t.d 1 x.2
  (∀ t, Does (.evqPop t) (fun is s => own t is s ∧ s.evqUsed (is.src s false t.a is.first) = 0) fun is s => s.putAll is t.d 8 0) ∧
  (∀ t, Does (.evqPop t) (fun is s => own t is s ∧ s.evqUsed (is.src s false t.a is.first) ≠ 0 ∧
      okRange (s.evqEntry (is.src s false t.a is.first) (s.evqHead (is.src s false t.a is.first))) 32 = true ∧
      s.lineHeld (s.cacheOf is.ctx) .nc (s.evqEntry (is.src s false t.a is.first) (s.evqHead (is.src s false t.a is.first))) 32 = false)
      fun is s =>
    let q := is.src s false t.a is.first
    let a := s.evqEntry q (s.evqHead q)
    let s1 := ((s.readHome a 32).acquire is.ctx .module).putAll is t.d 8 (s.hwNat a 32)
    let ctl := s1.sysGet SysReg.evqctl q
    (s1.sysPut SysReg.evqctl q (setField ctl 15 0 ((field ctl 15 0 + 1) % 65536))).movedHead q) ∧
  (∀ t, Waits (.evqPop t) fun is s => own t is s ∧ s.evqUsed (is.src s false t.a is.first) ≠ 0 ∧
    okRange (s.evqEntry (is.src s false t.a is.first) (s.evqHead (is.src s false t.a is.first))) 32 = true ∧
    s.lineHeld (s.cacheOf is.ctx) .nc (s.evqEntry (is.src s false t.a is.first) (s.evqHead (is.src s false t.a is.first))) 32 = true) ∧
  (∀ t, FirstTraps (.evqPop t) (fun is s => ¬ own t is s) 0x09 255) ∧
  (∀ t g, t.d = .g g → Does (.evqPost t) (fun is s => may t is s ∧ s.released is.ctx (1#64 <<< is.first) .module = true) fun is s =>
    s.postEvent (is.src s false t.a is.first) (s.colOf is.ctx) 0x88 0 0 (is.c.lane is.first).tid.toNat
      (BitVec.ofNat 64 (is.c.pair is.first g)) (BitVec.ofNat 64 (is.c.pair is.first (g + 2)))) ∧
  (∀ t, FirstTraps (.evqPost t) (fun is s => 256 ≤ is.src s false t.a is.first) 0x09 255) ∧
  (∀ t, DoesBut (.evqPost t) (fun is s => is.src s false t.a is.first < 256 ∧ s.isSup is.ctx = false ∧
    (s.sysGet SysReg.evqctl (is.src s false t.a is.first)).getLsbD 61 = false) (fun is s => s.allTrap is 0x0B 255) fun is _ => is.act) ∧
  (∀ t, Waits (.evqPost t) fun is s => may t is s ∧ s.released is.ctx (1#64 <<< is.first) .module = false ∧
    ∀ d ∈ s.owedAt is.ctx (1#64 <<< is.first) .module, d.draining = true) ∧
  (∀ t, DoesBut (.evqPost t) (fun is s => may t is s ∧ s.released is.ctx (1#64 <<< is.first) .module = false ∧
      ∃ d ∈ s.owedAt is.ctx (1#64 <<< is.first) .module, d.draining = false)
    (fun is s => s.startOwed (s.owedAt is.ctx (1#64 <<< is.first) .module)) fun is _ => is.path) ∧
  (∀ t, FirstTraps (.evqPost t) (fun is s =>
    let q := is.src s false t.a is.first
    q < 256 ∧ (s.isSup is.ctx = true ∨ (s.sysGet SysReg.evqctl q).getLsbD 61 = true) ∧ s.evqOn q = false) 0x09 255) ∧
  (∀ t, Does (.trapretResume t) always (settled t 0)) ∧
  (∀ t, Does (.trapretSkip t) always (settled t 1)) ∧
  (∀ t, Does (.trapretEnd t) always (settled t 2)) ∧
  (∀ t, Does (.halt t) always fun is s => s.modCtx is.ctx fun c => { c with run := .halted }) ∧
  (∀ t, Does (.wfi t) (fun is s => s.evqUsed (s.colOf is.ctx) = 0) fun is s => s.modCtx is.ctx fun c => { c with run := .wfi }) ∧
  (∀ t, Does (.wfi t) (fun is s => s.evqUsed (s.colOf is.ctx) ≠ 0) fun _ s => s)

/-- sysrd and syswr (19 R400, R402; 01 R30; 03 R78): a read gives the register's value as its level and agent see it, one word or two,
once no floating flags are on their way where the flags are read; a write by the source lane's value does what the register's map says;
clearing SUP goes on at user level at the saved PC; a register that the level does not name for the direction traps as privileged. -/
def Obligations.SystemRegisterWords : Prop :=
  (∀ q reg b32, Does (.sysrd q reg b32) (fun is s => (s.isSup is.ctx = true ∨ userReads reg = true) ∧
      (reg = SysReg.fpflags → is.c.floating = false)) fun is s =>
    (s.readReg is.ctx reg).1.gives is 8 q.d (if b32 then 1 else 2) fun _ => (s.readReg is.ctx reg).2.toNat) ∧
  (∀ q b32, Waits (.sysrd q SysReg.fpflags b32) fun is _ => is.c.floating = true) ∧
  (∀ q reg b32, DoesBut (.sysrd q reg b32) (fun is s => s.isSup is.ctx = false ∧ userReads reg = false)
    (fun is s => s.takeTrap is.ctx is.act ⟨0x0B, 0, 255, 0, false, false⟩ is.h is.hdr is.idx) fun is _ => is.act) ∧
  (∀ q reg b32, DoesBut (.syswr q reg b32) (fun is s => s.isSup is.ctx = false ∧ userWrites reg = false)
    (fun is s => s.takeTrap is.ctx is.act ⟨0x0B, 0, 255, 0, false, false⟩ is.h is.hdr is.idx) fun is _ => is.act) ∧
  (∀ q b32, Does (.syswr q SysReg.ashape b32) always fun _ s => s) ∧
  (∀ q b32, Does (.syswr q SysReg.fpflags b32) always fun is s =>
    s.modCtx is.ctx fun c => { c with fp := c.fp &&& ~~~((BitVec.ofNat 64 (is.src s (!b32) q.a is.first)).setWidth 6) }) ∧
  (∀ q b32 n, DoesBut (.syswr q SysReg.cstat b32) (fun is s => is.ctx = .cc n ∧ s.isSup is.ctx = true ∧
      is.src s (!b32) q.a is.first % 2 = 0) (fun _ s => s.toUser n) fun is _ => is.path) ∧
  (∀ q reg b32, reg ≠ SysReg.ashape → reg ≠ SysReg.fpflags → reg ≠ SysReg.drent0 → Does (.syswr q reg b32) (fun is s =>
      s.isSup is.ctx = true ∧ (reg = SysReg.cstat → is.src s (!b32) q.a is.first % 2 = 1)) fun is s =>
    s.writeReg reg (s.colOf is.ctx) (BitVec.ofNat 64 (is.src s (!b32) q.a is.first))) ∧
  (∀ q, Does (.syswr q SysReg.drent0 false) (fun is s => s.isSup is.ctx = true ∧ 2 ^ 63 ≤ is.src s true q.a is.first) fun is s =>
    s.commitDrift (BitVec.ofNat 64 (is.src s true q.a is.first))) ∧
  (∀ q b32, Does (.syswr q SysReg.drent0 b32) (fun is s => s.isSup is.ctx = true ∧ is.src s (!b32) q.a is.first < 2 ^ 63 ∧
      (s.driftEntry s.driftIdx).valid = false) fun _ s => s) ∧
  (∀ q b32, DoesBut (.syswr q SysReg.drent0 b32) (fun is s => s.isSup is.ctx = true ∧ is.src s (!b32) q.a is.first < 2 ^ 63 ∧
      (s.driftEntry s.driftIdx).valid = true) (fun is s => (s.block is is.path fun _ => .retire s.driftIdx).retireDrift)
    fun is _ => is.path)

/-- A plain register written at supervisor level reads back with its writable bits, a column's own in that column and a module's in every
column; no other register and no other instance changes, nor anything else of the machine, so that every other register reads as before,
but for the error logs that sys.errsel selects (19 R399, R400, R402, R412; 05 R125; 09 R209, R228; 16 R347, R361; 20 R418). -/
def Obligations.RegistersReadBack : Prop :=
  let plain (reg : Nat) (mask : Word64) (mine : Bool) : Prop := ∀ (s : State) (col : Nat) (v : Word64), col < 64 →
    let t := s.writeReg reg col v
    (∀ c, c < 64 → (mine = true → c = col) → t.readSys reg c 0 = v &&& mask) ∧
    (∀ r i, i < 2 ^ 20 → (r ≠ reg ∨ i ≠ if mine then col else 0) → t.sysGet r i = s.sysGet r i) ∧ { t with sys := s.sys } = s ∧
    (∀ r c free, c < 64 → (r ≠ reg ∨ (mine = true ∧ c ≠ col)) →
      (reg = SysReg.errsel → r ≠ SysReg.errlog0 ∧ r ≠ SysReg.errlog1) → t.readSys r c free = s.readSys r c free)
  plain SysReg.cstat 1 true ∧ plain SysReg.svec 0x00FFFFFFFFFFFFF0 true ∧ plain SysReg.uepc 0x00FFFFFFFFFFFFF0 true ∧
  plain SysReg.uepw 0x3FF true ∧ plain SysReg.lease 0xFFFF true ∧ plain SysReg.bintmo 0xFFFF true ∧
  plain SysReg.lattol 0xFFFFFFFF true ∧ plain SysReg.quiet 0xFFFF false ∧ plain SysReg.ptroot 0x0000FFFFFFFFE000 false ∧
  plain SysReg.pod 0x03FFFFFFFFFFF800 false ∧ plain SysReg.pbtab 0x0000FFFFFFFFFF80 false ∧ plain SysReg.errsel 0xFFF false

/-- Error injection, power requests and Cameo's services (19 R413, R414; 20 R419, R424-R426, R430): errinj arms one injection in the
selected column's array with the source lane's location, or disarms it; pm.req and sec.call answer every active lane with what the
request gives for the source lane's argument; pm.req.enter.m2 keeps its core at the word until the answer comes. What Cameo answers, and
when it refuses, is the model's where R426 to R430 give no value (log 28). -/
def Obligations.ErrorPowerAndSecurityWords : Prop :=
  let armed (arr mode bt : Nat) (q : QWord) (is : Issue) (s : State) : State :=
    let col := field (s.sysGet SysReg.errsel 0) 11 6
    let core := if perCoreArr arr then is.src s false q.b is.first % 4 else 0
    { s with ev := { s.ev with inject :=
      (s.ev.inject.filter fun i => !decide (i.arr = arr ∧ i.col = col ∧ i.core = core ∧ i.stage = 0)) ++
        if mode = 0 then [] else [⟨arr, col, core, is.src s true q.a is.first, mode, bt, 0, 0⟩] } }
  let power (i : QWord → Instr) (f : State → Nat → Nat → State × Nat) : Prop := ∀ q, Does (i q) always fun is s =>
    let x := f s (s.colOf is.ctx) (is.src s false q.a is.first)
    x.1.putAll is q.d 1 x.2
  let secure (i : QWord → Instr) (f : State → Nat → State × Nat) : Prop := ∀ q, Does (i q) always fun is s =>
    let x := f s (is.src s true q.a is.first)
    x.1.putAll is q.d 2 x.2
  (∀ q arr bt, Does (.errinjFlip1 q arr bt) always (armed arr 1 bt q)) ∧
  (∀ q arr bt, Does (.errinjFlip2 q arr bt) always (armed arr 2 bt q)) ∧
  (∀ q arr bt, Does (.errinjDisarm q arr bt) always (armed arr 0 bt q)) ∧
  power .pmReqQuiesce (fun s by_ v => s.quiesceColumn by_ (bitsOf v 5 0) (v.testBit 8)) ∧
  power .pmReqRelease (fun s _ v => s.releaseColumn (bitsOf v 5 0)) ∧
  power .pmReqSetDemand (fun s _ v => ({ s with pw := { s.pw with demand := clampDemand (bitsOf v 15 0) } }, 0)) ∧
  (∀ q, DoesBut (.pmReqEnterM2 q) always (fun is s => { s.block is is.path fun _ => .op s.opId is.path with
    opId := s.opId + 1,
    pw := { s.pw with m2by := s.pw.m2by ++ [(s.colOf is.ctx, dstReg? q.d)] } }) fun is _ => is.path) ∧
  secure .secCallSecurityState State.securityState ∧ secure .secCallAttest State.attest ∧
  secure .secCallDeriveKey State.deriveKey ∧ secure .secCallEraseKeys State.eraseKeys ∧
  secure .secCallAuthDebug State.authDebug ∧ secure .secCallDebugChallenge State.debugChallenge ∧
  secure .secCallLockDebug State.lockDebugCall ∧
  (∀ q svc, Does (.secCallOther q svc) always fun is s => s.putAll is q.d 2 (2 ^ 64 - 1))

/-! ### Events: what each does where its condition holds -/

/-- Operations, results, code lines, caches, homes, pages and packets (02 R62, R65; 06 R141; 09 R219, R220, R224, R226, R227, R230-R232;
10 R236; 13 R306, R308; 19 R403): each event does what its rule says where its condition holds. What an operation does when it is
carried on is stated by `StoresReachMemory`, `LoadsReadMemory` and `AtomicsActAtTheirPoint`. That a view of time which a skew would turn
back stays where it is (log 1), and when a packet is due (log 7), are the model's. -/
def Obligations.MemoryEvents : Prop :=
  (∀ id o, Happens (.longLatencyComplete id) (fun s => s.op? id = some o) fun s => s.complete o) ∧
  (∀ id o, Happens (.leaseHoldEnd id) (fun s => s.op? id = some o ∧ ∀ a ∈ o.good, s.leaseHolds o a = false) fun s => s.complete o) ∧
  (∀ id o, Happens (.impreciseStoreFault id) (fun s => s.op? id = some o ∧ s.failDue o = true) fun s => s.reportFails o) ∧
  (∀ id o, Happens (.impreciseStoreFault id) (fun s => s.op? id = some o ∧ s.failDue o = false) fun s => s) ∧
  (∀ c, Happens (.fixedLatencyWriteback c) (fun _ => True) fun s => s.modCtx c fun x => x.writeBack (s.clk c)) ∧
  (∀ c va, Happens (.instructionFetchFill c va) (fun s => s.fetchHeld c va.toNat = false ∧ s.ms.prefetch.contains (c, va) = false)
    fun s => s.fillLine c va.toNat) ∧
  (∀ c va, Happens (.instructionFetchFill c va) (fun s => s.fetchHeld c va.toNat = false ∧ s.ms.prefetch.contains (c, va) = true)
    fun s => s.prefetchLine c va) ∧
  (∀ c va, Happens (.instructionFetchFill c va) (fun s => s.fetchHeld c va.toNat = true) fun s => s.noteFetch c va.toNat) ∧
  (∀ line, Happens (.ownerRecall line) (fun _ => True) fun s => s.recall none line false) ∧
  (∀ cache line, Happens (.upgrade cache line) (fun s => s.wantsLine cache line = true ∧ s.leaseLive (line * 128) = false ∧
      isWeight (line * 128) = false ∧ cacheable (line * 128) = true ∧ s.lineHeld cache .own (line * 128) 128 = false) fun s =>
    s.takeOwner (s.upgradeClass cache line) cache line) ∧
  (∀ base size, Happens (.regionMerge base size) (fun s =>
      let a := s.region base
      let b := s.region (base + size)
      let quiet := 1000 * max 1 (field (s.sysGet SysReg.quiet 0) 15 0)
      a.base = base ∧ a.size = size ∧ a.mergesWith b s.ns = true ∧ a.conflict + quiet ≤ s.ns ∧ b.conflict + quiet ≤ s.ns) fun s =>
    let a := s.region base
    let b := s.region (base + size)
    let r : Region := { a with
      size := 2 * size, sharers := a.sharers ||| b.sharers, owner := a.owner <|> b.owner, conflict := max a.conflict b.conflict }
    let m := if r.owner.isSome then { r with leases := [] } else b.leases.foldl (fun r l => r.addLease l.1 l.2) r
    { s with ms := { s.ms with regions := (s.ms.regions.filter fun q => !decide (q = a ∨ q = b)) ++ [m] } }) ∧
  (∀ cache (skew : Int), Happens (.timeSkew cache skew) (fun s => cache < 320 ∧ s.grantBand cache < skew.natAbs) fun s =>
    let held (l : L1Line) : Bool := decide (l.cache = cache) && (match l.kind with
      | .lease _ _ => true
      | _ => false)
    ({ s with
      skew := SMap.set 0 s.skew cache skew
      seen := SMap.set 0 s.seen cache (s.gtime cache).toNat
      ms := { s.ms with
        skewed := SMap.set false s.ms.skewed cache true
        l1 := s.ms.l1.filter fun l => !held l
        regions := s.ms.regions.map fun r => { r with leases := r.leases.filter fun l => l.1 ≠ cache } } } : State).machineEvent
          (cache / 5) (cache / 5) 0 0x03 0 0) ∧
  (∀ cache (skew : Int), Happens (.timeSkewRecovered ⟨cache, skew⟩) (fun s => skew.natAbs ≤ 4 ∧
      ((s.setSkew cache skew).gtime cache).toNat ≤ s.ns + 4) fun s => { s with
    skew := SMap.set 0 s.skew cache skew, seen := SMap.set 0 s.seen cache (s.gtime cache).toNat
    ms := { s.ms with skewed := SMap.set false s.ms.skewed cache false } }) ∧
  (∀ cache (skew : Int), Happens (.timeSkewRecovered ⟨cache, skew⟩) (fun s => skew.natAbs ≤ 4 ∧
      s.ns + 4 < ((s.setSkew cache skew).gtime cache).toNat) fun s => { s with
    skew := SMap.set 0 s.skew cache skew, seen := SMap.set 0 s.seen cache (s.gtime cache).toNat }) ∧
  (∀ loop pkt, Happens (.goldenRotate loop pkt) (fun s => (SMap.get none s.ms.golden loop).any (fun g => decide (s.ns < g.2 + 1600)) = false)
    fun s => ({ s with ms := { s.ms with golden := SMap.set none s.ms.golden loop (some (pkt, s.ns)) } } : State).arriveNow pkt) ∧
  (∀ pkt, Happens (.bangleDeliver pkt) (fun _ => True) fun s =>
    { s with ms := { s.ms with ops := s.ms.ops.map fun o => if o.id = pkt ∧ s.now < o.due then { o with due := s.now } else o } }) ∧
  (∀ cache upto, Happens (.forcedPublish cache upto) (fun _ => True) fun s => s.publish cache upto) ∧
  (∀ cache upto, Happens (.forcedPublishAck cache upto) (fun _ => True) fun s => ({ s with ms := { s.ms with
    marks := s.ms.marks.filter fun k => s.markOpen k || !decide (k.cache = cache ∧ k.upto ≤ upto) } } : State).resumeLaunches) ∧
  (∀ id f, Happens (.writeForwardApply id) (fun s => (s.ms.fwd.find? fun f => f.id = id) = some f ∧ s.fwdBehind f = false) fun s =>
    (s.forward f).dropMarks) ∧
  (∀ col, Happens (.migrationEpoch col) (fun s => col < 64 ∧ (s.sysGet SysReg.migctl 0).getLsbD 63 = true ∧
      SMap.get 0 s.ms.epochs col + 1000 * max 1 (field (s.sysGet SysReg.migctl 0) 23 0) ≤ s.ns) fun s => s.endEpoch col) ∧
  (∀ pa m, Happens (.migrationDone pa) (fun s => (s.ms.moves.find? fun m => decide (m.old = pa / 2 ^ 16 * 2 ^ 16)) = some m ∧
      s.frameHeld m.old = false ∧ s.frameHeld m.new = false ∧ s.rangeLeased m.old (2 ^ 16) = false ∧ s.leased m.leafPa 8 = false ∧
      okRange m.new (2 ^ 16) = true) fun s => s.finishMove m) ∧
  (∀ pa m, Happens (.migrationDone pa) (fun s => (s.ms.moves.find? fun m => decide (m.old = pa / 2 ^ 16 * 2 ^ 16)) = some m ∧
      (s.frameHeld m.old = true ∨ s.frameHeld m.new = true ∨ s.rangeLeased m.old (2 ^ 16) = true ∨ s.leased m.leafPa 8 = true))
    fun s => s) ∧
  (∀ tlb which v, Happens (.tlbInvalidationArrive tlb which) (fun s =>
      (s.ms.invs.find? fun v => decide (v.id = which) && v.tlbs.contains tlb) = some v) fun s =>
    { s with ms := { s.ms with
      tlb := s.ms.tlb.filter fun t => decide (t.tlb ≠ tlb) || !v.names t
      invs := s.ms.invs.map fun x => if x.id = which then { v with tlbs := v.tlbs.erase tlb, upto := s.opId } else x } })

/-- Paths, bins, gangs, spilled threads and teams (05 R124-R126, R129, R131, R137, R138; 06 R148, R153, R154; 17 R371, R375, R376): each
event does what its rule says where its condition holds. That no lease of a frame's range is live when it is sealed (log 22), that a
spill entry which no longer translates stays (log 36), and which free slot and block a gang takes (log 39), are the model's. -/
def Obligations.GangEvents : Prop :=
  (∀ gid r d, Happens (.reconvergenceTimeout gid) (fun s => s.rcvDue gid = some r ∧ r.due = some d ∧ d ≤ s.clk (.gang gid)) fun s =>
    (s.modCtx (.gang gid) fun x => x.popRcv fun q => decide (q = r)).settle (.gang gid)) ∧
  (∀ gid t, Happens (.starvation gid) (fun s => (s.ctx (.gang gid)).readySince = some t ∧
      t + 4096 ≤ s.clk (.gang gid) + if s.seat (.gang gid) < s.turn then 1 else 0)
    fun s => s.modCtx (.gang gid) fun x => { x with starved := true }) ∧
  (∀ core, Happens (.urgencyWindowEnd core) (fun s => s.gangsOn core = []) fun s => s.beginWindow core [] 0) ∧
  (∀ core, Happens (.urgencyWindowEnd core) (fun s => s.gangsOn core ≠ [] ∧ SMap.get 0 s.la.windows core = 0) fun s =>
    s.beginWindow core [] (s.coreClk core + 1)) ∧
  (∀ core, Happens (.urgencyWindowEnd core) (fun s => s.gangsOn core ≠ [] ∧ SMap.get 0 s.la.windows core ≠ 0 ∧
      SMap.get 0 s.la.windows core + 1024 ≤ s.coreClk core + 1) fun s => s.endWindow core) ∧
  (∀ core bin b, Happens (.binTimeout core bin) (fun s =>
      (s.la.bins.find? fun b => decide (b.core = core ∧ b.num = bin) && !b.closed) = some b ∧
      b.since + b.tmo ≤ s.coreClk core) fun s => s.closeBin b) ∧
  (∀ core part b l u, Happens (.gangForm core b.num part) (fun s => s.binNext core = some b ∧ part < 8 ∧
      s.launch? b.handle = some l ∧ s.formGang b l part = some u) fun _ => u) ∧
  (∀ h entry l e hdr x col c core u, Happens (.spillReturn h entry) (fun s => s.launch? h = some l ∧
      (s.la.spills.find? fun e => decide (e.handle = h ∧ e.entry = entry)) = some e ∧ l.switched = false ∧ l.quiescing = 0 ∧
      s.spillWaits l e.col e.entry .write = false ∧ s.readSpill l e = some (hdr, x, col) ∧ s.presentColumn col = some c ∧ s.chooseCore c h hdr = some core ∧
      s.toBin core h hdr x = some u) fun _ =>
    let v := ({ u with la := { u.la with spills := u.la.spills.filter fun q => q ≠ e } } : State).markPlaced h c
    match (v.spillAddr l e.col (2 * e.entry + 1) .write).2 with
    | some pb => v.homeWrite (pb + 4) (leBytes 4 0)
    | none => v) ∧
  (∀ gid, Happens (.gangFree gid) (fun s => (s.ctx (.gang gid)).live = true ∧ (s.ctx (.gang gid)).living = 0 ∧
      s.landing (.gang gid) = false ∧ s.unperformed (.gang gid) = false) fun s => (s.dropSaved gid).setCtx (.gang gid) Ctx.none) ∧
  (∀ gid, Happens (.gangFree gid) (fun s => (s.ctx (.gang gid)).live = true ∧ (s.ctx (.gang gid)).living = 0 ∧
      s.landing (.gang gid) = false ∧ s.unperformed (.gang gid) = true ∧
      (s.la.tombs.filter fun t => t.gid / 2 ^ 26 = gid / 2 ^ 26).length < 64) fun s =>
    (({ s with la := { s.la with tombs := s.la.tombs ++ [⟨gid, (s.ctx (.gang gid)).handle⟩] } } : State).dropSaved gid).setCtx
      (.gang gid) Ctx.none) ∧
  (∀ gid, Happens (.tombFree gid) (fun s => s.unperformed (.gang gid) = false) fun s =>
    { s with la := { s.la with tombs := s.la.tombs.filter fun t => t.gid ≠ gid } }) ∧
  (∀ core, Happens (.teamReserveRefill core) (fun s => s.teamFreeOf (core / 4) ≠ []) fun s =>
    { s with la := { s.la with used := SMap.set 0 s.la.used core 0 } }) ∧
  (∀ gid q rest, Happens (.regxGrant gid) (fun s => (s.ctx (.gang gid)).regx = q :: rest ∧
      (q.code = (s.ctx (.gang gid)).regCode)) fun s => s.answerRegx (.gang gid) q q.code) ∧
  (∀ gid q rest, Happens (.regxGrant gid) (fun s => (s.ctx (.gang gid)).regx = q :: rest ∧ q.code < (s.ctx (.gang gid)).regCode ∧
      s.pendingAbove (.gang gid) (blockRegs q.code) = false) fun s =>
    (s.answerRegx (.gang gid) q (s.ctx (.gang gid)).regCode).modCtx (.gang gid) fun x => x.resize q.code x.regBase) ∧
  (∀ gid q rest u base, Happens (.regxGrant gid) (fun s => (s.ctx (.gang gid)).regx = q :: rest ∧
      (s.ctx (.gang gid)).regCode < q.code ∧ s.grantBlock (s.ctx (.gang gid)).core (s.ctx (.gang gid)).part (blockRegs q.code)
        (some (64 + gid)) = some (u, base)) fun s =>
    (u.modCtx (.gang gid) fun x => x.resize q.code base).answerRegx (.gang gid) q (s.ctx (.gang gid)).regCode) ∧
  (∀ gid q rest, Happens (.regxGrant gid) (fun s => (s.ctx (.gang gid)).regx = q :: rest ∧
      (s.ctx (.gang gid)).regCode < q.code ∧ s.grantBlock (s.ctx (.gang gid)).core (s.ctx (.gang gid)).part (blockRegs q.code)
        (some (64 + gid)) = none) fun s => (s.saveLongFault (s.ctx (.gang gid)).core (some gid)).getD s) ∧
  (∀ core part gid, Happens (.regxEvict core part) (fun s => s.regxStuck core part = some gid ∧ s.freeFrames (core / 4) ≠ [])
    fun s => s.startSave gid 8 0) ∧
  (∀ core part gid q rest, Happens (.regxEvict core part) (fun s => s.regxStuck core part = some gid ∧
      s.freeFrames (core / 4) = [] ∧ (s.ctx (.gang gid)).regx = q :: rest) fun s => s.answerRegx (.gang gid) q 0xFFFFFFFF) ∧
  (∀ gid g, Happens (.gangSave gid) (fun s => s.saved? gid = some g ∧ (s.ctx (.gang gid)).live = true ∧
      (s.ctx (.gang gid)).saving = true ∧ s.sealable (.gang gid) = true ∧ s.rangeLeased (s.frameOf g) (2 ^ 17) = false)
    fun s => s.sealGang g) ∧
  (∀ col frame part g u, Happens (.gangRestore col frame part) (fun s =>
      (s.la.saved.find? fun g => decide (g.col = col ∧ g.frame = frame)) = some g ∧ s.restoreNext (gidCore g.gid) = some g ∧
      part < 8 ∧ s.restoreOn g part = some u) fun _ => u) ∧
  (∀ c, Happens (.longFaultResume c) (fun _ => True) fun s => s.modCtx c fun x => x.modLanes (SMap.keys x.lanes) fun _ y =>
    match y.wait with
    | .page _ true => { y with wait := .none }
    | _ => y)

/-- Launch lines, launches, their switches and watchdogs (05 R113-R122; 17 R379-R383; 19 R416): each event does what its rule says where
its condition holds. The order of the causes of a rejection (log 31) and what sys.lprio reads after a refused write (log 36) are the
model's. -/
def Obligations.LaunchEvents : Prop :=
  (∀ col line off bytes, Happens (.launchLineWrite col line off bytes) (fun s => s.pw.mstate ≠ 2 ∧ col < 64 ∧ line < 16 ∧ off + bytes.length ≤ 120 ∧
      off < 120 ∧ (s.launchLine col line).pending = false) fun s => s.putLaunchLine col line ((s.launchLine col line).put off bytes)) ∧
  (∀ col line off bytes, Happens (.launchLineWrite col line off bytes) (fun s => s.pw.mstate ≠ 2 ∧ col < 64 ∧ line < 16 ∧ off + bytes.length ≤ 120 ∧
      off < 120 ∧ (s.launchLine col line).pending = true) fun s => s.putLaunchLine col line { s.launchLine col line with
        held := (s.launchLine col line).held ++ [(off, bytes)] }) ∧
  (∀ col line go, Happens (.launchGoWrite col line go) (fun s => s.pw.mstate ≠ 2 ∧ col < 64 ∧ line < 16 ∧ (s.launchLine col line).pending = false)
    fun s => (s.goWrite col line go).1) ∧
  (∀ col line go, Happens (.launchGoWrite col line go) (fun s => s.pw.mstate ≠ 2 ∧ col < 64 ∧ line < 16 ∧ (s.launchLine col line).pending = true)
    fun s => s.putLaunchLine col line { s.launchLine col line with
      held := (s.launchLine col line).held ++ [(120, leBytes 8 go.toNat)] }) ∧
  (∀ col line u spill, Happens (.launchTake col line) (fun s =>
      let x := s.launchLine col line
      x.pending = true ∧ s.la.launches.length < 512 ∧ s.pw.entering = 0 ∧ s.pw.mstate ≠ 2 ∧ s.recordWaits col x.record = false ∧
      s.rejectCause col x.record (handleOf col line x.seq false) = (u, none, spill)) fun s =>
    let x := s.launchLine col line
    let h := handleOf col line x.seq false
    let v := u.lineIdle col line h
    ({ v with la := { v.la with launches := v.la.launches ++ [Launch.start h x.record spill] } } : State).resumeLaunches) ∧
  (∀ col line u cause spill, Happens (.launchTake col line) (fun s =>
      let x := s.launchLine col line
      x.pending = true ∧ s.la.launches.length < 512 ∧ s.pw.entering = 0 ∧ s.pw.mstate ≠ 2 ∧ s.recordWaits col x.record = false ∧
      s.rejectCause col x.record (handleOf col line x.seq false) = (u, some cause, spill)) fun s =>
    let x := s.launchLine col line
    let hr := handleOf col line x.seq true
    ((u.lineIdle col line hr).postCompletion (recNat x.record 28 2) col 1 cause hr
      (BitVec.ofNat 64 (recNat x.record 88 8))).resumeLaunches) ∧
  (∀ h l u pas v xs, Happens (.predecessorSatisfied h) (fun s => s.launch? h = some l ∧ l.stage = .waiting ∧ l.ending = false ∧
      l.switched = false ∧ s.wsHeld l = false ∧ s.predHolds l = true ∧ s.pw.entering = 0 ∧ s.pw.mstate ≠ 2 ∧
      s.unitWaits l.col (argAddrs (l.recNat 32 8)) .read = false ∧
      s.argPlaces l.col (l.recNat 32 8) = (u, some pas) ∧ (pas.any u.stopped && u.stopLate (unitOp h)) = false ∧
      u.unitRead h true 8 pas = (v, some xs)) fun _ =>
    v.modLaunch h fun l => { l with
      args := if pas.isEmpty then List.replicate 16 0 else xs.map (BitVec.ofNat 64), stage := .distributing, wdog := some v.now }) ∧
  (∀ h l u, Happens (.predecessorSatisfied h) (fun s => s.launch? h = some l ∧ l.stage = .waiting ∧ l.ending = false ∧
      l.switched = false ∧ s.wsHeld l = false ∧ s.predHolds l = true ∧ s.pw.entering = 0 ∧ s.pw.mstate ≠ 2 ∧
      s.unitWaits l.col (argAddrs (l.recNat 32 8)) .read = false ∧
      s.argPlaces l.col (l.recNat 32 8) = (u, none)) fun _ => u.rejectLate l 2) ∧
  (∀ h l u pas, Happens (.predecessorSatisfied h) (fun s => s.launch? h = some l ∧ l.stage = .waiting ∧ l.ending = false ∧
      l.switched = false ∧ s.wsHeld l = false ∧ s.predHolds l = true ∧ s.pw.entering = 0 ∧ s.pw.mstate ≠ 2 ∧
      s.unitWaits l.col (argAddrs (l.recNat 32 8)) .read = false ∧
      s.argPlaces l.col (l.recNat 32 8) = (u, some pas) ∧ (pas.any u.stopped && u.stopLate (unitOp h)) = true) fun _ =>
    (u.stopEnds (unitOp h)).rejectLate l 2) ∧
  (∀ h l col core x u, Happens (.rootDistribute h) (fun s => s.launch? h = some l ∧ s.rootPlace l = some (col, core) ∧
      s.rootNext l.col = some l ∧ x = (⟨BitVec.ofNat 32 l.nextRoot, BitVec.ofNat 32 (l.nextRoot % l.ext.1),
        BitVec.ofNat 32 (l.nextRoot / l.ext.1 % l.ext.2.1), false, none⟩ : Seed) ∧
      (s.affinity l l.nextRoot).1.toBin core h l.entry x = some u) fun _ =>
    let last := decide (l.nextRoot + 1 = l.total)
    let v := (u.markPlaced h col).modLaunch h fun l =>
      { l with nextRoot := l.nextRoot + 1, stage := if last then .distributed else l.stage }
    if last then (v.flushBins h).noteTriggers else v) ∧
  (∀ h l, Happens (.rootDistribute h) (fun s => s.launch? h = some l ∧ s.rootPlace l = none ∧ s.rootless l = true) fun s =>
    s.rejectLate l 4) ∧
  (∀ h l, Happens (.rootDistribute h) (fun s => s.launch? h = some l ∧ s.rootPlace l = none ∧ s.rootless l = false ∧
      s.rootReads l = true) fun s => (s.affinity l l.nextRoot).1) ∧
  (∀ h l, Happens (.launchRetire h) (fun s => s.launch? h = some l ∧ s.retirable l = true) fun s => s.retire l) ∧
  (∀ (s : State) l, ∃ u : State, s.retire l = u.postCompletion l.evq l.col l.status l.cause l.handle l.tag ∧
    { u with la := s.la, en := s.en, cl := s.cl } = s ∧ (∀ k, u.launch? k = if k = l.handle then none else s.launch? k) ∧
    (∀ a, a ∈ u.la.arenas ↔ a ∈ s.la.arenas ∧ a.handle ≠ l.handle) ∧ (∀ a, a ∈ u.la.teams ↔ a ∈ s.la.teams ∧ a.handle ≠ l.handle) ∧
    (∀ q, q ∈ u.en.queues ↔ q ∈ s.en.queues ∧ q.2.owner ≠ some l.handle) ∧
    (∀ f, f ∈ u.la.frames ↔ f ∈ s.la.frames ∧ ∀ k c i b, f.use = .arena k c i b → k ≠ l.handle)) ∧
  (∀ v, Happens (.lprioWrite v) (fun _ => True) fun s => s.lprioWrite v) ∧
  (∀ (s : State) v, s.launch? (namedHandle v) = none → s.lprioWrite v =
    s.sysPut SysReg.lprio 0 (s.sysGet SysReg.lprio 0 ||| 0x80000000)) ∧
  (∀ (s : State) v l, s.launch? (namedHandle v) = some l →
    let t := s.lprioWrite v
    t.launch? l.handle = some { l with prio := field v 12 10 } ∧ (∀ k, k ≠ l.handle → t.launch? k = s.launch? k) ∧
    t.sysGet SysReg.lprio 0 = maskWrite (s.sysGet SysReg.lprio 0) v 0xFFFFFFFF00001FFF 0x80000000 ∧
    { t with sys := s.sys, la := { t.la with launches := s.la.launches } } = s) ∧
  (∀ col v, Happens (.lswitchOut col v) (fun _ => col < 64 ∧ field v 29 28 = 1) fun s => s.lswitchWrite col v) ∧
  (∀ col v, Happens (.lswitchIn col v) (fun _ => col < 64 ∧ field v 29 28 = 2) fun s => s.lswitchWrite col v) ∧
  (∀ col v, Happens (.lswitchEnd col v) (fun _ => col < 64 ∧ field v 29 28 = 3) fun s => s.lswitchWrite col v) ∧
  (∀ (s : State) col v, s.lswitchRefused v = true → s.lswitchWrite col v =
    s.sysPut SysReg.lswitch 0 (s.sysGet SysReg.lswitch 0 ||| 0x80000000)) ∧
  (∀ (s : State) col v l, s.lswitchRefused v = false → s.launch? (namedHandle v) = some l → field v 29 28 ≠ 0 →
    let t := s.lswitchWrite col v
    t.sysGet SysReg.lswitch 0 = maskWrite (s.sysGet SysReg.lswitch 0) v 0xFFFFFFFF300003FF 0x80000000 ∧
    t.la.switch = some ⟨field v 29 28, l.handle, col⟩ ∧
    (field v 29 28 = 1 → l.quiescing = 0 → t.launch? l.handle = some { l with quiescing := 1 } ∧
      ∀ b ∈ t.la.bins, b.handle = l.handle → b.closed = true) ∧
    (field v 29 28 = 2 → t.launch? l.handle = some l ∧ t.la.ins = s.la.ins ++ [l.handle]) ∧
    (field v 29 28 = 3 → l.ending = false →
      t.launch? l.handle = some { l with ending := true, status := 2, cause := 0, quiescing := 1 })) ∧
  (∀ h, Happens (.quiesceMarkerReturn h) (fun _ => True) fun s => s.switchStep h) ∧
  (∀ (s : State) h, s.launch? h = none → s.switchStep h = s) ∧
  (∀ (s : State) h l, s.launch? h = some l → l.quiescing = 1 → (s.popMarkers h).markersOut h = true → s.switchStep h = s.popMarkers h) ∧
  (∀ (s : State) h l, s.launch? h = some l → (l.quiescing = 2 ∨ (l.quiescing = 1 ∧ (s.popMarkers h).markersOut h = false)) →
    l.ending = true → ∀ t, t = s.switchStep h → ∀ g, (s.ctx (.gang g)).handle = h → (s.ctx (.gang g)).live = true →
      (s.ctx (.gang g)).saving = false → (t.ctx (.gang g)).living = 0 ∧ ∀ b ∈ t.la.bins, b.handle ≠ h) ∧
  (∀ (s : State) h l, s.launch? h = some l → l.quiescing = 2 → l.ending = false → s.residents h = [] → s.arenasBusy h = false →
    (∀ a ∈ s.la.arenas, a.handle ≠ h) → (s.switchStep h).launch? h = some { l with switched := true, quiescing := 0, wdog := none }) ∧
  (∀ (s : State) h l, s.launch? h = some l → l.quiescing = 0 → s.la.ins.contains h = false → s.switchStep h = s) ∧
  (∀ o, Happens .lswitchDonePost (fun s => s.la.switch = some o ∧ s.switchDone o = true) fun s =>
    ({ s with la := { s.la with switch := none } } : State).postEvent o.col o.col 0x87 o.op 0 0 o.handle 0) ∧
  (∀ h l, Happens (.watchdogExpire h) (fun s => s.launch? h = some l ∧ s.wdogDue l = true ∧ l.hung = true) fun s =>
    let u := (s.postWatchdog l l.col 0).modLaunch h fun l => { l with wdog := some (s.postWatchdog l l.col 0).now }
    ((u.unsavedCols h).foldl (fun s c => s.domainReset h c) u).startEnd h 4 0) ∧
  (∀ h l, Happens (.watchdogExpire h) (fun s => s.launch? h = some l ∧ s.wdogDue l = true ∧ l.hung = false ∧ (l.quiescing ≠ 0 ∨
      ((s.postWatchdog l l.col 0).modLaunch h fun l => { l with wdog := some (s.postWatchdog l l.col 0).now }).framesEnough h = true))
    fun s =>
    let u := (s.postWatchdog l l.col 0).modLaunch h fun l => { l with wdog := some (s.postWatchdog l l.col 0).now }
    ((u.modLaunch h fun l => { l with hung := true }).markSaves h 2).startOut h) ∧
  (∀ h l, Happens (.watchdogExpire h) (fun s => s.launch? h = some l ∧ s.wdogDue l = true ∧ l.hung = false ∧ l.quiescing = 0 ∧
      ((s.postWatchdog l l.col 0).modLaunch h fun l => { l with wdog := some (s.postWatchdog l l.col 0).now }).framesEnough h = false)
    fun s => ((s.postWatchdog l l.col 0).modLaunch h fun l => { l with wdog := some (s.postWatchdog l l.col 0).now }).startEnd h 4 0)

/-- Access engines, queues, boxes, copies, matrix arrays and clasps (11 R255-R259, R264, R270, R272; 12 R274-R290; 14 R322-R325): each
event does what its rule says where its condition holds. Which cases an engine's access waits for beyond those the rules name is the
model's deduction (log 38). -/
def Obligations.EngineEvents : Prop :=
  let none_ (fs : List Found) : Prop := firstTrap fs = none
  (∀ core stream a t c z, Happens (.aeStreamBlock core stream) (fun s => s.aeRun core = some a ∧
      (a.streams.find? fun t => t.num = stream) = some t ∧ (s.queue core (descQueue t.desc)).allowance (descPort t.desc) ≠ 0 ∧
      s.checkBlock (streamOp core stream) (a.by_.who [core, 256 + core / 4]) t = c ∧ none_ c.2 ∧
      c.1.engineReady (streamOp core stream) a.st (.core (5 * (core / 4) + core % 4)) false
        (elemAccs t.rec_ (2 ^ Rec256.es t.rec_) false c.2) = (z, true)) fun _ =>
    let es := 2 ^ Rec256.es t.rec_
    let r := z.engineReads (streamOp core stream) (.core (5 * (core / 4) + core % 4)) (elemAccs t.rec_ es false c.2)
    let u := r.1.writeBytes (r.1.nextSlotAt a.by_ (descQueue t.desc)) (r.2.flatMap (leBytes es))
    ((u.publishBlock core (descQueue t.desc) t false).putAe core (some (a.advance t false))).engineDone (streamOp core stream)) ∧
  (∀ core stream a t c k line, Happens (.aeStreamBlock core stream) (fun s => s.aeRun core = some a ∧
      (a.streams.find? fun t => t.num = stream) = some t ∧ (s.queue core (descQueue t.desc)).allowance (descPort t.desc) ≠ 0 ∧
      s.checkBlock (streamOp core stream) (a.by_.who [core, 256 + core / 4]) t = c ∧ firstTrap c.2 = some (k, line)) fun s =>
    let q := s.queue core (descQueue t.desc)
    let u := c.1.freeFill (c.1.nextSlotAt a.by_ (descQueue t.desc)) (128 * q.size)
    (((u.publishBlock core (descQueue t.desc) t true).putAe core (some (a.advance t true))).orphanQueries
      (streamOp core stream)).engineFault a.by_ k 0 t.rslot line) ∧
  (∀ core q gid due, Happens (.queueSlotRelease core q gid) (fun s =>
      due = ((s.queue core q).slots.filter fun y => decide (y.holder = some gid) && s.slotDue y) ∧ due ≠ []) fun s =>
    s.putQueue core q (due.foldl Queue.release (s.queue core q))) ∧
  (∀ core q gid p y, Happens (.qpopDeliver core q gid) (fun s => ((s.queue core q).pend.find? fun p => p.gid = gid) = some p ∧
      ((s.queue core q).slots.find? fun y => decide (y.seq = p.seq) && y.published) = some y) fun s =>
    let x := s.queue core q
    (s.putQueue core q { x.putSlot { y with holder := some gid } with pend := x.pend.filter fun r => r.gid ≠ gid }).deliver gid
      ((lanesOf p.lanes).map fun l => (l, p.reg, BitVec.ofNat 32 (x.handle y)))) ∧
  (∀ id c, Happens (.cpCommandComplete id) (fun s => (s.en.cp.find? fun c => c.id = id) = some c ∧
      (s.cpRunning c.col).contains c = true ∧ s.copyFault c = none) fun s =>
    let r := s.runCopy c
    if r.2 then r.1.sendBytes c.by_ c.clasp (((s.copyPlan c).2.filter fun e => match e.dst with
      | .ok _ _ => true
      | _ => false).length * 2 ^ Rec256.es c.dst) else r.1) ∧
  (∀ id c k line slot, Happens (.cpCommandFault id) (fun s => (s.en.cp.find? fun c => c.id = id) = some c ∧
      (s.cpRunning c.col).contains c = true ∧ s.copyFault c = some (k, line, slot)) fun s =>
    let r := s.runCopy c
    if r.2 then r.1.engineFault c.by_ k 0 slot line else r.1) ∧
  (∀ core box b p, Happens (.xpushDeliver core box) (fun s => s.box core box = some b ∧ s.pushFor core box b = some p) fun s =>
    let val (l : Nat) : Word := ((p.data.find? fun d => d.1 = l).map Prod.snd).getD 0
    let u := ((s.putBox core box none).deliver b.gid ((lanesOf b.lanes).map fun l => (l, b.reg, val l))).acquire (.gang b.gid) .column
    let v : State := { u with en := { u.en with pushes := u.en.pushes.filter fun r => r ≠ p } }
    v.passWord (.gang p.gid) (maskOf fun l => p.path.getLsbD l && decide (((v.ctx (.gang p.gid)).lane l).wait = .push p.path))) ∧
  (∀ core box b, Happens (.pushBoxFree core box) (fun s => s.box core box = some b ∧
      (s.boxDead b = true ∨ s.launch? b.handle = none)) fun s => s.putBox core box none) ∧
  (∀ core c, Happens (.mwldStart core) (fun s => s.loadReady core = some c) fun s => s.startM c) ∧
  (∀ (s : State) c, s.mustDefer c = true → s.startM c = s.putM c.id (some { c with deferred := some (s.nextSlot (s.arrayTime c)) })) ∧
  (∀ (s : State) c, s.mustDefer c = false → s.stillDeferred c = true → s.startM c = s) ∧
  (∀ (s : State) c, s.mustDefer c = false → s.stillDeferred c = false →
    let t := s.startM c
    t.mx = { s.mx with cmds := s.mx.cmds.map fun m => if m.id = c.id then
      { c with running := true, emask := (s.shapeNow c.core).1, ediv := (s.shapeNow c.core).2 } else m } ∧
    { t with mx := s.mx, ev := s.ev, freeCtr := s.freeCtr } = s) ∧
  (∀ core c f g z as w, Happens (.mwldComplete core) (fun s => s.loadPlan core = some (c, f, g, z, as) ∧
      none_ (as.map EAcc.found) ∧ s.bandsOn core c.emask = true ∧ z.engineReady c.id c.st c.view false as = (w, true)) fun _ =>
    let r := w.engineReads c.id c.view as
    let u := (r.1.latch c (tileOf f g r.2.toArray)).engineDone c.id
    ((u.putM c.id none).sendBytes c.by_ c.clasp (operandBytes f g 128)).shedBands core) ∧
  (∀ core c f g z as k line, Happens (.mwldFault core) (fun s => s.loadPlan core = some (c, f, g, z, as) ∧
      firstTrap (as.map EAcc.found) = some (k, line)) fun s =>
    let u := (z.latch c { s.stage core c.stage with fmt := f, groups := g, poison := true }).orphanQueries c.id
    ((u.putM c.id none).shedBands core).engineFault c.by_ k 0 c.aslot line) ∧
  (∀ core c a i ch, Happens (.mmacStart core) (fun s => s.mhead core = some c ∧ c.kind = .mac a i ch ∧ c.running = false ∧
      (a.mcast = 0 ∨ s.castStarted c a = true)) fun s => s.startM { c with mates := [] }) ∧
  (∀ core c a i ch, Happens (.mmacStart core) (fun s => s.mhead core = some c ∧ c.kind = .mac a i ch ∧ c.running = false ∧
      a.mcast ≠ 0 ∧ s.castStarted c a = false ∧ s.castReady c a = true) fun s => s.startCast c a) ∧
  (∀ core c a i ch, Happens (.mmacStart core) (fun s => s.mhead core = some c ∧ c.kind = .mac a i ch ∧ c.running = false ∧
      a.mcast ≠ 0 ∧ s.castStarted c a = false ∧ s.castReady c a = false ∧ c.headSince = none) fun s =>
    s.putM c.id (some { c with headSince := some (s.coreClk core) })) ∧
  (∀ core c t, Happens (.multicastTimeout core) (fun s => s.mhead core = some c ∧ c.headSince = some t ∧ c.running = false ∧
      t + 512 ≤ s.coreClk core) fun s => s.startM { c with mates := [] }) ∧
  (∀ core c a i ch, Happens (.mmacPass core) (fun s => s.mhead core = some c ∧ c.kind = .mac a i ch ∧ c.running = true ∧
      c.pass < a.groups ∧ s.bandsOn core (s.shapeNow core).1 = true) fun s =>
    s.putM c.id (some { c with
      emask := (s.shapeNow core).1, ediv := (s.shapeNow core).2
      pass := c.pass + ((List.range 4).filter fun i => (s.shapeNow core).1.testBit i).length })) ∧
  (∀ core c a init ch z, Happens (.mmacComplete core) (fun s => s.mhead core = some c ∧ c.kind = .mac a init ch ∧ c.running = true ∧
      (s.headStage core).poison = false ∧ a.groups ≤ c.pass ∧ c.given = none ∧ none_ (s.macPlan c a).2.2 ∧
      (s.macPlan c a).1.engineReady c.id c.st c.view false
        (operandAccs a.data a.scale (s.macPlan c a).2.1 (s.macPlan c a).2.2) = (z, true)) fun s =>
    let r := z.engineReads c.id c.view (operandAccs a.data a.scale (s.macPlan c a).2.1 (s.macPlan c a).2.2)
    (((r.1.engineDone c.id).shareReads c r.2).macEnd c a init (s.headStage core) r.2).shedBands core) ∧
  (∀ core c a init ch vals, Happens (.mmacComplete core) (fun s => s.mhead core = some c ∧ c.kind = .mac a init ch ∧ c.running = true ∧
      (s.headStage core).poison = false ∧ a.groups ≤ c.pass ∧ c.given = some vals) fun s =>
    (s.macEnd c a init (s.headStage core) vals).shedBands core) ∧
  (∀ core c a init ch, Happens (.mmacComplete core) (fun s => s.mhead core = some c ∧ c.kind = .mac a init ch ∧ c.running = true ∧
      (s.headStage core).poison = true) fun s => ((s.macLand c a (macNan a)).putM c.id none).shedBands core) ∧
  (∀ core c a init ch k line, Happens (.mmacFault core) (fun s => s.mhead core = some c ∧ c.kind = .mac a init ch ∧ c.running = true ∧
      (s.headStage core).poison = false ∧ c.given = none ∧ firstTrap (s.macPlan c a).2.2 = some (k, line)) fun s =>
    ((((s.macPlan c a).1.macLand c a (macNan a)).orphanQueries c.id).putM c.id none |>.shedBands core).engineFault c.by_ k 0
      c.aslot line) ∧
  (∀ core c w, Happens (.mshapeComplete core) (fun s => s.mhead core = some c ∧ c.kind = .shape w) fun s =>
    ((s.putM c.id none).sysPut SysReg.ashape core (setField (setField (s.sysGet SysReg.ashape core) 3 0
      (if w % 16 = 0 then 1 else w % 16)) 5 4 (w / 16 % 4))).shedBands core) ∧
  (∀ core band, Happens (.bandPowerOn core band) (fun s => band < 4 ∧ s.bandWanted core band = true) fun s =>
    s.putBands core (s.bandsOff core ^^^ 2 ^ band)) ∧
  (∀ id a h core off slot b n, Happens (.claspAddBytes id) (fun s => (s.cl.adds.find? fun a => a.id = id) = some a ∧
      a.ref = .scratch h core off slot ∧ s.arena h core = some (b, n)) fun s => s.addBytesAt a (scratch core (b + off))) ∧
  (∀ id a h core off slot home base, Happens (.claspAddBytes id) (fun s => (s.cl.adds.find? fun a => a.id = id) = some a ∧
      a.ref = .scratch h core off slot ∧ s.arena h core = none ∧ s.arenaHome h core = some (home, base) ∧ s.pendFull home = false) fun s =>
    (s.dropAdd id).enterPend ⟨h, core, off, .bytes, a.n, a.by_, slot, none⟩) ∧
  (∀ id a va slot u pa l, Happens (.claspAddBytes id) (fun s => (s.cl.adds.find? fun a => a.id = id) = some a ∧ a.ref = .virt va slot ∧
      s.translate [256 + a.by_.col] va .write (!a.by_.sup) = (u, .ok pa l) ∧ l.mig ≠ 2 ∧
      u.engineHeld true (.column a.by_.col) pa ⟨.ok pa l.tgt, 16, .nc, false⟩ = false ∧
      u.leaseLive pa = false ∧ l.tgt < 2 ∧ u.driftOf pa = none) fun _ => u.addBytesAt a pa) ∧
  (∀ id a va slot u pa l, Happens (.claspAddBytes id) (fun s => (s.cl.adds.find? fun a => a.id = id) = some a ∧ a.ref = .virt va slot ∧
      s.translate [256 + a.by_.col] va .write (!a.by_.sup) = (u, .ok pa l) ∧ l.mig ≠ 2 ∧
      u.engineHeld true (.column a.by_.col) pa ⟨.ok pa l.tgt, 16, .nc, false⟩ = false ∧
      u.leaseLive pa = true) fun _ => u.noteEngine id [pa]) ∧
  (∀ id a va slot u pa l, Happens (.claspAddBytes id) (fun s => (s.cl.adds.find? fun a => a.id = id) = some a ∧ a.ref = .virt va slot ∧
      s.translate [256 + a.by_.col] va .write (!a.by_.sup) = (u, .ok pa l) ∧ l.mig ≠ 2 ∧
      u.engineHeld true (.column a.by_.col) pa ⟨.ok pa l.tgt, 16, .nc, false⟩ = false ∧ u.leaseLive pa = false ∧
      (2 ≤ l.tgt ∨ u.driftOf pa ≠ none)) fun _ => (u.dropAdd id).engineFault a.by_ 0x0A 0 slot (BitVec.ofNat 64 (va / 128 * 128))) ∧
  (∀ (s : State) a pa c, (s.clasp pa).addBytes a.n = some c → s.addBytesAt a pa = (s.dropAdd a.id).putClasp pa c) ∧
  (∀ (s : State) a pa, (s.clasp pa).addBytes a.n = none →
    s.addBytesAt a pa = (s.dropAdd a.id).engineFault a.by_ 0x0A 0 a.ref.slot a.ref.line) ∧
  (∀ col key, Happens (.claspWakeArrive col key) (fun _ => True) fun s =>
    let ws := s.cl.waiters.filter fun w => decide (w.col = col ∧ w.pa = key) && s.wakeReady w
    let u : State := { s with cl := { s.cl with
      waiters := (s.cl.waiters.map fun w => if ws.contains w then { w with stage := 0 } else w).eraseDups } }
    (ws.foldl (fun s w => (SMap.keys (s.ctx w.ctx).lanes).foldl (fun s l =>
      match ((s.ctx w.ctx).lane l).wait with
      | .clasp pa p _ _ _ (some _) _ => if pa = w.pa ∧ p ≠ w.phase then s.endWait w.ctx l false w.phase else s
      | _ => s) s) u).dropWaiters) ∧
  (∀ c, Happens (.claspPoll c) (fun _ => True) fun s =>
    (((SMap.keys (s.ctx c).lanes).filter (s.pollDue c)).foldl (fun s l => s.pollLane c l) s).dropWaiters) ∧
  (∀ c, Happens (.claspTwaitTimeout c) (fun _ => True) fun s =>
    (((SMap.keys (s.ctx c).lanes).filter (s.timedOut c)).foldl (fun s l => match ((s.ctx c).lane l).wait with
      | .clasp _ p _ _ _ _ _ => s.endWait c l true p
      | _ => s) s).dropWaiters) ∧
  (∀ first rest, Happens .slewAdmit (fun s => s.slewPick = first :: rest) fun s => s.startExit first (first :: rest)) ∧
  (∀ (s : State) first go c, (s.startExit first go).cl.exits.contains c = (s.cl.exits.contains c && !go.contains c))

/-- Messages of drift regions, evicted drift lines and the table's registers (15 R328-R331, R333-R339): each event does what its rule
says where its condition holds; the message is taken, and its answer sent. The one acknowledgement of a drain that a power state forces
is the model's deduction (log 38). -/
def Obligations.DriftEvents : Prop :=
  (∀ id cache region, Happens (.shareRequest id) (fun s => s.message id = some (.shareRequest cache region) ∧
      (s.driftEntry region).valid = false) fun s => (s.took id).send (.shareGrant cache region 0 s.opId)) ∧
  (∀ id cache region, Happens (.shareRequest id) (fun s => s.message id = some (.shareRequest cache region) ∧
      (s.driftEntry region).valid = true) fun s =>
    let h := (s.took id).driftHome region
    ((s.took id).putHome { h with reqs := h.reqs ++ [(cache, none)] }).settleHome region) ∧
  (∀ id cache region share num t, Happens (.shareGrant id) (fun s => s.message id = some (.shareGrant cache region share num) ∧
      (s.took id).tracker? cache region = some t ∧ s.dr.voids.contains (cache, region, num) = false ∧ share ≠ 0) fun s =>
    ((s.took id).unvoid cache region num).putTracker { t with requested := false, share := share, grant := num }) ∧
  (∀ id cache region share num t, Happens (.shareGrant id) (fun s => s.message id = some (.shareGrant cache region share num) ∧
      (s.took id).tracker? cache region = some t ∧ s.dr.voids.contains (cache, region, num) = true) fun s =>
    ((s.took id).unvoid cache region num).putTracker { t with requested := false }) ∧
  (∀ id cache region share num, Happens (.shareGrant id) (fun s => s.message id = some (.shareGrant cache region share num) ∧
      (s.took id).tracker? cache region = none ∧ s.dr.voids.contains (cache, region, num) = false ∧ share ≠ 0) fun s =>
    ((s.took id).unvoid cache region num).send (.shareReturn cache region num)) ∧
  (∀ id cache region num why t, Happens (.forcedDrain id) (fun s => s.message id = some (.forcedDrain cache region num why) ∧
      (s.took id).tracker? cache region = some t ∧ t.share ≠ 0 ∧ t.grant = num ∧ t.draining = false) fun s =>
    (s.took id).beginDrain { t with forced := true }) ∧
  (∀ id cache region num why t, Happens (.forcedDrain id) (fun s => s.message id = some (.forcedDrain cache region num why) ∧
      (s.took id).tracker? cache region = some t ∧ t.share ≠ 0 ∧ t.grant = num ∧ t.draining = true) fun s =>
    (s.took id).putTracker { t with forced := true }) ∧
  (∀ id cache region num why, Happens (.forcedDrain id) (fun s => s.message id = some (.forcedDrain cache region num why) ∧
      (∀ t, (s.took id).tracker? cache region = some t → t.share = 0 ∨ t.grant ≠ num)) fun s =>
    ((s.took id).voided cache region num).send (.drainAck cache region num)) ∧
  (∀ id cache region pa x fmt op held, Happens (.deltaWrite id) (fun s =>
      s.message id = some (.deltaWrite cache region pa x fmt op held) ∧ s.deltaBehind id cache pa = false ∧
      (s.taken pa = false ∨ s.sliceHas pa 4 = true) ∧ s.leaseLive pa = false) fun s =>
    ((s.took id).applyDelta fmt pa x).send (.deltaAck cache region pa op)) ∧
  (∀ id cache region pa x fmt op, Happens (.deltaWrite id) (fun s =>
      s.message id = some (.deltaWrite cache region pa x fmt op false) ∧ s.deltaBehind id cache pa = false ∧
      (s.taken pa = false ∨ s.sliceHas pa 4 = true) ∧ s.leaseLive pa = true) fun s =>
    ({ s with dr := { s.dr with msgs := s.dr.msgs.map fun p =>
      if p.1 = id then (id, .deltaWrite cache region pa x fmt op true) else p } } : State).splitRegion pa) ∧
  (∀ id cache region pa x fmt op held, Happens (.deltaWrite id) (fun s =>
      s.message id = some (.deltaWrite cache region pa x fmt op held) ∧
      (s.deltaBehind id cache pa = true ∨ (s.taken pa = true ∧ s.sliceHas pa 4 = false) ∨ (s.leaseLive pa = true ∧ held = true)))
    fun s => s) ∧
  (∀ id cache region pa, Happens (.deltaAck id) (fun s => s.message id = some (.deltaAck cache region pa none) ∧
      (s.took id).tracker? cache region = none) fun s => s.took id) ∧
  (∀ id cache region pa t, Happens (.deltaAck id) (fun s => s.message id = some (.deltaAck cache region pa none) ∧
      (s.took id).tracker? cache region = some t) fun s => (s.took id).endDrain t) ∧
  (∀ id cache region pa i lane o, Happens (.deltaAck id) (fun s => s.message id = some (.deltaAck cache region pa (some (i, lane))) ∧
      (s.took id).tracker? cache region = none ∧ (s.took id).op? i = some o) fun s => (s.took id).endLanes o (1#64 <<< lane)) ∧
  (∀ id cache region pa i lane o t, Happens (.deltaAck id) (fun s => s.message id = some (.deltaAck cache region pa (some (i, lane))) ∧
      (s.took id).tracker? cache region = some t ∧ ((s.took id).endDrain t).op? i = some o) fun s =>
    ((s.took id).endDrain t).endLanes o (1#64 <<< lane)) ∧
  (∀ (s : State) t, (t.draining = false ∨ s.deltaOut t.cache (some t.region) = true) → s.endDrain t = s.putTracker t) ∧
  (∀ (s : State) t, t.draining = true → s.deltaOut t.cache (some t.region) = false →
    let u := s.endDrain t
    (t.ends = false → u.tracker? t.cache t.region =
      some { t with total := 0, draining := false, drains := t.drains + 1, forced := false, share := if t.forced then 0 else t.share }) ∧
    (t.ends = true → u.tracker? t.cache t.region = none) ∧
    u.dr.msgs = s.dr.msgs ++ (if t.forced then [(s.opId + 1, .drainAck t.cache t.region t.grant)]
      else if t.ends = true ∧ t.share ≠ 0 then [(s.opId + 1, .shareReturn t.cache t.region t.grant)] else [])) ∧
  (∀ id cache region num, Happens (.drainAck id) (fun s => s.message id = some (.drainAck cache region num)) fun s =>
    ((s.took id).takeBack region cache num).settleHome region) ∧
  (∀ id cache region num, Happens (.shareReturn id) (fun s => s.message id = some (.shareReturn cache region num)) fun s =>
    ((s.took id).takeBack region cache num).settleHome region) ∧
  (∀ id q x, Happens (.toleranceQuery id) (fun s => s.message id = some (.tolQuery q) ∧ (s.took id).query? q = some x) fun s =>
    let h := (s.took id).driftHome x.region
    (((s.took id).putQuery { x with stage := 2 }).putHome { h with queue := h.queue ++ [q] }).settleHome x.region) ∧
  (∀ id q x, Happens (.toleranceClear id) (fun s => s.message id = some (.tolClear q) ∧ (s.took id).query? q = some x) fun s =>
    (s.took id).answer x) ∧
  (∀ id region q, Happens (.toleranceDone id) (fun s => s.message id = some (.tolDone region q)) fun s =>
    let h := (s.took id).driftHome region
    ((s.took id).putHome { h with clears := h.clears.filter fun k => k ≠ q }).settleHome region) ∧
  (∀ cache line t, Happens (.driftLineEvict cache line) (fun s => (s.dr.trackers.filter fun t => t.cache = cache) = [t] ∧
      (t.pend.filter fun p => decide (p.1 / 128 = line)) ≠ []) fun s =>
    let live := (t.pend.filter fun p => decide (p.1 / 128 = line)).filter fun p => p.2.toNat % 2 ^ 31 ≠ 0
    (live.foldl (fun s p => s.send (.deltaWrite cache t.region p.1 p.2 (s.driftEntry t.region).fmt none false)) s).putTracker
      { t with pend := t.pend.filter fun p => decide (p.1 / 128 ≠ line) }) ∧
  (∀ v, Happens (.drent0Commit v) (fun _ => v.getLsbD 63 = true) fun s => s.commitDrift v) ∧
  (∀ (s : State) (v : Word64),
    let i := s.driftIdx
    let base := field v 47 16 * 2 ^ 16
    let lim := BitVec.ofNat 32 (field s.dr.staged 63 32)
    let size := field s.dr.staged 27 0
    let refused : Prop := (s.driftEntry i).valid = true ∨ f32Finite lim = false ∨ unitsOf lim = 0 ∨ 2 ^ 31 ≤ lim.toNat ∨ size = 0 ∨
      2 ≤ base / 2 ^ 46 ∨ rangeFits base size = false ∨ ∃ p ∈ s.dr.table, p.2.meets base size = true
    let t := s.commitDrift v
    (refused → t = s.sysPut SysReg.drsel 0 (s.sysGet SysReg.drsel 0 ||| 0x8000000000000000)) ∧
    (¬ refused → t.driftEntry i = ⟨true, field v 62 62, base, lim, size⟩ ∧ (∀ k, k ≠ i → t.driftEntry k = s.driftEntry k) ∧
      (∀ h ∈ t.dr.homes, h.region ≠ i) ∧ { t with dr := s.dr } = s)) ∧
  (∀ v, Happens (.drent0Retire v) (fun _ => v.getLsbD 63 = false) fun s => s.retireDrift) ∧
  (∀ (s : State), ((s.driftEntry s.driftIdx).valid = false ∨ (s.driftHome s.driftIdx).retiring = true) → s.retireDrift = s) ∧
  (∀ v, Happens (.drent1Stage v) (fun _ => True) fun s => { s with dr := { s.dr with staged := v &&& 0xFFFFFFFF0FFFFFFF } })

/-- Collectives, other modules, links and the pod's budget (16 R348-R362): each event does what its rule says where its condition holds.
The order in which contributions are combined, the rounding of a pod's share, and a request of another module as an event with its
values are the model's (log 24). -/
def Obligations.FabricEvents : Prop :=
  let kids (s : State) (c : Coll) : Nat :=
    if c.args.op = 3 then 0 else (treeChildren (s.liveOf c) (s.group c.args.group).rank).length
  let isRoot (s : State) (c : Coll) : Bool := decide ((s.liveOf c).head? = some (s.group c.args.group).rank)
  let sized (s : State) (c : Coll) (partials : List (List Word)) (down : List Word) : Prop :=
    c.done = none ∧ c.elems ≠ [] ∧ s.collAlone c = false ∧ s.collStopped c = false ∧ partials.length = kids s c ∧
    (∀ p ∈ partials, p.length = c.elems.length) ∧ (isRoot s c = false → down.length = c.elems.length)
  let checked (s : State) (c : Coll) (r : Option Rec256) (k : AccKind) : State × List Found :=
    match r with
    | some r => s.collCheck c r k
    | none => (s, [])
  let come (r : PeerReq) (pa n : Nat) (en : BitVec 128) (s : State) : State := { s with
    opId := s.opId + 1, fa := { s.fa with inbox := s.fa.inbox ++ [⟨peerId s.opId, r, pa, n, en, none⟩] } }
  let fresh (s : State) : Prop := ∀ p ∈ s.fa.inbox, p.id ≠ peerId s.opId
  let srcOf (s : State) (c : Coll) : Option Rec256 := if isRoot s c || decide (c.args.op ≠ 3) then some c.args.src else none
  (∀ id c partials down y z, Happens (.collChunk id partials down) (fun s =>
      s.coll? id = some c ∧ c.unread = false ∧ sized s c partials down ∧ checked s c (srcOf s c) .read = y ∧ firstTrap y.2 = none ∧
      y.1.engineReady c.id c.st c.view false (elemAccs c.args.src 4 false y.2) = (z, true))
    fun s =>
    let a := z.engineReads c.id c.view (elemAccs c.args.src 4 false y.2)
    let own := if (srcOf s c).isSome then a.2 else List.replicate c.elems.length 0
    let o := chunkOut c.args (isRoot s c) own ((c.res.getD []).map BitVec.toNat) (partials.map fun p => p.map BitVec.toNat)
      (down.map BitVec.toNat)
    (a.1.engineDone c.id).putColl id (some { c with
      sentUp := o.up.map (BitVec.ofNat 32), sentDown := o.dn.map (BitVec.ofNat 32),
      done := some (o.dst.map (BitVec.ofNat 32), o.res.map (BitVec.ofNat 32)) })) ∧
  (∀ id c partials down y k line, Happens (.collChunk id partials down) (fun s =>
      s.coll? id = some c ∧ c.unread = false ∧ sized s c partials down ∧ checked s c (srcOf s c) .read = y ∧
      firstTrap y.2 = some (k, line)) fun _ => y.1.collFault c k c.args.sslot line) ∧
  (∀ id c partials down r y z, Happens (.collChunk id partials down) (fun s =>
      s.coll? id = some c ∧ c.unread = true ∧ c.args.res = some r ∧ s.collCheck c r .read = y ∧ firstTrap y.2 = none ∧
      y.1.engineReady c.id c.st c.view false (elemAccs r 4 false y.2) = (z, true)) fun _ =>
    let a := z.engineReads c.id c.view (elemAccs r 4 false y.2)
    let d : Coll := { c with res := some (a.2.map (BitVec.ofNat 32)) }
    ((a.1.engineDone c.id).putColl id (some d)).runChunk d partials down) ∧
  (∀ id c partials down r y k line, Happens (.collChunk id partials down) (fun s =>
      s.coll? id = some c ∧ c.unread = true ∧ c.args.res = some r ∧ s.collCheck c r .read = y ∧ firstTrap y.2 = some (k, line))
    fun _ => y.1.collFault c k c.args.rslot line) ∧
  (∀ id c dst res y x z, Happens (.collChunkCommit id) (fun s => s.coll? id = some c ∧ c.done = some (dst, res) ∧
      s.collCheck c c.args.dst .write = y ∧ checked y.1 c c.args.res .write = x ∧ firstTrap y.2 = none ∧ firstTrap x.2 = none ∧
      x.1.engineReady c.id c.st c.view false (elemAccs c.args.dst 4 true y.2 ++ elemAccs (c.args.res.getD 0) 4 true x.2) = (z, true))
    fun _ =>
    let u := ((z.collWrite c.args.dst y.2 dst).collWrite (c.args.res.getD 0) x.2 res).engineDone c.id
    u.putColl id (some { c with
      chunk := c.chunk + 1, attempt := 0, since := u.ns, res := none, sentUp := [], sentDown := [], done := none })) ∧
  (∀ id rank c chip, Happens (.collNeighbourTimeout id rank) (fun s => s.coll? id = some c ∧ (s.neighbours c).contains rank = true ∧
      (s.group c.args.group).members[rank]? = some chip ∧ max (SMap.get 0 s.fa.heard chip) c.since + 100000 ≤ s.ns) fun s =>
    s.memberLost id rank true) ∧
  (∀ id rank, Happens (.memberDown id rank) (fun _ => True) fun s => s.memberLost id rank false) ∧
  (∀ id c, Happens (.collComplete id) (fun s => s.coll? id = some c ∧ c.elems = []) fun s =>
    (s.putColl id none).sendBytes c.by_ c.clasp (4 * c.args.count)) ∧
  (∀ id c, Happens (.collEndFault id) (fun s => s.coll? id = some c) fun s => s.collFault c 0x04 255 0) ∧
  (∀ r pa n en z, Happens (.peerRequest r pa n en) (fun s => fresh s ∧ served pa = true ∧ peerOk r.op pa n = true ∧
      (come r pa n en s).engineReady (peerId s.opId) true (.all (homeOf pa)) true (PeerIn.accs ⟨peerId s.opId, r, pa, n, en, none⟩) =
        (z, true) ∧
      ((z.servePeer (peerId s.opId) r.op pa n en).1.engineDone (peerId s.opId)).linkHeld r.link = false) fun s =>
    let q := z.servePeer (peerId s.opId) r.op pa n en
    let u := q.1.engineDone (peerId s.opId)
    { u with fa := { u.fa with inbox := u.fa.inbox.filter fun p => p.id ≠ peerId s.opId, reply := some (r.link, some q.2) } }) ∧
  (∀ r pa n en z, Happens (.peerRequest r pa n en) (fun s => fresh s ∧ served pa = true ∧ peerOk r.op pa n = true ∧
      (come r pa n en s).engineReady (peerId s.opId) true (.all (homeOf pa)) true (PeerIn.accs ⟨peerId s.opId, r, pa, n, en, none⟩) =
        (z, false)) fun _ => z) ∧
  (∀ r pa n en, Happens (.peerRequest r pa n en) (fun s => fresh s ∧ (served pa = false ∨ peerOk r.op pa n = false) ∧
      s.linkHeld r.link = false) fun s => { s with opId := s.opId + 1, fa := { s.fa with reply := some (r.link, none) } }) ∧
  (∀ id o, Happens (.peerCompletionTimeout id) (fun s => s.op? id = some o ∧ o.due + 12000000 ≤ s.now) fun s =>
    s.failPeer o fun _ => true) ∧
  (∀ l, Happens (.wavelengthFail l) (fun s => l < 32 ∧ (s.link l).up = true) fun s =>
    let u := ((s.putLink l { s.link l with good := (s.link l).good - 1 }).settleWidth l).machineEvent (16 * (l / 8)) (16 * (l / 8))
      0 0x05 0 0
    if (s.link l).good ≤ 1 then u.loseLink l else u) ∧
  (∀ l, Happens (.linkDown l) (fun s => l < 32 ∧ (s.link l).up = true) fun s => s.loseLink l) ∧
  (∀ l peer, Happens (.linkUp l peer) (fun s => l < 32 ∧ peer < 1024 ∧ (s.link l).up = false) fun s =>
    (s.putLink l { s.link l with
      up := true, peer := peer, good := 32, seq := 0, replay := false, heard := s.ns, stopIn := false, stopOut := false }).settleWidth l) ∧
  (∀ l seq src stop, Happens (.flitReceive l seq ⟨src, true, stop, true⟩) (fun s => l < 32 ∧ (s.link l).up = true ∧
      seq = (s.link l).seq) fun s =>
    let u := s.putLink l { s.link l with seq := seq + 1, replay := false, heard := s.ns, stopIn := stop, stopOut := false }
    { u with fa := { u.fa with heard := SMap.set 0 u.fa.heard src s.ns } }) ∧
  (∀ l seq src stop, Happens (.flitReceive l seq ⟨src, true, stop, false⟩) (fun s => l < 32 ∧ (s.link l).up = true ∧
      seq = (s.link l).seq) fun s => s.putLink l { s.link l with stopIn := stop, stopOut := true }) ∧
  (∀ l seq src ok stop room, Happens (.flitReceive l seq ⟨src, ok, stop, room⟩) (fun s => l < 32 ∧ (s.link l).up = true ∧
      (ok = false ∨ seq ≠ (s.link l).seq)) fun s =>
    s.putLink l { s.link l with replay := true, stopIn := if ok then stop else (s.link l).stopIn, stopOut := !room }) ∧
  (∀ demand, Happens (.podBudgetTick demand) (fun s => (s.sysGet SysReg.pbctl 0).getLsbD 63 = true ∧
      (∀ p ∈ s.fa.own, p.2 + 100000 ≤ s.ns)) fun s =>
    let r := s.sysGet SysReg.pbctl 0
    let d := max 200 (min 4000 demand)
    let u : State := { s with
      pw := { s.pw with demand := d }
      fa := { s.fa with own := s.announced ++ [(d, s.ns)] } }
    let a := min 65535 (podShare (u.domain.map u.demandOf) u.ownDemand (field r 62 43))
    let v := u.sysPut SysReg.pbctl 0 (setField (setField r 15 0 d) 31 16 a)
    if a = field r 31 16 then v else (List.range 64).foldl (fun s c => s.throttle c 4) v) ∧
  (∀ chip demand, Happens (.demandMessage chip demand) (fun _ => True) fun s => { s with fa := { s.fa with
    demands := (s.fa.demands.filter fun d => d.1 ≠ chip) ++ [(chip, max 200 (min 4000 demand), s.ns)] } })

/-- The calendar, its slots, and ring heaters (18 R388-R396; 25 R442): each event does what its rule says where its condition holds. How
many of a command's transactions a slot finds under way, and whether work that was carried once goes on outside slots, are free values
(logs 11, 25). -/
def Obligations.CalendarEvents : Prop :=
  let badSet (s : State) : Prop :=
    s.stagedOr SysReg.slotper < 2 * s.stagedOr SysReg.slotlen + s.stagedOr SysReg.horizon ∨
    s.stagedOr SysReg.slotper < 2 * s.stagedOr SysReg.longlen + s.stagedOr SysReg.horizon
  let bare (s : State) : State := { s with ca := { s.ca with staged := [] } }
  let value (reg : Nat) (v : Word64) : Nat := if reg = SysReg.slotper then field v 19 0 else field v 15 0
  let cleared (reg : Nat) (v : Word64) (s : State) : State :=
    if reg = SysReg.slotper ∧ v.getLsbD 62 = true then
      s.sysPut SysReg.slotper 0 (s.sysGet SysReg.slotper 0 &&& ~~~0x4000000000000000) else s
  let ring (s : State) (w : Nat) : Nat := 512 * s.ringDie + 32 * s.ringFibre + w
  (∀ v, (calendarOk SysReg.slotper v = true ↔ 2048 ≤ v ∧ v ≤ 16384) ∧ (calendarOk SysReg.slotlen v = true ↔ 128 ≤ v ∧ v ≤ 8191) ∧
    calendarOk SysReg.longevery v = true ∧ (calendarOk SysReg.longlen v = true ↔ 1024 ≤ v ∧ v ≤ 8191) ∧
    (calendarOk SysReg.horizon v = true ↔ v ≤ 4095)) ∧
  (∀ reg v, Happens (.calendarWrite reg v) (fun _ => SysReg.slotper ≤ reg ∧ reg ≤ SysReg.horizon ∧ calendarOk reg (value reg v) = true)
    fun s =>
    let u := cleared reg v s
    { u with ca := { u.ca with staged := SMap.set none u.ca.staged reg (some (value reg v)), lastWrite := u.ns } }) ∧
  (∀ reg v, Happens (.calendarWrite reg v) (fun _ => SysReg.slotper ≤ reg ∧ reg ≤ SysReg.horizon ∧ calendarOk reg (value reg v) = false)
    fun s => cleared reg v s) ∧
  Happens .calendarActivate (fun s => s.activateDue = true ∧ badSet s) (fun s =>
    (bare s).sysPut SysReg.slotper 0 ((bare s).sysGet SysReg.slotper 0 ||| 0x4000000000000000)) ∧
  Happens .calendarActivate (fun s => s.activateDue = true ∧ ¬ badSet s) (fun s =>
    let put (s : State) (reg v : Nat) : State := s.sysPut reg 0 (BitVec.ofNat 64 v)
    let u := (bare s).sysPut SysReg.slotper 0 (setField ((bare s).sysGet SysReg.slotper 0) 19 0 (s.stagedOr SysReg.slotper))
    let v := (put (put (put (put u SysReg.slotlen (s.stagedOr SysReg.slotlen)) SysReg.longevery (s.stagedOr SysReg.longevery))
      SysReg.longlen (s.stagedOr SysReg.longlen)) SysReg.horizon (s.stagedOr SysReg.horizon)).retrained
    { v with
      ca := { v.ca with anchor := v.ns, slot := none, extended := 0, drain := false, past := none, retrain := none }
      mx := { v.mx with cmds := v.mx.cmds.map fun c => { c with deferred := none } } }) ∧
  Happens .slotDrainWindow (fun s => s.drainDue = true) (fun s => { s with ca := { s.ca with
    drain := true, held := (s.underWay.filter fun w => !w.st).map fun w => (w.id, w.by_, 0) } }) ∧
  (∀ k, Happens .slotStart (fun s => s.startDue = some k) fun s =>
    let m := s.slotMask k
    let u := s.countHeld m
    let x := u.link (field m 21 16)
    let train := m.getLsbD 22 = true ∧ x.up = true ∧ 1 < x.width ∧ (s.pw.mstate = 0 ∨ s.pw.mstate = 1 ∧ x.width = x.good)
    ({ u with ca := { u.ca with
      slot := some k, extended := 0, carried := if u.ca.carried = 1 then 2 else u.ca.carried, tolerated := 0
      retrain := if train then some (field m 21 16) else none } } : State).settleWidth (field m 21 16)) ∧
  (∀ (s : State) m, let u := s.countHeld m
    { u with freeCtr := s.freeCtr, ca := { u.ca with held := s.ca.held } } = s ∧
    ∀ h ∈ u.ca.held, ∃ w ∈ s.underWay, w.id = h.1 ∧ (∃ n, (h.1, h.2.1, n) ∈ s.ca.held) ∧ 0 < h.2.2 ∧ h.2.2 ≤ s.slotCount m w) ∧
  (∀ k, Happens .slotEnd (fun s => s.endDue = some k) fun s =>
    let u := (s.countTolerated (s.slotMask k)).retrained
    let ext := u.ca.extended
    let ovr := (field (u.sysGet SysReg.slotstat 0) 23 0 + if ext = 0 then 0 else 1) % 2 ^ 24
    let stat := min 65535 (u.ca.held.map fun h => h.2.2).sum * 2 ^ 48 + min 65535 u.ca.tolerated * 2 ^ 32 + min 255 ext * 2 ^ 24 + ovr
    let v := u.sysPut SysReg.slotstat 0 (BitVec.ofNat 64 stat)
    let w := (if ext = 0 then v else v.postEvent 0 0 0x84 0 (bit (s.slotLong k)) ext (BitVec.ofNat 64 k) 0).overrunRecords
      (u.ca.held.map Prod.snd)
    { w with ca := { w.ca with
      slot := none, extended := 0, drain := false, past := some (k, ext), held := [], tolerated := 0, sampledAt := none, retrain := none
      carried := if w.ca.carried = 2 then 0 else w.ca.carried
      monitor := if s.slotLong k then w.ca.monitor.filter fun p => p.1 / 65536 ≠ field (s.slotMask k) 9 8 else w.ca.monitor } }) ∧
  (∀ (s : State) m, let u := s.countTolerated m
    { u with freeCtr := s.freeCtr, ca := { u.ca with tolerated := s.ca.tolerated } } = s ∧ s.ca.tolerated ≤ u.ca.tolerated ∧
    u.ca.tolerated ≤ s.ca.tolerated + ((s.underWay.filter EWork.st).map (s.slotCount m)).sum) ∧
  (∀ (s : State) c l n, s.overrunRecords [] = s ∧ (s.launch? c.handle = some l → s.overrunRecords [(c, n)] =
    if l.recNat 27 1 % 2 = 1 then s.engineFault c 0x0E n 255 0 else s)) ∧
  (∀ k, Happens .slotExtend (fun s => s.endDue = some k ∧ 64 * (s.ca.extended + 1) ≤ s.slotNominal k) fun s =>
    { s with ca := { s.ca with extended := s.ca.extended + 1 } }) ∧
  (∀ k, Happens .slotExtend (fun s => s.endDue = some k ∧ s.slotNominal k < 64 * (s.ca.extended + 1) ∧ s.ca.carried ≠ 2) fun s =>
    { s with freeCtr := s.freeCtr + 1, ca := { s.ca with carried := 1, carryMask := s.slotMask k } }) ∧
  (∀ k, Happens .slotExtend (fun s => s.endDue = some k ∧ s.slotNominal k < 64 * (s.ca.extended + 1) ∧ s.ca.carried = 2) fun s =>
    let out := (Config.freeWord s.freeCtr).toNat % 2 = 1
    let u : State := { s with freeCtr := s.freeCtr + 1 }
    let v := if out then u.machineEvent 0 0 0 0x07 0 0 else u
    { v with ca := { v.ca with
      carried := 1, carryMask := s.slotMask k, outs := if out then s.ca.outs ++ [s.ca.carryMask] else s.ca.outs } }) ∧
  (∀ ns, Happens (.carriedWorkPiece ns) (fun s => s.ca.outs ≠ [] ∧ s.ca.slot = none ∧ 0 < ns ∧ ns ≤ 64 ∧ s.ca.pieceEnd ≤ s.ns)
    fun s => { s with ca := { s.ca with pieceEnd := s.ns + ns } }) ∧
  Happens (.carriedWorkPiece 0) (fun s => s.ca.outs ≠ [] ∧ s.ca.slot = none ∧ s.ca.pieceEnd ≤ s.ns)
    (fun s => { s with ca := { s.ca with outs := s.ca.outs.drop 1 } }) ∧
  (∀ v, Happens (.ringhtWrite v) (fun s => s.retuning s.ringDie = true) fun s =>
    let u := s.sysPut SysReg.ringht (ring s s.ringNum) (BitVec.ofNat 64 (field v 9 0))
    { u with ca := { u.ca with htErr := u.ca.htErr && !v.getLsbD 63 } }) ∧
  (∀ v, Happens (.ringhtWrite v) (fun s => s.retuning s.ringDie = false) fun s => { s with ca := { s.ca with htErr := true } }) ∧
  (∀ v, Happens (.ringmapWrite v) (fun s => s.retuning s.ringDie = false ∨ 16 ≤ s.ringNum ∨ 17 < field v 4 0 ∨
      ∃ w, w < 16 ∧ w ≠ s.ringNum ∧ s.ringOf s.ringDie s.ringFibre w = field v 4 0 ∧
        s.ringOf s.ringDie s.ringFibre s.ringNum ≠ field v 4 0) fun s =>
    { s with ca := { s.ca with mapErr := true } }) ∧
  (∀ v, Happens (.ringmapWrite v) (fun s => s.retuning s.ringDie = true ∧ s.ringNum < 16 ∧ field v 4 0 ≤ 17 ∧
      ∀ w, w < 16 → s.ringOf s.ringDie s.ringFibre w ≠ field v 4 0) fun s =>
    let u := s.sysPut SysReg.ringmap (ring s s.ringNum) (BitVec.ofNat 64 (field v 4 0))
    { u with ca := { u.ca with
      mapErr := u.ca.mapErr && !v.getLsbD 63
      monitor := SMap.set 0 u.ca.monitor (monitorKey s.ringDie s.ringFibre (field v 4 0) 0) 0 } }) ∧
  (∀ v, Happens (.ringmapWrite v) (fun s => s.retuning s.ringDie = true ∧ s.ringNum < 16 ∧ field v 4 0 ≤ 17 ∧
      s.ringOf s.ringDie s.ringFibre s.ringNum = field v 4 0) fun s =>
    let u := s.sysPut SysReg.ringmap (ring s s.ringNum) (BitVec.ofNat 64 (field v 4 0))
    { u with ca := { u.ca with mapErr := u.ca.mapErr && !v.getLsbD 63 } }) ∧
  (∀ die centre power, Happens (.ringMonitorSample die centre power) (fun s => die < 4 ∧ s.retuning die = true) fun s =>
    { s with freeCtr := s.freeCtr + 1, ca := { s.ca with
      sampledAt := some s.now
      monitor := (((List.range 16).flatMap fun f => (List.range 18).map fun r => (f, r)).foldl (fun m p =>
        let code : Nat := field (s.sysGet SysReg.ringht (ringInst die p.1 p.2)) 9 0
        let detune := if s.ringUsed die p.1 p.2 then wrap 16 ((centre.getD (18 * p.1 + p.2) 0 : Int) - (code : Int)) else 0
        SMap.set 0 (SMap.set 0 m (monitorKey die p.1 p.2 0) detune) (monitorKey die p.1 p.2 1)
          (power / 65536 ^ (18 * p.1 + p.2) % 65536)) s.ca.monitor) } })

/-- Power states, governors, throttles and brown-out (20 R417-R425): each event does what its rule says where its condition holds. That
a throttle without another alarm is the power alarm, that each step back of a governor starts its count again, when links count as idle,
and what a column's own frames hold, are the model's deductions (log 26). -/
def Obligations.PowerEvents : Prop :=
  let ticked (s : State) (col temp : Nat) : State := s.alarms { s.pw with
    govAt := SMap.set 0 s.pw.govAt col s.ns, hot := SMap.set false s.pw.hot col (decide (s.junction + 10 < temp)) }
  let mark (col : Nat) (s : State) (v : Nat) : State := { s with pw := { s.pw with under := SMap.set 0 s.pw.under col v } }
  (∀ col draw temp d m, Happens (.governorTick col draw temp) (fun s => col < 64 ∧ SMap.get 0 s.pw.govAt col + 1000 ≤ s.ns ∧
      (ticked s col temp).pw.brownHold = false ∧ (s.capOf col < draw ∨ s.junction < temp) ∧
      governUp ((ticked s col temp).governed col).1 ((ticked s col temp).governed col).2 = some (d, m)) fun s =>
    ((mark col (ticked s col temp) 0).govern col d m).throttle col 3) ∧
  (∀ col draw temp d m, Happens (.governorTick col draw temp) (fun s => col < 64 ∧ SMap.get 0 s.pw.govAt col + 1000 ≤ s.ns ∧
      (ticked s col temp).pw.brownHold = false ∧ draw ≤ s.capOf col ∧ temp ≤ s.junction ∧
      5 * draw ≤ 4 * s.capOf col ∧ 5 * temp ≤ 4 * s.junction ∧ SMap.get 0 (ticked s col temp).pw.under col ≠ 0 ∧
      SMap.get 0 (ticked s col temp).pw.under col - 1 + 10000 ≤ s.ns ∧
      governDown ((ticked s col temp).governed col).1 ((ticked s col temp).governed col).2 = some (d, m)) fun s =>
    ((mark col (ticked s col temp) (s.ns + 1)).govern col d m).throttle col 3) ∧
  (∀ draws, draws.length = 64 → Happens (.columnCapTick draws) (fun s => s.pw.capAt + 10000 ≤ s.ns) fun s =>
    { s with pw := { s.pw with
      capAt := s.ns
      cap := (List.range 64).foldl (fun m i => SMap.set 0 m i ((capShares 64 (s.allowance * 1000) draws []).getD i 0)) s.pw.cap } }) ∧
  Happens .fastThrottleOn (fun s => s.alarmed = true ∧ s.isFast = false) (fun s => s.setFast true) ∧
  Happens .fastThrottleOn (fun s => s.alarmed = false ∧ s.isFast = false)
    (fun s => ({ s with pw := { s.pw with powerAlarm := true } } : State).setFast true) ∧
  Happens .fastThrottleOff (fun s => s.isFast = true ∧ s.alarmed = false ∧
    s.pw.clearAt + 1000 * field (s.sysGet SysReg.govctl 0) 31 16 ≤ s.ns) (fun s => s.setFast false) ∧
  (∀ on, Happens (.throtSignal on) (fun _ => True) fun s => s.alarms { s.pw with throtPin := on }) ∧
  (∀ col, Happens (.cStateEnter col) (fun s => col < 64 ∧ s.cstate col < s.cDeepest col ∧ s.cDeepest col ≠ 3 ∧
      s.cl.exits.contains col = false ∧ s.pw.mstate ≠ 2) fun s =>
    { s with pw := { s.pw with cstate := SMap.set 0 s.pw.cstate col (s.cDeepest col) } }) ∧
  (∀ col, Happens (.cStateEnter col) (fun s => col < 64 ∧ s.cstate col < 3 ∧ s.cDeepest col = 3 ∧
      s.cl.exits.contains col = false ∧ s.pw.mstate ≠ 2) fun s =>
    let u := s.drainTrackers fun k => decide (k / 5 = col ∧ k % 5 ≠ 4)
    if u.l1sDrained col then { u.columnOff col with
      pw := { (u.columnOff col).pw with cstate := SMap.set 0 (u.columnOff col).pw.cstate col 3 } } else u) ∧
  (∀ col first rest, Happens (.cStateExit col) (fun s => col < 64 ∧ s.cstate col ≠ 0 ∧
      (s.cAllowed col (s.cstate col) = false ∨ s.cl.exits.contains col = true) ∧ (s.wakeColumn col).slewPick = first :: rest) fun s =>
    (s.wakeColumn col).startExit first (first :: rest)) ∧
  Happens .m1Enter (fun s => s.pw.mstate = 0 ∧ s.pw.entering = 0 ∧ 10000 ≤ s.moduleTol ∧ s.linksIdle = true) (fun s => s.setM1 1) ∧
  Happens .m1Exit (fun s => s.pw.mstate = 1 ∧ (s.moduleTol < 10000 ∨ s.linksIdle = false)) (fun s => s.setM1 0) ∧
  (∀ (s : State) l, (s.link l).up = true → ((s.settleWidth l).link l).width =
    let w := if s.pw.mstate = 1 then min (s.link l).good (max 1 (s.link l).minw) else (s.link l).good
    if s.ca.retrain = some l ∧ 1 < w then w - 1 else w) ∧
  (∀ col, Happens (.quiesceQuiet col) (fun s => col < 64 ∧ s.quietDue col = true) fun s =>
    ({ s with pw := { s.pw with quiesce := SMap.set 0 s.pw.quiesce col 2 } } : State).powerEvent (SMap.get 0 s.pw.quiesceBy col - 1) 1 0
      (BitVec.ofNat 64 col) 0) ∧
  (∀ v host, Happens (.ctlWakeWrite v host) (fun s => s.pw.mstate = 2) fun s =>
    if host = true ∧ v ≠ 0 then s.wakeModule else s) ∧
  (∀ v host, Happens (.ctlWakeWrite v host) (fun s => s.pw.mstate ≠ 2) fun s => (List.range 64).foldl
    (fun (s : State) n => if v.getLsbD n then (s.wakeColumn n).wakeCore n else s)
    (if host = true ∧ s.pw.entering ≠ 0 ∧ v ≠ 0 then s.wakeModule else s)) ∧
  (∀ s : State, s.wakeModule = if s.pw.mstate = 2 ∨ s.pw.entering ≠ 0 then { s with
      pw := { s.pw with wakeTime := some (s.pw.wakeTime.getD s.ns) }, se := { s.se with hstat := setField s.se.hstat 47 40 0 } }
    else s) ∧
  (∀ (s : State) n, s.wakeColumn n = (if s.cstate n = 0 ∨ n ∈ s.cl.exits then s
      else { s with cl := { s.cl with exits := s.cl.exits ++ [n] } }) ∧
    s.wakeCore n = if s.se.held then s else s.modCtx (.cc n) fun c => { c with run := .running }) ∧
  Happens .brownoutEntry (fun s => s.pw.mstate ≠ 2 ∧ s.pw.entering = 0 ∧ s.m2Wanted = true ∧ s.m2Missing = 0) (fun s =>
    let outs := s.outLaunches.map Launch.handle
    let u := (List.range 64).foldl State.takeParts (outs.foldl State.startOut s)
    { u with pw := { u.pw with entering := 1, m2outs := (u.pw.m2outs ++ outs).eraseDups } }) ∧
  Happens .brownoutEntry (fun s => s.pw.mstate ≠ 2 ∧ s.pw.entering = 0 ∧ s.m2Wanted = true ∧ s.m2Missing ≠ 0) (fun s =>
    let told := s.pw.m2by.map Prod.fst ++ if s.pw.brownPin = true ∨ s.pw.m2by = [] then [0] else []
    let u := (told.foldl (fun (u : State) n => u.powerEvent n 2 s.m2Missing 0 0) s).answerM2 3
    let v : State := { u with pw := { u.pw with told := s.m2Tolerated } }
    if s.pw.brownPin then
      let w := (List.range 64).foldl (fun s c => if s.governed c = (3, 1) then s else (s.govern c 3 1).throttle c 3)
        ({ v with pw := { v.pw with brownHold := true } } : State)
      if w.isFast then w else w.setFast true
    else v) ∧
  Happens .brownoutEntry (fun s => s.pw.mstate ≠ 2 ∧ s.pw.entering = 1 ∧ s.outsDone = true)
    (fun s => { s with pw := { s.pw with entering := 2 } }) ∧
  Happens .brownoutEntry (fun s => s.pw.mstate ≠ 2 ∧ 1 < s.pw.entering ∧ (s.drainTrackers fun _ => true).cachesDrained = false)
    (fun s => s.drainTrackers fun _ => true) ∧
  Happens .brownoutEntry (fun s => s.pw.mstate ≠ 2 ∧ 1 < s.pw.entering ∧ (s.drainTrackers fun _ => true).cachesDrained = true)
    (fun s =>
      let u := (s.drainTrackers fun _ => true).sealParts
      let v := u.ms.l1.foldl (fun s l => s.flushBytes l.dirty) u
      let w : State := { v with ms := { v.ms with l1 := [], slice := [], prefetch := [] } }
      let x : State := if w.se.dbg = 0 then w else { w.lockDebug with se := { w.lockDebug.se with keysErased := true } }
      { x with pw := { x.pw with mstate := 2, entering := 0, entryTime := x.ns } }) ∧
  (∀ (s : State) col num, okRange (s.frameBase col num) (2 ^ 17) = true →
    s.sealPart col num 0 =
      let x := s.sealedCore col
      let g : Saved := ⟨0, 0, col, num, 1, x.age, x.regCode, 0, [], [], [], [], [], [], []⟩
      (x.framePieces g (fun l => min x.blockSize (s.liveOfLane (.cc col) l)) (BitVec.ofNat 64 s.ns)).foldl
        (fun s p => s.storeHome (s.frameBase col num + p.1) p.2) (s.clearRange (s.frameBase col num) (2 ^ 17))) ∧
  Happens .brownAssert (fun s => s.pw.brownPin = false)
    (fun s => ({ s with pw := { s.pw with brownPin := true } } : State).powerEvent 0 4 0 (s.sliceTime 0) 0) ∧
  Happens .brownRelease (fun s => s.pw.brownPin = true)
    (fun s => (s.alarms { s.pw with brownPin := false, brownHold := false }).wakeModule) ∧
  Happens (.brownoutResume false) (fun s => s.pw.mstate = 2 ∧ s.pw.wakeTime ≠ none ∧ s.imageGood = true) (fun s =>
    let u := (SMap.keys s.fa.links).foldl State.settleWidth s.powerBack
    let v := if s.isFast then (List.range 64).foldl (fun s c => s.throttle c 2) u else u
    ((List.range 64).foldl (fun t c => if t.governed c = s.governed c then t else t.throttle c 3) v).answerM2 0) ∧
  (∀ s : State, let u := s.powerBack
    u.pw.mstate = 0 ∧ u.pw.cstate = [] ∧ u.pw.wakeTime = none ∧ u.pw.fast = [] ∧ u.pw.quiesce = [] ∧
    u.pw.back = some (s.pw.entryTime, s.pw.wakeTime.getD s.ns) ∧ u.ca.htErr = false ∧ u.ca.mapErr = false ∧ u.mem = s.mem ∧
    (∀ reg ∈ lostRegs, ∀ n, n < 2 ^ 20 → u.sysGet reg n = State.reset.sysGet reg n) ∧
    ∀ reg, reg ∉ SysReg.frmpool :: lostRegs → ∀ n, n < 2 ^ 20 → u.sysGet reg n = s.sysGet reg n) ∧
  Happens (.brownoutResume false) (fun s => s.pw.mstate = 2 ∧ s.pw.wakeTime ≠ none ∧ s.imageGood = false) (fun s => { s with
    pw := { s.pw with wakeTime := none }, se := { s.se with hstat := setField s.se.hstat 47 40 0xE1 } }) ∧
  (∀ t, Happens (.brownoutResume true) (fun s => s.pw.mstate ≠ 2 ∧ s.backDone = true ∧ s.pw.back = some t) fun s =>
    ({ s with pw := { s.pw with back := none, m2outs := if s.pw.entering = 0 then [] else s.pw.m2outs } } : State).powerEvent 0 3 0
      (BitVec.ofNat 64 t.1) (BitVec.ofNat 64 t.2))

/-- Resets, bring-up, alarms, the host's ports and debug window, errors, and register writes (04 R106; 09 R223; 19 R402, R404, R405, R412;
20 R427-R432): each event does what its rule says where its condition holds. Which response an alarm source has, the order of the host's
accesses, and REGISTER_WRITE from 0x10000 as the name of BAR 0 are the model's (log 28); so is the free stage of a flipped pair (log 23). -/
def Obligations.HostEvents : Prop :=
  let put (f : SecSt → SecSt) (s : State) : State := { s with se := f s.se }
  let answer (bs : List Byte) (s : State) : State := put (fun e => { e with hostOut := bs }) s
  let onlyAt (level : Nat) (f : State → State) (s : State) : State := if level ≤ s.se.dbg then f s else s.apertureErr
  (∀ ok, Happens (.powerOnReset ok) (fun _ => True) fun s => ({ State.reset with
    freeCtr := s.freeCtr
    se := { State.reset.se with lifecycle := s.se.lifecycle, allErased := s.se.allErased, keysErased := true } } : State).setStage
      (if ok then 0x01 else 0xF0)) ∧
  (∀ v, Happens (.bootimgWrite v) (fun s => s.bootStage = 0x01 ∧ field v 63 48 ≠ 0 ∧ field v 47 46 = 0) fun s =>
    (put (fun e => { e with bootimg := v &&& 0xFFFFFFFFFFFF0000 }) s).setStage 0x02) ∧
  (∀ v, Happens (.bootimgWrite v) (fun s => s.bootStage ≠ 0x01 ∨ field v 63 48 = 0 ∨ field v 47 46 ≠ 0) fun s => s) ∧
  (∀ ok entry, Happens (.runtimeVerifyDone ok entry) (fun s => s.bootStage = 0x02 ∧ (ok = true ∨ s.se.lifecycle = 2)) fun s =>
    let u := ((s.setStage 0x03).sysPut SysReg.cstat 0 1).modCtx (.cc 0) fun c =>
      { (c.modLane 0 fun x => x.moveTo entry) with run := .running }
    put (fun e => { e with held := false, measured := some s.imageSha }) u) ∧
  (∀ entry, Happens (.runtimeVerifyDone false entry) (fun s => s.bootStage = 0x02 ∧ s.se.lifecycle ≠ 2) fun s => s.setStage 0xF1) ∧
  (∀ src, Happens (.securityAlarm src) (fun s => (s.pw.mstate ≠ 2 ∨ alarmInM2 src = true) ∧
      Config.alarmResponse (alarmPlace src) % 4 = 0) fun s => put (fun e => { e with alarms := e.alarms + 1 }) s) ∧
  (∀ src, Happens (.securityAlarm src) (fun s => (s.pw.mstate ≠ 2 ∨ alarmInM2 src = true) ∧
      Config.alarmResponse (alarmPlace src) % 4 = 1) fun s => { State.reset with
    freeCtr := s.freeCtr
    se := { State.reset.se with lifecycle := s.se.lifecycle, allErased := s.se.allErased, keysErased := true } }) ∧
  (∀ src, Happens (.securityAlarm src) (fun s => (s.pw.mstate ≠ 2 ∨ alarmInM2 src = true) ∧
      Config.alarmResponse (alarmPlace src) % 4 = 2) fun s => put (fun e => { e with keysErased := true }) s) ∧
  (∀ src, Happens (.securityAlarm src) (fun s => (s.pw.mstate ≠ 2 ∨ alarmInM2 src = true) ∧
      Config.alarmResponse (alarmPlace src) % 4 = 3) fun s => put (fun e => { e with keysErased := true, allErased := true }) s) ∧
  (∀ off n, off + n ≤ 2 ^ 36 → Happens (.apertureRead off n) (fun _ => True) fun s => State.goHost (s.se.hostq.length + 1) { s with
    opId := s.opId + 1, se := { s.se with hostq := s.se.hostq ++ [⟨hostId s.opId, s.aperturePa off, none, n⟩] } }) ∧
  (∀ off bytes, off + bytes.length ≤ 2 ^ 36 → Happens (.apertureWrite off bytes) (fun _ => True) fun s =>
    State.goHost (s.se.hostq.length + 1) { s with
      opId := s.opId + 1
      se := { s.se with hostq := s.se.hostq ++ [⟨hostId s.opId, s.aperturePa off, some bytes, bytes.length⟩] } }) ∧
  (∀ n (s : State) h rest, (s.se.hostq = [] → State.goHost n s = s) ∧
    (s.se.hostq = h :: rest → (s.tryHost h).2 = false → State.goHost (n + 1) s = (s.tryHost h).1) ∧
    (s.se.hostq = h :: rest → (s.tryHost h).2 = true →
      State.goHost (n + 1) s = State.goHost n (put (fun e => { e with hostq := rest }) (s.tryHost h).1))) ∧
  (∀ (s : State) id pa n, s.apertureOk pa n false = false →
    s.tryHost ⟨id, pa, none, n⟩ = (answer (List.replicate n 0xFF) s.apertureErr, true)) ∧
  (∀ (s : State) id pa n bs, s.apertureOk pa n true = false → s.tryHost ⟨id, pa, some bs, n⟩ = (s.apertureErr, true)) ∧
  (∀ (s z : State) h, s.apertureOk h.pa h.n h.data.isSome = true →
    s.engineReady h.id true (.all (homeOf h.pa)) true h.accs = (z, false) → s.tryHost h = (z, false)) ∧
  (∀ (s z : State) id pa n, s.apertureOk pa n false = true →
    let h : HostAcc := ⟨id, pa, none, n⟩
    s.engineReady id true (.all (homeOf pa)) true h.accs = (z, true) →
    let r := z.engineReads id (.all (homeOf pa)) h.accs
    s.tryHost h = (answer (((h.accs.map EAcc.n).zip r.2).flatMap fun p => leBytes p.1 p.2) (r.1.engineDone id), true)) ∧
  (∀ (s z : State) id pa n bs, s.apertureOk pa n true = true →
    s.engineReady id true (.all (homeOf pa)) true (HostAcc.accs ⟨id, pa, some bs, n⟩) = (z, true) →
    s.tryHost ⟨id, pa, some bs, n⟩ =
      (((linePieces pa n).foldl (fun s p => s.engineWrite .nc p.1 ((bs.drop (p.1 - pa)).take p.2)) z).engineDone id, true)) ∧
  Happens .ddataRead (fun s => s.se.dbg ≠ 0) (fun s => s.hostRead s.se.daddr.toNat 8) ∧
  Happens .ddataRead (fun s => s.se.dbg = 0) (fun s => answer (leBytes 8 0) s) ∧
  (∀ v, Happens (.ddataWrite v) (fun s => 2 ≤ s.se.dbg) fun s => s.hostWrite s.se.daddr.toNat (leBytes 8 v.toNat)) ∧
  Happens .drdataRead (fun s => 1 ≤ s.se.dbg) (fun s => { s with
    freeCtr := s.freeCtr + 1, se := { s.se with hostOut := leBytes 8 s.debugReg.toNat } }) ∧
  (∀ v, Happens (.dccWrite v) (fun s => 2 ≤ s.se.dbg) fun s => (List.range 64).foldl (fun s n =>
    if v.getLsbD n then s.modCtx (.cc n) fun c => { c with run := .halted } else s) s) ∧
  (∀ v, Happens (.dctlWrite v) (fun s => 2 ≤ s.se.dbg) fun s => put (fun e => { e with dctl := v &&& 3 }) s) ∧
  (∀ i v, i = .ddataWrite v ∨ i = .dccWrite v ∨ i = .dctlWrite v ∨ i = .dhactResume ∨ i = .dhactSkip ∨ i = .dhactEnd →
    Happens i (fun s => s.se.dbg < 2) fun s => s.apertureErr) ∧
  (∀ i act, (i, act) = (.dhactResume, 0) ∨ (i, act) = (.dhactSkip, 1) ∨ (i, act) = (.dhactEnd, 2) →
    Happens i (fun s => 2 ≤ s.se.dbg) fun s => State.settleHeld 64 (put (fun e => { e with dhact := e.dhact ++ [act] }) s)) ∧
  (∀ n (s : State) act rest e more, s.se.dhact = act :: rest →
    let u := put (fun e => { e with dhact := rest }) s.pruneHold
    (s.pruneHold.se.dhold = [] → State.settleHeld (n + 1) s = State.settleHeld n u) ∧
    (s.pruneHold.se.dhold = e :: more → e.sub = 0 →
      State.settleHeld (n + 1) s = State.settleHeld n ((u.settleCore (e.gid / 2 ^ 26) act).dropHold e.gid 0)) ∧
    (s.pruneHold.se.dhold = e :: more → e.sub ≠ 0 → (u.trapret e.gid e.sub act).2 = 2 → State.settleHeld (n + 1) s = s.pruneHold) ∧
    (s.pruneHold.se.dhold = e :: more → e.sub ≠ 0 → (u.trapret e.gid e.sub act).2 ≠ 2 →
      State.settleHeld (n + 1) s = State.settleHeld n ((u.trapret e.gid e.sub act).1.dropHold e.gid e.sub))) ∧
  (∀ (s : State) n act, let u := s.modCtx (.cc n) fun c => c.modLane 0 fun y => { y with stalled := none }
    s.settleCore n act = if act = 2 then u.modCtx (.cc n) fun c => { c with run := .halted } else u.passWord (.cc n) 1) ∧
  (∀ col v, col < 64 → Happens (.corbindWrite col v) (fun _ => True) fun s => s.writeBinding col v) ∧
  (∀ half w, Happens (.wsstateTakeEffect half) (fun s => s.wsDue half = some w) fun s =>
    ({ s with ms := { s.ms with
      wsEff := SMap.set 0 s.ms.wsEff half w.value, wsPend := s.ms.wsPend.erase w } } : State).postEvent w.col w.col 0x83 0 0 0 w.value
        (BitVec.ofNat 64 (SysReg.wsstate0 + half))) ∧
  (∀ col r, Happens (.evqOverflowPost col) (fun s => s.ovfNext col = some r ∧ s.evqOn r.queue = true) fun s =>
    ({ s with ev := { s.ev with ovf := s.ev.ovf.erase r } } : State).evqWrite r.queue col r.bytes) ∧
  (∀ col r, Happens (.evqOverflowPost col) (fun s => s.ovfNext col = some r ∧ s.evqOn r.queue = false) fun s =>
    let u : State := { s with ev := { s.ev with ovf := s.ev.ovf.erase r } }
    if s.evqOn col then u.evqOffer col col r.bytes else u.evqDrop none) ∧
  (∀ (s : State) q col ty fl cause count a b, q < 256 → s.evqOn q = true → (∀ r ∈ s.ev.ovf, r.col = col → r.queue ≠ q) →
    0 < s.evqFree q → s.postEvent q col ty fl cause count a b =
      let u := s.hwWrite (s.evqEntry q (s.evqTail q)) (recordBytes ty fl cause col count a b (s.sliceTime col))
      let v := u.sysPut SysReg.evqctl q (setField (u.sysGet SysReg.evqctl q) 31 16 ((s.evqTail q + 1) % 65536))
      let ctl := v.sysGet SysReg.evqctl q
      (if ctl.getLsbD 60 then { v with ev := { v.ev with msix := v.ev.msix ++ [field ctl 53 43] } } else v).wakeWfi q) ∧
  (∀ q head, q < 256 → Happens (.evqHeadHostWrite q head) (fun s => s.pw.mstate ≠ 2) fun s =>
    (s.sysPut SysReg.evqctl q (setField (s.sysGet SysReg.evqctl q) 15 0 (head % 65536))).movedHead q) ∧
  (∀ arr col core loc uc synd gid, arr < 10 → col < 64 → core < (if arr = 8 then 5 else 4) →
    Happens (.errorDetected arr col core loc uc synd gid) (fun _ => True) fun s =>
    let inst := errlogInst arr col core
    let u := (({ s with freeCtr := s.freeCtr + 1 } : State).logError inst loc uc synd gid).errorEffect arr col core loc uc
    let v : State := { u with ev := { u.ev with inject := u.ev.inject.filter fun i => !decide (i.stage = 2 ∧ i.arr = arr ∧
      i.col = col ∧ i.loc = loc ∧ (perCoreArr arr → i.core = core)) } }
    if uc then v.machineEvent col col 1 0x02 (BitVec.ofNat 64 loc) (v.sysGet SysReg.errlog0 inst)
    else if (s.sysGet SysReg.errlog0 inst).getLsbD 63 then v
    else v.machineEvent col col 0 0x01 (BitVec.ofNat 64 loc) (v.sysGet SysReg.errlog0 inst)) ∧
  (∀ (s : State) arr col core loc uc, (arr ≠ 8 → (arr ≠ 9 ∨ uc = false) → s.errorEffect arr col core loc uc = s) ∧
    s.errorEffect 8 col core loc uc = s.trackerError (5 * col + core) loc uc ∧
    let z : State := { s with freeCtr := s.freeCtr + 1 }
    let k := 2 * (4 * col + core) + (Config.freeWord s.freeCtr).toNat % 2
    s.errorEffect 9 col core loc true = { z with mx := { z.mx with
      stages := SMap.set Stage2.reset s.mx.stages k { SMap.get Stage2.reset s.mx.stages k with poison := true } } }) ∧
  (∀ col core arr, arr < 10 → col < 64 → core < 4 → Happens (.errlogClear col core arr) (fun _ => True) fun s =>
    s.clearErrlog (errlogInst arr col core)) ∧
  (∀ reg col core v, reg < 0x10000 → col < 64 → core < 4 → Happens (.registerWrite reg col core v) (fun _ => True) fun s =>
    s.writeReg reg col v) ∧
  (∀ off col core v, Happens (.registerWrite (0x10000 + off) col core v) (fun _ => True) fun s => s.bar0Write off v) ∧
  (∀ (s : State) v, s.bar0Write 0 v = (if v.getLsbD 0 then put (fun e => { e with hstat := e.hstat &&& ~~~1 }) s else s) ∧
    s.bar0Write 0x2200 v = s.writeMlattol v ∧
    s.bar0Write 0x4008 v = onlyAt 2 (put fun e => { e with dhandle := v }) s ∧
    s.bar0Write 0x4010 v = onlyAt 1 (put fun e => if v.toNat % 8 = 0 then { e with daddr := v } else e) s ∧
    s.bar0Write 0x4020 v = onlyAt 1 (put fun e => { e with dreg := v &&& 0xFFFFF }) s ∧
    (v.toNat % 4 = 3 → s.bar0Write 0x4060 v = onlyAt 2 id s) ∧
    (s.pw.mstate ≠ 2 → s.bar0Write 0x8 v = put (fun e => { e with apbase := v &&& 0xFFF000000000 }) s ∧
      ∀ n, n < 64 → s.bar0Write (0x2000 + 8 * n) v = s.sysPut SysReg.lattol n (v &&& 0xFFFFFFFF)))

/-! ### Encodings (02, 03) -/

/-- Every well-formed instruction word reads back from its encoding (02 R53-R60; 03 R72-R76). -/
def Obligations.DecodeEncode : Prop :=
  ∀ i w, i.wf = true → i.encode = some w → w < 2 ^ 80 ∧ decode w = some i

/-- Words the spec writes out decode to the instructions they stand for (02 to 25). -/
def Obligations.DecodeWords : Prop :=
  let c : Ctl := ⟨7, false, 0, 0, false, 0, 0⟩
  decode 0x20F900000A040506A000 = some (.fma ⟨{ c with pd := 2 }, .g 10, .g 4, .g 5, .g 6, .f32, .rne, false, false⟩ false) ∧
  decode 0x00B880000A0204FE4001 = some (.addc ⟨{ c with pd := 1 }, .g 10, .g 2, .g 4, .zero, .n32, .rne, false, false⟩ 1) ∧
  decode 0x08380000_0101_FF00_0001 = some (.addImm ⟨c, .g 1, .g 1, .imm⟩ 1) ∧
  decode 0xA0000000000000000005 = some (.br ⟨{ c with p := 0 }, .g 0, .g 0, .g 0⟩ 5) ∧
  decode 0x603818001401FE292004 =
    some (.ld ⟨{ c with sa := 1, se := true }, .g 20, .g 1, .zero, 2, .si, .core, 2, .plain, 4⟩) ∧
  decode 0x7038280006FEFE1EAC00 =
    some (.atomAdd ⟨{ c with sa := 2, se := true }, .g 6, .zero, .zero, 1, .nc, .module, 2, .acqrel, 0⟩) ∧
  decode 0x80380000000000028C00 = some (.fenceAcqrel ⟨c, .g 0, .g 0, .g 0, 0, .own, .module, 0, .acqrel, 0⟩) ∧
  decode 0xA2380000_00FB_FE00_000C = some (.spawn ⟨c, .g 0, .tid, .zero⟩ 12) ∧
  decode 0x90B80000000100000000 = some (.mmac ⟨c, .g 0, .g 1, .g 0⟩) ∧
  decode 0x96380000000400000000 = some (.collGo ⟨c, .g 0, .g 4, .g 0⟩) ∧
  decode 0xA4F80000040000000013 = some (.slotq ⟨c, .g 4, .g 0, .g 0⟩ 3 1) ∧
  decode 0xB0380000090000122001 = some (.sysrd ⟨c, .g 9, .g 0, .g 0⟩ 0x122 true)

/-! ### Reset, and what every step does (02, 06, 20) -/

/-- After power-on reset global time is 0 and compute is held in reset, no column core runs, the bring-up stage is 0 (20 R427, R429), no
launch line holds a record, every queue is free, both weight stages of a core hold four groups of bf16 +0, unpoisoned, with stage 0 the
current one (12 R273), and the system registers hold the values their entries give. That an idle line's bytes are 0 is the model's
choice (log 5). -/
def Obligations.ResetState : Prop :=
  let s := State.reset
  s.now = 0 ∧ s.se.held = true ∧ s.bootStage = 0 ∧ s.hstatWord = 0 ∧ s.se.bootimg = 0 ∧ s.se.apbase = 0 ∧
  (∀ n, n < 64 → (s.ctx (.cc n)).run = .halted ∧ (s.ctx (.cc n)).live = true) ∧
  (∀ col line, s.launchLine col line = LaunchLine.idle) ∧
  (∀ core q, (s.queue core q).owner = none) ∧
  (∀ core n, s.stage core n = ⟨.bf16, 4, [], [], false⟩) ∧ (∀ core, SMap.get 0 s.mx.current core = 0) ∧
  (∀ n, s.sysGet SysReg.cstat n = 1 ∧ s.sysGet SysReg.lease n = 1024 ∧ s.sysGet SysReg.quiet n = 16 ∧
    s.sysGet SysReg.slotper n = 4096 ∧ s.sysGet SysReg.slotlen n = 192 ∧ s.sysGet SysReg.longevery n = 64 ∧
    s.sysGet SysReg.longlen n = 1536 ∧ s.sysGet SysReg.horizon n = 96 ∧ s.sysGet SysReg.govctl n = 0x80005F00000A0FA0 ∧
    s.sysGet SysReg.migctl n = 0x02400003E8 ∧ s.sysGet SysReg.pbctl n = 0x0FA00FA0 ∧ s.sysGet SysReg.bintmo n = 256 ∧
    s.sysGet SysReg.ashape n = 0x0F0F000F ∧ s.sysGet SysReg.ringht n = 512 ∧
    s.sysGet SysReg.ringmap n = BitVec.ofNat 64 (n % 32))

/-- The module after power-on reset meets the invariant of every step. Memory lists nothing, since an unlisted byte reads 0 (log 3), in
the model's one flat map (log 4). -/
def Obligations.InvAtReset : Prop := State.reset.Inv

/-- Every step keeps the invariant, from every state that meets it: memory keeps its canonical form, and the stores of a step enter
memory with it, so that none is left over (log 4 of the model). -/
def Obligations.StepKeepsInv : Prop := ∀ s t, s.Inv → step s = .next t → t.Inv

/-- A fetch finds the ten bytes at the selected PC, once every line of the header and the word translates for the fetch and is in the
instruction cache: its header is aligned,
threads that hold it since they moved into the block hold the same, a thread that has just moved to it finds it valid, the debugger does not hold it, and the index is below its length (02 R47-R50; 06
R141). The step then runs the instruction these bytes decode to, on the path selected, and the stores it makes enter memory; bytes that
decode to nothing take the illegal-instruction trap (03 R76). A path chosen runs in its turn, and a second path of the same clock in the
next step (06 R144-R146); an event of the agenda, a result that is due and an event of the calendar come about first (log 2). -/
def Obligations.StepRunsDecoded : Prop :=
  (∀ s : State, ∀ p hb wb,
    let cache := s.cacheOf p.ctx
    let hw := BitVec.ofNat 64 (leNat hb)
    let fresh := (lanesOf p.lanes).any fun l => ((s.ctx p.ctx).lane l).fresh
    let here (va n : Nat) : Prop := ∀ l ∈ linesOf va n, (∃ pa lf, (s.fetchPlace p.ctx (max va (128 * l))).2 = .ok pa lf) ∧
      s.icMissing cache (max va (128 * l)) 1 = none
    here p.hdr.toNat 8 → here (p.hdr.toNat + 8 + 10 * p.idx) 10 →
    p.hdr.toNat % 16 = 0 → (s.knownHeader p = some hw ∨ s.knownHeader p = none) → s.icBytes cache p.hdr.toNat 8 = some hb →
    (fresh = true → headerTrap p.hdr hw = none ∧ (p.ctx.isCC = true ∨ s.holdsLaunch (s.ctx p.ctx).handle = false)) →
    p.idx < (Header.ofWord hw).len → s.icBytes cache (p.hdr.toNat + 8 + 10 * p.idx) 10 = some wb →
    s.fetch p = .word (leNat wb) hw) ∧
  (∀ s n p q w hw, s.agenda = [] → s.dueCtx = none → s.clockEvent = none → s.second = none → s.pick = some (n, p, q) →
    let u : State := { s.noteReady n p.ctx with turn := n + 1, second := q.map fun q => ⟨q.ctx, q.sub, q.lanes, 0⟩ }
    u.fetch p = .word w hw →
    (∀ i, decode w = some i → step s = committed s (exec i (((((u.fetchTouch p).hints p hw).select p hw).counted p.ctx).injectIssue p.ctx))) ∧
    (decode w = none → step s = committed s (execIllegal w (((((u.fetchTouch p).hints p hw).select p hw).counted p.ctx).injectIssue p.ctx)))) ∧
  (∀ s p q w hw, s.agenda = [] → s.dueCtx = none → s.clockEvent = none → s.second = some q →
    let u : State := { s with second := none }
    u.secondPath q = some p → u.fetch p = .word w hw →
    (∀ i, decode w = some i → step s = committed s (exec i (((((u.fetchTouch p).hints p hw).select p hw).counted p.ctx).injectIssue p.ctx))) ∧
    (decode w = none → step s = committed s (execIllegal w (((((u.fetchTouch p).hints p hw).select p hw).counted p.ctx).injectIssue p.ctx)))) ∧
  (∀ s e rest, s.agenda = e :: rest → step s = committed s (exec e { s with agenda := rest })) ∧
  (∀ s c, s.agenda = [] → s.dueCtx = some c → step s = committed s (exec (.fixedLatencyWriteback c) s)) ∧
  (∀ s e, s.agenda = [] → s.dueCtx = none → s.clockEvent = some e → step s = committed s (runAuto e s))
end

