-- ==== Sys2Proof/Laws/Masks.lean ====
section
/-! SUPPORT. Laws of lane masks. -/

set_option Elab.async false

namespace Sys2Proof

theorem mem_lanesOf {m : Word64} {l : Nat} : l ∈ lanesOf m ↔ l < 64 ∧ m.getLsbD l = true := by simp [lanesOf]

theorem nodup_lanesOf (m : Word64) : (lanesOf m).Nodup := List.Nodup.filter _ List.nodup_range

theorem lanesOf_zero : lanesOf 0 = [] := by simp [lanesOf]

/-- A fold that sets bits, at one bit. -/
theorem getLsbD_foldl_bits (f : Nat → Bool) (ls : List Nat) (m : Word64) (l : Nat) (hl : l < 64) :
    (ls.foldl (fun m i => if f i then m ||| (1#64 <<< i) else m) m).getLsbD l = (m.getLsbD l || (decide (l ∈ ls) && f l)) := by
  induction ls generalizing m with
  | nil => simp
  | cons i r ih =>
    rw [List.foldl_cons, ih]
    by_cases hi : f i
    · rw [if_pos hi]
      by_cases h : l = i
      · subst h; simp [hi, hl]
      · have h1 : (1#64 <<< i).getLsbD l = false := by
          simp only [BitVec.getLsbD_shiftLeft, hl, decide_true, Bool.true_and, BitVec.getLsbD_one]
          rcases Nat.lt_or_ge l i with h2 | h2
          · simp [h2]
          · simp; omega
        simp [h1, h]
    · rw [if_neg hi]
      by_cases h : l = i
      · subst h; simp [hi]
      · simp [h]

theorem getLsbD_maskOf (f : Nat → Bool) (l : Nat) : (maskOf f).getLsbD l = (decide (l < 64) && f l) := by
  by_cases hl : l < 64
  · rw [maskOf, getLsbD_foldl_bits f _ _ l hl]; simp [hl]
  · rw [BitVec.getLsbD_of_ge _ _ (by omega)]; simp [hl]

theorem mem_lanesOf_maskOf {f : Nat → Bool} {l : Nat} : l ∈ lanesOf (maskOf f) ↔ l < 64 ∧ f l = true := by
  rw [mem_lanesOf, getLsbD_maskOf]; simp

theorem lowestLane_isSome {m : Word64} (h : m ≠ 0) : ∃ l, lowestLane m = some l := by
  cases e : lanesOf m with
  | nil =>
    refine absurd ?_ h
    apply BitVec.eq_of_getLsbD_eq
    intro i hi
    have : ¬ i ∈ lanesOf m := by rw [e]; simp
    rw [mem_lanesOf] at this
    simpa [hi] using this
  | cons a r => exact ⟨a, by simp [lowestLane, e]⟩

theorem mem_lowestLane {m : Word64} {l : Nat} (h : lowestLane m = some l) : l ∈ lanesOf m := List.mem_of_head? h

end Sys2Proof
end

