-- ==== Sys2Proof/Laws/SMap.lean ====
section
/-! SUPPORT. Laws of sparse maps: a read after a write, and the canonical form under every write. -/

set_option Elab.async false

namespace Sys2Proof.SMap

variable {α : Type} (d : α)

theorem get_cons (a : Nat) (v : α) (r : SMap α) (k : Nat) :
    get d ((a, v) :: r) k = if k = a then v else if k < a then d else get d r k := rfl

/-- The entries a removal skips are not at a greater key. -/
theorem get_dropWhile (m : SMap α) (k k' : Nat) (h : k < k') :
    get d (m.dropWhile fun p => decide (p.1 ≤ k)) k' = get d m k' := by
  induction m with
  | nil => rfl
  | cons p r ih =>
    obtain ⟨a, v⟩ := p
    by_cases ha : a ≤ k
    · rw [List.dropWhile_cons_of_pos (by simpa using ha), ih, get_cons, if_neg (by omega), if_neg (by omega)]
    · rw [List.dropWhile_cons_of_neg (by simpa using ha)]

/-- Nothing at or below a key is left once its entries are dropped. -/
theorem get_dropWhile_le (m : SMap α) (k k' : Nat) (h : k' ≤ k) :
    get d (m.dropWhile fun p => decide (p.1 ≤ k)) k' = d := by
  induction m with
  | nil => rfl
  | cons p r ih =>
    obtain ⟨a, v⟩ := p
    by_cases ha : a ≤ k
    · rw [List.dropWhile_cons_of_pos (by simpa using ha), ih]
    · rw [List.dropWhile_cons_of_neg (by simpa using ha), get_cons, if_neg (by omega), if_pos (by omega)]

variable [DecidableEq α]

theorem get_set_same (m : SMap α) (k : Nat) (v : α) : get d (set d m k v) k = v := by
  induction m with
  | nil => unfold set; split <;> simp_all [get]
  | cons p r ih =>
    obtain ⟨a, w⟩ := p
    unfold set
    split
    · split
      · rw [get_cons, if_neg (by omega), if_pos (by omega)]; simp_all
      · rw [get_cons, if_pos rfl]
    · split
      · split
        · rw [get_dropWhile_le d r k k (le_refl k)]; simp_all
        · rw [get_cons, if_pos rfl]
      · rw [get_cons, if_neg (by assumption), if_neg (by assumption), ih]

theorem get_set_ne (m : SMap α) (k k' : Nat) (v : α) (h : k' ≠ k) : get d (set d m k v) k' = get d m k' := by
  induction m with
  | nil => unfold set; split <;> simp_all [get]
  | cons p r ih =>
    obtain ⟨a, w⟩ := p
    unfold set
    split
    · split
      · rfl
      · rw [get_cons d k v, if_neg h]
        split
        · rw [get_cons, if_neg (by omega), if_pos (by omega)]
        · rfl
    · split
      · rename_i e; subst e
        split
        · by_cases hk : k' < k
          · rw [get_cons, if_neg h, if_pos hk, get_dropWhile_le d r k k' (by omega)]
          · rw [get_dropWhile d r k k' (by omega), get_cons, if_neg h, if_neg hk]
        · simp only [get_cons, if_neg h]
      · simp only [get_cons, ih]

theorem get_set (m : SMap α) (k k' : Nat) (v : α) : get d (set d m k v) k' = if k' = k then v else get d m k' := by
  split
  · subst_vars; exact get_set_same d m _ v
  · exact get_set_ne d m k k' v (by assumption)

/-! ### The canonical form -/

theorem wfFrom_mono {m : SMap α} {lo lo' : Nat} (h : lo' ≤ lo) (w : wfFrom d lo m = true) : wfFrom d lo' m = true := by
  cases m with
  | nil => rfl
  | cons p r => obtain ⟨a, v⟩ := p; simp only [wfFrom, Bool.and_eq_true, decide_eq_true_eq] at *; exact ⟨⟨by omega, w.1.2⟩, w.2⟩

theorem dropWhile_of_wfFrom {m : SMap α} {k : Nat} (w : wfFrom d (k + 1) m = true) :
    (m.dropWhile fun p => decide (p.1 ≤ k)) = m := by
  cases m with
  | nil => rfl
  | cons p r =>
    obtain ⟨a, v⟩ := p
    simp only [wfFrom, Bool.and_eq_true, decide_eq_true_eq] at w
    exact List.dropWhile_cons_of_neg (by simp; omega)

theorem wfFrom_set {m : SMap α} {lo k : Nat} {v : α} (hk : lo ≤ k) (w : wfFrom d lo m = true) :
    wfFrom d lo (set d m k v) = true := by
  induction m generalizing lo with
  | nil => unfold set; split <;> simp_all [wfFrom]
  | cons p r ih =>
    obtain ⟨a, x⟩ := p
    simp only [wfFrom, Bool.and_eq_true, decide_eq_true_eq] at w
    unfold set
    split
    · split
      · simp [wfFrom, w]
      · simp only [wfFrom, Bool.and_eq_true, decide_eq_true_eq]
        exact ⟨⟨hk, by assumption⟩, ⟨by omega, w.1.2⟩, w.2⟩
    · split
      · subst_vars
        split
        · rw [dropWhile_of_wfFrom d w.2]; exact wfFrom_mono d (by omega) w.2
        · simp only [wfFrom, Bool.and_eq_true, decide_eq_true_eq]
          exact ⟨⟨hk, by assumption⟩, w.2⟩
      · simp only [wfFrom, Bool.and_eq_true, decide_eq_true_eq]
        exact ⟨⟨w.1.1, w.1.2⟩, ih (by omega) w.2⟩

/-- A write keeps the canonical form. -/
theorem wf_set {m : SMap α} (k : Nat) (v : α) (w : wf d m = true) : wf d (set d m k v) = true :=
  wfFrom_set d (Nat.zero_le k) w

/-- A list of writes keeps the canonical form. -/
theorem wf_setAll {m : SMap α} (l : List (Nat × α)) (w : wf d m = true) : wf d (setAll d m l) = true := by
  induction l generalizing m with
  | nil => exact w
  | cons p r ih => exact ih (wf_set d p.1 p.2 w)

end Sys2Proof.SMap
end

