-- ==== Sys2Proof/Laws/State.lean ====
section
/-! SUPPORT. The small laws of State and Ctx: what each named update leaves of every other field, and a read after a write. -/

namespace Sys2Proof.Machine

/-! ### State.setCtx -/

@[simp] theorem State.setCtx_agenda (s : State) (c : CtxId) (x : Ctx) : (s.setCtx c x).agenda = s.agenda := rfl
@[simp] theorem State.setCtx_second (s : State) (c : CtxId) (x : Ctx) : (s.setCtx c x).second = s.second := rfl
@[simp] theorem State.setCtx_sel (s : State) (c : CtxId) (x : Ctx) : (s.setCtx c x).sel = s.sel := rfl
@[simp] theorem State.setCtx_wlog (s : State) (c : CtxId) (x : Ctx) : (s.setCtx c x).wlog = s.wlog := rfl
@[simp] theorem State.setCtx_freeCtr (s : State) (c : CtxId) (x : Ctx) : (s.setCtx c x).freeCtr = s.freeCtr := rfl
@[simp] theorem State.setCtx_opId (s : State) (c : CtxId) (x : Ctx) : (s.setCtx c x).opId = s.opId := rfl
@[simp] theorem State.setCtx_lag (s : State) (c : CtxId) (x : Ctx) : (s.setCtx c x).lag = s.lag := rfl
@[simp] theorem State.setCtx_now (s : State) (c : CtxId) (x : Ctx) : (s.setCtx c x).now = s.now := rfl
@[simp] theorem State.setCtx_turn (s : State) (c : CtxId) (x : Ctx) : (s.setCtx c x).turn = s.turn := rfl
@[simp] theorem State.setCtx_stuck (s : State) (c : CtxId) (x : Ctx) : (s.setCtx c x).stuck = s.stuck := rfl
@[simp] theorem State.setCtx_mem (s : State) (c : CtxId) (x : Ctx) : (s.setCtx c x).mem = s.mem := rfl
@[simp] theorem State.setCtx_sys (s : State) (c : CtxId) (x : Ctx) : (s.setCtx c x).sys = s.sys := rfl
@[simp] theorem State.setCtx_skew (s : State) (c : CtxId) (x : Ctx) : (s.setCtx c x).skew = s.skew := rfl
@[simp] theorem State.setCtx_seen (s : State) (c : CtxId) (x : Ctx) : (s.setCtx c x).seen = s.seen := rfl
@[simp] theorem State.setCtx_la (s : State) (c : CtxId) (x : Ctx) : (s.setCtx c x).la = s.la := rfl
@[simp] theorem State.setCtx_ms (s : State) (c : CtxId) (x : Ctx) : (s.setCtx c x).ms = s.ms := rfl
@[simp] theorem State.setCtx_en (s : State) (c : CtxId) (x : Ctx) : (s.setCtx c x).en = s.en := rfl
@[simp] theorem State.setCtx_mx (s : State) (c : CtxId) (x : Ctx) : (s.setCtx c x).mx = s.mx := rfl
@[simp] theorem State.setCtx_cl (s : State) (c : CtxId) (x : Ctx) : (s.setCtx c x).cl = s.cl := rfl
@[simp] theorem State.setCtx_dr (s : State) (c : CtxId) (x : Ctx) : (s.setCtx c x).dr = s.dr := rfl
@[simp] theorem State.setCtx_fa (s : State) (c : CtxId) (x : Ctx) : (s.setCtx c x).fa = s.fa := rfl
@[simp] theorem State.setCtx_ca (s : State) (c : CtxId) (x : Ctx) : (s.setCtx c x).ca = s.ca := rfl
@[simp] theorem State.setCtx_ev (s : State) (c : CtxId) (x : Ctx) : (s.setCtx c x).ev = s.ev := rfl
@[simp] theorem State.setCtx_pw (s : State) (c : CtxId) (x : Ctx) : (s.setCtx c x).pw = s.pw := rfl
@[simp] theorem State.setCtx_se (s : State) (c : CtxId) (x : Ctx) : (s.setCtx c x).se = s.se := rfl

/-! ### State.modCtx -/

@[simp] theorem State.modCtx_agenda (s : State) (c : CtxId) (f : Ctx → Ctx) : (s.modCtx c f).agenda = s.agenda := rfl
@[simp] theorem State.modCtx_second (s : State) (c : CtxId) (f : Ctx → Ctx) : (s.modCtx c f).second = s.second := rfl
@[simp] theorem State.modCtx_sel (s : State) (c : CtxId) (f : Ctx → Ctx) : (s.modCtx c f).sel = s.sel := rfl
@[simp] theorem State.modCtx_wlog (s : State) (c : CtxId) (f : Ctx → Ctx) : (s.modCtx c f).wlog = s.wlog := rfl
@[simp] theorem State.modCtx_freeCtr (s : State) (c : CtxId) (f : Ctx → Ctx) : (s.modCtx c f).freeCtr = s.freeCtr := rfl
@[simp] theorem State.modCtx_opId (s : State) (c : CtxId) (f : Ctx → Ctx) : (s.modCtx c f).opId = s.opId := rfl
@[simp] theorem State.modCtx_lag (s : State) (c : CtxId) (f : Ctx → Ctx) : (s.modCtx c f).lag = s.lag := rfl
@[simp] theorem State.modCtx_now (s : State) (c : CtxId) (f : Ctx → Ctx) : (s.modCtx c f).now = s.now := rfl
@[simp] theorem State.modCtx_turn (s : State) (c : CtxId) (f : Ctx → Ctx) : (s.modCtx c f).turn = s.turn := rfl
@[simp] theorem State.modCtx_stuck (s : State) (c : CtxId) (f : Ctx → Ctx) : (s.modCtx c f).stuck = s.stuck := rfl
@[simp] theorem State.modCtx_mem (s : State) (c : CtxId) (f : Ctx → Ctx) : (s.modCtx c f).mem = s.mem := rfl
@[simp] theorem State.modCtx_sys (s : State) (c : CtxId) (f : Ctx → Ctx) : (s.modCtx c f).sys = s.sys := rfl
@[simp] theorem State.modCtx_skew (s : State) (c : CtxId) (f : Ctx → Ctx) : (s.modCtx c f).skew = s.skew := rfl
@[simp] theorem State.modCtx_seen (s : State) (c : CtxId) (f : Ctx → Ctx) : (s.modCtx c f).seen = s.seen := rfl
@[simp] theorem State.modCtx_la (s : State) (c : CtxId) (f : Ctx → Ctx) : (s.modCtx c f).la = s.la := rfl
@[simp] theorem State.modCtx_ms (s : State) (c : CtxId) (f : Ctx → Ctx) : (s.modCtx c f).ms = s.ms := rfl
@[simp] theorem State.modCtx_en (s : State) (c : CtxId) (f : Ctx → Ctx) : (s.modCtx c f).en = s.en := rfl
@[simp] theorem State.modCtx_mx (s : State) (c : CtxId) (f : Ctx → Ctx) : (s.modCtx c f).mx = s.mx := rfl
@[simp] theorem State.modCtx_cl (s : State) (c : CtxId) (f : Ctx → Ctx) : (s.modCtx c f).cl = s.cl := rfl
@[simp] theorem State.modCtx_dr (s : State) (c : CtxId) (f : Ctx → Ctx) : (s.modCtx c f).dr = s.dr := rfl
@[simp] theorem State.modCtx_fa (s : State) (c : CtxId) (f : Ctx → Ctx) : (s.modCtx c f).fa = s.fa := rfl
@[simp] theorem State.modCtx_ca (s : State) (c : CtxId) (f : Ctx → Ctx) : (s.modCtx c f).ca = s.ca := rfl
@[simp] theorem State.modCtx_ev (s : State) (c : CtxId) (f : Ctx → Ctx) : (s.modCtx c f).ev = s.ev := rfl
@[simp] theorem State.modCtx_pw (s : State) (c : CtxId) (f : Ctx → Ctx) : (s.modCtx c f).pw = s.pw := rfl
@[simp] theorem State.modCtx_se (s : State) (c : CtxId) (f : Ctx → Ctx) : (s.modCtx c f).se = s.se := rfl

/-! ### State.sysPut -/

@[simp] theorem State.sysPut_agenda (s : State) (r i : Nat) (v : Word64) : (s.sysPut r i v).agenda = s.agenda := rfl
@[simp] theorem State.sysPut_second (s : State) (r i : Nat) (v : Word64) : (s.sysPut r i v).second = s.second := rfl
@[simp] theorem State.sysPut_sel (s : State) (r i : Nat) (v : Word64) : (s.sysPut r i v).sel = s.sel := rfl
@[simp] theorem State.sysPut_wlog (s : State) (r i : Nat) (v : Word64) : (s.sysPut r i v).wlog = s.wlog := rfl
@[simp] theorem State.sysPut_freeCtr (s : State) (r i : Nat) (v : Word64) : (s.sysPut r i v).freeCtr = s.freeCtr := rfl
@[simp] theorem State.sysPut_opId (s : State) (r i : Nat) (v : Word64) : (s.sysPut r i v).opId = s.opId := rfl
@[simp] theorem State.sysPut_lag (s : State) (r i : Nat) (v : Word64) : (s.sysPut r i v).lag = s.lag := rfl
@[simp] theorem State.sysPut_now (s : State) (r i : Nat) (v : Word64) : (s.sysPut r i v).now = s.now := rfl
@[simp] theorem State.sysPut_turn (s : State) (r i : Nat) (v : Word64) : (s.sysPut r i v).turn = s.turn := rfl
@[simp] theorem State.sysPut_stuck (s : State) (r i : Nat) (v : Word64) : (s.sysPut r i v).stuck = s.stuck := rfl
@[simp] theorem State.sysPut_mem (s : State) (r i : Nat) (v : Word64) : (s.sysPut r i v).mem = s.mem := rfl
@[simp] theorem State.sysPut_ctxs (s : State) (r i : Nat) (v : Word64) : (s.sysPut r i v).ctxs = s.ctxs := rfl
@[simp] theorem State.sysPut_skew (s : State) (r i : Nat) (v : Word64) : (s.sysPut r i v).skew = s.skew := rfl
@[simp] theorem State.sysPut_seen (s : State) (r i : Nat) (v : Word64) : (s.sysPut r i v).seen = s.seen := rfl
@[simp] theorem State.sysPut_la (s : State) (r i : Nat) (v : Word64) : (s.sysPut r i v).la = s.la := rfl
@[simp] theorem State.sysPut_ms (s : State) (r i : Nat) (v : Word64) : (s.sysPut r i v).ms = s.ms := rfl
@[simp] theorem State.sysPut_en (s : State) (r i : Nat) (v : Word64) : (s.sysPut r i v).en = s.en := rfl
@[simp] theorem State.sysPut_mx (s : State) (r i : Nat) (v : Word64) : (s.sysPut r i v).mx = s.mx := rfl
@[simp] theorem State.sysPut_cl (s : State) (r i : Nat) (v : Word64) : (s.sysPut r i v).cl = s.cl := rfl
@[simp] theorem State.sysPut_dr (s : State) (r i : Nat) (v : Word64) : (s.sysPut r i v).dr = s.dr := rfl
@[simp] theorem State.sysPut_fa (s : State) (r i : Nat) (v : Word64) : (s.sysPut r i v).fa = s.fa := rfl
@[simp] theorem State.sysPut_ca (s : State) (r i : Nat) (v : Word64) : (s.sysPut r i v).ca = s.ca := rfl
@[simp] theorem State.sysPut_ev (s : State) (r i : Nat) (v : Word64) : (s.sysPut r i v).ev = s.ev := rfl
@[simp] theorem State.sysPut_pw (s : State) (r i : Nat) (v : Word64) : (s.sysPut r i v).pw = s.pw := rfl
@[simp] theorem State.sysPut_se (s : State) (r i : Nat) (v : Word64) : (s.sysPut r i v).se = s.se := rfl

/-! ### Ctx.setLane -/

@[simp] theorem Ctx.setLane_live (c : Ctx) (l : Nat) (x : Lane) : (c.setLane l x).live = c.live := rfl
@[simp] theorem Ctx.setLane_run (c : Ctx) (l : Nat) (x : Lane) : (c.setLane l x).run = c.run := rfl
@[simp] theorem Ctx.setLane_gid (c : Ctx) (l : Nat) (x : Lane) : (c.setLane l x).gid = c.gid := rfl
@[simp] theorem Ctx.setLane_handle (c : Ctx) (l : Nat) (x : Lane) : (c.setLane l x).handle = c.handle := rfl
@[simp] theorem Ctx.setLane_core (c : Ctx) (l : Nat) (x : Lane) : (c.setLane l x).core = c.core := rfl
@[simp] theorem Ctx.setLane_part (c : Ctx) (l : Nat) (x : Lane) : (c.setLane l x).part = c.part := rfl
@[simp] theorem Ctx.setLane_slot (c : Ctx) (l : Nat) (x : Lane) : (c.setLane l x).slot = c.slot := rfl
@[simp] theorem Ctx.setLane_regBase (c : Ctx) (l : Nat) (x : Lane) : (c.setLane l x).regBase = c.regBase := rfl
@[simp] theorem Ctx.setLane_regCode (c : Ctx) (l : Nat) (x : Lane) : (c.setLane l x).regCode = c.regCode := rfl
@[simp] theorem Ctx.setLane_age (c : Ctx) (l : Nat) (x : Lane) : (c.setLane l x).age = c.age := rfl
@[simp] theorem Ctx.setLane_prio (c : Ctx) (l : Nat) (x : Lane) : (c.setLane l x).prio = c.prio := rfl
@[simp] theorem Ctx.setLane_urgent (c : Ctx) (l : Nat) (x : Lane) : (c.setLane l x).urgent = c.urgent := rfl
@[simp] theorem Ctx.setLane_ready (c : Ctx) (l : Nat) (x : Lane) : (c.setLane l x).ready = c.ready := rfl
@[simp] theorem Ctx.setLane_readySince (c : Ctx) (l : Nat) (x : Lane) : (c.setLane l x).readySince = c.readySince := rfl
@[simp] theorem Ctx.setLane_starved (c : Ctx) (l : Nat) (x : Lane) : (c.setLane l x).starved = c.starved := rfl
@[simp] theorem Ctx.setLane_issued (c : Ctx) (l : Nat) (x : Lane) : (c.setLane l x).issued = c.issued := rfl
@[simp] theorem Ctx.setLane_g (c : Ctx) (l : Nat) (x : Lane) : (c.setLane l x).g = c.g := rfl
@[simp] theorem Ctx.setLane_e (c : Ctx) (l : Nat) (x : Lane) : (c.setLane l x).e = c.e := rfl
@[simp] theorem Ctx.setLane_k (c : Ctx) (l : Nat) (x : Lane) : (c.setLane l x).k = c.k := rfl
@[simp] theorem Ctx.setLane_b (c : Ctx) (l : Nat) (x : Lane) : (c.setLane l x).b = c.b := rfl
@[simp] theorem Ctx.setLane_fp (c : Ctx) (l : Nat) (x : Lane) : (c.setLane l x).fp = c.fp := rfl
@[simp] theorem Ctx.setLane_rcv (c : Ctx) (l : Nat) (x : Lane) : (c.setLane l x).rcv = c.rcv := rfl
@[simp] theorem Ctx.setLane_subs (c : Ctx) (l : Nat) (x : Lane) : (c.setLane l x).subs = c.subs := rfl
@[simp] theorem Ctx.setLane_wbs (c : Ctx) (l : Nat) (x : Lane) : (c.setLane l x).wbs = c.wbs := rfl
@[simp] theorem Ctx.setLane_regx (c : Ctx) (l : Nat) (x : Lane) : (c.setLane l x).regx = c.regx := rfl
@[simp] theorem Ctx.setLane_saving (c : Ctx) (l : Nat) (x : Lane) : (c.setLane l x).saving = c.saving := rfl

/-! ### Ctx.modLane -/

@[simp] theorem Ctx.modLane_live (c : Ctx) (l : Nat) (f : Lane → Lane) : (c.modLane l f).live = c.live := rfl
@[simp] theorem Ctx.modLane_run (c : Ctx) (l : Nat) (f : Lane → Lane) : (c.modLane l f).run = c.run := rfl
@[simp] theorem Ctx.modLane_gid (c : Ctx) (l : Nat) (f : Lane → Lane) : (c.modLane l f).gid = c.gid := rfl
@[simp] theorem Ctx.modLane_handle (c : Ctx) (l : Nat) (f : Lane → Lane) : (c.modLane l f).handle = c.handle := rfl
@[simp] theorem Ctx.modLane_core (c : Ctx) (l : Nat) (f : Lane → Lane) : (c.modLane l f).core = c.core := rfl
@[simp] theorem Ctx.modLane_part (c : Ctx) (l : Nat) (f : Lane → Lane) : (c.modLane l f).part = c.part := rfl
@[simp] theorem Ctx.modLane_slot (c : Ctx) (l : Nat) (f : Lane → Lane) : (c.modLane l f).slot = c.slot := rfl
@[simp] theorem Ctx.modLane_regBase (c : Ctx) (l : Nat) (f : Lane → Lane) : (c.modLane l f).regBase = c.regBase := rfl
@[simp] theorem Ctx.modLane_regCode (c : Ctx) (l : Nat) (f : Lane → Lane) : (c.modLane l f).regCode = c.regCode := rfl
@[simp] theorem Ctx.modLane_age (c : Ctx) (l : Nat) (f : Lane → Lane) : (c.modLane l f).age = c.age := rfl
@[simp] theorem Ctx.modLane_prio (c : Ctx) (l : Nat) (f : Lane → Lane) : (c.modLane l f).prio = c.prio := rfl
@[simp] theorem Ctx.modLane_urgent (c : Ctx) (l : Nat) (f : Lane → Lane) : (c.modLane l f).urgent = c.urgent := rfl
@[simp] theorem Ctx.modLane_ready (c : Ctx) (l : Nat) (f : Lane → Lane) : (c.modLane l f).ready = c.ready := rfl
@[simp] theorem Ctx.modLane_readySince (c : Ctx) (l : Nat) (f : Lane → Lane) : (c.modLane l f).readySince = c.readySince := rfl
@[simp] theorem Ctx.modLane_starved (c : Ctx) (l : Nat) (f : Lane → Lane) : (c.modLane l f).starved = c.starved := rfl
@[simp] theorem Ctx.modLane_issued (c : Ctx) (l : Nat) (f : Lane → Lane) : (c.modLane l f).issued = c.issued := rfl
@[simp] theorem Ctx.modLane_g (c : Ctx) (l : Nat) (f : Lane → Lane) : (c.modLane l f).g = c.g := rfl
@[simp] theorem Ctx.modLane_e (c : Ctx) (l : Nat) (f : Lane → Lane) : (c.modLane l f).e = c.e := rfl
@[simp] theorem Ctx.modLane_k (c : Ctx) (l : Nat) (f : Lane → Lane) : (c.modLane l f).k = c.k := rfl
@[simp] theorem Ctx.modLane_b (c : Ctx) (l : Nat) (f : Lane → Lane) : (c.modLane l f).b = c.b := rfl
@[simp] theorem Ctx.modLane_fp (c : Ctx) (l : Nat) (f : Lane → Lane) : (c.modLane l f).fp = c.fp := rfl
@[simp] theorem Ctx.modLane_rcv (c : Ctx) (l : Nat) (f : Lane → Lane) : (c.modLane l f).rcv = c.rcv := rfl
@[simp] theorem Ctx.modLane_subs (c : Ctx) (l : Nat) (f : Lane → Lane) : (c.modLane l f).subs = c.subs := rfl
@[simp] theorem Ctx.modLane_wbs (c : Ctx) (l : Nat) (f : Lane → Lane) : (c.modLane l f).wbs = c.wbs := rfl
@[simp] theorem Ctx.modLane_regx (c : Ctx) (l : Nat) (f : Lane → Lane) : (c.modLane l f).regx = c.regx := rfl
@[simp] theorem Ctx.modLane_saving (c : Ctx) (l : Nat) (f : Lane → Lane) : (c.modLane l f).saving = c.saving := rfl

/-! ### Ctx.putReg -/

@[simp] theorem Ctx.putReg_live (c : Ctx) (l r : Nat) (v : Word) : (c.putReg l r v).live = c.live := rfl
@[simp] theorem Ctx.putReg_run (c : Ctx) (l r : Nat) (v : Word) : (c.putReg l r v).run = c.run := rfl
@[simp] theorem Ctx.putReg_gid (c : Ctx) (l r : Nat) (v : Word) : (c.putReg l r v).gid = c.gid := rfl
@[simp] theorem Ctx.putReg_handle (c : Ctx) (l r : Nat) (v : Word) : (c.putReg l r v).handle = c.handle := rfl
@[simp] theorem Ctx.putReg_core (c : Ctx) (l r : Nat) (v : Word) : (c.putReg l r v).core = c.core := rfl
@[simp] theorem Ctx.putReg_part (c : Ctx) (l r : Nat) (v : Word) : (c.putReg l r v).part = c.part := rfl
@[simp] theorem Ctx.putReg_slot (c : Ctx) (l r : Nat) (v : Word) : (c.putReg l r v).slot = c.slot := rfl
@[simp] theorem Ctx.putReg_regBase (c : Ctx) (l r : Nat) (v : Word) : (c.putReg l r v).regBase = c.regBase := rfl
@[simp] theorem Ctx.putReg_regCode (c : Ctx) (l r : Nat) (v : Word) : (c.putReg l r v).regCode = c.regCode := rfl
@[simp] theorem Ctx.putReg_age (c : Ctx) (l r : Nat) (v : Word) : (c.putReg l r v).age = c.age := rfl
@[simp] theorem Ctx.putReg_prio (c : Ctx) (l r : Nat) (v : Word) : (c.putReg l r v).prio = c.prio := rfl
@[simp] theorem Ctx.putReg_urgent (c : Ctx) (l r : Nat) (v : Word) : (c.putReg l r v).urgent = c.urgent := rfl
@[simp] theorem Ctx.putReg_ready (c : Ctx) (l r : Nat) (v : Word) : (c.putReg l r v).ready = c.ready := rfl
@[simp] theorem Ctx.putReg_readySince (c : Ctx) (l r : Nat) (v : Word) : (c.putReg l r v).readySince = c.readySince := rfl
@[simp] theorem Ctx.putReg_starved (c : Ctx) (l r : Nat) (v : Word) : (c.putReg l r v).starved = c.starved := rfl
@[simp] theorem Ctx.putReg_issued (c : Ctx) (l r : Nat) (v : Word) : (c.putReg l r v).issued = c.issued := rfl
@[simp] theorem Ctx.putReg_lanes (c : Ctx) (l r : Nat) (v : Word) : (c.putReg l r v).lanes = c.lanes := rfl
@[simp] theorem Ctx.putReg_k (c : Ctx) (l r : Nat) (v : Word) : (c.putReg l r v).k = c.k := rfl
@[simp] theorem Ctx.putReg_b (c : Ctx) (l r : Nat) (v : Word) : (c.putReg l r v).b = c.b := rfl
@[simp] theorem Ctx.putReg_fp (c : Ctx) (l r : Nat) (v : Word) : (c.putReg l r v).fp = c.fp := rfl
@[simp] theorem Ctx.putReg_rcv (c : Ctx) (l r : Nat) (v : Word) : (c.putReg l r v).rcv = c.rcv := rfl
@[simp] theorem Ctx.putReg_subs (c : Ctx) (l r : Nat) (v : Word) : (c.putReg l r v).subs = c.subs := rfl
@[simp] theorem Ctx.putReg_wbs (c : Ctx) (l r : Nat) (v : Word) : (c.putReg l r v).wbs = c.wbs := rfl
@[simp] theorem Ctx.putReg_regx (c : Ctx) (l r : Nat) (v : Word) : (c.putReg l r v).regx = c.regx := rfl
@[simp] theorem Ctx.putReg_saving (c : Ctx) (l r : Nat) (v : Word) : (c.putReg l r v).saving = c.saving := rfl

/-! ### Ctx.markEmpty -/

@[simp] theorem Ctx.markEmpty_live (c : Ctx) (l r : Nat) : (c.markEmpty l r).live = c.live := rfl
@[simp] theorem Ctx.markEmpty_run (c : Ctx) (l r : Nat) : (c.markEmpty l r).run = c.run := rfl
@[simp] theorem Ctx.markEmpty_gid (c : Ctx) (l r : Nat) : (c.markEmpty l r).gid = c.gid := rfl
@[simp] theorem Ctx.markEmpty_handle (c : Ctx) (l r : Nat) : (c.markEmpty l r).handle = c.handle := rfl
@[simp] theorem Ctx.markEmpty_core (c : Ctx) (l r : Nat) : (c.markEmpty l r).core = c.core := rfl
@[simp] theorem Ctx.markEmpty_part (c : Ctx) (l r : Nat) : (c.markEmpty l r).part = c.part := rfl
@[simp] theorem Ctx.markEmpty_slot (c : Ctx) (l r : Nat) : (c.markEmpty l r).slot = c.slot := rfl
@[simp] theorem Ctx.markEmpty_regBase (c : Ctx) (l r : Nat) : (c.markEmpty l r).regBase = c.regBase := rfl
@[simp] theorem Ctx.markEmpty_regCode (c : Ctx) (l r : Nat) : (c.markEmpty l r).regCode = c.regCode := rfl
@[simp] theorem Ctx.markEmpty_age (c : Ctx) (l r : Nat) : (c.markEmpty l r).age = c.age := rfl
@[simp] theorem Ctx.markEmpty_prio (c : Ctx) (l r : Nat) : (c.markEmpty l r).prio = c.prio := rfl
@[simp] theorem Ctx.markEmpty_urgent (c : Ctx) (l r : Nat) : (c.markEmpty l r).urgent = c.urgent := rfl
@[simp] theorem Ctx.markEmpty_ready (c : Ctx) (l r : Nat) : (c.markEmpty l r).ready = c.ready := rfl
@[simp] theorem Ctx.markEmpty_readySince (c : Ctx) (l r : Nat) : (c.markEmpty l r).readySince = c.readySince := rfl
@[simp] theorem Ctx.markEmpty_starved (c : Ctx) (l r : Nat) : (c.markEmpty l r).starved = c.starved := rfl
@[simp] theorem Ctx.markEmpty_issued (c : Ctx) (l r : Nat) : (c.markEmpty l r).issued = c.issued := rfl
@[simp] theorem Ctx.markEmpty_lanes (c : Ctx) (l r : Nat) : (c.markEmpty l r).lanes = c.lanes := rfl
@[simp] theorem Ctx.markEmpty_g (c : Ctx) (l r : Nat) : (c.markEmpty l r).g = c.g := rfl
@[simp] theorem Ctx.markEmpty_k (c : Ctx) (l r : Nat) : (c.markEmpty l r).k = c.k := rfl
@[simp] theorem Ctx.markEmpty_b (c : Ctx) (l r : Nat) : (c.markEmpty l r).b = c.b := rfl
@[simp] theorem Ctx.markEmpty_fp (c : Ctx) (l r : Nat) : (c.markEmpty l r).fp = c.fp := rfl
@[simp] theorem Ctx.markEmpty_rcv (c : Ctx) (l r : Nat) : (c.markEmpty l r).rcv = c.rcv := rfl
@[simp] theorem Ctx.markEmpty_subs (c : Ctx) (l r : Nat) : (c.markEmpty l r).subs = c.subs := rfl
@[simp] theorem Ctx.markEmpty_wbs (c : Ctx) (l r : Nat) : (c.markEmpty l r).wbs = c.wbs := rfl
@[simp] theorem Ctx.markEmpty_regx (c : Ctx) (l r : Nat) : (c.markEmpty l r).regx = c.regx := rfl
@[simp] theorem Ctx.markEmpty_saving (c : Ctx) (l r : Nat) : (c.markEmpty l r).saving = c.saving := rfl

/-! ### Ctx.putRecSlot -/

@[simp] theorem Ctx.putRecSlot_live (c : Ctx) (j n : Nat) (v : Rec256) : (c.putRecSlot j n v).live = c.live := rfl
@[simp] theorem Ctx.putRecSlot_run (c : Ctx) (j n : Nat) (v : Rec256) : (c.putRecSlot j n v).run = c.run := rfl
@[simp] theorem Ctx.putRecSlot_gid (c : Ctx) (j n : Nat) (v : Rec256) : (c.putRecSlot j n v).gid = c.gid := rfl
@[simp] theorem Ctx.putRecSlot_handle (c : Ctx) (j n : Nat) (v : Rec256) : (c.putRecSlot j n v).handle = c.handle := rfl
@[simp] theorem Ctx.putRecSlot_core (c : Ctx) (j n : Nat) (v : Rec256) : (c.putRecSlot j n v).core = c.core := rfl
@[simp] theorem Ctx.putRecSlot_part (c : Ctx) (j n : Nat) (v : Rec256) : (c.putRecSlot j n v).part = c.part := rfl
@[simp] theorem Ctx.putRecSlot_slot (c : Ctx) (j n : Nat) (v : Rec256) : (c.putRecSlot j n v).slot = c.slot := rfl
@[simp] theorem Ctx.putRecSlot_regBase (c : Ctx) (j n : Nat) (v : Rec256) : (c.putRecSlot j n v).regBase = c.regBase := rfl
@[simp] theorem Ctx.putRecSlot_regCode (c : Ctx) (j n : Nat) (v : Rec256) : (c.putRecSlot j n v).regCode = c.regCode := rfl
@[simp] theorem Ctx.putRecSlot_age (c : Ctx) (j n : Nat) (v : Rec256) : (c.putRecSlot j n v).age = c.age := rfl
@[simp] theorem Ctx.putRecSlot_prio (c : Ctx) (j n : Nat) (v : Rec256) : (c.putRecSlot j n v).prio = c.prio := rfl
@[simp] theorem Ctx.putRecSlot_urgent (c : Ctx) (j n : Nat) (v : Rec256) : (c.putRecSlot j n v).urgent = c.urgent := rfl
@[simp] theorem Ctx.putRecSlot_ready (c : Ctx) (j n : Nat) (v : Rec256) : (c.putRecSlot j n v).ready = c.ready := rfl
@[simp] theorem Ctx.putRecSlot_readySince (c : Ctx) (j n : Nat) (v : Rec256) : (c.putRecSlot j n v).readySince = c.readySince := rfl
@[simp] theorem Ctx.putRecSlot_starved (c : Ctx) (j n : Nat) (v : Rec256) : (c.putRecSlot j n v).starved = c.starved := rfl
@[simp] theorem Ctx.putRecSlot_issued (c : Ctx) (j n : Nat) (v : Rec256) : (c.putRecSlot j n v).issued = c.issued := rfl
@[simp] theorem Ctx.putRecSlot_lanes (c : Ctx) (j n : Nat) (v : Rec256) : (c.putRecSlot j n v).lanes = c.lanes := rfl
@[simp] theorem Ctx.putRecSlot_g (c : Ctx) (j n : Nat) (v : Rec256) : (c.putRecSlot j n v).g = c.g := rfl
@[simp] theorem Ctx.putRecSlot_e (c : Ctx) (j n : Nat) (v : Rec256) : (c.putRecSlot j n v).e = c.e := rfl
@[simp] theorem Ctx.putRecSlot_k (c : Ctx) (j n : Nat) (v : Rec256) : (c.putRecSlot j n v).k = c.k := rfl
@[simp] theorem Ctx.putRecSlot_fp (c : Ctx) (j n : Nat) (v : Rec256) : (c.putRecSlot j n v).fp = c.fp := rfl
@[simp] theorem Ctx.putRecSlot_rcv (c : Ctx) (j n : Nat) (v : Rec256) : (c.putRecSlot j n v).rcv = c.rcv := rfl
@[simp] theorem Ctx.putRecSlot_subs (c : Ctx) (j n : Nat) (v : Rec256) : (c.putRecSlot j n v).subs = c.subs := rfl
@[simp] theorem Ctx.putRecSlot_wbs (c : Ctx) (j n : Nat) (v : Rec256) : (c.putRecSlot j n v).wbs = c.wbs := rfl
@[simp] theorem Ctx.putRecSlot_regx (c : Ctx) (j n : Nat) (v : Rec256) : (c.putRecSlot j n v).regx = c.regx := rfl
@[simp] theorem Ctx.putRecSlot_saving (c : Ctx) (j n : Nat) (v : Rec256) : (c.putRecSlot j n v).saving = c.saving := rfl

/-! ### Ctx.setSub -/

@[simp] theorem Ctx.setSub_live (c : Ctx) (j : Nat) (x : Sub) : (c.setSub j x).live = c.live := rfl
@[simp] theorem Ctx.setSub_run (c : Ctx) (j : Nat) (x : Sub) : (c.setSub j x).run = c.run := rfl
@[simp] theorem Ctx.setSub_gid (c : Ctx) (j : Nat) (x : Sub) : (c.setSub j x).gid = c.gid := rfl
@[simp] theorem Ctx.setSub_handle (c : Ctx) (j : Nat) (x : Sub) : (c.setSub j x).handle = c.handle := rfl
@[simp] theorem Ctx.setSub_core (c : Ctx) (j : Nat) (x : Sub) : (c.setSub j x).core = c.core := rfl
@[simp] theorem Ctx.setSub_part (c : Ctx) (j : Nat) (x : Sub) : (c.setSub j x).part = c.part := rfl
@[simp] theorem Ctx.setSub_slot (c : Ctx) (j : Nat) (x : Sub) : (c.setSub j x).slot = c.slot := rfl
@[simp] theorem Ctx.setSub_regBase (c : Ctx) (j : Nat) (x : Sub) : (c.setSub j x).regBase = c.regBase := rfl
@[simp] theorem Ctx.setSub_regCode (c : Ctx) (j : Nat) (x : Sub) : (c.setSub j x).regCode = c.regCode := rfl
@[simp] theorem Ctx.setSub_age (c : Ctx) (j : Nat) (x : Sub) : (c.setSub j x).age = c.age := rfl
@[simp] theorem Ctx.setSub_prio (c : Ctx) (j : Nat) (x : Sub) : (c.setSub j x).prio = c.prio := rfl
@[simp] theorem Ctx.setSub_urgent (c : Ctx) (j : Nat) (x : Sub) : (c.setSub j x).urgent = c.urgent := rfl
@[simp] theorem Ctx.setSub_ready (c : Ctx) (j : Nat) (x : Sub) : (c.setSub j x).ready = c.ready := rfl
@[simp] theorem Ctx.setSub_readySince (c : Ctx) (j : Nat) (x : Sub) : (c.setSub j x).readySince = c.readySince := rfl
@[simp] theorem Ctx.setSub_starved (c : Ctx) (j : Nat) (x : Sub) : (c.setSub j x).starved = c.starved := rfl
@[simp] theorem Ctx.setSub_issued (c : Ctx) (j : Nat) (x : Sub) : (c.setSub j x).issued = c.issued := rfl
@[simp] theorem Ctx.setSub_lanes (c : Ctx) (j : Nat) (x : Sub) : (c.setSub j x).lanes = c.lanes := rfl
@[simp] theorem Ctx.setSub_g (c : Ctx) (j : Nat) (x : Sub) : (c.setSub j x).g = c.g := rfl
@[simp] theorem Ctx.setSub_e (c : Ctx) (j : Nat) (x : Sub) : (c.setSub j x).e = c.e := rfl
@[simp] theorem Ctx.setSub_k (c : Ctx) (j : Nat) (x : Sub) : (c.setSub j x).k = c.k := rfl
@[simp] theorem Ctx.setSub_b (c : Ctx) (j : Nat) (x : Sub) : (c.setSub j x).b = c.b := rfl
@[simp] theorem Ctx.setSub_fp (c : Ctx) (j : Nat) (x : Sub) : (c.setSub j x).fp = c.fp := rfl
@[simp] theorem Ctx.setSub_rcv (c : Ctx) (j : Nat) (x : Sub) : (c.setSub j x).rcv = c.rcv := rfl
@[simp] theorem Ctx.setSub_wbs (c : Ctx) (j : Nat) (x : Sub) : (c.setSub j x).wbs = c.wbs := rfl
@[simp] theorem Ctx.setSub_regx (c : Ctx) (j : Nat) (x : Sub) : (c.setSub j x).regx = c.regx := rfl
@[simp] theorem Ctx.setSub_saving (c : Ctx) (j : Nat) (x : Sub) : (c.setSub j x).saving = c.saving := rfl

/-! ### Reads after writes -/

theorem State.ctx_setCtx (s : State) (c k : CtxId) (x : Ctx) :
    (s.setCtx c x).ctx k = if ctxKey k = ctxKey c then x else s.ctx k := SMap.get_set _ _ _ _ _

@[simp] theorem State.ctx_setCtx_same (s : State) (c : CtxId) (x : Ctx) : (s.setCtx c x).ctx c = x := SMap.get_set_same _ _ _ _

@[simp] theorem State.ctx_modCtx_same (s : State) (c : CtxId) (f : Ctx → Ctx) : (s.modCtx c f).ctx c = f (s.ctx c) :=
  SMap.get_set_same _ _ _ _

theorem State.ctx_setCtx_ne (s : State) {c k : CtxId} (x : Ctx) (h : ctxKey k ≠ ctxKey c) : (s.setCtx c x).ctx k = s.ctx k :=
  SMap.get_set_ne _ _ _ _ _ h

theorem State.ctx_modCtx_ne (s : State) {c k : CtxId} (f : Ctx → Ctx) (h : ctxKey k ≠ ctxKey c) :
    (s.modCtx c f).ctx k = s.ctx k := SMap.get_set_ne _ _ _ _ _ h

theorem Ctx.lane_setLane (c : Ctx) (l k : Nat) (x : Lane) : (c.setLane l x).lane k = if k = l then x else c.lane k :=
  SMap.get_set _ _ _ _ _

theorem Ctx.lane_modLane (c : Ctx) (l k : Nat) (f : Lane → Lane) :
    (c.modLane l f).lane k = if k = l then f (c.lane l) else c.lane k := Ctx.lane_setLane c l k _

theorem Ctx.recSlot_putRecSlot (c : Ctx) (j n i m : Nat) (v : Rec256) :
    (c.putRecSlot j n v).recSlot i m = if 16 * i + m = 16 * j + n then v else c.recSlot i m := SMap.get_set _ _ _ _ _

theorem Ctx.reg_putReg (c : Ctx) (l r k m : Nat) (v : Word) :
    (c.putReg l r v).reg k m = if 256 * k + m = 256 * l + r then v else c.reg k m := SMap.get_set _ _ _ _ _

theorem Ctx.empty_putReg (c : Ctx) (l r k m : Nat) (v : Word) :
    (c.putReg l r v).empty k m = if 256 * k + m = 256 * l + r then false else c.empty k m := SMap.get_set _ _ _ _ _

theorem Ctx.empty_markEmpty (c : Ctx) (l r k m : Nat) :
    (c.markEmpty l r).empty k m = if 256 * k + m = 256 * l + r then true else c.empty k m := SMap.get_set _ _ _ _ _

/-- A register read back after it is written; what the register's home holds is the written value. -/
theorem State.sysGet_sysPut_same (s : State) (r i : Nat) (v : Word64) : (s.sysPut r i v).sysGet r i = v := by
  unfold State.sysGet State.sysPut
  rw [SMap.get_set_same]
  split <;> simp_all

theorem State.sysGet_sysPut_ne (s : State) {r i r' i' : Nat} (v : Word64) (h : sysKey r' i' ≠ sysKey r i) :
    (s.sysPut r i v).sysGet r' i' = s.sysGet r' i' := by
  unfold State.sysGet State.sysPut
  rw [SMap.get_set_ne _ _ _ _ _ h]

@[simp] theorem State.ctx_sysPut (s : State) (r i : Nat) (v : Word64) (c : CtxId) : (s.sysPut r i v).ctx c = s.ctx c := rfl

@[simp] theorem State.sysGet_setCtx (s : State) (c : CtxId) (x : Ctx) (r i : Nat) : (s.setCtx c x).sysGet r i = s.sysGet r i := rfl

@[simp] theorem State.sysGet_modCtx (s : State) (c : CtxId) (f : Ctx → Ctx) (r i : Nat) :
    (s.modCtx c f).sysGet r i = s.sysGet r i := rfl

/-! ### Several lanes -/

/-- The threads of several lanes changed: each of them once, the others not. -/
theorem Ctx.lane_modLanes (c : Ctx) (ls : List Nat) (f : Nat → Lane → Lane) (h : ls.Nodup) (k : Nat) :
    (c.modLanes ls f).lane k = if k ∈ ls then f k (c.lane k) else c.lane k := by
  unfold Ctx.modLanes
  induction ls generalizing c with
  | nil => simp
  | cons a r ih =>
    rw [List.nodup_cons] at h
    rw [List.foldl_cons, ih _ h.2, Ctx.lane_modLane]
    by_cases ha : k = a
    · subst ha; simp [h.1]
    · simp [ha]

/-- Changing threads leaves the rest of the agent. -/
theorem Ctx.modLanes_rest (c : Ctx) (ls : List Nat) (f : Nat → Lane → Lane) :
    { c.modLanes ls f with lanes := c.lanes } = c := by
  unfold Ctx.modLanes
  induction ls generalizing c with
  | nil => rfl
  | cons a r ih =>
    have h := ih (c.modLane a (f a))
    rw [List.foldl_cons]
    exact congrArg (fun x : Ctx => { x with lanes := c.lanes }) h

end Sys2Proof.Machine
end

