-- ==== Sys2Proof/Laws/Finish.lean ====
section
/-! SUPPORT. What the end of an issue can do: threads move past their word, and reconvergence entries and barriers are settled; the
registers, memory and every other agent are left as they are. -/

set_option Elab.async false

namespace Sys2Proof.Machine

/-! ### Only one agent differs -/

theorem OnlyCtx.refl (c : CtxId) (s : State) : OnlyCtx c s s := ⟨rfl, fun _ _ => rfl⟩

theorem OnlyCtx.trans {c : CtxId} {s t u : State} (h : OnlyCtx c s t) (k : OnlyCtx c t u) : OnlyCtx c s u := by
  refine ⟨?_, fun i hi => (k.others i hi).trans (h.others i hi)⟩
  have h1 := h.rest
  rw [← k.rest] at h1
  exact h1

theorem OnlyCtx.setCtx (c : CtxId) (s : State) (x : Ctx) : OnlyCtx c s (s.setCtx c x) :=
  ⟨rfl, fun _ h => State.ctx_setCtx_ne s x h⟩

theorem OnlyCtx.modCtx (c : CtxId) (s : State) (f : Ctx → Ctx) : OnlyCtx c s (s.modCtx c f) := OnlyCtx.setCtx c s _

theorem OnlyCtx.stuck {c : CtxId} {s t : State} (h : OnlyCtx c s t) : t.stuck = s.stuck :=
  (congrArg State.stuck h.rest : _)

theorem OnlyCtx.mem {c : CtxId} {s t : State} (h : OnlyCtx c s t) : t.mem = s.mem := (congrArg State.mem h.rest : _)

theorem OnlyCtx.wlog {c : CtxId} {s t : State} (h : OnlyCtx c s t) : t.wlog = s.wlog := (congrArg State.wlog h.rest : _)

theorem OnlyCtx.sys {c : CtxId} {s t : State} (h : OnlyCtx c s t) : t.sys = s.sys := (congrArg State.sys h.rest : _)

/-! ### An agent whose threads keep their PCs -/

/-- The agent's threads stand where they stood; only what holds them, the reconvergence entries, the sub-gangs and the priority
differ. -/
structure Ctx.Stays (x y : Ctx) : Prop where
  rest : { y with lanes := x.lanes, prio := x.prio, rcv := x.rcv, subs := x.subs, b := x.b } = x
  lanes : ∀ l, { y.lane l with sub := (x.lane l).sub, heldRcv := (x.lane l).heldRcv, heldRb := (x.lane l).heldRb } = x.lane l
  slots : ∀ n, n < 16 → y.recSlot 0 n = x.recSlot 0 n

theorem Ctx.Stays.refl (x : Ctx) : Ctx.Stays x x := ⟨rfl, fun _ => rfl, fun _ _ => rfl⟩

theorem Ctx.Stays.trans {x y z : Ctx} (h : Ctx.Stays x y) (k : Ctx.Stays y z) : Ctx.Stays x z := by
  refine ⟨?_, fun l => ?_, fun n hn => (k.slots n hn).trans (h.slots n hn)⟩
  · have h1 := h.rest; rw [← k.rest] at h1; exact h1
  · have h1 := h.lanes l; rw [← k.lanes l] at h1; exact h1

/-- A thread changed only in what holds it. -/
theorem Ctx.Stays.modLane (c : Ctx) (l : Nat) (f : Lane → Lane)
    (hf : ∀ x, { f x with sub := x.sub, heldRcv := x.heldRcv, heldRb := x.heldRb } = x) : Ctx.Stays c (c.modLane l f) := by
  refine ⟨rfl, fun k => ?_, fun _ _ => rfl⟩
  rw [Ctx.lane_modLane]
  split
  · subst_vars; exact hf _
  · rfl

theorem Ctx.Stays.modLanes (ls : List Nat) (f : Nat → Lane → Lane)
    (hf : ∀ l x, { f l x with sub := x.sub, heldRcv := x.heldRcv, heldRb := x.heldRb } = x) :
    ∀ c : Ctx, Ctx.Stays c (c.modLanes ls f) := by
  induction ls with
  | nil => exact Ctx.Stays.refl
  | cons a r ih => exact fun c => (Ctx.Stays.modLane c a (f a) (hf a)).trans (ih _)

theorem Ctx.Stays.held {x y : Ctx} (h : Ctx.Stays x y) (p : Nat) (q : List Rcv) (u : SMap Sub) :
    Ctx.Stays x { y with prio := p, rcv := q, subs := u } := ⟨h.rest, h.lanes, h.slots⟩

/-- A write to keys that are all above the gang's own record slots. -/
theorem get_setAll_ne {α : Type} [DecidableEq α] (d : α) (ws : List (Nat × α)) (k : Nat) (h : ∀ p ∈ ws, k ≠ p.1) :
    ∀ m : SMap α, SMap.get d (SMap.setAll d m ws) k = SMap.get d m k := by
  induction ws with
  | nil => exact fun _ => rfl
  | cons p r ih =>
    intro m
    have h1 := h p (by simp)
    rw [show SMap.setAll d m (p :: r) = SMap.setAll d (SMap.set d m p.1 p.2) r from rfl,
      ih (fun q hq => h q (List.mem_cons_of_mem _ hq)), SMap.get_set_ne _ _ _ _ _ h1]

theorem Ctx.Stays.dropCopies (c : Ctx) (js : List Nat) (h : ∀ j ∈ js, j ≠ 0) : Ctx.Stays c (c.dropCopies js) := by
  refine ⟨rfl, fun _ => rfl, fun n hn => get_setAll_ne _ _ _ ?_ _⟩
  intro p hp
  simp only [List.mem_flatMap, List.mem_map, List.mem_range] at hp
  obtain ⟨j, hj, m, -, rfl⟩ := hp
  have := h j hj
  show 16 * 0 + n ≠ 16 * j + m
  omega

/-- Popping entries moves no thread. -/
theorem Ctx.Stays.popRcv (c : Ctx) (p : Rcv → Bool) : Ctx.Stays c (c.popRcv p) := by
  unfold Ctx.popRcv
  exact (Ctx.Stays.modLanes _ (fun _ x => { x with heldRcv := false }) (fun _ _ => rfl) c).held _ _ _

theorem Ctx.Stays.releaseRcv (c : Ctx) : Ctx.Stays c (Ctx.releaseRcv c) := Ctx.Stays.popRcv c _

/-- Pushing an entry moves no thread. -/
theorem Ctx.Stays.pushRcv (c : Ctx) (r : Rcv) : Ctx.Stays c (c.pushRcv r) := by
  unfold Ctx.pushRcv
  exact (Ctx.Stays.modLanes _ (fun _ x => { x with heldRcv := false }) (fun _ _ => rfl) c).held _ _ _

theorem Ctx.Stays.releaseRb (c : Ctx) (hdr : Word64) : Ctx.Stays c (c.releaseRb hdr) := by
  unfold Ctx.releaseRb
  refine Ctx.Stays.held ?_ _ _ _
  refine Ctx.Stays.trans (Ctx.Stays.modLanes _ (fun _ x => { x with heldRb := false, heldRcv := false, sub := 0 }) (fun _ _ => rfl) c)
    (Ctx.Stays.dropCopies _ _ ?_)
  intro j hj
  simpa using (List.mem_filter.mp hj).2

theorem Ctx.Stays.checkRb (c : Ctx) (pend : Nat → Bool) : Ctx.Stays c (c.checkRb pend) := by
  unfold Ctx.checkRb
  dsimp only
  split
  · exact Ctx.Stays.refl c
  · split
    · exact Ctx.Stays.releaseRb c _
    · exact Ctx.Stays.refl c

/-! ### A state in which only one agent's holds differ -/

/-- One agent's threads stay where they stand, and nothing else differs. -/
structure StaysAt (c : CtxId) (s t : State) : Prop where
  only : OnlyCtx c s t
  stays : Ctx.Stays (s.ctx c) (t.ctx c)

theorem StaysAt.refl (c : CtxId) (s : State) : StaysAt c s s := ⟨OnlyCtx.refl c s, Ctx.Stays.refl _⟩

theorem StaysAt.trans {c : CtxId} {s t u : State} (h : StaysAt c s t) (k : StaysAt c t u) : StaysAt c s u :=
  ⟨h.only.trans k.only, h.stays.trans k.stays⟩

theorem StaysAt.setCtx {c : CtxId} {s : State} {x : Ctx} (h : Ctx.Stays (s.ctx c) x) : StaysAt c s (s.setCtx c x) :=
  ⟨OnlyCtx.setCtx c s x, by rw [State.ctx_setCtx_same]; exact h⟩

theorem StaysAt.settle (s : State) (c : CtxId) : StaysAt c s (s.settle c) := by
  unfold State.settle
  split
  · exact StaysAt.refl c s
  · exact StaysAt.setCtx ((Ctx.Stays.releaseRcv _).trans (Ctx.Stays.checkRb _ _))

theorem Ctx.Stays.holdRcv (c : Ctx) (ls : List Nat) (hdr : Word64) (due : Nat) : Ctx.Stays c (c.holdRcv ls hdr due) := by
  unfold Ctx.holdRcv
  split
  · split
    · exact Ctx.Stays.refl c
    · exact (Ctx.Stays.modLanes _ (fun _ y => { y with heldRcv := true }) (fun _ _ => rfl) c).held _ _ _
  · exact Ctx.Stays.refl c

theorem StaysAt.arrive (s : State) (c : CtxId) (ls : List Nat) (hdr : Word64) : StaysAt c s (s.arrive c ls hdr) := by
  unfold State.arrive
  split
  · exact StaysAt.refl c s
  · have h2 : ∀ (b : Bool) (p : Nat), Ctx.Stays (s.ctx c)
        (if b then ({ s.ctx c with prio := p } : Ctx).modLanes ls fun _ y => { y with heldRb := true }
         else { s.ctx c with prio := p }) := by
      intro b p
      have h1 : Ctx.Stays (s.ctx c) { s.ctx c with prio := p } := (Ctx.Stays.refl _).held _ _ _
      split
      · exact h1.trans (Ctx.Stays.modLanes ls (fun _ y => { y with heldRb := true }) (fun _ _ => rfl) _)
      · exact h1
    exact StaysAt.setCtx ((h2 _ _).trans (Ctx.Stays.holdRcv _ _ _ _))

theorem StaysAt.fails {c : CtxId} {s t : State} (h : StaysAt c s t) (l : Nat) :
    ((t.ctx c).lane l).fails = ((s.ctx c).lane l).fails := (congrArg Lane.fails (h.stays.lanes l) : _)

/-- Without a failed operation no thread parks at a barrier. -/
theorem State.parkAtRb_of_settled (s : State) (c : CtxId) (h : ∀ l, ((s.ctx c).lane l).fails = []) : s.parkAtRb c = s := by
  unfold State.parkAtRb
  induction (List.range 64) with
  | nil => rfl
  | cons a r ih =>
    rw [List.foldl_cons]
    have : (match ((s.ctx c).lane a).fails with
      | f :: _ =>
        if ((s.ctx c).lane a).heldRb then
          s.parkFail c (maskOf fun i => ((s.ctx c).lane i).heldRb && decide (((s.ctx c).lane i).hdr = ((s.ctx c).lane a).hdr) &&
            ((s.ctx c).lane i).fails.any f.like) f
        else s
      | [] => s) = s := by rw [h a]
    exact (congrArg (fun z => List.foldl _ z r) this).trans ih

/-! ### The end of an issue -/

/-- A list of arrivals leaves every thread where it stands. -/
theorem StaysAt.arrivals (c : CtxId) (g : Word64 → List Nat) (ts : List Word64) :
    ∀ s, StaysAt c s (ts.foldl (fun s t => s.arrive c (g t) t) s) := by
  induction ts with
  | nil => exact StaysAt.refl c
  | cons t r ih => exact fun s => (StaysAt.arrive s c (g t) t).trans (ih _)

/-- Arrivals, parking at barriers and reconvergence, of an agent without failed operations. -/
theorem end_stays (c : CtxId) (s0 : State) (x c3 : Ctx) (h3 : Ctx.Stays x c3) (hf : ∀ l, (x.lane l).fails = []) (b : Prop)
    [Decidable b] (falls : List Nat) (hdr : Word64) (g : Word64 → List Nat) (ts : List Word64) :
    let s1 := s0.setCtx c c3
    let s2 := if b then s1.arrive c falls hdr else s1
    let s3 := ts.foldl (fun s t => s.arrive c (g t) t) s2
    let t := (if c.isCC then s3 else s3.parkAtRb c).settle c
    OnlyCtx c s0 t ∧ Ctx.Stays x (t.ctx c) := by
  intro s1 s2 s3 t
  have k1 : Ctx.Stays x (s1.ctx c) := by rw [show s1.ctx c = c3 from State.ctx_setCtx_same _ _ _]; exact h3
  have h2 : StaysAt c s1 s2 := by
    show StaysAt c s1 (if b then s1.arrive c falls hdr else s1)
    split
    · exact StaysAt.arrive _ _ _ _
    · exact StaysAt.refl _ _
  have h4 : StaysAt c s1 s3 := h2.trans (StaysAt.arrivals c g ts s2)
  have h5 : (if c.isCC = true then s3 else s3.parkAtRb c) = s3 := by
    split
    · rfl
    · refine State.parkAtRb_of_settled s3 c fun l => ?_
      rw [h4.fails l]
      have : ((s1.ctx c).lane l).fails = (x.lane l).fails := (congrArg Lane.fails (k1.lanes l) : _)
      rw [this, hf l]
  have h6 : StaysAt c s1 t := by
    show StaysAt c s1 ((if c.isCC = true then s3 else s3.parkAtRb c).settle c)
    rw [h5]
    exact h4.trans (StaysAt.settle s3 c)
  exact ⟨(OnlyCtx.setCtx c s0 c3).trans h6.only, k1.trans h6.stays⟩

/-- What the end of an issue can do: only the issuing agent differs, and beyond its threads' moves only in what holds them. -/
theorem finish_stays (is : Issue) (lat : Nat) (d : Done) (h : ∀ l, ((is.passed lat d).lane l).fails = []) :
    OnlyCtx is.ctx d.s (finish is lat d) ∧ Ctx.Stays (is.passed lat d) ((finish is lat d).ctx is.ctx) := by
  have k : ∀ (x : Ctx) (b : Bool) (q : Rcv), Ctx.Stays x (if b then x.pushRcv q else x) := by
    intro x b q
    split
    · exact Ctx.Stays.pushRcv x q
    · exact Ctx.Stays.refl x
  have h3 : Ctx.Stays (is.passed lat d) (is.pushed d (is.passed lat d)) := k _ _ _
  have e := end_stays is.ctx d.s (is.passed lat d) (is.pushed d (is.passed lat d)) h3 h
    ((nextPc is.h is.hdr is.idx).2 = 0 ∧ (!(is.falls d).isEmpty) = true) (is.falls d) (nextPc is.h is.hdr is.idx).1
    (fun t => (d.jump.filter fun j => j.2 = t).map Prod.fst) (jumpTargets d.jump)
  unfold finish
  exact e

/-- Where no lane transfers, each thread of the path that is not held at the word passes it. -/
theorem lane_passed (is : Issue) (lat : Nat) (d : Done) (hj : d.jump = []) (l : Nat) :
    (is.passed lat d).lane l =
      if l ∈ lanesOf is.path ∧ d.stay.getLsbD l = false then
        ((d.s.ctx is.ctx).lane l).pass (nextPc is.h is.hdr is.idx) (is.hold d.s lat l)
      else (d.s.ctx is.ctx).lane l := by
  unfold Issue.passed Issue.falls
  simp only [hj, List.any_nil, Bool.not_false, Bool.and_true, List.foldl_nil]
  rw [Ctx.lane_modLanes _ _ _ ((nodup_lanesOf _).filter _)]
  simp [List.mem_filter]

theorem passed_rest (is : Issue) (lat : Nat) (d : Done) (hj : d.jump = []) :
    { is.passed lat d with lanes := (d.s.ctx is.ctx).lanes } = d.s.ctx is.ctx := by
  unfold Issue.passed
  simp only [hj, List.foldl_nil]
  exact Ctx.modLanes_rest _ _ _

end Sys2Proof.Machine
end

