-- ==== Sys2Proof/Laws/Issue.lean ====
section
/-! SUPPORT. A word that may issue issues: the front of every instruction lets it through, and its effect is that of its meaning. -/

set_option Elab.async false

namespace Sys2Proof.Machine

theorem Ctx.emptyLanes_eq_zero (c : Ctx) (us : List RegUse) (m : Word64)
    (h : ∀ l ∈ lanesOf m, ∀ u ∈ us, c.isFull u l) : c.emptyLanes us m = 0 := by
  apply BitVec.eq_of_getLsbD_eq
  intro l hl
  show (c.emptyLanes us m).getLsbD l = (0#64).getLsbD l
  rw [BitVec.getLsbD_zero, Ctx.emptyLanes, getLsbD_maskOf, Bool.eq_false_iff]
  intro hx
  simp only [Bool.and_eq_true, List.any_eq_true, List.mem_range] at hx
  obtain ⟨-, hm, u, hu, i, hi, he⟩ := hx
  rw [h l (mem_lanesOf.mpr ⟨hl, hm⟩) u hu i hi] at he
  exact absurd he (by simp)

theorem mem_lanesOf_guardMask {s : State} {r : Row} {l : Nat} (h : l ∈ lanesOf (s.guardMask r)) : l ∈ lanesOf s.sel.lanes := by
  unfold State.guardMask at h
  rw [mem_lanesOf_maskOf] at h
  simp only [Bool.and_eq_true] at h
  exact mem_lanesOf.mpr ⟨h.1, h.2.1⟩

/-- The front lets a word through that may issue. -/
theorem front_go {r : Row} {s : State} (h : MayIssue s r) : front r s = .go (s.issued r) s := by
  obtain ⟨l0, hl0⟩ := lowestLane_isSome h.path
  have hsel : s.selLane = (s.ctx s.sel.ctx).lane l0 := by unfold State.selLane; rw [hl0]; rfl
  unfold front
  dsimp only
  rw [hl0]
  dsimp only
  have h3 : (r.outsideBlock (s.ctx s.sel.ctx).blockSize || (s.sel.ctx.isCC && r.notOnColumnCore) || r.noRegister ||
      r.misplaced ((s.ctx s.sel.ctx).lane l0).idx (Header.ofWord s.sel.hw).len) = false := by
    rw [← hsel]; exact h.legal
  rw [h3, if_neg (by simp)]
  have h1 (b : Nat → Bool) : (lanesOf s.sel.lanes).findSome? (fun l => (s.ctx s.sel.ctx).failsOn l r.c.waitMask (b l)) = none := by
    rw [List.findSome?_eq_none_iff]
    intro l _
    unfold Ctx.failsOn
    rw [h.settled l]
    rfl
  rw [h1]
  dsimp only
  have h2 : ((lanesOf s.sel.lanes).any fun l => decide (((s.ctx s.sel.ctx).lane l).sb.toNat &&& r.c.wm ≠ 0)) = false := by
    rw [List.any_eq_false]
    intro l hl
    simpa using h.wait l hl
  rw [h2, if_neg (by simp), if_neg (by simp)]
  have h4 : ((lanesOf s.sel.lanes).all fun l => s.laneReady s.sel.ctx l r) = true := List.all_eq_true.mpr h.ready
  rw [h4, if_neg (by simp)]
  have h5 : (r.c.se && (lanesOf s.sel.lanes).any fun l => ((s.ctx s.sel.ctx).lane l).sb.getLsbD r.c.sa) = false := by
    cases hse : r.c.se
    · rfl
    · rw [Bool.true_and, List.any_eq_false]
      intro l hl
      rw [h.slot hse l hl]
      simp
  rw [h5, if_neg (by simp)]
  have h6 : ¬ ((maskOf fun l => s.sel.lanes.getLsbD l && (((s.ctx s.sel.ctx).lane l).pred r.c.p != r.c.n)) ≠ 0 ∧
      r.privileged = true ∧ (!s.isSup s.sel.ctx) = true) := by
    rintro ⟨a, b, c⟩
    rcases h.level with k | k | k
    · exact a k
    · rw [k] at b; exact absurd b (by simp)
    · rw [k] at c; exact absurd c (by simp)
  rw [if_neg h6]
  have h7 : (s.ctx s.sel.ctx).emptyLanes (r.sources.filter fun u => u.g)
      (maskOf fun l => s.sel.lanes.getLsbD l && (((s.ctx s.sel.ctx).lane l).pred r.c.p != r.c.n)) = 0 := by
    apply Ctx.emptyLanes_eq_zero
    intro l hl u hu
    rw [List.mem_filter] at hu
    have hl' : l ∈ lanesOf (s.guardMask r) := hl
    exact h.full l (mem_lanesOf_guardMask hl') u hu.1 fun _ => (mem_lanesOf.mp hl').2
  rw [h7]
  have h9 : ∀ m : Word64, m &&& ~~~(0 : Word64) = m := fun m => BitVec.and_allOnes
  simp only [h9, if_true]
  rw [if_neg h.path]
  have h10 : (s.ctx s.sel.ctx).emptyLanes (r.sources.filter fun u => !u.g) s.sel.lanes = 0 := by
    apply Ctx.emptyLanes_eq_zero
    intro l hl u hu
    rw [List.mem_filter] at hu
    refine h.full l hl u hu.1 fun hg => ?_
    rw [hg] at hu
    exact absurd hu.2 (by simp)
  rw [h10, if_neg (by simp)]
  unfold State.issued State.guardMask
  rw [hsel]

/-- The issue of a word that may issue: nothing where no guard is 1, else its effect. -/
theorem issueWith_go {i : Instr} {lat : Nat} {eff : Issue → State → Option Done} {s : State} {r : Row} (hr : i.row = some r)
    (h : MayIssue s r) :
    issueWith i lat eff s =
      if (s.issued r).act = 0 then Machine.ret (finish (s.issued r) lat (.next s))
      else match eff (s.issued r) s with
        | none => .next s
        | some d => Machine.ret (finish (s.issued r) lat d) := by
  unfold issueWith
  rw [hr]
  dsimp only
  rw [front_go h] <;> rfl

/-- An answer of a state that met no absent memory. -/
theorem ret_next {s : State} (h : s.stuck = none) : Machine.ret s = .next s := by unfold Machine.ret; rw [h]

end Sys2Proof.Machine
end

