-- ==== Sys2Proof/Laws/Memory.lean ====
section
/-! SUPPORT. Laws of memory: a read after a write, what a write leaves, and that every memory operation keeps the canonical form: only
the end of a step changes the memory held. -/

set_option Elab.async false

namespace Sys2Proof.Machine

/-- The map after a step's stores, the newest of an address standing. -/
theorem get_setAll_reverse (m : SMap Byte) (w : List (Nat × Byte)) (a : Nat) :
    SMap.get 0 (SMap.setAll 0 m w.reverse) a = (wlogGet w a).getD (SMap.get 0 m a) := by
  have app (l : List (Nat × Byte)) (p : Nat × Byte) : ∀ m : SMap Byte,
      SMap.setAll 0 m (l ++ [p]) = SMap.set 0 (SMap.setAll 0 m l) p.1 p.2 := by
    induction l with
    | nil => intro m; rfl
    | cons q r ih => intro m; exact ih _
  induction w with
  | nil => rfl
  | cons p r ih =>
    rw [List.reverse_cons, app, SMap.get_set, wlogGet, ih]
    by_cases h : a = p.1
    · rw [if_pos h, if_pos h.symm]; rfl
    · rw [if_neg h, if_neg (Ne.symm h)]

/-- A store changes the stores of the step and nothing else. -/
theorem State.writeBytes_only (s : State) (a : Nat) (bs : List Byte) : { s.writeBytes a bs with wlog := s.wlog } = s := by
  induction bs generalizing s a with
  | nil => rfl
  | cons b r ih =>
    have := ih { s with wlog := (a, b) :: s.wlog } (a + 1)
    rw [State.writeBytes]
    calc _ = { { ({ s with wlog := (a, b) :: s.wlog } : State).writeBytes (a + 1) r with wlog := (a, b) :: s.wlog } with
            wlog := s.wlog } := rfl
      _ = _ := by rw [this]

@[simp] theorem State.writeBytes_mem (s : State) (a : Nat) (bs : List Byte) : (s.writeBytes a bs).mem = s.mem :=
  (congrArg State.mem (s.writeBytes_only a bs) :)

/-- A byte after a store: the stored one within it, else as before. -/
theorem State.byte_writeBytes (s : State) (a : Nat) (bs : List Byte) (k : Nat) :
    (s.writeBytes a bs).byte k = if a ≤ k ∧ k < a + bs.length then bs.getD (k - a) 0 else s.byte k := by
  induction bs generalizing s a with
  | nil => rw [if_neg (by simp)]; rfl
  | cons b r ih =>
    rw [State.writeBytes, ih, List.length_cons]
    by_cases h : k = a
    · subst h
      rw [if_neg (by omega), if_pos (by omega), Nat.sub_self]
      simp [State.byte, wlogGet]
    · by_cases g : a + 1 ≤ k ∧ k < a + 1 + r.length
      · rw [if_pos g, if_pos (by omega), show k - a = (k - (a + 1)) + 1 by omega]; rfl
      · rw [if_neg g, if_neg (by omega)]
        simp [State.byte, wlogGet, Ne.symm h]

/-- What was stored is read back. -/
theorem State.bytesAt_writeBytes (s : State) (a : Nat) (bs : List Byte) : (s.writeBytes a bs).bytesAt a bs.length = bs := by
  apply List.ext_getElem (by simp [State.bytesAt])
  intro i hi _
  have h : i < bs.length := by simpa [State.bytesAt] using hi
  simp only [State.bytesAt, List.getElem_map, List.getElem_range, State.byte_writeBytes]
  rw [if_pos (by omega), show a + i - a = i by omega, List.getD_eq_getElem?_getD, List.getElem?_eq_getElem h, Option.getD_some]

/-- The memory at reset is in canonical form. -/
theorem reset_memory_wf : Memory.wf State.reset.mem = true := rfl

/-- The end of a step keeps the canonical form, and leaves no store behind. -/
theorem State.commit_wf (t s : State) (h : Memory.wf s.mem = true) : Memory.wf (t.commit s).mem = true ∧ (t.commit s).wlog = [] := by
  refine ⟨SMap.wf_setAll _ _ ?_, rfl⟩
  split
  · rfl
  · exact h

/-- The end of a step keeps every byte as the step's stores, and the injections they trigger, left it. -/
theorem State.byte_commit (t s : State) (h : t.mem = s.mem) (k : Nat) (i : t.inject.mem = t.mem) :
    (t.commit s).byte k = t.inject.byte k := by
  have e : (if t.mem.isEmpty then [] else s.mem) = t.mem := by
    split
    · next h => exact (List.isEmpty_iff.mp h).symm
    · exact h.symm
  simp only [State.commit, e, State.byte, wlogGet, Option.getD_none, get_setAll_reverse, i]

end Sys2Proof.Machine
end

