-- ==== Sys2Proof/Laws/Results.lean ====
section
/-! SUPPORT. Results of fixed latency: what a list of writes leaves in an agent's registers, and that a word of fixed latency leaves
exactly its results. -/

set_option Elab.async false

namespace Sys2Proof.Machine

/-! ### Writes -/

/-- The value a write list leaves in register m of lane l: the last write of it, or the old value. -/
def resReg (rs : List Res) (l m : Nat) (old : Word) : Word :=
  rs.foldl (fun v r => match r with
    | .g k n w => if k = l ∧ n = m then w else v
    | .p .. => v) old

/-- A write list writes register m of lane l. -/
def resHits (rs : List Res) (l m : Nat) : Bool :=
  rs.any fun r => match r with
    | .g k n _ => decide (k = l ∧ n = m)
    | .p .. => false

/-- The value a write list leaves in predicate j of lane l. -/
def resPred (rs : List Res) (l j : Nat) (old : Bool) : Bool :=
  rs.foldl (fun v r => match r with
    | .p k n w => if k = l ∧ n = j then w else v
    | .g .. => v) old

/-- A write list names lanes and registers that there are. -/
def resOk (rs : List Res) : Prop :=
  ∀ r ∈ rs, match r with
    | .g k n _ => k < 64 ∧ n < 256
    | .p k _ _ => k < 64

theorem Lane.pred_putPred (x : Lane) (n j : Nat) (v : Bool) (hj : j < 7) :
    (x.putPred n v).pred j = if n = j then v else x.pred j := by
  unfold Lane.putPred Lane.pred
  have hj7 : j ≠ 7 := by omega
  simp only [hj7, if_false]
  by_cases hn : n < 7
  · simp only [hn, if_true]
    by_cases hnj : n = j
    · subst hnj
      have h1 : (BitVec.ofNat 7 (2 ^ n)).getLsbD n = true := by
        rw [BitVec.getLsbD_ofNat]; simp [hn]
      generalize BitVec.ofNat 7 (2 ^ n) = b at h1
      cases v <;> simp only [if_true, if_false, Bool.false_eq_true, BitVec.getLsbD_or, BitVec.getLsbD_and, BitVec.getLsbD_not, h1, hn] <;> simp
    · have h1 : (BitVec.ofNat 7 (2 ^ n)).getLsbD j = false := by
        rw [BitVec.getLsbD_ofNat, Nat.testBit_two_pow]; simp [hnj]
      generalize BitVec.ofNat 7 (2 ^ n) = b at h1
      cases v <;> simp only [if_true, if_false, Bool.false_eq_true, BitVec.getLsbD_or, BitVec.getLsbD_and, BitVec.getLsbD_not, h1, hnj, hj] <;> simp
  · simp only [hn, if_false]
    have : n ≠ j := by omega
    simp [this]

theorem Ctx.reg_foldl_applyRes (rs : List Res) (h : resOk rs) (l m : Nat) (hm : m < 256) :
    ∀ c : Ctx, (rs.foldl Ctx.applyRes c).reg l m = resReg rs l m (c.reg l m) := by
  induction rs with
  | nil => exact fun _ => rfl
  | cons r rs ih =>
    intro c
    have h1 := h r (by simp)
    have ih := ih (fun q hq => h q (List.mem_cons_of_mem _ hq)) (c.applyRes r)
    rw [List.foldl_cons, ih]
    cases r with
    | g k n w =>
      show resReg rs l m ((c.putReg k n w).reg l m) = resReg rs l m (if k = l ∧ n = m then w else c.reg l m)
      rw [Ctx.reg_putReg]
      have h1 : k < 64 ∧ n < 256 := h1
      by_cases e : k = l ∧ n = m
      · rw [if_pos e, if_pos (by omega)]
      · rw [if_neg e, if_neg (by omega)]
    | p k n w => rfl

theorem Ctx.empty_foldl_applyRes (rs : List Res) (h : resOk rs) (l m : Nat) (hm : m < 256) :
    ∀ c : Ctx, (rs.foldl Ctx.applyRes c).empty l m = if resHits rs l m then false else c.empty l m := by
  induction rs with
  | nil => exact fun _ => rfl
  | cons r rs ih =>
    intro c
    have h1 := h r (by simp)
    have ih := ih (fun q hq => h q (List.mem_cons_of_mem _ hq)) (c.applyRes r)
    rw [List.foldl_cons, ih]
    cases r with
    | g k n w =>
      show (if resHits rs l m then false else (c.putReg k n w).empty l m) =
        if (decide (k = l ∧ n = m) || resHits rs l m) then false else c.empty l m
      rw [Ctx.empty_putReg]
      have h1 : k < 64 ∧ n < 256 := h1
      by_cases e : k = l ∧ n = m
      · rw [if_pos (show 256 * l + m = 256 * k + n by omega)]; simp [e]
      · rw [if_neg (show ¬ 256 * l + m = 256 * k + n by omega)]; simp [e]
    | p k n w => rfl

theorem Ctx.pred_foldl_applyRes (rs : List Res) (l j : Nat) (hj : j < 7) :
    ∀ c : Ctx, ((rs.foldl Ctx.applyRes c).lane l).pred j = resPred rs l j ((c.lane l).pred j) := by
  induction rs with
  | nil => exact fun _ => rfl
  | cons r rs ih =>
    intro c
    rw [List.foldl_cons, ih (c.applyRes r)]
    cases r with
    | g k n w => rfl
    | p k n w =>
      show resPred rs l j (((c.modLane k fun x => x.putPred n w).lane l).pred j) =
        resPred rs l j (if k = l ∧ n = j then w else (c.lane l).pred j)
      rw [Ctx.lane_modLane]
      by_cases e : l = k
      · subst e
        rw [if_pos rfl, Lane.pred_putPred _ _ _ _ hj]
        simp
      · rw [if_neg e, if_neg (by omega)]

/-- Writes leave the rest of an agent. -/
theorem Ctx.applyRes_rest (rs : List Res) :
    ∀ c : Ctx, { rs.foldl Ctx.applyRes c with g := c.g, e := c.e, lanes := c.lanes } = c := by
  induction rs with
  | nil => exact fun _ => rfl
  | cons r rs ih =>
    intro c
    have h := ih (c.applyRes r)
    rw [List.foldl_cons]
    cases r with
    | g k n w => exact congrArg (fun x : Ctx => { x with g := c.g, e := c.e, lanes := c.lanes }) h
    | p k n w => exact congrArg (fun x : Ctx => { x with g := c.g, e := c.e, lanes := c.lanes }) h

/-- Writes leave a thread but for its predicates. -/
theorem Ctx.applyRes_lane (rs : List Res) (l : Nat) :
    ∀ c : Ctx, { (rs.foldl Ctx.applyRes c).lane l with p := (c.lane l).p } = c.lane l := by
  induction rs with
  | nil => exact fun _ => rfl
  | cons r rs ih =>
    intro c
    have h := ih (c.applyRes r)
    rw [List.foldl_cons]
    cases r with
    | g k n w => exact h
    | p k n w =>
      have h1 : { (c.applyRes (.p k n w)).lane l with p := (c.lane l).p } = c.lane l := by
        show { (c.modLane k fun x => x.putPred n w).lane l with p := (c.lane l).p } = c.lane l
        rw [Ctx.lane_modLane]
        split
        · subst_vars
          unfold Lane.putPred
          split <;> rfl
        · rfl
      rw [← h1]
      rw [← h]

/-! ### A value at a destination -/

theorem resReg_append (a b : List Res) (l m : Nat) (v : Word) : resReg (a ++ b) l m v = resReg b l m (resReg a l m v) :=
  List.foldl_append

theorem resPred_append (a b : List Res) (l j : Nat) (v : Bool) : resPred (a ++ b) l j v = resPred b l j (resPred a l j v) :=
  List.foldl_append

theorem resHits_append (a b : List Res) (l m : Nat) : resHits (a ++ b) l m = (resHits a l m || resHits b l m) :=
  List.any_append

theorem resReg_regRes (k l m : Nat) : ∀ (n r v : Nat) (old : Word), resReg (regRes k r v n) l m old =
    if k = l ∧ r ≤ m ∧ m < r + n then BitVec.ofNat 32 (v / 2 ^ (32 * (m - r))) else old := by
  intro n
  induction n with
  | zero => intro r v old; rw [if_neg (by omega)]; rfl
  | succ n ih =>
    intro r v old
    show resReg (regRes k (r + 1) (v / 2 ^ 32) n) l m (if k = l ∧ r = m then BitVec.ofNat 32 v else old) = _
    rw [ih]
    by_cases e : k = l ∧ r = m
    · obtain ⟨rfl, rfl⟩ := e
      rw [if_neg (by omega), if_pos ⟨rfl, rfl⟩, if_pos (by omega), Nat.sub_self]
      simp
    · rw [if_neg e]
      by_cases e2 : k = l ∧ r + 1 ≤ m ∧ m < r + 1 + n
      · rw [if_pos e2, if_pos (by omega), Nat.div_div_eq_div_mul, ← Nat.pow_add]
        congr 3
        omega
      · rw [if_neg e2, if_neg (by omega)]

theorem resHits_regRes (k l m : Nat) : ∀ n r v : Nat, resHits (regRes k r v n) l m = decide (k = l ∧ r ≤ m ∧ m < r + n) := by
  intro n
  induction n with
  | zero => intro r v; rw [eq_comm]; simp only [regRes, resHits, List.any_nil, decide_eq_false_iff_not]; omega
  | succ n ih =>
    intro r v
    show (decide (k = l ∧ r = m) || resHits (regRes k (r + 1) (v / 2 ^ 32) n) l m) = _
    rw [ih, ← Bool.decide_or]
    congr 1
    apply propext
    omega

theorem resPred_regRes (k l j : Nat) (old : Bool) : ∀ n r v : Nat, resPred (regRes k r v n) l j old = old := by
  intro n
  induction n with
  | zero => intro r v; rfl
  | succ n ih => intro r v; exact ih (r + 1) (v / 2 ^ 32)

/-- The writes of one lane, seen on a lane. -/
theorem resReg_dstPut (d : Dst) (n k v l m : Nat) (old : Word) :
    resReg (dstPut d n k v) l m old = if k = l then (d.word n v m).getD old else old := by
  cases d with
  | g r =>
    show resReg (regRes k r v n) l m old = if k = l then (if r ≤ m ∧ m < r + n then some _ else none : Option Word).getD old else old
    rw [resReg_regRes]
    by_cases e : k = l
    · by_cases e2 : r ≤ m ∧ m < r + n
      · rw [if_pos ⟨e, e2⟩, if_pos e, if_pos e2]; rfl
      · rw [if_neg (by omega), if_pos e, if_neg e2]; rfl
    · rw [if_neg (by omega), if_neg e]
  | p i => simp [dstPut, resReg, Dst.word]
  | none => simp [dstPut, resReg, Dst.word]

theorem resHits_dstPut (d : Dst) (n k v l m : Nat) :
    resHits (dstPut d n k v) l m = (decide (k = l) && (d.word n v m).isSome) := by
  cases d with
  | g r =>
    show resHits (regRes k r v n) l m = (decide (k = l) && (if r ≤ m ∧ m < r + n then some _ else none : Option Word).isSome)
    rw [resHits_regRes]
    by_cases e2 : r ≤ m ∧ m < r + n <;> by_cases e : k = l <;> simp [e, e2]
  | p i => simp [dstPut, resHits, Dst.word]
  | none => simp [dstPut, resHits, Dst.word]

theorem resPred_dstPut (d : Dst) (n k v l j : Nat) (old : Bool) :
    resPred (dstPut d n k v) l j old = if k = l then (d.truth v j).getD old else old := by
  cases d with
  | g r =>
    show resPred (regRes k r v n) l j old = _
    rw [resPred_regRes]
    simp [Dst.truth]
  | p i =>
    show (if k = l ∧ i = j then decide (v ≠ 0) else old) = if k = l then (if j = i then some _ else none : Option Bool).getD old else old
    by_cases e : k = l
    · by_cases e2 : i = j
      · rw [if_pos ⟨e, e2⟩, if_pos e, if_pos e2.symm]; rfl
      · rw [if_neg (by omega), if_pos e, if_neg (fun h => e2 h.symm)]; rfl
    · rw [if_neg (by omega), if_neg e]
  | none => simp [dstPut, resPred, Dst.truth]

/-- What lanes write each for itself, seen on one lane. -/
theorem resReg_flatMap (f : Nat → List Res) (l m : Nat) (hne : ∀ k, k ≠ l → ∀ old, resReg (f k) l m old = old) (ls : List Nat)
    (hn : ls.Nodup) : ∀ old, resReg (ls.flatMap f) l m old = if l ∈ ls then resReg (f l) l m old else old := by
  induction ls with
  | nil => intro old; simp [resReg]
  | cons a r ih =>
    intro old
    rw [List.nodup_cons] at hn
    rw [List.flatMap_cons, resReg_append, ih hn.2]
    by_cases e : l = a
    · subst e; simp [hn.1]
    · rw [hne a (fun h => e h.symm)]; simp [e]

theorem resPred_flatMap (f : Nat → List Res) (l j : Nat) (hne : ∀ k, k ≠ l → ∀ old, resPred (f k) l j old = old) (ls : List Nat)
    (hn : ls.Nodup) : ∀ old, resPred (ls.flatMap f) l j old = if l ∈ ls then resPred (f l) l j old else old := by
  induction ls with
  | nil => intro old; simp [resPred]
  | cons a r ih =>
    intro old
    rw [List.nodup_cons] at hn
    rw [List.flatMap_cons, resPred_append, ih hn.2]
    by_cases e : l = a
    · subst e; simp [hn.1]
    · rw [hne a (fun h => e h.symm)]; simp [e]

theorem resHits_flatMap (f : Nat → List Res) (l m : Nat) (hne : ∀ k, k ≠ l → resHits (f k) l m = false) (ls : List Nat) :
    resHits (ls.flatMap f) l m = (decide (l ∈ ls) && resHits (f l) l m) := by
  induction ls with
  | nil => simp [resHits]
  | cons a r ih =>
    rw [List.flatMap_cons, resHits_append, ih]
    by_cases e : l = a
    · subst e; cases resHits (f l) l m <;> simp
    · rw [hne a (fun h => e h.symm)]; simp [e]

theorem resOk_regRes {k : Nat} (hk : k < 64) : ∀ n r v : Nat, r + n ≤ 256 → resOk (regRes k r v n) := by
  intro n
  induction n with
  | zero => intro r v _ q hq; exact absurd hq (by simp [regRes])
  | succ n ih =>
    intro r v h q hq
    rcases List.mem_cons.mp hq with rfl | hq
    · exact ⟨hk, by omega⟩
    · exact ih (r + 1) (v / 2 ^ 32) (by omega) q hq

/-- A destination's registers are ones there are. -/
def Dst.Fits (d : Dst) (n : Nat) : Prop := ∀ r, d = .g r → r + n ≤ 256

theorem resOk_dstPut {d : Dst} {n k : Nat} (hd : Dst.Fits d n) (hk : k < 64) (v : Nat) : resOk (dstPut d n k v) := by
  cases d with
  | g r => exact resOk_regRes hk n r v (hd r rfl)
  | p i => intro q hq; rcases List.mem_singleton.mp hq with rfl; exact hk
  | none => intro q hq; exact absurd hq (by simp [dstPut])

theorem resOk_flatMap {f : Nat → List Res} {ls : List Nat} (h : ∀ k ∈ ls, resOk (f k)) : resOk (ls.flatMap f) := by
  intro q hq
  obtain ⟨k, hk, hq⟩ := List.mem_flatMap.mp hq
  exact h k hk q hq

end Sys2Proof.Machine
end

