-- ==== Sys2Proof/Laws/Produces.lean ====
section
/-! SUPPORT. A word of fixed latency leaves exactly its results: the writes of its lanes, its flags, and the path's move. -/

set_option Elab.async false

namespace Sys2Proof.Machine

/-- A thread that stays but for its place. -/
theorem Lane.Kept.pass {x y : Lane} (h : Lane.Kept x y) (pc : Word64 × Nat) (o : Option Hold) : Lane.Kept x (y.pass pc o) := h

theorem Ctx.Kept.trans {x y z : Ctx} (h : Ctx.Kept x y) (k : Ctx.Kept y z) : Ctx.Kept x z := by
  refine ⟨?_, fun l => ?_, fun n hn => (k.slots n hn).trans (h.slots n hn)⟩
  · have h1 := h.rest; rw [← k.rest] at h1; exact h1
  · have h1 : Lane.Kept _ _ := h.lanes l
    have h2 : Lane.Kept _ _ := k.lanes l
    unfold Lane.Kept at h1 h2 ⊢
    rw [← h2] at h1
    exact h1

/-- The end of an issue without transfers: where its threads stand, and that the rest of the agent and every other agent stay. -/
theorem finish_moves (is : Issue) (lat : Nat) (d : Done) (hj : d.jump = []) (hf : ∀ l, ((d.s.ctx is.ctx).lane l).fails = []) :
    OnlyCtx is.ctx d.s (finish is lat d) ∧ Ctx.Kept (d.s.ctx is.ctx) ((finish is lat d).ctx is.ctx) ∧
    Ctx.SameRegs (d.s.ctx is.ctx) ((finish is lat d).ctx is.ctx) ∧
    ∀ l, l < 64 → ((((finish is lat d).ctx is.ctx).lane l).hdr, (((finish is lat d).ctx is.ctx).lane l).idx) =
      if is.path.getLsbD l = true ∧ d.stay.getLsbD l = false then nextPc is.h is.hdr is.idx
      else (((d.s.ctx is.ctx).lane l).hdr, ((d.s.ctx is.ctx).lane l).idx) := by
  have hl := lane_passed is lat d hj
  have hr := passed_rest is lat d hj
  have hp : ∀ l, ((is.passed lat d).lane l).fails = [] := by
    intro l
    rw [hl]
    split
    · exact hf l
    · exact hf l
  obtain ⟨h1, h2⟩ := finish_stays is lat d hp
  generalize finish is lat d = t at h1 h2 ⊢
  generalize is.passed lat d = x at hl hr hp h2
  have hk : ∀ l, Lane.Kept ((d.s.ctx is.ctx).lane l) (x.lane l) := by
    intro l
    rw [hl]
    split
    · exact Lane.Kept.pass (rfl : Lane.Kept ((d.s.ctx is.ctx).lane l) ((d.s.ctx is.ctx).lane l)) _ _
    · exact rfl
  have hkp : ∀ l, (x.lane l).p = ((d.s.ctx is.ctx).lane l).p := by
    intro l
    rw [hl]
    split <;> rfl
  have hb : x.b = (d.s.ctx is.ctx).b := (congrArg Ctx.b hr : _)
  refine ⟨h1, ⟨?_, fun l => ?_, fun n hn => ?_⟩, ⟨?_, ?_, ?_, ?_, fun l => ?_⟩, fun l h64 => ?_⟩
  · have e := h2.rest
    rw [← e] at hr
    generalize d.s.ctx is.ctx = c at hr
    exact congrArg (fun y : Ctx => { y with g := c.g, e := c.e, fp := c.fp, wbs := c.wbs, prio := c.prio, rcv := c.rcv, subs := c.subs, b := c.b }) hr
  · have e := hk l
    rw [← h2.lanes l] at e
    exact e
  · rw [h2.slots n hn]; unfold Ctx.recSlot; rw [hb]
  · exact ((congrArg Ctx.g h2.rest : _) : (t.ctx is.ctx).g = x.g).trans (congrArg Ctx.g hr : _)
  · exact ((congrArg Ctx.e h2.rest : _) : (t.ctx is.ctx).e = x.e).trans (congrArg Ctx.e hr : _)
  · exact ((congrArg Ctx.fp h2.rest : _) : (t.ctx is.ctx).fp = x.fp).trans (congrArg Ctx.fp hr : _)
  · exact ((congrArg Ctx.wbs h2.rest : _) : (t.ctx is.ctx).wbs = x.wbs).trans (congrArg Ctx.wbs hr : _)
  · exact ((congrArg Lane.p (h2.lanes l) : _) : ((t.ctx is.ctx).lane l).p = (x.lane l).p).trans (hkp l)
  · have e1 : ((t.ctx is.ctx).lane l).hdr = (x.lane l).hdr := (congrArg Lane.hdr (h2.lanes l) : _)
    have e2 : ((t.ctx is.ctx).lane l).idx = (x.lane l).idx := (congrArg Lane.idx (h2.lanes l) : _)
    rw [e1, e2, hl]
    by_cases e : is.path.getLsbD l = true ∧ d.stay.getLsbD l = false
    · rw [if_pos e, if_pos ⟨mem_lanesOf.mpr ⟨h64, e.1⟩, e.2⟩]; rfl
    · rw [if_neg e, if_neg (fun h => e ⟨(mem_lanesOf.mp h.1).2, h.2⟩)]

/-- Two agents with the same registers have the same once every result has arrived. -/
theorem final_reg_of_sameRegs {x y : Ctx} (h : Ctx.SameRegs x y) :
    (∀ l m, y.reg l m = x.reg l m) ∧ (∀ l m, y.empty l m = x.empty l m) ∧ (∀ l j, (y.lane l).pred j = (x.lane l).pred j) := by
  refine ⟨fun l m => ?_, fun l m => ?_, fun l j => ?_⟩
  · unfold Ctx.reg; rw [h.g]
  · unfold Ctx.empty; rw [h.e]
  · unfold Lane.pred; rw [h.p l]

theorem applyWB_congr (ws : List WB) : ∀ {x y : Ctx}, y.g = x.g → y.e = x.e → y.fp = x.fp → (∀ l, (y.lane l).p = (x.lane l).p) →
    (ws.foldl Ctx.applyWB y).g = (ws.foldl Ctx.applyWB x).g ∧ (ws.foldl Ctx.applyWB y).e = (ws.foldl Ctx.applyWB x).e ∧
    (ws.foldl Ctx.applyWB y).fp = (ws.foldl Ctx.applyWB x).fp ∧
    ∀ l, ((ws.foldl Ctx.applyWB y).lane l).p = ((ws.foldl Ctx.applyWB x).lane l).p := by
  have hres : ∀ (rs : List Res) {x y : Ctx}, y.g = x.g → y.e = x.e → (∀ l, (y.lane l).p = (x.lane l).p) →
      (rs.foldl Ctx.applyRes y).g = (rs.foldl Ctx.applyRes x).g ∧ (rs.foldl Ctx.applyRes y).e = (rs.foldl Ctx.applyRes x).e ∧
      ∀ l, ((rs.foldl Ctx.applyRes y).lane l).p = ((rs.foldl Ctx.applyRes x).lane l).p := by
    intro rs
    induction rs with
    | nil => exact fun a b c => ⟨a, b, c⟩
    | cons r rs ih =>
      intro x y hg he hp
      rw [List.foldl_cons, List.foldl_cons]
      cases r with
      | g k n w =>
        refine ih ?_ ?_ hp
        · show SMap.set 0 y.g _ w = SMap.set 0 x.g _ w; rw [hg]
        · show SMap.set false y.e _ false = SMap.set false x.e _ false; rw [he]
      | p k n w =>
        refine ih hg he fun l => ?_
        show ((y.modLane k fun z => z.putPred n w).lane l).p = ((x.modLane k fun z => z.putPred n w).lane l).p
        rw [Ctx.lane_modLane, Ctx.lane_modLane]
        split
        · unfold Lane.putPred
          split
          · show (if w then (y.lane k).p ||| _ else (y.lane k).p &&& _) = if w then (x.lane k).p ||| _ else (x.lane k).p &&& _
            rw [hp k]
          · exact hp k
        · exact hp l
  induction ws with
  | nil => exact fun a b c d => ⟨a, b, c, d⟩
  | cons w ws ih =>
    intro x y hg he hf hp
    rw [List.foldl_cons, List.foldl_cons]
    obtain ⟨a, b, c⟩ := hres w.res hg he hp
    have fx : ∀ z : Ctx, (w.res.foldl Ctx.applyRes z).fp = z.fp := fun z => (congrArg Ctx.fp (Ctx.applyRes_rest w.res z) : _)
    refine ih a b ?_ c
    show (w.res.foldl Ctx.applyRes y).fp ||| w.fl = (w.res.foldl Ctx.applyRes x).fp ||| w.fl
    rw [fx, fx, hf]

/-- An agent with the same registers has the same ones with every result on its way entered. -/
theorem final_congr {c : CtxId} {s t : State} (h : Ctx.SameRegs (s.ctx c) (t.ctx c)) :
    (t.final c).g = (s.final c).g ∧ (t.final c).e = (s.final c).e ∧ (t.final c).fp = (s.final c).fp ∧
    ∀ l, ((t.final c).lane l).p = ((s.final c).lane l).p := by
  unfold State.final
  split
  · exact ⟨h.g, h.e, h.fp, h.p⟩
  · rw [h.wbs]
    exact applyWB_congr _ h.g h.e h.fp h.p

/-- Results put on their way: the registers once they have entered. -/
theorem final_later (s : State) (c : CtxId) (lat : Nat) (rs : List Res) (fl : Flags) (fp : Bool) :
    ((s.later c lat rs fl fp).final c).g = (rs.foldl Ctx.applyRes (s.final c)).g ∧
    ((s.later c lat rs fl fp).final c).e = (rs.foldl Ctx.applyRes (s.final c)).e ∧
    ((s.later c lat rs fl fp).final c).fp = (s.final c).fp ||| fl ∧
    ∀ l, ((s.later c lat rs fl fp).final c).lane l = (rs.foldl Ctx.applyRes (s.final c)).lane l := by
  have fx : ∀ z : Ctx, (rs.foldl Ctx.applyRes z).fp = z.fp := fun z => (congrArg Ctx.fp (Ctx.applyRes_rest rs z) : _)
  unfold State.final State.later
  dsimp only
  split
  · rw [State.ctx_modCtx_same]
    refine ⟨rfl, rfl, ?_, fun _ => rfl⟩
    show (rs.foldl Ctx.applyRes (s.ctx c)).fp ||| fl = _
    rw [fx]
  · rw [State.ctx_modCtx_same]
    dsimp only
    rw [List.foldl_append]
    refine ⟨rfl, rfl, ?_, fun _ => rfl⟩
    show (rs.foldl Ctx.applyRes _).fp ||| fl = _
    rw [fx]

/-- A word whose lanes' writes are `rs` and flags `fl` leaves exactly them. -/
theorem produces_of_later {s : State} {is : Issue} {lat : Nat} {rs : List Res} {fl : Flags} {fp : Bool}
    {word : Nat → Nat → Option Word} {pred : Nat → Nat → Option Bool}
    (hf : ∀ l, ((s.ctx is.ctx).lane l).fails = []) (hok : resOk rs)
    (hw : ∀ l m, l < 64 → m < 256 → ∀ old, resReg rs l m old = (if is.act.getLsbD l then word l m else none).getD old)
    (hh : ∀ l m, l < 64 → m < 256 → resHits rs l m = (is.act.getLsbD l && (word l m).isSome))
    (hp : ∀ l j, l < 64 → j < 7 → ∀ old, resPred rs l j old = (if is.act.getLsbD l then pred l j else none).getD old) :
    Produces s (finish is lat (.next (s.later is.ctx lat rs fl fp))) is lat word pred fl := by
  have hl : OnlyCtx is.ctx s (s.later is.ctx lat rs fl fp) := by
    unfold State.later; dsimp only; split <;> exact OnlyCtx.modCtx _ _ _
  have hlane : ∀ l, { ((s.later is.ctx lat rs fl fp).ctx is.ctx).lane l with p := ((s.ctx is.ctx).lane l).p } =
      (s.ctx is.ctx).lane l := by
    intro l
    unfold State.later
    dsimp only
    split
    · rw [State.ctx_modCtx_same]; exact Ctx.applyRes_lane rs l (s.ctx is.ctx)
    · rw [State.ctx_modCtx_same]; rfl
  have hkept : Ctx.Kept (s.ctx is.ctx) ((s.later is.ctx lat rs fl fp).ctx is.ctx) := by
    have hr := Ctx.applyRes_rest rs (s.ctx is.ctx)
    refine ⟨?_, fun l => ?_, fun n _ => ?_⟩
    · unfold State.later
      dsimp only
      split
      · rw [State.ctx_modCtx_same]
        generalize s.ctx is.ctx = c at hr
        exact congrArg (fun y : Ctx => { y with fp := c.fp, wbs := c.wbs, prio := c.prio, rcv := c.rcv, subs := c.subs, b := c.b }) hr
      · rw [State.ctx_modCtx_same]
    · have e := hlane l
      generalize (s.ctx is.ctx).lane l = x at e ⊢
      exact congrArg (fun y : Lane => { y with hdr := x.hdr, idx := x.idx, fresh := x.fresh, ready := x.ready, holds := x.holds, sub := x.sub, heldRcv := x.heldRcv, heldRb := x.heldRb, rewound := x.rewound }) e
    · have hb : ((s.later is.ctx lat rs fl fp).ctx is.ctx).b = (s.ctx is.ctx).b := by
        unfold State.later
        dsimp only
        split
        · rw [State.ctx_modCtx_same]; exact (congrArg Ctx.b hr : _)
        · rw [State.ctx_modCtx_same]
      unfold Ctx.recSlot
      rw [hb]
  have hf' : ∀ l, (((s.later is.ctx lat rs fl fp).ctx is.ctx).lane l).fails = [] := fun l =>
    ((congrArg Lane.fails (hlane l) : _) : (((s.later is.ctx lat rs fl fp).ctx is.ctx).lane l).fails = _).trans (hf l)
  obtain ⟨a, b, c, e⟩ := finish_moves is lat (.next (s.later is.ctx lat rs fl fp)) rfl hf'
  obtain ⟨fg, fe, ff, fpd⟩ := final_congr c
  obtain ⟨lg, le, lf, ll⟩ := final_later s is.ctx lat rs fl fp
  change OnlyCtx is.ctx (s.later is.ctx lat rs fl fp) _ at a
  change Ctx.Kept ((s.later is.ctx lat rs fl fp).ctx is.ctx) _ at b
  change Ctx.SameRegs ((s.later is.ctx lat rs fl fp).ctx is.ctx) _ at c
  change _ = ((s.later is.ctx lat rs fl fp).final is.ctx).g at fg
  change _ = ((s.later is.ctx lat rs fl fp).final is.ctx).e at fe
  change _ = ((s.later is.ctx lat rs fl fp).final is.ctx).fp at ff
  change ∀ l, _ = (((s.later is.ctx lat rs fl fp).final is.ctx).lane l).p at fpd
  generalize finish is lat (.next (s.later is.ctx lat rs fl fp)) = t at *
  refine ⟨hl.trans a, fun l h64 => ?_, hkept.trans b, fun l m h64 hm => ?_, fun l m h64 hm => ?_, fun l j h64 hj => ?_, ?_, ?_⟩
  · rw [e l h64]
    have e1 : (((s.later is.ctx lat rs fl fp).ctx is.ctx).lane l).hdr = ((s.ctx is.ctx).lane l).hdr := (congrArg Lane.hdr (hlane l) : _)
    have e2 : (((s.later is.ctx lat rs fl fp).ctx is.ctx).lane l).idx = ((s.ctx is.ctx).lane l).idx := (congrArg Lane.idx (hlane l) : _)
    show (if is.path.getLsbD l = true ∧ (0 : Word64).getLsbD l = false then nextPc is.h is.hdr is.idx
      else ((((s.later is.ctx lat rs fl fp).ctx is.ctx).lane l).hdr, (((s.later is.ctx lat rs fl fp).ctx is.ctx).lane l).idx)) = _
    rw [e1, e2]
    simp
  · have h1 : (t.final is.ctx).reg l m = (rs.foldl Ctx.applyRes (s.final is.ctx)).reg l m := by
      unfold Ctx.reg; rw [fg, lg]
    rw [h1, Ctx.reg_foldl_applyRes rs hok l m hm, hw l m h64 hm]
  · have h1 : (t.final is.ctx).empty l m = (rs.foldl Ctx.applyRes (s.final is.ctx)).empty l m := by
      unfold Ctx.empty; rw [fe, le]
    rw [h1, Ctx.empty_foldl_applyRes rs hok l m hm, hh l m h64 hm]
    simp
  · have h1 : ((t.final is.ctx).lane l).pred j = ((rs.foldl Ctx.applyRes (s.final is.ctx)).lane l).pred j := by
      unfold Lane.pred; rw [fpd l, ll l]
    rw [h1, Ctx.pred_foldl_applyRes rs l j hj, hp l j h64 hj]
  · rw [ff, lf]
  · intro hc
    have hs : (s.later is.ctx lat rs fl fp).ctx is.ctx = { s.ctx is.ctx with wbs := (s.ctx is.ctx).wbs ++ [⟨s.clk is.ctx + lat, rs, fl, fp⟩] } := by
      unfold State.later
      dsimp only
      rw [hc, if_neg (by simp), State.ctx_modCtx_same]
    rw [hs] at c
    refine ⟨⟨c.g, c.e, c.fp, rfl, c.p⟩, fun w hw => ?_⟩
    rw [c.wbs] at hw
    rcases List.mem_append.mp hw with h | h
    · exact .inl h
    · exact .inr (by rw [List.mem_singleton.mp h])

/-- A word no lane of whose path executes leaves nothing but the path's move. -/
theorem produces_of_idle {s : State} {is : Issue} {lat : Nat} {word : Nat → Nat → Option Word} {pred : Nat → Nat → Option Bool}
    (hf : ∀ l, ((s.ctx is.ctx).lane l).fails = []) (h0 : is.act = 0) :
    Produces s (finish is lat (.next s)) is lat word pred 0 := by
  obtain ⟨a, b, c, e⟩ := finish_moves is lat (.next s) rfl hf
  obtain ⟨fg, fe, ff, fpd⟩ := final_congr c
  change OnlyCtx is.ctx s _ at a
  change Ctx.Kept (s.ctx is.ctx) _ at b
  change Ctx.SameRegs (s.ctx is.ctx) _ at c
  change _ = (s.final is.ctx).g at fg
  change _ = (s.final is.ctx).e at fe
  change _ = (s.final is.ctx).fp at ff
  change ∀ l, _ = ((s.final is.ctx).lane l).p at fpd
  have hz : ∀ l, is.act.getLsbD l = false := fun l => by rw [h0]; exact BitVec.getLsbD_zero
  generalize finish is lat (.next s) = t at *
  refine ⟨a, fun l h64 => ?_, b, fun l m _ _ => ?_, fun l m _ _ => ?_, fun l j _ _ => ?_, ?_, fun _ => ?_⟩
  · rw [e l h64]
    show (if is.path.getLsbD l = true ∧ (0 : Word64).getLsbD l = false then nextPc is.h is.hdr is.idx
      else (((s.ctx is.ctx).lane l).hdr, ((s.ctx is.ctx).lane l).idx)) = _
    simp
  · have h1 : (t.final is.ctx).reg l m = (s.final is.ctx).reg l m := by unfold Ctx.reg; rw [fg]
    rw [h1, hz l]; rfl
  · have h1 : (t.final is.ctx).empty l m = (s.final is.ctx).empty l m := by unfold Ctx.empty; rw [fe]
    rw [h1, hz l]; rfl
  · have h1 : ((t.final is.ctx).lane l).pred j = ((s.final is.ctx).lane l).pred j := by unfold Lane.pred; rw [fpd l]
    rw [h1, hz l]; rfl
  · rw [ff]; simp
  · exact ⟨⟨c.g, c.e, c.fp, rfl, c.p⟩, fun w hw => .inl (by rw [c.wbs] at hw; exact hw)⟩

theorem finish_stuck {is : Issue} {lat : Nat} {d : Done} (hj : d.jump = []) (hf : ∀ l, ((d.s.ctx is.ctx).lane l).fails = []) :
    (finish is lat d).stuck = d.s.stuck := (finish_moves is lat d hj hf).1.stuck

/-- The lanes' writes of a value each, as one list. -/
theorem produces_of_dst {s : State} {is : Issue} {lat : Nat} {d : Dst} {n : Nat} {v : Nat → Nat} {fl : Flags} {fp : Bool}
    (hf : ∀ l, ((s.ctx is.ctx).lane l).fails = []) (hd : Dst.Fits d n) :
    Produces s (finish is lat (.next (s.later is.ctx lat ((lanesOf is.act).flatMap fun l => dstPut d n l (v l)) fl fp))) is lat
      (fun l => d.word n (v l)) (fun l => d.truth (v l)) fl := by
  refine produces_of_later hf (resOk_flatMap fun k hk => resOk_dstPut hd (mem_lanesOf.mp hk).1 _) ?_ ?_ ?_
  · intro l m h64 _ old
    rw [resReg_flatMap _ l m (fun k hk old => by rw [resReg_dstPut, if_neg hk]) _ (nodup_lanesOf _), resReg_dstPut, if_pos rfl]
    by_cases e : is.act.getLsbD l = true
    · rw [if_pos (mem_lanesOf.mpr ⟨h64, e⟩), if_pos e]
    · rw [if_neg (fun h => e (mem_lanesOf.mp h).2), if_neg e]; rfl
  · intro l m h64 _
    rw [resHits_flatMap _ l m (fun k hk => by rw [resHits_dstPut]; simp [hk]), resHits_dstPut]
    by_cases e : is.act.getLsbD l = true
    · simp [e, mem_lanesOf.mpr ⟨h64, e⟩]
    · have : l ∉ lanesOf is.act := fun h => e (mem_lanesOf.mp h).2
      simp [e, this]
  · intro l j h64 _ old
    rw [resPred_flatMap _ l j (fun k hk old => by rw [resPred_dstPut, if_neg hk]) _ (nodup_lanesOf _), resPred_dstPut, if_pos rfl]
    by_cases e : is.act.getLsbD l = true
    · rw [if_pos (mem_lanesOf.mpr ⟨h64, e⟩), if_pos e]
    · rw [if_neg (fun h => e (mem_lanesOf.mp h).2), if_neg e]; rfl

theorem later_stuck (s : State) (c : CtxId) (lat : Nat) (rs : List Res) (fl : Flags) (fp : Bool) :
    (s.later c lat rs fl fp).stuck = s.stuck := by unfold State.later; dsimp only; split <;> rfl

theorem later_fails (s : State) (c : CtxId) (lat : Nat) (rs : List Res) (fl : Flags) (fp : Bool) (l : Nat) :
    (((s.later c lat rs fl fp).ctx c).lane l).fails = ((s.ctx c).lane l).fails := by
  unfold State.later
  dsimp only
  split
  · rw [State.ctx_modCtx_same]; exact (congrArg Lane.fails (Ctx.applyRes_lane rs l (s.ctx c)) : _)
  · rw [State.ctx_modCtx_same]; rfl

/-- A destination that its row admits fits. -/
theorem fits_of_row {i : Instr} {r : Row} {d : Dst} {n : Nat} (hr : i.row = some r) (hw : i.wf = true) (hd : r.d = d)
    (hn : (r.dk.form = .reg ∧ n ≤ r.dk.n) ∨ n = 1) : Dst.Fits d n := by
  intro k hk
  unfold Instr.wf at hw
  rw [hr] at hw
  have hw : r.check = true := hw
  simp only [Row.check, Bool.and_eq_true] at hw
  have ha := hw.1.1.1.1.2
  rw [hd, hk] at ha
  simp only [DK.admits, Bool.and_eq_true, Dst.ok, decide_eq_true_eq] at ha
  rcases hn with ⟨h1, h2⟩ | rfl
  · have := ha.2
    rw [h1] at this
    simp only [decide_eq_true_eq] at this
    omega
  · omega

/-- A word that gives each active lane one value at its destination, with the flags the lanes raise. -/
theorem gives_of_eff {i : Instr} {lat : Nat} {d : Dst} {n : Nat} {v : Issue → State → Nat → Nat} {fl : Issue → State → Flags} {fp : Bool}
    {eff : Issue → State → Option Done} (he : ∀ s, exec i s = issueWith i lat eff s)
    (hv : ∀ is s, is.act ≠ 0 → eff is s =
      some (.next (s.later is.ctx lat ((lanesOf is.act).flatMap fun l => dstPut d n l (v is s l)) (fl is s) fp)))
    (h0 : ∀ is s, is.act = 0 → fl is s = 0)
    (hd : ∀ r, i.row = some r → r.d = d ∧ ((r.dk.form = .reg ∧ n ≤ r.dk.n) ∨ n = 1)) : Gives i lat d n v fl := by
  intro s r hr hw hm
  have hf : ∀ l, ((s.ctx (s.issued r).ctx).lane l).fails = [] := hm.settled
  rw [he, issueWith_go hr hm]
  by_cases ha : (s.issued r).act = 0
  · rw [if_pos ha, ret_next ((finish_stuck rfl hf).trans hm.running), h0 _ _ ha]
    exact ⟨_, rfl, produces_of_idle hf ha⟩
  · rw [if_neg ha, hv _ _ ha]
    dsimp only
    rw [ret_next ((finish_stuck rfl (fun l => (later_fails _ _ _ _ _ _ l).trans (hf l))).trans ((later_stuck _ _ _ _ _ _).trans hm.running))]
    exact ⟨_, rfl, produces_of_dst hf (fits_of_row hr hw (hd r hr).1 (hd r hr).2)⟩

theorem laneFlags_idle (f : Issue → State → Nat → Flags) (is : Issue) (s : State) (h : is.act = 0) : laneFlags f is s = 0 := by
  unfold laneFlags; rw [h, lanesOf_zero]; rfl

/-- The same where each lane computes for itself. -/
theorem gives_of_perLane {i : Instr} {lat : Nat} {d : Dst} {n : Nat} {v : Issue → State → Nat → Nat} {fl : Issue → State → Nat → Flags}
    {fp : Bool} (he : ∀ s, exec i s = issueWith i lat (perLane lat fp fun is s l => ⟨dstPut d n l (v is s l), fl is s l⟩) s)
    (hd : ∀ r, i.row = some r → r.d = d ∧ ((r.dk.form = .reg ∧ n ≤ r.dk.n) ∨ n = 1)) :
    Gives i lat d n v (laneFlags fl) := by
  refine gives_of_eff (fp := fp) he (fun is s _ => ?_) (laneFlags_idle fl) hd
  unfold perLane laneFlags
  simp only [List.flatMap_map, List.foldl_map]

theorem laneFlags_none : laneFlags (fun _ _ _ => 0) = noFlags := by
  funext is s
  unfold laneFlags noFlags
  generalize lanesOf is.act = ls
  induction ls with
  | nil => rfl
  | cons a r ih => rw [List.foldl_cons]; simpa using ih

/-- The same without flags. -/
theorem gives_of_value {i : Instr} {lat : Nat} {d : Dst} {n : Nat} {v : Issue → State → Nat → Nat}
    (he : ∀ s, exec i s = issueWith i lat (perLane lat false fun is s l => ⟨dstPut d n l (v is s l), 0⟩) s)
    (hd : ∀ r, i.row = some r → r.d = d ∧ ((r.dk.form = .reg ∧ n ≤ r.dk.n) ∨ n = 1)) : Gives i lat d n v noFlags := by
  rw [← laneFlags_none]
  exact gives_of_perLane he hd

end Sys2Proof.Machine
end

