-- ==== Sys2Proof/Laws/Passes.lean ====
section
/-! SUPPORT. What a word that passes leaves, from what its effect answers: the machine the effect gives, the path moved past the word. -/

set_option Elab.async false

namespace Sys2Proof.Machine

theorem act_ne_zero {s : State} {r : Row} (h : s.guardMask r ≠ 0) : (s.issued r).act ≠ 0 := h

/-- The end of an issue without transfers, as a statement of what passes. -/
theorem passes_finish (is : Issue) (lat : Nat) (d : Done) (hj : d.jump = []) (hf : ∀ l, ((d.s.ctx is.ctx).lane l).fails = []) :
    Passes d.s (finish is lat d) is d.stay := by
  obtain ⟨h1, h2, h3, h4⟩ := finish_moves is lat d hj hf
  exact ⟨h1, h2, h3, h4⟩

/-- A word's issue whose effect answers a state: the machine is that state, with the path moved past the word but for the lanes held
at it. -/
theorem exec_passes {i : Instr} {lat : Nat} {eff : Issue → State → Option Done} {s : State} {r : Row} {u : State} {m : Word64}
    {b : Bool} (he : exec i s = issueWith i lat eff s) (hr : i.row = some r) (hm : MayIssue s r) (ha : s.guardMask r ≠ 0)
    (hd : eff (s.issued r) s = some ⟨u, m, [], b⟩) (hf : ∀ l, ((u.ctx (s.issued r).ctx).lane l).fails = []) (hu : u.stuck = none) :
    ∃ t, exec i s = .next t ∧ Passes u t (s.issued r) m := by
  rw [he, issueWith_go hr hm, if_neg (act_ne_zero ha), hd]
  dsimp only
  rw [ret_next ((finish_stuck rfl hf).trans hu)]
  exact ⟨_, rfl, passes_finish (s.issued r) lat ⟨u, m, [], b⟩ rfl hf⟩

/-- A word whose effect answers a state wherever its condition holds. -/
theorem doesBut_of {i : Instr} {lat : Nat} {eff : Issue → State → Option Done} {pre : Issue → State → Prop}
    {u : Issue → State → State} {stay : Issue → State → Word64} (he : ∀ s, exec i s = issueWith i lat eff s)
    (h : ∀ s r, i.row = some r → i.wf = true → MayIssue s r → pre (s.issued r) s →
      (∃ b, eff (s.issued r) s = some ⟨u (s.issued r) s, stay (s.issued r) s, [], b⟩) ∧
      ∀ l, (((u (s.issued r) s).ctx (s.issued r).ctx).lane l).fails = []) : DoesBut i pre u stay := by
  intro s r hr hw hm ha hp hu
  obtain ⟨⟨b, hd⟩, hf⟩ := h s r hr hw hm hp
  exact exec_passes (he s) hr hm ha hd hf hu

/-- A word whose effect does not come to pass where its condition holds waits there. -/
theorem waits_of {i : Instr} {lat : Nat} {eff : Issue → State → Option Done} {pre : Issue → State → Prop}
    (he : ∀ s, exec i s = issueWith i lat eff s)
    (h : ∀ s r, i.row = some r → i.wf = true → MayIssue s r → pre (s.issued r) s → eff (s.issued r) s = none) : Waits i pre := by
  intro s r hr hw hm ha hp
  rw [he, issueWith_go hr hm, if_neg (act_ne_zero ha), h s r hr hw hm hp]

end Sys2Proof.Machine
end

