-- ==== Sys2Proof/Tests/Slice0.lean ====
section
/-! SUPPORT. The model's own tests: words of the spec decode to their instructions, ill-formed terms are refused, single steps give the
values the spec states, and every statement that has hypotheses meets them somewhere. -/

set_option Elab.async false

namespace Sys2Proof.Tests

open Sys2Proof Machine

/-! ### Terms -/

/-- The control fields of a word with guard p7 that neither waits nor sets anything. -/
def c0 : Ctl := ⟨7, false, 0, 0, false, 0, 0⟩

def tw (d : Dst) (a b s : Opd) (ty : Ty) : TWord := ⟨c0, d, a, b, s, ty, .rne, false, false⟩
def qw (d : Dst) (a b : Opd) : QWord := ⟨c0, d, a, b⟩
def mw (d : Dst) (a b : Opd) (slot : Nat) (rt : Rt) (sc : Scope) (w : Nat) (ord : Ord) : MWord :=
  ⟨c0, d, a, b, slot, rt, sc, w, ord, 0⟩

/-- A word without operands. -/
def bare : TWord := tw (.g 0) (.g 0) (.g 0) (.g 0) .n8

/-- A binary 32-bit word. -/
def bin : TWord := tw (.g 8) (.g 16) (.g 24) (.g 0) .n32

/-! ### The decoder, on words the spec writes out -/

theorem test_decode_int : decode 0x00B880000A0204FE4001 = some (.addc ⟨{ c0 with pd := 1 }, .g 10, .g 2, .g 4, .zero, .n32, .rne, false, false⟩ 1) ∧
    decode 0x00B800000B0305F14007 = some (.addc ⟨c0, .g 11, .g 3, .g 5, .p 1, .n32, .rne, false, false⟩ 7) ∧
    decode 0x08380000_0101_FF00_0001 = some (.addImm (qw (.g 1) (.g 1) .imm) 1) := by decide +kernel

theorem test_decode_mov : decode 0x14B8800010FB00004000 =
    some (.mov ⟨{ c0 with pd := 1 }, .g 16, .tid, .g 0, .g 0, .n32, .rne, false, false⟩) := by decide +kernel

theorem test_decode_float : decode 0x20F900000A040506A000 =
      some (.fma ⟨{ c0 with pd := 2 }, .g 10, .g 4, .g 5, .g 6, .f32, .rne, false, false⟩ false) ∧
    decode 0x20F8001015161415A000 =
      some (.fma ⟨{ c0 with wm := 2 }, .g 21, .g 22, .g 20, .g 21, .f32, .rne, false, false⟩ false) := by decide +kernel

theorem test_decode_cmp : decode 0x40388000F010E5004002 =
    some (.cmp ⟨{ c0 with pd := 1 }, .p 0, .g 16, .k 5, .g 0, .n32, .rne, false, false⟩ .lt .plain) := by decide +kernel

theorem test_decode_cross : decode 0x588000000A09FF000001 =
      some (.shflDownImm ⟨{ c0 with p := 0 }, .g 10, .g 9, .imm⟩ 1 0) ∧
    decode 0x5100000008090000A000 =
      some (.redl ⟨{ c0 with p := 0 }, .g 8, .g 9, .g 0, .g 0, .f32, .rne, false, false⟩ .add) := by decide +kernel

theorem test_decode_memory : decode 0x603818001401FE292004 =
      some (.ld ⟨{ c0 with sa := 1, se := true }, .g 20, .g 1, .zero, 2, .si, .core, 2, .plain, 4⟩) ∧
    decode 0x607818000201FE16A000 =
      some (.st ⟨{ c0 with sa := 1, se := true }, .g 2, .g 1, .zero, 1, .wt, .module, 2, .plain, 0⟩) ∧
    decode 0x7038280006FEFE1EAC00 =
      some (.atomAdd ⟨{ c0 with sa := 2, se := true }, .g 6, .zero, .zero, 1, .nc, .module, 2, .acqrel, 0⟩) := by decide +kernel

theorem test_decode_drift : decode 0x7E38180006_01_FE_510000 =
      some (.dadd ⟨{ c0 with sa := 1, se := true }, .g 6, .g 1, .zero, 5, .own, .core, 0, .plain, 0⟩) ∧
    decode 0x7E78080028FEFE118000 =
      some (.dld ⟨{ c0 with se := true }, .g 40, .zero, .zero, 1, .own, .column, 0, .plain, 0⟩) := by decide +kernel

theorem test_decode_sync : decode 0x80380000000000028C00 = some (.fenceAcqrel (mw (.g 0) (.g 0) (.g 0) 0 .own .module 0 .acqrel)) ∧
    decode 0x80B8000005FEFE62C000 = some (.claspArrive (mw (.g 5) .zero .zero 6 .own .module 4 .plain)) ∧
    decode 0x8178000008FEFE62C000 = some (.claspTwait (mw (.g 8) .zero .zero 6 .own .module 4 .plain)) := by decide +kernel

theorem test_decode_queue : decode 0x82780000080300000002 = some (.qpushRsv (tw (.g 8) (.g 3) (.g 0) (.g 0) .n8) 2 0) ∧
    decode 0x83B800000CFE00000003 = some (.xpush (tw (.g 12) .zero (.g 0) (.g 0) .n8) 3) := by decide +kernel

theorem test_decode_engine : decode 0x907800000002FE4069C0 = some (.mwld (qw (.g 0) (.g 2) .zero) 4 0 6 .bf16 3) ∧
    decode 0x90B80000000100000000 = some (.mmac (qw (.g 0) (.g 1) (.g 0))) ∧
    decode 0x94380000000000210800 = some (.cpGoNoc (qw (.g 0) (.g 0) (.g 0)) 2 1) ∧
    decode 0x96380000000400000000 = some (.collGo (qw (.g 0) (.g 4) (.g 0))) := by decide +kernel

theorem test_decode_control : decode 0xA0000000000000000005 = some (.br ⟨{ c0 with p := 0 }, .g 0, .g 0, .g 0⟩ 5) ∧
    decode 0xA0780000000000000007 = some (.jmp (qw (.g 0) (.g 0) (.g 0)) 7) ∧
    decode 0xA2380000_00FB_FE00_000C = some (.spawn (qw (.g 0) .tid .zero) 12) ∧
    decode 0xA1B80000000000000000 = some (.exit bare) := by decide +kernel

theorem test_decode_system : decode 0xB0380000090000122001 = some (.sysrd (qw (.g 9) (.g 0) (.g 0)) 0x122 true) ∧
    decode 0xB0780000000A00121001 = some (.syswr (qw (.g 0) (.g 10) (.g 0)) 0x121 true) ∧
    decode 0xB1B80000061104000002 = some (.trapretEnd (tw (.g 6) (.g 17) (.g 4) (.g 0) .n8)) ∧
    decode 0xB2F8000006FE00003000 = some (.pmReqEnterM2 (qw (.g 6) .zero (.g 0))) := by decide +kernel

/-- An unassigned class, an unassigned code of a class, and an unused source that is not 0 are no instruction (03 R76; 02 R57). -/
theorem test_decode_refuses : decode 0xC0380000000000000000 = none ∧ decode 0x0FF80000000000000000 = none ∧
    decode 0xA1B80000000100000000 = none := by decide +kernel

/-! ### Ill-formed terms, one for each check -/

theorem test_wf_control : (Instr.add { bin with c := { c0 with p := 8 } }).wf = false ∧ (Instr.add { bin with c := { c0 with wm := 256 } }).wf = false ∧
    (Instr.jmp { qw (.g 0) (.g 0) (.g 0) with c := { c0 with pd := 1 } } 5).wf = false ∧
    (Instr.add { bin with c := { c0 with se := true } }).wf = false ∧ (Instr.add { bin with c := { c0 with sa := 1 } }).wf = false ∧
    (Instr.add { bin with c := { c0 with g := 4 } }).wf = false ∧
    (Instr.fenceAcq { mw (.g 0) (.g 0) (.g 0) 0 .own .module 0 .acq with c := { c0 with g := 1 } }).wf = false := by decide +kernel

theorem test_wf_operands : (Instr.add { bin with d := .g 224 }).wf = false ∧ (Instr.add { bin with d := .p 7 }).wf = false ∧
    (Instr.add { bin with ty := .n64, d := .g 9 }).wf = false ∧ (Instr.add { bin with ty := .n64, a := .g 17 }).wf = false ∧
    (Instr.add { bin with a := .imm }).wf = false ∧ (Instr.add { bin with s := .g 1 }).wf = false ∧
    (Instr.not bin).wf = false ∧ (Instr.addImm (qw (.g 8) (.g 16) (.g 24)) 5).wf = false ∧
    (Instr.exit { bare with d := .g 1 }).wf = false ∧ (Instr.recMk (mw (.g 16) (.g 16) (.g 0) 0 .own .module 2 .plain)).wf = false ∧
    (Instr.cmp { bin with d := .g 8 } .lt .plain).wf = false := by decide +kernel

theorem test_wf_modifiers : (Instr.add { bin with ty := .f32 }).wf = false ∧ (Instr.add { bin with rnd := .rtz }).wf = false ∧
    (Instr.and { bin with sat := true }).wf = false ∧ (Instr.add { bin with ftz := true }).wf = false ∧
    (Instr.lea { bin with ty := .s32 } 8).wf = false := by decide +kernel

theorem test_wf_fields : (Instr.br (qw (.g 0) (.g 0) (.g 0)) (2 ^ 24)).wf = false ∧
    (Instr.ld (mw (.g 8) (.g 16) (.g 24) 16 .own .module 2 .plain)).wf = false ∧
    (Instr.ld (mw (.g 8) (.g 16) (.g 24) 2 .own .module 5 .plain)).wf = false ∧
    (Instr.ld (mw (.g 8) (.g 16) (.g 24) 2 .own .module 2 .rel)).wf = false ∧
    (Instr.st { mw (.g 8) (.g 16) (.g 24) 2 .own .module 2 .plain with disp := 1024 }).wf = false ∧
    (Instr.mwld (qw (.g 0) (.g 2) .zero) 16 0 6 .bf16 3).wf = false ∧ (Instr.registerWrite 4096 0 0 0).wf = false := by decide +kernel

/-! ### States -/

/-- The header word of a block of one word. -/
def hw0 : Word64 := BitVec.ofNat 64 placeHeader

def lane0 : Lane := { Lane.none with act := true, hdr := 0x4000 }

/-- Registers of the first two lanes, alike. -/
def file (rs : List (Nat × Nat)) : SMap Word :=
  rs.map (fun p => (p.1, BitVec.ofNat 32 p.2)) ++ rs.map fun p => (256 + p.1, BitVec.ofNat 32 p.2)

/-- Bytes at an address, as memory holds them. -/
def bytesFrom (a n v : Nat) : SMap Byte := ((List.range n).map fun i => (a + i, BitVec.ofNat 8 (v / 256 ^ i))).filter fun p => p.2 ≠ 0

/-- A page table that maps the first 64 GiB to themselves (09 R209, R210). -/
def table : SMap Byte := [(0, 1), (1, 0x20), (0x2000, 0xDF)]

/-- Column core 0 at supervisor level, with registers, records and memory, 2 µs after reset, when no slot takes a resource (18 R390). -/
def ccWith (rs : List (Nat × Nat)) (b : SMap Rec256) (m : SMap Byte) : State := { State.reset with
  sel := ⟨.cc 0, 0, 1, hw0⟩
  now := 24000
  mem := table ++ m
  ctxs := [(0, { Ctx.columnCore .running with lanes := [(0, lane0)], g := file rs, b := b })] }

/-- A gang of two threads on core 0, of a launch with an arena of 16 KiB. -/
def gangWith (rs : List (Nat × Nat)) (b : SMap Rec256) (m : SMap Byte) : State := { State.reset with
  sel := ⟨.gang 0, 0, 3, hw0⟩
  now := 24000
  mem := table ++ m
  ctxs := [(0, Ctx.columnCore .running), (64, { Ctx.none with
    live := true, run := .running, handle := 0x10, lanes := [(0, lane0), (1, lane0)], g := file rs, b := b })]
  la := { State.reset.la with
    launches := [{ Launch.start 0x10 (leBytes 128 0) 0 with stage := .distributed }]
    arenas := [⟨0x10, 0, 0, 0x4000, 4⟩] } }

def cc : State := ccWith [] [] []
def gang : State := gangWith [] [] []

/-- The state after one word. -/
def after (i : Instr) (s : State) : State :=
  match exec i s with
  | .next t => t
  | _ => s

/-- A register of column core 0 after one word. -/
def ccReg (i : Instr) (rs : List (Nat × Nat)) (r : Nat) : Word := ((after i (ccWith rs [] [])).ctx (.cc 0)).reg 0 r

/-- A register of a thread of the gang once the results of one word have arrived. -/
def gangReg (i : Instr) (s : State) (l r : Nat) : Word := ((after i s).final (.gang 0)).reg l r

/-! ### Single steps -/

/-- 07 R165: 0xFFFF_FFFF + 2 wraps to 1. -/
theorem test_add_wraps : ccReg (.add bin) [(16, 0xFFFFFFFF), (24, 2)] 8 = 1 := by decide +kernel

/-- 07 R165: with sat, the most negative s32 less 1 stays. -/
theorem test_sub_clamps : ccReg (.sub { bin with ty := .s32, sat := true }) [(16, 0x80000000), (24, 1)] 8 = 0x80000000 := by
  decide +kernel

/-- 07 R168: 0xFFFF_FFFF + 0 + carry 1 gives 0 and carries out. -/
theorem test_addc_carries :
    let t := after (.addc { bin with b := .zero, s := .g 32 } 1) (ccWith [(16, 0xFFFFFFFF), (32, 1)] [] [])
    (t.ctx (.cc 0)).reg 0 8 = 0 ∧ ((t.ctx (.cc 0)).lane 0).pred 1 = true := by decide +kernel

/-- 07 R168: a division by zero gives all ones, and its remainder the dividend. -/
theorem test_div_by_zero : ccReg (.div bin) [(16, 7)] 8 = 0xFFFFFFFF ∧ ccReg (.rem bin) [(16, 7)] 8 = 7 := by decide +kernel

/-- 07 R168: -7 divided by 2 is -3, remainder -1. -/
theorem test_div_truncates : ccReg (.div { bin with ty := .s32 }) [(16, 0xFFFFFFF9), (24, 2)] 8 = 0xFFFFFFFD ∧
    ccReg (.rem { bin with ty := .s32 }) [(16, 0xFFFFFFF9), (24, 2)] 8 = 0xFFFFFFFF := by decide +kernel

/-- 07 R173: a shift by the width gives 0, and an arithmetic one the sign. -/
theorem test_shift_by_width : ccReg (.shl bin) [(16, 0xFFFFFFFF), (24, 32)] 8 = 0 ∧
    ccReg (.sar bin) [(16, 0x80000000), (24, 32)] 8 = 0xFFFFFFFF := by decide +kernel

/-- 07 R174: four bits from bit 4 of 0x80, with the sign. -/
theorem test_bfe_extends : ccReg (.bfe { bin with ty := .s32 }) [(16, 0x80), (24, 0x0404)] 8 = 0xFFFFFFF8 := by decide +kernel

/-- A source that is also the destination is read first. -/
theorem test_source_is_destination : ccReg (.sub { bin with d := .g 16 }) [(16, 5), (24, 3)] 16 = 2 := by decide +kernel

/-- 08 R189: 1.5 times 2 plus 1 is 4. -/
theorem test_fma : ccReg (.fma { bin with s := .g 32, ty := .f32 } false)
    [(16, 0x3FC00000), (24, 0x40000000), (32, 0x3F800000)] 8 = 0x40800000 := by decide +kernel

/-- 08 R191: one divided by zero is infinity and raises a flag. -/
theorem test_fdiv_by_zero :
    let t := after (.fdiv { bin with ty := .f32 } false) (ccWith [(16, 0x3F800000)] [] [])
    (t.ctx (.cc 0)).reg 0 8 = 0x7F800000 ∧ (t.ctx (.cc 0)).fp ≠ 0 := by decide +kernel

/-- 07 R182: an unordered compare is not less. -/
theorem test_cmp_nan :
    ((((after (.cmp { bin with d := .p 1, ty := .f32 } .lt .plain) (ccWith [(16, 0x7FC00000), (24, 0x3F800000)] [] [])).ctx
      (.cc 0)).lane 0).pred 1) = false := by decide +kernel

/-- 08 R204: the sum over two threads, 5 each. -/
theorem test_redl_adds : gangReg (.redl { bin with b := .g 0 } .add) (gangWith [(16, 5)] [] []) 1 8 = 10 := by decide +kernel

/-- 08 R204: the inclusive scan. -/
theorem test_scanl : gangReg (.scanl { bin with b := .g 0 } .add) (gangWith [(16, 5)] [] []) 0 8 = 5 ∧
    gangReg (.scanl { bin with b := .g 0 } .add) (gangWith [(16, 5)] [] []) 1 8 = 10 := by decide +kernel

/-- 07 R184: two threads are active. -/
theorem test_lanemask : gangReg (.lanemaskAct { bare with d := .g 8 }) gang 0 8 = 3 := by decide +kernel

/-- 06 R157: a jump of five units goes 80 bytes on, to word 0. -/
theorem test_jmp : let x := ((after (.jmp (qw (.g 0) (.g 0) (.g 0)) 5) cc).ctx (.cc 0)).lane 0
    x.hdr = 0x4050 ∧ x.idx = 0 := by decide +kernel

/-- 02 R54: with guard 0 nothing is written. -/
theorem test_guard_zero : ((after (.add { bin with c := { c0 with p := 0 } }) (ccWith [(16, 5)] [] [])).ctx (.cc 0)).reg 0 8 = 0 := by
  decide +kernel

/-- 19 R402: a write of sys.svec is read back with its low bits 0. -/
theorem test_svec : (after (.syswr (qw (.g 0) (.g 16) (.g 0)) 0x001 true) (ccWith [(16, 0x1234567F)] [] [])).sysGet SysReg.svec 0 =
    0x12345670 := by decide +kernel

/-- 19 R410: halt stops the core. -/
theorem test_halt : ((after (.halt bare) cc).ctx (.cc 0)).run = .halted := by decide +kernel

/-! ### Where the statements' hypotheses are met -/

/-- A word that may issue on the selected path, as a check that can be evaluated. -/
def issuable (s : State) (i : Instr) : Bool :=
  match i.row with
  | none => false
  | some r =>
    let c := s.ctx s.sel.ctx
    let ls := lanesOf s.sel.lanes
    i.wf && decide (s.sel.lanes ≠ 0) && s.stuck.isNone && (c.lanes.all fun p => p.2.fails.isEmpty) &&
    (ls.all fun l => decide ((c.lane l).sb.toNat &&& r.c.wm = 0)) && !s.illegalHere r &&
    (!r.c.se || ls.all fun l => !(c.lane l).sb.getLsbD r.c.sa) && (ls.all fun l => s.laneReady s.sel.ctx l r) &&
    (!r.privileged || s.isSup s.sel.ctx) &&
    (ls.all fun l => r.sources.all fun u => (List.range u.n).all fun i => !c.empty l (u.reg + i))

theorem fails_nil {m : SMap Lane} (h : (m.all fun p => p.2.fails.isEmpty) = true) (l : Nat) : (SMap.get Lane.none m l).fails = [] := by
  induction m with
  | nil => rfl
  | cons p r ih =>
    simp only [List.all_cons, Bool.and_eq_true, List.isEmpty_iff] at h
    rw [SMap.get_cons]
    split
    · exact h.1
    · split
      · rfl
      · exact ih h.2

theorem mayIssue_of {s : State} {i : Instr} {r : Row} (hr : i.row = some r) (h : issuable s i = true) : MayIssue s r := by
  unfold issuable at h
  rw [hr] at h
  simp only [Bool.and_eq_true, List.all_eq_true, decide_eq_true_eq, Bool.or_eq_true, Bool.not_eq_true', Option.isNone_iff_eq_none] at h
  obtain ⟨⟨⟨⟨⟨⟨⟨⟨⟨-, h1⟩, h2⟩, h3⟩, h4⟩, h5⟩, h6⟩, h7⟩, h8⟩, h9⟩ := h
  refine ⟨⟨⟨h1, h2, fun l => ?_, h4⟩, h5, fun e => ?_, h7⟩, ?_, fun l hl u hu _ i hi => ?_⟩
  · exact fails_nil (List.all_eq_true.mpr h3) l
  · rcases h6 with k | k
    · rw [k] at e; cases e
    · exact k
  · exact .inr (h8.imp id id)
  · exact h9 l hl u hu i (List.mem_range.mpr hi)

theorem issuable_sound {s : State} {i : Instr} (h : issuable s i = true) :
    ∃ r, i.row = some r ∧ i.wf = true ∧ MayIssue s r := by
  cases hr : i.row with
  | none => unfold issuable at h; rw [hr] at h; cases h
  | some r =>
    refine ⟨r, rfl, ?_, mayIssue_of hr h⟩
    unfold issuable at h
    rw [hr] at h
    simp only [Bool.and_eq_true] at h
    exact h.1.1.1.1.1.1.1.1.1

/-- Every word of a list may issue. -/
theorem all_issue {s : State} {is : List Instr} (h : (is.all (issuable s)) = true) :
    ∀ i ∈ is, ∃ r, i.row = some r ∧ i.wf = true ∧ MayIssue s r :=
  fun i hi => issuable_sound (List.all_eq_true.mp h i hi)

theorem witness_IntegerArithmetic : (∀ i ∈ ([
    .add bin, .sub bin, .mul bin,
    .mulhi bin, .mad (tw (.g 8) (.g 16) (.g 24) (.g 32) .n32), .madhi (tw (.g 8) (.g 16) (.g 24) (.g 32) .n32),
    .div bin, .rem bin, .neg (tw (.g 8) (.g 16) (.g 0) (.g 0) .s32),
    .abs (tw (.g 8) (.g 16) (.g 0) (.g 0) .s32), .min bin, .max bin,
    .lea bin 3, .sad (tw (.g 8) (.g 16) (.g 24) (.g 32) .n32), .dp4 (tw (.g 8) (.g 16) (.g 24) (.g 32) .n8) false,
    .addImm (qw (.g 8) (.g 16) .imm) 5, .subImm (qw (.g 8) (.g 16) .imm) 5, .mulImm (qw (.g 8) (.g 16) .imm) 5,
    .minImm (qw (.g 8) (.g 16) .imm) 5, .maxImm (qw (.g 8) (.g 16) .imm) 5,
    .addc (tw (.g 8) (.g 16) (.g 24) (.g 32) .n32) 1, .subb (tw (.g 8) (.g 16) (.g 24) (.g 32) .n32) 1] : List Instr),
    ∃ r, i.row = some r ∧ i.wf = true ∧ MayIssue cc r) ∧
    ([Ty.s8, .n8, .s16, .n16, .s32, .n32, .s64, .n64].contains .s8 = true) ∧
    (-129 < Ty.s8.minVal ∧ Ty.s8.maxVal < 128) ∧ Ty.s8.value (fit true .s8 (-129)) = -128 ∧ Ty.s8.value (fit true .s8 128) = 127 ∧
    Ty.s8.value (fit false .s8 128) = -128 := ⟨all_issue (by decide +kernel), by decide +kernel⟩

/-- A bin of one thread whose launch has one argument: its first lane has the thread, its second none; k0 has the argument. -/
theorem witness_SpecialSources :
    let b : Bin := ⟨0, 15, 0x10, 0x4000, [⟨5, 6, 7, false, none⟩], 0, 256, true, 1⟩
    let q : Launch := { Launch.start 0x10 (leBytes 128 0) 0 with args := [9] }
    let c := gangOf b q 0 0 0 0 0
    b.seeds[0]? = some ⟨5, 6, 7, false, none⟩ ∧ (c.lane 0).tid = 5 ∧ q.args[0]? = some 9 ∧ SMap.get 0 c.k 0 = 9 ∧ q.args.length ≤ 1 ∧
    SMap.get 0 c.k 1 = 0 := by decide +kernel

theorem witness_BitsAndMoves : ∀ i ∈ ([
    .and bin, .or bin, .xor bin,
    .andn bin, .orn bin, .not (tw (.g 8) (.g 16) (.g 0) (.g 0) .n32),
    .shl bin, .shr bin, .sar bin,
    .rol bin, .ror bin, .bfe bin,
    .bfi (tw (.g 8) (.g 16) (.g 24) (.g 32) .n32), .brev (tw (.g 8) (.g 16) (.g 0) (.g 0) .n32), .clz (tw (.g 8) (.g 16) (.g 0) (.g 0) .n32),
    .ctz (tw (.g 8) (.g 16) (.g 0) (.g 0) .n32), .popc (tw (.g 8) (.g 16) (.g 0) (.g 0) .n32), .perm (tw (.g 8) (.g 16) (.g 24) (.g 32) .n32),
    .mov (tw (.g 8) (.g 16) (.g 0) (.g 0) .n32), .sel (tw (.g 8) (.g 16) (.g 24) (.g 32) .n32), .movi (qw (.g 8) .imm (.g 0)) 5,
    .movhi (qw (.g 8) .imm (.g 24)) 5, .movk (qw (.g 8) .imm (.g 24)) 5 1, .andImm (qw (.g 8) (.g 16) .imm) 5,
    .orImm (qw (.g 8) (.g 16) .imm) 5, .xorImm (qw (.g 8) (.g 16) .imm) 5, .shlImm (qw (.g 8) (.g 16) .imm) 5,
    .shrImm (qw (.g 8) (.g 16) .imm) 5, .sarImm (qw (.g 8) (.g 16) .imm) 5, .rolImm (qw (.g 8) (.g 16) .imm) 5,
    .rorImm (qw (.g 8) (.g 16) .imm) 5] : List Instr),
    ∃ r, i.row = some r ∧ i.wf = true ∧ MayIssue cc r := all_issue (by decide +kernel)

theorem witness_ComparesAndPredicates : ∀ i ∈ ([
    .cmp (tw (.p 1) (.g 16) (.g 24) (.g 0) .n32) .lt .plain, .tst (tw (.p 1) (.g 16) (.g 24) (.g 0) .n32) false, .pand (tw (.p 1) (.g 16) (.g 24) (.g 0) .n8),
    .por (tw (.p 1) (.g 16) (.g 24) (.g 0) .n8), .pxor (tw (.p 1) (.g 16) (.g 24) (.g 0) .n8), .pnot (tw (.p 1) (.g 16) (.g 0) (.g 0) .n8),
    .pmov (tw (.g 8) (.g 16) (.g 0) (.g 0) .n8), .voteAny (tw (.p 1) (.g 16) (.g 0) (.g 0) .n8), .voteAll (tw (.p 1) (.g 16) (.g 0) (.g 0) .n8),
    .ballot (tw (.g 8) (.g 16) (.g 0) (.g 0) .n8), .lanemaskAct (tw (.g 8) (.g 0) (.g 0) (.g 0) .n8), .lanemaskAbs (tw (.g 8) (.g 16) (.g 0) (.g 0) .n8),
    .lanemaskRel (tw (.g 8) (.g 16) (.g 0) (.g 0) .n8), .pmovAll (tw (.g 8) (.g 0) (.g 0) (.g 0) .n8)] : List Instr),
    ∃ r, i.row = some r ∧ i.wf = true ∧ MayIssue cc r := all_issue (by decide +kernel)

theorem witness_FloatingArithmetic : ∀ i ∈ ([
    .fadd (tw (.g 8) (.g 16) (.g 24) (.g 0) .f32) false, .fsub (tw (.g 8) (.g 16) (.g 24) (.g 0) .f32) false, .fmul (tw (.g 8) (.g 16) (.g 24) (.g 0) .f32) false,
    .fma (tw (.g 8) (.g 16) (.g 24) (.g 32) .f32) false, .fmin (tw (.g 8) (.g 16) (.g 24) (.g 0) .f32) false, .fmax (tw (.g 8) (.g 16) (.g 24) (.g 0) .f32) false,
    .fabs (tw (.g 8) (.g 16) (.g 0) (.g 0) .f32) false, .fneg (tw (.g 8) (.g 16) (.g 0) (.g 0) .f32) false, .fdiv (tw (.g 8) (.g 16) (.g 24) (.g 0) .f32) false,
    .fsqrt (tw (.g 8) (.g 16) (.g 0) (.g 0) .f32) false, .frcp (tw (.g 8) (.g 16) (.g 0) (.g 0) .f32) false, .frsq (tw (.g 8) (.g 16) (.g 0) (.g 0) .f32) false,
    .fex2 (tw (.g 8) (.g 16) (.g 0) (.g 0) .f32) false, .flg2 (tw (.g 8) (.g 16) (.g 0) (.g 0) .f32) false, .fcls (tw (.g 8) (.g 16) (.g 0) (.g 0) .f32) false,
    .fscl (tw (.g 8) (.g 16) (.g 24) (.g 0) .f32) false] : List Instr),
    ∃ r, i.row = some r ∧ i.wf = true ∧ MayIssue cc r := all_issue (by decide +kernel)

theorem witness_ConversionsAndBlocks : ∀ i ∈ ([
    .cvt (tw (.g 8) (.g 16) (.g 0) (.g 0) .n32) .n32 0, .frnd (tw (.g 8) (.g 16) (.g 0) (.g 0) .f32), .pack (tw (.g 8) (.g 16) (.g 24) (.g 32) .n8) 0,
    .unpk (tw (.g 8) (.g 16) (.g 0) (.g 0) .n8) 0, .qz4 (tw (.g 8) (.g 16) (.g 0) (.g 0) .f32), .qz8 (tw (.g 8) (.g 16) (.g 0) (.g 0) .f32),
    .dqz4 (tw (.g 8) (.g 16) (.g 24) (.g 32) .f32), .dqz8 (tw (.g 8) (.g 16) (.g 24) (.g 32) .f32), .qres (tw (.g 8) (.g 16) (.g 24) (.g 0) .bf16)] : List Instr),
    ∃ r, i.row = some r ∧ i.wf = true ∧ MayIssue cc r := all_issue (by decide +kernel)

theorem witness_CrossLaneWords : ∀ i ∈ ([
    .redl (tw (.g 8) (.g 16) (.g 0) (.g 0) .n32) .add, .scanl (tw (.g 8) (.g 16) (.g 0) (.g 0) .n32) .add, .bcast bin] : List Instr),
    ∃ r, i.row = some r ∧ i.wf = true ∧ MayIssue cc r := all_issue (by decide +kernel)

theorem witness_CrossLaneWords_gang : ∀ i ∈ ([
    .shflIdx bin 0, .shflUp bin 0, .shflDown bin 0,
    .shflXor bin 0, .shflIdxImm (qw (.g 8) (.g 16) .imm) 1 0, .shflUpImm (qw (.g 8) (.g 16) .imm) 1 0,
    .shflDownImm (qw (.g 8) (.g 16) .imm) 1 0, .shflXorImm (qw (.g 8) (.g 16) .imm) 1 0] : List Instr),
    ∃ r, i.row = some r ∧ i.wf = true ∧ MayIssue gang r := all_issue (by decide +kernel)

/-- A word meets every hypothesis of a statement that it completes, waits or traps: it may issue with some guard at 1, its
condition holds, and its effect meets no absent memory. -/
def Meets (s : State) (i : Instr) (pre : Issue → State → Prop) (u : Issue → State → State) : Prop :=
  ∃ r, i.row = some r ∧ i.wf = true ∧ MayIssue s r ∧ s.guardMask r ≠ 0 ∧ pre (s.issued r) s ∧ (u (s.issued r) s).stuck = none

theorem meets_of {s : State} {i : Instr} {r : Row} {pre : Issue → State → Prop} {u : Issue → State → State} (hr : i.row = some r)
    (h : issuable s i = true) (g : s.guardMask r ≠ 0) (p : pre (s.issued r) s) (k : (u (s.issued r) s).stuck = none) :
    Meets s i pre u := by
  obtain ⟨q, hq, hw, -⟩ := issuable_sound h
  exact ⟨r, hr, hw, mayIssue_of hr h, g, p, k⟩

/-- The state is as the word finds it. -/
def here (_ : Issue) (s : State) : State := s

/-- Register values that a state is built with. -/
abbrev Regs := List (Nat × Nat)

/-- A record of memory: base, elements, their size and a space. -/
def record (base extx es space : Nat) : Rec256 := recSeal (BitVec.ofNat 256 (base + extx * 2 ^ 64 + es * 2 ^ 160 + space * 2 ^ 172))

/-- 1024 elements at 1 MiB in slot 2. -/
def buffer (es : Nat) : SMap Rec256 := [(2, record 0x100000 1024 es 0)]

theorem witness_GuardZeroPasses : ∃ r, (Instr.add { bin with c := { c0 with p := 0 } }).row = some r ∧ MayIssue cc r ∧ cc.guardMask r = 0 := by
  obtain ⟨r, hr, -, h⟩ := issuable_sound (s := cc) (i := .add { bin with c := { c0 with p := 0 } }) (by decide +kernel)
  refine ⟨r, hr, h, ?_⟩
  have : (Instr.add { bin with c := { c0 with p := 0 } }).row.map cc.guardMask = some 0 := by decide +kernel
  rw [hr] at this
  exact Option.some.inj this

/-- The bounds of an index: the last bit of a width, an empty field, a half beyond the register. -/
theorem witness_BitMeanings : (0 < 1 ∧ bitReverse 1 1 = 1) ∧ trailingZeros 32 0 = 32 ∧ leadingZeros 32 0x80000000 = 0 ∧
    bitExtract .s32 0xFF 0x2000 = 0xFF ∧ bitInsert 32 0xFFFF 0 0x1000 = 0xFFFF ∧ replaceHalf 0 0xFFFF 3 = 0xFFFF000000000000 := by
  decide +kernel

/-- 3, 2^128 and the least positive f32: a number of the format, one beyond it, a tiny one; 1.0 is a pattern of it. -/
theorem witness_FloatRounding : Ty.isFloat .f32 = true ∧ (⟨false, 3, 0, false⟩ : Exact).Is .f32 3 ∧
    Ty.roundF .f32 .rne false ⟨false, 3, 0, false⟩ = ⟨0x40400000, 0⟩ ∧
    Ty.roundF .f32 .rne false ⟨false, 1, 128, false⟩ = ⟨0x7F800000, Flags.ov ||| Flags.ix⟩ ∧
    Ty.roundF .f32 .rtz false ⟨false, 1, 128, false⟩ = ⟨0x7F7FFFFF, Flags.ov ||| Flags.ix⟩ ∧
    Ty.roundF .f32 .rne false ⟨false, 3, -150, false⟩ = ⟨2, Flags.uf ||| Flags.ix⟩ ∧
    Ty.flushes .f32 = true ∧ (Ty.num .f32 0x3F800000).isSome = true := by
  refine ⟨by decide, ⟨by decide, ?_, ?_⟩, ?_⟩
  · norm_num
  · simp [Exact.val]
  · decide +kernel

theorem witness_IntegerReductions : ∃ v : List (Option Nat), (bin.ty.isFloat = false) ∧ v.length = 64 ∧ ∃ x, some x ∈ v :=
  ⟨some 1 :: List.replicate 63 none, rfl, rfl, 1, List.mem_cons_self⟩

theorem witness_SwizzleAndWindows : (swizzle 0x90 3 = 0x80) ∧ (swizzle 0x7F 0 = 0x7F) ∧
    (let r := record 0x100000 1024 2 0
     Rec256.valid r = true ∧ Rec256.space r = 0 ∧ Rec256.swz r = 0 ∧ (1024 : Int) ≤ Rec256.extx r ∧ (0 : Int) < Rec256.rows r ∧
     (Rec256.base r : Int) + 1024 * (2 ^ Rec256.es r : Nat) + 0 * Rec256.stride r < (2 ^ 56 : Nat)) := by decide +kernel

theorem witness_AtomicValues : (2 ^ 32 - 1 < 2 ^ (8 * 2 ^ 2)) ∧ atomValue 0x00 2 (2 ^ 32 - 1) 1 0 = 0 ∧ atomValue 0x01 2 0 1 0 = 2 ^ 32 - 1 ∧
    atomValue 0x08 2 5 5 0 = 0 ∧ atomValue 0x09 2 0 5 0 = 5 ∧ atomValue 0x0A 2 5 5 9 = 9 ∧ atomValue 0x0B 2 0x80000000 1 0 = 0x80000000 ∧
    atomValue 0x0C 2 0x80000000 1 0 = 1 ∧ (2 ^ 64 - 1 < 2 ^ (8 * 2 ^ 3)) ∧ atomValue 0x00 3 (2 ^ 64 - 1) 1 0 = 0 ∧
    (Ty.num .f32 0x3F800000).isSome = true ∧ (Ty.num .f32 0xC0000000).isSome = true ∧ atomValue 0x20 2 0x3F800000 0xC0000000 0 = 0xBF800000 ∧
    atomValue 0x22 2 0x3F800000 0xC0000000 0 = 0xC0000000 ∧ Ty.decodeF .f32 0x7FC00001 = .nan false ∧
    atomValue 0x23 2 0x7FC00001 0xC0000000 0 = 0xC0000000 ∧ atomValue 0x23 2 0x7FC00001 0x7F800001 0 = 0x7FC00000 ∧
    Ty.decodeF .f32 0x7F800001 = .nan true := by decide +kernel

/-! A memory word whose lanes pass their checks. -/

/-- A finding is an address. -/
def isOk : Found → Bool
  | .ok _ _ => true
  | _ => false

theorem lets_of {f : MemForm} {fs : List LaneFound} (h : (fs.all fun q => isOk q.2) = true) : ∀ q ∈ fs, f.lets q.2 := by
  intro q hq
  have := List.all_eq_true.mp h q hq
  cases e : q.2 with
  | ok pa tgt => exact .inl ⟨pa, tgt, rfl⟩
  | _ => rw [e] at this; cases this

/-- No finding is at another module. -/
theorem noPeer_of {fs : List LaneFound} (h : (fs.all fun q => match q.2 with
    | .ok pa _ => !isPeer pa
    | _ => true) = true) : noPeer fs := by
  intro q hq pa tgt e
  have := List.all_eq_true.mp h q hq
  simpa [e] using this

/-- The hypotheses of a word whose operation goes out: what the lanes find, and the accesses they make. -/
def MeetsOut (s : State) (i : Instr) (m : MWord) (f : MemForm) (check : Issue → State → State → Nat → State × Found)
    (fin : Issue → State → Nat → Found → Found) (line : Issue → State → Nat → Word64)
    (cond : MemForm → List LaneFound → List Acc → Prop) : Prop :=
  ∃ r v qs, i.row = some r ∧ i.wf = true ∧ MayIssue s r ∧ s.guardMask r ≠ 0 ∧
    let is := s.issued r
    let g : MemForm := { f with line := line is s }
    s.checkLanes (check is s) (lanesOf is.act) = (v, qs) ∧
    let fs := (v.pageOutcome (s.who is.ctx) (is.vaOf s m g.n) qs).map fun q => (q.1, fin is s q.1 q.2)
    Rec256.valid (is.c.recSlot is.sub m.slot) = true ∧ (Rec256.space (is.c.recSlot is.sub m.slot) ≠ 4 ∨ g.ring = true) ∧
    (∀ q ∈ fs, g.lets q.2) ∧ cond g fs (fs.flatMap (g.accOf is v)) ∧ v.stuck = none

/-- What the lanes of a word find. -/
def foundOf (s : State) (r : Row) (m : MWord) (f : MemForm) (check : Issue → State → State → Nat → State × Found)
    (fin : Issue → State → Nat → Found → Found) : State × List LaneFound :=
  let is := s.issued r
  let z := s.checkLanes (check is s) (lanesOf is.act)
  (z.1, (z.1.pageOutcome (s.who is.ctx) (is.vaOf s m f.n) z.2).map fun q => (q.1, fin is s q.1 q.2))

theorem meetsOut_of {s : State} {i : Instr} {r : Row} {m : MWord} {f : MemForm} {check : Issue → State → State → Nat → State × Found}
    {fin : Issue → State → Nat → Found → Found} {line : Issue → State → Nat → Word64} {cond : MemForm → List LaneFound → List Acc → Prop}
    (hr : i.row = some r) (h : issuable s i = true) (g : s.guardMask r ≠ 0)
    (v : Rec256.valid ((s.issued r).c.recSlot (s.issued r).sub m.slot) = true)
    (sp : Rec256.space ((s.issued r).c.recSlot (s.issued r).sub m.slot) ≠ 4)
    (ok : ((foundOf s r m f check fin).2.all fun q => isOk q.2) = true)
    (c : ∀ g, cond g (foundOf s r m f check fin).2 ((foundOf s r m f check fin).2.flatMap
      (({ f with line := line (s.issued r) s } : MemForm).accOf (s.issued r) (foundOf s r m f check fin).1)))
    (k : (foundOf s r m f check fin).1.stuck = none) : MeetsOut s i m f check fin line cond := by
  obtain ⟨q, hq, hw, -⟩ := issuable_sound h
  exact ⟨r, _, _, hr, hw, mayIssue_of hr h, g, rfl, v, .inl sp, lets_of ok, c _, k⟩

/-- A memory word of slot 2, a 32-bit access. -/
def mem2 (d : Dst) : MWord := mw d (.g 16) (.g 24) 2 .own .module 2 .plain

/-- A plain word's operation goes out (10 R235). -/
def AccessMeets (s : State) (i : Instr) (m : MWord) (f : MemForm) (cond : MemForm → List LaneFound → List Acc → Prop) : Prop :=
  MeetsOut s i m f (fun is => f.check m is) (fun is => f.fin m is) (fun is => f.lineAt m is) cond

def ldForm : MemForm := { MemForm.plain (.load false) .read 4 4 with fills := true, ring := true }

theorem witness_MemoryWordsGoOut : AccessMeets (ccWith [(16, 1023)] (buffer 2) []) (.ld (mem2 (.g 8))) (mem2 (.g 8)) ldForm
    (fun f fs _ => f.late = true ∨ f.soft = true ∨ noPeer fs) :=
  meetsOut_of rfl (by decide +kernel) (by decide +kernel) (by decide +kernel) (by decide +kernel) (by decide +kernel)
    (fun _ => .inr (.inr (noPeer_of (by decide +kernel)))) (by decide +kernel)

/-- The second 64 GiB are another module's. -/
def peerState : State :=
  let s := ccWith [] [(2, record 0x1000000000 1024 2 0)] [(0x2008, 0xDF), (0x2009, 3), (0x200E, 1), (0x4003, 0x80)]
  { s.sysPut SysReg.pod 0 0x4000 with fa := { s.fa with links := [(0, { Link.reset with up := true, peer := 1 })] } }

theorem witness_MemoryWordsGoOut_peer : AccessMeets peerState (.ld (mem2 (.g 8))) (mem2 (.g 8)) ldForm
    (fun _ fs _ => ldForm.late = false ∧ ldForm.soft = false ∧ ¬ noPeer fs) :=
  meetsOut_of rfl (by decide +kernel) (by decide +kernel) (by decide +kernel) (by decide +kernel) (by decide +kernel)
    (fun _ => ⟨rfl, rfl, fun h => by
      have k := h (0, .ok (2 ^ 50 + 2 ^ 48) 3) (by decide +kernel) _ _ rfl
      revert k; decide +kernel⟩) (by decide +kernel)

/-- The gang's two lanes name an element on either side of the last page that is mapped. -/
def halfMapped : State := (gangWith [] [(2, record 0xFFFFFF000 2048 2 0)] []).modCtx (.gang 0) fun c => { c with g := [(16, 0), (272, 1024)] }

/-- One lane traps, and the other's access goes out. -/
theorem witness_MemoryWordsGoOut_trap : ∃ r v, (Instr.ld (mem2 (.g 8))).row = some r ∧ (Instr.ld (mem2 (.g 8))).wf = true ∧
    MayIssue halfMapped r ∧ halfMapped.guardMask r ≠ 0 ∧
    foundOf halfMapped r (mem2 (.g 8)) ldForm (fun is => ldForm.check (mem2 (.g 8)) is) (fun is => ldForm.fin (mem2 (.g 8)) is) =
      (v, [(0, .ok 0xFFFFFF000 0), (1, .trap trapTranslation 0x1000000000 true)]) := by
  obtain ⟨r, hr, hw, h⟩ := issuable_sound (s := halfMapped) (i := .ld (mem2 (.g 8))) (by decide +kernel)
  have e : some r = (Instr.ld (mem2 (.g 8))).row := hr.symm
  refine ⟨r, _, hr, hw, h, ?_, Prod.ext rfl ?_⟩ <;> obtain rfl := Option.some.inj e <;> decide +kernel

theorem witness_AtomicsGoOut : AccessMeets (ccWith [] (buffer 2) []) (.atomAdd (mem2 (.g 8))) (mem2 (.g 8)) (atomForm (mem2 (.g 8)) 0)
    (fun f fs _ => f.late = true ∨ f.soft = true ∨ noPeer fs) :=
  meetsOut_of rfl (by decide +kernel) (by decide +kernel) (by decide +kernel) (by decide +kernel) (by decide +kernel)
    (fun _ => .inr (.inr (noPeer_of (by decide +kernel)))) (by decide +kernel)

/-- A drift region of f32 over the first MiB's second half. -/
def driftState : State :=
  let s := ccWith [(16, 0)] (buffer 2) []
  { s with dr := { s.dr with table := [(0, ⟨true, 0, 0x100000, 0x3F800000, 1⟩)] } }

def driftWord (d : Dst) : MWord := mw d (.g 16) (.g 24) 2 .own .module 0 .plain

def dqryForm : MemForm := { MemForm.plain .dqry .read 0 1 with fills := true }

theorem witness_DriftWordsGoOut : MeetsOut driftState (.dqry (driftWord (.g 8))) (driftWord (.g 8)) dqryForm
    (fun is s0 s l => let i := is.index s (driftWord (.g 8)) l
      s.checkDrift (s0.who is.ctx) (is.c.recSlot is.sub 2) i.1 i.2 .read false) (fun _ _ _ q => q) (fun _ _ _ => 0) (fun _ _ _ => True) :=
  meetsOut_of rfl (by decide +kernel) (by decide +kernel) (by decide +kernel) (by decide +kernel) (by decide +kernel)
    (fun _ => trivial) (by decide +kernel)

theorem witness_RecordWords : Meets (ccWith [(16, 1024)] (buffer 2) []) (.recAdj (mem2 (.g 8))) always (fun is s => s.modCtx is.ctx fun c =>
      c.putRecSlot is.sub (slotOf (.g 8)) (recWindow (is.c.recSlot is.sub 2) (is.index s (mem2 (.g 8)) is.first).1
        (is.index s (mem2 (.g 8)) is.first).2)) ∧
    Meets cc (.recMk (mw (.g 8) (.g 16) (.g 0) 0 .own .module 2 .plain)) always here ∧
    Meets (ccWith [] (buffer 2) []) (.home (mem2 (.g 8))) (fun is s => Rec256.valid (is.c.recSlot is.sub 2) = true ∧
      Rec256.space (is.c.recSlot is.sub 2) ≠ 4 ∧ ∀ l ∈ lanesOf is.act,
        s.place? (s.who is.ctx) (is.c.recSlot is.sub 2) (is.index s (mem2 (.g 8)) l).1 (is.index s (mem2 (.g 8)) l).2 4 ≠ .bounds) here ∧
    Meets (ccWith [] (buffer 2) []) (.recLd (mem2 (.g 8))) (fun is s => Rec256.valid (is.c.recSlot is.sub 2) = true ∧
      Rec256.space (is.c.recSlot is.sub 2) ≠ 4 ∧
      (s.checkAccess (s.who is.ctx) (is.c.recSlot is.sub 2) 0 0 32 32 .read).2 = .ok 0x100000 0 ∧ isPeer 0x100000 = false) here ∧
    Meets (ccWith [] (buffer 2) []) (.recSt (mem2 (.g 8))) (fun is s => Rec256.valid (is.c.recSlot is.sub 2) = true ∧
      Rec256.space (is.c.recSlot is.sub 2) ≠ 4 ∧
      (s.checkAccess (s.who is.ctx) (is.c.recSlot is.sub 2) 0 0 32 32 .write).2 = .ok 0x100000 0) here :=
  ⟨meets_of rfl (by decide +kernel) (by decide +kernel) trivial (by decide +kernel),
   meets_of rfl (by decide +kernel) (by decide +kernel) trivial (by decide +kernel),
   meets_of rfl (by decide +kernel) (by decide +kernel) (by decide +kernel) (by decide +kernel),
   meets_of rfl (by decide +kernel) (by decide +kernel) (by decide +kernel) (by decide +kernel),
   meets_of rfl (by decide +kernel) (by decide +kernel) (by decide +kernel) (by decide +kernel)⟩

theorem witness_FencesAreRecorded :
    let m (d : Nat) : MWord := mw (.g 0) (.g 0) (.g 0) d .own .module 0 .rel
    Meets gang (.fenceRel (m 0)) (fun _ _ => (m 0).slot % 2 = 0) (fun is s =>
      (s.owedBegun is (m 0).sc).fenced is fun x => ⟨s.opId, .rel, (m 0).sc, false, x.owesAt (m 0).sc⟩) ∧
    Meets gang (.fenceRel (m 1)) (fun _ _ => (m 1).slot % 2 = 1) (fun is s =>
      let q := s.fenceDrift (s.cacheOf is.ctx) (m 1).sc
      (q.1.owedBegun is (m 1).sc).fenced is fun x => ⟨q.1.opId, .rel, (m 1).sc, true, q.2 ++ x.owesAt (m 1).sc⟩) :=
  ⟨meets_of rfl (by decide +kernel) (by decide +kernel) rfl (by decide +kernel),
   meets_of rfl (by decide +kernel) (by decide +kernel) rfl (by decide +kernel)⟩

def claspWord (d : Dst) : MWord := mw d (.g 16) (.g 24) 2 .own .module 4 .plain

def claspForm (k : OpKind) (wr : Bool) : MemForm := { MemForm.plain k (if wr then .write else .read) 16 16 with ring := true }

def claspState : State := ccWith [(16, 1023)] (buffer 4) []

theorem witness_ClaspWords : MeetsOut claspState (.claspInit (claspWord (.g 8))) (claspWord (.g 8)) (claspForm .claspInit true)
      (fun is s0 s l => let i := is.index s (claspWord (.g 8)) l
        s.checkClasp (s0.who is.ctx) (is.c.recSlot is.sub 2) i.1 i.2 true (decide (dstData (.g 8) 2 is l / 2 ^ 56 ≠ 0)))
      (fun _ _ _ q => q) (fun _ _ _ => 0) (fun _ _ accs => accs.isEmpty = false ∨ false = false) ∧
    MeetsOut claspState (.claspTest (claspWord (.g 8))) (claspWord (.g 8)) (claspForm .claspTest false)
      (fun is s0 s l => let i := is.index s (claspWord (.g 8)) l
        s.checkClasp (s0.who is.ctx) (is.c.recSlot is.sub 2) i.1 i.2 false false)
      (fun _ _ _ q => q) (fun _ _ _ => 0) (fun _ _ accs => accs.isEmpty = false) ∧
    MeetsOut claspState (.claspWait (claspWord (.g 8))) (claspWord (.g 8)) (claspForm .claspTest false)
      (fun is s0 s l => let i := is.index s (claspWord (.g 8)) l
        s.checkClasp (s0.who is.ctx) (is.c.recSlot is.sub 2) i.1 i.2 false false)
      (fun _ _ _ q => q) (fun _ _ _ => 0) (fun _ _ _ => True) :=
  ⟨meetsOut_of rfl (by decide +kernel) (by decide +kernel) (by decide +kernel) (by decide +kernel) (by decide +kernel)
    (fun _ => .inr rfl) (by decide +kernel),
   meetsOut_of rfl (by decide +kernel) (by decide +kernel) (by decide +kernel) (by decide +kernel) (by decide +kernel)
    (fun _ => by decide +kernel) (by decide +kernel),
   meetsOut_of rfl (by decide +kernel) (by decide +kernel) (by decide +kernel) (by decide +kernel) (by decide +kernel)
    (fun _ => trivial) (by decide +kernel)⟩

/-- Each clause at its bound: one arrival of two, the last, a surplus one; expected bytes at 2^40 - 1 and beyond; bytes that fall
one short. -/
theorem witness_ClaspPhases :
    let c (aexp acnt bexp bcnt phase : Nat) : Clasp := { Clasp.ofNat 0 with v := true, aexp := aexp, acnt := acnt, bexp := bexp, bcnt := bcnt, phase := phase }
    (c 2 0 0 0 0).arrive = some (c 2 1 0 0 0, false) ∧ (c 2 1 0 0 (2 ^ 15 - 1)).arrive = some (c 2 0 0 0 0, true) ∧
    (c 2 2 8 0 0).arrive = none ∧ (Clasp.ofNat 0).arrive = none ∧ (c 2 0 (2 ^ 40 - 1) 0 0).expect 1 = none ∧
    (c 2 0 (2 ^ 40 - 2) 0 0).expect 1 = some (c 2 0 (2 ^ 40 - 1) 0 0, false) ∧
    (c 2 2 8 0 0).addBytes 7 = some (c 2 2 8 7 0, false) ∧ (c 2 2 8 7 0).addBytes 1 = some (c 2 0 0 0 1, true) ∧
    (c 2 2 0 8 0).expect 8 = some (c 2 0 0 0 1, true) ∧ (Clasp.ofNat 0).addBytes 8 = none ∧ (Clasp.ofNat 0).expect 8 = none ∧
    (c 0 0 0 0 0).addBytes 8 = some (c 0 0 0 8 0, false) ∧ (c 0 0 0 8 0).expect 0 = some (c 0 0 0 8 0, false) ∧ (0 : Nat) < 2 ^ 128 := by
  decide +kernel

theorem witness_TransfersOfControl :
    Meets gang (.br (qw (.g 0) (.g 0) (.g 0)) 5) always here ∧
    Meets (gangWith [(16, 0x8000)] [] []) (.jmpx { bare with a := .g 16 }) (fun is s =>
      ∀ l ∈ lanesOf is.act, is.src s true (.g 16) l < 2 ^ 56) here ∧
    Meets (gangWith [(17, 0x01000000)] [] []) (.ret { bare with a := .g 16 }) (fun is s =>
      ∀ l ∈ lanesOf is.act, 2 ^ 56 ≤ is.src s true (.g 16) l) (fun is s =>
        s.takeTrap is.ctx is.act ⟨0x05, 0, 255, BitVec.ofNat 64 (is.src s true (.g 16) is.first / 128 * 128), false, false⟩ is.h is.hdr is.idx) :=
  ⟨meets_of rfl (by decide +kernel) (by decide +kernel) trivial (by decide +kernel),
   meets_of rfl (by decide +kernel) (by decide +kernel) (by decide +kernel) (by decide +kernel),
   meets_of rfl (by decide +kernel) (by decide +kernel) (by decide +kernel) (by decide +kernel)⟩

theorem witness_NopYieldTrapBreak :
    Meets gang (.trap (qw (.g 0) (.g 0) (.g 0)) 7) always (fun is s =>
      s.takeTrap is.ctx is.act ⟨0x0D, 7, 255, 0, false, false⟩ is.h is.hdr is.idx) ∧
    Meets gang (.brk (qw (.g 0) (.g 0) (.g 0)) 7) (fun is s => is.ctx.isCC = true ∨ s.hob = false) (fun is s =>
      s.takeTrap is.ctx is.act ⟨0x0C, 7, 255, 0, false, false⟩ is.h is.hdr is.idx) ∧
    Meets { gang with se := { gang.se with dctl := 1, dbg := 2 } } (.brk (qw (.g 0) (.g 0) (.g 0)) 7)
      (fun is s => is.ctx = .gang 0 ∧ s.hob = true) (fun is s => s.debugHold is.ctx 0 is.act 7 is.hdr is.idx false) :=
  ⟨meets_of rfl (by decide +kernel) (by decide +kernel) trivial (by decide +kernel),
   meets_of rfl (by decide +kernel) (by decide +kernel) (by decide +kernel) (by decide +kernel),
   meets_of rfl (by decide +kernel) (by decide +kernel) (by decide +kernel) (by decide +kernel)⟩

/-! The front of the issue: a wait, an illegal word, a full scoreboard slot, a privileged word of a user, an empty source. -/

/-- Column core 0 with its thread or itself changed. -/
def ccBut (f : Lane → Lane) (g : Ctx → Ctx) : State :=
  let s := cc.modCtx (.cc 0) fun c => g (c.modLane 0 f)
  s

/-- The row of a word, and what is asked of it. -/
def AtRow (i : Instr) (p : Row → Prop) : Prop := ∃ r, i.row = some r ∧ p r

theorem witness_WordsWaitAndTrap :
    (AtRow (.add { bin with c := { c0 with wm := 2 } }) fun r => let s := ccBut (fun x => { x with sb := 2 }) id
      s.sel.lanes ≠ 0 ∧ s.stuck = none ∧ ∃ l ∈ lanesOf s.sel.lanes, ((s.ctx s.sel.ctx).lane l).sb.toNat &&& r.c.wm ≠ 0) ∧
    (AtRow (.shflIdx bin 0) fun r => let s := cc
      s.sel.lanes ≠ 0 ∧ s.illegalHere r = true ∧
      (s.takeTrap s.sel.ctx s.sel.lanes ⟨0x01, 0, 255, 0, false, false⟩ (s.issued r).h (s.issued r).hdr (s.issued r).idx).stuck = none) ∧
    (AtRow (.dqry { driftWord (.g 8) with c := { c0 with sa := 3, se := true } }) fun r => let s := ccBut (fun x => { x with sb := 8 }) id
      s.illegalHere r = false ∧ ∃ l ∈ lanesOf s.sel.lanes, r.c.se = true ∧ ((s.ctx s.sel.ctx).lane l).sb.getLsbD r.c.sa = true) ∧
    (AtRow (.halt bare) fun r => let s := cc.sysPut SysReg.cstat 0 0
      s.guardMask r ≠ 0 ∧ r.privileged = true ∧ s.isSup s.sel.ctx = false ∧ s.illegalHere r = false) ∧
    (AtRow (.add bin) fun r => let s := ccBut id fun c => c.markEmpty 0 16
      ∃ l ∈ lanesOf s.sel.lanes, ∃ u ∈ r.sources, u.g = false ∧ (s.ctx s.sel.ctx).empty l u.reg = true) ∧
    (AtRow (.add { bin with c := { c0 with g := 1 } }) fun r => let s := ccBut id fun c => c.markEmpty 0 16
      s.guardMask r = s.sel.lanes ∧ ∀ l ∈ lanesOf s.sel.lanes, ∃ u ∈ r.sources, u.g = true ∧ (s.ctx s.sel.ctx).empty l u.reg = true) := by
  refine ⟨⟨_, rfl, ?_⟩, ⟨_, rfl, ?_⟩, ⟨_, rfl, ?_⟩, ⟨_, rfl, ?_⟩, ⟨_, rfl, ?_⟩, ⟨_, rfl, ?_⟩⟩ <;> decide +kernel

theorem witness_ColumnCoreTraps : (1 : Word64) ≠ 0 ∧ 63 < 64 ∧ cc.isSup (.cc 0) = true ∧ (cc.sysPut SysReg.cstat 0 0).isSup (.cc 0) = false := by
  decide +kernel

theorem witness_GangTraps_park : (2 : Word64) ≠ 0 ∧ gang.fpol (gang.ctx (.gang 0)).handle ≠ 1 ∧ (gang.ctx (.gang 0)).freeSub = some 1 ∧
    ∀ l ∈ lanesOf 2, ((gang.ctx (.gang 0)).lane l).act = true ∧ ((gang.ctx (.gang 0)).lane l).exited = false ∧
      ((gang.ctx (.gang 0)).lane l).sub = 0 := by decide +kernel

/-- The gang's launch with FPOL = 1. -/
def strict : State := { gang with la := { gang.la with
  launches := [{ Launch.start 0x10 (leBytes 128 (4 * 2 ^ 216)) 0 with stage := .distributed }] } }

theorem witness_GangTraps : (strict.launch? (strict.ctx (.gang 0)).handle).isSome = true ∧ strict.fpol (strict.ctx (.gang 0)).handle = 1 := by
  decide +kernel

theorem witness_ExitEndsThreads : Meets gang (.exit bare) (fun is _ => is.ctx.isCC = false) (fun is s => s.endThreads is.ctx is.act) ∧
    Meets cc (.exit bare) (fun is _ => is.ctx.isCC = true) here ∧ ∀ l, ((gang.ctx (.gang 0)).lane l).fails = [] :=
  ⟨meets_of rfl (by decide +kernel) (by decide +kernel) (by decide +kernel) (by decide +kernel),
   meets_of rfl (by decide +kernel) (by decide +kernel) (by decide +kernel) (by decide +kernel),
   fails_nil (by decide +kernel)⟩

theorem witness_Teams : Meets gang (.teamNew { bare with d := .g 8 }) (fun is s => s.teamFreeOf (s.colOf is.ctx) ≠ [] ∧
      (s.pickTeam (s.colOf is.ctx)).isSome = true ∧ SMap.get 0 s.la.used is.c.core < 32) here ∧
    Meets { gang with la := { gang.la with used := [(0, 32)] } } (.teamNew { bare with d := .g 8 }) (fun is s =>
      s.teamFreeOf (s.colOf is.ctx) ≠ [] ∧ is.ctx.isCC = false ∧ 32 ≤ SMap.get 0 s.la.used is.c.core) here ∧
    Meets gang (.teamFree { bare with a := .g 16 }) (fun is s =>
      ∀ l ∈ lanesOf is.act, s.teamLive is.c.handle (is.src s false (.g 16) l) = false) here ∧
    Meets gang (.join { bare with a := .g 16 }) (fun is s => ∀ l ∈ lanesOf is.act, is.src s false (.g 16) l = 0) here :=
  ⟨meets_of rfl (by decide +kernel) (by decide +kernel) (by decide +kernel) (by decide +kernel),
   meets_of rfl (by decide +kernel) (by decide +kernel) (by decide +kernel) (by decide +kernel),
   meets_of rfl (by decide +kernel) (by decide +kernel) (by decide +kernel) (by decide +kernel),
   meets_of rfl (by decide +kernel) (by decide +kernel) (by decide +kernel) (by decide +kernel)⟩

theorem witness_Spawns : Meets gang (.spawn (qw (.g 0) (.g 16) (.g 24)) 5) (fun is s =>
      ((lanesOf is.act).foldl (fun (z : Option State) l => z.bind fun z => z.spawnOne is.c.handle (is.hdr + BitVec.ofInt 64 80) is.c.core
        (s.colOf is.ctx) false (is.src z false (.g 16) l) (is.src z false (.g 24) l) none) (some s)).isSome = true) here ∧
    Meets (gangWith [(8, 0x100000)] [] []) (.spawnHome (qw (.g 8) (.g 16) (.g 24)) 5) (fun is s =>
      ((s.placeHome (is.c.pair 0 8)).bind s.presentColumn).isSome = true) here ∧
    ∃ a, gang.launch? 0x10 = some a :=
  ⟨meets_of rfl (by decide +kernel) (by decide +kernel) (by decide +kernel) (by decide +kernel),
   meets_of rfl (by decide +kernel) (by decide +kernel) (by decide +kernel) (by decide +kernel), _, rfl⟩

theorem witness_RegxTriggerSlotq : Meets gang (.regx { bare with d := .g 8, a := .g 16 }) (fun is _ => is.ctx.isCC = false) here ∧
    Meets cc (.regx { bare with d := .g 8, a := .g 16 }) (fun is _ => is.ctx.isCC = true) (fun is s => s.putAll is (.g 8) 1 4) ∧
    Meets gang (.trigger bare .module) (fun is s => s.released is.ctx is.act .module = true ∧ is.ctx.isCC = false) here ∧
    Meets cc (.trigger bare .module) (fun is s => s.released is.ctx is.act .module = true ∧ is.ctx.isCC = true) here ∧
    Meets gang (.slotq (qw (.g 8) (.g 0) (.g 0)) 1 1) always here :=
  ⟨meets_of rfl (by decide +kernel) (by decide +kernel) (by decide +kernel) (by decide +kernel),
   meets_of rfl (by decide +kernel) (by decide +kernel) (by decide +kernel) (by decide +kernel),
   meets_of rfl (by decide +kernel) (by decide +kernel) (by decide +kernel) (by decide +kernel),
   meets_of rfl (by decide +kernel) (by decide +kernel) (by decide +kernel) (by decide +kernel),
   meets_of rfl (by decide +kernel) (by decide +kernel) trivial (by decide +kernel)⟩

/-- The word that submits a launch record, and the row of it. -/
def launchWord : TWord := { bare with d := .g 8, a := .g 16, b := .g 24 }

/-- A launch record at 1 MiB whose GO word is not 0, in a line that is free. -/
theorem witness_LaunchSubmits :
    Meets (ccWith [(16, 0x100000)] [] [(0x100078, 1)]) (.launch launchWord) (fun is s =>
      let s1 := (s.block is is.path fun k => if is.act.getLsbD k then .launch 0x100000 0 8 none is.path else .peers is.path).orphanQueries
        (recordOp is.ctx 0)
      let q := s1.checkVirt (s1.who is.ctx) 0 0x100000 .read
      let parts : List EAcc := (List.range 16).map fun i => ⟨.ok (0x100000 + 8 * i) 0, 8, .nc, false⟩
      let z := q.1.engineReady (recordOp is.ctx 0) true (.core (q.1.cacheOf is.ctx)) true parts
      is.act = 1#64 <<< 0 ∧ s.released is.ctx is.act .module = true ∧ s.alive is.ctx = true ∧ is.src s true (.g 16) 0 = 0x100000 ∧
      is.src s false (.g 24) 0 = 0 ∧ (s.ctx is.ctx).lanes.all (fun p => decide (p.2.wait = .none)) = true ∧
      (∀ k ∈ lanesOf is.path, ((s.ctx is.ctx).lane k).hdr = is.hdr ∧ ((s.ctx is.ctx).lane k).idx = is.idx) ∧
      q.2 = .ok 0x100000 0 ∧ z.2 = true ∧ (z.1.launchLine 0 0).pending = false ∧
      recNat ((z.1.engineReads (recordOp is.ctx 0) (.core (q.1.cacheOf is.ctx)) parts).2.flatMap (leBytes 8)) 120 8 ≠ 0) here :=
  meets_of rfl (by decide +kernel) (by decide +kernel) (by decide +kernel) (by decide +kernel)

/-! A gang with queue 2, its slots 4 of one line, allowance 1 on port 1. -/

def queued (x : Queue) (rs : Regs) : State :=
  let s := gangWith rs [] []
  s.putQueue 0 2 x

def queue2 : Queue := { Queue.free with owner := some 0x10, count := 4, size := 1, allow := [0, 1, 0, 0, 0, 0, 0, 0] }

theorem witness_QueueWords :
    Meets (gangWith [(24, 4 + 65536)] [] []) (.qinit { bare with a := .g 16, b := .g 24 } 2) (fun is s =>
      let base := is.src s false (.g 16) is.first
      let shape := is.src s false (.g 24) is.first
      base % 128 = 0 ∧ shape = bitsOf shape 8 0 + 2 ^ 16 * bitsOf shape 25 16 ∧ 1 ≤ bitsOf shape 8 0 ∧ bitsOf shape 8 0 ≤ 256 ∧
      1 ≤ bitsOf shape 25 16 ∧ s.arena is.c.handle is.c.core = some (0, 0x4000) ∧ (s.queue is.c.core 2).owner = none) here ∧
    Meets (queued queue2 [(16, 4)]) (.qallow { bare with a := .g 16 } 2 1) (fun is s => (s.queue is.c.core 2).ownedBy is.c.handle = true ∧
      let x := s.queue is.c.core 2
      is.src s false (.g 16) is.first + (x.allow.sum - x.allowance 1) + x.occupied ≤ x.count) here ∧
    Meets (queued queue2 [(16, 5)]) (.qallow { bare with a := .g 16 } 2 1) (fun is s => (s.queue is.c.core 2).ownedBy is.c.handle = true ∧
      let x := s.queue is.c.core 2
      x.count < is.src s false (.g 16) is.first + (x.allow.sum - x.allowance 1) + x.occupied) (fun is s => s.firstTraps is 0x09 255 0) ∧
    Meets (queued queue2 []) (.qpushRsv { bare with d := .g 8, a := .g 16 } 2 1) (fun is s => (s.queue is.c.core 2).allowance 1 ≠ 0) here ∧
    Meets (queued queue2 []) (.qpushRsv { bare with d := .g 8, a := .g 16 } 2 0) (fun is s => (s.queue is.c.core 2).allowance 0 = 0) here ∧
    Meets (queued (queue2.reserve 1 0).1 []) (.qpushPub { bare with a := .g 16 } 2) (fun is s => s.released is.ctx is.act .core = true ∧
      ((s.queue is.c.core 2).slots.find? (fun z => decide ((s.queue is.c.core 2).offset z.num % 2 ^ 21 / 128 * 128 =
        is.src s false (.g 16) is.first % 2 ^ 21 / 128 * 128) && !z.published)).isSome = true) here ∧
    Meets (queued queue2 []) (.qpop { bare with d := .g 8 } 2) (fun is s =>
      (s.queue is.c.core 2).pend = [] ∧ 0 < (s.queue is.c.core 2).count) here ∧
    Meets (queued queue2 []) (.qpeek { bare with d := .g 8 } 2) (fun is s => (s.queue is.c.core 2).ownedBy is.c.handle = true) here ∧
    Meets gang (.qpeek { bare with d := .g 8 } 2) (fun is s => ¬ (s.queue is.c.core 2).ownedBy is.c.handle = true)
      (fun is s => s.firstTraps is 0x09 255 0) ∧
    Meets gang (.xarm { bare with d := .g 8 } 3) (fun is s => s.box is.c.core 3 = none ∧ s.hasBox is.c.gid.toNat = false) here ∧
    Meets gang (.xpush { bare with d := .g 8, a := .g 16 } 3) (fun is s => s.roleCore (s.who is.ctx) 0 = none)
      (fun is s => s.firstTraps is 0x04 255 0) := by
  refine ⟨?_, ?_, ?_, ?_, ?_, ?_, ?_, ?_, ?_, ?_, ?_⟩ <;>
    exact meets_of rfl (by decide +kernel) (by decide +kernel) (by decide +kernel) (by decide +kernel)

theorem witness_EngineWords :
    Meets gang (.aeHalt (qw (.g 0) (.g 0) (.g 0))) always here ∧
    Meets (ccWith [] [(1, record 0x200000 64 2 0), (2, record 0x100000 64 2 0)] []) (.cpGoNoc (qw (.g 0) (.g 0) (.g 0)) 2 1) (fun is s =>
      s.cpFull is = false ∧ copyChecks is.ctx.isCC (some (1, is.rec_ 1)) 2 (is.rec_ 2) none = none ∧ Rec256.wo (is.rec_ 1) = false ∧
      Rec256.ro (is.rec_ 2) = false) here ∧
    Meets (ccWith [] (buffer 2) []) (.cpFillNoc (qw (.g 8) (.g 0) (.g 0)) 2) (fun is s =>
      s.cpFull is = false ∧ copyChecks is.ctx.isCC none 2 (is.rec_ 2) none = none ∧ Rec256.ro (is.rec_ 2) = false) here ∧
    Meets gang (.aeGo (qw (.g 0) (.g 16) (.g 0)) 0) (fun is s => s.aeRun is.c.core = none ∧ s.quiesced is.c.handle = false) here :=
  ⟨meets_of rfl (by decide +kernel) (by decide +kernel) trivial (by decide +kernel),
   meets_of rfl (by decide +kernel) (by decide +kernel) (by decide +kernel) (by decide +kernel),
   meets_of rfl (by decide +kernel) (by decide +kernel) (by decide +kernel) (by decide +kernel),
   meets_of rfl (by decide +kernel) (by decide +kernel) (by decide +kernel) (by decide +kernel)⟩

/-- A gang whose slot 4 holds weights of two bytes in its arena (04 R96). -/
def weights : State := gangWith [] [(4, record 0 1024 1 1)] []

theorem witness_MatrixWords :
    Meets gang (.mshape (qw (.g 0) (.g 16) (.g 0))) (fun is s => s.mxFull is = false) here ∧
    Meets weights (.mwldNoc (qw (.g 0) (.g 0) (.g 0)) 4 0 .bf16 3) (fun is s => s.mxFull is = false ∧ Rec256.valid (is.rec_ 4) = true ∧
      s.operandBad (s.who is.ctx) (is.rec_ 4) MFmt.bf16.es [1, 2, 3] = false ∧ Rec256.wo (is.rec_ 4) = false) here ∧
    Meets weights (.mmac (qw (.g 0) (.g 16) (.g 0))) (fun is s => s.mxFull is = false ∧
      s.arena is.c.handle is.c.core = some (0, 0x4000) ∧ is.src s false (.g 16) is.first % 64 = 0) here ∧
    Meets gang (.mstat (qw (.g 8) (.g 0) (.g 0)) false true) always here :=
  ⟨meets_of rfl (by decide +kernel) (by decide +kernel) (by decide +kernel) (by decide +kernel),
   meets_of rfl (by decide +kernel) (by decide +kernel) (by decide +kernel) (by decide +kernel),
   meets_of rfl (by decide +kernel) (by decide +kernel) (by decide +kernel) (by decide +kernel),
   meets_of rfl (by decide +kernel) (by decide +kernel) trivial (by decide +kernel)⟩

/-- A group of this module alone, described at 1 MiB (16 R354), and a block there that sums one f32 over it (16 R360). -/
def grouped (m : SMap Byte) : State :=
  let s := ccWith [(16, 0x100000)] [(2, record 0x200000 4 2 0), (3, record 0x300000 4 2 0)] m
  { s with fa := { s.fa with groups := [(0, ⟨0, [0], []⟩)] } }

theorem witness_CollectiveWords :
    (let s := grouped [(0x100000, 1), (0x100008, 0x40), (0x10000A, 0x10)]
     ∃ r v d w tb, (Instr.collGrp (qw (.g 0) (.g 16) (.g 0)) 0).row = some r ∧ MayIssue s r ∧ s.guardMask r ≠ 0 ∧
      s.readBlock (s.issued r) 0x100000 64 64 = some (v, .zero, d) ∧ groupOk d = true ∧ descNat d 8 8 = 0x100040 ∧
      v.readBlock (s.issued r) 0x100040 2 2 = some (w, .zero, tb) ∧ descNat tb 0 2 = w.modId ∧ w.stuck = none) ∧
    (let s := grouped [(0x100000, 0x32), (0x100003, 0xA), (0x100005, 1), (0x100008, 1)]
     ∃ r v d, (Instr.collGo (qw (.g 0) (.g 16) (.g 0))).row = some r ∧ MayIssue s r ∧ s.guardMask r ≠ 0 ∧
      s.readBlock (s.issued r) 0x100000 64 64 = some (v, .zero, d) ∧ descNat d 5 1 = 1 ∧ collBadRec (s.issued r) d = none ∧
      (v.collArgs (s.issued r) d).isSome = true ∧ v.stuck = none) := by
  refine ⟨⟨_, _, _, _, _, rfl, mayIssue_of (i := .collGrp (qw (.g 0) (.g 16) (.g 0)) 0) rfl (by decide +kernel), by decide +kernel, rfl, ?_, ?_, rfl, ?_, ?_⟩,
    ⟨_, _, _, rfl, mayIssue_of (i := .collGo (qw (.g 0) (.g 16) (.g 0))) rfl (by decide +kernel), by decide +kernel, rfl, ?_, ?_, ?_, ?_⟩⟩ <;> decide +kernel

theorem witness_TlbAndCacheWords :
    Meets (ccWith [(17, 0x00FFFFFF)] [] []) (.tlbinvPage { bare with a := .g 16 }) (fun is s => is.src s true (.g 16) is.first < 2 ^ 56) here ∧
    Meets (ccWith [(17, 0x01000000)] [] []) (.tlbinvPage { bare with a := .g 16 }) (fun is s => 2 ^ 56 ≤ is.src s true (.g 16) is.first) here ∧
    Meets cc (.tlbinvAll bare) always here ∧ Meets cc (.tlbsync bare) (fun is s => s.invsDone is.ctx = true) here ∧
    Meets cc (.clopL1inv (qw (.g 0) (.g 0) (.g 0))) (fun is s => s.isSup is.ctx = true) (fun is s => s.cleanL1s (s.colOf is.ctx) true) ∧
    Meets gang (.clopIall (qw (.g 0) (.g 0) (.g 0))) (fun is s => s.isSup is.ctx = false)
      (fun is s => s.takeTrap is.ctx is.act ⟨0x0B, 0, 255, 0, false, false⟩ is.h is.hdr is.idx) :=
  ⟨meets_of rfl (by decide +kernel) (by decide +kernel) (by decide +kernel) (by decide +kernel),
   meets_of rfl (by decide +kernel) (by decide +kernel) (by decide +kernel) (by decide +kernel),
   meets_of rfl (by decide +kernel) (by decide +kernel) trivial (by decide +kernel),
   meets_of rfl (by decide +kernel) (by decide +kernel) (by decide +kernel) (by decide +kernel),
   meets_of rfl (by decide +kernel) (by decide +kernel) (by decide +kernel) (by decide +kernel),
   meets_of rfl (by decide +kernel) (by decide +kernel) (by decide +kernel) (by decide +kernel)⟩

theorem witness_EventAndTrapWords :
    Meets cc (.evqPop { bare with d := .g 8, a := .g 16 }) (fun is s => ¬ (is.src s false (.g 16) is.first < 256 ∧
      field (s.sysGet SysReg.evqctl 0) 59 54 = s.colOf is.ctx ∧ s.evqOn 0 = true)) (fun is s => s.firstTraps is 0x09 255 0) ∧
    Meets (ccWith [(16, 256)] [] []) (.evqPost { bare with d := .g 8, a := .g 16 }) (fun is s => 256 ≤ is.src s false (.g 16) is.first)
      (fun is s => s.firstTraps is 0x09 255 0) ∧
    Meets (gangWith [(16, 255)] [] []) (.evqPost { bare with d := .g 8, a := .g 16 }) (fun is s => is.src s false (.g 16) is.first < 256 ∧
      s.isSup is.ctx = false ∧ (s.sysGet SysReg.evqctl (is.src s false (.g 16) is.first)).getLsbD 61 = false)
      (fun is s => s.firstTraps is 0x0B 255 0) ∧
    Meets cc (.trapretEnd { bare with d := .g 8, a := .g 16, b := .g 24 }) always (fun is s =>
      let x := s.trapret (is.src s false (.g 16) is.first) (is.src s false (.g 24) is.first) 2
      x.1.putAll is (.g 8) 1 x.2) ∧
    Meets cc (.halt bare) always here ∧ Meets cc (.wfi bare) (fun is s => s.evqUsed (s.colOf is.ctx) = 0) here :=
  ⟨meets_of rfl (by decide +kernel) (by decide +kernel) (by decide +kernel) (by decide +kernel),
   meets_of rfl (by decide +kernel) (by decide +kernel) (by decide +kernel) (by decide +kernel),
   meets_of rfl (by decide +kernel) (by decide +kernel) (by decide +kernel) (by decide +kernel),
   meets_of rfl (by decide +kernel) (by decide +kernel) trivial (by decide +kernel),
   meets_of rfl (by decide +kernel) (by decide +kernel) trivial (by decide +kernel),
   meets_of rfl (by decide +kernel) (by decide +kernel) (by decide +kernel) (by decide +kernel)⟩

theorem witness_SystemRegisterWords :
    Meets cc (.sysrd (qw (.g 8) (.g 0) (.g 0)) SysReg.svec false) (fun is s =>
      (s.isSup is.ctx = true ∨ userReads SysReg.svec = true) ∧ (SysReg.svec = SysReg.fpflags → is.c.floating = false)) here ∧
    Meets gang (.sysrd (qw (.g 8) (.g 0) (.g 0)) SysReg.svec false) (fun is s => s.isSup is.ctx = false ∧ userReads SysReg.svec = false)
      (fun is s => s.takeTrap is.ctx is.act ⟨0x0B, 0, 255, 0, false, false⟩ is.h is.hdr is.idx) ∧
    Meets cc (.syswr (qw (.g 0) (.g 16) (.g 0)) SysReg.cstat true) (fun is s => is.ctx = .cc 0 ∧ s.isSup is.ctx = true ∧
      is.src s false (.g 16) is.first % 2 = 0) (fun _ s => s.toUser 0) ∧
    Meets (ccWith [(16, 1)] [] []) (.syswr (qw (.g 0) (.g 16) (.g 0)) SysReg.cstat true) (fun is s => s.isSup is.ctx = true ∧
      (SysReg.cstat = SysReg.cstat → is.src s false (.g 16) is.first % 2 = 1))
      (fun is s => s.writeReg SysReg.cstat (s.colOf is.ctx) (BitVec.ofNat 64 (is.src s false (.g 16) is.first))) ∧
    Meets (ccWith [(17, 0x80000000)] [] []) (.syswr (qw (.g 0) (.g 16) (.g 0)) SysReg.drent0 false) (fun is s =>
      s.isSup is.ctx = true ∧ 2 ^ 63 ≤ is.src s true (.g 16) is.first)
      (fun is s => s.commitDrift (BitVec.ofNat 64 (is.src s true (.g 16) is.first))) ∧
    Meets cc (.syswr (qw (.g 0) (.g 16) (.g 0)) SysReg.drent0 false) (fun is s => s.isSup is.ctx = true ∧
      is.src s true (.g 16) is.first < 2 ^ 63 ∧ (s.driftEntry s.driftIdx).valid = false) here :=
  ⟨meets_of rfl (by decide +kernel) (by decide +kernel) (by decide +kernel) (by decide +kernel),
   meets_of rfl (by decide +kernel) (by decide +kernel) (by decide +kernel) (by decide +kernel),
   meets_of rfl (by decide +kernel) (by decide +kernel) (by decide +kernel) (by decide +kernel),
   meets_of rfl (by decide +kernel) (by decide +kernel) (by decide +kernel) (by decide +kernel),
   meets_of rfl (by decide +kernel) (by decide +kernel) (by decide +kernel) (by decide +kernel),
   meets_of rfl (by decide +kernel) (by decide +kernel) (by decide +kernel) (by decide +kernel)⟩

theorem witness_RegistersReadBack : (63 < 64) ∧ (cc.writeReg SysReg.uepw 63 0xFFFF).readSys SysReg.uepw 63 0 = 0x3FF := by decide +kernel

theorem witness_ErrorPowerAndSecurityWords :
    Meets cc (.errinjFlip1 (qw (.g 0) (.g 16) (.g 24)) 4 0) always here ∧
    Meets cc (.pmReqSetDemand (qw (.g 8) (.g 16) (.g 0))) always here ∧
    Meets cc (.pmReqEnterM2 (qw (.g 8) (.g 16) (.g 0))) always here ∧
    Meets cc (.secCallSecurityState (qw (.g 8) (.g 16) (.g 0))) always (fun is s =>
      let x := s.securityState (is.src s true (.g 16) is.first)
      x.1.putAll is (.g 8) 2 x.2) ∧
    Meets cc (.secCallOther (qw (.g 8) (.g 16) (.g 0)) 9) always here := by
  refine ⟨?_, ?_, ?_, ?_, ?_⟩ <;> exact meets_of rfl (by decide +kernel) (by decide +kernel) trivial (by decide +kernel)

/-! ### Checks, operations in flight, and events -/

/-- The outcomes of a place: in bounds, one element beyond the last, a virtual address at an odd byte, an arena's scratchpad and its end. -/
theorem witness_AccessChecksInOrder :
    let w := gang.who (.gang 0)
    gang.place? w (record 0x100000 4 2 0) 3 0 4 = .virt 0x10000C ∧ gang.place? w (record 0x100000 4 2 0) 4 0 4 = .oob ∧
    gang.place? w (record 0x100001 4 2 0) 0 0 4 = .virt 0x100001 ∧ gang.place? w (record 0x3FFC 4 2 1) 0 0 4 = .scratch (2 ^ 48 + 0x3FFC) ∧
    gang.place? w (record 0x3FFC 4 2 1) 1 0 4 = .bounds ∧
    gang.place? w (record (2 ^ 56 - 4) 4 2 0) 1 0 4 = .virt (2 ^ 56) := by decide +kernel

/-- A page whose leaf has A clear: the check sets it. -/
theorem witness_ChecksTouchOnlyLeaves :
    let s : State := { gang with mem := [(0, 1), (1, 0x20), (0x2000, 0x9F)] }
    (s.checkAccess (s.who (.gang 0)) (record 0x100000 4 2 0) 0 0 4 4 .read).1.homeByte 0x2000 = 0xDF ∧
    (s.walk 0x100000).map Leaf.addr = some 0x2000 := by decide +kernel

/-- An operation of thread 0 of the gang on the four bytes at 1 MiB. -/
def op (k : OpKind) (reg : Option Nat) : MOp where
  id := 7
  ctx := .gang 0
  sub := 0
  kind := k
  hdr := 0x4000
  idx := 0
  rt := .nc
  sc := .module
  ord := .plain
  w := 2
  reg := reg
  slot := some 0
  rslot := 2
  lanes := 1
  accs := [⟨0, 0x100000, 4, 0x01020304, 0, false, 0, 0x100000, 0, 0, false⟩]
  due := 0
  handle := 0x10

def flying (o : MOp) : State := { gang with ms := { gang.ms with ops := [o] } }

/-- The key of its access. -/
def key : Nat × Bool := (0x100000, false)

/-- What GroupGoes asks, in a state without L1 lines, as a check that can be evaluated. -/
def performable (s : State) (o : MOp) (k : Nat × Bool) : Bool :=
  decide (s.op? o.id = some o) && (s.ms.ops.all fun p => decide (p.id = o.id → p = o)) && !(o.group k).isEmpty &&
  !s.groupHeld o (o.group k) && ((o.group k).all fun a => (s.accElems o a).isNone && !s.leaseHolds o a) &&
  ((s.ctx o.ctx).lanes.all fun p => decide (p.2.wait = .none)) && s.ms.l1.isEmpty

theorem waits_none {m : SMap Lane} (h : (m.all fun p => decide (p.2.wait = .none)) = true) (l : Nat) :
    (SMap.get Lane.none m l).wait = .none := by
  induction m with
  | nil => rfl
  | cons p r ih =>
    simp only [List.all_cons, Bool.and_eq_true, decide_eq_true_eq] at h
    rw [SMap.get_cons]
    split
    · exact h.1
    · split
      · rfl
      · exact ih h.2

theorem goes_of {s : State} {o : MOp} {k : Nat × Bool} (h : performable s o k = true) : s.GroupGoes o k := by
  simp only [performable, Bool.and_eq_true, decide_eq_true_eq, List.all_eq_true, Bool.not_eq_true', List.isEmpty_iff,
    Option.isNone_iff_eq_none] at h
  obtain ⟨⟨⟨⟨⟨⟨h1, h2⟩, h3⟩, h4⟩, h5⟩, h6⟩, h7⟩ := h
  refine ⟨h1, h2, fun e => (by rw [e] at h3; cases h3), h4, fun a ha => (h5 a ha).1, fun a ha => (h5 a ha).2, fun l => ?_, ?_⟩
  · exact waits_none (List.all_eq_true.mpr fun p hp => decide_eq_true (h6 p hp)) l
  · constructor <;> simp [h7]

def store : MOp := op .store none

/-- A store that its column's slice accepts. -/
def narrow : MOp := { store with rt := .wt, sc := .column }

theorem witness_StoresReachMemory : (flying store).GroupGoes store key ∧ (flying narrow).GroupGoes narrow key ∧
    (store.group key).getLast?.isSome = true ∧ (flying store).ev.inject = [] ∧
    (∀ a ∈ narrow.group key, (flying narrow).accepts narrow a = true) ∧ (∀ a ∈ store.group key, (flying store).accepts store a = false) ∧
    (after (.longLatencyComplete 7) (flying store)).homeByte 0x100003 = 1 :=
  ⟨goes_of (by decide +kernel), goes_of (by decide +kernel), by decide +kernel, rfl, by decide +kernel, by decide +kernel,
   by decide +kernel⟩

def load : MOp := op (.load false) (some 8)

theorem witness_LoadsReadMemory : (flying load).GroupGoes load key ∧ (∀ a ∈ load.group key, a.lane < 64) ∧
    ((load.group key).map Acc.lane).Nodup ∧ (flying load).alive load.ctx = true ∧ (∀ a ∈ load.group key, 8 + a.off + wRegs load.w ≤ 224) :=
  ⟨goes_of (by decide +kernel), by decide +kernel, by decide +kernel, by decide +kernel, by decide +kernel⟩

def atom : MOp := op (.atom 0) (some 8)

theorem witness_AtomicsActAtTheirPoint : (flying atom).GroupGoes atom key ∧ (atom.group key ≠ []) ∧
    (∀ b ∈ atom.group key, b.n = 4 ∧ b.off = 0 ∧ b.lane < 64) ∧ (flying atom).ev.inject = [] ∧
    (after (.longLatencyComplete 7) (flying atom)).homeNat 0x100000 4 = 0x01020304 :=
  ⟨goes_of (by decide +kernel), by decide +kernel, by decide +kernel, rfl, by decide +kernel⟩

/-- A cache that owns a line, holds its bytes and is asked for it back. -/
theorem witness_CachesKeepOneOwner :
    let l : L1Line := ⟨0, 0x2000, .owned, [(0x100000, 5)], 0⟩
    let s : State := { State.reset with ms := { State.reset.ms with l1 := [l] } }
    s.OneOwner ∧ l ∈ s.ms.l1 ∧ cacheable (128 * 0x2000) = true ∧ s.owns 0 0x2000 = true ∧ s.homeByte 0x100000 = 5 ∧
    (s.recall none 0x2000 true).ms.l1 = [] ∧ (s.recall none 0x2000 true).homeByte 0x100000 = 5 := by
  refine ⟨⟨?_, ?_, ?_, ?_, ?_⟩, ?_⟩ <;> decide +kernel

/-- Column core 0's cache holds a line under a lease of its own guard band. -/
def leased : State := { State.reset with ms := { State.reset.ms with l1 := [⟨319, 0x2000, .lease 4096 20, [], 0⟩] } }

/-- A queued write of one byte at 1 MiB. -/
def accepted : State := { gang with ms := { gang.ms with fwd := [⟨3, 0, .l1, [(0x100000, 5)], 0, .gang 0, 1, [], none⟩] } }

/-- Two halves of a region, quiet since their split. -/
def halves : State := { State.reset with
  now := 12 * 16000
  ms := { State.reset.ms with regions := [⟨0x100000, 0x8000, [], 0, none, 0⟩, ⟨0x108000, 0x8000, [(3, 9)], 1, none, 0⟩] } }

theorem witness_MemoryEvents :
    (∃ s : State, ∃ o, s.op? 7 = some o ∧ ∀ a ∈ o.good, s.leaseHolds o a = false) ∧
    (∃ s : State, ∃ o, s.op? 7 = some o ∧ s.failDue o = true) ∧ (∃ s : State, ∃ o, s.op? 7 = some o ∧ s.failDue o = false) ∧
    (∃ s : State, s.fetchHeld (.cc 0) 0x80 = false ∧ s.ms.prefetch.contains (.cc 0, 0x80) = false) ∧
    (∃ s : State, s.fetchHeld (.cc 0) 0x80 = false ∧ s.ms.prefetch.contains (.cc 0, 0x80) = true) ∧
    (∃ s : State, s.wantsLine 0 0x2000 = true ∧ s.leaseLive (0x2000 * 128) = false ∧ isWeight (0x2000 * 128) = false ∧
      cacheable (0x2000 * 128) = true ∧ s.lineHeld 0 .own (0x2000 * 128) 128 = false) ∧
    (∃ s : State, let a := s.region 0x100000
      let b := s.region 0x108000
      let quiet := 1000 * max 1 (field (s.sysGet SysReg.quiet 0) 15 0)
      a.base = 0x100000 ∧ a.size = 0x8000 ∧ a.mergesWith b s.ns = true ∧ a.conflict + quiet = s.ns ∧ b.conflict + quiet ≤ s.ns) ∧
    (∃ s : State, 319 < 320 ∧ s.grantBand 319 < (-21 : Int).natAbs ∧ ¬ s.grantBand 319 < (20 : Int).natAbs) ∧
    (∃ s : State, (-4 : Int).natAbs ≤ 4 ∧ ((s.setSkew 319 (-4)).gtime 319).toNat ≤ s.ns + 4) ∧
    (∃ s : State, (0 : Int).natAbs ≤ 4 ∧ s.ns + 4 < ((s.setSkew 319 0).gtime 319).toNat) ∧
    (∃ s : State, (SMap.get none s.ms.golden 0).isSome = true ∧
      (SMap.get none s.ms.golden 0).any (fun g => decide (s.ns < g.2 + 1600)) = false) ∧
    (∃ s : State, (s.ms.fwd.find? fun f => f.id = 3).any (fun f => !s.fwdBehind f) = true) ∧
    (∃ s : State, 63 < 64 ∧ (s.sysGet SysReg.migctl 0).getLsbD 63 = true ∧
      SMap.get 0 s.ms.epochs 63 + 1000 * max 1 (field (s.sysGet SysReg.migctl 0) 23 0) = s.ns) ∧
    (∃ s : State, (s.ms.moves.find? fun m => decide (m.old = 0x10FFFF / 2 ^ 16 * 2 ^ 16)).any (fun m =>
      !s.frameHeld m.old && !s.frameHeld m.new && !s.rangeLeased m.old (2 ^ 16) && !s.leased m.leafPa 8 &&
        okRange m.new (2 ^ 16)) = true) ∧
    (∃ s : State, (s.ms.moves.find? fun m => decide (m.old = 0x10FFFF / 2 ^ 16 * 2 ^ 16)).any (fun m =>
      s.frameHeld m.old || s.frameHeld m.new || s.rangeLeased m.old (2 ^ 16) || s.leased m.leafPa 8) = true) ∧
    (∃ s : State, (s.ms.invs.find? fun v => decide (v.id = 4) && v.tlbs.contains 319).isSome = true) :=
  ⟨⟨flying (op .store none), _, rfl, by decide +kernel⟩,
   ⟨flying { op .store none with accs := [⟨0, 0x100000, 4, 0, 0, false, 5, 0, 0, 0, false⟩] }, _, rfl, by decide +kernel⟩,
   ⟨flying (op .store none), _, rfl, by decide +kernel⟩,
   ⟨cc, by decide +kernel⟩, ⟨{ cc with ms := { cc.ms with prefetch := [(.cc 0, 0x80)] } }, by decide +kernel⟩,
   ⟨{ gang with ms := { gang.ms with l1 := [⟨0, 0x2000, .shared, [], 0⟩] } }, by decide +kernel⟩,
   ⟨halves, by decide +kernel⟩, ⟨leased, by decide +kernel⟩, ⟨leased, by decide +kernel⟩,
   ⟨{ leased with skew := [(319, 5)] }, by decide +kernel⟩,
   ⟨{ State.reset with now := 12 * 1600, ms := { State.reset.ms with golden := [(0, some (7, 0))] } }, by decide +kernel⟩,
   ⟨accepted, by decide +kernel⟩,
   ⟨({ State.reset with now := 12000000 } : State).sysPut SysReg.migctl 0 0x80000002400003E8, by decide +kernel⟩,
   ⟨{ cc with ms := { cc.ms with moves := [⟨0x100000, 0x200000, 0x2000, true, 24000⟩] } }, by decide +kernel⟩,
   ⟨{ State.reset with ms := { State.reset.ms with moves := [⟨0x100000, 0x200000, 0x2000, true, 0⟩] } }, by decide +kernel⟩,
   ⟨{ State.reset with ms := { State.reset.ms with invs := [⟨4, 2, 0, .cc 0, [319], 0⟩] } }, by decide +kernel⟩⟩

/-- A closed bin of one thread on core 0. -/
def binned : State := { gang with la := { gang.la with bins := [⟨0, 15, 0x10, 0x4000, [⟨5, 5, 0, false, none⟩], 0, 256, true, 1⟩] } }

/-- The gang, changed. -/
def gangBut (f : Ctx → Ctx) : State := gang.modCtx (.gang 0) f

/-- The gang is out in frame 0 of column 0, whose pool has one frame at 16 MiB. -/
def pooled (g : Saved) : State :=
  let s := gang.sysPut SysReg.frmpool 0 0x0001000001000000
  { s with la := { s.la with saved := [g], frames := [⟨0, 0, .gang 0⟩] } }

def savedGang : Saved := ⟨0, 0x10, 0, 0, 0, 0, 4, 0, [], [], [], [], [], [], []⟩

theorem witness_GangEvents :
    (∃ s : State, (s.rcvDue 0).any (fun r => r.due.any fun d => d = s.clk (.gang 0)) = true) ∧
    (∃ s : State, ∃ t, (s.ctx (.gang 0)).readySince = some t ∧ t + 4096 = s.clk (.gang 0)) ∧
    (∃ s : State, s.gangsOn 0 = []) ∧ (∃ s : State, s.gangsOn 0 ≠ [] ∧ SMap.get 0 s.la.windows 0 = 0) ∧
    (∃ s : State, s.gangsOn 0 ≠ [] ∧ SMap.get 0 s.la.windows 0 ≠ 0 ∧ SMap.get 0 s.la.windows 0 + 1024 = s.coreClk 0 + 1) ∧
    (∃ s : State, (s.la.bins.find? fun b => decide (b.core = 0 ∧ b.num = 15) && !b.closed).any (fun b =>
      decide (b.since + b.tmo = s.coreClk 0)) = true) ∧
    (∃ s : State, (s.binNext 0).any (fun b => (s.launch? b.handle).any fun l => (s.formGang b l 7).isSome) = true) ∧
    (∃ s : State, (s.ctx (.gang 0)).live = true ∧ (s.ctx (.gang 0)).living = 0 ∧ s.landing (.gang 0) = false ∧
      s.unperformed (.gang 0) = false) ∧
    (∃ s : State, (s.ctx (.gang 0)).live = true ∧ (s.ctx (.gang 0)).living = 0 ∧ s.landing (.gang 0) = false ∧
      s.unperformed (.gang 0) = true ∧ (s.la.tombs.filter fun t => t.gid / 2 ^ 26 = 0 / 2 ^ 26).length < 64) ∧
    (∃ s : State, s.teamFreeOf (255 / 4) ≠ []) ∧
    (∃ s : State, ∃ q rest, (s.ctx (.gang 0)).regx = q :: rest ∧ q.code = (s.ctx (.gang 0)).regCode) ∧
    (∃ s : State, ∃ q rest, (s.ctx (.gang 0)).regx = q :: rest ∧ q.code < (s.ctx (.gang 0)).regCode ∧
      s.pendingAbove (.gang 0) (blockRegs q.code) = false) ∧
    (∃ s : State, ∃ q rest, (s.ctx (.gang 0)).regx = q :: rest ∧ (s.ctx (.gang 0)).regCode < q.code ∧
      (s.grantBlock (s.ctx (.gang 0)).core (s.ctx (.gang 0)).part (blockRegs q.code) (some (64 + 0))).isSome = true) ∧
    (∃ s : State, s.saved? 0 = some savedGang ∧ (s.ctx (.gang 0)).live = true ∧ (s.ctx (.gang 0)).saving = true ∧
      s.sealable (.gang 0) = true ∧ s.rangeLeased (s.frameOf savedGang) (2 ^ 17) = false) ∧
    (∃ s : State, let g := { savedGang with state := 1 }
      (s.la.saved.find? fun g => decide (g.col = 0 ∧ g.frame = 0)) = some g ∧ s.restoreNext (gidCore g.gid) = some g ∧
      7 < 8 ∧ (s.restoreOn g 7).isSome = true) :=
  ⟨⟨{ gangBut (fun c => { c with rcv := [⟨0x8000, 3, 1, some 64⟩] }) with pw := { State.reset.pw with clkCore := 64 }, now := 0 }, by decide +kernel⟩,
   ⟨{ gangBut (fun c => { c with readySince := some 0 }) with pw := { State.reset.pw with clkCore := 4096 }, now := 0 }, 0, by decide +kernel⟩,
   ⟨State.reset, by decide +kernel⟩, ⟨gang, by decide +kernel⟩,
   ⟨{ gang with la := { gang.la with windows := [(0, 1)] }, pw := { gang.pw with clkCore := 1024 }, now := 0 }, by decide +kernel⟩,
   ⟨{ gang with
      la := { gang.la with bins := [⟨0, 15, 0x10, 0x4000, [⟨5, 5, 0, false, none⟩], 0, 256, false, 0⟩] }
      pw := { gang.pw with clkCore := 256 }
      now := 0 }, by decide +kernel⟩,
   ⟨binned, by decide +kernel⟩, ⟨gangBut fun c => { c with lanes := [] }, by decide +kernel⟩,
   ⟨(flying (op .store none)).modCtx (.gang 0) fun c => { c with lanes := [] }, by decide +kernel⟩,
   ⟨State.reset, by decide +kernel⟩,
   ⟨gangBut fun c => { c with regx := [⟨1, some 8, 4, none, false⟩] }, _, _, rfl, by decide +kernel⟩,
   ⟨gangBut fun c => { c with regx := [⟨1, some 8, 0, none, false⟩] }, _, _, rfl, by decide +kernel⟩,
   ⟨gangBut fun c => { c with regCode := 0, regx := [⟨1, some 8, 4, none, false⟩] }, _, _, rfl, by decide +kernel⟩,
   ⟨(pooled savedGang).modCtx (.gang 0) fun c => { c with saving := true }, by decide +kernel⟩,
   ⟨(pooled { savedGang with state := 1 }).setCtx (.gang 0) Ctx.none, by decide +kernel⟩⟩

/-- A launch record of one thread at block 0x4000, with no arguments, affinity 0 and no predecessor (04 R107). -/
def oneThread : List Byte := leBytes 8 0x4000 ++ leBytes 8 0x0000000100000001 ++ leBytes 8 1 ++ leBytes 8 4 ++ leBytes 96 0

/-- Its line is Pending, on a page that may be executed. -/
def pendingLine (r : List Byte) : State :=
  ({ cc with mem := [(0, 1), (1, 0x20), (0x2000, 0xDF)] } : State).putLaunchLine 0 0
    (({ LaunchLine.idle with pending := true } : LaunchLine).put 0 r)

/-- That launch, as it stands after it has been taken. -/
def oneLaunch (f : Launch → Launch) : State :=
  { cc with la := { cc.la with launches := [f (Launch.start 0x10 oneThread 0)] } }

theorem witness_LaunchEvents :
    (63 < 64 ∧ 15 < 16 ∧ 119 + [(1 : Byte)].length ≤ 120 ∧ (State.reset.launchLine 63 15).pending = false) ∧
    (∃ s : State, (s.launchLine 0 0).pending = true ∧ s.la.launches.length < 512 ∧ s.pw.entering = 0 ∧ s.pw.mstate ≠ 2 ∧
      s.recordWaits 0 (s.launchLine 0 0).record = false ∧
      (s.rejectCause 0 (s.launchLine 0 0).record (handleOf 0 0 (s.launchLine 0 0).seq false)).2.1 = none) ∧
    (∃ s : State, (s.launchLine 0 0).pending = true ∧ s.la.launches.length < 512 ∧ s.pw.entering = 0 ∧ s.pw.mstate ≠ 2 ∧
      s.recordWaits 0 (s.launchLine 0 0).record = false ∧
      (s.rejectCause 0 (s.launchLine 0 0).record (handleOf 0 0 (s.launchLine 0 0).seq false)).2.1 = some 1) ∧
    (∃ s : State, (s.launch? 0x10).any (fun l => decide (l.stage = .waiting ∧ s.pw.entering = 0 ∧ s.pw.mstate ≠ 2) && !l.ending &&
      !l.switched && !s.wsHeld l && s.predHolds l && !s.unitWaits l.col (argAddrs (l.recNat 32 8)) .read && decide ((s.argPlaces l.col (l.recNat 32 8)).2 = some [] ∧
      ((s.argPlaces l.col (l.recNat 32 8)).1.unitRead 0x10 true 8 []).2 = some [])) = true) ∧
    (∃ s : State, (s.launch? 0x10).any (fun l => decide (l.stage = .waiting ∧ s.pw.entering = 0 ∧ s.pw.mstate ≠ 2) && !l.ending &&
      !l.switched && !s.wsHeld l && s.predHolds l && !s.unitWaits l.col (argAddrs (l.recNat 32 8)) .read && (s.argPlaces l.col (l.recNat 32 8)).2.isNone) = true) ∧
    (∃ s : State, (s.launch? 0x10).any (fun l => (s.rootPlace l).any fun p => decide (s.rootNext l.col = some l) &&
      ((s.affinity l l.nextRoot).1.toBin p.2 0x10 l.entry ⟨0, 0, 0, false, none⟩).isSome) = true) ∧
    (∃ s : State, (s.launch? 0x10).any s.retirable = true) ∧
    (field 0x10000000 29 28 = 1 ∧ field 0x20000000 29 28 = 2 ∧ field 0x30000000 29 28 = 3) ∧
    (∃ s : State, s.la.switch.any s.switchDone = true) ∧
    (∃ s : State, (s.launch? 0x10).any (fun l => s.wdogDue l && l.hung) = true) ∧
    (∃ s : State, (s.launch? 0x10).any (fun l => s.wdogDue l && !l.hung && decide (l.quiescing ≠ 0)) = true) :=
  ⟨by decide +kernel, ⟨pendingLine oneThread, by decide +kernel⟩, ⟨pendingLine [], by decide +kernel⟩,
   ⟨oneLaunch id, by decide +kernel⟩,
   ⟨oneLaunch fun l => { l with record := oneThread.take 32 ++ leBytes 8 0x1000000000 ++ oneThread.drop 40 }, by decide +kernel⟩,
   ⟨oneLaunch fun l => { l with stage := .distributing }, by decide +kernel⟩,
   ⟨oneLaunch fun l => { l with stage := .resident }, by decide +kernel⟩, by decide +kernel,
   ⟨{ cc with la := { cc.la with switch := some ⟨1, 0x10, 0⟩ } }, by decide +kernel⟩,
   ⟨{ oneLaunch fun l => { l with
        record := oneThread.take 80 ++ leBytes 4 1 ++ oneThread.drop 84, stage := .resident, wdog := some 0, hung := true } with
      now := 10 ^ 9 }, by decide +kernel⟩,
   ⟨{ oneLaunch fun l => { l with
        record := oneThread.take 80 ++ leBytes 4 1 ++ oneThread.drop 84, stage := .resident, wdog := some 0, quiescing := 1 } with
      now := 10 ^ 9 }, by decide +kernel⟩⟩

/-- Thread 0 of the gang, as the issuer of an engine command. -/
def byGang : CmdId := ⟨.gang 0, 0x10, 0, 0, 0x4000, 0, false, 0, 0⟩

/-- A stream of one block of one element of slot 2, into queue 2 by port 1. -/
def stream (r : Rec256) : Stream := ⟨3, leBytes 30 0 ++ leBytes 2 1 ++ leBytes 2 1 ++ leBytes 2 0x12 ++ leBytes 28 0, r, 2, 0⟩

/-- The access engine runs it. -/
def streaming (r : Rec256) : State :=
  let s := queued queue2 []
  { s with en := { s.en with ae := [⟨0, byGang, false, [stream r]⟩] } }

/-- A copy of one element to the last of a record's 1,024. -/
def copying (d : Rec256) : State :=
  { gang with en := { gang.en with cp := [⟨3, 0, byGang, some (record 0x200000 1 2 0), d, 1, 2, 0, none, false, [], false⟩] } }

/-- A command of core 0's matrix array. -/
def mcmd (k : MCmdKind) (f : MCmd → MCmd) : State :=
  { gang with mx := { gang.mx with cmds := [f ⟨5, 0, byGang, 2, false, k, none, 1, false, 0, none, none, 0, 15, [], none⟩] } }

/-- One row of one group of bf16. -/
def macArgs (m : Nat) (d : Rec256) : MacArgs := ⟨1, 1, 0, true, .bf16, 0, 0, d, 0, m, 7⟩

/-- A head that has run every pass. -/
def passed (c : MCmd) : MCmd := { c with running := true, pass := 1 }

/-- Bytes for a clasp. -/
def adding (r : ClaspRef) : State := { gang with cl := { gang.cl with adds := [⟨9, r, 8, byGang⟩] } }

/-- Some outcome of a list is no trap. -/
def clean (fs : List Found) : Bool := (firstTrap fs).isNone

theorem witness_EngineEvents :
    (∃ s : State, (s.aeRun 0).any (fun a => (a.streams.find? fun t => t.num = 3).any fun t =>
      decide ((s.queue 0 (descQueue t.desc)).allowance (descPort t.desc) ≠ 0) && clean (s.checkBlock (streamOp 0 3) (a.by_.who [0, 256]) t).2 &&
      ((s.checkBlock (streamOp 0 3) (a.by_.who [0, 256]) t).1.engineReady (streamOp 0 3) a.st (.core 0) false
        (elemAccs t.rec_ (2 ^ Rec256.es t.rec_) false (s.checkBlock (streamOp 0 3) (a.by_.who [0, 256]) t).2)).2) = true) ∧
    (∃ s : State, (s.aeRun 0).any (fun a => (a.streams.find? fun t => t.num = 3).any fun t =>
      decide ((s.queue 0 (descQueue t.desc)).allowance (descPort t.desc) ≠ 0) &&
        !clean (s.checkBlock (streamOp 0 3) (a.by_.who [0, 256]) t).2) = true) ∧
    (∃ s : State, ((s.queue 0 2).slots.filter fun y => decide (y.holder = some 5) && s.slotDue y) ≠ []) ∧
    (∃ s : State, ((s.queue 0 2).pend.find? fun p => p.gid = 0).any (fun p =>
      ((s.queue 0 2).slots.find? fun y => decide (y.seq = p.seq) && y.published).isSome) = true) ∧
    (∃ s : State, (s.en.cp.find? fun c => c.id = 3).any (fun c => (s.cpRunning c.col).contains c && (s.copyFault c).isNone) = true) ∧
    (∃ s : State, (s.en.cp.find? fun c => c.id = 3).any (fun c => (s.cpRunning c.col).contains c && (s.copyFault c).isSome) = true) ∧
    (∃ s : State, (s.box 0 15).any (fun b => (s.pushFor 0 15 b).isSome) = true) ∧
    (∃ s : State, (s.box 0 15).any (fun b => s.boxDead b) = true) ∧
    (∃ s : State, (s.loadReady 0).isSome = true) ∧
    (∃ s : State, (s.mhead 0).any (fun c => match c.kind with
      | .mac a _ _ => !c.running && decide (a.mcast = 0)
      | _ => false) = true) ∧
    (∃ s : State, (s.mhead 0).any (fun c => match c.kind with
      | .mac a _ _ => !c.running && decide (a.mcast ≠ 0) && !s.castStarted c a && s.castReady c a
      | _ => false) = true) ∧
    (∃ s : State, (s.mhead 0).any (fun c => match c.kind with
      | .mac a _ _ => !c.running && decide (a.mcast ≠ 0 ∧ c.headSince = none) && !s.castStarted c a && !s.castReady c a
      | _ => false) = true) ∧
    (∃ s : State, (s.mhead 0).any (fun c => !c.running && c.headSince.any fun t => t + 512 = s.coreClk 0) = true) ∧
    (∃ s : State, (s.mhead 0).any (fun c => match c.kind with
      | .mac a _ _ => c.running && decide (c.pass < a.groups) && s.bandsOn 0 (s.shapeNow 0).1
      | _ => false) = true) ∧
    (∃ s : State, (s.mhead 0).any (fun c => match c.kind with
      | .mac a _ _ => c.running && !(s.headStage 0).poison && decide (c.pass = a.groups ∧ c.given = none) && clean (s.macPlan c a).2.2 &&
        ((s.macPlan c a).1.engineReady c.id c.st c.view false
          (operandAccs a.data a.scale (s.macPlan c a).2.1 (s.macPlan c a).2.2)).2
      | _ => false) = true) ∧
    (∃ s : State, (s.mhead 0).any (fun c => match c.kind with
      | .mac a _ _ => c.running && !(s.headStage 0).poison && decide (c.pass = a.groups ∧ c.given = some [1])
      | _ => false) = true) ∧
    (∃ s : State, (s.mhead 0).any (fun c => match c.kind with
      | .mac _ _ _ => c.running && (s.headStage 0).poison
      | _ => false) = true) ∧
    (∃ s : State, (s.mhead 0).any (fun c => match c.kind with
      | .mac a _ _ => c.running && !(s.headStage 0).poison && c.given.isNone && !clean (s.macPlan c a).2.2
      | _ => false) = true) ∧
    (∃ s : State, (s.mhead 0).any (fun c => match c.kind with
      | .shape _ => true
      | _ => false) = true) ∧
    (∃ s : State, 3 < 4 ∧ s.bandWanted 0 3 = true) ∧
    (∃ s : State, (s.cl.adds.find? fun a => a.id = 9).any (fun a => match a.ref with
      | .scratch h core _ _ => (s.arena h core).isSome
      | _ => false) = true) ∧
    (∃ s : State, (s.cl.adds.find? fun a => a.id = 9).any (fun a => match a.ref with
      | .scratch h core _ _ => (s.arena h core).isNone && (s.arenaHome h core).any fun p => !s.pendFull p.1
      | _ => false) = true) ∧
    (∃ s : State, ∃ u pa l, s.translate [256 + 0] 0x100000 .write true = (u, .ok pa l) ∧ l.mig ≠ 2 ∧
      u.engineHeld true (.column 0) pa ⟨.ok pa l.tgt, 16, .nc, false⟩ = false ∧ u.leaseLive pa = false ∧ l.tgt < 2 ∧ u.driftOf pa = none) ∧
    (∃ s : State, ∃ u pa l, s.translate [256 + 0] 0x100000 .write true = (u, .ok pa l) ∧ l.mig ≠ 2 ∧
      u.engineHeld true (.column 0) pa ⟨.ok pa l.tgt, 16, .nc, false⟩ = false ∧ u.leaseLive pa = true) ∧
    (∃ s : State, s.slewPick ≠ []) := by
  let far := record 0x1000000000 1 1 0
  refine ⟨⟨streaming (record 0x100000 1 2 0), ?_⟩, ⟨streaming far, ?_⟩,
    ⟨queued { queue2 with slots := [⟨0, 0, 1, 0, true, false, some 5, none⟩] } [], ?_⟩,
    ⟨queued { (queue2.reserve 1 0).1 with
      slots := (queue2.reserve 1 0).1.slots.map fun y => { y with published := true }, pend := [⟨0, 0, 3, 8⟩] } [], ?_⟩,
    ⟨copying (record 0x100000 1 2 0), ?_⟩, ⟨copying (record 0x1000000000 1 2 0), ?_⟩,
    ⟨{ gang with en := { gang.en with
      boxes := [(15, some ⟨0, 0x10, 8, 3⟩)], pushes := [⟨0, 15, 0, 0, 3, 3, [(0, 1), (1, 2)], 0x10⟩] } }, ?_⟩,
    ⟨{ gang with en := { gang.en with boxes := [(15, some ⟨77, 0x10, 8, 3⟩)] } }, ?_⟩,
    ⟨mcmd (.load .bf16 1 (record 0x100000 1 1 0) 0) id, ?_⟩,
    ⟨mcmd (.mac (macArgs 0 (record 0x100000 1 1 0)) [] false) id, ?_⟩,
    ⟨mcmd (.mac (macArgs 1 (record 0x100000 1 1 0)) [] false) id, ?_⟩,
    ⟨mcmd (.mac (macArgs 3 (record 0x100000 1 1 0)) [] false) id, ?_⟩,
    ⟨{ mcmd (.mac (macArgs 3 (record 0x100000 1 1 0)) [] false) fun c => { c with headSince := some 0 } with
      pw := { gang.pw with clkCore := 512 }
      now := 0 }, ?_⟩,
    ⟨mcmd (.mac (macArgs 0 (record 0x100000 1 1 0)) [] false) fun c => { c with running := true }, ?_⟩,
    ⟨mcmd (.mac (macArgs 0 (record 0x100000 1 1 0)) [] false) passed, ?_⟩,
    ⟨mcmd (.mac (macArgs 0 (record 0x100000 1 1 0)) [] false) fun c => { passed c with given := some [1] }, ?_⟩,
    ⟨let s := mcmd (.mac (macArgs 0 (record 0x100000 1 1 0)) [] false) passed
     { s with mx := { s.mx with stages := [(0, { Stage2.reset with poison := true })] } }, ?_⟩,
    ⟨mcmd (.mac (macArgs 0 far) [] false) passed, ?_⟩, ⟨mcmd (.shape 0) id, ?_⟩,
    ⟨(mcmd (.shape 0) fun c => { c with running := true }).putBands 0 8, ?_⟩, ⟨adding (.scratch 0x10 0 64 2), ?_⟩,
    ⟨let s := adding (.scratch 0x20 0 64 2)
     { s with la := { s.la with frames := [⟨0, 0, .arena 0x20 0 0 0⟩] } }, ?_⟩,
    ⟨gang, _, _, _, rfl, ?_⟩,
    ⟨{ gang with ms := { gang.ms with regions := [⟨0x100000, 0x10000, [(3, 9999)], 0, none, 0⟩] } }, _, _, _, rfl, ?_⟩,
    ⟨{ gang with cl := { gang.cl with exits := [63] } }, ?_⟩⟩ <;> decide +kernel

/-- A weight load whose reads can be made: one of no groups has none to make. -/
theorem witness_EngineEvents_load :
    ∃ s : State, (s.loadPlan 0).any (fun r => clean (r.2.2.2.2.map EAcc.found) && s.bandsOn 0 r.1.emask &&
      (r.2.2.2.1.engineReady r.1.id r.1.st r.1.view false r.2.2.2.2).2) = true :=
  ⟨mcmd (.load .bf16 0 (record 0x100000 1 1 0) 0) fun c => { c with running := true }, by decide +kernel⟩

/-- One drift message has arrived, in a module whose trackers are given. -/
def told (m : DMsg) (ts : List Tracker) : State :=
  { driftState with dr := { driftState.dr with msgs := [(9, m)], trackers := ts } }

/-- Cache 3 tracks region 0 with a share of 7 under grant 2, and withholds one delta. -/
def tracking : Tracker := ⟨3, 0, 7, 2, 0x3F000000, [(0x100000, 0x3F000000)], false, false, false, false, 0⟩

theorem witness_DriftEvents :
    (∃ s : State, s.message 9 = some (.shareRequest 3 1) ∧ (s.driftEntry 1).valid = false) ∧
    (∃ s : State, s.message 9 = some (.shareRequest 3 0) ∧ (s.driftEntry 0).valid = true) ∧
    (∃ s : State, ∃ t, s.message 9 = some (.shareGrant 3 0 7 2) ∧ (s.took 9).tracker? 3 0 = some t ∧
      s.dr.voids.contains (3, 0, 2) = false ∧ 7 ≠ 0) ∧
    (∃ s : State, ∃ t, s.message 9 = some (.shareGrant 3 0 7 2) ∧ (s.took 9).tracker? 3 0 = some t ∧
      s.dr.voids.contains (3, 0, 2) = true) ∧
    (∃ s : State, s.message 9 = some (.shareGrant 3 0 7 2) ∧ (s.took 9).tracker? 3 0 = none ∧ s.dr.voids.contains (3, 0, 2) = false) ∧
    (∃ s : State, ∃ t, s.message 9 = some (.forcedDrain 3 0 2 0) ∧ (s.took 9).tracker? 3 0 = some t ∧ t.share ≠ 0 ∧ t.grant = 2 ∧
      t.draining = false) ∧
    (∃ s : State, ∃ t, s.message 9 = some (.forcedDrain 3 0 2 3) ∧ (s.took 9).tracker? 3 0 = some t ∧ t.share ≠ 0 ∧ t.grant = 2 ∧
      t.draining = true) ∧
    (∃ s : State, s.message 9 = some (.forcedDrain 3 0 1 0) ∧ ∀ t, (s.took 9).tracker? 3 0 = some t → t.share = 0 ∨ t.grant ≠ 1) ∧
    (∃ s : State, s.message 9 = some (.deltaWrite 3 0 0x100000 1 0 none false) ∧ s.deltaBehind 9 3 0x100000 = false ∧
      s.taken 0x100000 = false ∧ s.leaseLive 0x100000 = false) ∧
    (∃ s : State, s.message 9 = some (.deltaWrite 3 0 0x100000 1 0 none false) ∧ s.deltaBehind 9 3 0x100000 = false ∧
      s.taken 0x100000 = false ∧ s.leaseLive 0x100000 = true) ∧
    (∃ s : State, ∃ t, s.message 9 = some (.deltaAck 3 0 0x100000 none) ∧ (s.took 9).tracker? 3 0 = some t) ∧
    (∃ s : State, ∃ o, s.message 9 = some (.deltaAck 3 0 0x100000 (some (7, 63))) ∧ (s.took 9).op? 7 = some o) ∧
    (∃ s : State, s.message 9 = some (.drainAck 3 0 2)) ∧ (∃ s : State, s.message 9 = some (.shareReturn 3 0 2)) ∧
    (∃ s : State, ∃ x, s.message 9 = some (.tolQuery 4) ∧ (s.took 9).query? 4 = some x) ∧
    (∃ s : State, ∃ x, s.message 9 = some (.tolClear 4) ∧ (s.took 9).query? 4 = some x) ∧
    (∃ s : State, s.message 9 = some (.tolDone 0 4)) ∧
    (∃ s : State, ∃ t, (s.dr.trackers.filter fun t => t.cache = 3) = [t] ∧
      (t.pend.filter fun p => decide (p.1 / 128 = 0x2000)) ≠ []) ∧
    (0x8000000000000000 : Word64).getLsbD 63 = true ∧ (0x7FFFFFFFFFFFFFFF : Word64).getLsbD 63 = false := by
  let voided (s : State) : State := { s with dr := { s.dr with voids := [(3, 0, 2)] } }
  let asked (s : State) : State := { s with dr := { s.dr with queries := [⟨4, none, 0, 0, 0x100000, 0, none, 1, 0, none, false, []⟩] } }
  refine ⟨⟨told (.shareRequest 3 1) [], rfl, ?_⟩, ⟨told (.shareRequest 3 0) [], rfl, ?_⟩,
    ⟨told (.shareGrant 3 0 7 2) [tracking], tracking, rfl, rfl, ?_, ?_⟩,
    ⟨voided (told (.shareGrant 3 0 7 2) [tracking]), tracking, rfl, rfl, ?_⟩, ⟨told (.shareGrant 3 0 7 2) [], rfl, rfl, ?_⟩,
    ⟨told (.forcedDrain 3 0 2 0) [tracking], tracking, rfl, rfl, ?_, ?_, ?_⟩,
    ⟨told (.forcedDrain 3 0 2 3) [{ tracking with draining := true }], _, rfl, rfl, ?_, ?_, ?_⟩,
    ⟨told (.forcedDrain 3 0 1 0) [tracking], rfl, ?_⟩, ⟨told (.deltaWrite 3 0 0x100000 1 0 none false) [], rfl, ?_, ?_, ?_⟩,
    ⟨let s := told (.deltaWrite 3 0 0x100000 1 0 none false) []
     { s with ms := { s.ms with regions := [⟨0x100000, 0x10000, [(3, 9999)], 0, none, 0⟩] } }, rfl, ?_, ?_, ?_⟩,
    ⟨told (.deltaAck 3 0 0x100000 none) [tracking], _, rfl, rfl⟩,
    ⟨let s := told (.deltaAck 3 0 0x100000 (some (7, 63))) []
     { s with ms := { s.ms with ops := [op .dadd none] } }, _, rfl, rfl⟩,
    ⟨told (.drainAck 3 0 2) [], rfl⟩, ⟨told (.shareReturn 3 0 2) [], rfl⟩, ⟨asked (told (.tolQuery 4) []), _, rfl, rfl⟩,
    ⟨asked (told (.tolClear 4) []), _, rfl, rfl⟩, ⟨told (.tolDone 0 4) [], rfl⟩, ⟨told (.tolDone 0 4) [tracking], tracking, ?_, ?_⟩, ?_, ?_⟩
  all_goals decide +kernel

/-- A collective of one element over a group of this module alone, in its first chunk. -/
def collective (f : Coll → Coll) : State :=
  let a : CollArgs := ⟨record 0x100000 1 2 0, record 0x200000 1 2 0, none, 1, 2, 255, 0, .f32, 0, 0, 1⟩
  { gang with fa := { gang.fa with
    groups := [(0, ⟨0, [1], []⟩)]
    colls := [f ⟨6, byGang, a, none, false, 0, 0, 0, [], [], none, [], [], none⟩] } }

/-- The record of the collective names what no page maps. -/
def farSource (c : Coll) : Coll := { c with args := { c.args with src := record 0x1000000000 1 2 0 } }

/-- A link that is up, and the flit it expects next. -/
def upLink (f : Link → Link) : State :=
  { peerState with fa := { peerState.fa with links := [(31, f { Link.reset with up := true, peer := 1, good := 1, seq := 5 })] } }

theorem witness_FabricEvents :
    (∃ s : State, (s.coll? 6).any (fun c => c.done.isNone && !c.elems.isEmpty && !s.collAlone c && !s.collStopped c &&
      decide ((treeChildren (s.liveOf c) (s.group c.args.group).rank).length = 0 ∧
        (s.liveOf c).head? = some (s.group c.args.group).rank) && clean (s.collCheck c c.args.src .read).2 &&
      ((s.collCheck c c.args.src .read).1.engineReady c.id c.st c.view false
        (elemAccs c.args.src 4 false (s.collCheck c c.args.src .read).2)).2) = true) ∧
    (∃ s : State, (s.coll? 6).any (fun c => c.done.isNone && !s.collAlone c && !clean (s.collCheck c c.args.src .read).2 &&
      decide (c.args.res = none)) = true) ∧
    (∃ s : State, (s.coll? 6).any (fun c => decide (c.done = some ([1], [])) && clean (s.collCheck c c.args.dst .write).2 &&
      ((s.collCheck c c.args.dst .write).1.engineReady c.id c.st c.view false
        (elemAccs c.args.dst 4 true (s.collCheck c c.args.dst .write).2)).2) = true) ∧
    (∃ s : State, (s.coll? 6).any (fun c => (s.neighbours c).contains 1 && decide (c.since + 100000 = s.ns) &&
      (s.group c.args.group).members[1]?.any fun chip => decide (SMap.get 0 s.fa.heard chip ≤ c.since)) = true) ∧
    (∃ s : State, (s.coll? 6).any (fun c => c.elems.isEmpty) = true) ∧ (∃ s : State, (s.coll? 6).isSome = true) ∧
    (∃ s : State, (∀ p ∈ s.fa.inbox, p.id ≠ peerId s.opId) ∧ served 0x100000 = true ∧ peerOk .read 0x100000 128 = true ∧
      let i : PeerIn := ⟨peerId s.opId, ⟨0, .read⟩, 0x100000, 128, 0, none⟩
      let z := ({ s with opId := s.opId + 1, fa := { s.fa with inbox := s.fa.inbox ++ [i] } } : State).engineReady i.id true
        (.all (homeOf 0x100000)) true i.accs
      z.2 = true ∧ ((z.1.servePeer i.id .read 0x100000 128 0).1.engineDone i.id).linkHeld 0 = false) ∧
    (served (2 ^ 47) = false ∧ peerOk .read 0x100000 129 = false) ∧
    (∃ s : State, ∃ o, s.op? 7 = some o ∧ o.due + 12000000 = s.now) ∧ (State.reset.link 31).up = false ∧ (31 < 32 ∧ 1023 < 1024) ∧
    (∃ s : State, (s.link 31).up = true ∧ (s.link 31).good = 1 ∧ (s.link 31).seq = 5) ∧
    (∃ s : State, (s.sysGet SysReg.pbctl 0).getLsbD 63 = true ∧ s.fa.own ≠ [] ∧ ∀ p ∈ s.fa.own, p.2 + 100000 ≤ s.ns) :=
  ⟨⟨collective id, by decide +kernel⟩, ⟨collective farSource, by decide +kernel⟩,
   ⟨collective fun c => { c with done := some ([1], []) }, by decide +kernel⟩,
   ⟨{ collective id with
      now := 1200000
      fa := { (collective id).fa with groups := [(0, ⟨0, [1, 2], []⟩)] } }, by decide +kernel⟩,
   ⟨collective fun c => { c with chunk := 1 }, by decide +kernel⟩, ⟨collective id, by decide +kernel⟩, ⟨gang, by decide +kernel⟩,
   by decide +kernel, ⟨{ flying (op .store none) with now := 12000000 }, _, rfl, by decide +kernel⟩, by decide +kernel, by decide +kernel,
   ⟨upLink id, by decide +kernel⟩,
   ⟨({ State.reset with now := 1200000, fa := { State.reset.fa with own := [(300, 0)] } } : State).sysPut SysReg.pbctl 0 0x8000000000000000,
    by decide +kernel⟩⟩

/-- The module in a slot of its calendar, at a time in ns. -/
def inSlot (k ns : Nat) : State := { State.reset with now := 12 * ns, ca := { State.reset.ca with slot := some k } }

theorem witness_CalendarEvents :
    (SysReg.slotper ≤ SysReg.horizon ∧ gang.retuning gang.ringDie = false) ∧
    (∃ s : State, s.activateDue = true ∧ s.stagedOr SysReg.slotper < 2 * s.stagedOr SysReg.slotlen + s.stagedOr SysReg.horizon) ∧
    (∃ s : State, s.activateDue = true ∧ ¬ (s.stagedOr SysReg.slotper < 2 * s.stagedOr SysReg.slotlen + s.stagedOr SysReg.horizon ∨
      s.stagedOr SysReg.slotper < 2 * s.stagedOr SysReg.longlen + s.stagedOr SysReg.horizon)) ∧
    (∃ s : State, s.drainDue = true) ∧ (∃ s : State, s.startDue = some 1) ∧
    (∃ s : State, s.endDue = some 1 ∧ 64 * (s.ca.extended + 1) ≤ s.slotNominal 1) ∧
    (∃ s : State, s.endDue = some 1 ∧ s.slotNominal 1 < 64 * (s.ca.extended + 1) ∧ s.ca.carried ≠ 2) ∧
    (∃ s : State, s.endDue = some 1 ∧ s.slotNominal 1 < 64 * (s.ca.extended + 1) ∧ s.ca.carried = 2) ∧
    (∃ s : State, s.ca.outs ≠ [] ∧ s.ca.slot = none ∧ 0 < 64 ∧ 64 ≤ 64 ∧ s.ca.pieceEnd ≤ s.ns) ∧
    (∃ s : State, s.retuning s.ringDie = true ∧ s.ringNum < 16 ∧ field (17 : Word64) 4 0 ≤ 17 ∧
      ∀ w, w < 16 → s.ringOf s.ringDie s.ringFibre w ≠ field (17 : Word64) 4 0) ∧
    (∃ s : State, s.retuning s.ringDie = true ∧ s.ringNum < 16 ∧ field (0 : Word64) 4 0 ≤ 17 ∧
      s.ringOf s.ringDie s.ringFibre s.ringNum = field (0 : Word64) 4 0) ∧
    (calendarOk SysReg.slotper 2048 = true ∧ calendarOk SysReg.slotper 16385 = false ∧ calendarOk SysReg.horizon 4095 = true) ∧
    (∃ s : State, 0 < 4 ∧ s.retuning 0 = true) := by
  let staged (per : Nat) : State := { State.reset with
    now := 12 * 2 ^ 20, ca := { State.reset.ca with staged := [(SysReg.slotper, some per)] } }
  refine ⟨by decide +kernel, ⟨staged 100, by decide +kernel⟩, ⟨staged 8192, by decide +kernel⟩,
    ⟨{ State.reset with now := 12 * 4000 }, by decide +kernel⟩, ⟨{ State.reset with now := 12 * 4096 }, by decide +kernel⟩,
    ⟨inSlot 1 5000, by decide +kernel⟩,
    ⟨{ inSlot 1 5000 with ca := { State.reset.ca with slot := some 1, extended := 3 } }, by decide +kernel⟩,
    ⟨{ inSlot 1 5000 with ca := { State.reset.ca with slot := some 1, extended := 3, carried := 2 } }, by decide +kernel⟩,
    ⟨{ State.reset with ca := { State.reset.ca with outs := [1] } }, by decide +kernel⟩, ⟨inSlot 0 0, by decide +kernel⟩,
    ⟨inSlot 0 0, by decide +kernel⟩, by decide +kernel, ⟨inSlot 0 0, by decide +kernel⟩⟩

/-- Column 63 has a pool of one frame at 16 MiB. -/
def pools0 : State := State.reset.sysPut SysReg.frmpool 63 0x0001000001000000

theorem witness_PowerEvents :
    (∃ s : State, ∃ d m, 63 < 64 ∧ SMap.get 0 s.pw.govAt 63 + 1000 = s.ns ∧ s.pw.brownHold = false ∧ s.capOf 63 < 10 ^ 12 ∧
      governUp d m = some (3, 7)) ∧
    (∃ s : State, s.pw.capAt + 10000 = s.ns) ∧ (State.reset.alarmed = false ∧ State.reset.isFast = false) ∧
    (∃ s : State, s.alarmed = true ∧ s.isFast = false) ∧
    (∃ s : State, s.isFast = true ∧ s.alarmed = false ∧ s.pw.clearAt + 1000 * field (s.sysGet SysReg.govctl 0) 31 16 ≤ s.ns) ∧
    (∃ s : State, 63 < 64 ∧ s.cstate 63 < s.cDeepest 63 ∧ s.cDeepest 63 ≠ 3 ∧ s.cl.exits.contains 63 = false ∧ s.pw.mstate ≠ 2) ∧
    (∃ s : State, 63 < 64 ∧ s.cstate 63 ≠ 0 ∧ s.cl.exits.contains 63 = true ∧ (s.wakeColumn 63).slewPick ≠ []) ∧
    (State.reset.pw.mstate = 0 ∧ State.reset.pw.entering = 0 ∧ State.reset.linksIdle = true) ∧
    (∃ s : State, s.pw.mstate = 1 ∧ s.linksIdle = false) ∧
    (∃ s : State, (s.link 31).up = true ∧ s.ca.retrain = some 31) ∧ (∃ s : State, 63 < 64 ∧ s.quietDue 63 = true) ∧
    (∃ s : State, s.pw.mstate ≠ 2 ∧ s.pw.entering = 0 ∧ s.m2Wanted = true ∧ s.m2Missing = 0) ∧
    (∃ s : State, s.pw.mstate ≠ 2 ∧ s.pw.entering = 0 ∧ s.m2Wanted = true ∧ s.m2Missing ≠ 0) ∧
    (∃ s : State, s.pw.mstate ≠ 2 ∧ s.pw.entering = 1 ∧ s.outsDone = true) ∧
    (∃ s : State, s.pw.mstate ≠ 2 ∧ 1 < s.pw.entering ∧ (s.drainTrackers fun _ => true).cachesDrained = true) ∧
    (∃ s : State, s.pw.brownPin = false) ∧ (∃ s : State, s.pw.brownPin = true) ∧
    (∃ s : State, s.pw.mstate ≠ 2 ∧ 1 < s.pw.entering ∧ (s.drainTrackers fun _ => true).cachesDrained = false) ∧
    (∃ s : State, s.pw.mstate = 2 ∧ s.pw.wakeTime ≠ none ∧ s.imageGood = true) ∧
    (∃ s : State, ∃ t, s.pw.mstate ≠ 2 ∧ s.backDone = true ∧ s.pw.back = some t) ∧
    okRange (pools0.frameBase 63 0) (2 ^ 17) = true := by
  let pw (f : PowerSt → PowerSt) (s : State) : State := { s with pw := f s.pw }
  let pools := (List.range 64).foldl (fun s c => s.sysPut SysReg.frmpool c 0x0001000001000000) State.reset
  refine ⟨⟨{ State.reset with now := 12000 }, 3, 15, ?_⟩, ⟨{ State.reset with now := 120000 }, ?_⟩, ?_,
    ⟨pw (fun p => { p with throtPin := true }) .reset, ?_⟩,
    ⟨pw (fun p => { p with fast := [(0, true)] }) { State.reset with now := 10 ^ 9 }, ?_⟩,
    ⟨State.reset.sysPut SysReg.lattol 63 50, ?_⟩,
    ⟨pw (fun p => { p with cstate := [(63, 1)] }) { State.reset with cl := { State.reset.cl with exits := [63] } }, ?_⟩, ?_,
    ⟨pw (fun p => { p with mstate := 1 }) (upLink fun l => { l with heard := 1500 }), ?_⟩, ⟨{ upLink id with ca := { State.reset.ca with retrain := some 31 } }, ?_⟩,
    ⟨pw (fun p => { p with quiesce := [(63, 1)] }) .reset, ?_⟩, ⟨pw (fun p => { p with m2by := [(0, none)] }) pools, ?_⟩,
    ⟨pw (fun p => { p with m2by := [(0, none)] }) gang, ?_⟩, ⟨pw (fun p => { p with entering := 1 }) .reset, ?_⟩,
    ⟨pw (fun p => { p with entering := 2 }) .reset, ?_⟩, ⟨.reset, ?_⟩, ⟨pw (fun p => { p with brownPin := true }) .reset, ?_⟩,
    ⟨{ accepted with pw := { accepted.pw with entering := 2 } }, ?_⟩, ⟨pw (fun p => { p with mstate := 2, wakeTime := some 0 }) .reset, ?_⟩,
    ⟨pw (fun p => { p with back := some (1, 2) }) .reset, (1, 2), ?_⟩, ?_⟩ <;> decide +kernel

theorem witness_HostEvents :
    (∃ s : State, s.bootStage = 0x01 ∧ field (0x1000000000000 : Word64) 63 48 ≠ 0 ∧ field (0x1000000000000 : Word64) 47 46 = 0) ∧
    (∃ s : State, s.bootStage = 0x02) ∧ (∃ s : State, s.se.dbg = 1) ∧ (∃ s : State, 2 ≤ s.se.dbg) ∧ State.reset.se.dbg < 2 ∧
    (State.reset.pw.mstate ≠ 2) ∧ (∃ s : State, (s.wsDue 1).isSome = true) ∧
    (∃ s : State, (s.ovfNext 63).any (fun r => s.evqOn r.queue) = true) ∧
    (∃ s : State, (s.ovfNext 63).any (fun r => !s.evqOn r.queue) = true) ∧
    (∃ s : State, s.bootStage = 0x02 ∧ s.se.lifecycle ≠ 2) ∧ (∃ s : State, s.bootStage = 0x02 ∧ s.se.lifecycle = 2) ∧
    (∃ s : State, ∃ h : HostAcc, s.apertureOk h.pa h.n h.data.isSome = true ∧
      (s.engineReady h.id true (.all (homeOf h.pa)) true h.accs).2 = true) ∧
    (∃ s : State, ∃ h : HostAcc, s.apertureOk h.pa h.n h.data.isSome = true ∧
      (s.engineReady h.id true (.all (homeOf h.pa)) true h.accs).2 = false) ∧
    (∃ s : State, ∃ h : HostAcc, s.apertureOk h.pa h.n h.data.isSome = false) ∧
    (∃ s : State, s.evqOn 255 = true ∧ (∀ r ∈ s.ev.ovf, r.col = 63 → r.queue ≠ 255) ∧ 0 < s.evqFree 255) ∧
    (2 ^ 36 - 1 + 1 ≤ 2 ^ 36 ∧ 255 < 256 ∧ 9 < 10 ∧ 63 < 64 ∧ 3 < 4 ∧ 0xFFFF < 0x10000) := by
  let dbg (n : Nat) : State := { State.reset with se := { State.reset.se with dbg := n } }
  let late : State := ({ State.reset with ev := { State.reset.ev with ovf := [⟨63, 255, List.replicate 32 0⟩] } } : State).sysPut
    SysReg.evqctl 255 0x8000000000000000
  refine ⟨⟨State.reset.setStage 1, ?_⟩, ⟨State.reset.setStage 2, ?_⟩, ⟨dbg 1, ?_⟩, ⟨dbg 2, ?_⟩, ?_, ?_,
    ⟨{ State.reset with ms := { State.reset.ms with wsPend := [⟨1, 0, 63, []⟩] } }, ?_⟩, ⟨late, ?_⟩,
    ⟨{ State.reset with ev := { State.reset.ev with ovf := [⟨63, 255, List.replicate 32 0⟩] } }, ?_⟩, ⟨State.reset.setStage 2, ?_⟩,
    ⟨{ State.reset.setStage 2 with se := { (State.reset.setStage 2).se with lifecycle := 2 } }, ?_⟩,
    ⟨gang, ⟨hostId 0, 0x100000, none, 8⟩, ?_⟩, ⟨inSlot 0 0, ⟨hostId 0, 0x100000, none, 8⟩, ?_⟩, ⟨gang, ⟨hostId 0, 2 ^ 48 - 1, none, 2⟩, ?_⟩,
    ⟨State.reset.sysPut SysReg.evqctl 255 0x8000000000000000, ?_⟩, ?_⟩ <;> decide +kernel

theorem witness_DecodeEncode : (Instr.add bin).wf = true ∧ ∃ w, (Instr.add bin).encode = some w := ⟨by decide +kernel, _, rfl⟩

theorem witness_StepKeepsInv : State.reset.Inv ∧ ∃ t, step (State.reset.withFetchWord 80 0x00380000_0818_1000_0000) = .next t := by
  refine ⟨⟨by decide +kernel, by decide +kernel⟩, ?_⟩
  cases h : step (State.reset.withFetchWord 80 0x00380000_0818_1000_0000) with
  | next t => exact ⟨t, rfl⟩
  | fault f => 
    have : (match step (State.reset.withFetchWord 80 0x00380000_0818_1000_0000) with | .next _ => true | _ => false) = true := by decide +kernel
    rw [h] at this; cases this
  | refused f =>
    have : (match step (State.reset.withFetchWord 80 0x00380000_0818_1000_0000) with | .next _ => true | _ => false) = true := by decide +kernel
    rw [h] at this; cases this

/-- The module as it fetches its first word: the agenda is empty, no result is due, no calendar event is, column core 0 is picked, and
the word is there. -/
theorem witness_StepRunsDecoded :
    let s := State.reset.withFetchWord 80 0x00380000_0818_1000_0000
    s.agenda = [] ∧ s.dueCtx = none ∧ s.clockEvent.isNone = true ∧ s.second.isNone = true ∧
    s.pick.any (fun p => ({ s.noteReady p.1 p.2.1.ctx with turn := p.1 + 1, second := none } : State).fetch p.2.1 =
      .word 0x00380000_0818_1000_0000 hw0) = true := by decide +kernel

end Sys2Proof.Tests
end

section
/-! O10: an integer reduction, from the tree's shape to the value of its fold. -/

set_option Elab.async false

namespace Sys2Proof

section Trees
variable {α : Type} {f : α → α → α}

@[simp] theorem combine_none_left (b : Option α) : combine f none b = b := by cases b <;> rfl
@[simp] theorem combine_none_right (a : Option α) : combine f a none = a := by cases a <;> rfl

theorem combine_assoc (hf : ∀ a b c, f (f a b) c = f a (f b c)) (a b c : Option α) :
    combine f (combine f a b) c = combine f a (combine f b c) := by
  cases a <;> cases b <;> cases c <;> simp [combine, hf]

/-- The participants of a list combined in order: what the tree of R41 comes to. -/
def combineAll (f : α → α → α) (v : List (Option α)) : Option α := v.foldr (combine f) none

@[simp] theorem combineAll_nil : combineAll f ([] : List (Option α)) = none := rfl
@[simp] theorem combineAll_cons (o : Option α) (v : List (Option α)) :
    combineAll f (o :: v) = combine f o (combineAll f v) := rfl

theorem combineAll_append (hf : ∀ a b c, f (f a b) c = f a (f b c)) (v w : List (Option α)) :
    combineAll f (v ++ w) = combine f (combineAll f v) (combineAll f w) := by
  induction v with
  | nil => simp
  | cons o v ih => simp [ih, combine_assoc hf]

/-- Step d of the tree of redl (R41). -/
def redStep (f : α → α → α) (v : List (Option α)) (d : Nat) : List (Option α) :=
  (List.range 64).map fun l =>
    if l % (2 * 2 ^ d) = 0 then combine f (v.getD l none) (v.getD (l + 2 ^ d) none) else v.getD l none

theorem redTree_eq_foldl_redStep (v : List (Option α)) :
    redTree f v = ((List.range 6).foldl (redStep f) v).getD 0 none := rfl

theorem getD_redStep (v : List (Option α)) (d l : Nat) (hl : l < 64) (hd : l % 2 ^ (d + 1) = 0) :
    (redStep f v d).getD l none = combine f (v.getD l none) (v.getD (l + 2 ^ d) none) := by
  have h : l % (2 * 2 ^ d) = 0 := by rwa [Nat.pow_succ'] at hd
  simp [redStep, List.getD, hl, h]

/-- The segment of 2^d lanes that begins at lane l. -/
def laneSegment (v : List (Option α)) (d l : Nat) : List (Option α) := (v.drop l).take (2 ^ d)

theorem laneSegment_succ (v : List (Option α)) (d l : Nat) :
    laneSegment v (d + 1) l = laneSegment v d l ++ laneSegment v d (l + 2 ^ d) := by
  rw [laneSegment, show 2 ^ (d + 1) = 2 ^ d + 2 ^ d by omega, List.take_add, List.drop_drop]
  rfl

/-- After d steps the first lane of each segment of 2^d lanes holds what the segment's participants come to. -/
theorem getD_foldl_redStep (hf : ∀ a b c, f (f a b) c = f a (f b c)) (v : List (Option α)) (hv : v.length = 64) (d : Nat) :
    d ≤ 6 → ∀ l, l < 64 → l % 2 ^ d = 0 →
      ((List.range d).foldl (redStep f) v).getD l none = combineAll f (laneSegment v d l) := by
  induction d with
  | zero =>
    intro _ l hl _
    rw [laneSegment, List.drop_eq_getElem_cons (by omega)]
    change v.getD l none = combineAll f [v[l]]
    simp [List.getD, hv, hl]
  | succ d ih =>
    intro hd l hl hm
    have hdvd : 2 ^ (d + 1) ∣ 64 := Nat.pow_dvd_pow 2 (show d + 1 ≤ 6 by omega)
    have hpow : 2 ^ (d + 1) = 2 * 2 ^ d := Nat.pow_succ'
    have hroom : l + 2 ^ d < 64 := by
      obtain ⟨k, hk⟩ := Nat.dvd_of_mod_eq_zero hm
      obtain ⟨n, hn⟩ := hdvd
      have hkn : k + 1 ≤ n := Nat.lt_of_mul_lt_mul_left (hk ▸ hn ▸ hl : 2 ^ (d + 1) * k < 2 ^ (d + 1) * n)
      have hend := Nat.mul_le_mul_left (2 ^ (d + 1)) hkn
      have hpos := Nat.two_pow_pos d
      rw [Nat.mul_succ] at hend
      omega
    have hleft : l % 2 ^ d = 0 := Nat.mod_eq_zero_of_dvd
      ((Dvd.intro_left 2 hpow.symm).trans (Nat.dvd_of_mod_eq_zero hm))
    rw [List.range_succ, List.foldl_concat, getD_redStep _ _ _ hl hm, ih (by omega) l hl hleft,
      ih (by omega) _ hroom (by rw [Nat.add_mod_right, hleft]), laneSegment_succ, combineAll_append hf]

/-- The tree of an associative step is the fold over the participants. -/
theorem redTree_eq_combineAll (hf : ∀ a b c, f (f a b) c = f a (f b c)) (v : List (Option α)) (hv : v.length = 64) :
    redTree f v = combineAll f v := by
  rw [redTree_eq_foldl_redStep, getD_foldl_redStep hf v hv 6 (le_refl 6) 0 (by decide) rfl, laneSegment, List.drop_zero,
    List.take_of_length_le (by omega)]

/-- A step gives one of its two values, the one that the order `r` puts first. -/
structure Selects (f : α → α → α) (r : α → α → Prop) : Prop where
  assoc : ∀ a b c, f (f a b) c = f a (f b c)
  choice : ∀ a b, f a b = a ∨ f a b = b
  refl : ∀ a, r a a
  trans : ∀ a b c, r a b → r b c → r a c
  left : ∀ a b, r (f a b) a
  right : ∀ a b, r (f a b) b

/-- Participants combined by a selecting step come to a value of the list that the order puts before all of them. -/
theorem combineAll_of_selects {r : α → α → Prop} (hf : Selects f r) (v : List (Option α)) (hv : ∃ x, some x ∈ v) :
    ∃ z, combineAll f v = some z ∧ some z ∈ v ∧ ∀ x, some x ∈ v → r z x := by
  induction v with
  | nil => simp at hv
  | cons o v ih =>
    by_cases hrest : ∃ x, some x ∈ v
    · obtain ⟨z, hz, hmem, hle⟩ := ih hrest
      cases o with
      | none => exact ⟨z, by simp [hz], by simp [hmem], by simpa using hle⟩
      | some y =>
        refine ⟨f y z, by simp [hz, combine], ?_, ?_⟩
        · rcases hf.choice y z with h | h <;> rw [h] <;> simp [hmem]
        · rintro x hx
          rcases List.mem_cons.mp hx with h | h
          · rw [Option.some.inj h]; exact hf.left y z
          · exact hf.trans _ _ _ (hf.right y z) (hle x h)
    · obtain ⟨x, hx⟩ := hv
      have ho : o = some x := ((List.mem_cons.mp hx).resolve_right fun h => hrest ⟨x, h⟩).symm
      have hnone : combineAll f v = none := by
        clear ih hx
        induction v with
        | nil => rfl
        | cons p v ih =>
          cases p with
          | none => simpa using ih fun ⟨y, hy⟩ => hrest ⟨y, List.mem_cons_of_mem _ hy⟩
          | some y => exact absurd ⟨y, List.mem_cons_self⟩ hrest
      subst ho
      refine ⟨x, by simp [hnone], by simp, fun y hy => ?_⟩
      rcases List.mem_cons.mp hy with h | h
      · rw [Option.some.inj h]; exact hf.refl x
      · exact absurd ⟨y, h⟩ hrest

end Trees

/-- The participants added in order come to the sum in which the others count as 0. -/
theorem combineAll_add (v : List (Option Int)) : (combineAll (· + ·) v).getD 0 = (v.map fun o => o.getD 0).sum := by
  induction v with
  | nil => rfl
  | cons o v ih =>
    rw [List.map_cons, List.sum_cons, ← ih, combineAll_cons]
    cases o <;> cases combineAll (· + ·) v <;> simp [combine]

theorem redOp_int_min (t : Ty) : RedOp.int .min t = min := by
  funext a b; exact (min_def a b).symm

theorem redOp_int_max (t : Ty) : RedOp.int .max t = max := by
  funext a b; exact (max_def a b).symm

theorem selects_min (t : Ty) : Selects (RedOp.int .min t) (· ≤ ·) := by
  rw [redOp_int_min]
  exact ⟨min_assoc, min_choice, le_refl, fun _ _ _ => le_trans, min_le_left, min_le_right⟩

theorem selects_max (t : Ty) : Selects (RedOp.int .max t) (· ≥ ·) := by
  rw [redOp_int_max]
  exact ⟨max_assoc, max_choice, le_refl, fun _ _ _ => ge_trans, le_max_left, le_max_right⟩

/-- An integer reduction by an associative step: the participants' values combined, clamped or wrapped once. -/
theorem Machine.reduced_bits_of_assoc {t : TWord} {op : RedOp} (ht : t.ty.isFloat = false)
    (hf : ∀ a b c, op.int t.ty (op.int t.ty a b) c = op.int t.ty a (op.int t.ty b c)) {v : List (Option Nat)} (hv : v.length = 64)
    (l : Nat) : (reduced t op false v l).bits =
      fit t.sat t.ty ((combineAll (op.int t.ty) (v.map fun o => o.map t.ty.value)).getD 0) := by
  rw [reduced, ht, ← redTree_eq_combineAll hf _ ((List.length_map _).trans hv)]
  rfl

/-- An integer reduction by a selecting step: the participant's value that its order puts before all of them. -/
theorem Machine.reduced_of_selects {t : TWord} {op : RedOp} {r : Int → Int → Prop} (ht : t.ty.isFloat = false)
    (hf : Selects (op.int t.ty) r) {v : List (Option Nat)} (hv : v.length = 64) (hx : ∃ x, some x ∈ v) :
    ∃ z, (∃ x, some x ∈ v ∧ t.ty.value x = z) ∧ (∀ x, some x ∈ v → r z (t.ty.value x)) ∧
      ∀ l, (reduced t op false v l).bits = fit t.sat t.ty z := by
  have hmem : ∀ z, some z ∈ v.map (Option.map t.ty.value) ↔ ∃ x, some x ∈ v ∧ t.ty.value x = z := by
    simp [List.mem_map]
  obtain ⟨x, hx⟩ := hx
  obtain ⟨z, hz, hzv, hle⟩ := combineAll_of_selects hf (v.map (Option.map t.ty.value))
    ⟨_, (hmem _).mpr ⟨x, hx, rfl⟩⟩
  refine ⟨z, (hmem z).mp hzv, fun y hy => hle _ ((hmem _).mpr ⟨y, hy, rfl⟩), fun l => ?_⟩
  rw [reduced_bits_of_assoc ht hf.assoc hv, hz]
  rfl

/-- Settles O10: the tree of an associative step is the fold over the lanes, and each of the three steps is associative. -/
theorem integerReductions : Obligations.IntegerReductions := by
  intro t v ht hv hx
  refine ⟨fun l => ?_, Machine.reduced_of_selects ht (selects_min t.ty) hv hx, Machine.reduced_of_selects ht (selects_max t.ty) hv hx⟩
  rw [Machine.reduced_bits_of_assoc (op := .add) ht Int.add_assoc hv, show RedOp.int .add t.ty = (· + ·) from rfl, combineAll_add,
    List.map_map]
  rfl

end Sys2Proof
end

section
/-! What it is to round a magnitude to a rising sequence of numbers (01 R19), and the sequences that matter: the multiples of a power of
two and the finite values of a format. -/

set_option Elab.async false

namespace Sys2Proof

/-! ### Rounding to a rising sequence -/

/-- A magnitude `a` rounds to more than the value `g n`: it is beyond the middle of the gap above it, or at the middle where n is odd; or it
reaches the next value; or it is beyond `g n`, by the mode and the sign (01 R19). -/
def RoundsAbove (g : ℕ → ℚ) (rm : Rnd) (neg : Bool) (a : ℚ) (n : ℕ) : Prop :=
  (rm = .rne ∧ ((g n + g (n + 1)) / 2 < a ∨ ((g n + g (n + 1)) / 2 = a ∧ n % 2 = 1))) ∨
  (rm.inwards neg ∧ g (n + 1) ≤ a) ∨ (rm.outwards neg ∧ g n < a)

/-- A magnitude rounds to the value `g k` of a sequence. -/
def RoundsTo (g : ℕ → ℚ) (rm : Rnd) (neg : Bool) (a : ℚ) (k : ℕ) : Prop := ∀ n, n < k ↔ RoundsAbove g rm neg a n

/-- A mode is one of three: to nearest, towards zero or away from it. -/
theorem Rnd.trichotomy (rm : Rnd) (neg : Bool) :
    (rm = .rne ∧ ¬ rm.inwards neg ∧ ¬ rm.outwards neg) ∨ (rm ≠ .rne ∧ rm.inwards neg ∧ ¬ rm.outwards neg) ∨
    (rm ≠ .rne ∧ ¬ rm.inwards neg ∧ rm.outwards neg) := by
  cases rm <;> cases neg <;> simp [Rnd.inwards, Rnd.outwards]

section Sequence
variable {g : ℕ → ℚ} {rm : Rnd} {neg : Bool} {a : ℚ}

theorem roundsAbove_of_rne (h : rm = .rne) (n : ℕ) : RoundsAbove g rm neg a n ↔
    (g n + g (n + 1)) / 2 < a ∨ ((g n + g (n + 1)) / 2 = a ∧ n % 2 = 1) := by
  subst h; simp [RoundsAbove, Rnd.inwards, Rnd.outwards]

theorem roundsAbove_of_inwards (h : rm.inwards neg) (n : ℕ) :
    RoundsAbove g rm neg a n ↔ g (n + 1) ≤ a := by
  obtain ⟨rfl, h1, h2⟩ | ⟨h0, h1, h2⟩ | ⟨h0, h1, h2⟩ := Rnd.trichotomy rm neg <;> simp_all [RoundsAbove]

theorem roundsAbove_of_outwards (h : rm.outwards neg) (n : ℕ) :
    RoundsAbove g rm neg a n ↔ g n < a := by
  obtain ⟨rfl, h1, h2⟩ | ⟨h0, h1, h2⟩ | ⟨h0, h1, h2⟩ := Rnd.trichotomy rm neg <;> simp_all [RoundsAbove]

/-- Rounding above a value depends on that value, the next one and the parity of its place. -/
theorem roundsAbove_congr {g' : ℕ → ℚ} {n n' : ℕ} (h0 : g n = g' n') (h1 : g (n + 1) = g' (n' + 1))
    (h2 : n % 2 = n' % 2) : RoundsAbove g rm neg a n ↔ RoundsAbove g' rm neg a n' := by
  simp only [RoundsAbove, h0, h1, h2]

variable (hg : StrictMono g)
include hg

theorem lt_of_roundsAbove {n : ℕ} (h : RoundsAbove g rm neg a n) : g n < a := by
  have hlt : g n < g (n + 1) := hg n.lt_succ_self
  obtain ⟨-, h | ⟨h, -⟩⟩ | ⟨-, h⟩ | ⟨-, h⟩ := h <;> linarith

theorem roundsAbove_of_le {n : ℕ} (h : g (n + 1) ≤ a) : RoundsAbove g rm neg a n := by
  have hlt : g n < g (n + 1) := hg n.lt_succ_self
  obtain ⟨h0, -, -⟩ | ⟨-, h0, -⟩ | ⟨-, -, h0⟩ := Rnd.trichotomy rm neg
  · exact (roundsAbove_of_rne h0 n).mpr (.inl (by linarith))
  · exact (roundsAbove_of_inwards h0 n).mpr h
  · exact (roundsAbove_of_outwards h0 n).mpr (by linarith)

/-- A value of which it rounds to no more, and all below it of which it does. -/
theorem roundsTo_iff (k : ℕ) : RoundsTo g rm neg a k ↔
    ¬ RoundsAbove g rm neg a k ∧ ∀ j, k = j + 1 → RoundsAbove g rm neg a j := by
  constructor
  · exact fun h => ⟨fun ha => lt_irrefl k ((h k).mpr ha), fun j hj => (h j).mp (by omega)⟩
  · rintro ⟨hk, hj⟩ n
    refine ⟨fun hn => ?_, fun hn => ?_⟩
    · obtain ⟨j, rfl⟩ : ∃ j, k = j + 1 := ⟨k - 1, by omega⟩
      rcases (Nat.lt_succ_iff.mp hn).eq_or_lt with rfl | hlt
      · exact hj _ rfl
      · exact roundsAbove_of_le hg ((hg.monotone hlt).trans (lt_of_roundsAbove hg (hj j rfl)).le)
    · by_contra hle
      rcases (Nat.not_lt.mp hle).eq_or_lt with rfl | hlt
      · exact hk hn
      · exact hk (roundsAbove_of_le hg ((hg.monotone hlt).trans (lt_of_roundsAbove hg hn).le))

theorem roundsTo_self (k : ℕ) : RoundsTo g rm neg (g k) k :=
  (roundsTo_iff hg k).mpr ⟨fun h => lt_irrefl _ (lt_of_roundsAbove hg h), fun j hj => roundsAbove_of_le hg (by rw [hj])⟩

/-- Towards zero: the greatest value that is not beyond the magnitude. -/
theorem RoundsTo.greatest {k : ℕ} (h : RoundsTo g rm neg a k) (h0 : g 0 ≤ a) (hm : rm.inwards neg) :
    g k ≤ a ∧ ∀ m, g m ≤ a → g m ≤ g k := by
  constructor
  · cases k with
    | zero => exact h0
    | succ j => exact (roundsAbove_of_inwards hm j).mp ((h j).mp j.lt_succ_self)
  · intro m hma
    have hnot : ¬ g (k + 1) ≤ a := fun hle => lt_irrefl k ((h k).mpr ((roundsAbove_of_inwards hm k).mpr hle))
    by_contra hlt
    exact hnot ((hg.monotone (hg.lt_iff_lt.mp (not_le.mp hlt))).trans hma)

/-- Away from zero: the least value that the magnitude is not beyond. -/
theorem RoundsTo.least {k : ℕ} (h : RoundsTo g rm neg a k) (hm : rm.outwards neg) :
    a ≤ g k ∧ ∀ m, a ≤ g m → g k ≤ g m := by
  constructor
  · exact not_lt.mp fun hlt => lt_irrefl k ((h k).mpr ((roundsAbove_of_outwards hm k).mpr hlt))
  · intro m hma
    refine hg.monotone (not_lt.mp fun hlt => ?_)
    exact absurd ((roundsAbove_of_outwards hm m).mp ((h m).mp hlt)) (not_lt.mpr hma)

/-- To nearest: no value is closer, and where another one is as close the place is even. -/
theorem RoundsTo.nearest {k : ℕ} (h : RoundsTo g .rne neg a k) (m : ℕ) :
    |g k - a| ≤ |g m - a| ∧ (|g m - a| = |g k - a| → m ≠ k → k % 2 = 0) := by
  have hrne := roundsAbove_of_rne (g := g) (neg := neg) (a := a) rfl
  rcases lt_trichotomy m k with hlt | rfl | hlt
  · obtain ⟨j, rfl⟩ : ∃ j, k = j + 1 := ⟨k - 1, by omega⟩
    have hmj : g m ≤ g j := hg.monotone (by omega)
    have hj : g j < g (j + 1) := hg j.lt_succ_self
    have hmid := (hrne j).mp ((h j).mp j.lt_succ_self)
    have hmida : (g j + g (j + 1)) / 2 ≤ a := hmid.elim le_of_lt fun h => h.1.le
    rw [abs_of_nonpos (show g m - a ≤ 0 by linarith)]
    refine ⟨abs_le.mpr ⟨by linarith, by linarith⟩, fun heq _ => ?_⟩
    rcases hmid with hmid | ⟨-, hodd⟩
    · exact absurd heq (abs_lt.mpr ⟨by linarith, by linarith⟩).ne'
    · omega
  · exact ⟨le_refl _, fun _ hne => absurd rfl hne⟩
  · have hkm : g (k + 1) ≤ g m := hg.monotone hlt
    have hk : g k < g (k + 1) := hg k.lt_succ_self
    have hmid : ¬ _ := fun hab => lt_irrefl k ((h k).mpr ((hrne k).mpr hab))
    rw [not_or, not_lt] at hmid
    obtain ⟨hmida, hodd⟩ := hmid
    rw [abs_of_nonneg (show 0 ≤ g m - a by linarith)]
    refine ⟨abs_le.mpr ⟨by linarith, by linarith⟩, fun heq _ => ?_⟩
    by_contra hk2
    have hne : (g k + g (k + 1)) / 2 ≠ a := fun he => hodd ⟨he, by omega⟩
    have hlt' : a < (g k + g (k + 1)) / 2 := lt_of_le_of_ne hmida hne.symm
    exact absurd heq (abs_lt.mpr ⟨by linarith, by linarith⟩).ne'

end Sequence

/-! ### The multiples of a power of two -/

/-- The multiples of 2^q. -/
def multiples (q : ℤ) (n : ℕ) : ℚ := n * (2 : ℚ) ^ q

theorem multiples_strictMono (q : ℤ) : StrictMono (multiples q) := fun _ _ h =>
  mul_lt_mul_of_pos_right (Nat.cast_lt.mpr h) (by positivity)

/-- The rule that decides whether a magnitude at a fraction ρ of the gap above the multiple `keep` goes up. -/
def GoesUp (rm : Rnd) (neg : Bool) (keep : ℕ) (ρ : ℚ) : Prop :=
  (rm = .rne ∧ (1 / 2 < ρ ∨ (ρ = 1 / 2 ∧ keep % 2 = 1))) ∨ (rm.outwards neg ∧ 0 < ρ)

/-- A magnitude at a fraction of a gap rounds to the gap's lower end, or to its upper one where it goes up. -/
theorem roundsTo_multiples {rm : Rnd} {neg : Bool} {q : ℤ} {keep : ℕ} {ρ : ℚ} (h0 : 0 ≤ ρ) (h1 : ρ < 1) (up : Bool)
    (hup : up = true ↔ GoesUp rm neg keep ρ) : RoundsTo (multiples q) rm neg ((keep + ρ) * 2 ^ q) (keep + bit up) := by
  have hq : (0 : ℚ) < 2 ^ q := by positivity
  have hg := multiples_strictMono q
  have habove : RoundsAbove (multiples q) rm neg ((keep + ρ) * 2 ^ q) keep ↔ up = true := by
    rw [hup]
    have hmid : (multiples q keep + multiples q (keep + 1)) / 2 = (keep + 1 / 2) * 2 ^ q := by
      simp only [multiples, Nat.cast_add, Nat.cast_one]; ring
    obtain ⟨h, hi, ho⟩ | ⟨h, hi, ho⟩ | ⟨h, hi, ho⟩ := Rnd.trichotomy rm neg
    · rw [roundsAbove_of_rne h, hmid]
      simp only [GoesUp, ho, false_and, or_false]
      simp [h, mul_lt_mul_iff_of_pos_right hq, hq.ne', eq_comm]
    · rw [roundsAbove_of_inwards hi, multiples, mul_le_mul_iff_of_pos_right hq]
      simp [GoesUp, h, ho, h1]
    · rw [roundsAbove_of_outwards ho, multiples, mul_lt_mul_iff_of_pos_right hq]
      simp [GoesUp, h, ho]
  rw [roundsTo_iff hg]
  cases up with
  | false =>
    refine ⟨fun h => absurd (habove.mp h) (by simp), fun j hj => roundsAbove_of_le hg ?_⟩
    rw [← hj]
    exact mul_le_mul_of_nonneg_right (by simp [bit, h0]) hq.le
  | true =>
    refine ⟨fun h => ?_, fun j hj => ?_⟩
    · have hlt := lt_of_roundsAbove hg h
      rw [multiples, mul_lt_mul_iff_of_pos_right hq] at hlt
      simp [bit] at hlt
      linarith
    · obtain rfl : keep = j := by simpa [bit] using hj
      exact habove.mpr rfl

end Sys2Proof
end

section
/-! The significand's rounding: `roundSig` rounds the magnitude of an exact result to the multiples of a power of two (01 R19). -/

set_option Elab.async false

namespace Sys2Proof

/-- A magnitude that an exact result stands for: the multiple `m` of 2^e, or, where `sticky`, one strictly between it and the next. -/
def Exact.At (x : Exact) (a : ℚ) : Prop :=
  if x.sticky then x.m * (2 : ℚ) ^ x.e < a ∧ a < (x.m + 1) * (2 : ℚ) ^ x.e else a = x.m * (2 : ℚ) ^ x.e

/-- The magnitude lies a fraction δ of one unit beyond the multiple. -/
theorem Exact.At.fraction {x : Exact} {a : ℚ} (h : x.At a) :
    ∃ δ : ℚ, 0 ≤ δ ∧ δ < 1 ∧ a = (x.m + δ) * 2 ^ x.e ∧ (x.sticky = true ↔ 0 < δ) := by
  have he : (0 : ℚ) < 2 ^ x.e := by positivity
  unfold Exact.At at h
  split at h
  next hs =>
    obtain ⟨hlo, hhi⟩ := h
    have h0 : (x.m : ℚ) < a / 2 ^ x.e := (lt_div_iff₀ he).mpr hlo
    have h1 : a / 2 ^ x.e < x.m + 1 := (div_lt_iff₀ he).mpr hhi
    refine ⟨a / 2 ^ x.e - x.m, by linarith, by linarith, ?_, by simpa [hs] using h0⟩
    rw [add_sub_cancel, div_mul_cancel₀ _ he.ne']
  next hs => exact ⟨0, le_refl _, one_pos, by rw [add_zero, h], by simp [hs]⟩

/-- An exact result is below the power of two above its significand. -/
theorem Exact.At.lt_two_pow {x : Exact} {a : ℚ} (h : x.At a) : a < 2 ^ (x.e + x.m.log2 + 1) := by
  obtain ⟨δ, -, h1, ha, -⟩ := h.fraction
  have hm : (x.m : ℚ) + 1 ≤ 2 ^ (x.m.log2 + 1) := by exact_mod_cast Nat.lt_log2_self (n := x.m)
  calc a = (x.m + δ) * 2 ^ x.e := ha
    _ < 2 ^ (x.m.log2 + 1) * 2 ^ x.e := mul_lt_mul_of_pos_right (by linarith) (by positivity)
    _ = 2 ^ (x.e + x.m.log2 + 1) := by
      rw [← zpow_natCast, ← zpow_add₀ two_ne_zero]; congr 1; push_cast; ring

/-- It is no less than the power of two of its significand's leading bit. -/
theorem Exact.At.two_pow_le {x : Exact} {a : ℚ} (h : x.At a) (hm : x.m ≠ 0) : 2 ^ (x.e + x.m.log2) ≤ a := by
  obtain ⟨δ, h0, -, ha, -⟩ := h.fraction
  have hlog : (2 : ℚ) ^ x.m.log2 ≤ x.m := by exact_mod_cast Nat.log2_self_le hm
  calc (2 : ℚ) ^ (x.e + x.m.log2) = 2 ^ x.m.log2 * 2 ^ x.e := by
        rw [← zpow_natCast, ← zpow_add₀ two_ne_zero, add_comm]
    _ ≤ (x.m + δ) * 2 ^ x.e := mul_le_mul_of_nonneg_right (by linarith) (by positivity)
    _ = a := ha.symm

/-- A rounded significand and whether it is inexact, at a multiple of 2^q. -/
def SigOf (rm : Rnd) (neg : Bool) (q : ℤ) (a : ℚ) (r : Nat × Bool) : Prop :=
  RoundsTo (multiples q) rm neg a r.1 ∧ (r.2 = false ↔ multiples q r.1 = a)

/-- A magnitude at a fraction of a gap, rounded. -/
theorem sigOf_of_fraction {rm : Rnd} {neg : Bool} {q : ℤ} {keep : ℕ} {ρ : ℚ} {up inexact : Bool} (h0 : 0 ≤ ρ) (h1 : ρ < 1)
    (hup : up = true ↔ GoesUp rm neg keep ρ) (hin : inexact = true ↔ 0 < ρ) :
    SigOf rm neg q ((keep + ρ) * 2 ^ q) (keep + bit up, inexact) := by
  refine ⟨roundsTo_multiples h0 h1 up hup, ?_⟩
  have hq : (2 : ℚ) ^ q ≠ 0 := by positivity
  have hexact : multiples q (keep + bit up) = (keep + ρ) * 2 ^ q ↔ (bit up : ℚ) = ρ := by
    rw [multiples, mul_left_inj' hq, Nat.cast_add, add_right_inj]
  rw [hexact]
  cases up with
  | false => rw [← Bool.not_eq_true, hin, not_lt]; exact ⟨fun h => by simpa [bit] using le_antisymm h0 h, fun h => by simp [← h, bit]⟩
  | true =>
    have hpos : 0 < ρ := by
      obtain ⟨-, h | ⟨h, -⟩⟩ | ⟨-, h⟩ := hup.mp rfl
      · linarith
      · linarith
      · exact h
    rw [hin.mpr hpos]
    simp [bit, h1.ne']

/-- A magnitude below a quarter of the gap. -/
theorem sigOf_of_small {rm : Rnd} {neg : Bool} {q : ℤ} {a : ℚ} (h0 : 0 < a) (h1 : a < 2 ^ (q - 2)) (up : Bool)
    (hup : up = true ↔ rm.outwards neg) : SigOf rm neg q a (bit up, true) := by
  have hq : (0 : ℚ) < 2 ^ q := by positivity
  have hρ : 0 < a / 2 ^ q := div_pos h0 hq
  have hsmall : a / 2 ^ q < 1 / 4 := by
    rw [div_lt_iff₀ hq]
    rw [zpow_sub₀ two_ne_zero] at h1
    norm_num at h1
    linarith
  have h := sigOf_of_fraction (q := q) (keep := 0) (ρ := a / 2 ^ q) (rm := rm) (neg := neg) (up := up) (inexact := true) hρ.le
    (by linarith) ?_ (by simp [hρ])
  · rwa [Nat.cast_zero, zero_add, div_mul_cancel₀ _ hq.ne', zero_add] at h
  · rw [hup]
    simp only [GoesUp, hρ, and_true, iff_or_self]
    rintro ⟨-, h | ⟨h, -⟩⟩ <;> linarith

/-- The fraction of a gap of 2^sh units that `low` units and a part δ of one make, against the middle of the gap and its lower end. -/
theorem half_lt_fraction_iff {low sh : ℕ} {δ : ℚ} (hs : 0 < sh) (h0 : 0 ≤ δ) (h1 : δ < 1) :
    (1 / 2 < (low + δ) / (2 : ℚ) ^ sh ↔ 2 ^ (sh - 1) < low ∨ (low = 2 ^ (sh - 1) ∧ 0 < δ)) ∧
    ((low + δ) / (2 : ℚ) ^ sh = 1 / 2 ↔ low = 2 ^ (sh - 1) ∧ δ = 0) := by
  obtain ⟨n, rfl⟩ : ∃ n, sh = n + 1 := ⟨sh - 1, by omega⟩
  have hn : (0 : ℚ) < 2 ^ n := by positivity
  rw [pow_succ, Nat.add_sub_cancel, lt_div_iff₀ (by positivity), div_eq_iff (by positivity)]
  rcases lt_trichotomy low (2 ^ n) with h | rfl | h
  · have hlow : (low : ℚ) + 1 ≤ 2 ^ n := by exact_mod_cast h
    refine ⟨⟨fun hh => absurd hh (by linarith), fun hh => by omega⟩, ⟨fun hh => absurd hh (by intro; linarith), fun hh => by omega⟩⟩
  · push_cast
    refine ⟨⟨fun hh => .inr ⟨rfl, by linarith⟩, ?_⟩, ⟨fun hh => ⟨rfl, by linarith⟩, fun hh => by rw [hh.2]; ring⟩⟩
    rintro (hh | ⟨-, hh⟩)
    · exact absurd hh (lt_irrefl _)
    · linarith
  · have hlow : (2 : ℚ) ^ n + 1 ≤ low := by exact_mod_cast h
    exact ⟨⟨fun _ => .inl h, fun _ => by linarith⟩, ⟨fun hh => absurd hh (by intro; linarith), fun hh => by omega⟩⟩

/-- A fraction that is not 0 has a bit of `low` or a part of a unit. -/
theorem fraction_pos_iff {low sh : ℕ} {δ : ℚ} (h0 : 0 ≤ δ) : 0 < (low + δ) / (2 : ℚ) ^ sh ↔ low ≠ 0 ∨ 0 < δ := by
  rw [div_pos_iff_of_pos_right (by positivity)]
  rcases Nat.eq_zero_or_pos low with rfl | hlow
  · simp
  · exact iff_of_true (add_pos_of_pos_of_nonneg (Nat.cast_pos.mpr hlow) h0) (.inl hlow.ne')

/-- A significand cut at bit sh: the bits kept, and the fraction of the coarser unit that the bits cut off make. -/
theorem cut_at (m sh : ℕ) (δ : ℚ) (e : ℤ) :
    (m + δ) * (2 : ℚ) ^ e = ((m / 2 ^ sh : ℕ) + ((m % 2 ^ sh : ℕ) + δ) / 2 ^ sh) * 2 ^ (e + sh) := by
  have hdm : (m : ℚ) = 2 ^ sh * (m / 2 ^ sh : ℕ) + (m % 2 ^ sh : ℕ) := by exact_mod_cast (Nat.div_add_mod m (2 ^ sh)).symm
  rw [zpow_add₀ two_ne_zero, zpow_natCast]
  conv_lhs => rw [hdm]
  field_simp
  ring

/-- A significand cut at a bit, rounded by the bits cut off. -/
theorem roundSig_cut {rm : Rnd} {x : Exact} {sh : ℕ} {a : ℚ} (ha : x.At a) (hpos : 0 < sh) (hnear : ¬ x.m.log2 + 2 < sh)
    (hm : x.m ≠ 0) : SigOf rm x.neg (x.e + sh) a (roundSig rm x (x.e + sh)) := by
  obtain ⟨δ, h0, h1, rfl, hδ⟩ := ha.fraction
  have hδ0 : δ = 0 ↔ x.sticky = false := by
    rw [← Bool.not_eq_true, hδ, not_lt]; exact ⟨le_of_eq, fun h => le_antisymm h h0⟩
  have hlow : ((x.m % 2 ^ sh : ℕ) : ℚ) + 1 ≤ 2 ^ sh := by exact_mod_cast Nat.mod_lt x.m (Nat.two_pow_pos sh)
  obtain ⟨hhalf, htie⟩ := half_lt_fraction_iff (low := x.m % 2 ^ sh) hpos h0 h1
  rw [cut_at]
  unfold roundSig
  rw [if_neg hm, if_neg (show ¬ x.e + sh ≤ x.e by omega)]
  simp only [show (x.e + sh - x.e).toNat = sh by omega, if_neg hnear]
  refine sigOf_of_fraction (by positivity) ((div_lt_one (by positivity)).mpr (by linarith)) ?_ ?_
  · unfold GoesUp
    rw [hhalf, htie, fraction_pos_iff h0, ← hδ, hδ0]
    cases rm <;> cases x.neg <;> cases x.sticky <;> simp [Rnd.outwards]
  · rw [fraction_pos_iff h0, ← hδ]
    cases x.sticky <;> simp

/-- A significand whose bits all lie far below the unit. -/
theorem roundSig_far {rm : Rnd} {x : Exact} {sh : ℕ} {a : ℚ} (ha : x.At a) (hfar : x.m.log2 + 2 < sh) (hm : x.m ≠ 0) :
    SigOf rm x.neg (x.e + sh) a (roundSig rm x (x.e + sh)) := by
  unfold roundSig
  rw [if_neg hm, if_neg (show ¬ x.e + sh ≤ x.e by omega)]
  simp only [show (x.e + sh - x.e).toNat = sh by omega, if_pos hfar]
  refine sigOf_of_small (lt_of_lt_of_le (by positivity) (ha.two_pow_le hm))
    (lt_of_lt_of_le ha.lt_two_pow (zpow_le_zpow_right₀ one_le_two (by omega))) _ ?_
  cases rm <;> simp [Rnd.outwards]

/-- A significand that is a whole number of the unit. -/
theorem roundSig_whole {rm : Rnd} {x : Exact} {q : ℤ} {a : ℚ} (ha : x.At a) (hq : q ≤ x.e) (hs : x.sticky = false) (hm : x.m ≠ 0) :
    SigOf rm x.neg q a (roundSig rm x q) := by
  have haq : a = multiples q (x.m * 2 ^ (x.e - q).toNat) := by
    have hpow : (2 : ℚ) ^ x.e = 2 ^ (x.e - q).toNat * 2 ^ q := by
      rw [← zpow_natCast, ← zpow_add₀ two_ne_zero]; congr 1; omega
    rw [Exact.At, hs, if_neg Bool.false_ne_true] at ha
    rw [ha, multiples, hpow]; push_cast; ring
  unfold roundSig
  rw [if_neg hm, if_pos hq, haq]
  exact ⟨roundsTo_self (multiples_strictMono q) _, by simp [hs]⟩

/-- `roundSig` rounds the magnitude of an exact result to the multiples of 2^q, and says whether that is exact. -/
theorem roundSig_spec {rm : Rnd} {x : Exact} {q : ℤ} {a : ℚ} (hm : x.m ≠ 0) (ha : x.At a) (hq : x.sticky = true → x.e < q) :
    SigOf rm x.neg q a (roundSig rm x q) := by
  rcases le_or_gt q x.e with hle | hlt
  · exact roundSig_whole ha hle (Bool.eq_false_iff.mpr fun hs => absurd (hq hs) (not_lt.mpr hle)) hm
  · obtain ⟨sh, rfl⟩ : ∃ sh : ℕ, q = x.e + sh := ⟨(q - x.e).toNat, by omega⟩
    by_cases hfar : x.m.log2 + 2 < sh
    · exact roundSig_far ha hfar hm
    · exact roundSig_cut ha (by omega) hfar hm

end Sys2Proof
end

section
/-! The finite numbers of a format in the order of their patterns (01 R21-R23), and a rounded significand as a pattern. -/

set_option Elab.async false

namespace Sys2Proof

/-- The magnitude that a format's pattern n without its sign encodes: patterns go on as if the format had no largest value. A subnormal
pattern and one of the lowest normal binade have the same unit. -/
def Fmt.value (f : Fmt) (n : ℕ) : ℚ :=
  multiples (((n / 2 ^ f.fb - 1 : ℕ) : ℤ) + 1 - f.bias - f.fb) (n - (n / 2 ^ f.fb - 1) * 2 ^ f.fb)

/-- A significand of `fb + 1` bits, or one less than normal in the lowest binade, at its binade's unit. -/
structure Fmt.Sig (f : Fmt) (b r : ℕ) : Prop where
  low : b = 0 ∨ 2 ^ f.fb ≤ r
  high : r ≤ 2 ^ (f.fb + 1)

theorem Fmt.value_of_sig {f : Fmt} {b r : ℕ} (h : f.Sig b r) :
    f.value (b * 2 ^ f.fb + r) = multiples ((b : ℤ) + 1 - f.bias - f.fb) r := by
  obtain ⟨hlow, hhigh⟩ := h
  have hp : 0 < 2 ^ f.fb := Nat.two_pow_pos _
  have hdiv : (b * 2 ^ f.fb + r) / 2 ^ f.fb = b + r / 2 ^ f.fb := by
    rw [Nat.add_comm, Nat.add_mul_div_right _ _ hp, Nat.add_comm]
  rw [Nat.pow_succ'] at hhigh
  unfold Fmt.value
  rw [hdiv]
  rcases lt_or_ge r (2 ^ f.fb) with h | h
  · obtain rfl : b = 0 := hlow.resolve_right (by omega)
    simp [Nat.div_eq_of_lt h]
  · rcases hhigh.eq_or_lt with rfl | h'
    · rw [Nat.mul_div_cancel _ hp, show b + 2 - 1 = b + 1 from rfl,
        show b * 2 ^ f.fb + 2 * 2 ^ f.fb - (b + 1) * 2 ^ f.fb = 2 ^ f.fb by rw [Nat.add_mul]; omega]
      simp only [multiples]
      push_cast
      rw [show (b : ℤ) + 1 + 1 - f.bias - f.fb = 1 + (b + 1 - f.bias - f.fb) by ring, zpow_add₀ two_ne_zero, zpow_one]
      ring
    · rw [show r / 2 ^ f.fb = 1 from Nat.div_eq_of_lt_le (by omega) (by omega), Nat.add_sub_cancel, Nat.add_sub_cancel_left]

theorem Fmt.value_succ_of_sig {f : Fmt} {b r : ℕ} (h : f.Sig b (r + 1)) :
    f.value (b * 2 ^ f.fb + r + 1) = multiples ((b : ℤ) + 1 - f.bias - f.fb) (r + 1) := by
  rw [Nat.add_assoc]; exact f.value_of_sig h

/-- Every pattern is a significand in a binade, with room for one more. -/
theorem Fmt.exists_sig (f : Fmt) (n : ℕ) : ∃ b r, n = b * 2 ^ f.fb + r ∧ f.Sig b r ∧ f.Sig b (r + 1) := by
  have hp : 0 < 2 ^ f.fb := Nat.two_pow_pos _
  have hdm := Nat.div_add_mod n (2 ^ f.fb)
  have hmod := Nat.mod_lt n hp
  have hpow : 2 ^ (f.fb + 1) = 2 * 2 ^ f.fb := Nat.pow_succ'
  rcases Nat.eq_zero_or_pos (n / 2 ^ f.fb) with h | h
  · refine ⟨0, n, by omega, ⟨.inl rfl, ?_⟩, ⟨.inl rfl, ?_⟩⟩ <;> rw [h] at hdm <;> omega
  · obtain ⟨b, hb⟩ := Nat.exists_eq_succ_of_ne_zero h.ne'
    rw [hb, Nat.mul_succ, Nat.mul_comm] at hdm
    exact ⟨b, 2 ^ f.fb + n % 2 ^ f.fb, by omega, ⟨.inr (by omega), by omega⟩, ⟨.inr (by omega), by omega⟩⟩

theorem Fmt.value_strictMono (f : Fmt) : StrictMono f.value := by
  refine strictMono_nat_of_lt_succ fun n => ?_
  obtain ⟨b, r, rfl, h, h'⟩ := f.exists_sig n
  rw [f.value_succ_of_sig h', f.value_of_sig h]
  exact multiples_strictMono _ r.lt_succ_self

@[simp] theorem Fmt.value_zero (f : Fmt) : f.value 0 = 0 := by
  have h := f.value_of_sig (b := 0) (r := 0) ⟨.inl rfl, Nat.zero_le _⟩
  simpa [multiples] using h

theorem Fmt.value_nonneg (f : Fmt) (n : ℕ) : 0 ≤ f.value n := by
  rw [← f.value_zero]; exact f.value_strictMono.monotone n.zero_le

/-- A magnitude of a binade rounded to the binade's unit gives a significand of the binade, or the first one above it. -/
theorem Fmt.sig_of_roundsTo {f : Fmt} {rm : Rnd} {neg : Bool} {a : ℚ} {b k : ℕ} {q : ℤ}
    (hlow : b = 0 ∨ multiples q (2 ^ f.fb) ≤ a) (hhigh : a < multiples q (2 ^ (f.fb + 1))) (h : RoundsTo (multiples q) rm neg a k) :
    f.Sig b k := by
  have hpos : 0 < 2 ^ f.fb := Nat.two_pow_pos _
  refine ⟨hlow.imp_right fun hle => ?_, not_lt.mp fun hlt => ?_⟩
  · have := (h (2 ^ f.fb - 1)).mpr (roundsAbove_of_le (multiples_strictMono q) (by rwa [Nat.sub_add_cancel hpos]))
    omega
  · exact absurd (lt_of_roundsAbove (multiples_strictMono q) ((h _).mp hlt)) (not_lt.mpr hhigh.le)

/-- It is then rounded to the format's values. -/
theorem Fmt.roundsTo_value {f : Fmt} {rm : Rnd} {neg : Bool} {a : ℚ} {b k : ℕ} (hfb : 1 ≤ f.fb)
    (hlow : b = 0 ∨ multiples ((b : ℤ) + 1 - f.bias - f.fb) (2 ^ f.fb) ≤ a)
    (hhigh : a < multiples ((b : ℤ) + 1 - f.bias - f.fb) (2 ^ (f.fb + 1)))
    (h : RoundsTo (multiples ((b : ℤ) + 1 - f.bias - f.fb)) rm neg a k) :
    RoundsTo f.value rm neg a (b * 2 ^ f.fb + k) := by
  set g := multiples ((b : ℤ) + 1 - f.bias - f.fb)
  have hg : StrictMono g := multiples_strictMono _
  have hpos : 0 < 2 ^ f.fb := Nat.two_pow_pos _
  have hpow : 2 ^ (f.fb + 1) = 2 * 2 ^ f.fb := Nat.pow_succ'
  have heven : 2 ^ f.fb % 2 = 0 := Nat.mod_eq_zero_of_dvd (dvd_pow_self 2 (by omega))
  have hparity : ∀ j, (b * 2 ^ f.fb + j) % 2 = j % 2 := fun j => by rw [Nat.add_mod, Nat.mul_mod, heven]; simp
  have hk : f.Sig b k := Fmt.sig_of_roundsTo hlow hhigh h
  obtain ⟨hnot, hpred⟩ := (roundsTo_iff hg k).mp h
  refine (roundsTo_iff f.value_strictMono _).mpr ⟨fun habove => ?_, fun j hj => ?_⟩
  · rcases hk.high.eq_or_lt with rfl | hlt
    · have := lt_of_roundsAbove f.value_strictMono habove
      rw [f.value_of_sig hk] at this
      exact absurd this (not_lt.mpr hhigh.le)
    · exact hnot ((roundsAbove_congr (f.value_of_sig hk)
        (f.value_succ_of_sig ⟨hk.low.imp_right Nat.le_succ_of_le, hlt⟩) (hparity k)).mp habove)
  · by_cases hbase : b = 0 ∨ 2 ^ f.fb < k
    · obtain ⟨i, rfl⟩ : ∃ i, k = i + 1 := ⟨k - 1, by rcases hbase with rfl | hbase <;> omega⟩
      obtain rfl : b * 2 ^ f.fb + i = j := by omega
      have hi : f.Sig b i := ⟨hbase.imp_right fun hlt => by omega, by have := hk.high; omega⟩
      exact (roundsAbove_congr (f.value_of_sig hi) (f.value_succ_of_sig hk) (hparity i)).mpr (hpred i rfl)
    · rw [not_or, not_lt] at hbase
      obtain rfl : k = 2 ^ f.fb := le_antisymm hbase.2 (hk.low.resolve_left hbase.1)
      refine roundsAbove_of_le f.value_strictMono ?_
      rw [← hj, f.value_of_sig hk]
      exact hlow.resolve_left hbase.1

/-! ### Patterns -/

/-- A sign as a factor. -/
def signOf (neg : Bool) : ℚ := if neg then -1 else 1

/-- A pattern's bits without its sign. -/
def Ty.magnitude (t : Ty) (y : ℕ) : ℕ := y % 2 ^ t.bits % 2 ^ (t.bits - 1)

/-- A pattern's sign bit. -/
def Ty.negative (t : Ty) (y : ℕ) : Bool := decide (2 ^ (t.bits - 1) ≤ y % 2 ^ t.bits)

theorem Fmt.value_subnormal {f : Fmt} {n : ℕ} (h : n / 2 ^ f.fb = 0) :
    f.value n = (n % 2 ^ f.fb : ℕ) * (2 : ℚ) ^ (1 - (f.bias : ℤ) - f.fb) := by
  have hlt : n < 2 ^ f.fb := (Nat.div_eq_zero_iff_lt (Nat.two_pow_pos _)).mp h
  simp [Fmt.value, h, multiples, Nat.mod_eq_of_lt hlt]

theorem Fmt.value_normal {f : Fmt} {n : ℕ} (h : n / 2 ^ f.fb ≠ 0) :
    f.value n = (n % 2 ^ f.fb + 2 ^ f.fb : ℕ) * (2 : ℚ) ^ (((n / 2 ^ f.fb : ℕ) : ℤ) - f.bias - f.fb) := by
  obtain ⟨b, hb⟩ := Nat.exists_eq_succ_of_ne_zero h
  have hsig : n - b * 2 ^ f.fb = n % 2 ^ f.fb + 2 ^ f.fb := by
    have hdm := Nat.div_add_mod n (2 ^ f.fb)
    rw [hb, Nat.mul_succ, Nat.mul_comm] at hdm
    omega
  rw [Fmt.value, hb, Nat.succ_sub_one, hsig]
  simp [multiples]

/-- What every floating format has in common: a fraction, and a largest value below its sign bit whose neighbours lie in its binade. -/
structure Ty.Floats (t : Ty) : Prop where
  fraction : 1 ≤ t.fmt.fb
  width : 2 ≤ t.bits
  max : t.fmt.maxBits < 2 ^ (t.bits - 1)
  binade : ∃ b r, t.fmt.maxBits = b * 2 ^ t.fmt.fb + r + 1 ∧ t.fmt.Sig b r ∧ t.fmt.Sig b (r + 1) ∧ t.fmt.Sig b (r + 2)

theorem Ty.floats {t : Ty} (h : t.isFloat = true) : t.Floats := by
  have key : ∀ b r, t.fmt.maxBits = b * 2 ^ t.fmt.fb + r + 1 → 2 ^ t.fmt.fb ≤ r → r + 2 ≤ 2 ^ (t.fmt.fb + 1) → ∃ b r,
      t.fmt.maxBits = b * 2 ^ t.fmt.fb + r + 1 ∧ t.fmt.Sig b r ∧ t.fmt.Sig b (r + 1) ∧ t.fmt.Sig b (r + 2) :=
    fun b r h0 h1 h2 => ⟨b, r, h0, ⟨.inr h1, by omega⟩, ⟨.inr (by omega), by omega⟩, ⟨.inr (by omega), h2⟩⟩
  cases t with
  | f64 => exact ⟨by decide, by decide, by decide, key 2045 (2 ^ 53 - 2) (by decide) (by decide) (by decide)⟩
  | f32 => exact ⟨by decide, by decide, by decide, key 253 (2 ^ 24 - 2) (by decide) (by decide) (by decide)⟩
  | f16 => exact ⟨by decide, by decide, by decide, key 29 (2 ^ 11 - 2) (by decide) (by decide) (by decide)⟩
  | bf16 => exact ⟨by decide, by decide, by decide, key 253 (2 ^ 8 - 2) (by decide) (by decide) (by decide)⟩
  | e5m2 => exact ⟨by decide, by decide, by decide, key 29 6 (by decide) (by decide) (by decide)⟩
  | e4m3 => exact ⟨by decide, by decide, by decide, key 14 13 (by decide) (by decide) (by decide)⟩
  | e2m1 => exact ⟨by decide, by decide, by decide, key 2 2 (by decide) (by decide) (by decide)⟩
  | _ => cases h

theorem Ty.magnitude_lt (t : Ty) (y : ℕ) : t.magnitude y < 2 ^ (t.bits - 1) := Nat.mod_lt _ (Nat.two_pow_pos _)

/-- A format without infinities is e4m3 or e2m1. -/
theorem Ty.hasInf_eq_false_iff {t : Ty} : t.fmt.hasInf = false ↔ t = .e4m3 ∨ t = .e2m1 := by cases t <;> decide

/-- What a pattern decodes to, by its sign and its magnitude. -/
theorem Ty.decodeF_eq (t : Ty) (y : ℕ) : t.decodeF y =
    if t.fmt.hasInf && decide (t.fmt.maxBits < t.magnitude y) then
      if t.magnitude y % 2 ^ t.fmt.fb = 0 then .inf (t.negative y)
      else .nan (decide (t.magnitude y % 2 ^ t.fmt.fb < 2 ^ (t.fmt.fb - 1)))
    else if t = .e4m3 ∧ t.magnitude y = 0x7F then .nan false
    else if t = .e2m1 ∧ y % 2 ^ t.bits = 8 then .fin false 0 0
    else if t.magnitude y / 2 ^ t.fmt.fb = 0 then
      .fin (t.negative y) (t.magnitude y % 2 ^ t.fmt.fb) (1 - (t.fmt.bias : ℤ) - t.fmt.fb)
    else .fin (t.negative y) (t.magnitude y % 2 ^ t.fmt.fb + 2 ^ t.fmt.fb)
      (((t.magnitude y / 2 ^ t.fmt.fb : ℕ) : ℤ) - t.fmt.bias - t.fmt.fb) := rfl

/-- A pattern up to the largest value decodes to a number: its sign times its magnitude's value. -/
theorem Ty.decodeF_of_le {t : Ty} {y : ℕ} (h : t.magnitude y ≤ t.fmt.maxBits) :
    ∃ n m e, t.decodeF y = .fin n m e ∧ Exact.val ⟨n, m, e, false⟩ = signOf (t.negative y) * t.fmt.value (t.magnitude y) := by
  have hval : ∀ n m e, Exact.val ⟨n, m, e, false⟩ = signOf n * (m * (2 : ℚ) ^ e) := fun n m e => mul_assoc _ _ _
  rw [Ty.decodeF_eq, if_neg (by simp [not_lt.mpr h]),
    if_neg (by rintro ⟨rfl, hmag⟩; rw [hmag] at h; exact absurd h (by decide))]
  split
  next hzero =>
    obtain ⟨rfl, hv⟩ := hzero
    have hmag : Ty.magnitude .e2m1 y = 0 := by rw [Ty.magnitude, hv]; rfl
    exact ⟨_, _, _, rfl, by simp [hmag, Exact.val]⟩
  next =>
    split
    next hex => exact ⟨_, _, _, rfl, by rw [hval, Fmt.value_subnormal hex]⟩
    next hex => exact ⟨_, _, _, rfl, by rw [hval, Fmt.value_normal hex]⟩

/-- A pattern beyond the largest value decodes to no number. -/
theorem Ty.num_of_lt {t : Ty} {y : ℕ} (h : t.fmt.maxBits < t.magnitude y) : t.num y = none := by
  have hlt := t.magnitude_lt y
  by_cases hinf : t.fmt.hasInf = true
  · by_cases hfrac : t.magnitude y % 2 ^ t.fmt.fb = 0
    · rw [Ty.num, Ty.decodeF_eq, if_pos (by simp [hinf, h]), if_pos hfrac]
    · rw [Ty.num, Ty.decodeF_eq, if_pos (by simp [hinf, h]), if_neg hfrac]
  · rcases Ty.hasInf_eq_false_iff.mp (Bool.not_eq_true _ ▸ hinf) with rfl | rfl
    · rw [Ty.num, Ty.decodeF_eq, if_neg (by simp [hinf]), if_pos ⟨rfl, by simp only [Ty.bits, Ty.fmt] at hlt h; omega⟩]
    · simp only [Ty.bits, Ty.fmt] at hlt h; omega

/-- The number of a pattern: its sign times its magnitude's value, up to the largest one. -/
theorem Ty.num_eq (t : Ty) (y : ℕ) : t.num y =
    if t.magnitude y ≤ t.fmt.maxBits then some (signOf (t.negative y) * t.fmt.value (t.magnitude y)) else none := by
  split
  next h =>
    obtain ⟨n, m, e, hfin, hval⟩ := t.decodeF_of_le h
    rw [Ty.num, hfin, ← hval]
  next h => exact Ty.num_of_lt (not_le.mp h)

end Sys2Proof
end

section
/-! `roundF` against the values of its format: the pattern it gives, overflow, tininess and the flush (01 R19, R25-R27). -/

set_option Elab.async false

namespace Sys2Proof

/-! ### The pattern of a sign and a magnitude -/

/-- A rounded result's pattern (01 R34: the one zero of e2m1 has no sign). -/
def Ty.pattern (t : Ty) (neg : Bool) (n : ℕ) : ℕ := if n = 0 then t.zeroBits neg else t.signBits neg + n

namespace Ty.Floats
variable {t : Ty} (ht : t.Floats)
include ht

theorem two_pow_bits : 2 ^ t.bits = 2 * 2 ^ (t.bits - 1) := by
  rw [← Nat.pow_succ', Nat.succ_eq_add_one, Nat.sub_add_cancel (by have := ht.width; omega)]

theorem signBits_add_mod {neg : Bool} {n : ℕ} (hn : n < 2 ^ (t.bits - 1)) :
    (t.signBits neg + n) % 2 ^ t.bits = t.signBits neg + n := by
  refine Nat.mod_eq_of_lt ?_
  rw [ht.two_pow_bits]
  unfold Ty.signBits
  split <;> omega

theorem magnitude_signBits_add {neg : Bool} {n : ℕ} (hn : n < 2 ^ (t.bits - 1)) : t.magnitude (t.signBits neg + n) = n := by
  rw [Ty.magnitude, ht.signBits_add_mod hn]
  cases neg <;> simp [Ty.signBits, Nat.mod_eq_of_lt hn]

theorem negative_signBits_add {neg : Bool} {n : ℕ} (hn : n < 2 ^ (t.bits - 1)) : t.negative (t.signBits neg + n) = neg := by
  rw [Ty.negative, ht.signBits_add_mod hn]
  cases neg <;> simp [Ty.signBits, hn]

theorem num_signBits_add {neg : Bool} {n : ℕ} (hn : n ≤ t.fmt.maxBits) :
    t.num (t.signBits neg + n) = some (signOf neg * t.fmt.value n) := by
  have hlt := hn.trans_lt ht.max
  rw [Ty.num_eq, ht.magnitude_signBits_add hlt, ht.negative_signBits_add hlt, if_pos hn]

theorem num_pattern {neg : Bool} {n : ℕ} (hn : n ≤ t.fmt.maxBits) : t.num (t.pattern neg n) = some (signOf neg * t.fmt.value n) := by
  unfold Ty.pattern Ty.zeroBits
  split
  next h0 =>
    subst h0
    split
    · simpa [Ty.signBits, signOf] using ht.num_signBits_add (neg := false) hn
    · exact ht.num_signBits_add hn
  next => exact ht.num_signBits_add hn

theorem even_signBits (neg : Bool) : t.signBits neg % 2 = 0 := by
  have h : 2 ^ (t.bits - 1) % 2 = 0 := Nat.mod_eq_zero_of_dvd (dvd_pow_self 2 (by have := ht.width; omega))
  cases neg <;> simp [Ty.signBits, h]

theorem pattern_parity (neg : Bool) (n : ℕ) : t.pattern neg n % 2 = n % 2 := by
  have h := ht.even_signBits neg
  unfold Ty.pattern Ty.zeroBits
  split <;> [split; skip] <;> omega

theorem le_pattern_iff {neg : Bool} {n : ℕ} (hn : n ≤ t.fmt.maxBits) (he : t ≠ .e2m1) : 2 ^ (t.bits - 1) ≤ t.pattern neg n ↔ neg = true := by
  have hlt := hn.trans_lt ht.max
  have hpat : t.pattern neg n = t.signBits neg + n := by
    unfold Ty.pattern Ty.zeroBits
    split
    next h0 => rw [h0, Nat.add_zero]
    next => rfl
  rw [hpat]
  cases neg <;> simp [Ty.signBits, hlt]

/-! ### Overflow -/

theorem maxNum_eq : t.maxNum = t.fmt.value t.fmt.maxBits := by
  have h := ht.num_signBits_add (neg := false) (le_refl t.fmt.maxBits)
  simp only [Ty.signBits, signOf, Bool.false_eq_true, if_false, Nat.zero_add, one_mul] at h
  rw [Ty.maxNum, h]; rfl

theorem maxNum_add_maxGap : t.maxNum + t.maxGap = t.fmt.value (t.fmt.maxBits + 1) := by
  obtain ⟨b, r, hmax, h0, h1, h2⟩ := ht.binade
  have hprev := ht.num_signBits_add (neg := false) (show b * 2 ^ t.fmt.fb + r ≤ t.fmt.maxBits by omega)
  simp only [Ty.signBits, signOf, Bool.false_eq_true, if_false, Nat.zero_add, one_mul] at hprev
  rw [Ty.maxGap, ht.maxNum_eq, show t.fmt.maxBits - 1 = b * 2 ^ t.fmt.fb + r by omega, hprev, hmax]
  rw [show b * 2 ^ t.fmt.fb + r + 1 + 1 = b * 2 ^ t.fmt.fb + (r + 1) + 1 by ring, Fmt.value_succ_of_sig h1, Fmt.value_succ_of_sig h2,
    Option.getD_some, Fmt.value_of_sig h0]
  simp only [multiples]
  push_cast
  ring

/-- A number overflows where it rounds to more than the largest value of the format's patterns. -/
theorem overflows_iff {rm : Rnd} {neg : Bool} {v : ℚ} : t.Overflows rm neg v ↔ RoundsAbove t.fmt.value rm neg |v| t.fmt.maxBits := by
  have hmid : t.maxNum + t.maxGap / 2 = (t.fmt.value t.fmt.maxBits + t.fmt.value (t.fmt.maxBits + 1)) / 2 := by
    rw [← ht.maxNum_add_maxGap, ← ht.maxNum_eq]; ring
  rw [Ty.Overflows, RoundsAbove, hmid, ht.maxNum_add_maxGap, ht.maxNum_eq]

end Ty.Floats

/-! ### Tininess -/

/-- The unit of the binade below the smallest normal number, in a range without a lower limit. -/
def Ty.tinyUnit (t : Ty) : ℤ := 1 - t.fmt.bias - t.fmt.fb - 1

theorem Ty.minGap_eq (t : Ty) : t.minGap = (2 : ℚ) ^ t.tinyUnit := by
  rw [Ty.minGap, Ty.minNum, ← zpow_natCast, ← zpow_sub₀ two_ne_zero, Ty.tinyUnit]
  congr 1; push_cast; ring

theorem Ty.minNum_eq (t : Ty) : t.minNum = multiples t.tinyUnit (2 ^ (t.fmt.fb + 1)) := by
  have h : t.minNum = 2 ^ (t.fmt.fb + 1) * t.minGap := by rw [Ty.minGap]; field_simp
  rw [h, t.minGap_eq, multiples]; push_cast; rfl

/-- A number is tiny where it does not round beyond the last multiple below the smallest normal number. -/
theorem Ty.tiny_iff {t : Ty} {rm : Rnd} {neg : Bool} {v : ℚ} :
    t.Tiny rm neg v ↔ ¬ RoundsAbove (multiples t.tinyUnit) rm neg |v| (2 ^ (t.fmt.fb + 1) - 1) := by
  have hpos : 0 < 2 ^ (t.fmt.fb + 1) := Nat.two_pow_pos _
  have hsucc : 2 ^ (t.fmt.fb + 1) - 1 + 1 = 2 ^ (t.fmt.fb + 1) := Nat.sub_add_cancel hpos
  have hodd : (2 ^ (t.fmt.fb + 1) - 1) % 2 = 1 := by rw [Nat.pow_succ] at hpos ⊢; omega
  have hlast : multiples t.tinyUnit (2 ^ (t.fmt.fb + 1) - 1) = t.minNum - t.minGap := by
    rw [t.minNum_eq, t.minGap_eq, multiples, multiples, Nat.cast_sub (by omega)]; push_cast; ring
  have hmid : (multiples t.tinyUnit (2 ^ (t.fmt.fb + 1) - 1) + t.minNum) / 2 = t.minNum - t.minGap / 2 := by rw [hlast]; ring
  unfold Ty.Tiny
  obtain ⟨h, hi, ho⟩ | ⟨h, hi, ho⟩ | ⟨h, hi, ho⟩ := Rnd.trichotomy rm neg
  · rw [roundsAbove_of_rne h, hsucc, ← t.minNum_eq, hmid, hodd]
    simp only [hi, ho, false_and, or_false]
    simp only [h, true_and, and_true, not_or, not_lt, ← lt_iff_le_and_ne, ne_comm]
  · rw [roundsAbove_of_inwards hi, hsucc, ← t.minNum_eq]
    simp [h, hi, ho]
  · rw [roundsAbove_of_outwards ho, hlast]
    simp [h, hi, ho]

/-! ### One rounding -/

/-- An exact result stands for a magnitude, with the guard bits that rounding it to a format needs. -/
structure Exact.Ready (x : Exact) (t : Ty) (a : ℚ) : Prop where
  nonzero : x.m ≠ 0
  at_ : x.At a
  guard : x.sticky = true → t.fmt.fb + 2 ≤ x.m.log2

theorem Exact.Is.ready {x : Exact} {t : Ty} {v : ℚ} (h : x.Is t v) : x.Ready t |v| := by
  obtain ⟨hm, -, hv⟩ := h
  split at hv
  next hs => exact ⟨hm, by rw [Exact.At, if_pos hs]; exact ⟨hv.1, hv.2.1⟩, fun _ => hv.2.2⟩
  next hs =>
    refine ⟨hm, ?_, fun hs' => absurd hs' hs⟩
    have hpow : (0 : ℚ) < 2 ^ x.e := by positivity
    rw [Exact.At, if_neg hs, ← hv, Exact.val, abs_mul, abs_mul, abs_of_pos hpow]
    cases x.neg <;> simp

/-- The sign of a number times its magnitude. -/
theorem Exact.Is.signOf_mul_abs {x : Exact} {t : Ty} {v : ℚ} (h : x.Is t v) : signOf x.neg * |v| = v := by
  obtain ⟨-, hneg, -⟩ := h
  rcases lt_or_ge v 0 with hv | hv
  · rw [hneg.mpr hv, abs_of_neg hv]; simp [signOf]
  · rw [Bool.eq_false_iff.mpr fun hn => absurd (hneg.mp hn) (not_lt.mpr hv), abs_of_nonneg hv]; simp [signOf]

/-- The unit of the highest bit that a format's significand keeps of an exact result, in a range without a lower limit. -/
def Ty.freeUnit (t : Ty) (x : Exact) : ℤ := x.e + x.m.log2 - t.fmt.fb

/-- The binade that an exact result is rounded in, and its unit. -/
def Ty.binade (t : Ty) (x : Exact) : ℕ := (max (t.freeUnit x) (1 - (t.fmt.bias : ℤ) - t.fmt.fb) + t.fmt.fb + t.fmt.bias - 1).toNat
def Ty.unit (t : Ty) (x : Exact) : ℤ := (t.binade x : ℤ) + 1 - t.fmt.bias - t.fmt.fb

theorem Ty.unit_eq (t : Ty) (x : Exact) : t.unit x = max (t.freeUnit x) (1 - (t.fmt.bias : ℤ) - t.fmt.fb) := by
  unfold Ty.unit Ty.binade
  rw [Int.toNat_of_nonneg] <;> omega

theorem Ty.freeUnit_le_unit (t : Ty) (x : Exact) : t.freeUnit x ≤ t.unit x := by rw [t.unit_eq]; exact le_max_left _ _

theorem Ty.unit_of_binade_ne_zero {t : Ty} {x : Exact} (h : t.binade x ≠ 0) : t.unit x = t.freeUnit x := by
  have hu := t.unit_eq x
  unfold Ty.unit at hu ⊢
  omega

/-- The magnitude that an exact result rounds to, and whether it is inexact. -/
def Ty.roundMag (t : Ty) (rm : Rnd) (x : Exact) : ℕ := t.binade x * 2 ^ t.fmt.fb + (roundSig rm x (t.unit x)).1
def Ty.inexact (t : Ty) (rm : Rnd) (x : Exact) : Bool := (roundSig rm x (t.unit x)).2

/-- The tininess test of `roundF`. -/
def Ty.isTiny (t : Ty) (rm : Rnd) (x : Exact) : Bool :=
  decide (t.freeUnit x < t.tinyUnit ∨ t.freeUnit x = t.tinyUnit ∧ (roundSig rm x (t.freeUnit x)).1 < 2 ^ (t.fmt.fb + 1))

/-- What `roundF` gives without the flush. -/
theorem Ty.roundF_eq {t : Ty} {rm : Rnd} {x : Exact} (hm : x.m ≠ 0) : t.roundF rm false x =
    if t.fmt.maxBits < t.roundMag rm x then ⟨t.overflow rm x.neg, Flags.ov ||| Flags.ix⟩
    else ⟨t.pattern x.neg (t.roundMag rm x), (if t.inexact rm x then Flags.ix else 0) |||
      (if t.inexact rm x && t.isTiny rm x then Flags.uf else 0)⟩ := by
  unfold Ty.roundMag Ty.inexact
  rw [t.unit_eq]
  unfold Ty.roundF
  rw [if_neg hm]
  rfl

theorem Ty.roundF_ftz_eq {t : Ty} {rm : Rnd} {x : Exact} (hm : x.m ≠ 0) : t.roundF rm true x =
    if t.flushes && t.isTiny rm x then ⟨t.signBits x.neg, Flags.uf ||| Flags.ix⟩ else t.roundF rm false x := by
  unfold Ty.roundF
  rw [if_neg hm, if_neg hm]
  rfl

section Ready
variable {t : Ty} {x : Exact} {a : ℚ} (h : x.Ready t a) (rm : Rnd)
include h

theorem Exact.Ready.pos : 0 < a := lt_of_lt_of_le (by positivity) (h.at_.two_pow_le h.nonzero)

theorem Exact.Ready.free_le : multiples (t.freeUnit x) (2 ^ t.fmt.fb) ≤ a := by
  refine le_of_eq_of_le ?_ (h.at_.two_pow_le h.nonzero)
  rw [multiples, Nat.cast_pow, Nat.cast_ofNat, ← zpow_natCast, ← zpow_add₀ two_ne_zero, Ty.freeUnit]
  congr 1; ring

theorem Exact.Ready.lt_free : a < multiples (t.freeUnit x) (2 ^ (t.fmt.fb + 1)) := by
  refine lt_of_lt_of_eq h.at_.lt_two_pow ?_
  rw [multiples, Nat.cast_pow, Nat.cast_ofNat, ← zpow_natCast, ← zpow_add₀ two_ne_zero, Ty.freeUnit]
  congr 1; push_cast; ring

/-- Rounded at the free unit or above it. -/
theorem Exact.Ready.sigOf {q : ℤ} (hq : t.freeUnit x ≤ q) : SigOf rm x.neg q a (roundSig rm x q) :=
  roundSig_spec h.nonzero h.at_ fun hs => by have := h.guard hs; unfold Ty.freeUnit at hq; omega

theorem Exact.Ready.unit_le : t.binade x = 0 ∨ multiples (t.unit x) (2 ^ t.fmt.fb) ≤ a := by
  by_cases hb : t.binade x = 0
  · exact .inl hb
  · exact .inr (Ty.unit_of_binade_ne_zero hb ▸ h.free_le)

theorem Exact.Ready.lt_unit : a < multiples (t.unit x) (2 ^ (t.fmt.fb + 1)) :=
  h.lt_free.trans_le (mul_le_mul_of_nonneg_left (zpow_le_zpow_right₀ one_le_two (t.freeUnit_le_unit x)) (Nat.cast_nonneg _))

/-- The magnitude is rounded to the format's values. -/
theorem Exact.Ready.roundsTo (ht : t.Floats) : RoundsTo t.fmt.value rm x.neg a (t.roundMag rm x) :=
  Fmt.roundsTo_value ht.fraction h.unit_le h.lt_unit (h.sigOf rm (t.freeUnit_le_unit x)).1

theorem Exact.Ready.inexact_eq_false_iff : t.inexact rm x = false ↔ t.fmt.value (t.roundMag rm x) = a := by
  obtain ⟨hr, hex⟩ := h.sigOf rm (t.freeUnit_le_unit x)
  rw [Ty.roundMag, Fmt.value_of_sig (Fmt.sig_of_roundsTo h.unit_le h.lt_unit hr)]
  exact hex

/-- The tininess test says whether the number rounds, in a range without a lower limit, to less than the smallest normal one. -/
theorem Exact.Ready.isTiny_iff :
    t.isTiny rm x = true ↔ ¬ RoundsAbove (multiples t.tinyUnit) rm x.neg a (2 ^ (t.fmt.fb + 1) - 1) := by
  have hg := multiples_strictMono t.tinyUnit
  have hpos : 0 < 2 ^ (t.fmt.fb + 1) := Nat.two_pow_pos _
  rw [Ty.isTiny, decide_eq_true_eq]
  rcases lt_trichotomy (t.freeUnit x) t.tinyUnit with hlt | heq | hgt
  · refine iff_of_true (.inl hlt) fun habove => ?_
    have hle : multiples (t.freeUnit x) (2 ^ (t.fmt.fb + 1)) ≤ multiples t.tinyUnit (2 ^ t.fmt.fb) := by
      rw [multiples, multiples, pow_succ, Nat.cast_mul, mul_assoc]
      refine mul_le_mul_of_nonneg_left ?_ (Nat.cast_nonneg _)
      rw [Nat.cast_ofNat, ← zpow_one_add₀ two_ne_zero]
      exact zpow_le_zpow_right₀ one_le_two (by omega)
    have hlast : multiples t.tinyUnit (2 ^ t.fmt.fb) ≤ multiples t.tinyUnit (2 ^ (t.fmt.fb + 1) - 1) := by
      refine hg.monotone ?_
      have := Nat.two_pow_pos t.fmt.fb
      rw [pow_succ]; omega
    exact absurd (lt_of_roundsAbove hg habove) (not_lt.mpr ((h.lt_free.le.trans hle).trans hlast))
  · obtain ⟨hr, -⟩ := h.sigOf rm (le_refl (t.freeUnit x))
    rw [← heq, ← hr]
    simp only [lt_irrefl, true_and, false_or, not_lt]
    omega
  · refine iff_of_false (by omega) (not_not.mpr (roundsAbove_of_le hg ?_))
    rw [Nat.sub_add_cancel hpos]
    refine le_trans ?_ h.free_le
    rw [multiples, multiples, pow_succ, Nat.cast_mul, mul_assoc]
    refine mul_le_mul_of_nonneg_left ?_ (Nat.cast_nonneg _)
    rw [Nat.cast_ofNat, ← zpow_one_add₀ two_ne_zero]
    exact zpow_le_zpow_right₀ one_le_two (by omega)

end Ready

end Sys2Proof
end

section
/-! The statement's clauses on one rounding: `Ty.Rounds`, the flags, the flush. -/

set_option Elab.async false

namespace Sys2Proof

@[simp] theorem signOf_false : signOf false = 1 := rfl
@[simp] theorem signOf_true : signOf true = -1 := rfl

theorem abs_signOf_mul (neg : Bool) {x : ℚ} (h : 0 ≤ x) : |signOf neg * x| = x := by
  cases neg <;> simp [abs_of_nonneg h]

/-- Two signed magnitudes of one sign are as far apart as their magnitudes. -/
theorem abs_signOf_mul_sub (neg : Bool) (x y : ℚ) : |signOf neg * x - signOf neg * y| = |x - y| := by
  cases neg
  · simp
  · rw [signOf_true, ← mul_sub, abs_mul]; simp

/-- Those of opposite signs are as far apart as the sum of their magnitudes. -/
theorem abs_signOf_mul_sub_of_ne {s neg : Bool} (hs : s ≠ neg) {x y : ℚ} (hx : 0 ≤ x) (hy : 0 ≤ y) :
    |signOf s * x - signOf neg * y| = x + y := by
  cases s <;> cases neg
  · exact absurd rfl hs
  · rw [signOf_false, signOf_true, abs_of_nonneg] <;> linarith
  · rw [signOf_true, signOf_false, abs_of_nonpos] <;> linarith
  · exact absurd rfl hs

theorem Ty.exists_of_num {t : Ty} {z : ℕ} {q : ℚ} (h : t.num z = some q) : ∃ s n, q = signOf s * t.fmt.value n := by
  rw [Ty.num_eq] at h
  split at h
  · exact ⟨_, _, (Option.some.inj h).symm⟩
  · cases h

section Rounded
variable {t : Ty} {rm : Rnd} {neg : Bool} {a : ℚ} {k y : ℕ} (ha : 0 < a) (h : RoundsTo t.fmt.value rm neg a k)
include ha h

/-- No number of the format is closer than the nearest magnitude, with the sign of the exact result. -/
theorem Ty.rounds_rne (hrm : rm = .rne) (hy : y % 2 = k % 2) : t.Rounds .rne (signOf neg * a) y (signOf neg * t.fmt.value k) := by
  subst hrm
  intro z q hz
  obtain ⟨s, m, rfl⟩ := Ty.exists_of_num hz
  rw [abs_signOf_mul_sub, hy]
  obtain ⟨hle, htie⟩ := h.nearest t.fmt.value_strictMono m
  by_cases hs : s = neg
  · subst hs
    rw [abs_signOf_mul_sub]
    exact ⟨hle, fun heq hne => htie heq fun hmk => hne (by rw [hmk])⟩
  · obtain ⟨hle0, htie0⟩ := h.nearest t.fmt.value_strictMono 0
    rw [Fmt.value_zero, zero_sub, abs_neg, abs_of_pos ha] at hle0 htie0
    have hm := t.fmt.value_nonneg m
    rw [abs_signOf_mul_sub_of_ne hs hm ha.le]
    refine ⟨by linarith, fun heq hne => htie0 (by linarith) fun h0 => hne ?_⟩
    have hm0 : t.fmt.value m = 0 := by linarith
    rw [hm0, ← h0, Fmt.value_zero, mul_zero, mul_zero]

theorem Ty.rounds_rtz (hrm : rm = .rtz) : t.Rounds .rtz (signOf neg * a) y (signOf neg * t.fmt.value k) := by
  obtain ⟨hle, hmax⟩ := h.greatest t.fmt.value_strictMono (by rw [Fmt.value_zero]; exact ha.le) (.inl hrm)
  have hk := t.fmt.value_nonneg k
  refine ⟨by rwa [abs_signOf_mul _ hk, abs_signOf_mul _ ha.le], ?_, fun z q hz hq => ?_⟩
  · cases neg <;> simpa using mul_nonneg hk ha.le
  · obtain ⟨s, m, rfl⟩ := Ty.exists_of_num hz
    rw [abs_signOf_mul _ (t.fmt.value_nonneg m)] at hq ⊢
    rw [abs_signOf_mul _ ha.le] at hq
    rw [abs_signOf_mul _ hk]
    exact hmax m hq

/-- Upwards: a positive result goes away from zero, a negative one towards it. -/
theorem Ty.rounds_rup (hrm : rm = .rup) : t.Rounds .rup (signOf neg * a) y (signOf neg * t.fmt.value k) := by
  cases neg with
  | false =>
    obtain ⟨hle, hmin⟩ := h.least t.fmt.value_strictMono (.inl ⟨hrm, rfl⟩)
    refine ⟨by simpa using hle, fun z q hz hq => ?_⟩
    obtain ⟨s, m, rfl⟩ := Ty.exists_of_num hz
    have hm := t.fmt.value_nonneg m
    cases s <;> simp at hq ⊢
    · exact hmin m hq
    · linarith
  | true =>
    obtain ⟨hle, hmax⟩ := h.greatest t.fmt.value_strictMono (by rw [Fmt.value_zero]; exact ha.le) (.inr (.inl ⟨hrm, rfl⟩))
    refine ⟨by simpa using hle, fun z q hz hq => ?_⟩
    obtain ⟨s, m, rfl⟩ := Ty.exists_of_num hz
    have hm := t.fmt.value_nonneg m
    have hk := t.fmt.value_nonneg k
    cases s <;> simp at hq ⊢
    · linarith
    · exact hmax m hq

/-- Downwards: the other way round. -/
theorem Ty.rounds_rdn (hrm : rm = .rdn) : t.Rounds .rdn (signOf neg * a) y (signOf neg * t.fmt.value k) := by
  cases neg with
  | false =>
    obtain ⟨hle, hmax⟩ := h.greatest t.fmt.value_strictMono (by rw [Fmt.value_zero]; exact ha.le) (.inr (.inr ⟨hrm, rfl⟩))
    refine ⟨by simpa using hle, fun z q hz hq => ?_⟩
    obtain ⟨s, m, rfl⟩ := Ty.exists_of_num hz
    have hm := t.fmt.value_nonneg m
    have hk := t.fmt.value_nonneg k
    cases s <;> simp at hq ⊢
    · exact hmax m hq
    · linarith
  | true =>
    obtain ⟨hle, hmin⟩ := h.least t.fmt.value_strictMono (.inr ⟨hrm, rfl⟩)
    refine ⟨by simpa using hle, fun z q hz hq => ?_⟩
    obtain ⟨s, m, rfl⟩ := Ty.exists_of_num hz
    have hm := t.fmt.value_nonneg m
    cases s <;> simp at hq ⊢
    · linarith
    · exact hmin m hq

/-- A magnitude rounded to the format's values, with its sign, is rounded as its mode says. -/
theorem Ty.rounds_of_roundsTo (hy : y % 2 = k % 2) : t.Rounds rm (signOf neg * a) y (signOf neg * t.fmt.value k) := by
  cases hrm : rm with
  | rne => exact Ty.rounds_rne ha h hrm hy
  | rtz => exact Ty.rounds_rtz ha h hrm
  | rup => exact Ty.rounds_rup ha h hrm
  | rdn => exact Ty.rounds_rdn ha h hrm

end Rounded

/-- The pattern of an overflow. -/
theorem Ty.overflow_eq {t : Ty} {rm : Rnd} {neg : Bool} :
    (t.fmt.hasInf = true → rm = .rne ∨ rm.outwards neg → t.overflow rm neg = t.signBits neg + t.fmt.maxBits + 1) ∧
    (t.fmt.hasInf = false ∨ rm.inwards neg → t.overflow rm neg = t.signBits neg + t.fmt.maxBits) := by
  unfold Ty.overflow
  constructor
  · intro hinf
    rw [hinf]
    cases rm <;> cases neg <;> simp [Rnd.outwards, bit, Nat.add_assoc]
  · rintro (hinf | hin)
    · rw [hinf]; simp [bit]
    · revert hin
      cases rm <;> cases neg <;> simp [Rnd.inwards, bit]

section Once
variable {t : Ty} {rm : Rnd} {x : Exact} {v : ℚ} (h : x.Is t v)
include h

theorem Exact.Is.tiny_iff : t.Tiny rm x.neg v ↔ t.isTiny rm x = true := by
  rw [Ty.tiny_iff, h.ready.isTiny_iff]

/-- The rounded number is the exact one where the rounding is exact. -/
theorem Exact.Is.roundMag_eq_iff : signOf x.neg * t.fmt.value (t.roundMag rm x) = v ↔ t.inexact rm x = false := by
  have hsign : signOf x.neg ≠ 0 := by cases x.neg <;> simp
  rw [h.ready.inexact_eq_false_iff rm]
  conv_lhs => rw [← h.signOf_mul_abs]
  rw [mul_right_inj' hsign]

/-- Under the flush a tiny result is a zero of its sign. -/
theorem Exact.Is.roundF_ftz_of_tiny (hf : t.flushes = true) (htiny : t.Tiny rm x.neg v) :
    t.roundF rm true x = ⟨t.signBits x.neg, Flags.uf ||| Flags.ix⟩ := by
  rw [Ty.roundF_ftz_eq h.1, hf, h.tiny_iff.mp htiny]; rfl

theorem Exact.Is.roundF_ftz_of_not_tiny (hf : t.flushes = false ∨ ¬ t.Tiny rm x.neg v) :
    t.roundF rm true x = t.roundF rm false x := by
  rw [h.tiny_iff, Bool.not_eq_true] at hf
  rw [Ty.roundF_ftz_eq h.1, if_neg]
  rcases hf with hf | hf <;> simp [hf]

variable (ht : t.Floats)
include ht

theorem Exact.Is.overflows_iff : t.Overflows rm x.neg v ↔ t.fmt.maxBits < t.roundMag rm x :=
  ht.overflows_iff.trans (h.ready.roundsTo rm ht _).symm

theorem Exact.Is.roundF_of_overflows (hov : t.Overflows rm x.neg v) :
    t.roundF rm false x = ⟨t.overflow rm x.neg, Flags.ov ||| Flags.ix⟩ := by
  rw [Ty.roundF_eq h.1, if_pos ((h.overflows_iff ht).mp hov)]

/-- Without overflow the result is the number of a pattern, rounded once, with the flags of an inexact and of a tiny one. -/
theorem Exact.Is.roundF_of_not_overflows (hov : ¬ t.Overflows rm x.neg v) :
    ∃ p, t.num (t.roundF rm false x).bits = some p ∧ t.Rounds rm v (t.roundF rm false x).bits p ∧
      (t ≠ .e2m1 → (2 ^ (t.bits - 1) ≤ (t.roundF rm false x).bits ↔ x.neg = true)) ∧
      (p = v → (t.roundF rm false x).fl = 0) ∧ (p ≠ v → t.Tiny rm x.neg v → (t.roundF rm false x).fl = Flags.uf ||| Flags.ix) ∧
      (p ≠ v → ¬ t.Tiny rm x.neg v → (t.roundF rm false x).fl = Flags.ix) := by
  rw [h.overflows_iff ht] at hov
  have hle := not_lt.mp hov
  have hrounds := Ty.rounds_of_roundsTo h.ready.pos (h.ready.roundsTo rm ht) (ht.pattern_parity x.neg (t.roundMag rm x))
  rw [h.signOf_mul_abs] at hrounds
  rw [Ty.roundF_eq h.1, if_neg hov]
  refine ⟨_, ht.num_pattern hle, hrounds, ht.le_pattern_iff hle, fun heq => ?_, fun hne htiny => ?_, fun hne htiny => ?_⟩
  · simp [h.roundMag_eq_iff.mp heq]
  · rw [ne_eq, h.roundMag_eq_iff, Bool.not_eq_false] at hne
    rw [h.tiny_iff] at htiny
    simp [hne, htiny, BitVec.or_comm]
  · rw [ne_eq, h.roundMag_eq_iff, Bool.not_eq_false] at hne
    rw [h.tiny_iff, Bool.not_eq_true] at htiny
    simp [hne, htiny]

end Once

end Sys2Proof
end

section
/-! Sums, products, quotients and square roots of finite operands as exact results (08 R187-R191). -/

set_option Elab.async false

namespace Sys2Proof

/-- The number of a signed dyadic. -/
def Dy.val (d : Dy) : ℚ := d.m * (2 : ℚ) ^ d.e

theorem Dy.scaled_mul {d : Dy} {e : ℤ} (h : e ≤ d.e) : (d.scaled e : ℚ) * 2 ^ e = d.val := by
  have hpow : (2 : ℚ) ^ d.e = 2 ^ (d.e - e).toNat * 2 ^ e := by
    rw [← zpow_natCast, ← zpow_add₀ two_ne_zero]; congr 1; omega
  rw [Dy.scaled, Dy.val, hpow]; push_cast; ring

theorem Dy.val_add (c d : Dy) : (c.add d).val = c.val + d.val := by
  rw [← Dy.scaled_mul (min_le_left c.e d.e), ← Dy.scaled_mul (min_le_right c.e d.e), ← add_mul]
  simp [Dy.add, Dy.val]

theorem FVal.val_dy (n : Bool) (m : ℕ) (e : ℤ) : (FVal.fin n m e).dy.val = Exact.val ⟨n, m, e, false⟩ := by
  cases n <;> simp [FVal.dy, Dy.val, Exact.val]

theorem Exact.val_eq (x : Exact) : x.val = signOf x.neg * (x.m * (2 : ℚ) ^ x.e) := mul_assoc _ _ _

theorem signOf_not (n : Bool) : signOf (!n) = -signOf n := by cases n <;> simp

theorem signOf_bne (n k : Bool) : signOf (n != k) = signOf n * signOf k := by cases n <;> cases k <;> simp

theorem signOf_mul_neg_iff {n : Bool} {c : ℚ} (hc : 0 < c) : n = true ↔ signOf n * c < 0 := by
  cases n <;> simp [hc, hc.le]

/-- An exact result that is a number is that number, of its sign. -/
theorem Exact.is_val {n : Bool} {m : ℕ} {e : ℤ} (t : Ty) (h : Exact.val ⟨n, m, e, false⟩ ≠ 0) :
    (⟨n, m, e, false⟩ : Exact).Is t (Exact.val ⟨n, m, e, false⟩) := by
  have hm : m ≠ 0 := by rintro rfl; exact h (by simp [Exact.val])
  have hpos : (0 : ℚ) < m * 2 ^ e := mul_pos (Nat.cast_pos.mpr (Nat.pos_of_ne_zero hm)) (by positivity)
  exact ⟨hm, by rw [Exact.val_eq]; exact signOf_mul_neg_iff hpos, rfl⟩

theorem Dy.exact_is {d : Dy} (t : Ty) (zneg : Bool) (h : d.val ≠ 0) : (d.exact zneg).Is t d.val := by
  have hm : d.m ≠ 0 := by intro hm; exact h (by simp [Dy.val, hm])
  have hval : Exact.val ⟨decide (d.m < 0), d.m.natAbs, d.e, false⟩ = d.val := by
    rcases lt_or_ge d.m 0 with hneg | hneg
    · simp [Exact.val, Dy.val, hneg, abs_of_neg, Nat.cast_natAbs]
    · simp [Exact.val, Dy.val, not_lt.mpr hneg, abs_of_nonneg hneg, Nat.cast_natAbs]
  rw [Dy.exact, if_neg hm, ← hval]
  exact Exact.is_val t (by rwa [hval])

/-- A finite operand: what it decodes to, its number, and the bound of its significand. -/
structure Operand (t : Ty) (y : ℕ) (p : ℚ) (n : Bool) (m : ℕ) (e : ℤ) : Prop where
  decode : t.decodeF y = .fin n m e
  val : Exact.val ⟨n, m, e, false⟩ = p
  bound : m < 2 ^ 53

theorem Ty.fb_le (t : Ty) : t.fmt.fb ≤ 52 := by cases t <;> decide

/-- A decoded significand has a bit more than the format's fraction. -/
theorem Ty.decodeF_bound {t : Ty} {y : ℕ} {n : Bool} {m : ℕ} {e : ℤ} (h : t.decodeF y = .fin n m e) : m < 2 ^ 53 := by
  have hfb := Nat.pow_le_pow_right (n := 2) (by decide) t.fb_le
  have hmod := Nat.mod_lt (t.magnitude y) (Nat.two_pow_pos t.fmt.fb)
  rw [Ty.decodeF_eq] at h
  split at h
  · split at h <;> cases h
  · split at h
    · cases h
    · split at h
      · cases h; decide
      · split at h <;> cases h <;> omega

theorem Operand.of_num {t : Ty} {y : ℕ} {p : ℚ} (h : t.num y = some p) : ∃ n m e, Operand t y p n m e := by
  unfold Ty.num at h
  split at h
  next n m e hd => exact ⟨n, m, e, hd, Option.some.inj h, Ty.decodeF_bound hd⟩
  next => cases h

namespace Operand
variable {t : Ty} {a b : ℕ} {p q : ℚ} {n k : Bool} {i j : ℕ} {e f : ℤ}

theorem read (h : Operand t a p n i e) : t.readF false a = (.fin n i e, 0) := by
  rw [Ty.readF, h.decode]; rfl

theorem val_dy (h : Operand t a p n i e) : (FVal.fin n i e).dy.val = p := by rw [FVal.val_dy, h.val]

theorem eq (h : Operand t a p n i e) : p = signOf n * (i * (2 : ℚ) ^ e) := by rw [← h.val, Exact.val_eq]

theorem ne_zero (h : Operand t a p n i e) (hp : p ≠ 0) : i ≠ 0 := by
  rintro rfl; exact hp (by rw [h.eq]; simp)

end Operand

/-- The rounded sum of two numbers is the rounding of their exact sum. -/
theorem Ty.addV_fin {t : Ty} {rm : Rnd} {sat : Bool} {n k : Bool} {i j : ℕ} {e f : ℤ} {p q : ℚ} (hp : (FVal.fin n i e).dy.val = p)
    (hq : (FVal.fin k j f).dy.val = q) (h : p + q ≠ 0) :
    ∃ x, x.Is t (p + q) ∧ t.addV rm false sat 0 (.fin n i e) (.fin k j f) = t.finish rm false sat 0 x := by
  have hval : ((FVal.fin n i e).dy.add (FVal.fin k j f).dy).val = p + q := by rw [Dy.val_add, hp, hq]
  exact ⟨_, hval ▸ Dy.exact_is t _ (hval ▸ h), rfl⟩

theorem val_mulV {n k : Bool} {i j : ℕ} {e f : ℤ} :
    Exact.val ⟨n != k, i * j, e + f, false⟩ = Exact.val ⟨n, i, e, false⟩ * Exact.val ⟨k, j, f, false⟩ := by
  simp only [Exact.val_eq, signOf_bne, zpow_add₀ (two_ne_zero (α := ℚ)), Nat.cast_mul]; ring

section Binary
variable {t : Ty} {rm : Rnd} {sat : Bool} {a b : ℕ} {p q : ℚ} (ha : t.num a = some p) (hb : t.num b = some q)
include ha hb

theorem Ty.fadd_exact (h : p + q ≠ 0) : ∃ x, x.Is t (p + q) ∧ t.fadd rm false sat a b = t.finish rm false sat 0 x := by
  obtain ⟨n, i, e, ha⟩ := Operand.of_num ha
  obtain ⟨k, j, f, hb⟩ := Operand.of_num hb
  simp only [Ty.fadd, ha.read, hb.read, BitVec.or_self]
  exact Ty.addV_fin ha.val_dy hb.val_dy h

theorem Ty.fsub_exact (h : p - q ≠ 0) : ∃ x, x.Is t (p - q) ∧ t.fsub rm false sat a b = t.finish rm false sat 0 x := by
  obtain ⟨n, i, e, ha⟩ := Operand.of_num ha
  obtain ⟨k, j, f, hb⟩ := Operand.of_num hb
  have hneg : (FVal.fin (!k) j f).dy.val = -q := by rw [FVal.val_dy, Exact.val_eq, signOf_not, hb.eq, neg_mul]
  rw [sub_eq_add_neg] at h ⊢
  simp only [Ty.fsub, ha.read, hb.read, BitVec.or_self]
  exact Ty.addV_fin ha.val_dy hneg h

theorem Ty.fmul_exact (h : p * q ≠ 0) : ∃ x, x.Is t (p * q) ∧ t.fmul rm false sat a b = t.finish rm false sat 0 x := by
  obtain ⟨n, i, e, ha⟩ := Operand.of_num ha
  obtain ⟨k, j, f, hb⟩ := Operand.of_num hb
  have hval : Exact.val ⟨n != k, i * j, e + f, false⟩ = p * q := by rw [val_mulV, ha.val, hb.val]
  simp only [Ty.fmul, ha.read, hb.read, BitVec.or_self, FVal.mulV]
  exact ⟨_, hval ▸ Exact.is_val t (hval ▸ h), rfl⟩

theorem Ty.fma_exact {c : ℕ} {z : ℚ} (hc : t.num c = some z) (h : p * q + z ≠ 0) :
    ∃ x, x.Is t (p * q + z) ∧ t.fma rm false sat a b c = t.finish rm false sat 0 x := by
  obtain ⟨n, i, e, ha⟩ := Operand.of_num ha
  obtain ⟨k, j, f, hb⟩ := Operand.of_num hb
  obtain ⟨u, l, g, hc⟩ := Operand.of_num hc
  have hval : (FVal.fin (n != k) (i * j) (e + f)).dy.val = p * q := by rw [FVal.val_dy, val_mulV, ha.val, hb.val]
  simp only [Ty.fma, ha.read, hb.read, hc.read, BitVec.or_self, FVal.mulV]
  exact Ty.addV_fin hval hc.val_dy h

end Binary

/-! ### Quotients -/

/-- The quotient of two significands with 128 further bits is the exact quotient, or the multiple below it with `sticky`. -/
theorem quotient_is (t : Ty) {s : Bool} {m n : ℕ} {e : ℤ} (hm : m ≠ 0) (hn : n ≠ 0) (hbound : n < 2 ^ 53) :
    (quotient s m n e).Is t (signOf s * (m / n * (2 : ℚ) ^ e)) := by
  have hn' : (0 : ℚ) < n := Nat.cast_pos.mpr (Nat.pos_of_ne_zero hn)
  have hm' : (0 : ℚ) < m := Nat.cast_pos.mpr (Nat.pos_of_ne_zero hm)
  have hpos : 0 < m / n * (2 : ℚ) ^ e := by positivity
  have hmag : |signOf s * (m / n * (2 : ℚ) ^ e)| = m * 2 ^ 128 / n * 2 ^ (e - 128) := by
    rw [abs_signOf_mul _ hpos.le, zpow_sub₀ two_ne_zero]
    norm_num
    ring
  have hbig : 2 ^ 75 ≤ m * 2 ^ 128 / n := by
    rw [Nat.le_div_iff_mul_le (Nat.pos_of_ne_zero hn)]
    calc 2 ^ 75 * n ≤ 2 ^ 75 * 2 ^ 53 := Nat.mul_le_mul_left _ hbound.le
      _ = 1 * 2 ^ 128 := by norm_num
      _ ≤ m * 2 ^ 128 := Nat.mul_le_mul_right _ (Nat.pos_of_ne_zero hm)
  have hdm : (m : ℚ) * 2 ^ 128 = n * (m * 2 ^ 128 / n : ℕ) + (m * 2 ^ 128 % n : ℕ) := by
    exact_mod_cast (Nat.div_add_mod (m * 2 ^ 128) n).symm
  have hlt : ((m * 2 ^ 128 % n : ℕ) : ℚ) < n := Nat.cast_lt.mpr (Nat.mod_lt _ (Nat.pos_of_ne_zero hn))
  have hunit : (0 : ℚ) < 2 ^ (e - 128) := by positivity
  have h75 : 75 ≤ (m * 2 ^ 128 / n).log2 := (Nat.le_log2 (by omega)).mpr hbig
  have hfb := t.fb_le
  refine ⟨by unfold quotient; dsimp only; omega, signOf_mul_neg_iff hpos, ?_⟩
  unfold quotient
  dsimp only
  generalize m * 2 ^ 128 / n = u at hdm hbig h75
  generalize m * 2 ^ 128 % n = w at hdm hlt
  split
  next hs =>
    have hrem : (0 : ℚ) < w := Nat.cast_pos.mpr (Nat.pos_of_ne_zero (of_decide_eq_true hs))
    rw [hmag, mul_lt_mul_iff_of_pos_right hunit, mul_lt_mul_iff_of_pos_right hunit, lt_div_iff₀ hn', div_lt_iff₀ hn', hdm]
    exact ⟨by linarith, by linarith, by omega⟩
  next hs =>
    obtain rfl : w = 0 := by simpa using hs
    rw [Nat.cast_zero, add_zero] at hdm
    rw [Exact.val_eq]
    dsimp only
    rw [← hmag.symm.trans (abs_signOf_mul s hpos.le), hdm, mul_div_cancel_left₀ _ hn'.ne']

theorem Ty.fdiv_exact {t : Ty} {rm : Rnd} {sat : Bool} {a b : ℕ} {p q : ℚ} (ha : t.num a = some p) (hb : t.num b = some q)
    (hp : p ≠ 0) (hq : q ≠ 0) : ∃ x, x.Is t (p / q) ∧ t.fdiv rm false sat a b = t.finish rm false sat 0 x := by
  obtain ⟨n, i, e, ha⟩ := Operand.of_num ha
  obtain ⟨k, j, f, hb⟩ := Operand.of_num hb
  have hi := ha.ne_zero hp
  have hj := hb.ne_zero hq
  have hval : signOf (n != k) * (i / j * (2 : ℚ) ^ (e - f)) = p / q := by
    rw [ha.eq, hb.eq, signOf_bne, zpow_sub₀ two_ne_zero]
    cases n <;> cases k <;> simp <;> ring
  refine ⟨quotient (n != k) i j (e - f), hval ▸ quotient_is t hi hj hb.bound, ?_⟩
  simp only [Ty.fdiv, ha.read, hb.read, BitVec.or_self, Ty.divV, if_neg hj, if_neg hi]

/-! ### Square roots -/

/-- One bit of the integer square root: it is added where the square stays within the number. -/
def isqrtStep (n i r : ℕ) : ℕ := if (r + 2 ^ i) * (r + 2 ^ i) ≤ n then r + 2 ^ i else r

theorem isqrt_eq_foldr (n : ℕ) : isqrt n = (List.range (n.log2 / 2 + 1)).foldr (isqrtStep n) 0 := rfl

/-- A root that is right but for its low j bits is right once they are settled. -/
theorem foldr_isqrtStep (n j : ℕ) : ∀ r, r * r ≤ n → n < (r + 2 ^ j) * (r + 2 ^ j) →
    (List.range j).foldr (isqrtStep n) r * (List.range j).foldr (isqrtStep n) r ≤ n ∧
    n < ((List.range j).foldr (isqrtStep n) r + 1) * ((List.range j).foldr (isqrtStep n) r + 1) := by
  induction j with
  | zero => exact fun r h0 h1 => ⟨h0, by simpa using h1⟩
  | succ j ih =>
    intro r h0 h1
    rw [List.range_succ, List.foldr_append]
    refine ih (isqrtStep n j r) ?_ ?_ <;> unfold isqrtStep <;> split
    · assumption
    · exact h0
    · rwa [Nat.pow_succ, Nat.mul_two, ← Nat.add_assoc] at h1
    · omega

theorem isqrt_spec (n : ℕ) : isqrt n * isqrt n ≤ n ∧ n < (isqrt n + 1) * (isqrt n + 1) := by
  rw [isqrt_eq_foldr]
  refine foldr_isqrtStep n (n.log2 / 2 + 1) 0 (Nat.zero_le _) ?_
  rw [Nat.zero_add, ← Nat.pow_add]
  exact Nat.lt_log2_self.trans_le (Nat.pow_le_pow_right (by decide) (by omega))

/-- The root of a positive significand, with 128 further bits: the integer root of some N at a unit whose square N counts. -/
theorem sqrtExact_eq {m : ℕ} (hm : m ≠ 0) (e : ℤ) : ∃ N : ℕ, ∃ c : ℤ, 2 ^ 256 ≤ N ∧ (m : ℚ) * 2 ^ e = N * ((2 : ℚ) ^ c) ^ 2 ∧
    sqrtExact m e = ⟨false, isqrt N, c, decide (isqrt N * isqrt N ≠ N)⟩ := by
  have hsq : ∀ c : ℤ, ((2 : ℚ) ^ c) ^ 2 = 2 ^ (2 * c) := fun c => by rw [mul_comm, zpow_mul, zpow_ofNat]
  have hbig : ∀ k, k ≠ 0 → 2 ^ 256 ≤ k * 2 ^ 256 := fun k hk => Nat.le_mul_of_pos_left _ (Nat.pos_of_ne_zero hk)
  by_cases hodd : e % 2 = 1
  · refine ⟨2 * m * 2 ^ 256, (e - 1) / 2 - 128, hbig _ (by omega), ?_, by simp only [sqrtExact, hodd, if_true]⟩
    rw [hsq, show 2 * ((e - 1) / 2 - 128) = e - 1 - 256 by omega, zpow_sub₀ two_ne_zero, zpow_sub₀ two_ne_zero, zpow_one]
    norm_num
    ring
  · refine ⟨m * 2 ^ 256, e / 2 - 128, hbig _ hm, ?_, by simp only [sqrtExact, hodd, if_false]⟩
    rw [hsq, show 2 * (e / 2 - 128) = e - 256 by omega, zpow_sub₀ two_ne_zero]
    norm_num
    ring

theorem two_pow_le_isqrt {N k : ℕ} (h : 2 ^ (2 * k) ≤ N) : 2 ^ k ≤ isqrt N := by
  obtain ⟨-, hlt⟩ := isqrt_spec N
  have hsq : 2 ^ k * 2 ^ k < (isqrt N + 1) * (isqrt N + 1) := by rw [← Nat.pow_add, ← Nat.two_mul]; omega
  exact Nat.lt_succ_iff.mp (Nat.mul_self_lt_mul_self_iff.mp hsq)

/-- The square root of a positive number is the exact root, or the multiple below it with `sticky`. -/
theorem Ty.fsqrt_exact {t : Ty} {rm : Rnd} {sat : Bool} {a : ℕ} {p : ℚ} (ha : t.num a = some p) (hp : 0 < p) :
    ∃ x : Exact, x.neg = false ∧ t.fmt.fb + 2 ≤ x.m.log2 ∧ x.val ^ 2 ≤ p ∧ p < ((x.m + 1) * (2 : ℚ) ^ x.e) ^ 2 ∧
      (x.sticky = false ↔ x.val ^ 2 = p) ∧ t.fsqrt rm false sat a = t.finish rm false sat 0 x := by
  obtain ⟨n, m, e, ha⟩ := Operand.of_num ha
  have hm := ha.ne_zero hp.ne'
  obtain rfl : n = false := by
    have hpos : (0 : ℚ) < m * 2 ^ e := mul_pos (Nat.cast_pos.mpr (Nat.pos_of_ne_zero hm)) (by positivity)
    rw [ha.eq] at hp
    exact Bool.eq_false_iff.mpr fun hn => lt_asymm hp ((signOf_mul_neg_iff hpos).mp hn)
  have hval : p = m * 2 ^ e := by rw [ha.eq, signOf_false, one_mul]
  obtain ⟨N, c, hN, hc, hx⟩ := sqrtExact_eq hm e
  obtain ⟨hle, hlt⟩ := isqrt_spec N
  have hunit : (0 : ℚ) < ((2 : ℚ) ^ c) ^ 2 := by positivity
  have hlog : 128 ≤ (isqrt N).log2 := by
    have h := two_pow_le_isqrt (k := 128) hN
    exact (Nat.le_log2 (by omega)).mpr h
  have hfb := t.fb_le
  refine ⟨sqrtExact m e, by rw [hx], by rw [hx]; dsimp only; omega, ?_⟩
  rw [hval, hc, hx, Exact.val_eq, signOf_false, one_mul, mul_pow, mul_pow, mul_le_mul_iff_of_pos_right hunit,
    mul_lt_mul_iff_of_pos_right hunit, mul_left_inj' hunit.ne', pow_two, pow_two]
  refine ⟨by exact_mod_cast hle, by exact_mod_cast hlt, ?_, ?_⟩
  · rw [decide_eq_false_iff_not, not_not]; norm_cast
  · simp only [Ty.fsqrt, ha.read, if_neg hm, Bool.false_eq_true, if_false, hx]

/-- Settles O5: `roundSig` rounds to the multiples of a unit, these are the format's values in the binade of the result, and each operation
hands `finish` the exact value of its operands. -/
theorem floatRounding : Obligations.FloatRounding := by
  refine ⟨fun t rm x v ht hx => ?_, fun _ _ _ _ _ _ => ⟨rfl, rfl⟩, fun t y => ⟨rfl, fun q hq => ?_, fun n hn => ?_, fun n m e hf => ?_⟩,
    fun t rm sat a b p q ha hb => ⟨Ty.fadd_exact ha hb, Ty.fsub_exact ha hb, Ty.fmul_exact ha hb, Ty.fdiv_exact ha hb,
      fun c z hc => Ty.fma_exact ha hb hc⟩,
    fun t rm sat a p ha hp => Ty.fsqrt_exact ha hp⟩
  · have hfloats := Ty.floats ht
    refine ⟨fun hov => ?_, hx.roundF_of_not_overflows hfloats, hx.roundF_ftz_of_tiny, hx.roundF_ftz_of_not_tiny⟩
    rw [hx.roundF_of_overflows hfloats hov]
    exact ⟨rfl, Ty.overflow_eq.1, Ty.overflow_eq.2⟩
  · simp only [Ty.satF, hq, if_true]
  · simp only [Ty.satF, hn, if_true]
  · simp only [Ty.satF, hf, if_true]

end Sys2Proof
end

section
/-! What leaves every thread's failed operations as they are: stores and reads at the home, event records, traps, drift messages, and the
writes of system registers. -/

set_option Elab.async false

namespace Sys2Proof.Machine

/-! ### Operations that touch no agent -/

/-- A fold of steps that touch no agent touches none. -/
theorem State.foldl_ctxs {α : Type} {f : State → α → State} (h : ∀ s x, (f s x).ctxs = s.ctxs) (l : List α) :
    ∀ s, (l.foldl f s).ctxs = s.ctxs := by
  induction l with
  | nil => exact fun _ => rfl
  | cons x l ih => exact fun s => (ih (f s x)).trans (h s x)

@[simp] theorem State.writeBytes_ctxs (s : State) (a : Nat) (bs : List Byte) : (s.writeBytes a bs).ctxs = s.ctxs :=
  (congrArg State.ctxs (s.writeBytes_only a bs) :)

@[simp] theorem State.slicePut_ctxs (s : State) (x : SliceLine) : (s.slicePut x).ctxs = s.ctxs := rfl

@[simp] theorem State.sliceStore_ctxs (s : State) (as : List Nat) : (s.sliceStore as).ctxs = s.ctxs := by
  refine State.foldl_ctxs (fun s l => ?_) _ s
  split <;> rfl

@[simp] theorem State.flushBytes_ctxs (s : State) (bs : List (Nat × Byte)) : (s.flushBytes bs).ctxs = s.ctxs := by
  rw [State.flushBytes, State.sliceStore_ctxs]
  exact State.foldl_ctxs (fun s (p : Nat × Byte) => s.writeBytes_ctxs p.1 [p.2]) _ s

@[simp] theorem State.splitRegion_ctxs (s : State) (pa : Nat) : (s.splitRegion pa).ctxs = s.ctxs := by
  unfold State.splitRegion
  dsimp only
  split <;> rfl

@[simp] theorem State.isolate_ctxs (kept : L1Line → Bool) (pa n : Nat) : ∀ s, (State.isolate kept pa n s).ctxs = s.ctxs := by
  induction n with
  | zero => exact fun _ => rfl
  | succ n ih =>
    intro s
    unfold State.isolate
    dsimp only
    split
    · rw [ih, State.splitRegion_ctxs]
    · rfl

@[simp] theorem State.putRegion_ctxs (s : State) (r : Region) : (s.putRegion r).ctxs = s.ctxs := rfl

@[simp] theorem State.recall_ctxs (s : State) (by_ : Option Nat) (line : Nat) (wr : Bool) : (s.recall by_ line wr).ctxs = s.ctxs := by
  unfold State.recall
  dsimp only
  split
  · rfl
  · rw [State.putRegion_ctxs]
    dsimp only
    rw [State.isolate_ctxs, State.splitRegion_ctxs]
    exact State.foldl_ctxs (fun s (l : L1Line) => s.flushBytes_ctxs l.dirty) _ s

@[simp] theorem State.dropSharers_ctxs (s : State) (by_ : Option Nat) (line : Nat) : (s.dropSharers by_ line).ctxs = s.ctxs := by
  unfold State.dropSharers
  dsimp only
  split
  · rfl
  · rw [State.putRegion_ctxs, State.isolate_ctxs, State.splitRegion_ctxs]

@[simp] theorem State.injectSeen_ctxs (s : State) (cache : Option Nat) (gid : Word) (pa n : Nat) :
    (s.injectSeen cache gid pa n).ctxs = s.ctxs := by
  unfold State.injectSeen
  dsimp only
  split <;> rfl

@[simp] theorem State.readHome_ctxs (s : State) (pa n : Nat) : (s.readHome pa n).ctxs = s.ctxs := by
  unfold State.readHome
  dsimp only
  split
  · rw [State.foldl_ctxs (fun s l => ?_), State.injectSeen_ctxs]
    rw [State.sliceFill, State.slicePut_ctxs, State.recall_ctxs]
  · exact s.injectSeen_ctxs none noGang pa n

@[simp] theorem State.writeHome_ctxs (s : State) (pa : Nat) (bs : List Byte) : (s.writeHome pa bs).ctxs = s.ctxs := by
  rw [State.writeHome, State.applyHome, State.writeBytes_ctxs]
  dsimp only
  rw [State.sliceStore_ctxs]
  exact State.foldl_ctxs (fun s l => by rw [State.dropSharers_ctxs, State.recall_ctxs]) _ s

@[simp] theorem State.homeWrite_ctxs (s : State) (pa : Nat) (bs : List Byte) : (s.homeWrite pa bs).ctxs = s.ctxs := by
  unfold State.homeWrite State.holdHome State.storeHome
  split
  · exact State.splitRegion_ctxs _ pa
  · split
    · exact s.writeHome_ctxs pa bs
    · exact s.writeBytes_ctxs pa bs

@[simp] theorem State.hwWrite_ctxs (s : State) (a : Nat) (bs : List Byte) : (s.hwWrite a bs).ctxs = s.ctxs := by
  unfold State.hwWrite
  split
  · exact s.homeWrite_ctxs a bs
  · rfl

@[simp] theorem State.evqPut_ctxs (s : State) (q : Nat) (bs : List Byte) : (s.evqPut q bs).ctxs = s.ctxs :=
  s.hwWrite_ctxs _ bs

/-! ### Failed operations kept -/

/-- Every thread of every agent has the failed operations it had. -/
def State.SameFails (s t : State) : Prop := ∀ c l, ((t.ctx c).lane l).fails = ((s.ctx c).lane l).fails

/-- The same of one agent's threads. -/
def Ctx.SameFails (x y : Ctx) : Prop := ∀ l, (y.lane l).fails = (x.lane l).fails

namespace State.SameFails

theorem refl (s : State) : s.SameFails s := fun _ _ => rfl

theorem trans {s t u : State} (h : s.SameFails t) (k : t.SameFails u) : s.SameFails u := fun c l => (k c l).trans (h c l)

theorem of_ctxs {s t : State} (h : t.ctxs = s.ctxs) : s.SameFails t := fun c l => by unfold State.ctx; rw [h]

theorem ite {p : Prop} [Decidable p] {s a b : State} (ha : s.SameFails a) (hb : s.SameFails b) : s.SameFails (if p then a else b) := by
  split
  · exact ha
  · exact hb

theorem foldl {α : Type} {f : State → α → State} (h : ∀ (s : State) x, s.SameFails (f s x)) (l : List α) : ∀ s : State, s.SameFails (l.foldl f s) := by
  induction l with
  | nil => exact refl
  | cons x l ih => exact fun s => (h s x).trans (ih _)

theorem setCtx (s : State) {c : CtxId} {x : Ctx} (h : Ctx.SameFails (s.ctx c) x) : s.SameFails (s.setCtx c x) := by
  intro k l
  rw [State.ctx_setCtx]
  split
  next hk => rw [h l]; unfold State.ctx; rw [hk]
  next => rfl

theorem modCtx (s : State) (c : CtxId) {f : Ctx → Ctx} (h : ∀ x, Ctx.SameFails x (f x)) : s.SameFails (s.modCtx c f) := setCtx s (h _)

/-- One agent's threads stay, and no other agent differs. -/
theorem of_staysAt {c : CtxId} {s t : State} (h : StaysAt c s t) : s.SameFails t := by
  intro k l
  by_cases hk : ctxKey k = ctxKey c
  · have hctx : ∀ u : State, u.ctx k = u.ctx c := fun u => by unfold State.ctx; rw [hk]
    rw [hctx, hctx, h.fails l]
  · rw [h.only.others k hk]

end State.SameFails

theorem Ctx.SameFails.modLane (c : Ctx) (l : Nat) {f : Lane → Lane} (hf : ∀ x, (f x).fails = x.fails) :
    Ctx.SameFails c (c.modLane l f) := by
  intro k
  rw [Ctx.lane_modLane]
  split
  next h => rw [hf, h]
  next => rfl

theorem Ctx.SameFails.modLanes (ls : List Nat) {f : Nat → Lane → Lane} (hf : ∀ l x, (f l x).fails = x.fails) :
    ∀ c : Ctx, Ctx.SameFails c (c.modLanes ls f) := by
  induction ls with
  | nil => exact fun _ _ => rfl
  | cons a r ih => exact fun c l => (ih _ l).trans (Ctx.SameFails.modLane c a (hf a) l)

theorem Ctx.SameFails.of_lanes {x y : Ctx} (h : y.lanes = x.lanes) : Ctx.SameFails x y := fun l => by unfold Ctx.lane; rw [h]

theorem Ctx.SameFails.trans {x y z : Ctx} (h : Ctx.SameFails x y) (k : Ctx.SameFails y z) : Ctx.SameFails x z :=
  fun l => (k l).trans (h l)

namespace Ctx.SameFails

/-- Record slots written leave the threads. -/
theorem putRecSlots (ns : List Nat) (j : Nat) (f : Nat → Rec256) :
    ∀ x : Ctx, Ctx.SameFails x (ns.foldl (fun (y : Ctx) n => y.putRecSlot j n (f n)) x) := by
  induction ns with
  | nil => exact fun _ _ => rfl
  | cons n ns ih => exact fun x => Ctx.SameFails.trans (of_lanes rfl) (ih (x.putRecSlot j n (f n)))

theorem setSub (x : Ctx) (j : Nat) (u : Sub) : Ctx.SameFails x (x.setSub j u) := of_lanes rfl

theorem dropSubs (x : Ctx) : Ctx.SameFails x x.dropSubs := of_lanes rfl

theorem leaveRcv (x : Ctx) (m : Word64) : Ctx.SameFails x (x.leaveRcv m) := of_lanes rfl

/-- Threads moved to a sub-gang. -/
theorem toSub (x : Ctx) (m : Word64) (j : Nat) : Ctx.SameFails x
    ((x.modLanes (lanesOf m) fun _ y => { y with sub := j, heldRcv := false, heldRb := false }).leaveRcv m) :=
  Ctx.SameFails.trans (modLanes (lanesOf m) (by exact fun _ _ => rfl) x) (leaveRcv _ m)

/-- Threads that stand still at a fault. -/
theorem stall (x : Ctx) (m : Word64) (k : Option (Nat × Bool)) :
    Ctx.SameFails x (x.modLanes (lanesOf m) fun _ z => { z with stalled := k }) :=
  modLanes (lanesOf m) (by exact fun _ _ => rfl) x

end Ctx.SameFails

/-! ### Event records and traps -/

namespace State.SameFails

theorem wakeWfi (s : State) (q : Nat) : s.SameFails (s.wakeWfi q) := ite (modCtx s _ fun _ _ => rfl) (refl s)

theorem evqPut (s : State) (q : Nat) (bs : List Byte) : s.SameFails (s.evqPut q bs) := of_ctxs (s.evqPut_ctxs q bs)

theorem evqWrite (s : State) (q col : Nat) (bs : List Byte) : s.SameFails (s.evqWrite q col bs) := by
  have hnote : ∀ u : State, u.SameFails ((if (u.sysGet SysReg.evqctl q).getLsbD 60 then
      { u with ev := { u.ev with msix := u.ev.msix ++ [field (u.sysGet SysReg.evqctl q) 53 43] } } else u).wakeWfi q) :=
    fun u => (ite (of_ctxs (by rfl)) (refl u)).trans (wakeWfi _ q)
  refine trans (ite ?_ (evqPut s q bs)) (hnote _)
  exact trans (trans (ite (evqPut s q _) (refl s)) (evqPut _ q _)) (evqPut _ q _)

theorem evqDrop (s : State) (q : Option Nat) : s.SameFails (s.evqDrop q) := of_ctxs (by cases q <;> rfl)

theorem evqOffer (s : State) (q col : Nat) (bs : List Byte) : s.SameFails (s.evqOffer q col bs) :=
  ite (evqWrite s q col bs) (ite (of_ctxs rfl) (evqDrop s _))

theorem post (s : State) (q col : Nat) (bs : List Byte) : s.SameFails (s.post q col bs) :=
  ite (evqOffer s _ col bs) (ite (evqOffer s col col bs) (evqDrop s none))

theorem postFault (s : State) (q col : Nat) (f : FaultRec) : s.SameFails (s.postFault q col f) := post s q col _

theorem machineEvent (s : State) (q col fl cause : Nat) (a b : Word64) : s.SameFails (s.machineEvent q col fl cause a b) := post s q col _

theorem injectMarkers (s : State) (h : Word64) : s.SameFails (s.injectMarkers h) := by
  refine trans (of_ctxs ?_) (foldl (fun u a => ?_) _ _)
  · rfl
  · exact of_ctxs rfl

theorem startEnd (s : State) (h : Word64) (status cause : Nat) : s.SameFails (s.startEnd h status cause) := by
  unfold State.startEnd
  split
  · exact ite (refl s) (trans (of_ctxs rfl) (injectMarkers _ h))
  · exact refl s

theorem launchFault (s : State) (h : Word64) (kind q col : Nat) (r : FaultRec) : s.SameFails (s.launchFault h kind q col r) := by
  unfold State.launchFault
  split
  · exact ite (postFault s q col r) (ite (refl s) ((startEnd s h 3 kind).trans (postFault _ q col r)))
  · exact postFault s q col r

theorem settle (s : State) (c : CtxId) : s.SameFails (s.settle c) := of_staysAt (StaysAt.settle s c)

/-- Threads moved to another sub-gang keep their failed operations. -/
theorem park (s : State) (c : CtxId) (m : Word64) (t : TrapInfo) (hdr : Word64) (idx : Nat) : s.SameFails (s.park c m t hdr idx).1 := by
  unfold State.park
  dsimp only
  split
  · refine trans (trans (of_ctxs ?_) (setCtx _ ?_)) (settle _ c)
    · rfl
    · exact (((Ctx.SameFails.toSub _ m _).trans (Ctx.SameFails.putRecSlots _ _ _ _)).trans (Ctx.SameFails.setSub _ _ _)).trans
        (Ctx.SameFails.dropSubs _)
  · split
    · exact trans (setCtx s (((Ctx.SameFails.toSub _ m _).trans (Ctx.SameFails.setSub _ _ _)).trans (Ctx.SameFails.dropSubs _)))
        (settle _ c)
    · exact modCtx s c fun x => Ctx.SameFails.stall x m _

theorem gangTrap (s : State) (c : CtxId) (m : Word64) (t : TrapInfo) (hdr : Word64) (idx : Nat) : s.SameFails (s.gangTrap c m t hdr idx) := by
  refine ite (trans (modCtx s c fun x => Ctx.SameFails.stall x m _) (launchFault _ _ _ _ _ _)) ?_
  have hpark := park s c m t hdr idx
  generalize s.park c m t hdr idx = p at hpark ⊢
  obtain ⟨s1, _ | j⟩ := p
  · exact hpark.trans (postFault s1 _ _ _)
  · exact hpark.trans (postFault s1 _ _ _)

theorem ccTrap (s : State) (n : Nat) (t : TrapInfo) (hdr : Word64) (idx : Nat) (resume : Word64 × Nat) :
    s.SameFails (s.ccTrap n t hdr idx resume) := by
  have hhalt : ∀ u : State, u.SameFails (u.modCtx (.cc n) fun x => { x with run := .halted }) := fun u => modCtx u _ fun _ _ => rfl
  refine ite ?_ ?_
  · exact ite ((postFault s n n _).trans (hhalt _)) (((postFault s n n _).trans (hhalt _)).trans (machineEvent _ _ _ _ _ _ _))
  · refine trans (trans (of_ctxs ?_) (modCtx _ (.cc n) fun x => ?_)) (postFault _ n n _)
    · rfl
    · exact Ctx.SameFails.modLane x 0 fun _ => rfl

/-- A trap keeps the failed operations of its threads. -/
theorem takeTrap (s : State) (c : CtxId) (m : Word64) (t : TrapInfo) (h : Header) (hdr : Word64) (idx : Nat) :
    s.SameFails (s.takeTrap c m t h hdr idx) := by
  unfold State.takeTrap
  refine ite (refl s) ?_
  cases c with
  | cc n => exact ccTrap s n t hdr idx _
  | gang g => exact gangTrap s (.gang g) m t hdr idx
/-! ### Drift regions -/

theorem putHome (s : State) (h : DriftHome) : s.SameFails (s.putHome h) := of_ctxs rfl

theorem send (s : State) (m : DMsg) : s.SameFails (s.send m) := of_ctxs rfl

theorem putQuery (s : State) (q : DQuery) : s.SameFails (s.putQuery q) := of_ctxs rfl

theorem forceDrain (s : State) (region reason : Nat) (g : Grant) : s.SameFails (s.forceDrain region reason g) :=
  ite (refl s) (of_ctxs rfl)

theorem grantShare (s : State) (region cache : Nat) : s.SameFails (s.grantShare region cache) := of_ctxs rfl

theorem serveReq (s : State) (region cache : Nat) (reclaimed : Option (Nat × Nat)) :
    s.SameFails (s.serveReq region cache reclaimed).1 := by
  unfold State.serveReq
  dsimp only
  split
  · exact send s _
  · split
    · exact refl s
    · split
      · split
        · exact refl s
        · exact grantShare s region cache
      · split
        · exact grantShare s region cache
        · split
          · exact grantShare s region cache
          · exact (forceDrain s region 0 _).trans (putHome _ _)

theorem serveReqs (s : State) (region : Nat) : s.SameFails (s.serveReqs region) := by
  refine foldl (fun u r => ?_) _ s
  have h := serveReq u region r.1 r.2
  generalize u.serveReq region r.1 r.2 = p at h ⊢
  obtain ⟨v, _ | _⟩ := p
  · exact h
  · exact h.trans (putHome v _)

theorem tellDone (s : State) (q : DQuery) : s.SameFails (s.tellDone q) := ite (of_ctxs rfl) (of_ctxs rfl)

theorem advance (s : State) : s.SameFails s.advance := by
  refine foldl (fun u q => ?_) _ s
  exact ite (refl u) (ite ((putQuery u _).trans (putHome _ _)) ((putQuery u _).trans (send _ _)))

theorem answer (s : State) (q : DQuery) : s.SameFails (s.answer q) := by
  have hread : s.SameFails (s.readHome q.pa (s.elemBytes q.region)) := of_ctxs (s.readHome_ctxs _ _)
  have hquery : ∀ u : State, u.SameFails (if q.op.isNone then
      { u with dr := { u.dr with queries := u.dr.queries.filter fun p => p.id ≠ q.id } } else u.putQuery { q with
        stage := 4, value := u.homeNat q.pa (s.elemBytes q.region), own := deltasOf (u.ownDeltas q.loader q.region) q.pa }) :=
    fun u => ite (of_ctxs (by rfl)) (putQuery u _)
  exact ((hread.trans (hquery _)).trans (ite (refl _) (tellDone _ q))).trans (advance _)

theorem serveHead (s : State) (region : Nat) : s.SameFails (s.serveHead region) := by
  unfold State.serveHead
  dsimp only
  split
  · exact ite (refl s) ((foldl (fun u g => forceDrain u region _ g) _ s).trans (putQuery _ _))
  · exact refl s

theorem clearHead {s t : State} {region : Nat} (h : s.clearHead region = some t) : s.SameFails t := by
  unfold State.clearHead at h
  dsimp only at h
  obtain ⟨q, -, hq⟩ := Option.bind_eq_some_iff.mp h
  split at hq
  · cases hq
  · cases hq
    exact (putHome s _).trans (ite (answer _ q) ((putQuery _ _).trans (send _ _)))

theorem serveQueue (region n : Nat) : ∀ s : State, s.SameFails (State.serveQueue region n s) := by
  induction n with
  | zero => exact refl
  | succ n ih =>
    intro s
    unfold State.serveQueue
    dsimp only
    split
    next heq => exact ((serveHead s region).trans (clearHead heq)).trans (ih _)
    next => exact serveHead s region

/-- A column core's word that ends keeps every failed operation. -/
theorem passWord (s : State) (n : Nat) (m : Word64) : s.SameFails (s.passWord (.cc n) m) := by
  unfold State.passWord
  extract_lets x ls pcOf x1 hs s1
  have h1 : s.SameFails (s.setCtx (.cc n) x1) := setCtx s (Ctx.SameFails.modLanes ls (by exact fun _ _ => rfl) x)
  exact trans (h1.trans (foldl (fun u h => of_staysAt (StaysAt.arrive u _ _ h)) hs _)) (settle s1 (.cc n))

theorem endRetire (s : State) (region : Nat) : s.SameFails (s.endRetire region) := by
  refine ite (trans (of_ctxs ?_) (foldl (fun u n => ite (passWord u n 1) (refl u)) _ _)) (refl s)
  rfl

theorem settleHome (s : State) (region : Nat) : s.SameFails (s.settleHome region) :=
  ((serveQueue region _ s).trans (serveReqs _ region)).trans (endRetire _ region)

theorem retireDrift (s : State) : s.SameFails s.retireDrift :=
  ite (((putHome s _).trans (foldl (fun u g => forceDrain u _ 3 g) _ _)).trans (settleHome _ _)) (refl s)

theorem commitDrift (s : State) (v : Word64) : s.SameFails (s.commitDrift v) := ite (of_ctxs rfl) (of_ctxs rfl)

/-! ### Writes of system registers -/

theorem sysPut (s : State) (reg inst : Nat) (v : Word64) : s.SameFails (s.sysPut reg inst v) := of_ctxs rfl

theorem writeCalendar (s : State) (reg : Nat) (v : Word64) : s.SameFails (s.writeCalendar reg v) := by
  refine trans (ite (sysPut s _ _ _) (refl s)) (ite (of_ctxs ?_) (refl _))
  rfl

theorem wakeModule (s : State) : s.SameFails s.wakeModule := ite (of_ctxs rfl) (refl s)

theorem writeMlattol (s : State) (v : Word64) : s.SameFails (s.writeMlattol v) :=
  trans (of_ctxs (by rfl)) (ite (wakeModule _) (refl _))

theorem wakeCore (s : State) (n : Nat) : s.SameFails (s.wakeCore n) := ite (refl s) (modCtx s _ fun _ _ => rfl)

theorem wakeWrite (s : State) (v : Word64) (host : Bool) : s.SameFails (s.wakeWrite v host) := by
  refine trans (ite (wakeModule s) (refl s)) (ite (refl _) (foldl (fun u n => ite ?_ (refl u)) _ _))
  exact trans (ite (of_ctxs (by rfl)) (refl u)) (wakeCore _ n)

theorem writeMigctl (s : State) (v : Word64) : s.SameFails (s.writeMigctl v) := ite (of_ctxs rfl) (of_ctxs rfl)

theorem startOut (s : State) (h : Word64) : s.SameFails (s.startOut h) := by
  unfold State.startOut
  split
  · refine ite (refl s) (trans (trans (of_ctxs ?_) (foldl (fun u b => of_ctxs ?_) _ _)) (injectMarkers _ h))
    · rfl
    · rfl
  · exact refl s

theorem lswitchWrite (s : State) (col : Nat) (v : Word64) : s.SameFails (s.lswitchWrite col v) := by
  unfold State.lswitchWrite
  extract_lets old h s1 op la s2
  have h1 : s.SameFails s1 := sysPut s _ _ _
  have h2 : s.SameFails s2 := h1.trans (of_ctxs rfl)
  refine ite (sysPut s _ _ _) (ite h1 ?_)
  clear_value s2 op
  split
  · exact h2.trans (startOut s2 h)
  · exact h2.trans (of_ctxs rfl)
  · exact h2.trans (startEnd s2 h 2 0)

theorem lprioWrite (s : State) (v : Word64) : s.SameFails (s.lprioWrite v) := by
  unfold State.lprioWrite
  dsimp only
  split <;> exact of_ctxs rfl

theorem flushThrottle (s : State) (col : Nat) : s.SameFails (s.flushThrottle col) := by
  unfold State.flushThrottle
  split
  · exact ite (trans (of_ctxs (by rfl)) (evqWrite _ col col _)) (refl s)
  · exact refl s

theorem writeEvqctl (s : State) (v : Word64) : s.SameFails (s.writeEvqctl v) :=
  ite (refl s) ((sysPut s _ _ _).trans (ite (flushThrottle _ _) (refl _)))

theorem writeBinding (s : State) (col : Nat) (v : Word64) : s.SameFails (s.writeBinding col v) := ite (sysPut s _ _ _) (sysPut s _ _ _)

theorem writeRinght (s : State) (v : Word64) : s.SameFails (s.writeRinght v) := ite (of_ctxs rfl) (of_ctxs rfl)

theorem writeRingmap (s : State) (v : Word64) : s.SameFails (s.writeRingmap v) := ite (of_ctxs rfl) (of_ctxs rfl)

/-- A write of a system register keeps every thread's failed operations: the cases in the order of `State.writeReg`. -/
theorem writeReg (s : State) (reg col : Nat) (v : Word64) : s.SameFails (s.writeReg reg col v) := by
  have put : ∀ r i x, s.SameFails (s.sysPut r i x) := sysPut s
  unfold State.writeReg
  refine ite (put _ _ _) (ite (put _ _ _) (ite (put _ _ _) (ite (modCtx s _ fun _ _ => rfl) (ite (put _ _ _) (ite (put _ _ _)
    (ite (writeCalendar s reg v) (ite (put _ _ _) (ite (writeMlattol s v) (ite (wakeWrite s v false) (ite (put _ _ _) (ite (put _ _ _)
    (ite (writeMigctl s v) (ite (ite (refl s) (put _ _ _)) (ite (of_ctxs rfl) (ite (of_ctxs rfl) (ite (put _ _ _)
    (ite (ite (commitDrift s v) (retireDrift s)) (ite (of_ctxs rfl) (ite (put _ _ _) (ite (ite (refl s) (put _ _ _)) (ite (put _ _ _)
    (ite (writeBinding s col v) (ite (lprioWrite s v) (ite (lswitchWrite s col v) (ite (ite (refl s) (put _ _ _)) (ite (put _ _ _)
    (ite (ite (refl s) (put _ _ _)) (ite (writeEvqctl s v) (ite (put _ _ _) (ite ?_ (ite (of_ctxs rfl) (ite (put _ _ _)
    (ite (writeRinght s v) (ite (writeRingmap s v) (refl s)))))))))))))))))))))))))))))))))))
  split
  · exact ite (of_ctxs rfl) (refl s)
  · exact refl s

end State.SameFails

end Sys2Proof.Machine
end

section
/-! sysrd and syswr (19 R400, R402): what their effects answer, case by case, and what they leave. -/

set_option Elab.async false

namespace Sys2Proof.Machine

/-- The source lane of a word with a participant. -/
theorem lowestLane_eq_first {is : Issue} (h : is.act ≠ 0) : lowestLane is.act = some is.first := by
  obtain ⟨l, hl⟩ := lowestLane_isSome h
  rw [Issue.first, hl]; rfl

theorem first_lt {is : Issue} (h : is.act ≠ 0) : is.first < 64 := (mem_lanesOf.mp (mem_lowestLane (lowestLane_eq_first h))).1

/-- A source fits in 64 bits. -/
theorem Issue.src_lt (is : Issue) (s : State) (wide : Bool) (o : Opd) {l : Nat} (hl : l < 64) : is.src s wide o l < 2 ^ 64 := by
  have hword : ∀ w : Word, w.toNat < 2 ^ 64 := fun w => w.isLt.trans (by decide)
  cases o with
  | g r =>
    have hlo := (is.c.reg l r).isLt
    have hhi := (is.c.reg l (r + 1)).isLt
    simp only [Issue.src, Ctx.operand, Ctx.pair]
    split <;> omega
  | k n =>
    have hk := (SMap.get 0 is.c.k n).isLt
    simp only [Issue.src, Ctx.operand]
    split <;> omega
  | p n =>
    simp only [Issue.src, Ctx.operand, bit]
    split <;> omega
  | lane => exact hl.trans (by decide)
  | team => exact hword _
  | gtime => exact (Nat.mod_lt _ (by decide)).trans (by decide : 2 ^ 32 < 2 ^ 64)
  | tid => exact hword _
  | cx => exact hword _
  | cy => exact hword _
  | zero => exact (by decide : 0 < 2 ^ 64)
  | imm => exact (by decide : 0 < 2 ^ 64)

/-- The value that syswr writes: that of the source lane (19 R401). -/
def Issue.written (is : Issue) (s : State) (q : QWord) (b32 : Bool) : Word64 := BitVec.ofNat 64 (is.src s (!b32) q.a is.first)

theorem Issue.written_low (is : Issue) (s : State) (q : QWord) (b32 : Bool) :
    (is.written s q b32).getLsbD 0 = decide (is.src s (!b32) q.a is.first % 2 = 1) := by
  rw [Issue.written, BitVec.getLsbD_ofNat, Nat.testBit_zero]; rfl

theorem Issue.written_high {is : Issue} (h : is.act ≠ 0) (s : State) (q : QWord) (b32 : Bool) :
    (is.written s q b32).getLsbD 63 = decide (2 ^ 63 ≤ is.src s (!b32) q.a is.first) := by
  have hlt := is.src_lt s (!b32) q.a (first_lt h)
  rw [Issue.written, BitVec.getLsbD_ofNat, Nat.testBit_eq_decide_div_mod_eq, decide_eq_true (show 63 < 64 by decide), Bool.true_and, decide_eq_decide]
  omega

/-! ### Effects -/

/-- A word that its level does not allow. -/
theorem privilegeTrap_eq (is : Issue) (s : State) : is.privilegeTrap s =
    ⟨s.takeTrap is.ctx is.act ⟨0x0B, 0, 255, 0, false, false⟩ is.h is.hdr is.idx, is.act, [], false⟩ := rfl

section Read
variable {q : QWord} {reg : Nat} {b32 : Bool} {is : Issue} {s : State}

theorem sysrdEff_privileged (h : s.isSup is.ctx = false) (hr : userReads reg = false) : sysrdEff q reg b32 is s = some (is.privilegeTrap s) := by
  rw [sysrdEff, h, hr]; rfl

theorem sysrdEff_waits (hf : is.c.floating = true) : sysrdEff q SysReg.fpflags b32 is s = none := by
  have hlevel : (!s.isSup is.ctx && !userReads SysReg.fpflags) = false := by rw [show userReads SysReg.fpflags = true from rfl]; simp
  rw [sysrdEff, hlevel, if_neg Bool.false_ne_true, if_pos ⟨rfl, hf⟩]

theorem sysrdEff_reads (h : s.isSup is.ctx = true ∨ userReads reg = true) (hf : reg = SysReg.fpflags → is.c.floating = false) :
    sysrdEff q reg b32 is s = some ⟨(s.readReg is.ctx reg).1.gives is 8 q.d (if b32 then 1 else 2)
      fun _ => (s.readReg is.ctx reg).2.toNat, 0, [], false⟩ := by
  have hlevel : (!s.isSup is.ctx && !userReads reg) = false := by rcases h with h | h <;> simp [h]
  rw [sysrdEff, hlevel, if_neg Bool.false_ne_true, if_neg (fun hc => by rw [hf hc.1] at hc; exact Bool.false_ne_true hc.2)]
  rfl

end Read

section Write
variable {q : QWord} {reg : Nat} {b32 : Bool} {is : Issue} {s : State} (ha : is.act ≠ 0)
include ha

theorem syswrEff_eq : syswrEff q reg b32 is s = some (
    if !s.isSup is.ctx && !userWrites reg then is.privilegeTrap s
    else if reg = SysReg.ashape then .next s
    else if reg = SysReg.fpflags then .next (s.modCtx is.ctx fun c => { c with fp := c.fp &&& ~~~((is.written s q b32).setWidth 6) })
    else if reg = SysReg.cstat ∧ !(is.written s q b32).getLsbD 0 then .held (s.toUser (s.colOf is.ctx)) is.path
    else if reg = SysReg.drent0 ∧ !(is.written s q b32).getLsbD 63 then retireEff is s
    else .next (s.writeReg reg (s.colOf is.ctx) (is.written s q b32))) := by
  rw [syswrEff, lowestLane_eq_first ha]; rfl

theorem syswrEff_privileged (h : s.isSup is.ctx = false) (hw : userWrites reg = false) :
    syswrEff q reg b32 is s = some (is.privilegeTrap s) := by
  rw [syswrEff_eq ha, h, hw]; rfl

/-- ctl.ashape takes no value (12 R275). -/
theorem syswrEff_ashape : syswrEff q SysReg.ashape b32 is s = some (.next s) := by
  rw [syswrEff_eq ha, if_neg (by rw [show userWrites SysReg.ashape = true from rfl]; simp), if_pos rfl]

theorem syswrEff_fpflags : syswrEff q SysReg.fpflags b32 is s =
    some (.next (s.modCtx is.ctx fun c => { c with fp := c.fp &&& ~~~((is.written s q b32).setWidth 6) })) := by
  rw [syswrEff_eq ha, if_neg (by rw [show userWrites SysReg.fpflags = true from rfl]; simp), if_neg (by decide), if_pos rfl]

variable (h : s.isSup is.ctx = true)
include h

theorem syswrEff_supervisor (h1 : reg ≠ SysReg.ashape) (h2 : reg ≠ SysReg.fpflags) : syswrEff q reg b32 is s = some (
    if reg = SysReg.cstat ∧ !(is.written s q b32).getLsbD 0 then .held (s.toUser (s.colOf is.ctx)) is.path
    else if reg = SysReg.drent0 ∧ !(is.written s q b32).getLsbD 63 then retireEff is s
    else .next (s.writeReg reg (s.colOf is.ctx) (is.written s q b32))) := by
  rw [syswrEff_eq ha, if_neg (by simp [h]), if_neg h1, if_neg h2]

theorem syswrEff_toUser (hv : is.src s (!b32) q.a is.first % 2 = 0) :
    syswrEff q SysReg.cstat b32 is s = some (.held (s.toUser (s.colOf is.ctx)) is.path) := by
  rw [syswrEff_supervisor ha h (by decide) (by decide), if_pos ⟨rfl, by rw [is.written_low]; simp [hv]⟩]

theorem syswrEff_writes (h1 : reg ≠ SysReg.ashape) (h2 : reg ≠ SysReg.fpflags) (h3 : reg ≠ SysReg.drent0)
    (hv : reg = SysReg.cstat → is.src s (!b32) q.a is.first % 2 = 1) :
    syswrEff q reg b32 is s = some (.next (s.writeReg reg (s.colOf is.ctx) (is.written s q b32))) := by
  rw [syswrEff_supervisor ha h h1 h2, if_neg (fun hc => by rw [is.written_low, hv hc.1] at hc; exact absurd hc.2 (by decide)),
    if_neg (fun hc => h3 hc.1)]

theorem syswrEff_commits (hv : 2 ^ 63 ≤ is.src s (!b32) q.a is.first) :
    syswrEff q SysReg.drent0 b32 is s = some (.next (s.commitDrift (is.written s q b32))) := by
  have hbit : (is.written s q b32).getLsbD 63 = true := by rw [is.written_high ha]; exact decide_eq_true hv
  rw [syswrEff_supervisor ha h (by decide) (by decide), if_neg (fun hc => absurd hc.1 (by decide)), if_neg (by simp [hbit])]
  have hreg : s.writeReg SysReg.drent0 (s.colOf is.ctx) (is.written s q b32) =
      if (is.written s q b32).getLsbD 63 then s.commitDrift (is.written s q b32) else s.retireDrift := rfl
  rw [hreg, if_pos hbit]

theorem syswrEff_retires (hv : is.src s (!b32) q.a is.first < 2 ^ 63) : syswrEff q SysReg.drent0 b32 is s = some (retireEff is s) := by
  rw [syswrEff_supervisor ha h (by decide) (by decide), if_neg (fun hc => absurd hc.1 (by decide)),
    if_pos ⟨rfl, by rw [is.written_high ha]; simpa using hv⟩]

end Write

/-! ### What they leave -/

theorem State.SameFails.gives (s : State) (is : Issue) (lat : Nat) (d : Dst) (n : Nat) (v : Nat → Nat) (l : Nat) :
    (((s.gives is lat d n v).ctx is.ctx).lane l).fails = ((s.ctx is.ctx).lane l).fails := later_fails s is.ctx lat _ 0 false l

theorem State.SameFails.toUser (s : State) (n : Nat) : s.SameFails (s.toUser n) :=
  (sysPut s _ _ _).trans (modCtx _ (.cc n) fun x => Ctx.SameFails.modLane x 0 fun _ => rfl)

theorem State.SameFails.block (s : State) (is : Issue) (m : Word64) (f : Nat → Wait) : s.SameFails (s.block is m f) :=
  modCtx s _ fun x => Ctx.SameFails.modLanes (lanesOf m) (by exact fun _ _ => rfl) x

/-- A word whose effect answers a state with the failed operations kept, wherever its condition holds. -/
theorem doesBut_of_fails_kept {i : Instr} {lat : Nat} {eff : Issue → State → Option Done} {pre : Issue → State → Prop}
    {u : Issue → State → State} {stay : Issue → State → Word64} (he : ∀ s, exec i s = issueWith i lat eff s)
    (hk : ∀ (is : Issue) (s : State) l, (((u is s).ctx is.ctx).lane l).fails = ((s.ctx is.ctx).lane l).fails)
    (h : ∀ is s, is.act ≠ 0 → pre is s → eff is s = some ⟨u is s, stay is s, [], false⟩) : DoesBut i pre u stay := by
  intro s r hr _ hm ha hp hu
  exact exec_passes (he s) hr hm ha (h _ _ (act_ne_zero ha) hp) (fun l => (hk _ s l).trans (hm.settled l)) hu

section Words
variable (q : QWord) (reg : Nat) (b32 : Bool)

theorem does_sysrd : Does (.sysrd q reg b32) (fun is s => (s.isSup is.ctx = true ∨ userReads reg = true) ∧
      (reg = SysReg.fpflags → is.c.floating = false)) fun is s =>
    (s.readReg is.ctx reg).1.gives is 8 q.d (if b32 then 1 else 2) fun _ => (s.readReg is.ctx reg).2.toNat :=
  doesBut_of_fails_kept (fun _ => rfl) (fun is s l => State.SameFails.gives (s.readReg is.ctx reg).1 is 8 q.d _ _ l)
    fun _ _ _ hp => sysrdEff_reads hp.1 hp.2

theorem waits_sysrd_fpflags : Waits (.sysrd q SysReg.fpflags b32) fun is _ => is.c.floating = true :=
  waits_of (fun _ => rfl) fun _ _ _ _ _ hp => sysrdEff_waits hp

theorem doesBut_sysrd_privileged : DoesBut (.sysrd q reg b32) (fun is s => s.isSup is.ctx = false ∧ userReads reg = false)
    (fun is s => s.takeTrap is.ctx is.act ⟨0x0B, 0, 255, 0, false, false⟩ is.h is.hdr is.idx) fun is _ => is.act :=
  doesBut_of_fails_kept (fun _ => rfl) (fun is s => State.SameFails.takeTrap s _ _ _ _ _ _ is.ctx)
    fun is s _ hp => (sysrdEff_privileged hp.1 hp.2).trans (congrArg some (privilegeTrap_eq is s))

theorem doesBut_syswr_privileged : DoesBut (.syswr q reg b32) (fun is s => s.isSup is.ctx = false ∧ userWrites reg = false)
    (fun is s => s.takeTrap is.ctx is.act ⟨0x0B, 0, 255, 0, false, false⟩ is.h is.hdr is.idx) fun is _ => is.act :=
  doesBut_of_fails_kept (fun _ => rfl) (fun is s => State.SameFails.takeTrap s _ _ _ _ _ _ is.ctx)
    fun is s ha hp => (syswrEff_privileged ha hp.1 hp.2).trans (congrArg some (privilegeTrap_eq is s))

theorem does_syswr_ashape : Does (.syswr q SysReg.ashape b32) always fun _ s => s :=
  doesBut_of_fails_kept (fun _ => rfl) (fun _ _ _ => rfl) fun _ _ ha _ => syswrEff_ashape ha

theorem does_syswr_fpflags : Does (.syswr q SysReg.fpflags b32) always fun is s =>
    s.modCtx is.ctx fun c => { c with fp := c.fp &&& ~~~((BitVec.ofNat 64 (is.src s (!b32) q.a is.first)).setWidth 6) } :=
  doesBut_of_fails_kept (fun _ => rfl) (fun is s => State.SameFails.modCtx s is.ctx (by exact fun _ _ => rfl) is.ctx)
    fun _ _ ha _ => syswrEff_fpflags ha

theorem doesBut_syswr_toUser (n : Nat) : DoesBut (.syswr q SysReg.cstat b32) (fun is s => is.ctx = .cc n ∧ s.isSup is.ctx = true ∧
      is.src s (!b32) q.a is.first % 2 = 0) (fun _ s => s.toUser n) fun is _ => is.path := by
  refine doesBut_of_fails_kept (fun _ => rfl) (fun is s => State.SameFails.toUser s n is.ctx) fun is s ha hp => ?_
  obtain ⟨hctx, hsup, hv⟩ := hp
  have hcol : s.colOf is.ctx = n := by rw [hctx]; rfl
  rw [← hcol]
  exact syswrEff_toUser ha hsup hv

theorem does_syswr_writes (h1 : reg ≠ SysReg.ashape) (h2 : reg ≠ SysReg.fpflags) (h3 : reg ≠ SysReg.drent0) :
    Does (.syswr q reg b32) (fun is s =>
      s.isSup is.ctx = true ∧ (reg = SysReg.cstat → is.src s (!b32) q.a is.first % 2 = 1)) fun is s =>
    s.writeReg reg (s.colOf is.ctx) (BitVec.ofNat 64 (is.src s (!b32) q.a is.first)) :=
  doesBut_of_fails_kept (fun _ => rfl) (fun is s => State.SameFails.writeReg s _ _ _ is.ctx)
    fun _ _ ha hp => syswrEff_writes ha hp.1 h1 h2 h3 hp.2

theorem does_syswr_commits : Does (.syswr q SysReg.drent0 false) (fun is s =>
      s.isSup is.ctx = true ∧ 2 ^ 63 ≤ is.src s true q.a is.first) fun is s =>
    s.commitDrift (BitVec.ofNat 64 (is.src s true q.a is.first)) :=
  doesBut_of_fails_kept (fun _ => rfl) (fun is s => State.SameFails.commitDrift s _ is.ctx)
    fun _ _ ha hp => syswrEff_commits ha hp.1 hp.2

/-- No entry under the index: there is nothing to retire. -/
theorem does_syswr_retires_none : Does (.syswr q SysReg.drent0 b32) (fun is s =>
      s.isSup is.ctx = true ∧ is.src s (!b32) q.a is.first < 2 ^ 63 ∧ (s.driftEntry s.driftIdx).valid = false) fun _ s => s := by
  refine doesBut_of_fails_kept (fun _ => rfl) (fun _ _ _ => rfl) fun is s ha hp => ?_
  obtain ⟨hsup, hv, hentry⟩ := hp
  rw [syswrEff_retires ha hsup hv, retireEff, hentry]
  rfl

/-- The word holds its path until the region under the index is drained. -/
theorem doesBut_syswr_retires : DoesBut (.syswr q SysReg.drent0 b32) (fun is s =>
      s.isSup is.ctx = true ∧ is.src s (!b32) q.a is.first < 2 ^ 63 ∧ (s.driftEntry s.driftIdx).valid = true)
    (fun is s => (s.block is is.path fun _ => .retire s.driftIdx).retireDrift) fun is _ => is.path := by
  refine doesBut_of_fails_kept (fun _ => rfl)
    (fun is s => ((State.SameFails.block s is _ _).trans (State.SameFails.retireDrift _)) is.ctx) fun is s ha hp => ?_
  obtain ⟨hsup, hv, hentry⟩ := hp
  rw [syswrEff_retires ha hsup hv, retireEff, hentry]
  rfl

end Words

/-- Settles O43: what each word's effect answers under its clause's condition (the `…Eff_…` lemmas above), with the failed operations of
the context kept by that answer (`State.SameFails`), so that the word passes as `issueWith` says. -/
theorem systemRegisterWords : Obligations.SystemRegisterWords :=
  ⟨does_sysrd, waits_sysrd_fpflags, doesBut_sysrd_privileged, doesBut_syswr_privileged, does_syswr_ashape, does_syswr_fpflags,
    doesBut_syswr_toUser, does_syswr_writes, does_syswr_commits, does_syswr_retires_none, doesBut_syswr_retires⟩

end Sys2Proof.Machine
end

section
/-! O55: a word's fields read back from its number, a row's fields from its word, and the instruction from its row. -/

set_option Elab.async false

namespace Sys2Proof

/-! ### The fields of a word (02 R53) -/

/-- Every field has the width that R53 gives it. -/
structure Raw.InRange (r : Raw) : Prop where
  cls : r.cls < 16
  op : r.op < 64
  p : r.p < 8
  n : r.n < 2
  pd : r.pd < 8
  sa : r.sa < 8
  se : r.se < 2
  wm : r.wm < 256
  g : r.g < 8
  d : r.d < 256
  a : r.a < 256
  b : r.b < 256
  tail : r.tail < 2 ^ 24

theorem Raw.toNat_lt {r : Raw} (h : r.InRange) : r.toNat < 2 ^ 80 := by
  obtain ⟨hcls, hop, hp, hn, hpd, hsa, hse, hwm, hg, hd, ha, hb, htail⟩ := h
  unfold Raw.toNat
  omega

theorem Raw.ofNat_toNat {r : Raw} (h : r.InRange) : Raw.ofNat r.toNat = r := by
  obtain ⟨hcls, hop, hp, hn, hpd, hsa, hse, hwm, hg, hd, ha, hb, htail⟩ := h
  cases r
  simp only [Raw.ofNat, Raw.toNat, Raw.mk.injEq] at *
  refine ⟨?_, ?_, ?_, ?_, ?_, ?_, ?_, ?_, ?_, ?_, ?_, ?_, ?_⟩ <;> omega


theorem bit_lt (b : Bool) : bit b < 2 := by cases b <;> decide

theorem decide_eq_of_bit {n : Nat} {b : Bool} (h : n = bit b) : decide (n = 1) = b := by rw [h]; cases b <;> rfl

/-! ### Codes and what they name (01 R18, R19; 02 R56, R58, R59) -/

theorem Opd.code_lt {o : Opd} (h : o.ok = true) : o.code < 256 := by
  cases o with
  | g n | k n | p n => simp only [Opd.ok, decide_eq_true_eq] at h; simp only [Opd.code]; omega
  | lane | team | gtime | tid | cx | cy | zero | imm => decide

theorem Opd.ofCode_code {o : Opd} (h : o.ok = true) : Opd.ofCode o.code = o := by
  cases o with
  | g n => simp only [Opd.ok, decide_eq_true_eq] at h; rw [Opd.ofCode, Opd.code, if_pos (by omega)]
  | k n =>
    simp only [Opd.ok, decide_eq_true_eq] at h
    rw [Opd.ofCode, Opd.code, if_neg (by omega), if_pos (by omega), Nat.add_sub_cancel_left]
  | p n =>
    simp only [Opd.ok, decide_eq_true_eq] at h
    rw [Opd.ofCode, Opd.code, if_neg (by omega), if_neg (by omega), if_pos (by omega), Nat.add_sub_cancel_left]
  | lane | team | gtime | tid | cx | cy | zero | imm => rfl

theorem Dst.code_lt {d : Dst} (h : d.ok = true) : d.code < 256 := by
  cases d with
  | g n | p n => simp only [Dst.ok, decide_eq_true_eq] at h; simp only [Dst.code]; omega
  | none => decide

theorem Dst.ofCode_code {d : Dst} (h : d.ok = true) : Dst.ofCode d.code = some d := by
  cases d with
  | g n => simp only [Dst.ok, decide_eq_true_eq] at h; rw [Dst.ofCode, Dst.code, if_pos (by omega)]
  | p n =>
    simp only [Dst.ok, decide_eq_true_eq] at h
    rw [Dst.ofCode, Dst.code, if_neg (by omega), if_pos (by simp; omega), Nat.add_sub_cancel_left]
  | none => rfl

theorem Ty.code_lt (t : Ty) : t.code < 15 := by cases t <;> decide
theorem Ty.ofCode_code (t : Ty) : Ty.ofCode t.code = some t := by cases t <;> rfl
theorem MFmt.code_lt (f : MFmt) : f.code < 16 := by cases f <;> decide
theorem MFmt.ofCode_code (f : MFmt) : MFmt.ofCode f.code = some f := by cases f <;> rfl
theorem RedOp.code_lt (o : RedOp) : o.code < 6 := by cases o <;> decide
theorem RedOp.ofCode_code (o : RedOp) : RedOp.ofCode o.code = some o := by cases o <;> rfl
theorem Rnd.code_lt (r : Rnd) : r.code < 4 := by cases r <;> decide
theorem Rt.code_lt (r : Rt) : r.code < 4 := by cases r <;> decide
theorem Ord.code_lt (o : Ord) : o.code < 4 := by cases o <;> decide
theorem Scope.code_lt (c : Scope) : c.code < 8 := by cases c <;> decide

/-- A code's low bits alone name what it stands for. -/
theorem Rnd.ofCode_of_mod {r : Rnd} {n : Nat} (h : n % 4 = r.code) : Rnd.ofCode n = r := by
  rw [Rnd.ofCode, h]; cases r <;> rfl
theorem Rt.ofCode_of_mod {r : Rt} {n : Nat} (h : n % 4 = r.code) : Rt.ofCode n = r := by
  rw [Rt.ofCode, h]; cases r <;> rfl
theorem Ord.ofCode_of_mod {o : Ord} {n : Nat} (h : n % 4 = o.code) : Ord.ofCode n = o := by
  rw [Ord.ofCode, h]; cases o <;> rfl
theorem Scope.ofCode_of_mod {c : Scope} {n : Nat} (h : n % 8 = c.code) : Scope.ofCode n = c := by
  rw [Scope.ofCode, h]; cases c <;> rfl

/-! ### What a checked row says of its fields -/

theorem SK.ok_of_admits {k : SK} {o : Opd} (h : k.admits o = true) : o.ok = true := (Bool.and_eq_true_iff.mp h).1

theorem DK.ok_of_admits {k : DK} {d : Dst} (h : k.admits d = true) : d.ok = true := (Bool.and_eq_true_iff.mp h).1

/-- The parts of a row's check. -/
theorem Row.check_parts {r : Row} (h : r.check = true) :
    (r.c.p < 8 ∧ r.c.pd < 8 ∧ r.c.sa < 8 ∧ r.c.wm < 256 ∧ r.c.g < 8) ∧ r.d.ok = true ∧ r.a.ok = true ∧ r.b.ok = true ∧
      r.s.ok = true ∧ r.ok = true := by
  simp only [Row.check, Row.ctlOk, Bool.and_eq_true, decide_eq_true_eq] at h
  obtain ⟨⟨⟨⟨⟨hctl, hd⟩, ha⟩, hb⟩, hs⟩, hok⟩ := h
  exact ⟨hctl.1.1.1.1.1.1.1, DK.ok_of_admits hd, SK.ok_of_admits ha, SK.ok_of_admits hb, SK.ok_of_admits hs, hok⟩

theorem Row.raw_inRange {r : Row} (h : r.check = true) (hcls : r.cls < 16) (hop : r.op < 64) (htail : r.tail < 2 ^ 24) :
    r.raw.InRange := by
  obtain ⟨⟨hp, hpd, hsa, hwm, hg⟩, hd, ha, hb, -, -⟩ := Row.check_parts h
  exact ⟨hcls, hop, hp, bit_lt _, hpd, hsa, bit_lt _, hwm, hg, Dst.code_lt hd, Opd.code_lt ha, Opd.code_lt hb, htail⟩

theorem Row.raw_ctl (r : Row) : r.raw.ctl = r.c := by
  have hn : decide (r.raw.n = 1) = r.c.n := decide_eq_of_bit rfl
  have hse : decide (r.raw.se = 1) = r.c.se := decide_eq_of_bit rfl
  rw [Raw.ctl, hn, hse]
  rfl

theorem Row.raw_cls (r : Row) : r.raw.cls = r.cls := rfl
theorem Row.raw_op (r : Row) : r.raw.op = r.op := rfl
theorem Row.raw_tail (r : Row) : r.raw.tail = r.tail := rfl

/-! ### The three formats (02 R55): a checked row's word has the row's fields, and reads as what its class and op make of them -/

/-- How the fields of a word stand in its TAIL: T, M, or one of the formats that leave TAIL to the op. -/
inductive Format
  | t | q | m | reserved

/-- The format of a class and op (02 R55; 03 R72). -/
def formatOf (cls op : Nat) : Format :=
  match cls with
  | 0x0 => if [0x20, 0x21, 0x24, 0x2C, 0x2D].contains op then .q else .t
  | 0x1 => if [0x13, 0x14, 0x15, 0x20, 0x21, 0x22, 0x26, 0x27, 0x28, 0x29, 0x2A].contains op then .q else .t
  | 0x2 | 0x3 | 0x4 => .t
  | 0x5 => if [0x20, 0x21, 0x22, 0x23].contains op then .q else .t
  | 0x6 | 0x7 => .m
  | 0x8 => if op < 8 then .m else .t
  | 0x9 => .q
  | 0xA => if [0x00, 0x01, 0x03, 0x08, 0x09, 0x13, 0x14].contains op then .q else .t
  | 0xB => if [0x00, 0x01, 0x09, 0x0A, 0x0B, 0x0C, 0x0D].contains op then .q else .t
  | _ => .reserved

/-- The instruction that a class and op make of the fields of a T-format word. -/
def parseT (cls op m : Nat) (t : TWord) : Option Instr :=
  match cls with
  | 0x0 => parseT0 op m t | 0x1 => parseT1 op m t | 0x2 => parseT2 op m t | 0x3 => parseT3 op m t | 0x4 => parseT4 op m t
  | 0x5 => parseT5 op m t | 0x8 => parseT8 op m t | 0xA => parseTA op m t | 0xB => parseTB op m t | _ => none

/-- The same of a word whose op says what TAIL holds. -/
def parseQ (cls op t24 : Nat) (q : QWord) : Option Instr :=
  match cls with
  | 0x0 => parseQ0 op t24 q | 0x1 => parseQ1 op t24 q | 0x5 => parseQ5 op t24 q | 0x9 => parseQ9 op t24 q
  | 0xA => parseQA op t24 q | 0xB => parseQB op t24 q | _ => none

/-- The same of an M-format word. -/
def parseM (cls op : Nat) (m : MWord) : Option Instr :=
  match cls with
  | 0x6 => parseM6 op m | 0x7 => parseM7 op m | 0x8 => parseM8 op m | _ => none

/-- The decoder reads a word by its format. -/
theorem Raw.parse_eq (r : Raw) : r.parse = match formatOf r.cls r.op with
    | .t => r.tword.bind (parseT r.cls r.op (r.tail % 256))
    | .q => r.qword.bind (parseQ r.cls r.op r.tail)
    | .m => r.mword.bind (parseM r.cls r.op)
    | .reserved => none := by
  obtain ⟨cls, op⟩ := r
  match cls with
  | 0x0 | 0x1 | 0x5 | 0x8 | 0xA | 0xB =>
    simp only [Raw.parse, formatOf]
    split <;> rfl
  | 0x2 | 0x3 | 0x4 | 0x6 | 0x7 | 0x9 | n + 12 => rfl

/-- The word of a row has fields of their widths, and they name the instruction. -/
def Row.Reads (r : Row) (i : Instr) : Prop := r.raw.InRange ∧ r.raw.parse = some i

section Formats
variable {cls op : Nat} {dk : DK} {ak bk sk : SK} {ok pd se nog : Bool} {i : Instr}

section T
variable {t : TWord} {types : List Ty} {rm sat ftz : Bool} {m : Nat}

theorem TWord.row_cls : (t.row cls op dk ak bk sk types rm sat ftz m ok pd se nog).cls = cls := rfl
theorem TWord.row_op : (t.row cls op dk ak bk sk types rm sat ftz m ok pd se nog).op = op := rfl

theorem TWord.row_ok (h : (t.row cls op dk ak bk sk types rm sat ftz m ok pd se nog).check = true) : ok = true ∧ m < 256 := by
  obtain ⟨-, -, -, -, -, hok⟩ := Row.check_parts h
  simp only [TWord.row, Bool.and_eq_true, decide_eq_true_eq] at hok
  exact ⟨hok.1.2, hok.2⟩

/-- TAIL of a T-format word, and its fields. -/
theorem TWord.row_tail (h : (t.row cls op dk ak bk sk types rm sat ftz m ok pd se nog).check = true) :
    let tail := (t.row cls op dk ak bk sk types rm sat ftz m ok pd se nog).tail
    tail < 2 ^ 24 ∧ tail / 65536 % 256 = t.s.code ∧ tail / 4096 % 16 = t.ty.code ∧ tail / 1024 % 4 = t.rnd.code ∧
      tail / 512 % 2 = bit t.sat ∧ tail / 256 % 2 = bit t.ftz ∧ tail % 256 = m := by
  obtain ⟨-, -, -, -, hs, -⟩ := Row.check_parts h
  have hcode : t.s.code < 256 := Opd.code_lt hs
  have hty := t.ty.code_lt
  have hrnd := t.rnd.code_lt
  have hsat := bit_lt t.sat
  have hftz := bit_lt t.ftz
  have hm := (TWord.row_ok h).2
  simp only [TWord.row]
  omega

theorem TWord.row_tword (h : (t.row cls op dk ak bk sk types rm sat ftz m ok pd se nog).check = true) :
    (t.row cls op dk ak bk sk types rm sat ftz m ok pd se nog).raw.tword = some t := by
  obtain ⟨-, hs, hty, hrnd, hsat, hftz, -⟩ := TWord.row_tail h
  obtain ⟨-, hd, ha, hb, hsok, -⟩ := Row.check_parts h
  have hd : Dst.ofCode t.d.code = some t.d := Dst.ofCode_code hd
  have ha : Opd.ofCode t.a.code = t.a := Opd.ofCode_code ha
  have hb : Opd.ofCode t.b.code = t.b := Opd.ofCode_code hb
  have hsok : Opd.ofCode t.s.code = t.s := Opd.ofCode_code hsok
  have hctl := Row.raw_ctl (t.row cls op dk ak bk sk types rm sat ftz m ok pd se nog)
  have etail : (t.row cls op dk ak bk sk types rm sat ftz m ok pd se nog).raw.tail =
    (t.row cls op dk ak bk sk types rm sat ftz m ok pd se nog).tail := rfl
  simp only [Raw.tword, hctl, etail, hs, hsok, hty, Ty.ofCode_code, Rnd.ofCode_of_mod hrnd, decide_eq_of_bit hsat, decide_eq_of_bit hftz]
  simp only [Row.raw, TWord.row, hd, ha, hb]
  rfl

theorem TWord.reads (h : (t.row cls op dk ak bk sk types rm sat ftz m ok pd se nog).check = true)
    (hf : formatOf cls op = .t) (hi : parseT cls op m t = some i) (hcode : cls < 16 ∧ op < 64 := by decide) :
    (t.row cls op dk ak bk sk types rm sat ftz m ok pd se nog).Reads i := by
  obtain ⟨htail, -, -, -, -, -, hm⟩ := TWord.row_tail h
  refine ⟨Row.raw_inRange h hcode.1 hcode.2 htail, ?_⟩
  have hp := Raw.parse_eq (t.row cls op dk ak bk sk types rm sat ftz m ok pd se nog).raw
  simp only [Row.raw_cls, Row.raw_op, Row.raw_tail, TWord.row_cls, TWord.row_op, hf, hm, TWord.row_tword h] at hp
  exact hp.trans hi

end T

section Q
variable {q : QWord} {tail : Nat}

theorem QWord.row_cls : (q.row cls op dk ak bk tail ok pd nog).cls = cls := rfl
theorem QWord.row_op : (q.row cls op dk ak bk tail ok pd nog).op = op := rfl
theorem QWord.row_tail : (q.row cls op dk ak bk tail ok pd nog).tail = tail := rfl

theorem QWord.row_ok (h : (q.row cls op dk ak bk tail ok pd nog).check = true) : ok = true ∧ tail < 2 ^ 24 := by
  obtain ⟨-, -, -, -, -, hok⟩ := Row.check_parts h
  simp only [QWord.row, Bool.and_eq_true, decide_eq_true_eq] at hok
  exact hok

theorem QWord.row_qword (h : (q.row cls op dk ak bk tail ok pd nog).check = true) :
    (q.row cls op dk ak bk tail ok pd nog).raw.qword = some q := by
  obtain ⟨-, hd, ha, hb, -, -⟩ := Row.check_parts h
  have hd : Dst.ofCode q.d.code = some q.d := Dst.ofCode_code hd
  have ha : Opd.ofCode q.a.code = q.a := Opd.ofCode_code ha
  have hb : Opd.ofCode q.b.code = q.b := Opd.ofCode_code hb
  have hctl := Row.raw_ctl (q.row cls op dk ak bk tail ok pd nog)
  simp only [Raw.qword, hctl]
  simp only [Row.raw, QWord.row, hd, ha, hb]
  rfl

theorem QWord.reads (h : (q.row cls op dk ak bk tail ok pd nog).check = true)
    (hf : formatOf cls op = .q) (hi : parseQ cls op tail q = some i) (hcode : cls < 16 ∧ op < 64 := by decide) :
    (q.row cls op dk ak bk tail ok pd nog).Reads i := by
  refine ⟨Row.raw_inRange h hcode.1 hcode.2 (QWord.row_ok h).2, ?_⟩
  have hp := Raw.parse_eq (q.row cls op dk ak bk tail ok pd nog).raw
  simp only [Row.raw_cls, Row.raw_op, Row.raw_tail, QWord.row_cls, QWord.row_op, QWord.row_tail, hf, QWord.row_qword h] at hp
  exact hp.trans hi

end Q

section M
variable {m : MWord} {ors : List Ord}

theorem MWord.row_cls : (m.row cls op dk ak bk ors ok se nog).cls = cls := rfl
theorem MWord.row_op : (m.row cls op dk ak bk ors ok se nog).op = op := rfl

theorem MWord.row_ok (h : (m.row cls op dk ak bk ors ok se nog).check = true) :
    ors.contains m.ord = true ∧ ok = true ∧ m.slot < 16 ∧ m.w < 8 ∧ m.disp < 1024 := by
  obtain ⟨-, -, -, -, -, hok⟩ := Row.check_parts h
  simp only [MWord.row, Bool.and_eq_true, decide_eq_true_eq] at hok
  exact ⟨hok.1.1, hok.1.2, hok.2⟩

/-- TAIL of an M-format word, and its fields. -/
theorem MWord.row_tail (h : (m.row cls op dk ak bk ors ok se nog).check = true) :
    let tail := (m.row cls op dk ak bk ors ok se nog).tail
    tail < 2 ^ 24 ∧ tail / 1048576 % 16 = m.slot ∧ tail / 262144 % 4 = m.rt.code ∧ tail / 32768 % 8 = m.sc.code ∧
      tail / 4096 % 8 = m.w ∧ tail / 1024 % 4 = m.ord.code ∧ tail % 1024 = m.disp := by
  obtain ⟨-, -, hslot, hw, hdisp⟩ := MWord.row_ok h
  have hrt := m.rt.code_lt
  have hsc := m.sc.code_lt
  have hord := m.ord.code_lt
  simp only [MWord.row]
  omega

theorem MWord.row_mword (h : (m.row cls op dk ak bk ors ok se nog).check = true) :
    (m.row cls op dk ak bk ors ok se nog).raw.mword = some m := by
  obtain ⟨-, hslot, hrt, hsc, hw, hord, hdisp⟩ := MWord.row_tail h
  obtain ⟨-, hd, ha, hb, -, -⟩ := Row.check_parts h
  have hd : Dst.ofCode m.d.code = some m.d := Dst.ofCode_code hd
  have ha : Opd.ofCode m.a.code = m.a := Opd.ofCode_code ha
  have hb : Opd.ofCode m.b.code = m.b := Opd.ofCode_code hb
  have hctl := Row.raw_ctl (m.row cls op dk ak bk ors ok se nog)
  have etail : (m.row cls op dk ak bk ors ok se nog).raw.tail = (m.row cls op dk ak bk ors ok se nog).tail := rfl
  simp only [Raw.mword, hctl, etail, hslot, Rt.ofCode_of_mod hrt, Scope.ofCode_of_mod hsc, hw, Ord.ofCode_of_mod hord, hdisp]
  simp only [Row.raw, MWord.row, hd, ha, hb]
  rfl

theorem MWord.reads (h : (m.row cls op dk ak bk ors ok se nog).check = true)
    (hf : formatOf cls op = .m) (hi : parseM cls op m = some i) (hcode : cls < 16 ∧ op < 64 := by decide) :
    (m.row cls op dk ak bk ors ok se nog).Reads i := by
  refine ⟨Row.raw_inRange h hcode.1 hcode.2 (MWord.row_tail h).1, ?_⟩
  have hp := Raw.parse_eq (m.row cls op dk ak bk ors ok se nog).raw
  simp only [Row.raw_cls, Row.raw_op, MWord.row_cls, MWord.row_op, hf, MWord.row_mword h] at hp
  exact hp.trans hi

end M
end Formats

theorem Ty.elems_le (t : Ty) : t.elems ≤ 8 := by cases t <;> decide

/-! ### The ops whose TAIL holds several fields (11 R267; 12 R289; 19 R413) -/

theorem parse_mwld (q : QWord) (w : Nat) {n cl kn : Nat} (hn : n < 16) (hcl : cl < 16) (hkn : kn < 4) (fmt : MFmt) :
    parseQ 0x9 0x01 (kn * 64 + fmt.code * 256 + cl * 4096 + n * 65536 + w * 1048576) q = some (.mwld q w n cl fmt kn) := by
  have hfmt := fmt.code_lt
  generalize ht : kn * 64 + fmt.code * 256 + cl * 4096 + n * 65536 + w * 1048576 = t
  have hfields : t / 32 % 2 = 0 ∧ t / 256 % 16 = fmt.code ∧ t / 1048576 = w ∧ t / 65536 % 16 = n ∧ t / 4096 % 16 = cl ∧
    t / 64 % 4 = kn := by omega
  simp only [parseQ, parseQ9, hfields, if_true, MFmt.ofCode_code, Option.map_some]

theorem parse_mwldNoc (q : QWord) (w : Nat) {n kn : Nat} (hn : n < 16) (hkn : kn < 4) (fmt : MFmt) :
    parseQ 0x9 0x01 (32 + kn * 64 + fmt.code * 256 + n * 65536 + w * 1048576) q = some (.mwldNoc q w n fmt kn) := by
  have hfmt := fmt.code_lt
  generalize ht : 32 + kn * 64 + fmt.code * 256 + n * 65536 + w * 1048576 = t
  have hfields : t / 32 % 2 = 1 ∧ t / 256 % 16 = fmt.code ∧ t / 1048576 = w ∧ t / 65536 % 16 = n ∧ t / 64 % 4 = kn := by omega
  simp only [parseQ, parseQ9, hfields, Nat.one_ne_zero, if_false, MFmt.ofCode_code, Option.map_some]

theorem parse_cpGo (q : QWord) (dd : Nat) {ss cl : Nat} (hss : ss < 16) (hcl : cl < 16) :
    parseQ 0x9 0x10 (cl * 4096 + ss * 65536 + dd * 1048576) q = some (.cpGo q dd ss cl) := by
  generalize ht : cl * 4096 + ss * 65536 + dd * 1048576 = t
  have hfields : t / 2048 % 2 = 0 ∧ t / 1048576 = dd ∧ t / 65536 % 16 = ss ∧ t / 4096 % 16 = cl := by omega
  simp only [parseQ, parseQ9, hfields, if_true]

theorem parse_cpGoNoc (q : QWord) (dd : Nat) {ss : Nat} (hss : ss < 16) :
    parseQ 0x9 0x10 (2048 + ss * 65536 + dd * 1048576) q = some (.cpGoNoc q dd ss) := by
  generalize ht : 2048 + ss * 65536 + dd * 1048576 = t
  have hfields : t / 2048 % 2 = 1 ∧ t / 1048576 = dd ∧ t / 65536 % 16 = ss := by omega
  simp only [parseQ, parseQ9, hfields, Nat.one_ne_zero, if_false]

theorem parse_cpFill (q : QWord) (dd : Nat) {cl : Nat} (hcl : cl < 16) :
    parseQ 0x9 0x11 (cl * 4096 + dd * 1048576) q = some (.cpFill q dd cl) := by
  generalize ht : cl * 4096 + dd * 1048576 = t
  have hfields : t / 2048 % 2 = 0 ∧ t / 1048576 = dd ∧ t / 4096 % 16 = cl := by omega
  simp only [parseQ, parseQ9, hfields, if_true]

theorem parse_cpFillNoc (q : QWord) (dd : Nat) : parseQ 0x9 0x11 (2048 + dd * 1048576) q = some (.cpFillNoc q dd) := by
  generalize ht : 2048 + dd * 1048576 = t
  have hfields : t / 2048 % 2 = 1 ∧ t / 1048576 = dd := by omega
  simp only [parseQ, parseQ9, hfields, Nat.one_ne_zero, if_false]

theorem parse_errinj (q : QWord) (arr : Nat) {mode bt : Nat} (hmode : mode < 4) (hbt : bt < 64) :
    parseQ 0xB 0x0A (mode + 4 * bt + 4096 * arr) q =
      if mode = 1 then some (.errinjFlip1 q arr bt) else if mode = 2 then some (.errinjFlip2 q arr bt)
      else some (.errinjDisarm q arr bt) := by
  generalize ht : mode + 4 * bt + 4096 * arr = t
  have hfields : t % 4 = mode ∧ t / 4 % 64 = bt ∧ t / 4096 = arr := by omega
  simp only [parseQ, parseQB, hfields]

/-- The checked row of every instruction word reads as its instruction: one case for each form of the op's own field of TAIL. -/
theorem Instr.row_reads {i : Instr} {r : Row} (hr : i.row = some r) (hc : r.check = true) : r.Reads i := by
  cases i with
  | add t | sub t | mul t | mulhi t | mad t | madhi t | div t | rem t | neg t | abs t | min t | max t | sad t
  | and t | or t | xor t | andn t | orn t | not t | shl t | shr t | sar t | rol t | ror t | bfe t | bfi t | brev t | clz t | ctz t
  | popc t | perm t | mov t | sel t | frnd t | qz4 t | dqz4 t | qz8 t | dqz8 t | qres t
  | pand t | por t | pxor t | pnot t | pmov t | voteAny t | voteAll t | ballot t | lanemaskAct t | bcast t
  | jmpx t | callx t | ret t | exit t | teamNew t | teamFree t | join t | leave t | regx t | launch t | yield t | nop t
  | tlbinvPage t | tlbsync t | evqPop t | evqPost t | trapretResume t | halt t | wfi t
  | pmovAll t | lanemaskAbs t | tlbinvNonglobal t | trapretSkip t | lanemaskRel t | tlbinvAll t | trapretEnd t =>
    cases hr
    exact TWord.reads hc rfl rfl
  | addc t n | subb t n | lea t n =>
    cases hr
    have hn : n % 8 = n := Nat.mod_eq_of_lt (of_decide_eq_true (TWord.row_ok hc).1)
    exact TWord.reads hc rfl (by simp only [parseT, parseT0, hn])
  | dp4 t b | tst t b | fadd t b | fsub t b | fmul t b | fma t b | fmin t b | fmax t b | fabs t b | fneg t b | fdiv t b | fsqrt t b
  | frcp t b | frsq t b | fex2 t b | flg2 t b | fcls t b | fscl t b =>
    cases hr
    exact TWord.reads hc rfl (by cases b <;> rfl)
  | shflIdx t n | shflUp t n | shflDown t n | shflXor t n =>
    cases hr
    have hn : n % 8 = n := Nat.mod_eq_of_lt ((of_decide_eq_true (TWord.row_ok hc).1).trans (by decide))
    exact TWord.reads hc rfl (by simp only [parseT, parseT5, hn])
  | cvt t src el =>
    cases hr
    have hel : el < 16 := (of_decide_eq_true (TWord.row_ok hc).1).trans_le ((Ty.elems_le src).trans (by decide))
    have hsrc : (src.code * 16 + el) / 16 = src.code := by omega
    have hmod : (src.code * 16 + el) % 16 = el := by omega
    exact TWord.reads hc rfl (by simp only [parseT, parseT3, hsrc, hmod, Ty.ofCode_code, Option.map_some])
  | pack t n | unpk t n =>
    cases hr
    have hn : n % 4 = n := Nat.mod_eq_of_lt (by
      have := of_decide_eq_true (TWord.row_ok hc).1
      have := Ty.elems_le t.ty
      omega)
    exact TWord.reads hc rfl (by simp only [parseT, parseT3, hn])
  | cmp t cc comb => 
    cases hr
    exact TWord.reads hc rfl (by cases cc <;> cases comb <;> rfl)
  | redl t op | scanl t op =>
    cases hr
    exact TWord.reads hc rfl (by cases op <;> rfl)
  | trigger t sc =>
    cases hr
    exact TWord.reads hc rfl (by cases sc <;> rfl)
  | qinit t n | qpop t n | qpeek t n | xarm t n | xpush t n =>
    cases hr
    have hn : n % 16 = n := Nat.mod_eq_of_lt (of_decide_eq_true (TWord.row_ok hc).1)
    exact TWord.reads hc rfl (by simp only [parseT, parseT8, hn])
  | ld m | st m | prf m | recLd m | recSt m | recMk m | recAdj m | home m | inv m | wb m
  | atomAdd m | atomSub m | atomMinU m | atomMaxU m | atomAnd m | atomOr m | atomXor m | atomXchg m | atomIncw m | atomDecw m | cas m
  | atomMinS m | atomMaxS m | redAdd m | redSub m | redMinU m | redMaxU m | redAnd m | redOr m | redXor m | redMinS m | redMaxS m
  | atomAddF m | atomSubF m | atomMinF m | atomMaxF m | redAddF m | redSubF m | redMinF m | redMaxF m
  | dadd m | dld m | ddrain m | dqry m | dldE m
  | claspInit m | claspArrive m | claspExpect m | claspWait m | claspTwait m | claspTest m =>
    cases hr
    exact MWord.reads hc rfl rfl
  | qpushRsv t n port =>
    cases hr
    have hlt := (TWord.row_ok hc).1
    simp only [Bool.and_eq_true, decide_eq_true_eq] at hlt
    have hn : (n + 16 * port) % 16 = n := by omega
    have hport : (n + 16 * port) / 16 % 8 = port := by omega
    have hrsv : n + 16 * port < 128 := by omega
    exact TWord.reads hc rfl (by simp only [parseT, parseT8, hn, hport, if_pos hrsv])
  | qallow t n port =>
    cases hr
    have hlt := (TWord.row_ok hc).1
    simp only [Bool.and_eq_true, decide_eq_true_eq] at hlt
    have hn : (n + 16 * port) % 16 = n := by omega
    have hport : (n + 16 * port) / 16 % 8 = port := by omega
    exact TWord.reads hc rfl (by simp only [parseT, parseT8, hn, hport])
  | qpushPub t n =>
    cases hr
    have hlt := of_decide_eq_true (TWord.row_ok hc).1
    have hn : (n + 128) % 16 = n := by omega
    exact TWord.reads hc rfl (by simp only [parseT, parseT8, hn, if_neg (show ¬ n + 128 < 128 by omega)])
  | addImm q n | subImm q n | mulImm q n | minImm q n | maxImm q n | movi q n | movhi q n | andImm q n | orImm q n | xorImm q n
  | shlImm q n | shrImm q n | sarImm q n | rolImm q n | rorImm q n | collGrp q n | br q n | jmp q n | call q n | spawn q n | spawnHome q n
  | trap q n | brk q n =>
    cases hr
    exact QWord.reads hc rfl rfl
  | mshape q | mmac q | aeHalt q | collGo q | clopIinv q | clopIall q | clopL1wb q | clopL1inv q
  | pmReqQuiesce q | pmReqRelease q | pmReqEnterM2 q | pmReqSetDemand q
  | secCallSecurityState q | secCallAttest q | secCallDeriveKey q | secCallEraseKeys q | secCallAuthDebug q | secCallDebugChallenge q
  | secCallLockDebug q =>
    cases hr
    exact QWord.reads hc rfl rfl
  | movk q n h =>
    cases hr
    have hlt := (QWord.row_ok hc).1
    simp only [Bool.and_eq_true, decide_eq_true_eq] at hlt
    have hn : (n + 65536 * h) % 65536 = n := by omega
    have hh : (n + 65536 * h) / 65536 = h := by omega
    exact QWord.reads hc rfl (by simp only [parseQ, parseQ1, hn, hh])
  | shflIdxImm q n wd | shflUpImm q n wd | shflDownImm q n wd | shflXorImm q n wd =>
    cases hr
    have hlt := (QWord.row_ok hc).1
    simp only [Bool.and_eq_true, decide_eq_true_eq] at hlt
    have hn : (n + 64 * wd) % 64 = n := by omega
    have hwd : (n + 64 * wd) / 64 = wd := by omega
    exact QWord.reads hc rfl (by simp only [parseQ, parseQ5, hn, hwd])
  | mwld q w n cl fmt kn =>
    cases hr
    have hlt := (QWord.row_ok hc).1
    simp only [Bool.and_eq_true, decide_eq_true_eq] at hlt
    exact QWord.reads hc rfl (parse_mwld q w hlt.1.1.1.2 hlt.1.1.2 hlt.1.2 fmt)
  | mwldNoc q w n fmt kn =>
    cases hr
    have hlt := (QWord.row_ok hc).1
    simp only [Bool.and_eq_true, decide_eq_true_eq] at hlt
    exact QWord.reads hc rfl (parse_mwldNoc q w hlt.1.1.2 hlt.1.2 fmt)
  | mstat q wait clr =>
    cases hr
    exact QWord.reads hc rfl (by cases wait <;> cases clr <;> rfl)
  | aeGo q n =>
    cases hr
    have hn : n * 1048576 / 1048576 = n := by omega
    exact QWord.reads hc rfl (by simp only [parseQ, parseQ9, hn])
  | cpGo q dd ss cl =>
    cases hr
    have hlt := (QWord.row_ok hc).1
    simp only [Bool.and_eq_true, decide_eq_true_eq] at hlt
    exact QWord.reads hc rfl (parse_cpGo q dd hlt.1.2 hlt.2)
  | cpGoNoc q dd ss =>
    cases hr
    have hlt := (QWord.row_ok hc).1
    simp only [Bool.and_eq_true, decide_eq_true_eq] at hlt
    exact QWord.reads hc rfl (parse_cpGoNoc q dd hlt.2)
  | cpFill q dd cl =>
    cases hr
    have hlt := (QWord.row_ok hc).1
    simp only [Bool.and_eq_true, decide_eq_true_eq] at hlt
    exact QWord.reads hc rfl (parse_cpFill q dd hlt.2)
  | cpFillNoc q dd =>
    cases hr
    exact QWord.reads hc rfl (parse_cpFillNoc q dd)
  | slotq q which n =>
    cases hr
    have hlt := (QWord.row_ok hc).1
    simp only [Bool.and_eq_true, decide_eq_true_eq] at hlt
    have hwhich : (which + 16 * n) % 16 = which := by omega
    have hn : (which + 16 * n) / 16 = n := by omega
    exact QWord.reads hc rfl (by simp only [parseQ, parseQA, hwhich, hn])
  | sysrd q reg b | syswr q reg b =>
    cases hr
    have hb := bit_lt b
    have hreg : (reg * 4096 + bit b) / 4096 = reg := by omega
    have hlow : decide ((reg * 4096 + bit b) % 2 = 1) = b := decide_eq_of_bit (by omega)
    exact QWord.reads hc rfl (by simp only [parseQ, parseQB, hreg, hlow])
  | errinjFlip1 q arr bt | errinjFlip2 q arr bt | errinjDisarm q arr bt =>
    cases hr
    have hlt := (QWord.row_ok hc).1
    simp only [Bool.and_eq_true, decide_eq_true_eq] at hlt
    exact QWord.reads hc rfl (parse_errinj q arr (by decide) hlt.2)
  | secCallOther q svc =>
    cases hr
    have hlt := (QWord.row_ok hc).1
    simp only [Bool.and_eq_true, Bool.or_eq_true, beq_iff_eq, decide_eq_true_eq] at hlt
    have hne : svc ≠ 1 ∧ svc ≠ 2 ∧ svc ≠ 3 ∧ svc ≠ 4 ∧ svc ≠ 5 ∧ svc ≠ 6 ∧ svc ≠ 7 := by omega
    exact QWord.reads hc rfl (by simp only [parseQ, parseQB, hne, if_false])
  | fenceAcq m | fenceRel m | fenceAcqrel m =>
    cases hr
    have hord := (MWord.row_ok hc).1
    simp at hord
    exact MWord.reads hc rfl (by simp [parseM, parseM8, hord])
  | _ => cases hr

/-- Decoding the encoding of an instruction word gives it back. -/
theorem decode_encode {i : Instr} {w : Nat} (hwf : i.wf = true) (henc : i.encode = some w) : w < 2 ^ 80 ∧ decode w = some i := by
  obtain ⟨r, hr, rfl⟩ := Option.map_eq_some_iff.mp henc
  have hc : r.check = true := by rw [← hwf, Instr.wf, hr]
  obtain ⟨hrange, hparse⟩ := Instr.row_reads hr hc
  refine ⟨Raw.toNat_lt hrange, ?_⟩
  rw [decode, Raw.ofNat_toNat hrange, hparse, Option.bind_some, hwf, henc]
  simp

/-- Settles O55: a word's fields read back from its number (`Raw.ofNat_toNat`), a checked row's fields from its TAIL (`TWord.row_tword`,
`QWord.row_qword`, `MWord.row_mword`), and the instruction from its class, op and fields (`Instr.row_reads`). -/
theorem decodeEncode : Obligations.DecodeEncode := fun _ _ => decode_encode

/-- Settles O56: each word is the encoding of the well-formed instruction it stands for. -/
theorem decodeWords : Obligations.DecodeWords := by
  unfold Obligations.DecodeWords
  refine ⟨?_, ?_, ?_, ?_, ?_, ?_, ?_, ?_, ?_, ?_, ?_, ?_⟩ <;> exact (decode_encode (by decide) (by decide)).2

end Sys2Proof
end

section
/-! O29, O11: the order of the checks at issue, of every word, and a word no lane of whose path executes. -/

set_option Elab.async false

namespace Sys2Proof.Machine

/-! ### Every word issues through the front -/

/-- Every instruction word but yield is issued by `issueWith`. -/
theorem exec_eq_issueWith {i : Instr} {r : Row} (hr : i.row = some r) (hy : ∀ t, i ≠ .yield t) :
    ∃ lat eff, ∀ s, exec i s = issueWith i lat eff s := by
  cases i with
  | yield t => exact absurd rfl (hy t)
  | _ => cases hr <;> simp only [exec] <;> exact ⟨_, _, fun _ => rfl⟩

/-- Where the front does not let a word through, every word does what the front says. -/
theorem exec_of_front {i : Instr} {r : Row} {s : State} (hr : i.row = some r) :
    (front r s = .stall → exec i s = .next s) ∧ ∀ u, front r s = .trapped u → exec i s = Machine.ret u := by
  by_cases hy : ∀ t, i ≠ .yield t
  · obtain ⟨lat, eff, he⟩ := exec_eq_issueWith hr hy
    refine ⟨fun h => ?_, fun u h => ?_⟩ <;> rw [he, issueWith, hr] <;> dsimp only <;> rw [h]
  · push Not at hy
    obtain ⟨t, rfl⟩ := hy
    have he : exec (.yield t) s = execYield t s := rfl
    refine ⟨fun h => ?_, fun u h => ?_⟩ <;> rw [he, execYield, hr] <;> dsimp only <;> rw [h]

/-! ### What the front answers -/

/-- A lane has an empty register among the sources of some uses. -/
theorem Ctx.getLsbD_emptyLanes (c : Ctx) (us : List RegUse) (m : Word64) (l : Nat) :
    (c.emptyLanes us m).getLsbD l = true ↔ l ∈ lanesOf m ∧ ∃ u ∈ us, ¬ c.isFull u l := by
  simp only [Ctx.emptyLanes, getLsbD_maskOf, mem_lanesOf, Ctx.isFull, Bool.and_eq_true, decide_eq_true_eq, List.any_eq_true,
    List.mem_range, and_assoc, not_forall, Bool.not_eq_false, exists_prop]

/-- The checks of a legal word whose threads are ready, on the full/empty bits (02 R69). -/
def State.registerFront (s : State) (r : Row) : Front :=
  let c := s.ctx s.sel.ctx
  let is := s.issued r
  let g1 := r.sources.filter fun u => u.g
  let g0 := r.sources.filter fun u => !u.g
  let bad := c.emptyLanes g1 (s.guardMask r)
  let path := s.sel.lanes &&& ~~~bad
  let s1 := if bad = 0 then s else
    s.takeTrap s.sel.ctx bad { TrapInfo.plain trapNotReady with code := c.lowestEmpty g1 (s.guardMask r) } is.h is.hdr is.idx
  if path = 0 then .trapped s1
  else if c.emptyLanes g0 path ≠ 0 then (if bad = 0 then .stall else .trapped s1)
  else .go { is with path := path, act := s.guardMask r &&& ~~~bad, c := s1.ctx s.sel.ctx } s1

/-- The front of an agent without failed operations: the checks at issue in their order (02 R66; 03 R76, R78, R79; 06 R144). -/
theorem front_eq {r : Row} {s : State} (hp : s.sel.lanes ≠ 0) (hf : ∀ l, ((s.ctx s.sel.ctx).lane l).fails = []) :
    front r s =
      if (lanesOf s.sel.lanes).any fun l => decide (((s.ctx s.sel.ctx).lane l).sb.toNat &&& r.c.wm ≠ 0) then .stall
      else if s.illegalHere r then
        .trapped (s.takeTrap s.sel.ctx s.sel.lanes (.plain trapIllegal) (s.issued r).h (s.issued r).hdr (s.issued r).idx)
      else if !((lanesOf s.sel.lanes).all fun l => s.laneReady s.sel.ctx l r) then .stall
      else if r.c.se && (lanesOf s.sel.lanes).any fun l => ((s.ctx s.sel.ctx).lane l).sb.getLsbD r.c.sa then .stall
      else if s.guardMask r ≠ 0 ∧ r.privileged ∧ !s.isSup s.sel.ctx then
        .trapped (s.takeTrap s.sel.ctx (s.guardMask r) (.plain trapPrivileged) (s.issued r).h (s.issued r).hdr (s.issued r).idx)
      else s.registerFront r := by
  obtain ⟨l0, hl0⟩ := lowestLane_isSome hp
  have hsel : s.selLane = (s.ctx s.sel.ctx).lane l0 := by unfold State.selLane; rw [hl0]; rfl
  have hfail (b : Nat → Bool) : (lanesOf s.sel.lanes).findSome? (fun l => (s.ctx s.sel.ctx).failsOn l r.c.waitMask (b l)) = none := by
    rw [List.findSome?_eq_none_iff]
    intro l _
    rw [Ctx.failsOn, hf l]
    rfl
  unfold front
  dsimp only
  rw [hl0]
  dsimp only
  rw [hfail, ite_self, State.illegalHere, State.registerFront, State.issued, hsel]
  rfl

section Order
variable {r : Row} {s : State}

theorem front_waits (hp : s.sel.lanes ≠ 0) (hf : ∀ l, ((s.ctx s.sel.ctx).lane l).fails = [])
    (h : ∃ l ∈ lanesOf s.sel.lanes, ((s.ctx s.sel.ctx).lane l).sb.toNat &&& r.c.wm ≠ 0) : front r s = .stall := by
  rw [front_eq hp hf, if_pos (List.any_eq_true.mpr (by simpa using h))]

/-- Once the word's slots are free, its legality comes next. -/
theorem front_waited (h : Waited s r) : front r s =
    if s.illegalHere r then
      .trapped (s.takeTrap s.sel.ctx s.sel.lanes (.plain trapIllegal) (s.issued r).h (s.issued r).hdr (s.issued r).idx)
    else if !((lanesOf s.sel.lanes).all fun l => s.laneReady s.sel.ctx l r) then .stall
    else if r.c.se && (lanesOf s.sel.lanes).any fun l => ((s.ctx s.sel.ctx).lane l).sb.getLsbD r.c.sa then .stall
    else if s.guardMask r ≠ 0 ∧ r.privileged ∧ !s.isSup s.sel.ctx then
      .trapped (s.takeTrap s.sel.ctx (s.guardMask r) (.plain trapPrivileged) (s.issued r).h (s.issued r).hdr (s.issued r).idx)
    else s.registerFront r := by
  have hfree : ((lanesOf s.sel.lanes).any fun l => decide (((s.ctx s.sel.ctx).lane l).sb.toNat &&& r.c.wm ≠ 0)) = false := by
    rw [List.any_eq_false]
    intro l hl
    simpa using h.wait l hl
  rw [front_eq h.path h.settled, hfree, if_neg Bool.false_ne_true]

theorem front_illegal (h : Waited s r) (hi : s.illegalHere r = true) : front r s =
    .trapped (s.takeTrap s.sel.ctx s.sel.lanes (.plain trapIllegal) (s.issued r).h (s.issued r).hdr (s.issued r).idx) := by
  rw [front_waited h, if_pos hi]

/-- A lane that is not ready, or whose slot is busy, keeps its path at the word. -/
theorem front_unready (h : Waited s r) (hi : s.illegalHere r = false)
    (hl : ∃ l ∈ lanesOf s.sel.lanes, s.laneReady s.sel.ctx l r = false ∨
      (r.c.se = true ∧ ((s.ctx s.sel.ctx).lane l).sb.getLsbD r.c.sa = true)) : front r s = .stall := by
  rw [front_waited h, hi, if_neg Bool.false_ne_true]
  by_cases hall : ((lanesOf s.sel.lanes).all fun l => s.laneReady s.sel.ctx l r) = true
  · obtain ⟨l, hmem, hl | ⟨hse, hbusy⟩⟩ := hl
    · exact absurd (List.all_eq_true.mp hall l hmem) (by rw [hl]; exact Bool.false_ne_true)
    · have hany : ((lanesOf s.sel.lanes).any fun l => ((s.ctx s.sel.ctx).lane l).sb.getLsbD r.c.sa) = true :=
        List.any_eq_true.mpr ⟨l, hmem, hbusy⟩
      rw [hall, hse, hany]
      rfl
  · rw [Bool.not_eq_true] at hall
    rw [hall]
    rfl

/-- A legal word with ready threads has its level checked, then its registers. -/
theorem front_reaches (h : Reaches s r) : front r s =
    if s.guardMask r ≠ 0 ∧ r.privileged ∧ !s.isSup s.sel.ctx then
      .trapped (s.takeTrap s.sel.ctx (s.guardMask r) (.plain trapPrivileged) (s.issued r).h (s.issued r).hdr (s.issued r).idx)
    else s.registerFront r := by
  have hready : ((lanesOf s.sel.lanes).all fun l => s.laneReady s.sel.ctx l r) = true := List.all_eq_true.mpr h.ready
  have hslot : (r.c.se && (lanesOf s.sel.lanes).any fun l => ((s.ctx s.sel.ctx).lane l).sb.getLsbD r.c.sa) = false := by
    rw [Bool.and_eq_false_imp, List.any_eq_false]
    intro hse l hl
    rw [h.slot hse l hl]
    exact Bool.false_ne_true
  rw [front_waited h.toWaited, h.legal, if_neg Bool.false_ne_true, hready, hslot]
  rfl

theorem front_registers (h : Reaches s r) (hl : r.privileged = false ∨ s.isSup s.sel.ctx = true) :
    front r s = s.registerFront r := by
  rw [front_reaches h, if_neg]
  rintro ⟨-, hpriv, hsup⟩
  rcases hl with hl | hl
  · rw [hl] at hpriv; exact Bool.false_ne_true hpriv
  · rw [hl] at hsup; exact Bool.false_ne_true hsup

/-- Sources without a guard bit are waited for. -/
theorem registerFront_waits (hp : s.sel.lanes ≠ 0)
    (hfull : ∀ l ∈ lanesOf (s.guardMask r), ∀ u ∈ r.sources, u.g = true → (s.ctx s.sel.ctx).isFull u l)
    (hempty : ∃ l ∈ lanesOf s.sel.lanes, ∃ u ∈ r.sources, u.g = false ∧ ¬ (s.ctx s.sel.ctx).isFull u l) :
    s.registerFront r = .stall := by
  have hbad : (s.ctx s.sel.ctx).emptyLanes (r.sources.filter fun u => u.g) (s.guardMask r) = 0 :=
    Ctx.emptyLanes_eq_zero _ _ _ fun l hl u hu => hfull l hl u (List.mem_filter.mp hu).1 (List.mem_filter.mp hu).2
  have hall : s.sel.lanes &&& ~~~(0 : Word64) = s.sel.lanes := BitVec.and_allOnes
  have hwait : (s.ctx s.sel.ctx).emptyLanes (r.sources.filter fun u => !u.g) s.sel.lanes ≠ 0 := by
    obtain ⟨l, hl, u, hu, hg, hne⟩ := hempty
    intro h0
    have hbit := (Ctx.getLsbD_emptyLanes (s.ctx s.sel.ctx) (r.sources.filter fun u => !u.g) s.sel.lanes l).mpr
      ⟨hl, u, List.mem_filter.mpr ⟨hu, by rw [hg]; rfl⟩, hne⟩
    rw [h0] at hbit
    exact absurd (BitVec.getLsbD_zero.symm.trans hbit) Bool.false_ne_true
  simp only [State.registerFront, hbad, hall, if_neg hp, if_pos hwait, if_true]

/-- Guarded sources that are empty on every lane trap on every lane. -/
theorem registerFront_traps (hp : s.sel.lanes ≠ 0) (hg : s.guardMask r = s.sel.lanes)
    (hempty : ∀ l ∈ lanesOf s.sel.lanes, ∃ u ∈ r.sources, u.g = true ∧ ¬ (s.ctx s.sel.ctx).isFull u l) :
    s.registerFront r = .trapped (s.takeTrap s.sel.ctx s.sel.lanes
      { TrapInfo.plain trapNotReady with code := (s.ctx s.sel.ctx).lowestEmpty (r.sources.filter fun u => u.g) s.sel.lanes }
      (s.issued r).h (s.issued r).hdr (s.issued r).idx) := by
  have hbad : (s.ctx s.sel.ctx).emptyLanes (r.sources.filter fun u => u.g) s.sel.lanes = s.sel.lanes := by
    apply BitVec.eq_of_getLsbD_eq
    intro l hl
    rw [Bool.eq_iff_iff, Ctx.getLsbD_emptyLanes]
    refine ⟨fun h => (mem_lanesOf.mp h.1).2, fun h => ⟨mem_lanesOf.mpr ⟨hl, h⟩, ?_⟩⟩
    obtain ⟨u, hu, hug, hne⟩ := hempty l (mem_lanesOf.mpr ⟨hl, h⟩)
    exact ⟨u, List.mem_filter.mpr ⟨hu, hug⟩, hne⟩
  have hnone : s.sel.lanes &&& ~~~s.sel.lanes = 0 := BitVec.and_not_self _
  simp only [State.registerFront, hg, hbad, hnone, if_neg hp, if_true]

end Order

/-- Settles O29: each clause is one outcome of the front (`front_waits`, `front_illegal`, `front_unready`, `front_reaches`,
`registerFront_waits`, `registerFront_traps`), and every word does what the front says where it does not let it through. -/
theorem wordsWaitAndTrap : Obligations.WordsWaitAndTrap := by
  intro i s r _ hr hp hs hf c is trap
  have hstall : front r s = .stall → exec i s = .next s := (exec_of_front hr).1
  have htrap : ∀ u, front r s = .trapped u → u.stuck = none → exec i s = .next u := fun u h hu => by
    rw [(exec_of_front hr).2 u h, ret_next hu]
  refine ⟨fun h => hstall (front_waits hp hf h), fun hw hi => htrap _ (front_illegal hw hi),
    fun hw hi hl => hstall (front_unready hw hi hl), fun hre hg hpriv hsup => htrap _ ?_,
    fun hre hl hfull hempty => hstall ?_, fun hre hl hg hempty => htrap _ ?_⟩
  · rw [front_reaches hre, if_pos ⟨hg, hpriv, by rw [hsup]; rfl⟩]
    rfl
  · rw [front_registers hre hl, registerFront_waits hp hfull hempty]
  · rw [front_registers hre hl, registerFront_traps hp hg hempty]
    rfl

/-! ### A word that no lane of its path executes (02 R54) -/

/-- A thread passes a word that it does not execute: its holds are one instruction nearer to their end, and none is added. -/
theorem holds_finish_idle {is : Issue} {lat : Nat} {s : State} (hf : ∀ l, ((s.ctx is.ctx).lane l).fails = []) (h0 : is.act = 0)
    (l : Nat) : (((finish is lat (.next s)).ctx is.ctx).lane l).holds =
      if l < 64 ∧ is.path.getLsbD l then passHolds ((s.ctx is.ctx).lane l).holds else ((s.ctx is.ctx).lane l).holds := by
  have hlane := lane_passed is lat (.next s) rfl
  have hfails : ∀ k, ((is.passed lat (.next s)).lane k).fails = [] := fun k => by
    rw [hlane]
    split
    · exact hf k
    · exact hf k
  have hstays := (finish_stays is lat (.next s) hfails).2.lanes l
  have hholds : (((finish is lat (.next s)).ctx is.ctx).lane l).holds = ((is.passed lat (.next s)).lane l).holds :=
    (congrArg Lane.holds hstays : _)
  have hnone : is.hold s lat l = none := by
    rw [Issue.hold, if_pos]
    right; right
    rw [h0]
    simp
  have hcond : (l ∈ lanesOf is.path ∧ (Done.next s).stay.getLsbD l = false) ↔ (l < 64 ∧ is.path.getLsbD l = true) := by
    rw [mem_lanesOf]
    exact and_iff_left BitVec.getLsbD_zero
  rw [hholds, hlane]
  simp only [hcond]
  split
  · show passHolds ((s.ctx is.ctx).lane l).holds ++ (is.hold s lat l).toList = _
    rw [hnone]
    exact List.append_nil _
  · rfl

/-- Settles O11: a word without a participant ends its issue without an effect, so that its path moves on (`passes_finish`) and its
threads' holds count the word (`holds_finish_idle`). -/
theorem guardZeroPasses : Obligations.GuardZeroPasses := by
  intro i s r _ hy hr hm h0
  obtain ⟨lat, eff, he⟩ := exec_eq_issueWith hr hy
  have hf : ∀ l, ((s.ctx (s.issued r).ctx).lane l).fails = [] := hm.settled
  have hact : (s.issued r).act = 0 := h0
  refine ⟨finish (s.issued r) lat (.next s), ?_, passes_finish (s.issued r) lat (.next s) rfl hf,
    fun l => holds_finish_idle hf hact l⟩
  rw [he, issueWith_go hr hm, if_pos hact]
  exact ret_next ((finish_stuck rfl hf).trans hm.running)

end Sys2Proof.Machine
end

section
/-! O2: what a source byte names and reads, and the registers of a gang that forms from a bin. -/

set_option Elab.async false

namespace Sys2Proof

/-- A map made of a list, its unlisted values left out: each key reads the list's entry. -/
theorem SMap.get_filter_mapIdx {α β : Type} {d : α} {p : Nat × α → Bool} (hp : ∀ q, p q = false → q.2 = d) (g : β → α) (xs : List β) :
    ∀ n k : Nat, SMap.get d ((xs.mapIdx fun i x => (i + n, g x)).filter p) k = if k < n then d else (xs[k - n]?.map g).getD d := by
  induction xs with
  | nil => intro n k; split <;> rfl
  | cons x xs ih =>
    intro n k
    have htail : (fun i x => (i + 1 + n, g x)) = fun (i : Nat) (x : β) => (i + (n + 1), g x) := by
      funext i x; rw [Nat.add_assoc, Nat.add_comm 1 n]
    rw [List.mapIdx_cons, htail, Nat.zero_add]
    have hrest : k ≠ n → (if k < n + 1 then d else (xs[k - (n + 1)]?.map g).getD d) =
        if k < n then d else ((x :: xs)[k - n]?.map g).getD d := by
      intro hne
      by_cases hlt : k < n
      · rw [if_pos hlt, if_pos (by omega)]
      · rw [if_neg hlt, if_neg (by omega), show k - n = (k - (n + 1)) + 1 by omega, List.getElem?_cons_succ]
    have hhere : (if n < n then d else ((x :: xs)[n - n]?.map g).getD d) = g x := by
      rw [if_neg (Nat.lt_irrefl n), Nat.sub_self]; rfl
    cases hpx : p (n, g x) with
    | true =>
      rw [List.filter_cons_of_pos hpx, SMap.get_cons]
      by_cases hk : k = n
      · rw [if_pos hk, hk, hhere]
      · rw [if_neg hk, ← hrest hk, ih]
        by_cases hlt : k < n
        · rw [if_pos hlt, if_pos (by omega)]
        · rw [if_neg hlt]
    | false =>
      rw [List.filter_cons_of_neg (by rw [hpx]; exact Bool.false_ne_true), ih]
      by_cases hk : k = n
      · rw [hk, hhere, if_pos (by omega)]
        exact (hp _ hpx).symm
      · exact hrest hk

theorem SMap.get_mapIdx {α β : Type} (d : α) (g : β → α) (xs : List β) (k : Nat) :
    SMap.get d (xs.mapIdx fun i x => (i, g x)) k = (xs[k]?.map g).getD d := by
  have h := SMap.get_filter_mapIdx (d := d) (p := fun _ => true) (fun _ h => absurd h.symm Bool.false_ne_true) g xs 0 k
  rw [List.filter_true] at h
  exact h

namespace Machine

/-! ### A gang that forms from a bin (02 R61) -/

section Formed
variable (b : Bin) (q : Launch) (gid part slot base clk : Nat)

/-- The thread that a bin's seed becomes. -/
def Bin.thread (b : Bin) (x : Seed) : Lane :=
  { Lane.none with
    act := true, hdr := b.hdr, fresh := true, tid := x.tid, cx := x.cx, cy := x.cy, team := 0xFFFFFFFF, trig := x.trig }

theorem gangOf_lane (l : Nat) : (gangOf b q gid part slot base clk).lane l = (b.seeds[l]?.map b.thread).getD Lane.none :=
  SMap.get_mapIdx Lane.none b.thread b.seeds l

theorem gangOf_k (i : Nat) : SMap.get 0 (gangOf b q gid part slot base clk).k i = (q.args[i]?).getD 0 := by
  have h := SMap.get_filter_mapIdx (d := (0 : Word64)) (p := fun p => decide (p.2 ≠ 0)) (fun p hp => by simpa using hp) id q.args 0 i
  rw [Option.map_id] at h
  exact h

/-- No thread of a new gang has a predicate or a scoreboard slot set. -/
theorem gangOf_lane_clear (l : Nat) :
    ((gangOf b q gid part slot base clk).lane l).p = 0 ∧ ((gangOf b q gid part slot base clk).lane l).sb = 0 := by
  rw [gangOf_lane]
  cases b.seeds[l]? <;> exact ⟨rfl, rfl⟩

end Formed

/-! ### What a source reads (02 R58, R60) -/

theorem Issue.src_p (is : Issue) (s : State) (wide : Bool) {n : Nat} (hn : n < 7) (l : Nat) :
    is.src s wide (.p n) l = if (is.c.lane l).p.getLsbD n then 1 else 0 := by
  show bit ((is.c.lane l).pred n) = _
  rw [Lane.pred, if_neg (by omega)]
  rfl

/-- Only the byte 0xFF reads the immediate. -/
theorem Issue.srcImm_of_ne_imm (is : Issue) (s : State) (imm : Nat) {o : Opd} (ho : o ≠ .imm) (l : Nat) :
    is.srcImm s imm o l = is.src s false o l := by
  cases o with
  | imm => exact absurd rfl ho
  | g n | k n | p n | lane | team | gtime | tid | cx | cy | zero => rfl

/-- Settles O2: a source byte names what its code does (`Opd.ofCode_code`), reads what `Ctx.operand` gives it, and a gang starts as
`gangOf` makes it (`gangOf_lane`, `gangOf_k`). -/
theorem specialSources : Obligations.SpecialSources := by
  refine ⟨fun n h => Opd.ofCode_code (o := .g n) (decide_eq_true h), fun n h => Opd.ofCode_code (o := .k n) (decide_eq_true h),
    fun n h => Opd.ofCode_code (o := .p n) (decide_eq_true h), rfl, rfl, rfl, rfl, rfl, rfl, rfl, rfl,
    fun is s l => ⟨fun r => ⟨rfl, rfl⟩, fun n => ⟨rfl, rfl⟩, fun wide n hn => is.src_p s wide hn l,
      fun wide => ⟨rfl, rfl, rfl, rfl, rfl, rfl, rfl, rfl⟩, fun imm => rfl, fun imm o ho => is.srcImm_of_ne_imm s imm ho l⟩,
    fun b q gid part slot base clk => ⟨fun i x hx => ?_, fun l r => ⟨rfl, rfl⟩, gangOf_lane_clear b q gid part slot base clk, rfl,
      fun i v hv => ?_, fun i hi => ?_⟩⟩
  · rw [gangOf_lane, hx]
    exact ⟨rfl, rfl, rfl, rfl⟩
  · rw [gangOf_k, hv]
    rfl
  · rw [gangOf_k, List.getElem?_eq_none hi]
    rfl

end Machine

end Sys2Proof
end

section
/-! O41: TLB words and cache operations. -/

set_option Elab.async false

namespace Sys2Proof.Machine

/-! ### What the words leave of a lane's failed operations -/

theorem State.SameFails.sendInv (s : State) (c : CtxId) (form va : Nat) : s.SameFails (s.sendInv c form va) := of_ctxs rfl

theorem State.SameFails.endPages (s : State) (p : Nat → Bool) : s.SameFails (s.endPages p) := by
  refine trans (foldl (fun u k => ?_) (SMap.keys s.ctxs) s) (of_ctxs rfl)
  refine modCtx u _ fun x => Ctx.SameFails.modLanes _ (fun _ y => ?_) x
  split
  · split <;> rfl
  · rfl

theorem State.SameFails.cleanL1s (s : State) (col : Nat) (drop : Bool) : s.SameFails (s.cleanL1s col drop) :=
  of_ctxs (State.foldl_ctxs (fun s (l : L1Line) => s.flushBytes_ctxs l.dirty) _ s)

/-! ### TLB words -/

theorem does_tlbinvPage_inside (t : TWord) : Does (.tlbinvPage t) (fun is s => is.src s true t.a is.first < 2 ^ 56) fun is s =>
    s.sendInv is.ctx 0 (is.src s true t.a is.first) := by
  refine doesBut_of_fails_kept (fun _ => rfl) (fun is s => State.SameFails.sendInv s _ _ _ is.ctx) fun is s ha hp => ?_
  dsimp only
  rw [lowestLane_eq_first ha, Option.map_some, if_pos hp]
  rfl

theorem does_tlbinvPage_outside (t : TWord) : Does (.tlbinvPage t) (fun is s => 2 ^ 56 ≤ is.src s true t.a is.first) fun _ s => s := by
  refine doesBut_of_fails_kept (fun _ => rfl) (fun _ _ _ => rfl) fun is s ha hp => ?_
  dsimp only
  rw [lowestLane_eq_first ha, Option.map_some, if_neg (Nat.not_lt.mpr hp)]
  rfl

theorem does_tlbinvNonglobal (t : TWord) : Does (.tlbinvNonglobal t) always fun is s => s.sendInv is.ctx 1 0 :=
  doesBut_of_fails_kept (fun _ => rfl) (fun is s => State.SameFails.sendInv s _ _ _ is.ctx) fun _ _ _ _ => rfl

theorem does_tlbinvAll (t : TWord) : Does (.tlbinvAll t) always fun is s => s.sendInv is.ctx 2 0 :=
  doesBut_of_fails_kept (fun _ => rfl) (fun is s => State.SameFails.sendInv s _ _ _ is.ctx) fun _ _ _ _ => rfl

theorem does_tlbsync (t : TWord) : Does (.tlbsync t) (fun is s => s.invsDone is.ctx = true) fun is s =>
    ({ s with ms := { s.ms with invs := s.ms.invs.filter fun v => v.by_ ≠ is.ctx } } : State).endPages fun _ => true :=
  doesBut_of_fails_kept (fun _ => rfl)
    (fun is _ => ((State.SameFails.of_ctxs rfl).trans (State.SameFails.endPages _ fun _ => true)) is.ctx) fun _ _ _ hp => if_pos hp

theorem waits_tlbsync (t : TWord) : Waits (.tlbsync t) fun is s => s.invsDone is.ctx = false :=
  waits_of (fun _ => rfl) fun _ _ _ _ _ hp => if_neg (Bool.not_eq_true _ ▸ hp)

/-! ### Cache operations -/

theorem does_clopIinv (q : QWord) : Does (.clopIinv q) always fun is s => { s with ms := { s.ms with
    icache := s.ms.icache.filter fun p => p.1 % 2 ^ 49 ≠ is.src s true q.a is.first / 128 } } := by
  refine doesBut_of_fails_kept (fun _ => rfl) (fun _ _ _ => rfl) fun is s ha _ => ?_
  dsimp only
  rw [lowestLane_eq_first ha]
  rfl

/-- A cache operation of the supervisor's does what it is for. -/
theorem does_clop {i : Instr} {f : State → Nat → State} (he : ∀ s, exec i s = issueWith i 0 (clopEff f) s)
    (hf : ∀ (s : State) col, s.SameFails (f s col)) : Does i (fun is s => s.isSup is.ctx = true) fun is s => f s (s.colOf is.ctx) :=
  doesBut_of_fails_kept he (fun is s => hf s _ is.ctx) fun _ _ _ hp => if_pos hp

/-- A user's traps on every participant. -/
theorem doesBut_clop_privileged {i : Instr} {f : State → Nat → State} (he : ∀ s, exec i s = issueWith i 0 (clopEff f) s) :
    DoesBut i (fun is s => s.isSup is.ctx = false)
      (fun is s => s.takeTrap is.ctx is.act ⟨0x0B, 0, 255, 0, false, false⟩ is.h is.hdr is.idx) fun is _ => is.act :=
  doesBut_of_fails_kept he (fun is s => State.SameFails.takeTrap s _ _ _ _ _ _ is.ctx) fun is s _ hp =>
    (if_neg (Bool.not_eq_true _ ▸ hp)).trans (congrArg some (privilegeTrap_eq is s))

/-- Settles O41, word by word. -/
theorem tlbAndCacheWords : Obligations.TlbAndCacheWords := by
  unfold Obligations.TlbAndCacheWords
  refine ⟨does_tlbinvPage_inside, does_tlbinvPage_outside, does_tlbinvNonglobal, does_tlbinvAll, does_tlbsync, waits_tlbsync,
    does_clopIinv, fun q => ?iall, fun q => ?l1wb, fun q => ?l1inv, ?user⟩
  case iall => exact does_clop (f := fun s _ => { s with ms := { s.ms with icache := [] } }) (fun _ => rfl) fun _ _ => State.SameFails.of_ctxs rfl
  case l1wb => exact does_clop (fun _ => rfl) fun s col => State.SameFails.cleanL1s s col false
  case l1inv => exact does_clop (fun _ => rfl) fun s col => State.SameFails.cleanL1s s col true
  case user =>
    rintro i q (rfl | rfl | rfl)
    · exact doesBut_clop_privileged (f := fun s _ => { s with ms := { s.ms with icache := [] } }) fun _ => rfl
    · exact doesBut_clop_privileged (f := fun s col => s.cleanL1s col false) fun _ => rfl
    · exact doesBut_clop_privileged (f := fun s col => s.cleanL1s col true) fun _ => rfl

end Sys2Proof.Machine
end

section
/-! O46: each event of operations, results, code lines, caches, homes, pages and packets, where its condition holds. -/

set_option Elab.async false

namespace Sys2Proof.Machine

/-! ### What an event answers -/

theorem happens_of_ret {i : Instr} {pre : State → Prop} {u : State → State} (h : ∀ s, pre s → exec i s = Machine.ret (u s)) :
    Happens i pre u := fun s hp hu => (h s hp).trans (ret_next hu)

theorem happens_of_next {i : Instr} {pre : State → Prop} {u : State → State} (h : ∀ s, pre s → exec i s = .next (u s)) :
    Happens i pre u := fun s hp _ => h s hp

/-! ### Operations and results -/

theorem happens_longLatencyComplete (id : Nat) (o : MOp) :
    Happens (.longLatencyComplete id) (fun s => s.op? id = some o) fun s => s.complete o :=
  happens_of_ret fun s ho => by
    show execLongLatencyComplete id s = _
    rw [execLongLatencyComplete, ho]

theorem happens_leaseHoldEnd (id : Nat) (o : MOp) :
    Happens (.leaseHoldEnd id) (fun s => s.op? id = some o ∧ ∀ a ∈ o.good, s.leaseHolds o a = false) fun s => s.complete o := by
  refine happens_of_ret fun s hp => ?_
  obtain ⟨ho, hfree⟩ := hp
  have hany : ¬ o.good.any (s.leaseHolds o) = true := by simpa using hfree
  show execLeaseHoldEnd id s = _
  rw [execLeaseHoldEnd, ho]
  exact if_neg hany

theorem happens_impreciseStoreFault_due (id : Nat) (o : MOp) :
    Happens (.impreciseStoreFault id) (fun s => s.op? id = some o ∧ s.failDue o = true) fun s => s.reportFails o := by
  refine happens_of_ret fun s hp => ?_
  show execImpreciseStoreFault id s = _
  rw [execImpreciseStoreFault, hp.1]
  exact if_pos hp.2

theorem happens_impreciseStoreFault_early (id : Nat) (o : MOp) :
    Happens (.impreciseStoreFault id) (fun s => s.op? id = some o ∧ s.failDue o = false) fun s => s := by
  refine happens_of_next fun s hp => ?_
  show execImpreciseStoreFault id s = _
  rw [execImpreciseStoreFault, hp.1]
  exact if_neg (Bool.not_eq_true _ ▸ hp.2)

/-! ### Code lines -/

section Fill
variable (c : CtxId) (va : Word64)

theorem happens_instructionFetchFill_fetch :
    Happens (.instructionFetchFill c va) (fun s => s.fetchHeld c va.toNat = false ∧ s.ms.prefetch.contains (c, va) = false)
      fun s => s.fillLine c va.toNat := by
  refine happens_of_ret fun s hp => ?_
  show execInstructionFetchFill c va s = _
  rw [execInstructionFetchFill, hp.1, hp.2]
  rfl

theorem happens_instructionFetchFill_prefetch :
    Happens (.instructionFetchFill c va) (fun s => s.fetchHeld c va.toNat = false ∧ s.ms.prefetch.contains (c, va) = true)
      fun s => s.prefetchLine c va := by
  refine happens_of_ret fun s hp => ?_
  show execInstructionFetchFill c va s = _
  rw [execInstructionFetchFill, hp.1, hp.2]
  rfl

theorem happens_instructionFetchFill_held :
    Happens (.instructionFetchFill c va) (fun s => s.fetchHeld c va.toNat = true) fun s => s.noteFetch c va.toNat :=
  happens_of_next fun s hp => by
    show execInstructionFetchFill c va s = _
    rw [execInstructionFetchFill, hp]
    rfl

end Fill

/-! ### Caches and homes -/

theorem happens_upgrade (cache line : Nat) :
    Happens (.upgrade cache line) (fun s => s.wantsLine cache line = true ∧ s.leaseLive (line * 128) = false ∧
      isWeight (line * 128) = false ∧ cacheable (line * 128) = true ∧ s.lineHeld cache .own (line * 128) 128 = false)
      fun s => s.takeOwner (s.upgradeClass cache line) cache line := by
  refine happens_of_ret fun s hp => ?_
  obtain ⟨hwant, hlease, hweight, hcache, hheld⟩ := hp
  show execUpgrade cache line s = _
  rw [execUpgrade, hwant, hlease, hweight, hcache, hheld]
  rfl

/-- The region that two sibling halves become: the later lease ends and the union of their masks. -/
theorem happens_regionMerge (base size : Nat) :
    Happens (.regionMerge base size) (fun s =>
      let a := s.region base
      let b := s.region (base + size)
      let quiet := 1000 * max 1 (field (s.sysGet SysReg.quiet 0) 15 0)
      a.base = base ∧ a.size = size ∧ a.mergesWith b s.ns = true ∧ a.conflict + quiet ≤ s.ns ∧ b.conflict + quiet ≤ s.ns) fun s =>
    let a := s.region base
    let b := s.region (base + size)
    let r : Region := { a with
      size := 2 * size, sharers := a.sharers ||| b.sharers, owner := a.owner <|> b.owner, conflict := max a.conflict b.conflict }
    let m := if r.owner.isSome then { r with leases := [] } else b.leases.foldl (fun r l => r.addLease l.1 l.2) r
    { s with ms := { s.ms with regions := (s.ms.regions.filter fun q => !decide (q = a ∨ q = b)) ++ [m] } } := by
  refine happens_of_next fun s hp => ?_
  obtain ⟨hbase, rfl, hrest⟩ := hp
  exact if_pos ⟨hbase, rfl, hrest⟩

theorem happens_timeSkew (cache : Nat) (skew : Int) :
    Happens (.timeSkew cache skew) (fun s => cache < 320 ∧ s.grantBand cache < skew.natAbs) fun s =>
    let held (l : L1Line) : Bool := decide (l.cache = cache) && (match l.kind with
      | .lease _ _ => true
      | _ => false)
    ({ s with
      skew := SMap.set 0 s.skew cache skew
      seen := SMap.set 0 s.seen cache (s.gtime cache).toNat
      ms := { s.ms with
        skewed := SMap.set false s.ms.skewed cache true
        l1 := s.ms.l1.filter fun l => !held l
        regions := s.ms.regions.map fun r => { r with leases := r.leases.filter fun l => l.1 ≠ cache } } } : State).machineEvent
          (cache / 5) (cache / 5) 0 0x03 0 0 :=
  happens_of_ret fun s hp => by
    have hleaves : ¬ (320 ≤ cache ∨ skew.natAbs ≤ s.grantBand cache) := by omega
    show execTimeSkew cache skew s = _
    rw [execTimeSkew]
    exact if_neg hleaves

section Recovered
variable (cache : Nat) (skew : Int)

theorem happens_timeSkewRecovered_level :
    Happens (.timeSkewRecovered ⟨cache, skew⟩) (fun s => skew.natAbs ≤ 4 ∧ ((s.setSkew cache skew).gtime cache).toNat ≤ s.ns + 4)
      fun s => { s with
        skew := SMap.set 0 s.skew cache skew, seen := SMap.set 0 s.seen cache (s.gtime cache).toNat
        ms := { s.ms with skewed := SMap.set false s.ms.skewed cache false } } :=
  happens_of_next fun s hp => by
    show execTimeSkewRecovered ⟨cache, skew⟩ s = _
    rw [execTimeSkewRecovered, if_neg (show ¬ 4 < skew.natAbs by omega)]
    exact if_neg (Nat.not_lt.mpr hp.2)

theorem happens_timeSkewRecovered_ahead :
    Happens (.timeSkewRecovered ⟨cache, skew⟩) (fun s => skew.natAbs ≤ 4 ∧ s.ns + 4 < ((s.setSkew cache skew).gtime cache).toNat)
      fun s => { s with skew := SMap.set 0 s.skew cache skew, seen := SMap.set 0 s.seen cache (s.gtime cache).toNat } :=
  happens_of_next fun s hp => by
    show execTimeSkewRecovered ⟨cache, skew⟩ s = _
    rw [execTimeSkewRecovered, if_neg (show ¬ 4 < skew.natAbs by omega)]
    exact if_pos hp.2

end Recovered

/-! ### Packets, forwarded writes and pages -/

theorem happens_goldenRotate (loop pkt : Nat) :
    Happens (.goldenRotate loop pkt) (fun s => (SMap.get none s.ms.golden loop).any (fun g => decide (s.ns < g.2 + 1600)) = false)
      fun s => ({ s with ms := { s.ms with golden := SMap.set none s.ms.golden loop (some (pkt, s.ns)) } } : State).arriveNow pkt :=
  happens_of_next fun s hp => by
    show execGoldenRotate loop pkt s = _
    rw [execGoldenRotate, hp]
    rfl

theorem happens_writeForwardApply (id : Nat) (f : Fwd) :
    Happens (.writeForwardApply id) (fun s => (s.ms.fwd.find? fun f => f.id = id) = some f ∧ s.fwdBehind f = false) fun s =>
      (s.forward f).dropMarks := by
  refine happens_of_ret fun s hp => ?_
  obtain ⟨hf, hfirst⟩ := hp
  show execWriteForwardApply id s = _
  rw [execWriteForwardApply, hf]
  dsimp only
  rw [hfirst]
  rfl

theorem happens_migrationEpoch (col : Nat) :
    Happens (.migrationEpoch col) (fun s => col < 64 ∧ (s.sysGet SysReg.migctl 0).getLsbD 63 = true ∧
      SMap.get 0 s.ms.epochs col + 1000 * max 1 (field (s.sysGet SysReg.migctl 0) 23 0) ≤ s.ns) fun s => s.endEpoch col := by
  refine happens_of_ret fun s hp => ?_
  obtain ⟨hcol, hon, hdue⟩ := hp
  show execMigrationEpoch col s = _
  rw [execMigrationEpoch, hon]
  refine if_neg fun h => ?_
  obtain h | h | h := h
  · exact Nat.not_le.mpr hcol h
  · exact Bool.false_ne_true h
  · exact Nat.not_lt.mpr hdue h

theorem happens_migrationDone (pa : Nat) (m : Move) :
    Happens (.migrationDone pa) (fun s => (s.ms.moves.find? fun m => decide (m.old = pa / 2 ^ 16 * 2 ^ 16)) = some m ∧
      s.frameHeld m.old = false ∧ s.frameHeld m.new = false ∧ s.rangeLeased m.old (2 ^ 16) = false ∧ s.leased m.leafPa 8 = false ∧
      okRange m.new (2 ^ 16) = true) fun s => s.finishMove m := by
  refine happens_of_ret fun s hp => ?_
  obtain ⟨hm, hold, hnew, hrange, hleaf, hok⟩ := hp
  show execMigrationDone pa s = _
  rw [execMigrationDone, hm]
  dsimp only
  rw [hold, hnew, hrange, hleaf, hok]
  rfl

theorem happens_migrationDone_held (pa : Nat) (m : Move) :
    Happens (.migrationDone pa) (fun s => (s.ms.moves.find? fun m => decide (m.old = pa / 2 ^ 16 * 2 ^ 16)) = some m ∧
      (s.frameHeld m.old = true ∨ s.frameHeld m.new = true ∨ s.rangeLeased m.old (2 ^ 16) = true ∨ s.leased m.leafPa 8 = true))
      fun s => s := by
  refine happens_of_next fun s hp => ?_
  obtain ⟨hm, hheld⟩ := hp
  have hwaits : (s.frameHeld m.old || s.frameHeld m.new || s.rangeLeased m.old (2 ^ 16) || s.leased m.leafPa 8) = true := by
    simpa [or_assoc] using hheld
  show execMigrationDone pa s = _
  rw [execMigrationDone, hm]
  exact if_pos hwaits

theorem happens_tlbInvalidationArrive (tlb which : Nat) (v : TlbInv) :
    Happens (.tlbInvalidationArrive tlb which) (fun s =>
      (s.ms.invs.find? fun v => decide (v.id = which) && v.tlbs.contains tlb) = some v) fun s =>
    { s with ms := { s.ms with
      tlb := s.ms.tlb.filter fun t => decide (t.tlb ≠ tlb) || !v.names t
      invs := s.ms.invs.map fun x => if x.id = which then { v with tlbs := v.tlbs.erase tlb, upto := s.opId } else x } } :=
  happens_of_next fun s hp => by
    show execTlbInvalidationArrive tlb which s = _
    rw [execTlbInvalidationArrive, hp]

/-- Settles O46, event by event. -/
theorem memoryEvents : Obligations.MemoryEvents := by
  unfold Obligations.MemoryEvents
  refine ⟨happens_longLatencyComplete, happens_leaseHoldEnd, happens_impreciseStoreFault_due, happens_impreciseStoreFault_early,
    ?fixedLatencyWriteback, happens_instructionFetchFill_fetch, happens_instructionFetchFill_prefetch, happens_instructionFetchFill_held,
    ?ownerRecall, happens_upgrade, happens_regionMerge, happens_timeSkew, happens_timeSkewRecovered_level,
    happens_timeSkewRecovered_ahead, happens_goldenRotate, ?bangleDeliver, ?forcedPublish, ?forcedPublishAck,
    happens_writeForwardApply, happens_migrationEpoch, happens_migrationDone, happens_migrationDone_held, happens_tlbInvalidationArrive⟩
  case fixedLatencyWriteback => exact fun _ => happens_of_next fun _ _ => rfl
  case ownerRecall => exact fun _ => happens_of_ret fun _ _ => rfl
  case bangleDeliver => exact fun _ => happens_of_next fun _ _ => rfl
  case forcedPublish => exact fun _ _ => happens_of_ret fun _ _ => rfl
  case forcedPublishAck => exact fun _ _ => happens_of_ret fun _ _ => rfl

end Sys2Proof.Machine
end

section
/-! O60: what a fetch finds, and the order of what a step does. -/

set_option Elab.async false

namespace Sys2Proof.Machine

/-! ### A fetch that finds its word -/

/-- Nothing keeps an agent from code whose lines all translate for the fetch and are in its instruction cache (R141). -/
theorem State.fetchBar_none {s : State} {c : CtxId} {va n : Nat}
    (h : ∀ l ∈ linesOf va n, (∃ pa lf, (s.fetchPlace c (max va (128 * l))).2 = .ok pa lf) ∧
      s.icMissing (s.cacheOf c) (max va (128 * l)) 1 = none) : s.fetchBar c va n = none := by
  refine List.findSome?_eq_none_iff.mpr fun l hl => ?_
  obtain ⟨⟨pa, lf, hplace⟩, hin⟩ := h l hl
  dsimp only
  rw [hplace, hin]
  rfl

section Fetch
variable {s : State} {p : Path} {hw : Word64} {hb wb : List Byte}

theorem State.fetchWord_eq (hlen : p.idx < (Header.ofWord hw).len) (hbar : s.fetchBar p.ctx (p.hdr.toNat + 8 + 10 * p.idx) 10 = none)
    (hbytes : s.icBytes (s.cacheOf p.ctx) (p.hdr.toNat + 8 + 10 * p.idx) 10 = some wb) : s.fetchWord p hw = .word (leNat wb) hw := by
  rw [State.fetchWord, if_neg (Nat.not_le.mpr hlen)]
  dsimp only
  rw [hbar, hbytes]
  rfl

theorem State.fetch_of_known (hk : s.knownHeader p = some hw) : s.fetch p = s.fetchWord p hw := by
  rw [State.fetch, hk]

/-- A header read again, by threads of which some may have just moved to it: the check of R50 passes, and the debugger does not hold it. -/
theorem State.fetch_of_unknown (hk : s.knownHeader p = none) (hal : p.hdr.toNat % 16 = 0) (hbar : s.fetchBar p.ctx p.hdr.toNat 8 = none)
    (hbytes : s.icBytes (s.cacheOf p.ctx) p.hdr.toNat 8 = some hb)
    (hfresh : ((lanesOf p.lanes).any fun l => ((s.ctx p.ctx).lane l).fresh) = true →
      headerTrap p.hdr (BitVec.ofNat 64 (leNat hb)) = none ∧ (p.ctx.isCC = true ∨ s.holdsLaunch (s.ctx p.ctx).handle = false)) :
    s.fetch p = s.fetchWord p (BitVec.ofNat 64 (leNat hb)) := by
  rw [State.fetch, hk]
  dsimp only
  rw [if_neg (not_not.mpr hal), hbar, hbytes]
  dsimp only [Option.getD_some]
  cases hf : (lanesOf p.lanes).any fun l => ((s.ctx p.ctx).lane l).fresh with
  | false => rfl
  | true =>
    obtain ⟨htrap, hhold⟩ := hfresh hf
    have hfree : (!p.ctx.isCC && s.holdsLaunch (s.ctx p.ctx).handle) = false := by
      obtain hcc | hcc := hhold <;> rw [hcc]
      · rfl
      · exact Bool.and_false _
    rw [if_pos rfl, htrap, Bool.true_and, hfree]
    rfl

end Fetch

/-! ### A path's turn -/

/-- The path selected at its word, as its instruction finds it: R141, R143, R154 and R413 have had their part. -/
def State.turnAt (s : State) (p : Path) (hw : Word64) : State :=
  ((((s.fetchTouch p).hints p hw).select p hw).counted p.ctx).injectIssue p.ctx

theorem isWord_of_decode {w : Nat} {i : Instr} (h : decode w = some i) : i.isWord = true := by
  obtain ⟨j, -, hj⟩ := Option.bind_eq_some_iff.mp h
  obtain ⟨⟨-, henc⟩, rfl⟩ : (j.wf = true ∧ j.encode = some w) ∧ j = i := by simpa using hj
  obtain ⟨r, hr, -⟩ := Option.map_eq_some_iff.mp henc
  exact Option.isSome_of_eq_some hr

theorem runPath_word {s : State} {p : Path} {w : Nat} {hw : Word64} (h : s.fetch p = .word w hw) :
    runPath p s = runWord w (s.turnAt p hw) := by
  rw [runPath, State.fetchTurn, h]
  rfl

theorem runWord_of_decode {w : Nat} {i : Instr} (h : decode w = some i) (s : State) : runWord w s = exec i s := by
  rw [runWord, h]
  exact if_pos (isWord_of_decode h)

theorem runWord_of_decode_none {w : Nat} (h : decode w = none) (s : State) : runWord w s = execIllegal w s := by
  rw [runWord, h]

/-! ### The order of what a step does -/

section Order
variable {s : State}

theorem step_of_agenda {e : Instr} {rest : List Instr} (h : s.agenda = e :: rest) :
    step s = committed s (exec e { s with agenda := rest }) := by
  rw [step, advance, h]

theorem step_of_due {c : CtxId} (ha : s.agenda = []) (h : s.dueCtx = some c) :
    step s = committed s (exec (.fixedLatencyWriteback c) s) := by
  simp only [step, advance, ha, h]
  rfl

theorem step_of_clock {e : Auto} (ha : s.agenda = []) (hd : s.dueCtx = none) (h : s.clockEvent = some e) :
    step s = committed s (runAuto e s) := by
  simp only [step, advance, ha, hd, h]

theorem step_of_second {q : Sel} {p : Path} (ha : s.agenda = []) (hd : s.dueCtx = none) (hc : s.clockEvent = none)
    (hq : s.second = some q) (h : ({ s with second := none } : State).secondPath q = some p) :
    step s = committed s (runPath p { s with second := none }) := by
  rw [ha] at h
  simp only [step, advance, ha, hd, hc, hq, h]

theorem step_of_pick {n : Nat} {p : Path} {q : Option Path} (ha : s.agenda = []) (hd : s.dueCtx = none) (hc : s.clockEvent = none)
    (hq : s.second = none) (h : s.pick = some (n, p, q)) :
    step s = committed s (runPath p { s.noteReady n p.ctx with
      turn := n + 1, second := q.map fun q => ⟨q.ctx, q.sub, q.lanes, 0⟩ }) := by
  simp only [step, advance, ha, hd, hc, hq, h]

end Order

/-- A step that takes a path's turn runs the instruction its bytes decode to, or the illegal-instruction trap. -/
theorem step_runs_decoded {s u : State} {p : Path} {w : Nat} {hw : Word64} (hs : step s = committed s (runPath p u))
    (hf : u.fetch p = .word w hw) :
    (∀ i, decode w = some i → step s = committed s (exec i (u.turnAt p hw))) ∧
    (decode w = none → step s = committed s (execIllegal w (u.turnAt p hw))) := by
  rw [hs, runPath_word hf]
  exact ⟨fun i hi => by rw [runWord_of_decode hi], fun hn => by rw [runWord_of_decode_none hn]⟩

/-- Settles O60: a fetch whose lines are there finds the word, and each turn of `advance` runs what its place in the order names. -/
theorem stepRunsDecoded : Obligations.StepRunsDecoded := by
  unfold Obligations.StepRunsDecoded
  refine ⟨?fetch, ?path, ?second, fun s e rest => step_of_agenda, fun s c => step_of_due, fun s e => step_of_clock⟩
  case fetch =>
    intro s p hb wb cache hw fresh here hhdr hword hal hknown hhb hfresh hlen hwb
    have hfound : s.fetchWord p hw = .word (leNat wb) hw := State.fetchWord_eq hlen (State.fetchBar_none hword) hwb
    refine Eq.trans ?_ hfound
    obtain hk | hk := hknown
    · exact State.fetch_of_known hk
    · exact State.fetch_of_unknown hk hal (State.fetchBar_none hhdr) hhb hfresh
  case path => exact fun s n p q w hw ha hd hc hq hpick hp => step_runs_decoded (step_of_pick ha hd hc hq hpick) hp
  case second => exact fun s p q w hw ha hd hc hq hstill hp => step_runs_decoded (step_of_second ha hd hc hq hstill) hp

end Sys2Proof.Machine
end

section
/-! O9: the words of class 0x5 give each participant one value, so each settles by the law of a word that gives a value. -/

set_option Elab.async false

namespace Sys2Proof.Machine

/-! ### The destination of a row -/

/-- The destination of a value of a type is of registers, and holds them all. -/
theorem dk_ty_holds_tyRegs (t : Ty) : (DK.ty t).form = .reg ∧ tyRegs t ≤ (DK.ty t).n := by
  unfold DK.ty tyRegs
  by_cases h : t.bits = 64
  · rw [if_pos h, if_pos h]; exact ⟨rfl, le_rfl⟩
  · rw [if_neg h, if_neg h]; exact ⟨rfl, le_rfl⟩

/-- A row whose destination is of a type has room for the type's registers. -/
theorem row_dst_of_ty {i : Instr} {q : Row} {d : Dst} {t : Ty} (hq : i.row = some q) (hd : q.d = d) (hk : q.dk = .ty t) :
    ∀ r, i.row = some r → r.d = d ∧ ((r.dk.form = .reg ∧ tyRegs t ≤ r.dk.n) ∨ tyRegs t = 1) := by
  intro r hr
  obtain rfl : q = r := Option.some.inj (hq.symm.trans hr)
  exact ⟨hd, .inl (hk ▸ dk_ty_holds_tyRegs t)⟩

/-- One register fits whatever destination a row admits. -/
theorem row_dst_of_one {i : Instr} {q : Row} {d : Dst} (hq : i.row = some q) (hd : q.d = d) :
    ∀ r, i.row = some r → r.d = d ∧ ((r.dk.form = .reg ∧ 1 ≤ r.dk.n) ∨ 1 = 1) := by
  intro r hr
  obtain rfl : q = r := Option.some.inj (hq.symm.trans hr)
  exact ⟨hd, .inr rfl⟩

/-! ### Shuffles, and the trees of reductions and scans -/

/-- A shuffle by an operand, where `f` names the source lane in a segment (R202, R203). -/
theorem givesShuffle_of_shufT {i : Instr} {t : TWord} {wd : Nat} {f : Nat → Nat → Nat → Nat} {q : Row}
    (he : ∀ s, exec i s = issueWith i 8 (shufT t wd f) s) (hq : i.row = some q) (hd : q.d = t.d) (hk : q.dk = .ty t.ty) :
    GivesShuffle i t.d (tyRegs t.ty) (decide (t.ty.bits = 64)) t.a fun is s l => f (64 / 2 ^ wd) l (is.src s false t.b l) :=
  gives_of_value he (row_dst_of_ty hq hd hk)

/-- A shuffle by an immediate, where `f` names the source lane in a segment (R202, R203). -/
theorem givesShuffle_of_shufQ {i : Instr} {w : QWord} {n wd : Nat} {f : Nat → Nat → Nat → Nat} {q : Row}
    (he : ∀ s, exec i s = issueWith i 8 (shufQ w n wd f) s) (hq : i.row = some q) (hd : q.d = w.d) :
    GivesShuffle i w.d 1 false w.a fun _ _ l => f (64 / 2 ^ wd) l n :=
  gives_of_value he (row_dst_of_one hq hd)

/-- A word of a tree: the participants' sources reduced or scanned, but on a column core its source without a flag (R204; 03 R79).
With no participant no step of the tree raises a flag, since the word ends its issue without an effect. -/
theorem gives_of_treeEff {i : Instr} {t : TWord} {op : RedOp} {scan : Bool} {q : Row}
    (he : ∀ s, exec i s = issueWith i 14 (treeEff t op scan) s) (hq : i.row = some q) (hd : q.d = t.d) (hk : q.dk = .ty t.ty) :
    Gives i 14 t.d (tyRegs t.ty)
      (fun is s l => if is.ctx.isCC then is.ty s t.ty t.a l else (reduced t op scan (laneSources t is s) l).bits)
      (fun is s => if is.act = 0 ∨ is.ctx.isCC then 0 else treeFlags t op scan (laneSources t is s)) := by
  refine gives_of_eff (fp := t.ty.isFloat) he (fun is s ha => ?effect) (fun is s h0 => if_pos (.inl h0)) (row_dst_of_ty hq hd hk)
  case effect =>
    simp only [ha, false_or]
    rfl

/-! ### The obligation -/

/-- Settles O9: a shuffle by `shufT` or `shufQ`, a reduction and a scan by `treeEff`, and a broadcast by the value it gives each lane. -/
theorem crossLaneWords : Obligations.CrossLaneWords := by
  unfold Obligations.CrossLaneWords
  refine ⟨?idx, ?up, ?down, ?xor, ?idxImm, ?upImm, ?downImm, ?xorImm, ?redl, ?scanl, ?bcast⟩
  case idx | up | down | xor => exact fun _ _ => givesShuffle_of_shufT (fun _ => rfl) rfl rfl rfl
  case idxImm | upImm | downImm | xorImm => exact fun _ _ _ => givesShuffle_of_shufQ (fun _ => rfl) rfl rfl
  case redl | scanl => exact fun _ _ => gives_of_treeEff (fun _ => rfl) rfl rfl rfl
  case bcast => exact fun _ => gives_of_value (fun _ => rfl) (row_dst_of_ty rfl rfl rfl)

end Sys2Proof.Machine
end

section
/-! O54: each event of resets, bring-up, alarms, the host, the debug window, registers and errors, where its condition holds. -/

set_option Elab.async false

namespace Sys2Proof.Machine

/-! ### Resets, bring-up and alarms (20 R427, R428) -/

theorem happens_bootimgWrite_starts (v : Word64) :
    Happens (.bootimgWrite v) (fun s => s.bootStage = 0x01 ∧ field v 63 48 ≠ 0 ∧ field v 47 46 = 0) fun s =>
      ({ s with se := { s.se with bootimg := v &&& 0xFFFFFFFFFFFF0000 } } : State).setStage 0x02 :=
  happens_of_next fun _ hp => congrArg Host.Outcome.next (if_pos hp)

theorem happens_bootimgWrite_ignored (v : Word64) :
    Happens (.bootimgWrite v) (fun s => s.bootStage ≠ 0x01 ∨ field v 63 48 = 0 ∨ field v 47 46 ≠ 0) fun s => s := by
  refine happens_of_next fun s hp => congrArg Host.Outcome.next (if_neg fun hc => ?_)
  obtain ⟨hstage, hsize, hbase⟩ := hc
  obtain h | h | h := hp
  · exact h hstage
  · exact hsize h
  · exact h hbase

theorem happens_runtimeVerifyDone_starts (ok : Bool) (entry : Word64) :
    Happens (.runtimeVerifyDone ok entry) (fun s => s.bootStage = 0x02 ∧ (ok = true ∨ s.se.lifecycle = 2)) fun s =>
      let u := ((s.setStage 0x03).sysPut SysReg.cstat 0 1).modCtx (.cc 0) fun c =>
        { (c.modLane 0 fun x => x.moveTo entry) with run := .running }
      { u with se := { u.se with held := false, measured := some s.imageSha } } := by
  refine happens_of_next fun s hp => ?_
  obtain ⟨hstage, hgood⟩ := hp
  have hpasses : ¬ ((!ok) = true ∧ s.se.lifecycle ≠ 2) := by
    rintro ⟨hbad, hlife⟩
    obtain rfl | h := hgood
    · exact Bool.false_ne_true hbad
    · exact hlife h
  exact (if_neg (not_not.mpr hstage)).trans (if_neg hpasses)

theorem happens_runtimeVerifyDone_fails (entry : Word64) :
    Happens (.runtimeVerifyDone false entry) (fun s => s.bootStage = 0x02 ∧ s.se.lifecycle ≠ 2) fun s => s.setStage 0xF1 :=
  happens_of_next fun _ hp => (if_neg (not_not.mpr hp.1)).trans (if_pos ⟨rfl, hp.2⟩)

/-- What a source's response does, by its code (R428). -/
def State.respond (s : State) (code : Nat) : State :=
  match code with
  | 0 => { s with se := { s.se with alarms := s.se.alarms + 1 } }
  | 1 => s.powerReset
  | 2 => { s with se := { s.se with keysErased := true } }
  | _ => { s with se := { s.se with keysErased := true, allErased := true } }

/-- An armed source's alarm has its response. -/
theorem happens_securityAlarm (src : AlarmSrc) (code : Nat) :
    Happens (.securityAlarm src) (fun s => (s.pw.mstate ≠ 2 ∨ alarmInM2 src = true) ∧ Config.alarmResponse (alarmPlace src) % 4 = code)
      fun s => s.respond code := by
  refine happens_of_next fun s hp => ?_
  obtain ⟨harmed, rfl⟩ := hp
  have hacts : ¬ (s.pw.mstate = 2 ∧ (!alarmInM2 src) = true) := by
    rintro ⟨hm2, hoff⟩
    obtain h | h := harmed
    · exact h hm2
    · rw [h] at hoff; exact Bool.false_ne_true hoff
  refine (if_neg hacts).trans ?_
  generalize Config.alarmResponse (alarmPlace src) % 4 = code
  match code with
  | 0 | 1 | 2 | _ + 3 => rfl

/-! ### The host's accesses (20 R429; 09 R230) -/

theorem happens_apertureRead {off n : Nat} (h : off + n ≤ 2 ^ 36) :
    Happens (.apertureRead off n) (fun _ => True) fun s => s.hostRead (s.aperturePa off) n :=
  happens_of_ret fun _ _ => if_neg (Nat.not_lt.mpr h)

theorem happens_apertureWrite {off : Nat} {bytes : List Byte} (h : off + bytes.length ≤ 2 ^ 36) :
    Happens (.apertureWrite off bytes) (fun _ => True) fun s => s.hostWrite (s.aperturePa off) bytes :=
  happens_of_ret fun _ _ => if_neg (Nat.not_lt.mpr h)

section Queue
variable {s : State} {h : HostAcc} {rest : List HostAcc}

theorem State.goHost_nil (n : Nat) (hq : s.se.hostq = []) : State.goHost n s = s := by
  cases n with
  | zero => rfl
  | succ n => rw [State.goHost, hq]

theorem State.goHost_cons (n : Nat) (hq : s.se.hostq = h :: rest) : State.goHost (n + 1) s =
    if (s.tryHost h).2 then State.goHost n { (s.tryHost h).1 with se := { (s.tryHost h).1.se with hostq := rest } } else (s.tryHost h).1 := by
  rw [State.goHost, hq]

theorem State.goHost_waits (n : Nat) (hq : s.se.hostq = h :: rest) (hw : (s.tryHost h).2 = false) :
    State.goHost (n + 1) s = (s.tryHost h).1 := by
  rw [State.goHost_cons n hq, hw]; rfl

theorem State.goHost_done (n : Nat) (hq : s.se.hostq = h :: rest) (hd : (s.tryHost h).2 = true) :
    State.goHost (n + 1) s = State.goHost n { (s.tryHost h).1 with se := { (s.tryHost h).1.se with hostq := rest } } := by
  rw [State.goHost_cons n hq, hd]; rfl

end Queue

section Access
variable {s z : State} {id pa n : Nat}

theorem State.tryHost_read_refused (hok : s.apertureOk pa n false = false) : s.tryHost ⟨id, pa, none, n⟩ =
    ({ s.apertureErr with se := { s.apertureErr.se with hostOut := List.replicate n 0xFF } }, true) :=
  if_pos (by rw [Bool.not_eq_true']; exact hok)

theorem State.tryHost_write_refused {bs : List Byte} (hok : s.apertureOk pa n true = false) :
    s.tryHost ⟨id, pa, some bs, n⟩ = (s.apertureErr, true) :=
  if_pos (by rw [Bool.not_eq_true']; exact hok)

theorem State.tryHost_waits {h : HostAcc} (hok : s.apertureOk h.pa h.n h.data.isSome = true)
    (hz : s.engineReady h.id true (.all (homeOf h.pa)) true h.accs = (z, false)) : s.tryHost h = (z, false) := by
  rw [State.tryHost, if_neg (by rw [hok]; decide)]
  extract_lets ready reads
  have hready : ready = (z, false) := hz
  clear_value ready
  subst hready
  rfl

theorem State.tryHost_reads (hok : s.apertureOk pa n false = true)
    (hz : s.engineReady id true (.all (homeOf pa)) true (HostAcc.accs ⟨id, pa, none, n⟩) = (z, true)) :
    let h : HostAcc := ⟨id, pa, none, n⟩
    let r := z.engineReads id (.all (homeOf pa)) h.accs
    s.tryHost h = ({ r.1.engineDone id with se := { (r.1.engineDone id).se with
      hostOut := ((h.accs.map EAcc.n).zip r.2).flatMap fun p => leBytes p.1 p.2 } }, true) := by
  intro h r
  rw [State.tryHost, if_neg (by rw [show s.apertureOk h.pa h.n h.data.isSome = true from hok]; decide)]
  extract_lets ready reads
  have hready : ready = (z, true) := hz
  clear_value ready
  subst hready
  rfl

theorem State.tryHost_writes {bs : List Byte} (hok : s.apertureOk pa n true = true)
    (hz : s.engineReady id true (.all (homeOf pa)) true (HostAcc.accs ⟨id, pa, some bs, n⟩) = (z, true)) :
    s.tryHost ⟨id, pa, some bs, n⟩ =
      (((linePieces pa n).foldl (fun s p => s.engineWrite .nc p.1 ((bs.drop (p.1 - pa)).take p.2)) z).engineDone id, true) := by
  rw [State.tryHost, if_neg (by rw [show s.apertureOk pa n (some bs).isSome = true from hok]; decide)]
  extract_lets ready reads
  have hready : ready = (z, true) := hz
  clear_value ready
  subst hready
  rfl

end Access

/-! ### The debug window (20 R431, R432) -/

/-- A write of a register of the window that needs invasive debug: done at that level, below it ignored with APERR set (R431). -/
def WindowWrite (i : Instr) (f : State → State) : Prop := Happens i (fun _ => True) fun s => s.debugWrite 2 f

section Window
variable {i : Instr} {f : State → State}

theorem WindowWrite.happens_invasive (h : WindowWrite i f) : Happens i (fun s => 2 ≤ s.se.dbg) f := by
  intro s hlevel
  have hwrite : s.debugWrite 2 f = f s := if_pos hlevel
  rw [← hwrite]
  exact h s trivial

theorem WindowWrite.happens_refused (h : WindowWrite i f) : Happens i (fun s => s.se.dbg < 2) State.apertureErr := by
  intro s hlevel
  have hwrite : s.debugWrite 2 f = s.apertureErr := if_neg (Nat.not_le.mpr hlevel)
  rw [← hwrite]
  exact h s trivial

end Window

/-- A settlement written to DHACT. -/
def State.actWritten (s : State) (act : Nat) : State := { s with se := { s.se with dhact := s.se.dhact ++ [act] } }

theorem windowWrite_ddataWrite (v : Word64) :
    WindowWrite (.ddataWrite v) fun s => s.hostWrite s.se.daddr.toNat (leBytes 8 v.toNat) := happens_of_ret fun _ _ => rfl

theorem windowWrite_dccWrite (v : Word64) : WindowWrite (.dccWrite v) fun s => (List.range 64).foldl (fun s n =>
    if v.getLsbD n then s.modCtx (.cc n) fun c => { c with run := .halted } else s) s := happens_of_next fun _ _ => rfl

theorem windowWrite_dctlWrite (v : Word64) :
    WindowWrite (.dctlWrite v) fun s => { s with se := { s.se with dctl := v &&& 3 } } := happens_of_next fun _ _ => rfl

theorem windowWrite_dhactResume : WindowWrite .dhactResume fun s => State.settleHeld 64 (s.actWritten 0) := happens_of_ret fun _ _ => rfl

theorem windowWrite_dhactSkip : WindowWrite .dhactSkip fun s => State.settleHeld 64 (s.actWritten 1) := happens_of_ret fun _ _ => rfl

theorem windowWrite_dhactEnd : WindowWrite .dhactEnd fun s => State.settleHeld 64 (s.actWritten 2) := happens_of_ret fun _ _ => rfl

theorem happens_windowWrite_refused {i : Instr} {v : Word64}
    (hi : i = .ddataWrite v ∨ i = .dccWrite v ∨ i = .dctlWrite v ∨ i = .dhactResume ∨ i = .dhactSkip ∨ i = .dhactEnd) :
    Happens i (fun s => s.se.dbg < 2) fun s => s.apertureErr := by
  obtain rfl | rfl | rfl | rfl | rfl | rfl := hi
  · exact (windowWrite_ddataWrite v).happens_refused
  · exact (windowWrite_dccWrite v).happens_refused
  · exact (windowWrite_dctlWrite v).happens_refused
  · exact windowWrite_dhactResume.happens_refused
  · exact windowWrite_dhactSkip.happens_refused
  · exact windowWrite_dhactEnd.happens_refused

theorem happens_dhact {i : Instr} {act : Nat}
    (hi : (i, act) = (.dhactResume, 0) ∨ (i, act) = (.dhactSkip, 1) ∨ (i, act) = (.dhactEnd, 2)) :
    Happens i (fun s => 2 ≤ s.se.dbg) fun s => State.settleHeld 64 (s.actWritten act) := by
  obtain hi | hi | hi := hi
  · cases hi; exact windowWrite_dhactResume.happens_invasive
  · cases hi; exact windowWrite_dhactSkip.happens_invasive
  · cases hi; exact windowWrite_dhactEnd.happens_invasive

theorem happens_ddataRead : Happens .ddataRead (fun s => s.se.dbg ≠ 0) fun s => s.hostRead s.se.daddr.toNat 8 :=
  happens_of_ret fun _ hp => if_neg hp

theorem happens_ddataRead_locked :
    Happens .ddataRead (fun s => s.se.dbg = 0) fun s => { s with se := { s.se with hostOut := leBytes 8 0 } } := by
  refine happens_of_next fun s hp => (if_pos hp).trans ?_
  rw [State.debugRead, hp]
  rfl

theorem happens_drdataRead : Happens .drdataRead (fun s => 1 ≤ s.se.dbg) fun s => { s with
    freeCtr := s.freeCtr + 1, se := { s.se with hostOut := leBytes 8 s.debugReg.toNat } } := by
  refine happens_of_next fun s hp => ?_
  show execDrdataRead s = _
  rw [execDrdataRead, State.debugRead, if_pos hp]

section Settle
variable {s : State} {act : Nat} {rest : List Nat} {e : HoldEntry} {more : List HoldEntry}

/-- The oldest settlement taken. -/
def State.actTaken (s : State) (rest : List Nat) : State := { s.pruneHold with se := { s.pruneHold.se with dhact := rest } }

theorem State.settleHeld_nil (n : Nat) (ha : s.se.dhact = act :: rest) (hh : s.pruneHold.se.dhold = []) :
    State.settleHeld (n + 1) s = State.settleHeld n (s.actTaken rest) := by
  rw [State.settleHeld]
  split
  next hn => rw [ha] at hn; cases hn
  next hc =>
    rw [ha] at hc
    cases hc
    extract_lets u se done
    split
    next => rfl
    next hd => rw [hh] at hd; cases hd

/-- The oldest settlement meets the oldest entry: a column core's is settled at once; a sub-gang's waits while its gang is being saved. -/
theorem State.settleHeld_cons (n : Nat) (ha : s.se.dhact = act :: rest) (hh : s.pruneHold.se.dhold = e :: more) :
    State.settleHeld (n + 1) s =
      let done := s.actTaken rest
      if e.sub = 0 then State.settleHeld n ((done.settleCore (e.gid / 2 ^ 26) act).dropHold e.gid 0)
      else if (done.trapret e.gid e.sub act).2 = 2 then s.pruneHold
      else State.settleHeld n ((done.trapret e.gid e.sub act).1.dropHold e.gid e.sub) := by
  rw [State.settleHeld]
  split
  next hn => rw [ha] at hn; cases hn
  next hc =>
    rw [ha] at hc
    cases hc
    extract_lets u se done
    split
    next hd => rw [hh] at hd; cases hd
    next hd =>
      rw [hh] at hd
      cases hd
      refine if_congr Iff.rfl rfl ?_
      split
      next heq => exact (if_pos (congrArg Prod.snd heq)).symm
      next t k hne heq =>
        have htrap : (s.actTaken rest).trapret e.gid e.sub act = (t, k) := heq
        rw [htrap]
        exact (if_neg hne).symm

theorem State.settleHeld_core (n : Nat) (ha : s.se.dhact = act :: rest) (hh : s.pruneHold.se.dhold = e :: more) (h0 : e.sub = 0) :
    State.settleHeld (n + 1) s = State.settleHeld n (((s.actTaken rest).settleCore (e.gid / 2 ^ 26) act).dropHold e.gid 0) :=
  (State.settleHeld_cons n ha hh).trans (if_pos h0)

theorem State.settleHeld_saving (n : Nat) (ha : s.se.dhact = act :: rest) (hh : s.pruneHold.se.dhold = e :: more) (h0 : e.sub ≠ 0)
    (h2 : ((s.actTaken rest).trapret e.gid e.sub act).2 = 2) : State.settleHeld (n + 1) s = s.pruneHold :=
  (State.settleHeld_cons n ha hh).trans ((if_neg h0).trans (if_pos h2))

theorem State.settleHeld_sub (n : Nat) (ha : s.se.dhact = act :: rest) (hh : s.pruneHold.se.dhold = e :: more) (h0 : e.sub ≠ 0)
    (h2 : ((s.actTaken rest).trapret e.gid e.sub act).2 ≠ 2) : State.settleHeld (n + 1) s =
      State.settleHeld n (((s.actTaken rest).trapret e.gid e.sub act).1.dropHold e.gid e.sub) :=
  (State.settleHeld_cons n ha hh).trans ((if_neg h0).trans (if_neg h2))

end Settle

/-! ### Registers and event queues (04 R106; 09 R223; 19 R404, R405) -/

theorem happens_corbindWrite {col : Nat} (h : col < 64) (v : Word64) :
    Happens (.corbindWrite col v) (fun _ => True) fun s => s.writeBinding col v :=
  happens_of_next fun _ _ => if_pos h

theorem happens_wsstateTakeEffect (half : Nat) (w : WsChange) :
    Happens (.wsstateTakeEffect half) (fun s => s.wsDue half = some w) fun s =>
      ({ s with ms := { s.ms with
        wsEff := SMap.set 0 s.ms.wsEff half w.value, wsPend := s.ms.wsPend.erase w } } : State).postEvent w.col w.col 0x83 0 0 0 w.value
          (BitVec.ofNat 64 (SysReg.wsstate0 + half)) :=
  happens_of_ret fun s hp => by
    show execWsstateTakeEffect half s = _
    rw [execWsstateTakeEffect, hp]

theorem happens_evqOverflowPost_on (col : Nat) (r : OvfRec) :
    Happens (.evqOverflowPost col) (fun s => s.ovfNext col = some r ∧ s.evqOn r.queue = true) fun s =>
      ({ s with ev := { s.ev with ovf := s.ev.ovf.erase r } } : State).evqWrite r.queue col r.bytes :=
  happens_of_ret fun s hp => by
    show execEvqOverflowPost col s = _
    rw [execEvqOverflowPost, hp.1]
    exact if_pos hp.2

theorem happens_evqOverflowPost_off (col : Nat) (r : OvfRec) :
    Happens (.evqOverflowPost col) (fun s => s.ovfNext col = some r ∧ s.evqOn r.queue = false) fun s =>
      let u : State := { s with ev := { s.ev with ovf := s.ev.ovf.erase r } }
      if s.evqOn col then u.evqOffer col col r.bytes else u.evqDrop none := by
  intro s hp hu
  obtain ⟨hnext, hoff⟩ := hp
  show execEvqOverflowPost col s = _
  rw [execEvqOverflowPost, hnext]
  refine (if_neg (Bool.eq_false_iff.mp hoff)).trans ?_
  dsimp only at hu ⊢
  split
  next hcol => rw [if_pos hcol] at hu; exact ret_next hu
  next => rfl

theorem happens_evqHeadHostWrite {q : Nat} (h : q < 256) (head : Nat) :
    Happens (.evqHeadHostWrite q head) (fun s => s.pw.mstate ≠ 2) fun s =>
      (s.sysPut SysReg.evqctl q (setField (s.sysGet SysReg.evqctl q) 15 0 (head % 65536))).movedHead q := by
  refine happens_of_ret fun s hp => if_neg fun hc => ?_
  obtain hq | hm := hc
  · exact Nat.not_le.mpr h hq
  · exact hp hm

theorem length_leBytes (n : Nat) : ∀ v, (leBytes n v).length = n := by
  induction n with
  | zero => exact fun _ => rfl
  | succ n ih => exact fun v => congrArg (· + 1) (ih (v / 256))

theorem length_recordBytes (ty fl cause col count : Nat) (a b t : Word64) : (recordBytes ty fl cause col count a b t).length = 32 := by
  simp [recordBytes, length_leBytes]

/-- An enabled queue with room, none of whose records waits in the column's overflow store, takes a record at once. -/
theorem State.post_writes {s : State} {q col : Nat} {bs : List Byte} (hq : q < 256) (hon : s.evqOn q = true)
    (hnone : ∀ r ∈ s.ev.ovf, r.col = col → r.queue ≠ q) (hroom : s.evqNeeds q bs ≤ s.evqFree q) :
    s.post q col bs = s.evqWrite q col bs := by
  have hwaiting : ((s.ev.ovf.filter fun r => r.col = col).any fun r => r.queue = q) = false := by
    simpa [List.any_eq_false] using hnone
  rw [State.post, if_pos hq, if_pos hon, State.evqOffer, hwaiting, decide_eq_true hroom]
  rfl

theorem State.postEvent_writes {s : State} {q col : Nat} (ty fl cause count : Nat) (a b : Word64) (hq : q < 256) (hon : s.evqOn q = true)
    (hnone : ∀ r ∈ s.ev.ovf, r.col = col → r.queue ≠ q) (hroom : 0 < s.evqFree q) :
    s.postEvent q col ty fl cause count a b =
      s.evqWrite q col (recordBytes ty fl cause col count a b (s.sliceTime col)) := by
  refine State.post_writes hq hon hnone ?_
  rw [State.evqNeeds, length_recordBytes, if_neg (by decide)]
  exact hroom

/-- A record of one entry is put at TAIL, the host told, and a waiting column core woken. -/
theorem State.evqWrite_of_short {s : State} {q col : Nat} {bs : List Byte} (h : bs.length ≠ 64) : s.evqWrite q col bs =
    let v := s.evqPut q bs
    let ctl := v.sysGet SysReg.evqctl q
    (if ctl.getLsbD 60 then { v with ev := { v.ev with msix := v.ev.msix ++ [field ctl 53 43] } } else v).wakeWfi q := by
  rw [State.evqWrite, if_neg h]

/-! ### Errors (19 R412; 12 R287; 15 R340) -/

theorem happens_errorDetected {arr col core : Nat} (loc : Nat) (uc : Bool) (synd : Byte) (gid : Word) (harr : arr < 10)
    (hcol : col < 64) (hcore : core < if arr = 8 then 5 else 4) :
    Happens (.errorDetected arr col core loc uc synd gid) (fun _ => True) fun s =>
      let inst := errlogInst arr col core
      let u := (({ s with freeCtr := s.freeCtr + 1 } : State).logError inst loc uc synd gid).errorEffect arr col core loc uc
      let v : State := { u with ev := { u.ev with inject := u.ev.inject.filter fun i => !decide (i.stage = 2 ∧ i.arr = arr ∧
        i.col = col ∧ i.loc = loc ∧ (perCoreArr arr → i.core = core)) } }
      if uc then v.machineEvent col col 1 0x02 (BitVec.ofNat 64 loc) (v.sysGet SysReg.errlog0 inst)
      else if (s.sysGet SysReg.errlog0 inst).getLsbD 63 then v
      else v.machineEvent col col 0 0x01 (BitVec.ofNat 64 loc) (v.sysGet SysReg.errlog0 inst) := by
  have hthere : ¬ (10 ≤ arr ∨ 64 ≤ col ∨ (if arr = 8 then 5 else 4) ≤ core) := by omega
  refine happens_of_ret fun s _ => (if_neg hthere).trans (congrArg Machine.ret ?_)
  dsimp only
  cases uc
  · cases (s.sysGet SysReg.errlog0 (errlogInst arr col core)).getLsbD 63 <;> rfl
  · rfl

theorem State.errorEffect_none {arr : Nat} (s : State) (col core loc : Nat) {uc : Bool} (h8 : arr ≠ 8) (h9 : arr ≠ 9 ∨ uc = false) :
    s.errorEffect arr col core loc uc = s := by
  have hstage : ¬ (arr = 9 ∧ uc = true) := by
    rintro ⟨rfl, rfl⟩
    simp at h9
  rw [State.errorEffect, if_neg h8, if_neg hstage]

theorem happens_errlogClear {col core arr : Nat} (harr : arr < 10) (hcol : col < 64) (hcore : core < 4) :
    Happens (.errlogClear col core arr) (fun _ => True) fun s => s.clearErrlog (errlogInst arr col core) := by
  have hthere : ¬ (10 ≤ arr ∨ 64 ≤ col ∨ 4 ≤ core) := by omega
  exact happens_of_next fun s _ => if_neg hthere

/-! ### Register writes, and BAR 0 (19 R402; 20 R429, R431) -/

theorem happens_registerWrite {reg col core : Nat} (v : Word64) (hreg : reg < 0x10000) (hcol : col < 64) (hcore : core < 4) :
    Happens (.registerWrite reg col core v) (fun _ => True) fun s => s.writeReg reg col v := by
  have hthere : ¬ (64 ≤ col ∨ 4 ≤ core) := by omega
  exact happens_of_ret fun s _ => (if_neg (Nat.not_le.mpr hreg)).trans (if_neg hthere)

theorem happens_registerWrite_bar0 (off col core : Nat) (v : Word64) :
    Happens (.registerWrite (0x10000 + off) col core v) (fun _ => True) fun s => s.bar0Write off v := by
  refine happens_of_next fun s _ => (if_pos (Nat.le_add_right _ _)).trans ?_
  rw [Nat.add_sub_cancel_left]

theorem State.bar0Write_apbase {s : State} (v : Word64) (h : s.pw.mstate ≠ 2) :
    s.bar0Write 0x8 v = { s with se := { s.se with apbase := v &&& 0xFFF000000000 } } := by
  simp [State.bar0Write, h]

theorem State.bar0Write_lattol {s : State} {n : Nat} (v : Word64) (h : s.pw.mstate ≠ 2) (hn : n < 64) :
    s.bar0Write (0x2000 + 8 * n) v = s.sysPut SysReg.lattol n (v &&& 0xFFFFFFFF) := by
  unfold State.bar0Write
  simp (disch := omega) only [if_neg, if_pos]
  rw [Nat.add_sub_cancel_left, Nat.mul_div_cancel_left n (by decide)]

theorem State.bar0Write_dhact_read {s : State} {v : Word64} (h : v.toNat % 4 = 3) : s.bar0Write 0x4060 v = s.debugWrite 2 id :=
  if_pos h

/-- Settles O54, event by event; the queue of host accesses, the settlements of the hold list and BAR 0 by the equations of what carries
them on. -/
theorem hostEvents : Obligations.HostEvents := by
  unfold Obligations.HostEvents
  refine ⟨?powerOnReset, happens_bootimgWrite_starts, happens_bootimgWrite_ignored, happens_runtimeVerifyDone_starts,
    happens_runtimeVerifyDone_fails, fun src => happens_securityAlarm src 0, fun src => happens_securityAlarm src 1,
    fun src => happens_securityAlarm src 2, fun src => happens_securityAlarm src 3, fun _ _ => happens_apertureRead,
    fun _ _ => happens_apertureWrite, ?goHost, fun _ _ _ _ => State.tryHost_read_refused, fun _ _ _ _ _ => State.tryHost_write_refused,
    fun _ _ _ => State.tryHost_waits, fun _ _ _ _ _ => State.tryHost_reads, fun _ _ _ _ _ _ => State.tryHost_writes, happens_ddataRead,
    happens_ddataRead_locked, fun v => (windowWrite_ddataWrite v).happens_invasive, happens_drdataRead,
    fun v => (windowWrite_dccWrite v).happens_invasive, fun v => (windowWrite_dctlWrite v).happens_invasive,
    fun _ _ => happens_windowWrite_refused, fun _ _ => happens_dhact, ?settleHeld, fun _ _ _ => rfl,
    fun _ v hcol => happens_corbindWrite hcol v, happens_wsstateTakeEffect, happens_evqOverflowPost_on, happens_evqOverflowPost_off,
    ?postEvent, fun _ head hq => happens_evqHeadHostWrite hq head,
    fun _ _ _ loc uc synd gid => happens_errorDetected loc uc synd gid, ?errorEffect, fun _ _ _ => happens_errlogClear,
    fun _ _ _ v => happens_registerWrite v, happens_registerWrite_bar0, ?bar0Write⟩
  case powerOnReset => exact fun _ => happens_of_next fun _ _ => rfl
  case goHost => exact fun n _ _ _ => ⟨State.goHost_nil n, State.goHost_waits n, State.goHost_done n⟩
  case settleHeld =>
    exact fun n _ _ _ _ _ ha => ⟨State.settleHeld_nil n ha, State.settleHeld_core n ha, State.settleHeld_saving n ha,
      State.settleHeld_sub n ha⟩
  case postEvent =>
    intro s q col ty fl cause count a b hq hon hnone hroom
    rw [State.postEvent_writes ty fl cause count a b hq hon hnone hroom,
      State.evqWrite_of_short (by rw [length_recordBytes]; decide)]
    rfl
  case errorEffect => exact fun s _ col core loc _ => ⟨fun h8 h9 => s.errorEffect_none col core loc h8 h9, rfl, rfl⟩
  case bar0Write =>
    exact fun s v => ⟨rfl, rfl, rfl, rfl, rfl, State.bar0Write_dhact_read, fun hm => ⟨State.bar0Write_apbase v hm,
      fun _ hn => State.bar0Write_lattol v hm hn⟩⟩

end Sys2Proof.Machine
end

section
/-! O12: the swizzle as an exclusive or (04 R99), and the window of a record without a swizzle (10 R245). -/

set_option Elab.async false

namespace Sys2Proof

/-! ### The swizzle -/

/-- An exclusive or with a chunk number changes the chunk alone: the line and the place in the chunk stay. -/
theorem xor_chunk (o : Nat) {k : Nat} (hk : k < 8) :
    (o ^^^ (k * 16)) / 128 = o / 128 ∧ (o ^^^ (k * 16)) % 16 = o % 16 ∧ (o ^^^ (k * 16)) / 16 % 8 = o / 16 % 8 ^^^ k := by
  have hline : (o ^^^ (k * 16)) / 2 ^ 7 = o / 2 ^ 7 ^^^ k * 16 / 2 ^ 7 := Nat.xor_div_two_pow
  have hlow : (o ^^^ (k * 16)) % 2 ^ 4 = o % 2 ^ 4 ^^^ k * 16 % 2 ^ 4 := Nat.xor_mod_two_pow
  have hrest : (o ^^^ (k * 16)) / 2 ^ 4 = o / 2 ^ 4 ^^^ k * 16 / 2 ^ 4 := Nat.xor_div_two_pow
  have hchunk : (o / 2 ^ 4 ^^^ k) % 2 ^ 3 = o / 2 ^ 4 % 2 ^ 3 ^^^ k % 2 ^ 3 := Nat.xor_mod_two_pow
  rw [show k * 16 / 2 ^ 7 = 0 by omega, Nat.xor_zero] at hline
  rw [show k * 16 % 2 ^ 4 = 0 by omega, Nat.xor_zero] at hlow
  rw [show k * 16 / 2 ^ 4 = k by omega] at hrest
  rw [show k % 2 ^ 3 = k by omega, ← hrest] at hchunk
  exact ⟨hline, hlow, hchunk⟩

/-- The number of bits of the line index that a swizzle takes, at most three, names a chunk. -/
theorem lineBits_lt (o : Nat) {m : Nat} (hm : m ≤ 3) : o / 128 % 2 ^ m < 8 :=
  (Nat.mod_lt _ (Nat.two_pow_pos m)).trans_le (Nat.pow_le_pow_right (by decide) hm)

theorem swizzle_eq_xor (o : Nat) {m : Nat} (hm : m ≤ 3) : swizzle o m = ((o ^^^ (o / 128 % 2 ^ m * 16) : Nat) : Int) := by
  obtain ⟨hline, hlow, hchunk⟩ := xor_chunk o (lineBits_lt o hm)
  have hc : ((o : Int) / 16 % 8).toNat = o / 16 % 8 := by omega
  have hk : ((o : Int) / 128 % (2 ^ m : Nat)).toNat = o / 128 % 2 ^ m := by
    rw [show ((o : Int) / 128 % (2 ^ m : Nat)) = ((o / 128 % 2 ^ m : Nat) : Int) by push_cast; rfl, Int.toNat_natCast]
  rw [swizzle, hc, hk, ← hchunk]
  omega

/-- A second swizzle takes the same bits of the same line, and undoes the first. -/
theorem swizzle_swizzle (o : Nat) {m : Nat} (hm : m ≤ 3) : swizzle (swizzle o m) m = o := by
  rw [swizzle_eq_xor o hm, swizzle_eq_xor _ hm, (xor_chunk o (lineBits_lt o hm)).1, Nat.xor_assoc, Nat.xor_self, Nat.xor_zero]

theorem swizzle_keeps_line (o : Nat) {m : Nat} (hm : m ≤ 3) :
    (swizzle o m).toNat / 128 = o / 128 ∧ (swizzle o m).toNat % 16 = o % 16 := by
  obtain ⟨hline, hlow, -⟩ := xor_chunk o (lineBits_lt o hm)
  rw [swizzle_eq_xor o hm, Int.toNat_natCast]
  exact ⟨hline, hlow⟩

theorem swizzle_none (o : Int) : swizzle o 0 = o := by
  rw [swizzle, show (o / 128 % (2 ^ 0 : Nat)).toNat = 0 by omega]
  simp

/-! ### Fields of a number and of a sealed record -/

theorem testBit_bitsOf (x hi lo i : Nat) : (bitsOf x hi lo).testBit i = (decide (i < hi + 1 - lo) && x.testBit (lo + i)) := by
  rw [bitsOf, Nat.testBit_mod_two_pow, Nat.testBit_div_two_pow, Nat.add_comm i lo]

/-- A field of the low bits of a number. -/
theorem bitsOf_mod_two_pow (x : Nat) {hi w : Nat} (lo : Nat) (h : hi < w) : bitsOf (x % 2 ^ w) hi lo = bitsOf x hi lo := by
  refine Nat.eq_of_testBit_eq fun i => ?_
  rw [testBit_bitsOf, testBit_bitsOf, Nat.testBit_mod_two_pow]
  by_cases hi' : i < hi + 1 - lo
  · rw [decide_eq_true (show lo + i < w by omega), Bool.true_and]
  · rw [decide_eq_false hi', Bool.false_and, Bool.false_and]

/-- A field that lies above a bit is one of the number's bits from there. -/
theorem bitsOf_of_div_eq {x y k lo : Nat} (hi : Nat) (hk : k ≤ lo) (h : x / 2 ^ k = y / 2 ^ k) : bitsOf x hi lo = bitsOf y hi lo := by
  have hdiv : ∀ z : Nat, z / 2 ^ lo = z / 2 ^ k / 2 ^ (lo - k) := fun z => by
    rw [Nat.div_div_eq_div_mul, ← Nat.pow_add, Nat.add_sub_cancel' hk]
  rw [bitsOf, bitsOf, hdiv x, hdiv y, h]

theorem recField_ofNat (n : Nat) {hi : Nat} (lo : Nat) (h : hi < 256) : recField (BitVec.ofNat 256 n) hi lo = bitsOf n hi lo := by
  rw [recField, BitVec.toNat_ofNat, bitsOf_mod_two_pow n lo h]

theorem recCheck_lt (r : Rec256) : recCheck r < 256 := by
  have hfold : ∀ (ls : List Nat) (x : Nat), x < 2 ^ 8 → ls.foldl (fun x i => x ^^^ recField r (8 * i + 7) (8 * i)) x < 2 ^ 8 := by
    intro ls
    induction ls with
    | nil => exact fun _ hx => hx
    | cons i ls ih =>
      refine fun x hx => ih _ (Nat.xor_lt_two_pow hx ?_)
      rw [recField, bitsOf, show 8 * i + 7 + 1 - 8 * i = 8 by omega]
      exact Nat.mod_lt _ (by decide)
  exact hfold _ _ (by decide)

theorem recSeal_toNat (r : Rec256) : (recSeal r).toNat = r.toNat % 2 ^ 248 + recCheck r * 2 ^ 248 := by
  have hcheck := recCheck_lt r
  rw [recSeal, BitVec.toNat_ofNat]
  exact Nat.mod_eq_of_lt (by omega)

/-- Sealing a record leaves every field below its check byte. -/
theorem recField_recSeal (r : Rec256) {hi : Nat} (lo : Nat) (h : hi < 248) : recField (recSeal r) hi lo = recField r hi lo := by
  rw [recField, ← bitsOf_mod_two_pow _ lo h, recSeal_toNat, Nat.add_mul_mod_self_right, Nat.mod_mod, bitsOf_mod_two_pow _ lo h, recField]

theorem recCheck_recSeal (r : Rec256) : recCheck (recSeal r) = recCheck r := by
  refine List.foldl_ext _ _ _ fun x i hi => ?_
  rw [recField_recSeal r _ (by have := List.mem_range.mp hi; omega)]

/-- A sealed record holds its check byte. -/
theorem recField_recSeal_check (r : Rec256) : recField (recSeal r) 255 248 = recCheck (recSeal r) := by
  have hcheck := recCheck_lt r
  rw [recCheck_recSeal, recField, recSeal_toNat, bitsOf]
  omega

/-! ### Windows -/

/-- The bits of a window before its check byte: the record's, with another base and other extents. -/
def windowBits (r : Rec256) (base extx exty : Nat) : Nat :=
  base + extx * 2 ^ 64 + recField r 127 96 * 2 ^ 96 + exty * 2 ^ 128 + r.toNat / 2 ^ 160 * 2 ^ 160

section Window
variable (r : Rec256) {base extx exty : Nat}

/-- A record with the bits of a window, sealed. -/
def windowed (base extx exty : Nat) : Rec256 := recSeal (BitVec.ofNat 256 (windowBits r base extx exty))

theorem recField_windowed {hi : Nat} (lo : Nat) (h : hi < 248) :
    recField (windowed r base extx exty) hi lo = bitsOf (windowBits r base extx exty) hi lo := by
  rw [windowed, recField_recSeal _ lo h, recField_ofNat _ lo (by omega)]

variable (hb : base < 2 ^ 64) (hx : extx < 2 ^ 32) (hy : exty < 2 ^ 32)

theorem recField_stride_lt : recField r 127 96 < 2 ^ 32 := Nat.mod_lt _ (by decide)

include hb

theorem base_windowed : Rec256.base (windowed r base extx exty) = base := by
  rw [Rec256.base, recField_windowed r 0 (by decide), bitsOf, windowBits]
  omega

include hx

theorem extx_windowed : Rec256.extx (windowed r base extx exty) = extx := by
  rw [Rec256.extx, recField_windowed r 64 (by decide), bitsOf, windowBits]
  omega

theorem stride_windowed : Rec256.stride (windowed r base extx exty) = Rec256.stride r := by
  have hs := recField_stride_lt r
  have hfield : recField (windowed r base extx exty) 127 96 = recField r 127 96 := by
    rw [recField_windowed r 96 (by decide), bitsOf, windowBits]
    omega
  rw [Rec256.stride, hfield, Rec256.stride]

include hy

theorem exty_windowed : Rec256.exty (windowed r base extx exty) = exty := by
  have hs := recField_stride_lt r
  rw [Rec256.exty, recField_windowed r 128 (by decide), bitsOf, windowBits]
  omega

/-- The element size, the policy and the rest above the extents are the record's. -/
theorem recField_windowed_high {hi lo : Nat} (hlo : 160 ≤ lo) (hhi : hi < 248) :
    recField (windowed r base extx exty) hi lo = recField r hi lo := by
  have hs := recField_stride_lt r
  rw [recField_windowed r lo hhi, recField]
  refine bitsOf_of_div_eq hi hlo ?_
  rw [windowBits]
  omega

/-- A window of a valid record of space 0 without a swizzle is valid, where its base is an address. -/
theorem valid_windowed (hv : Rec256.valid r = true) (h0 : Rec256.space r = 0) (hsw : Rec256.swz r = 0) (h56 : base < 2 ^ 56) :
    Rec256.valid (windowed r base extx exty) = true := by
  have high : ∀ {hi lo : Nat}, 160 ≤ lo → hi < 248 → recField (windowed r base extx exty) hi lo = recField r hi lo :=
    recField_windowed_high r hb hx hy
  have hcheck : recField (windowed r base extx exty) 255 248 = recCheck (windowed r base extx exty) := recField_recSeal_check _
  have hbase := base_windowed r (extx := extx) (exty := exty) hb
  generalize windowed r base extx exty = w at high hcheck hbase ⊢
  have hzero : recField w 247 186 = recField r 247 186 := high (by decide) (by decide)
  have hoob : Rec256.oob w = Rec256.oob r := high (by decide) (by decide)
  have hspace : Rec256.space w = 0 := (high (by decide) (by decide)).trans h0
  have hswz : Rec256.swz w = 0 := (high (by decide) (by decide)).trans hsw
  have hes : Rec256.es w = Rec256.es r := high (by decide) (by decide)
  have hrole : Rec256.role w = Rec256.role r := high (by decide) (by decide)
  have hro : Rec256.ro w = Rec256.ro r := congrArg (fun n => decide (n = 1)) (high (by decide) (by decide))
  have hwo : Rec256.wo w = Rec256.wo r := congrArg (fun n => decide (n = 1)) (high (by decide) (by decide))
  have hok : Rec256.baseOk w = true := by
    rw [Rec256.baseOk, hspace, hbase]
    exact decide_eq_true h56
  simp only [Rec256.valid, h0, hsw, Bool.and_eq_true, decide_eq_true_eq] at hv
  obtain ⟨⟨⟨⟨⟨⟨⟨⟨⟨-, hz⟩, ho⟩, -⟩, -⟩, he⟩, hperm⟩, hr⟩, -⟩, -⟩ := hv
  simp only [Rec256.valid, hcheck, hzero, hoob, hspace, hswz, hes, hrole, hro, hwo, hok, hz, ho, he, hperm, hr]
  simp

end Window

/-- Where an element of a record without a swizzle lies. -/
theorem recAddr_of_no_swizzle {r : Rec256} (h : Rec256.swz r = 0) (x y : Int) (n : Nat) : recAddr r x y n =
    if x < 0 ∨ (Rec256.extx r : Int) < x + recElems r n ∨ y < 0 ∨ (Rec256.rows r : Int) ≤ y then none
    else some ((Rec256.base r : Int) + (x * (2 ^ Rec256.es r : Nat) + y * Rec256.stride r)) := by
  rw [recAddr, h, swizzle_none]

theorem rows_lt (r : Rec256) : Rec256.rows r < 2 ^ 32 := by
  have hy : Rec256.exty r < 2 ^ 32 := Nat.mod_lt _ (by decide)
  rw [Rec256.rows]
  split <;> omega

theorem rows_of_pos {r : Rec256} (h : 0 < Rec256.exty r) : Rec256.rows r = Rec256.exty r := if_neg (by omega)

section Adj
variable {r : Rec256} {x y : Int} (hv : Rec256.valid r = true) (h0 : Rec256.space r = 0) (hsw : Rec256.swz r = 0) (hx0 : 0 ≤ x)
  (hx : x ≤ Rec256.extx r) (hy0 : 0 ≤ y) (hy : y < Rec256.rows r)
  (hb0 : 0 ≤ (Rec256.base r : Int) + x * (2 ^ Rec256.es r : Nat) + y * Rec256.stride r)
  (hb : (Rec256.base r : Int) + x * (2 ^ Rec256.es r : Nat) + y * Rec256.stride r < (2 ^ 56 : Nat))

/-- The address where a window begins. -/
def windowBase (r : Rec256) (x y : Int) : Int := (Rec256.base r : Int) + x * (2 ^ Rec256.es r : Nat) + y * Rec256.stride r

include hv h0 hx0 hx hy0 hy hb0 hb

theorem recWindow_eq : recWindow r x y =
    windowed r (windowBase r x y).toNat (Rec256.extx r - x.toNat) (Rec256.rows r - y.toNat) := by
  have hthere : ¬ ((!Rec256.valid r) = true ∨ Rec256.space r = 4 ∨ x < 0 ∨ (Rec256.extx r : Int) < x ∨ y < 0 ∨
      (Rec256.rows r : Int) ≤ y) := by
    rw [hv, h0]
    simp
    omega
  have hwrap : wrap 64 (windowBase r x y) = (windowBase r x y).toNat :=
    congrArg Int.toNat (Int.emod_eq_of_lt hb0 (hb.trans (by decide)))
  rw [recWindow, if_neg hthere]
  dsimp only
  rw [show (Rec256.base r : Int) + x * (2 ^ Rec256.es r : Nat) + y * Rec256.stride r = windowBase r x y from rfl, hwrap]
  rfl

include hsw

/-- The window is a valid record that shows the record's elements from (x, y). -/
theorem recWindow_shows (a b : Int) (n : Nat) : Rec256.valid (recWindow r x y) = true ∧
    (0 ≤ a → 0 ≤ b → recAddr (recWindow r x y) a b n = recAddr r (x + a) (y + b) n) := by
  have hextx : Rec256.extx r < 2 ^ 32 := Nat.mod_lt _ (by decide)
  have hrows := rows_lt r
  have hstart : ((windowBase r x y).toNat : Int) = windowBase r x y := Int.toNat_of_nonneg hb0
  have hb56 : (windowBase r x y).toNat < 2 ^ 56 := by
    have : windowBase r x y < (2 ^ 56 : Nat) := hb
    omega
  have hb64 : (windowBase r x y).toNat < 2 ^ 64 := hb56.trans (by decide)
  have hwx : Rec256.extx r - x.toNat < 2 ^ 32 := by omega
  have hwy : Rec256.rows r - y.toNat < 2 ^ 32 := by omega
  rw [recWindow_eq hv h0 hx0 hx hy0 hy hb0 hb]
  refine ⟨valid_windowed r hb64 hwx hwy hv h0 hsw hb56, fun ha hb' => ?_⟩
  have high : ∀ {hi lo : Nat}, 160 ≤ lo → hi < 248 → recField (windowed r _ _ _) hi lo = recField r hi lo :=
    recField_windowed_high r hb64 hwx hwy
  have hbase := base_windowed r (extx := Rec256.extx r - x.toNat) (exty := Rec256.rows r - y.toNat) hb64
  have hwextx := extx_windowed r (exty := Rec256.rows r - y.toNat) hb64 hwx
  have hwstride := stride_windowed r (exty := Rec256.rows r - y.toNat) hb64 hwx
  have hwexty := exty_windowed r hb64 hwx hwy
  generalize windowed r (windowBase r x y).toNat (Rec256.extx r - x.toNat) (Rec256.rows r - y.toNat) = w
    at high hbase hwextx hwstride hwexty ⊢
  have hes : Rec256.es w = Rec256.es r := high (by decide) (by decide)
  have hswz : Rec256.swz w = 0 := (high (by decide) (by decide)).trans hsw
  have hwrows : Rec256.rows w = Rec256.rows r - y.toNat := (rows_of_pos (by omega)).trans hwexty
  rw [recAddr_of_no_swizzle hswz, recAddr_of_no_swizzle hsw, hwrows, hwextx, hbase, hwstride, recElems, hes, recElems, hstart]
  refine if_congr ?_ rfl (congrArg some ?_)
  · omega
  · rw [windowBase]
    ring

end Adj

/-- Settles O12: the swizzle is an exclusive or with a chunk number that the line alone gives, and `recWindow` writes the record's own
fields but for the base and the extents. -/
theorem swizzleAndWindows : Obligations.SwizzleAndWindows := by
  unfold Obligations.SwizzleAndWindows
  refine ⟨fun o m hm => ?swizzle, fun r x y a b n hv h0 hsw hx0 hx hy0 hy hb0 hb => ?window⟩
  case swizzle => exact ⟨swizzle_eq_xor o hm, swizzle_swizzle o hm, swizzle_keeps_line o hm⟩
  case window => exact recWindow_shows hv h0 hsw hx0 hx hy0 hy hb0 hb a b n

end Sys2Proof
end

section
/-! O20: home waits while a walk that it needs is held (18 R393; log 25), and one such state refutes the statement. -/

set_option Elab.async false

namespace Sys2Proof.Machine

/-! ### A home query that waits -/

/-- A home query needs the walk of a lane's address, which a drain window or a slot holds (10 R246; 18 R393, R394; log 25). -/
def Issue.walkHeldAt (is : Issue) (s : State) (m : MWord) (l : Nat) : Prop :=
  ∃ va : Int, s.place? (s.who is.ctx) (is.c.recSlot is.sub m.slot) (is.index s m l).1 (is.index s m l).2 (2 ^ m.w) = .virt va ∧ 0 ≤ va ∧
    s.walkHeld (s.who is.ctx).tlbs va.toNat = true

theorem homeEff_waits {m : MWord} {is : Issue} {s : State} {l : Nat} (hv : Rec256.valid (is.c.recSlot is.sub m.slot) = true)
    (h4 : Rec256.space (is.c.recSlot is.sub m.slot) ≠ 4) (hl : l ∈ lanesOf is.act) (hw : is.walkHeldAt s m l) : homeEff m is s = none := by
  obtain ⟨va, hplace, hva, hheld⟩ := hw
  refine (if_neg (by rw [hv]; decide)).trans ((if_neg h4).trans (if_pos (List.any_eq_true.mpr
    ⟨(l, .virt va), List.mem_map.mpr ⟨l, hl, ?_⟩, ?_⟩)))
  · rw [← hplace]
  · exact Bool.and_eq_true_iff.mpr ⟨decide_eq_true hva, hheld⟩

theorem waits_home (m : MWord) : Waits (.home m) fun is s => Rec256.valid (is.c.recSlot is.sub m.slot) = true ∧
    Rec256.space (is.c.recSlot is.sub m.slot) ≠ 4 ∧ ∃ l ∈ lanesOf is.act, is.walkHeldAt s m l :=
  waits_of (fun _ => rfl) fun _ _ _ _ _ hp => by
    obtain ⟨hv, h4, l, hl, hw⟩ := hp
    exact homeEff_waits hv h4 hl hw

/-- A state that still has a thread of the path where it stood has not passed the word. -/
theorem not_passes_of_still {u s : State} {is : Issue} {l : Nat} (hl : l < 64) (hp : is.path.getLsbD l = true)
    (hpc : (((s.ctx is.ctx).lane l).hdr, ((s.ctx is.ctx).lane l).idx) ≠ nextPc is.h is.hdr is.idx) : ¬ Passes u s is 0 := fun h =>
  hpc ((h.moved l hl).trans (if_pos ⟨hp, BitVec.getLsbD_zero⟩))

theorem State.issued_act (s : State) (r : Row) : (s.issued r).act = s.guardMask r := rfl

/-! ### Column core 0 in the first slot -/

namespace HeldWalk

/-- 1024 bytes at 1 MiB. -/
def buffer : Rec256 := recSeal (BitVec.ofNat 256 (0x100000 + 1024 * 2 ^ 64))

/-- Column core 0 at the word of a one-word block, with the record in slot 2. -/
def core : Ctx := { Ctx.columnCore .running with lanes := [(0, { Lane.none with act := true, hdr := 0x4000 })], b := [(2, buffer)] }

/-- Column core 0 selected at global time 0, in the long slot 0, which takes every HBM quarter; a page table maps the first 64 GiB to
themselves, and no slice holds its entries (18 R390, R391; 09 R209). -/
def state : State := { State.reset with
  sel := ⟨.cc 0, 0, 1, 0xB0078000000000E1⟩
  mem := [(0, 1), (1, 0x20), (0x2000, 0xDF)]
  ctxs := [(0, core)] }

/-- home of the record's element 0 to g8. -/
def word : MWord := ⟨⟨7, false, 0, 0, false, 0, 0⟩, .g 8, .zero, .zero, 2, .own, .module, 2, .plain, 0⟩

/-- The row of the word. -/
def row : Row := word.row 0x6 0x07 .g (.any 1) (.any 1) [.plain] (decide (word.w ≤ 4)) true false

theorem settled (l : Nat) : (core.lane l).fails = [] := by
  show (SMap.get Lane.none [(0, { Lane.none with act := true, hdr := 0x4000 })] l).fails = []
  rw [SMap.get_cons]
  split
  · rfl
  · split <;> rfl

theorem sources_eq : row.sources = [] := by decide +kernel

theorem mayIssue : MayIssue state row where
  path := by decide
  running := rfl
  settled := settled
  wait := by decide +kernel
  legal := by decide +kernel
  slot := fun h => absurd h (by decide)
  ready := by decide +kernel
  level := .inr (.inl rfl)
  full := fun _ _ _ hu => absurd (sources_eq ▸ hu) List.not_mem_nil

theorem guardMask_eq : state.guardMask row = 1 := by decide +kernel

theorem act_eq : (state.issued row).act = 1 := (state.issued_act row).trans guardMask_eq

theorem lane_eq_zero {l : Nat} (hl : l ∈ lanesOf (state.issued row).act) : l = 0 := by
  rw [act_eq] at hl
  exact List.mem_singleton.mp ((by decide : lanesOf 1 = [0]) ▸ hl)

theorem slot_eq : (state.issued row).c.recSlot (state.issued row).sub word.slot = buffer := by decide +kernel

theorem valid : Rec256.valid buffer = true ∧ Rec256.space buffer ≠ 4 := by decide +kernel

theorem place_eq : state.place? (state.who (state.issued row).ctx) ((state.issued row).c.recSlot (state.issued row).sub word.slot)
    ((state.issued row).index state word 0).1 ((state.issued row).index state word 0).2 (2 ^ word.w) = .virt 0x100000 := by decide +kernel

theorem held : state.walkHeld (state.who (state.issued row).ctx).tlbs 0x100000 = true := by decide +kernel

/-- The word waits: the walk reads the page table, whose memory the slot holds. -/
theorem waits : exec (.home word) state = .next state := by
  refine waits_home word state row rfl (by decide +kernel) mayIssue (by rw [guardMask_eq]; decide)
    ⟨?_, ?_, 0, ?_, 0x100000, place_eq, by decide, held⟩
  · rw [slot_eq]; exact valid.1
  · rw [slot_eq]; exact valid.2
  · rw [act_eq]; decide

end HeldWalk

/-- Refutes O20: its clause for home has no premise that the walk of each lane's address may begin. In `HeldWalk.state` every premise
holds, but a slot takes the memory of the page table, so home waits where it stands (18 R393; log 25) and puts nothing in flight. -/
theorem not_recordWords : ¬ Obligations.RecordWords := by
  unfold Obligations.RecordWords
  rintro ⟨-, -, -, -, hhome⟩
  obtain ⟨t, ht, hpass⟩ := hhome HeldWalk.word HeldWalk.state HeldWalk.row rfl (by decide +kernel) HeldWalk.mayIssue
    (by rw [HeldWalk.guardMask_eq]; decide) (by rw [HeldWalk.slot_eq]; exact HeldWalk.valid.1)
    (by rw [HeldWalk.slot_eq]; exact HeldWalk.valid.2) (fun l hl hbounds => by
      obtain rfl := HeldWalk.lane_eq_zero hl
      exact Place.noConfusion (HeldWalk.place_eq.symm.trans hbounds))
  obtain rfl : HeldWalk.state = t := Host.Outcome.next.inj (HeldWalk.waits.symm.trans ht)
  exact not_passes_of_still (l := 0) (by decide) (by decide +kernel) (by decide +kernel) hpass

end Sys2Proof.Machine
end

section
/-! O47: each event of paths, bins, gangs, spilled threads and teams, where its condition holds. -/

set_option Elab.async false

namespace Sys2Proof.Machine

/-! ### Paths and selection (06 R148, R153, R154) -/

theorem happens_reconvergenceTimeout (gid : Nat) (r : Rcv) (d : Nat) :
    Happens (.reconvergenceTimeout gid) (fun s => s.rcvDue gid = some r ∧ r.due = some d ∧ d ≤ s.clk (.gang gid)) fun s =>
      (s.modCtx (.gang gid) fun x => x.popRcv fun q => decide (q = r)).settle (.gang gid) :=
  happens_of_next fun s hp => by
    show execReconvergenceTimeout gid s = _
    rw [execReconvergenceTimeout, hp.1]

theorem happens_starvation (gid t : Nat) :
    Happens (.starvation gid) (fun s => (s.ctx (.gang gid)).readySince = some t ∧
      t + 4096 ≤ s.clk (.gang gid) + if s.seat (.gang gid) < s.turn then 1 else 0)
    fun s => s.modCtx (.gang gid) fun x => { x with starved := true } :=
  happens_of_next fun s hp => by
    obtain ⟨hsince, hlong⟩ := hp
    have hbit : bit (decide (s.seat (.gang gid) < s.turn)) = if s.seat (.gang gid) < s.turn then 1 else 0 := by
      by_cases h : s.seat (.gang gid) < s.turn <;> simp [bit, h]
    show execStarvation gid s = _
    rw [execStarvation, hsince]
    exact if_pos (hbit ▸ hlong)

section Window
variable (core : Nat)

theorem happens_urgencyWindowEnd_empty :
    Happens (.urgencyWindowEnd core) (fun s => s.gangsOn core = []) fun s => s.beginWindow core [] 0 :=
  happens_of_next fun s hp => by
    show execUrgencyWindowEnd core s = _
    rw [execUrgencyWindowEnd, hp]
    rfl

theorem happens_urgencyWindowEnd_first :
    Happens (.urgencyWindowEnd core) (fun s => s.gangsOn core ≠ [] ∧ SMap.get 0 s.la.windows core = 0) fun s =>
      s.beginWindow core [] (s.coreClk core + 1) :=
  happens_of_next fun s hp => by
    show execUrgencyWindowEnd core s = _
    rw [execUrgencyWindowEnd, if_neg (fun h => hp.1 (List.isEmpty_iff.mp h))]
    exact if_pos hp.2

theorem happens_urgencyWindowEnd_over :
    Happens (.urgencyWindowEnd core) (fun s => s.gangsOn core ≠ [] ∧ SMap.get 0 s.la.windows core ≠ 0 ∧
      SMap.get 0 s.la.windows core + 1024 ≤ s.coreClk core + 1) fun s => s.endWindow core :=
  happens_of_next fun s hp => by
    obtain ⟨hgangs, hbegun, hover⟩ := hp
    show execUrgencyWindowEnd core s = _
    rw [execUrgencyWindowEnd, if_neg (fun h => hgangs (List.isEmpty_iff.mp h))]
    exact (if_neg hbegun).trans (if_neg (Nat.not_lt.mpr hover))

end Window

/-! ### Bins, spilled threads and the end of gangs (05 R124-R126, R131; 17 R371) -/

theorem happens_binTimeout (core bin : Nat) (b : Bin) :
    Happens (.binTimeout core bin) (fun s =>
      (s.la.bins.find? fun b => decide (b.core = core ∧ b.num = bin) && !b.closed) = some b ∧ b.since + b.tmo ≤ s.coreClk core)
    fun s => s.closeBin b :=
  happens_of_next fun s hp => by
    show execBinTimeout core bin s = _
    rw [execBinTimeout, hp.1]
    exact if_pos hp.2

theorem happens_gangForm (core part : Nat) (b : Bin) (l : Launch) (u : State) :
    Happens (.gangForm core b.num part) (fun s => s.binNext core = some b ∧ part < 8 ∧ s.launch? b.handle = some l ∧
      s.formGang b l part = some u) fun _ => u :=
  happens_of_ret fun s hp => by
    obtain ⟨hnext, hpart, hlaunch, hform⟩ := hp
    show execGangForm core b.num part s = _
    rw [execGangForm, hnext]
    dsimp only
    rw [if_neg (by omega), hlaunch]
    dsimp only
    rw [hform]

theorem happens_spillReturn (h : Word64) (entry : Nat) (l : Launch) (e : Spill) (hdr : Word64) (x : Seed) (col c core : Nat) (u : State) :
    Happens (.spillReturn h entry) (fun s => s.launch? h = some l ∧
      (s.la.spills.find? fun e => decide (e.handle = h ∧ e.entry = entry)) = some e ∧ l.switched = false ∧ l.quiescing = 0 ∧
      s.spillWaits l e.col e.entry .write = false ∧ s.readSpill l e = some (hdr, x, col) ∧ s.presentColumn col = some c ∧
      s.chooseCore c h hdr = some core ∧ s.toBin core h hdr x = some u) fun _ =>
    let v := ({ u with la := { u.la with spills := u.la.spills.filter fun q => q ≠ e } } : State).markPlaced h c
    match (v.spillAddr l e.col (2 * e.entry + 1) .write).2 with
    | some pb => v.homeWrite (pb + 4) (leBytes 4 0)
    | none => v :=
  happens_of_ret fun s hp => by
    obtain ⟨hlaunch, he, hin, hquiet, hwaits, hread, hcol, hcore, hbin⟩ := hp
    show execSpillReturn h entry s = _
    rw [execSpillReturn, hlaunch, he]
    dsimp only
    rw [if_neg (by simp [hin, hquiet, hwaits]), hread]
    dsimp only
    rw [hcol, Option.bind_some, hcore]
    dsimp only [Option.map_some]
    rw [hbin]
    dsimp only
    generalize ({ u with la := { u.la with spills := u.la.spills.filter fun q => q ≠ e } } : State).markPlaced h c = v
    cases (v.spillAddr l e.col (2 * e.entry + 1) .write).2 <;> rfl

theorem happens_gangFree_performed (gid : Nat) :
    Happens (.gangFree gid) (fun s => (s.ctx (.gang gid)).live = true ∧ (s.ctx (.gang gid)).living = 0 ∧
      s.landing (.gang gid) = false ∧ s.unperformed (.gang gid) = false) fun s => (s.dropSaved gid).setCtx (.gang gid) Ctx.none :=
  happens_of_next fun s hp => by
    obtain ⟨hlive, hended, hland, hdone⟩ := hp
    show execGangFree gid s = _
    rw [execGangFree]
    dsimp only
    rw [if_neg (by simp [hlive, hended, hland]), hdone]
    rfl

theorem happens_gangFree_tomb (gid : Nat) :
    Happens (.gangFree gid) (fun s => (s.ctx (.gang gid)).live = true ∧ (s.ctx (.gang gid)).living = 0 ∧
      s.landing (.gang gid) = false ∧ s.unperformed (.gang gid) = true ∧
      (s.la.tombs.filter fun t => t.gid / 2 ^ 26 = gid / 2 ^ 26).length < 64) fun s =>
    (({ s with la := { s.la with tombs := s.la.tombs ++ [⟨gid, (s.ctx (.gang gid)).handle⟩] } } : State).dropSaved gid).setCtx
      (.gang gid) Ctx.none :=
  happens_of_next fun s hp => by
    obtain ⟨hlive, hended, hland, hopen, hroom⟩ := hp
    show execGangFree gid s = _
    rw [execGangFree]
    dsimp only
    rw [if_neg (by simp [hlive, hended, hland]), hopen]
    exact if_pos hroom

theorem happens_tombFree (gid : Nat) :
    Happens (.tombFree gid) (fun s => s.unperformed (.gang gid) = false) fun s =>
      { s with la := { s.la with tombs := s.la.tombs.filter fun t => t.gid ≠ gid } } :=
  happens_of_next fun s hp => by
    show execTombFree gid s = _
    rw [execTombFree, hp]
    rfl

theorem happens_teamReserveRefill (core : Nat) :
    Happens (.teamReserveRefill core) (fun s => s.teamFreeOf (core / 4) ≠ []) fun s =>
      { s with la := { s.la with used := SMap.set 0 s.la.used core 0 } } :=
  happens_of_next fun s hp => by
    show execTeamReserveRefill core s = _
    rw [execTeamReserveRefill, if_neg fun h => hp (List.isEmpty_iff.mp h)]

/-! ### Register blocks (05 R137, R138; 17 R376) -/

section Regx
variable (gid : Nat) (q : RegxReq) (rest : List RegxReq)

theorem happens_regxGrant_same :
    Happens (.regxGrant gid) (fun s => (s.ctx (.gang gid)).regx = q :: rest ∧ (q.code = (s.ctx (.gang gid)).regCode)) fun s =>
      s.answerRegx (.gang gid) q q.code :=
  happens_of_next fun s hp => by
    obtain ⟨hreq, hcode⟩ := hp
    show execRegxGrant gid s = _
    rw [execRegxGrant]
    dsimp only
    rw [hreq]
    exact (if_pos hcode).trans (by rw [← hcode])

theorem happens_regxGrant_shrinks :
    Happens (.regxGrant gid) (fun s => (s.ctx (.gang gid)).regx = q :: rest ∧ q.code < (s.ctx (.gang gid)).regCode ∧
      s.pendingAbove (.gang gid) (blockRegs q.code) = false) fun s =>
    (s.answerRegx (.gang gid) q (s.ctx (.gang gid)).regCode).modCtx (.gang gid) fun x => x.resize q.code x.regBase :=
  happens_of_next fun s hp => by
    obtain ⟨hreq, hless, hfree⟩ := hp
    show execRegxGrant gid s = _
    rw [execRegxGrant]
    dsimp only
    rw [hreq]
    dsimp only
    rw [if_neg (Nat.ne_of_lt hless), if_pos hless, hfree]
    rfl

theorem happens_regxGrant_grows (u : State) (base : Nat) :
    Happens (.regxGrant gid) (fun s => (s.ctx (.gang gid)).regx = q :: rest ∧
      (s.ctx (.gang gid)).regCode < q.code ∧ s.grantBlock (s.ctx (.gang gid)).core (s.ctx (.gang gid)).part (blockRegs q.code)
        (some (64 + gid)) = some (u, base)) fun s =>
    (u.modCtx (.gang gid) fun x => x.resize q.code base).answerRegx (.gang gid) q (s.ctx (.gang gid)).regCode :=
  happens_of_next fun s hp => by
    obtain ⟨hreq, hmore, hgrant⟩ := hp
    show execRegxGrant gid s = _
    rw [execRegxGrant]
    dsimp only
    rw [hreq]
    dsimp only
    rw [if_neg (Nat.ne_of_gt hmore), if_neg (Nat.not_lt.mpr hmore.le), hgrant]

theorem happens_regxGrant_refused :
    Happens (.regxGrant gid) (fun s => (s.ctx (.gang gid)).regx = q :: rest ∧
      (s.ctx (.gang gid)).regCode < q.code ∧ s.grantBlock (s.ctx (.gang gid)).core (s.ctx (.gang gid)).part (blockRegs q.code)
        (some (64 + gid)) = none) fun s => (s.saveLongFault (s.ctx (.gang gid)).core (some gid)).getD s :=
  happens_of_next fun s hp => by
    obtain ⟨hreq, hmore, hgrant⟩ := hp
    show execRegxGrant gid s = _
    rw [execRegxGrant]
    dsimp only
    rw [hreq]
    dsimp only
    rw [if_neg (Nat.ne_of_gt hmore), if_neg (Nat.not_lt.mpr hmore.le), hgrant]

theorem happens_regxEvict_saves (core part : Nat) :
    Happens (.regxEvict core part) (fun s => s.regxStuck core part = some gid ∧ s.freeFrames (core / 4) ≠ [])
      fun s => s.startSave gid 8 0 :=
  happens_of_next fun s hp => by
    show execRegxEvict core part s = _
    rw [execRegxEvict, hp.1]
    exact if_neg fun h => hp.2 (List.isEmpty_iff.mp h)

theorem happens_regxEvict_refuses (core part : Nat) :
    Happens (.regxEvict core part) (fun s => s.regxStuck core part = some gid ∧ s.freeFrames (core / 4) = [] ∧
      (s.ctx (.gang gid)).regx = q :: rest) fun s => s.answerRegx (.gang gid) q 0xFFFFFFFF :=
  happens_of_next fun s hp => by
    obtain ⟨hstuck, hfull, hreq⟩ := hp
    show execRegxEvict core part s = _
    rw [execRegxEvict, hstuck]
    dsimp only
    rw [if_pos (List.isEmpty_iff.mpr hfull), hreq]

end Regx

/-! ### Saved gangs (17 R375) -/

theorem happens_gangSave (gid : Nat) (g : Saved) :
    Happens (.gangSave gid) (fun s => s.saved? gid = some g ∧ (s.ctx (.gang gid)).live = true ∧
      (s.ctx (.gang gid)).saving = true ∧ s.sealable (.gang gid) = true ∧ s.rangeLeased (s.frameOf g) (2 ^ 17) = false)
    fun s => s.sealGang g :=
  happens_of_ret fun s hp => by
    obtain ⟨hsaved, hlive, hsaving, hsealable, hfree⟩ := hp
    show execGangSave gid s = _
    rw [execGangSave, hsaved]
    exact if_pos (by rw [hlive, hsaving, hsealable, hfree]; rfl)

theorem happens_gangRestore (col frame part : Nat) (g : Saved) (u : State) :
    Happens (.gangRestore col frame part) (fun s =>
      (s.la.saved.find? fun g => decide (g.col = col ∧ g.frame = frame)) = some g ∧ s.restoreNext (gidCore g.gid) = some g ∧
      part < 8 ∧ s.restoreOn g part = some u) fun _ => u :=
  happens_of_ret fun s hp => by
    obtain ⟨hsaved, hnext, hpart, hon⟩ := hp
    show execGangRestore col frame part s = _
    rw [execGangRestore, hsaved]
    dsimp only
    rw [if_neg (by rintro (h | h); exacts [h hnext, absurd h (Nat.not_le.mpr hpart)]), hon]

/-- Settles O47, event by event. -/
theorem gangEvents : Obligations.GangEvents := by
  unfold Obligations.GangEvents
  refine ⟨happens_reconvergenceTimeout, happens_starvation, happens_urgencyWindowEnd_empty, happens_urgencyWindowEnd_first,
    happens_urgencyWindowEnd_over, happens_binTimeout, happens_gangForm, happens_spillReturn, happens_gangFree_performed,
    happens_gangFree_tomb, happens_tombFree, happens_teamReserveRefill, happens_regxGrant_same, happens_regxGrant_shrinks,
    happens_regxGrant_grows, happens_regxGrant_refused, fun core part gid =>
    happens_regxEvict_saves gid core part, fun core part gid q rest =>
    happens_regxEvict_refuses gid q rest core part, happens_gangSave, happens_gangRestore, ?longFaultResume⟩
  case longFaultResume => exact fun _ => happens_of_next fun _ _ => rfl

end Sys2Proof.Machine
end

section
/-! SUPPORT. What reads and writes at the home, and walks of the page table, leave as it was: they change only the caches, the bytes
stored by the step, the count of operations and the armed injections. -/

set_option Elab.async false

namespace Sys2Proof.Machine

/-- Nothing but the memory system differs. -/
def State.OnlyMemory (s t : State) : Prop :=
  { t with wlog := s.wlog, opId := s.opId, ms := s.ms, ev := s.ev } = s

namespace State.OnlyMemory

variable {s t u : State}

theorem refl (s : State) : s.OnlyMemory s := rfl

theorem trans (h : s.OnlyMemory t) (k : t.OnlyMemory u) : s.OnlyMemory u := by
  unfold State.OnlyMemory at h k ⊢
  rw [← h, ← k]

theorem ctxs (h : s.OnlyMemory t) : t.ctxs = s.ctxs := (congrArg State.ctxs h :)

theorem la (h : s.OnlyMemory t) : t.la = s.la := (congrArg State.la h :)

theorem now (h : s.OnlyMemory t) : t.now = s.now := (congrArg State.now h :)

theorem ite {p : Prop} [Decidable p] {a b : State} (ha : s.OnlyMemory a) (hb : s.OnlyMemory b) : s.OnlyMemory (if p then a else b) := by
  split
  · exact ha
  · exact hb

theorem foldl {α : Type} {f : State → α → State} (h : ∀ (s : State) x, s.OnlyMemory (f s x)) (l : List α) :
    ∀ s : State, s.OnlyMemory (l.foldl f s) := by
  induction l with
  | nil => exact refl
  | cons x l ih => exact fun s => (h s x).trans (ih _)

/-- A step that changes only caches, regions, waiting forwards and the translation buffers. -/
theorem of_ms {ms : MemSt} : s.OnlyMemory { s with ms := ms } := rfl

/-! ### Bytes, slices and regions -/

theorem writeBytes (s : State) (a : Nat) (bs : List Byte) : s.OnlyMemory (s.writeBytes a bs) := by
  induction bs generalizing s a with
  | nil => exact refl s
  | cons b r ih => exact trans (by rfl) (ih { s with wlog := (a, b) :: s.wlog } (a + 1))

theorem sliceStore (s : State) (as : List Nat) : s.OnlyMemory (s.sliceStore as) := foldl (fun _ _ => ite of_ms of_ms) _ s

theorem flushBytes (s : State) (bs : List (Nat × Byte)) : s.OnlyMemory (s.flushBytes bs) :=
  (foldl (fun s (p : Nat × Byte) => writeBytes s p.1 [p.2]) _ s).trans (sliceStore _ _)

theorem splitRegion (s : State) (pa : Nat) : s.OnlyMemory (s.splitRegion pa) := ite of_ms of_ms

theorem isolate (kept : L1Line → Bool) (pa n : Nat) : ∀ s, State.OnlyMemory s (State.isolate kept pa n s) := by
  induction n with
  | zero => exact refl
  | succ n ih => exact fun s => ite ((splitRegion s pa).trans (ih _)) (refl s)

theorem recallLine (s : State) (by_ : Option Nat) (line : Nat) (wr : Bool) : s.OnlyMemory (s.recall by_ line wr) :=
  ite (refl s) ((((foldl (fun s (l : L1Line) => flushBytes s l.dirty) _ s).trans (splitRegion _ _)).trans (isolate _ _ _ _)).trans of_ms)

theorem dropSharers (s : State) (by_ : Option Nat) (line : Nat) : s.OnlyMemory (s.dropSharers by_ line) :=
  ite of_ms ((of_ms.trans ((splitRegion _ _).trans (isolate _ _ _ _))).trans of_ms)

theorem disown (s : State) (pa : Nat) : s.OnlyMemory (s.disown pa) :=
  ite (((splitRegion s pa).trans (isolate _ _ _ _)).trans of_ms) (refl s)

/-! ### Copies in the caches -/

theorem evict (s : State) (l : L1Line) : s.OnlyMemory (s.evict l) := (flushBytes s l.dirty).trans of_ms

theorem putL1 (s : State) (cache line : Nat) (x : Option L1Line) : s.OnlyMemory (s.putL1 cache line x) := by
  cases x with
  | none => exact of_ms
  | some y =>
    refine trans ?_ of_ms
    dsimp only
    split
    · exact of_ms.trans (evict _ _)
    · exact of_ms

theorem grantLease (s : State) (cls cache line : Nat) : s.OnlyMemory (s.grantLease cls cache line) :=
  ite (putL1 s cache line none) (((disown s _).trans of_ms).trans (putL1 _ _ _ _))

theorem countAccess (s : State) (pa : Nat) : s.OnlyMemory (s.countAccess pa) := ite of_ms (refl s)

theorem injectSeen (s : State) (cache : Option Nat) (gid : Word) (pa n : Nat) : s.OnlyMemory (s.injectSeen cache gid pa n) :=
  ite (by rfl) (refl s)

/-! ### Reads and writes at the home -/

theorem readHome (s : State) (pa n : Nat) : s.OnlyMemory (s.readHome pa n) :=
  ite ((injectSeen s _ _ _ _).trans (foldl (fun s l => (recallLine s none l false).trans of_ms) _ _)) (injectSeen s _ _ _ _)

theorem writeHome (s : State) (pa : Nat) (bs : List Byte) : s.OnlyMemory (s.writeHome pa bs) :=
  (((foldl (fun s l => (recallLine s none l true).trans (dropSharers _ none l)) _ s).trans (sliceStore _ _)).trans of_ms).trans
    (writeBytes _ _ _)

theorem storeHome (s : State) (pa : Nat) (bs : List Byte) : s.OnlyMemory (s.storeHome pa bs) := ite (writeHome s pa bs) (writeBytes s pa bs)

theorem holdHome (s : State) (pa : Nat) (bs : List Byte) (red : List (Nat × Nat × Nat)) : s.OnlyMemory (s.holdHome pa bs red) :=
  trans (by rfl) (splitRegion _ pa)

theorem homeWrite (s : State) (pa : Nat) (bs : List Byte) : s.OnlyMemory (s.homeWrite pa bs) := ite (holdHome s pa bs []) (storeHome s pa bs)

theorem orHome (s : State) (pa bits : Nat) : s.OnlyMemory (s.orHome pa bits) :=
  ite (ite (refl s) (holdHome s _ _ _)) (storeHome s _ _)

/-! ### Writes on their way -/

theorem applyFwd (s : State) (f : Fwd) : s.OnlyMemory (s.applyFwd f) := by
  have hread : s.OnlyMemory (if f.cache = hwCache then
      (if f.red.isEmpty then ({ s with ms := { s.ms with fwd := s.ms.fwd.filter fun g => g.id ≠ f.id } } : State)
       else State.injectSeen { s with ms := { s.ms with fwd := s.ms.fwd.filter fun g => g.id ≠ f.id } } none (errorGid f.ctx)
        ((f.bytes.map Prod.fst).headD 0) f.bytes.length)
     else State.countAccess (if f.red.isEmpty then { s with ms := { s.ms with fwd := s.ms.fwd.filter fun g => g.id ≠ f.id } }
       else State.injectSeen { s with ms := { s.ms with fwd := s.ms.fwd.filter fun g => g.id ≠ f.id } } none (errorGid f.ctx)
        ((f.bytes.map Prod.fst).headD 0) f.bytes.length) ((f.bytes.map Prod.fst).headD 0)) :=
    have hseen := ite of_ms (of_ms.trans (injectSeen _ none _ _ _))
    ite hseen (hseen.trans (countAccess _ _))
  unfold State.applyFwd
  dsimp only
  split
  · exact (hread.trans (writeHome _ _ _)).trans (foldl (fun s l => grantLease s _ _ l) _ _)
  · exact hread.trans (writeHome _ _ _)

theorem forward (s : State) (f : Fwd) : s.OnlyMemory (s.forward f) := by
  unfold State.forward
  dsimp only
  split
  · exact of_ms
  · split
    · exact (splitRegion s _).trans of_ms
    · exact applyFwd s f
  · exact ite (refl s) (applyFwd s f)

theorem publishWrites (s : State) (cache upto : Nat) : s.OnlyMemory (s.publishWrites cache upto) := by
  refine foldl (fun s f => ?_) _ s
  split
  · exact ite (refl s) (forward s _)
  · exact refl s

/-! ### Walks and the units' translations -/

theorem walkRecall (s : State) (tlbs : List Nat) (va : Nat) : s.OnlyMemory (s.walkRecall tlbs va) :=
  foldl (fun s a => (foldl (fun s _ => (publishWrites s _ _).trans (publishWrites _ _ _)) _ s).trans (readHome _ a 8)) _ s

theorem markLeaf (s : State) (l : Leaf) (dirty : Bool) : s.OnlyMemory (s.markLeaf l dirty).1 := by
  unfold State.markLeaf
  dsimp only
  generalize (if dirty then 0xC0 else 0x40) = m
  split
  · exact refl s
  · exact orHome s _ _

theorem walkFill {tlbs : List Nat} {va : Nat} {dirty : Bool} {l : Leaf} (h : s.walkFill tlbs va dirty = some (t, l)) : s.OnlyMemory t := by
  unfold State.walkFill at h
  split at h
  · cases h
  · cases h
    exact (markLeaf s _ dirty).trans of_ms

theorem translate (s : State) (tlbs : List Nat) (va : Nat) (k : AccKind) (user : Bool) : s.OnlyMemory (s.translate tlbs va k user).1 := by
  have hfill : ∀ (u : State) (o : Option (State × Leaf)), (∀ v l, o = some (v, l) → u.OnlyMemory v) →
      u.OnlyMemory (match o with
        | none => (u, Trans.trap trapTranslation)
        | some (s', l') => (s', l'.judge va k user)).1 := fun u o ho => by
    cases o with
    | none => exact refl u
    | some p => exact ho p.1 p.2 rfl
  unfold State.translate
  dsimp only
  split
  · exact refl s
  · split
    · split
      · exact refl s
      · split
        · split
          · exact refl s
          · exact (walkRecall s tlbs va).trans (hfill _ _ fun v l hv => walkFill hv)
        · exact refl s
    · split
      · exact refl s
      · split
        · exact walkRecall s tlbs va
        · exact (walkRecall s tlbs va).trans (hfill _ _ fun v l hv => walkFill hv)

theorem unitPlace (s : State) (col va : Nat) (k : AccKind) : s.OnlyMemory (s.unitPlace col va k).1 := by
  have htranslate := translate s [256 + col] va k true
  unfold State.unitPlace
  generalize s.translate [256 + col] va k true = q at htranslate
  obtain ⟨s1, r⟩ := q
  cases r <;> exact htranslate

theorem spillAddr (s : State) (l : Launch) (col x : Nat) (k : AccKind) : s.OnlyMemory (s.spillAddr l col x k).1 := by
  unfold State.spillAddr
  split
  · split
    · exact refl s
    · exact unitPlace s col _ k
  · exact refl s

end State.OnlyMemory

/-! ### What the posting of an event leaves -/

/-- Nothing but the memory system, the rings' registers and waiting column cores differ. -/
def State.OnlyEvents (s t : State) : Prop :=
  { t with wlog := s.wlog, opId := s.opId, stuck := s.stuck, ms := s.ms, ev := s.ev, sys := s.sys, ctxs := s.ctxs } = s

namespace State.OnlyEvents

variable {s t u : State}

theorem refl (s : State) : s.OnlyEvents s := rfl

theorem trans (h : s.OnlyEvents t) (k : t.OnlyEvents u) : s.OnlyEvents u := by
  unfold State.OnlyEvents at h k ⊢
  rw [← h, ← k]

theorem now (h : s.OnlyEvents t) : t.now = s.now := (congrArg State.now h :)

theorem of_memory (h : s.OnlyMemory t) : s.OnlyEvents t := by
  unfold State.OnlyEvents State.OnlyMemory at *
  rw [← h]

theorem ite {p : Prop} [Decidable p] {a b : State} (ha : s.OnlyEvents a) (hb : s.OnlyEvents b) : s.OnlyEvents (if p then a else b) := by
  split
  · exact ha
  · exact hb

theorem hwWrite (s : State) (a : Nat) (bs : List Byte) : s.OnlyEvents (s.hwWrite a bs) :=
  ite (of_memory (OnlyMemory.homeWrite s a bs)) rfl

theorem evqPut (s : State) (q : Nat) (bs : List Byte) : s.OnlyEvents (s.evqPut q bs) := (hwWrite s _ bs).trans (by rfl)

theorem evqWrite (s : State) (q col : Nat) (bs : List Byte) : s.OnlyEvents (s.evqWrite q col bs) := by
  have hnote : ∀ u : State, u.OnlyEvents ((if (u.sysGet SysReg.evqctl q).getLsbD 60 then
      { u with ev := { u.ev with msix := u.ev.msix ++ [field (u.sysGet SysReg.evqctl q) 53 43] } } else u).wakeWfi q) :=
    fun u => (ite (by rfl) (refl u)).trans (ite (by rfl) (refl _))
  refine trans (ite ?_ (evqPut s q bs)) (hnote _)
  exact trans (trans (ite (evqPut s q _) (refl s)) (evqPut _ q _)) (evqPut _ q _)

theorem evqDrop (s : State) (q : Option Nat) : s.OnlyEvents (s.evqDrop q) := by cases q <;> rfl

theorem evqOffer (s : State) (q col : Nat) (bs : List Byte) : s.OnlyEvents (s.evqOffer q col bs) :=
  ite (evqWrite s q col bs) (ite rfl (evqDrop s _))

theorem post (s : State) (q col : Nat) (bs : List Byte) : s.OnlyEvents (s.post q col bs) :=
  ite (evqOffer s _ col bs) (ite (evqOffer s col col bs) (evqDrop s none))

end State.OnlyEvents

end Sys2Proof.Machine
end

section
/-! O48: each event of launch lines, launches, switches and watchdogs, where its condition holds. -/

set_option Elab.async false

namespace Sys2Proof.Machine

/-! ### Numbers in bytes -/

/-- The bytes of a number read back as the number, cut to so many bytes. -/
theorem leNat_leBytes (n : Nat) : ∀ v, leNat (leBytes n v) = v % 256 ^ n := by
  induction n with
  | zero => exact fun v => (Nat.mod_one v).symm
  | succ n ih =>
    intro v
    rw [leBytes, leNat, ih, BitVec.toNat_ofNat, show 256 ^ (n + 1) = 256 * 256 ^ n from Nat.pow_succ']
    exact Nat.mod_mul.symm

/-- A word read back from its eight bytes. -/
theorem ofNat_leNat_leBytes (w : Word64) : BitVec.ofNat 64 (leNat (leBytes 8 w.toNat)) = w := by
  rw [leNat_leBytes, Nat.mod_eq_of_lt (by have := w.isLt; omega), BitVec.ofNat_toNat, BitVec.setWidth_eq]

/-! ### Launches by handle -/

theorem State.launch?_handle {s : State} {h : Word64} {l : Launch} (hl : s.launch? h = some l) : l.handle = h :=
  of_decide_eq_true (List.find?_some (p := fun l : Launch => decide (l.handle = h)) hl)

theorem State.launch?_congr {s t : State} (h : t.la.launches = s.la.launches) (k : Word64) : t.launch? k = s.launch? k :=
  congrArg (List.find? fun l : Launch => decide (l.handle = k)) h

theorem find?_map_handle {g : Launch → Launch} (hg : ∀ l, (g l).handle = l.handle) (ls : List Launch) (k : Word64) :
    (ls.map g).find? (fun l => decide (l.handle = k)) = (ls.find? fun l => decide (l.handle = k)).map g := by
  rw [List.find?_map]
  congr 2
  funext l
  exact congrArg (fun h : Word64 => decide (h = k)) (hg l)

/-- A launch changed, its handle kept: the launch of that handle is changed, every other one is not. -/
theorem State.launch?_modLaunch (s : State) (h : Word64) {f : Launch → Launch} (hf : ∀ l, (f l).handle = l.handle) (k : Word64) :
    (s.modLaunch h f).launch? k = (s.launch? k).map fun l => if l.handle = h then f l else l :=
  find?_map_handle (g := fun l => if l.handle = h then f l else l)
    (fun l => by split <;> [exact hf l; rfl]) s.la.launches k

theorem State.launch?_modLaunch_same {s : State} {h : Word64} {l : Launch} (hl : s.launch? h = some l) {f : Launch → Launch}
    (hf : ∀ l, (f l).handle = l.handle) : (s.modLaunch h f).launch? h = some (f l) := by
  rw [State.launch?_modLaunch s h hf, hl, Option.map_some, if_pos (State.launch?_handle hl)]

theorem State.launch?_modLaunch_ne (s : State) {h k : Word64} (hk : k ≠ h) {f : Launch → Launch} (hf : ∀ l, (f l).handle = l.handle) :
    (s.modLaunch h f).launch? k = s.launch? k := by
  rw [State.launch?_modLaunch s h hf]
  cases hl : s.launch? k with
  | none => rfl
  | some l => exact congrArg some (if_neg (by rw [State.launch?_handle hl]; exact hk))

theorem State.launch?_dropLaunch (s : State) (h k : Word64) : (s.dropLaunch h).launch? k = if k = h then none else s.launch? k := by
  show (s.la.launches.filter _).find? _ = _
  rw [List.find?_filter]
  split
  next hk =>
    subst hk
    exact List.find?_eq_none.mpr fun l _ hl => by simp at hl
  next hk =>
    refine congrArg (fun p => List.find? p s.la.launches) (funext fun l => ?_)
    by_cases hl : l.handle = k
    · simp [hl, hk]
    · simp [hl]

/-! ### Launch lines (05 R113, R114) -/

section Line
variable (col line : Nat)

theorem happens_launchLineWrite_idle (off : Nat) (bytes : List Byte) :
    Happens (.launchLineWrite col line off bytes) (fun s => s.pw.mstate ≠ 2 ∧ col < 64 ∧ line < 16 ∧ off + bytes.length ≤ 120 ∧
      off < 120 ∧ (s.launchLine col line).pending = false) fun s => s.putLaunchLine col line ((s.launchLine col line).put off bytes) :=
  happens_of_next fun s hp => by
    obtain ⟨hon, hcol, hline, hlen, hoff, hidle⟩ := hp
    show execLaunchLineWrite col line off bytes s = _
    rw [execLaunchLineWrite, if_pos ⟨hon, hcol, hline, hlen, hoff⟩, State.lineWrite, if_neg (by simp [hidle]),
      if_neg (Nat.ne_of_lt hoff)]

theorem happens_launchLineWrite_pending (off : Nat) (bytes : List Byte) :
    Happens (.launchLineWrite col line off bytes) (fun s => s.pw.mstate ≠ 2 ∧ col < 64 ∧ line < 16 ∧ off + bytes.length ≤ 120 ∧
      off < 120 ∧ (s.launchLine col line).pending = true) fun s => s.putLaunchLine col line { s.launchLine col line with
        held := (s.launchLine col line).held ++ [(off, bytes)] } :=
  happens_of_next fun s hp => by
    obtain ⟨hon, hcol, hline, hlen, hoff, hpend⟩ := hp
    show execLaunchLineWrite col line off bytes s = _
    rw [execLaunchLineWrite, if_pos ⟨hon, hcol, hline, hlen, hoff⟩, State.lineWrite]
    exact congrArg Host.Outcome.next (if_pos hpend)

theorem happens_launchGoWrite_idle (go : Word64) :
    Happens (.launchGoWrite col line go) (fun s => s.pw.mstate ≠ 2 ∧ col < 64 ∧ line < 16 ∧ (s.launchLine col line).pending = false)
      fun s => (s.goWrite col line go).1 :=
  happens_of_next fun s hp => by
    obtain ⟨hon, hcol, hline, hidle⟩ := hp
    show execLaunchGoWrite col line go s = _
    rw [execLaunchGoWrite, if_pos ⟨hon, hcol, hline⟩, State.lineWrite, if_neg (by simp [hidle]), if_pos rfl, ofNat_leNat_leBytes]

theorem happens_launchGoWrite_pending (go : Word64) :
    Happens (.launchGoWrite col line go) (fun s => s.pw.mstate ≠ 2 ∧ col < 64 ∧ line < 16 ∧ (s.launchLine col line).pending = true)
      fun s => s.putLaunchLine col line { s.launchLine col line with
        held := (s.launchLine col line).held ++ [(120, leBytes 8 go.toNat)] } :=
  happens_of_next fun s hp => by
    obtain ⟨hon, hcol, hline, hpend⟩ := hp
    show execLaunchGoWrite col line go s = _
    rw [execLaunchGoWrite, if_pos ⟨hon, hcol, hline⟩, State.lineWrite]
    exact congrArg Host.Outcome.next (if_pos hpend)

/-- Where a record can be taken, what taking it answers is what the unit's look at it gives (R115, R116). -/
theorem execLaunchTake_of_ready {s : State} (hpend : (s.launchLine col line).pending = true) (hroom : s.la.launches.length < 512)
    (hquiet : s.pw.entering = 0) (hon : s.pw.mstate ≠ 2) (hready : s.recordWaits col (s.launchLine col line).record = false)
    {q : State × Option Nat × Rec256}
    (hq : s.rejectCause col (s.launchLine col line).record (handleOf col line (s.launchLine col line).seq false) = q) :
    execLaunchTake col line s =
      match q.2.1 with
      | some cause => ret (((q.1.lineIdle col line (handleOf col line (s.launchLine col line).seq true)).postCompletion
          (recNat (s.launchLine col line).record 28 2) col 1 cause (handleOf col line (s.launchLine col line).seq true)
          (BitVec.ofNat 64 (recNat (s.launchLine col line).record 88 8))).resumeLaunches)
      | none =>
        let s1 := q.1.lineIdle col line (handleOf col line (s.launchLine col line).seq false)
        let la := { s1.la with launches := s1.la.launches ++
          [Launch.start (handleOf col line (s.launchLine col line).seq false) (s.launchLine col line).record q.2.2] }
        ret ({ s1 with la := la } : State).resumeLaunches := by
  rw [execLaunchTake]
  dsimp only
  rw [if_neg (by simp [hpend, hquiet, hon, hready, hroom]), hq] <;> rfl

theorem happens_launchTake_accepts (u : State) (spill : Rec256) :
    Happens (.launchTake col line) (fun s =>
      let x := s.launchLine col line
      x.pending = true ∧ s.la.launches.length < 512 ∧ s.pw.entering = 0 ∧ s.pw.mstate ≠ 2 ∧ s.recordWaits col x.record = false ∧
      s.rejectCause col x.record (handleOf col line x.seq false) = (u, none, spill)) fun s =>
    let x := s.launchLine col line
    let h := handleOf col line x.seq false
    let v := u.lineIdle col line h
    ({ v with la := { v.la with launches := v.la.launches ++ [Launch.start h x.record spill] } } : State).resumeLaunches :=
  happens_of_ret fun s hp => by
    obtain ⟨hpend, hroom, hquiet, hon, hready, hcause⟩ := hp
    exact execLaunchTake_of_ready col line hpend hroom hquiet hon hready hcause

theorem happens_launchTake_rejects (u : State) (cause : Nat) (spill : Rec256) :
    Happens (.launchTake col line) (fun s =>
      let x := s.launchLine col line
      x.pending = true ∧ s.la.launches.length < 512 ∧ s.pw.entering = 0 ∧ s.pw.mstate ≠ 2 ∧ s.recordWaits col x.record = false ∧
      s.rejectCause col x.record (handleOf col line x.seq false) = (u, some cause, spill)) fun s =>
    let x := s.launchLine col line
    let hr := handleOf col line x.seq true
    ((u.lineIdle col line hr).postCompletion (recNat x.record 28 2) col 1 cause hr
      (BitVec.ofNat 64 (recNat x.record 88 8))).resumeLaunches :=
  happens_of_ret fun s hp => by
    obtain ⟨hpend, hroom, hquiet, hon, hready, hcause⟩ := hp
    exact execLaunchTake_of_ready col line hpend hroom hquiet hon hready hcause

end Line

/-! ### Starting a launch (05 R117, R119) -/

section Start
variable {s : State} {h : Word64} {l : Launch}

/-- A waiting launch whose predecessor is satisfied reads its arguments. -/
theorem execPredecessorSatisfied_of_ready (hlaunch : s.launch? h = some l) (hstage : l.stage = .waiting) (hrun : l.ending = false)
    (hin : l.switched = false) (hws : s.wsHeld l = false) (hpred : s.predHolds l = true) (hquiet : s.pw.entering = 0)
    (hon : s.pw.mstate ≠ 2) (hready : s.unitWaits l.col (argAddrs (l.recNat 32 8)) .read = false) :
    execPredecessorSatisfied h s =
      match s.argPlaces l.col (l.recNat 32 8) with
      | (s1, none) => ret (s1.rejectLate l 2)
      | (s1, some pas) =>
        if pas.any s1.stopped && s1.stopLate (unitOp h) then ret ((s1.stopEnds (unitOp h)).rejectLate l 2)
        else
        match s1.unitRead h true 8 pas with
        | (s2, none) => ret s2
        | (s2, some xs) =>
          ret (s2.modLaunch h fun l => { l with
            args := if pas.isEmpty then List.replicate 16 0 else xs.map (BitVec.ofNat 64), stage := .distributing, wdog := some s2.now }) := by
  rw [execPredecessorSatisfied, hlaunch]
  dsimp only
  rw [if_neg (by simp [hstage, hrun, hin, hws, hpred, hquiet, hon, hready])] <;> rfl

end Start

section Predecessor
variable (h : Word64) (l : Launch) (u : State)

theorem happens_predecessorSatisfied_starts (pas : List Nat) (v : State) (xs : List Nat) :
    Happens (.predecessorSatisfied h) (fun s => s.launch? h = some l ∧ l.stage = .waiting ∧ l.ending = false ∧
      l.switched = false ∧ s.wsHeld l = false ∧ s.predHolds l = true ∧ s.pw.entering = 0 ∧ s.pw.mstate ≠ 2 ∧
      s.unitWaits l.col (argAddrs (l.recNat 32 8)) .read = false ∧
      s.argPlaces l.col (l.recNat 32 8) = (u, some pas) ∧ (pas.any u.stopped && u.stopLate (unitOp h)) = false ∧
      u.unitRead h true 8 pas = (v, some xs)) fun _ =>
    v.modLaunch h fun l => { l with
      args := if pas.isEmpty then List.replicate 16 0 else xs.map (BitVec.ofNat 64), stage := .distributing, wdog := some v.now } :=
  happens_of_ret fun s hp => by
    obtain ⟨hlaunch, hstage, hrun, hin, hws, hpred, hquiet, hon, hready, hplaces, hlate, hread⟩ := hp
    refine (execPredecessorSatisfied_of_ready hlaunch hstage hrun hin hws hpred hquiet hon hready).trans ?_
    rw [hplaces]
    dsimp only
    rw [if_neg (by simp [hlate]), hread]

theorem happens_predecessorSatisfied_faults :
    Happens (.predecessorSatisfied h) (fun s => s.launch? h = some l ∧ l.stage = .waiting ∧ l.ending = false ∧
      l.switched = false ∧ s.wsHeld l = false ∧ s.predHolds l = true ∧ s.pw.entering = 0 ∧ s.pw.mstate ≠ 2 ∧
      s.unitWaits l.col (argAddrs (l.recNat 32 8)) .read = false ∧
      s.argPlaces l.col (l.recNat 32 8) = (u, none)) fun _ => u.rejectLate l 2 :=
  happens_of_ret fun s hp => by
    obtain ⟨hlaunch, hstage, hrun, hin, hws, hpred, hquiet, hon, hready, hplaces⟩ := hp
    refine (execPredecessorSatisfied_of_ready hlaunch hstage hrun hin hws hpred hquiet hon hready).trans ?_
    rw [hplaces]

theorem happens_predecessorSatisfied_late (pas : List Nat) :
    Happens (.predecessorSatisfied h) (fun s => s.launch? h = some l ∧ l.stage = .waiting ∧ l.ending = false ∧
      l.switched = false ∧ s.wsHeld l = false ∧ s.predHolds l = true ∧ s.pw.entering = 0 ∧ s.pw.mstate ≠ 2 ∧
      s.unitWaits l.col (argAddrs (l.recNat 32 8)) .read = false ∧
      s.argPlaces l.col (l.recNat 32 8) = (u, some pas) ∧ (pas.any u.stopped && u.stopLate (unitOp h)) = true) fun _ =>
    (u.stopEnds (unitOp h)).rejectLate l 2 :=
  happens_of_ret fun s hp => by
    obtain ⟨hlaunch, hstage, hrun, hin, hws, hpred, hquiet, hon, hready, hplaces, hlate⟩ := hp
    refine (execPredecessorSatisfied_of_ready hlaunch hstage hrun hin hws hpred hquiet hon hready).trans ?_
    rw [hplaces]
    dsimp only
    rw [if_pos hlate]

end Predecessor

section Root
variable (h : Word64) (l : Launch)

theorem happens_rootDistribute_places (col core : Nat) (x : Seed) (u : State) :
    Happens (.rootDistribute h) (fun s => s.launch? h = some l ∧ s.rootPlace l = some (col, core) ∧
      s.rootNext l.col = some l ∧ x = (⟨BitVec.ofNat 32 l.nextRoot, BitVec.ofNat 32 (l.nextRoot % l.ext.1),
        BitVec.ofNat 32 (l.nextRoot / l.ext.1 % l.ext.2.1), false, none⟩ : Seed) ∧
      (s.affinity l l.nextRoot).1.toBin core h l.entry x = some u) fun _ =>
    let last := decide (l.nextRoot + 1 = l.total)
    let v := (u.markPlaced h col).modLaunch h fun l =>
      { l with nextRoot := l.nextRoot + 1, stage := if last then .distributed else l.stage }
    if last then (v.flushBins h).noteTriggers else v :=
  happens_of_ret fun s hp => by
    obtain ⟨hlaunch, hplace, hnext, hx, hbin⟩ := hp
    subst hx
    show execRootDistribute h s = _
    rw [execRootDistribute, hlaunch]
    dsimp only
    rw [hplace]
    dsimp only
    rw [if_neg (fun hne => hne hnext), hbin]

theorem happens_rootDistribute_rootless :
    Happens (.rootDistribute h) (fun s => s.launch? h = some l ∧ s.rootPlace l = none ∧ s.rootless l = true) fun s =>
      s.rejectLate l 4 :=
  happens_of_ret fun s hp => by
    obtain ⟨hlaunch, hplace, hnone⟩ := hp
    show execRootDistribute h s = _
    rw [execRootDistribute, hlaunch]
    dsimp only
    rw [hplace]
    exact if_pos hnone

theorem happens_rootDistribute_reads :
    Happens (.rootDistribute h) (fun s => s.launch? h = some l ∧ s.rootPlace l = none ∧ s.rootless l = false ∧
      s.rootReads l = true) fun s => (s.affinity l l.nextRoot).1 :=
  happens_of_ret fun s hp => by
    obtain ⟨hlaunch, hplace, hsome, hreads⟩ := hp
    show execRootDistribute h s = _
    rw [execRootDistribute, hlaunch]
    dsimp only
    rw [hplace]
    dsimp only
    rw [if_neg (by simp [hsome]), if_pos hreads]

/-! ### Retirement (05 R121, R122) and the watchdog (17 R383) -/

theorem happens_launchRetire :
    Happens (.launchRetire h) (fun s => s.launch? h = some l ∧ s.retirable l = true) fun s => s.retire l :=
  happens_of_ret fun s hp => by
    obtain ⟨hlaunch, hretire⟩ := hp
    show execLaunchRetire h s = _
    rw [execLaunchRetire, hlaunch]
    dsimp only
    rw [if_neg (by simp [hretire])]

@[simp] theorem State.postWatchdog_now (s : State) (l : Launch) (col code : Nat) : (s.postWatchdog l col code).now = s.now :=
  (State.OnlyEvents.post s _ _ _).now

theorem happens_watchdogExpire_hung :
    Happens (.watchdogExpire h) (fun s => s.launch? h = some l ∧ s.wdogDue l = true ∧ l.hung = true) fun s =>
    let u := (s.postWatchdog l l.col 0).modLaunch h fun l => { l with wdog := some (s.postWatchdog l l.col 0).now }
    ((u.unsavedCols h).foldl (fun s c => s.domainReset h c) u).startEnd h 4 0 :=
  happens_of_ret fun s hp => by
    obtain ⟨hlaunch, hdue, hhung⟩ := hp
    show execWatchdogExpire h s = _
    rw [execWatchdogExpire, hlaunch]
    simp only [State.postWatchdog_now]
    rw [if_neg (by simp [hdue])]
    exact if_pos hhung

theorem happens_watchdogExpire_saves :
    Happens (.watchdogExpire h) (fun s => s.launch? h = some l ∧ s.wdogDue l = true ∧ l.hung = false ∧ (l.quiescing ≠ 0 ∨
      ((s.postWatchdog l l.col 0).modLaunch h fun l => { l with wdog := some (s.postWatchdog l l.col 0).now }).framesEnough h = true))
    fun s =>
    let u := (s.postWatchdog l l.col 0).modLaunch h fun l => { l with wdog := some (s.postWatchdog l l.col 0).now }
    ((u.modLaunch h fun l => { l with hung := true }).markSaves h 2).startOut h :=
  happens_of_ret fun s hp => by
    obtain ⟨hlaunch, hdue, hhung, hroom⟩ := hp
    simp only [State.postWatchdog_now] at hroom
    show execWatchdogExpire h s = _
    rw [execWatchdogExpire, hlaunch]
    simp only [State.postWatchdog_now]
    rw [if_neg (by simp [hdue]), if_neg (by simp [hhung])]
    refine if_neg ?_
    rintro ⟨hquiet, hfull⟩
    rcases hroom with hq | hf
    · exact hq hquiet
    · simp [hf] at hfull

theorem happens_watchdogExpire_ends :
    Happens (.watchdogExpire h) (fun s => s.launch? h = some l ∧ s.wdogDue l = true ∧ l.hung = false ∧ l.quiescing = 0 ∧
      ((s.postWatchdog l l.col 0).modLaunch h fun l => { l with wdog := some (s.postWatchdog l l.col 0).now }).framesEnough h = false)
    fun s => ((s.postWatchdog l l.col 0).modLaunch h fun l => { l with wdog := some (s.postWatchdog l l.col 0).now }).startEnd h 4 0 :=
  happens_of_ret fun s hp => by
    obtain ⟨hlaunch, hdue, hhung, hquiet, hfull⟩ := hp
    simp only [State.postWatchdog_now] at hfull
    show execWatchdogExpire h s = _
    rw [execWatchdogExpire, hlaunch]
    simp only [State.postWatchdog_now]
    rw [if_neg (by simp [hdue]), if_neg (by simp [hhung])]
    exact if_pos ⟨hquiet, by simp [hfull]⟩

end Root

/-- What retirement leaves: the launch and everything it held are gone, everything else of the launches stands (R122). -/
theorem State.retire_leaves (s : State) (l : Launch) :
    ∃ u : State, s.retire l = u.postCompletion l.evq l.col l.status l.cause l.handle l.tag ∧
    { u with la := s.la, en := s.en, cl := s.cl } = s ∧ (∀ k, u.launch? k = if k = l.handle then none else s.launch? k) ∧
    (∀ a, a ∈ u.la.arenas ↔ a ∈ s.la.arenas ∧ a.handle ≠ l.handle) ∧ (∀ a, a ∈ u.la.teams ↔ a ∈ s.la.teams ∧ a.handle ≠ l.handle) ∧
    (∀ q, q ∈ u.en.queues ↔ q ∈ s.en.queues ∧ q.2.owner ≠ some l.handle) ∧
    (∀ f, f ∈ u.la.frames ↔ f ∈ s.la.frames ∧ ∀ k c i b, f.use = .arena k c i b → k ≠ l.handle) := by
  refine ⟨_, rfl, rfl, fun k => State.launch?_dropLaunch _ l.handle k, fun a => ?_, fun a => ?_, fun q => ?_, fun f => ?_⟩
  · exact List.mem_filter.trans (and_congr_right fun _ => decide_eq_true_iff)
  · exact List.mem_filter.trans (and_congr_right fun _ => decide_eq_true_iff)
  · exact List.mem_filter.trans (and_congr_right fun _ => decide_eq_true_iff)
  · refine List.mem_filter.trans (and_congr_right fun _ => ?_)
    cases hu : f.use with
    | arena k c i b =>
      refine decide_eq_true_iff.trans ⟨fun hk k' c' i' b' e => ?_, fun hall => hall k c i b rfl⟩
      cases e
      exact hk
    | _ => simp

end Sys2Proof.Machine
end

section
/-! O48: what the writes of sys.lprio and sys.lswitch and the steps of a switch do (17 R379-R381). -/

set_option Elab.async false

namespace Sys2Proof.Machine

/-! ### What closing bins and injecting markers leave -/

theorem State.launch?_foldl_closeBin (bs : List Bin) : ∀ (s : State) (k : Word64), (bs.foldl State.closeBin s).launch? k = s.launch? k := by
  induction bs with
  | nil => exact fun _ _ => rfl
  | cons b bs ih => exact fun s k => ih (s.closeBin b) k

@[simp] theorem State.launch?_flushBins (s : State) (h k : Word64) : (s.flushBins h).launch? k = s.launch? k :=
  State.launch?_foldl_closeBin _ s k

/-- A bin after one is closed: the bin it was, or closed. -/
theorem mem_bins_closeBin {s : State} {b x : Bin} (hx : x ∈ (s.closeBin b).la.bins) :
    ∃ y ∈ s.la.bins, x.handle = y.handle ∧ (x = y ∨ x.closed = true) ∧ (y = b → x.closed = true) := by
  obtain ⟨y, hy, rfl⟩ := List.mem_map.mp hx
  refine ⟨y, hy, ?_⟩
  split
  · exact ⟨rfl, .inr rfl, fun _ => rfl⟩
  next hmark => exact ⟨rfl, .inl rfl, fun hsame => by simpa [hsame] using hmark⟩

theorem mem_bins_foldl_closeBin (bs : List Bin) : ∀ (s : State) {x : Bin}, x ∈ (bs.foldl State.closeBin s).la.bins →
    ∃ y ∈ s.la.bins, x.handle = y.handle ∧ (x = y ∨ x.closed = true) ∧ (y ∈ bs → x.closed = true) := by
  induction bs with
  | nil => exact fun s x hx => ⟨x, hx, rfl, .inl rfl, fun h => nomatch h⟩
  | cons b bs ih =>
    intro s x hx
    obtain ⟨z, hz, hxz, hsame, hlater⟩ := ih _ hx
    obtain ⟨y, hy, hzy, hkept, hfirst⟩ := mem_bins_closeBin hz
    have hclosed : z.closed = true → x.closed = true := fun h => hsame.elim (fun e => e ▸ h) id
    refine ⟨y, hy, hxz.trans hzy, ?_, fun hmem => ?_⟩
    · rcases hkept with rfl | h
      · exact hsame
      · exact .inr (hclosed h)
    · rcases List.mem_cons.mp hmem with rfl | h
      · exact hclosed (hfirst rfl)
      · rcases hkept with rfl | hc
        · exact hlater h
        · exact hclosed hc

/-- Flushing a launch's bins leaves none of them open. -/
theorem State.flushBins_closed {s : State} {h : Word64} {b : Bin} (hb : b ∈ (s.flushBins h).la.bins) (hh : b.handle = h) :
    b.closed = true := by
  obtain ⟨y, hy, hhandle, hsame, hflushed⟩ := mem_bins_foldl_closeBin _ _ hb
  by_cases hc : y.closed = true
  · exact hsame.elim (fun e => e ▸ hc) id
  · exact hflushed (List.mem_filter.mpr ⟨hy, by simp [← hhandle, hh, hc]⟩)

/-- Flushing bins leaves everything but the bins and the count of their order. -/
theorem State.flushBins_only (s : State) (h : Word64) :
    { s.flushBins h with la := { (s.flushBins h).la with bins := s.la.bins, binOrder := s.la.binOrder } } = s := by
  have hclose : ∀ (bs : List Bin) (u : State), { bs.foldl State.closeBin u with
      la := { (bs.foldl State.closeBin u).la with bins := s.la.bins, binOrder := s.la.binOrder } } =
      { u with la := { u.la with bins := s.la.bins, binOrder := s.la.binOrder } } := fun bs => by
    induction bs with
    | nil => exact fun _ => rfl
    | cons b bs ih => exact fun u => ih (u.closeBin b)
  exact hclose _ s

/-- Markers change only the operations of the engines, their numbers and the drift queries of the halted ones. -/
theorem State.injectMarkers_only (s : State) (h : Word64) :
    { s.injectMarkers h with opId := s.opId, mx := s.mx, en := s.en, dr := s.dr } = s := by
  have hhalt : ∀ (as : List AERun) (u : State), { as.foldl (fun s a => s.haltAe a.core) u with
      opId := s.opId, mx := s.mx, en := s.en, dr := s.dr } = { u with opId := s.opId, mx := s.mx, en := s.en, dr := s.dr } := fun as => by
    induction as with
    | nil => exact fun _ => rfl
    | cons a as ih => exact fun u => ih (u.haltAe a.core)
  exact hhalt _ _

@[simp] theorem State.injectMarkers_la (s : State) (h : Word64) : (s.injectMarkers h).la = s.la :=
  (congrArg State.la (s.injectMarkers_only h) :)

@[simp] theorem State.injectMarkers_sys (s : State) (h : Word64) : (s.injectMarkers h).sys = s.sys :=
  (congrArg State.sys (s.injectMarkers_only h) :)

@[simp] theorem State.launch?_injectMarkers (s : State) (h k : Word64) : (s.injectMarkers h).launch? k = s.launch? k :=
  State.launch?_congr (congrArg LaunchSt.launches (s.injectMarkers_la h)) k

/-! ### sys.lprio (05 R119) -/

theorem State.lprioWrite_refused {s : State} {v : Word64} (h : s.launch? (namedHandle v) = none) :
    s.lprioWrite v = s.sysPut SysReg.lprio 0 (s.sysGet SysReg.lprio 0 ||| 0x80000000) := by
  rw [State.lprioWrite, h]

theorem State.lprioWrite_sets {s : State} {v : Word64} {l : Launch} (h : s.launch? (namedHandle v) = some l) :
    s.lprioWrite v = (s.sysPut SysReg.lprio 0 (maskWrite (s.sysGet SysReg.lprio 0) v 0xFFFFFFFF00001FFF 0x80000000)).modLaunch
      (namedHandle v) fun l => { l with prio := field v 12 10 } := by
  rw [State.lprioWrite, h]

theorem State.lprioWrite_launches {s : State} {v : Word64} {l : Launch} (h : s.launch? (namedHandle v) = some l) :
    let t := s.lprioWrite v
    t.launch? l.handle = some { l with prio := field v 12 10 } ∧ (∀ k, k ≠ l.handle → t.launch? k = s.launch? k) ∧
    t.sysGet SysReg.lprio 0 = maskWrite (s.sysGet SysReg.lprio 0) v 0xFFFFFFFF00001FFF 0x80000000 ∧
    { t with sys := s.sys, la := { t.la with launches := s.la.launches } } = s := by
  have hnamed := State.launch?_handle h
  intro t
  have ht : t = _ := State.lprioWrite_sets h
  rw [← hnamed] at h ht
  rw [ht]
  exact ⟨State.launch?_modLaunch_same (s := s.sysPut SysReg.lprio 0 _) h (f := fun l => { l with prio := field v 12 10 }) fun _ => rfl,
    fun k hk => State.launch?_modLaunch_ne (s.sysPut SysReg.lprio 0 _) hk fun _ => rfl, State.sysGet_sysPut_same s _ _ _, rfl⟩

/-! ### sys.lswitch (17 R379-R381; 19 R416) -/

theorem State.lswitchWrite_refused {s : State} {col : Nat} {v : Word64} (h : s.lswitchRefused v = true) :
    s.lswitchWrite col v = s.sysPut SysReg.lswitch 0 (s.sysGet SysReg.lswitch 0 ||| 0x80000000) := by
  rw [State.lswitchWrite]
  exact if_pos h

/-- The state in which an accepted write of sys.lswitch is recorded as the operation in progress. -/
def State.switchNoted (s : State) (col : Nat) (v : Word64) : State :=
  let s1 := s.sysPut SysReg.lswitch 0 (maskWrite (s.sysGet SysReg.lswitch 0) v 0xFFFFFFFF300003FF 0x80000000)
  { s1 with la := { s1.la with switch := some ⟨field v 29 28, namedHandle v, col⟩ } }

theorem State.lswitchWrite_accepted {s : State} {col : Nat} {v : Word64} (h : s.lswitchRefused v = false) (hop : field v 29 28 ≠ 0) :
    s.lswitchWrite col v = match field v 29 28 with
      | 1 => (s.switchNoted col v).startOut (namedHandle v)
      | 2 => { s.switchNoted col v with la := { (s.switchNoted col v).la with ins := s.la.ins ++ [namedHandle v] } }
      | _ => (s.switchNoted col v).startEnd (namedHandle v) 2 0 := by
  rw [State.lswitchWrite]
  refine (if_neg (by rw [h]; exact Bool.false_ne_true)).trans ((if_neg hop).trans ?_)
  rfl

/-- A launch that is not yet leaving starts to leave: its bins are closed and its markers are injected. -/
theorem State.startOut_quiet {s : State} {h : Word64} {l : Launch} (hl : s.launch? h = some l) (hq : l.quiescing = 0) (hin : l.switched = false) :
    s.startOut h = ((s.modLaunch h fun l => { l with quiescing := 1 }).flushBins h).injectMarkers h := by
  rw [State.startOut, hl]
  exact if_neg (by simp [hq, hin])

theorem State.startEnd_runs {s : State} {h : Word64} {l : Launch} {status cause : Nat} (hl : s.launch? h = some l) (he : l.ending = false) :
    s.startEnd h status cause =
      (s.modLaunch h fun l => { l with ending := true, status := status, cause := cause, quiescing := 1 }).injectMarkers h := by
  rw [State.startEnd, hl]
  exact if_neg (by simp [he])

theorem State.startOut_keeps (s : State) (h : Word64) : (s.startOut h).sys = s.sys ∧ (s.startOut h).la.switch = s.la.switch := by
  unfold State.startOut
  split
  · split
    · exact ⟨rfl, rfl⟩
    · rw [State.injectMarkers_sys, State.injectMarkers_la]
      have hflush := State.flushBins_only (s.modLaunch h fun l => { l with quiescing := 1 }) h
      exact ⟨(congrArg State.sys hflush :), (congrArg (fun u : State => u.la.switch) hflush :)⟩
  · exact ⟨rfl, rfl⟩

theorem State.startEnd_keeps (s : State) (h : Word64) (status cause : Nat) :
    (s.startEnd h status cause).sys = s.sys ∧ (s.startEnd h status cause).la.switch = s.la.switch := by
  unfold State.startEnd
  split
  · split
    · exact ⟨rfl, rfl⟩
    · rw [State.injectMarkers_sys, State.injectMarkers_la]
      exact ⟨rfl, rfl⟩
  · exact ⟨rfl, rfl⟩

/-- Whatever an accepted write starts, the register and the operation in progress stay as they are noted. -/
theorem State.lswitchWrite_notes {s : State} {col : Nat} {v : Word64} (h : s.lswitchRefused v = false) (hop : field v 29 28 ≠ 0) :
    (s.lswitchWrite col v).sys = (s.switchNoted col v).sys ∧
    (s.lswitchWrite col v).la.switch = some ⟨field v 29 28, namedHandle v, col⟩ := by
  rw [State.lswitchWrite_accepted h hop]
  split
  · exact State.startOut_keeps (s.switchNoted col v) _
  · exact ⟨rfl, rfl⟩
  · exact State.startEnd_keeps (s.switchNoted col v) _ 2 0

/-- A launch switched in is not already in, and one switched out is not already out. -/
theorem State.switched_of_accepted {s : State} {v : Word64} {l : Launch} (h : s.lswitchRefused v = false)
    (hl : s.launch? (namedHandle v) = some l) (hop : field v 29 28 = 1) : l.switched = false := by
  unfold State.lswitchRefused at h
  dsimp only at h
  rw [hl, hop] at h
  simp at h
  exact h.2.1

theorem State.lswitchWrite_out {s : State} {col : Nat} {v : Word64} {l : Launch} (h : s.lswitchRefused v = false)
    (hl : s.launch? (namedHandle v) = some l) (hop : field v 29 28 = 1) (hq : l.quiescing = 0) :
    (s.lswitchWrite col v).launch? l.handle = some { l with quiescing := 1 } ∧
    ∀ b ∈ (s.lswitchWrite col v).la.bins, b.handle = l.handle → b.closed = true := by
  have hin := State.switched_of_accepted h hl hop
  have hnamed := State.launch?_handle hl
  have hw : s.lswitchWrite col v = (s.switchNoted col v).startOut (namedHandle v) := by
    rw [State.lswitchWrite_accepted h (by omega), hop]
    rfl
  rw [← hnamed] at hl hw
  rw [hw]
  rw [State.startOut_quiet (s := s.switchNoted col v) hl hq hin, State.launch?_injectMarkers, State.launch?_flushBins,
    State.injectMarkers_la]
  exact ⟨State.launch?_modLaunch_same (s := s.switchNoted col v) hl (f := fun l => { l with quiescing := 1 }) fun _ => rfl,
    fun b hb hh => State.flushBins_closed hb hh⟩

theorem State.lswitchWrite_in {s : State} {col : Nat} {v : Word64} {l : Launch} (h : s.lswitchRefused v = false)
    (hl : s.launch? (namedHandle v) = some l) (hop : field v 29 28 = 2) :
    (s.lswitchWrite col v).launch? l.handle = some l ∧ (s.lswitchWrite col v).la.ins = s.la.ins ++ [l.handle] := by
  rw [State.lswitchWrite_accepted h (by omega), hop, State.launch?_handle hl]
  exact ⟨hl, rfl⟩

theorem State.lswitchWrite_end {s : State} {col : Nat} {v : Word64} {l : Launch} (h : s.lswitchRefused v = false)
    (hl : s.launch? (namedHandle v) = some l) (hop : field v 29 28 = 3) (he : l.ending = false) :
    (s.lswitchWrite col v).launch? l.handle = some { l with ending := true, status := 2, cause := 0, quiescing := 1 } := by
  have hnamed := State.launch?_handle hl
  have hw : s.lswitchWrite col v = (s.switchNoted col v).startEnd (namedHandle v) 2 0 := by
    rw [State.lswitchWrite_accepted h (by omega), hop]
    rfl
  rw [← hnamed] at hl hw
  rw [hw]
  rw [State.startEnd_runs (s := s.switchNoted col v) hl he, State.launch?_injectMarkers]
  exact State.launch?_modLaunch_same (s := s.switchNoted col v) hl
    (f := fun l => { l with ending := true, status := 2, cause := 0, quiescing := 1 }) fun _ => rfl

/-! ### The steps of a switch -/

theorem State.switchStep_gone {s : State} {h : Word64} (hl : s.launch? h = none) : s.switchStep h = s := by
  rw [State.switchStep, hl]

theorem State.switchStep_waits {s : State} {h : Word64} {l : Launch} (hl : s.launch? h = some l) (hq : l.quiescing = 1)
    (hout : (s.popMarkers h).markersOut h = true) : s.switchStep h = s.popMarkers h := by
  rw [State.switchStep, hl]
  exact (if_pos hq).trans (if_pos hout)

theorem State.switchStep_still {s : State} {h : Word64} {l : Launch} (hl : s.launch? h = some l) (hq : l.quiescing = 0)
    (hin : s.la.ins.contains h = false) : s.switchStep h = s := by
  rw [State.switchStep, hl]
  exact (if_neg (by omega)).trans ((if_neg (by omega)).trans (if_neg (by rw [hin]; exact Bool.false_ne_true)))

theorem State.switchStep_quiesced {s : State} {h : Word64} {l : Launch} (hl : s.launch? h = some l) (hq : l.quiescing = 2) :
    s.switchStep h = s.afterMarkers h := by
  rw [State.switchStep, hl]
  exact (if_neg (by omega)).trans (if_pos hq)

theorem State.switchStep_returned {s : State} {h : Word64} {l : Launch} (hl : s.launch? h = some l) (hq : l.quiescing = 1)
    (hout : (s.popMarkers h).markersOut h = false) :
    s.switchStep h = ((s.popMarkers h).modLaunch h fun l => { l with quiescing := 2 }).afterMarkers h := by
  rw [State.switchStep, hl]
  exact (if_pos hq).trans (if_neg (by rw [hout]; exact Bool.false_ne_true))

theorem State.afterMarkers_ending {s : State} {h : Word64} {l : Launch} (hl : s.launch? h = some l) (he : l.ending = true) :
    s.afterMarkers h = s.endAll h := by
  rw [State.afterMarkers, hl]
  exact if_pos he

/-- A launch with no gang, no access and no arena left is out (R379). -/
theorem State.switchStep_out {s : State} {h : Word64} {l : Launch} (hl : s.launch? h = some l) (hq : l.quiescing = 2) (he : l.ending = false)
    (hres : s.residents h = []) (hbusy : s.arenasBusy h = false) (har : ∀ a ∈ s.la.arenas, a.handle ≠ h) :
    (s.switchStep h).launch? h = some { l with switched := true, quiescing := 0, wdog := none } := by
  have harenas : (s.la.arenas.filter fun a => a.handle = h) = [] := List.filter_eq_nil_iff.mpr fun a ha => by simp [har a ha]
  rw [State.switchStep_quiesced hl hq, State.afterMarkers, hl]
  dsimp only
  rw [if_neg (by simp [he]), hres, List.foldl_nil, State.finishOut, if_pos (by rw [hres, hbusy]; rfl), harenas]
  exact State.launch?_modLaunch_same (s := s.saveQueues h) hl (f := fun l => { l with switched := true, quiescing := 0, wdog := none })
    fun _ => rfl

end Sys2Proof.Machine
end

section
/-! Which threads live: what ends threads, and what leaves them all as they were (05 R131; 17 R381). -/

set_option Elab.async false

namespace Sys2Proof.Machine

/-! ### Threads that stay as live as they were -/

/-- Every thread of every agent is as active, and as little ended, as it was. -/
def State.SameLives (s t : State) : Prop :=
  ∀ c l, ((t.ctx c).lane l).act = ((s.ctx c).lane l).act ∧ ((t.ctx c).lane l).exited = ((s.ctx c).lane l).exited

/-- The same of one agent's threads. -/
def Ctx.SameLives (x y : Ctx) : Prop := ∀ l, (y.lane l).act = (x.lane l).act ∧ (y.lane l).exited = (x.lane l).exited

namespace Ctx.SameLives

theorem trans {x y z : Ctx} (h : Ctx.SameLives x y) (k : Ctx.SameLives y z) : Ctx.SameLives x z :=
  fun l => ⟨(k l).1.trans (h l).1, (k l).2.trans (h l).2⟩

theorem of_lanes {x y : Ctx} (h : y.lanes = x.lanes) : Ctx.SameLives x y := fun l => by unfold Ctx.lane; rw [h]; exact ⟨rfl, rfl⟩

theorem modLane (c : Ctx) (l : Nat) {f : Lane → Lane} (hf : ∀ x, (f x).act = x.act ∧ (f x).exited = x.exited) :
    Ctx.SameLives c (c.modLane l f) := by
  intro k
  rw [Ctx.lane_modLane]
  split
  next h => rw [h]; exact hf _
  next => exact ⟨rfl, rfl⟩

theorem modLanes (ls : List Nat) {f : Nat → Lane → Lane} (hf : ∀ l x, (f l x).act = x.act ∧ (f l x).exited = x.exited) :
    ∀ c : Ctx, Ctx.SameLives c (c.modLanes ls f) := by
  induction ls with
  | nil => exact fun _ _ => ⟨rfl, rfl⟩
  | cons a r ih => exact fun c => (modLane c a (hf a)).trans (ih _)

theorem putRecSlots (ns : List Nat) (j : Nat) (f : Nat → Rec256) :
    ∀ x : Ctx, Ctx.SameLives x (ns.foldl (fun (y : Ctx) n => y.putRecSlot j n (f n)) x) := by
  induction ns with
  | nil => exact fun _ _ => ⟨rfl, rfl⟩
  | cons n ns ih => exact fun x => trans (of_lanes rfl) (ih (x.putRecSlot j n (f n)))

theorem setSub (x : Ctx) (j : Nat) (u : Sub) : Ctx.SameLives x (x.setSub j u) := of_lanes rfl

theorem dropSubs (x : Ctx) : Ctx.SameLives x x.dropSubs := of_lanes rfl

/-- Threads moved to a sub-gang. -/
theorem toSub (x : Ctx) (m : Word64) (j : Nat) : Ctx.SameLives x
    ((x.modLanes (lanesOf m) fun _ y => { y with sub := j, heldRcv := false, heldRb := false }).leaveRcv m) :=
  trans (modLanes (lanesOf m) (by exact fun _ _ => ⟨rfl, rfl⟩) x) (of_lanes rfl)

/-- Threads that stand still at a fault. -/
theorem stall (x : Ctx) (m : Word64) (k : Option (Nat × Bool)) :
    Ctx.SameLives x (x.modLanes (lanesOf m) fun _ z => { z with stalled := k }) :=
  modLanes (lanesOf m) (by exact fun _ _ => ⟨rfl, rfl⟩) x

end Ctx.SameLives

namespace State.SameLives

theorem refl (s : State) : s.SameLives s := fun _ _ => ⟨rfl, rfl⟩

theorem trans {s t u : State} (h : s.SameLives t) (k : t.SameLives u) : s.SameLives u :=
  fun c l => ⟨(k c l).1.trans (h c l).1, (k c l).2.trans (h c l).2⟩

theorem of_ctxs {s t : State} (h : t.ctxs = s.ctxs) : s.SameLives t := fun c l => by unfold State.ctx; rw [h]; exact ⟨rfl, rfl⟩

theorem ite {p : Prop} [Decidable p] {s a b : State} (ha : s.SameLives a) (hb : s.SameLives b) : s.SameLives (if p then a else b) := by
  split
  · exact ha
  · exact hb

theorem foldl {α : Type} {f : State → α → State} (h : ∀ (s : State) x, s.SameLives (f s x)) (l : List α) :
    ∀ s : State, s.SameLives (l.foldl f s) := by
  induction l with
  | nil => exact refl
  | cons x l ih => exact fun s => (h s x).trans (ih _)

theorem setCtx (s : State) {c : CtxId} {x : Ctx} (h : Ctx.SameLives (s.ctx c) x) : s.SameLives (s.setCtx c x) := by
  intro k l
  rw [State.ctx_setCtx]
  split
  next hk =>
    have hsame : s.ctx k = s.ctx c := by unfold State.ctx; rw [hk]
    rw [hsame]
    exact h l
  next => exact ⟨rfl, rfl⟩

theorem modCtx (s : State) (c : CtxId) {f : Ctx → Ctx} (h : ∀ x, Ctx.SameLives x (f x)) : s.SameLives (s.modCtx c f) := setCtx s (h _)

theorem of_staysAt {c : CtxId} {s t : State} (h : StaysAt c s t) : s.SameLives t := by
  intro k l
  by_cases hk : ctxKey k = ctxKey c
  · have hctx : ∀ u : State, u.ctx k = u.ctx c := fun u => by unfold State.ctx; rw [hk]
    rw [hctx, hctx]
    exact ⟨(congrArg Lane.act (h.stays.lanes l) : _), (congrArg Lane.exited (h.stays.lanes l) : _)⟩
  · rw [h.only.others k hk]
    exact ⟨rfl, rfl⟩

/-! ### Event records and parking -/

theorem wakeWfi (s : State) (q : Nat) : s.SameLives (s.wakeWfi q) := ite (modCtx s _ fun _ _ => ⟨rfl, rfl⟩) (refl s)

theorem evqPut (s : State) (q : Nat) (bs : List Byte) : s.SameLives (s.evqPut q bs) := of_ctxs (s.evqPut_ctxs q bs)

theorem evqWrite (s : State) (q col : Nat) (bs : List Byte) : s.SameLives (s.evqWrite q col bs) := by
  have hnote : ∀ u : State, u.SameLives ((if (u.sysGet SysReg.evqctl q).getLsbD 60 then
      { u with ev := { u.ev with msix := u.ev.msix ++ [field (u.sysGet SysReg.evqctl q) 53 43] } } else u).wakeWfi q) :=
    fun u => (ite (of_ctxs (by rfl)) (refl u)).trans (wakeWfi _ q)
  refine trans (ite ?_ (evqPut s q bs)) (hnote _)
  exact trans (trans (ite (evqPut s q _) (refl s)) (evqPut _ q _)) (evqPut _ q _)

theorem evqDrop (s : State) (q : Option Nat) : s.SameLives (s.evqDrop q) := of_ctxs (by cases q <;> rfl)

theorem evqOffer (s : State) (q col : Nat) (bs : List Byte) : s.SameLives (s.evqOffer q col bs) :=
  ite (evqWrite s q col bs) (ite (of_ctxs rfl) (evqDrop s _))

theorem post (s : State) (q col : Nat) (bs : List Byte) : s.SameLives (s.post q col bs) :=
  ite (evqOffer s _ col bs) (ite (evqOffer s col col bs) (evqDrop s none))

theorem postFault (s : State) (q col : Nat) (f : FaultRec) : s.SameLives (s.postFault q col f) := post s q col _

theorem startEnd (s : State) (h : Word64) (status cause : Nat) : s.SameLives (s.startEnd h status cause) := by
  unfold State.startEnd
  split
  · exact ite (refl s) (of_ctxs (congrArg State.ctxs (State.injectMarkers_only _ h) :))
  · exact refl s

theorem launchFault (s : State) (h : Word64) (kind q col : Nat) (r : FaultRec) : s.SameLives (s.launchFault h kind q col r) := by
  unfold State.launchFault
  split
  · exact ite (postFault s q col r) (ite (refl s) ((startEnd s h 3 kind).trans (postFault _ q col r)))
  · exact postFault s q col r

theorem settle (s : State) (c : CtxId) : s.SameLives (s.settle c) := of_staysAt (StaysAt.settle s c)

theorem park (s : State) (c : CtxId) (m : Word64) (t : TrapInfo) (hdr : Word64) (idx : Nat) : s.SameLives (s.park c m t hdr idx).1 := by
  unfold State.park
  dsimp only
  split
  · refine trans (trans (of_ctxs ?_) (setCtx _ ?_)) (settle _ c)
    · rfl
    · exact ((Ctx.SameLives.toSub _ m _).trans (Ctx.SameLives.putRecSlots _ _ _ _)).trans
        ((Ctx.SameLives.setSub _ _ _).trans (Ctx.SameLives.dropSubs _))
  · split
    · exact trans (setCtx s ((Ctx.SameLives.toSub _ m _).trans ((Ctx.SameLives.setSub _ _ _).trans (Ctx.SameLives.dropSubs _)))) (settle _ c)
    · exact modCtx s c fun x => Ctx.SameLives.stall x m _

theorem gangTrap (s : State) (c : CtxId) (m : Word64) (t : TrapInfo) (hdr : Word64) (idx : Nat) : s.SameLives (s.gangTrap c m t hdr idx) := by
  refine ite (trans (modCtx s c fun x => Ctx.SameLives.stall x m _) (launchFault _ _ _ _ _ _)) ?_
  have hpark := park s c m t hdr idx
  generalize s.park c m t hdr idx = p at hpark ⊢
  obtain ⟨s1, _ | j⟩ := p <;> exact hpark.trans (postFault s1 _ _ _)

theorem parkFail (s : State) (c : CtxId) (m : Word64) (f : Fail) : s.SameLives (s.parkFail c m f) := by
  have hclear : s.SameLives (s.modCtx c fun x => x.modLanes (lanesOf m) fun _ y => { y with fails := y.fails.filter fun g => !f.like g }) :=
    modCtx s c fun x => Ctx.SameLives.modLanes _ (by exact fun _ _ => ⟨rfl, rfl⟩) x
  unfold State.parkFail
  dsimp only
  refine hclear.trans ?_
  generalize (s.modCtx c fun x => x.modLanes (lanesOf m) fun _ y => { y with fails := y.fails.filter fun g => !f.like g }) = s1
  refine ite (gangTrap s1 _ _ _ _ _) ?_
  have hpark := park s1 c m ⟨f.kind, 0, f.rslot, f.line, true, ((s1.ctx c).lane ((lowestLane m).getD 0)).heldRb⟩
    ((s1.ctx c).lane ((lowestLane m).getD 0)).hdr ((s1.ctx c).lane ((lowestLane m).getD 0)).idx
  generalize s1.park c m _ _ _ = p at hpark ⊢
  obtain ⟨s2, _ | j⟩ := p <;> exact hpark.trans (postFault s2 _ _ _)

theorem parkAtRb (s : State) (c : CtxId) : s.SameLives (s.parkAtRb c) := by
  refine foldl (fun s l => ?_) _ s
  dsimp only
  split
  · exact ite (parkFail s c _ _) (refl s)
  · exact refl s

end State.SameLives

/-! ### The end of threads -/

/-- Failed operations of threads that end leave every thread as live as it was. -/
theorem State.SameLives.postExited (s : State) (c : CtxId) (m : Word64) (f : Fail) : s.SameLives (s.postExited c m f) :=
  postFault s _ _ _

/-- A thread that has ended, with nothing left of it (R131). -/
def Lane.ended (y : Lane) : Lane :=
  { y with exited := true, team := 0xFFFFFFFF, trig := true, wait := .none, stalled := .none, heldRb := false,
           heldRcv := false, fails := [], holds := [] }

/-- Threads of one agent ended, before what is left of the agent settles. -/
def State.endedLanes (s : State) (c : CtxId) (m : Word64) : State :=
  (s.modCtx c fun x => x.modLanes (lanesOf m) fun _ => Lane.ended).modCtx c Ctx.dropSubs

theorem State.endedLanes_lane (s : State) (c k : CtxId) (m : Word64) (l : Nat) : ((s.endedLanes c m).ctx k).lane l =
    if ctxKey k = ctxKey c ∧ l ∈ lanesOf m then ((s.ctx k).lane l).ended else (s.ctx k).lane l := by
  unfold State.endedLanes
  by_cases hk : ctxKey k = ctxKey c
  · have hctx : ∀ u : State, u.ctx k = u.ctx c := fun u => by unfold State.ctx; rw [hk]
    rw [hctx, hctx s, State.ctx_modCtx_same, State.ctx_modCtx_same]
    show ((s.ctx c).modLanes (lanesOf m) fun _ => Lane.ended).lane l = _
    rw [Ctx.lane_modLanes _ _ _ (nodup_lanesOf m)]
    simp [hk]
  · rw [State.ctx_modCtx_ne _ _ hk, State.ctx_modCtx_ne _ _ hk, if_neg fun h => hk h.1]

/-- The failed operations of the threads that end, each once. -/
def Ctx.exitFails (x : Ctx) (m : Word64) : List Fail :=
  ((lanesOf m).flatMap fun l => (x.lane l).fails).foldl (fun (r : List Fail) f => if r.any f.like then r else r ++ [f]) []

/-- The state in which the failed operations of ending threads are posted. -/
def State.exitsPosted (s : State) (c : CtxId) (m : Word64) : State :=
  ((s.ctx c).exitFails m).foldl
    (fun u f => u.postExited c (maskOf fun l => m.getLsbD l && ((s.ctx c).lane l).fails.any f.like) f) s

theorem State.endThreads_eq (s : State) (c : CtxId) (m : Word64) :
    s.endThreads c m = ((((s.exitsPosted c m).endedLanes c m).parkAtRb c).settle c).noteTriggers := rfl

theorem State.SameLives.exitsPosted (s : State) (c : CtxId) (m : Word64) : s.SameLives (s.exitsPosted c m) :=
  foldl (fun u f => postExited u c _ f) _ s

/-- Threads of one agent ended: these and no others. -/
theorem State.endThreads_lane (s : State) (c k : CtxId) (m : Word64) (l : Nat) :
    (((s.endThreads c m).ctx k).lane l).act = ((s.ctx k).lane l).act ∧
    (((s.endThreads c m).ctx k).lane l).exited = (((s.ctx k).lane l).exited || (decide (ctxKey k = ctxKey c) && decide (l ∈ lanesOf m))) := by
  have hu := State.SameLives.exitsPosted s c m
  have ht : ((s.exitsPosted c m).endedLanes c m).SameLives (s.endThreads c m) :=
    ((State.SameLives.parkAtRb _ c).trans (State.SameLives.settle _ c)).trans (State.SameLives.of_ctxs rfl)
  rw [(ht k l).1, (ht k l).2, State.endedLanes_lane, ← (hu k l).1, ← (hu k l).2]
  by_cases hk : ctxKey k = ctxKey c <;> by_cases hl : l ∈ lanesOf m <;> simp [hk, hl, Lane.ended]

theorem Ctx.living_eq_zero {x : Ctx} (h : ∀ l, l < 64 → (x.lane l).act = true → (x.lane l).exited = true) : x.living = 0 := by
  refine BitVec.eq_of_getLsbD_eq fun l hl => ?_
  rw [Ctx.living, getLsbD_maskOf]
  cases hact : (x.lane l).act with
  | false => simp
  | true => simp [h l hl hact]

theorem Ctx.exited_of_living_eq_zero {x : Ctx} (h : x.living = 0) {l : Nat} (hl : l < 64) (ha : (x.lane l).act = true) :
    (x.lane l).exited = true := by
  have hbit : x.living.getLsbD l = false := by rw [h]; simp
  rw [Ctx.living, getLsbD_maskOf] at hbit
  simpa [hl, ha] using hbit

/-! ### The end of a launch's gangs -/

/-- One gang's threads ended, with its requests and its bypasses dropped (R381). -/
def State.endGang (s : State) (g : Nat) : State :=
  (s.endThreads (.gang g) (s.ctx (.gang g)).living).modCtx (.gang g) fun x => { x with regx := [], wbs := [] }

theorem State.endGang_lane (s : State) (g : Nat) (k : CtxId) (l : Nat) :
    (((s.endGang g).ctx k).lane l).act = ((s.ctx k).lane l).act ∧
    (((s.endGang g).ctx k).lane l).exited =
      (((s.ctx k).lane l).exited || (decide (ctxKey k = 64 + g) && decide (l ∈ lanesOf (s.ctx (.gang g)).living))) := by
  have h := s.endThreads_lane (.gang g) k (s.ctx (.gang g)).living l
  have hdrop := State.SameLives.modCtx (s.endThreads (.gang g) (s.ctx (.gang g)).living) (.gang g)
    (f := fun x => { x with regx := [], wbs := [] }) (fun _ => Ctx.SameLives.of_lanes rfl) k l
  exact ⟨hdrop.1.trans h.1, hdrop.2.trans h.2⟩

/-- A gang whose threads are ended has no living thread. -/
theorem State.living_endGang_same (s : State) (g : Nat) : ((s.endGang g).ctx (.gang g)).living = 0 := by
  refine Ctx.living_eq_zero fun l hl hact => ?_
  obtain ⟨ha, he⟩ := s.endGang_lane g (.gang g) l
  rw [ha] at hact
  rw [he]
  cases hx : ((s.ctx (.gang g)).lane l).exited with
  | true => rfl
  | false =>
    have hmem : l ∈ lanesOf (s.ctx (.gang g)).living := mem_lanesOf_maskOf.mpr ⟨hl, by rw [hact, hx]; rfl⟩
    simp [ctxKey, hmem]

/-- A gang without a living thread gets none when another gang's threads end. -/
theorem State.living_endGang_keeps {s : State} {g : Nat} (i : Nat) (h : (s.ctx (.gang g)).living = 0) :
    ((s.endGang i).ctx (.gang g)).living = 0 := by
  refine Ctx.living_eq_zero fun l hl hact => ?_
  obtain ⟨ha, he⟩ := s.endGang_lane i (.gang g) l
  rw [ha] at hact
  rw [he, Ctx.exited_of_living_eq_zero h hl hact, Bool.true_or]

theorem State.living_foldl_endGang (gs : List Nat) : ∀ {s : State} {g : Nat}, g ∈ gs ∨ (s.ctx (.gang g)).living = 0 →
    ((gs.foldl State.endGang s).ctx (.gang g)).living = 0 := by
  induction gs with
  | nil => exact fun h => h.resolve_left List.not_mem_nil
  | cons i gs ih =>
    intro s g h
    have hnext : g ∈ gs ∨ ((s.endGang i).ctx (.gang g)).living = 0 := by
      rcases h with h | h
      · rcases List.mem_cons.mp h with rfl | h
        · exact .inr (s.living_endGang_same g)
        · exact .inl h
      · exact .inr (State.living_endGang_keeps i h)
    rw [List.foldl_cons]
    exact ih hnext

/-- A value other than the unlisted one is listed. -/
theorem SMap.mem_of_get_ne {α : Type} {d : α} {m : SMap α} {k : Nat} (h : SMap.get d m k ≠ d) : (k, SMap.get d m k) ∈ m := by
  induction m with
  | nil => exact absurd rfl h
  | cons p r ih =>
    obtain ⟨a, v⟩ := p
    rw [SMap.get_cons] at h ⊢
    split at h
    next hk => rw [if_pos hk, hk]; exact List.mem_cons_self
    next hk =>
      split at h
      · exact absurd rfl h
      next hlt => rw [if_neg hk, if_neg hlt]; exact List.mem_cons_of_mem _ (ih h)

/-- A live gang of a launch is among its residents. -/
theorem State.mem_residents {s : State} {g : Nat} (hlive : (s.ctx (.gang g)).live = true) : g ∈ s.residents (s.ctx (.gang g)).handle := by
  have hmem := SMap.mem_of_get_ne (d := Ctx.none) (m := s.ctxs) (k := 64 + g) fun h => by
    rw [show s.ctx (.gang g) = Ctx.none from h] at hlive
    exact Bool.false_ne_true hlive
  refine List.mem_map.mpr ⟨_, List.mem_filter.mpr ⟨hmem, ?_⟩, Nat.add_sub_cancel_left ..⟩
  show (decide (64 ≤ 64 + g ∧ (s.ctx (.gang g)).handle = (s.ctx (.gang g)).handle) && (s.ctx (.gang g)).live) = true
  simp [hlive]

theorem State.endAll_ctxs (s : State) (h : Word64) :
    (s.endAll h).ctxs = (((s.residents h).filter fun g => !(s.ctx (.gang g)).saving).foldl State.endGang s).ctxs := by
  have hsaved : ∀ (gs : List Nat) (u : State), (gs.foldl State.dropSaved u).ctxs = u.ctxs := fun gs => by
    induction gs with
    | nil => exact fun _ => rfl
    | cons i gs ih => exact fun u => ih _
  unfold State.endAll State.dropWaiters
  exact hsaved _ _

/-- The end of a launch ends every thread of its gangs, but of those being saved, and empties its bins (R381). -/
theorem State.endAll_ends (s : State) {g : Nat} (hlive : (s.ctx (.gang g)).live = true) (hsave : (s.ctx (.gang g)).saving = false) :
    ((s.endAll (s.ctx (.gang g)).handle).ctx (.gang g)).living = 0 ∧
    ∀ b ∈ (s.endAll (s.ctx (.gang g)).handle).la.bins, b.handle ≠ (s.ctx (.gang g)).handle := by
  refine ⟨?_, fun b hb => ?_⟩
  · have hfold := State.living_foldl_endGang ((s.residents (s.ctx (.gang g)).handle).filter fun g => !(s.ctx (.gang g)).saving) (s := s)
      (.inl (List.mem_filter.mpr ⟨State.mem_residents hlive, by simp [hsave]⟩))
    unfold State.ctx at hfold ⊢
    rw [State.endAll_ctxs]
    exact hfold
  · exact of_decide_eq_true (List.mem_filter.mp hb).2

/-- A launch that ends has no living thread and no bin left once its markers are back (R381). -/
theorem State.switchStep_ends {s : State} {h : Word64} {l : Launch} (hl : s.launch? h = some l)
    (hq : l.quiescing = 2 ∨ (l.quiescing = 1 ∧ (s.popMarkers h).markersOut h = false)) (he : l.ending = true) {g : Nat}
    (hh : (s.ctx (.gang g)).handle = h) (hlive : (s.ctx (.gang g)).live = true) (hsave : (s.ctx (.gang g)).saving = false) :
    ((s.switchStep h).ctx (.gang g)).living = 0 ∧ ∀ b ∈ (s.switchStep h).la.bins, b.handle ≠ h := by
  rcases hq with hq | ⟨hq, hout⟩
  · rw [State.switchStep_quiesced hl hq, State.afterMarkers_ending hl he, ← hh]
    exact State.endAll_ends s hlive hsave
  · have hl2 := State.launch?_modLaunch_same (s := s.popMarkers h) hl (f := fun l => { l with quiescing := 2 }) fun _ => rfl
    rw [State.switchStep_returned hl hq hout, State.afterMarkers_ending hl2 he]
    have hends := State.endAll_ends ((s.popMarkers h).modLaunch h fun l => { l with quiescing := 2 }) (g := g) hlive hsave
    rw [← hh] at hends ⊢
    exact hends

/-- Settles O48, event by event. -/
theorem launchEvents : Obligations.LaunchEvents := by
  unfold Obligations.LaunchEvents
  refine ⟨happens_launchLineWrite_idle, happens_launchLineWrite_pending, happens_launchGoWrite_idle, happens_launchGoWrite_pending,
    happens_launchTake_accepts, happens_launchTake_rejects, happens_predecessorSatisfied_starts, happens_predecessorSatisfied_faults,
    happens_predecessorSatisfied_late, happens_rootDistribute_places, happens_rootDistribute_rootless, happens_rootDistribute_reads,
    happens_launchRetire, State.retire_leaves, fun _ => happens_of_next fun _ _ => rfl, fun _ _ => State.lprioWrite_refused,
    fun _ _ _ => State.lprioWrite_launches, fun _ _ => happens_of_next fun _ hp => if_pos hp,
    fun _ _ => happens_of_next fun _ hp => if_pos hp, fun _ _ => happens_of_next fun _ hp => if_pos hp,
    fun _ _ _ => State.lswitchWrite_refused, fun s col v l hok hl hop => ?accepted, fun _ => happens_of_ret fun _ _ => rfl,
    fun _ _ => State.switchStep_gone, fun _ _ _ => State.switchStep_waits,
    fun _ _ _ hl hq he t ht g hh hlive hsave => ht ▸ State.switchStep_ends hl hq he hh hlive hsave,
    fun _ _ _ => State.switchStep_out, fun _ _ _ => State.switchStep_still, fun o => happens_of_ret fun s hp => ?done,
    happens_watchdogExpire_hung, happens_watchdogExpire_saves, happens_watchdogExpire_ends⟩
  case accepted =>
    obtain ⟨hsys, hswitch⟩ := State.lswitchWrite_notes (col := col) hok hop
    refine ⟨?_, by rw [State.launch?_handle hl]; exact hswitch, fun h1 hq => State.lswitchWrite_out hok hl h1 hq,
      fun h2 => State.lswitchWrite_in hok hl h2, fun h3 he => State.lswitchWrite_end hok hl h3 he⟩
    unfold State.sysGet
    rw [hsys]
    exact State.sysGet_sysPut_same s SysReg.lswitch 0 _
  case done =>
    show execLswitchDonePost s = _
    rw [execLswitchDonePost, hp.1]
    exact if_pos hp.2

end Sys2Proof.Machine
end

section
/-! O32: exit ends the threads of its active lanes and nothing else (05 R131). -/

set_option Elab.async false

namespace Sys2Proof.Machine

/-! ### Holds are only ever dropped when an agent settles -/

/-- No thread is newly held. -/
def Ctx.Frees (x y : Ctx) : Prop :=
  ∀ l, ((x.lane l).heldRcv = false → (y.lane l).heldRcv = false) ∧ ((x.lane l).heldRb = false → (y.lane l).heldRb = false)

namespace Ctx.Frees

theorem refl (x : Ctx) : Ctx.Frees x x := fun _ => ⟨id, id⟩

theorem trans {x y z : Ctx} (h : Ctx.Frees x y) (k : Ctx.Frees y z) : Ctx.Frees x z :=
  fun l => ⟨(k l).1 ∘ (h l).1, (k l).2 ∘ (h l).2⟩

theorem modLane (c : Ctx) (l : Nat) {f : Lane → Lane}
    (hf : ∀ x, (x.heldRcv = false → (f x).heldRcv = false) ∧ (x.heldRb = false → (f x).heldRb = false)) : Ctx.Frees c (c.modLane l f) := by
  intro k
  rw [Ctx.lane_modLane]
  split
  next h => rw [h]; exact hf _
  next => exact ⟨id, id⟩

theorem modLanes (ls : List Nat) {f : Nat → Lane → Lane}
    (hf : ∀ l x, (x.heldRcv = false → (f l x).heldRcv = false) ∧ (x.heldRb = false → (f l x).heldRb = false)) :
    ∀ c : Ctx, Ctx.Frees c (c.modLanes ls f) := by
  induction ls with
  | nil => exact refl
  | cons a r ih => exact fun c => (modLane c a (hf a)).trans (ih _)

theorem of_lanes {x y : Ctx} (h : y.lanes = x.lanes) : Ctx.Frees x y := fun l => by unfold Ctx.lane; rw [h]; exact ⟨id, id⟩

theorem popRcv (c : Ctx) (p : Rcv → Bool) : Ctx.Frees c (c.popRcv p) :=
  (modLanes _ (by exact fun _ _ => ⟨fun _ => rfl, id⟩) c).trans (of_lanes rfl)

theorem releaseRb (c : Ctx) (hdr : Word64) : Ctx.Frees c (c.releaseRb hdr) :=
  (modLanes _ (by exact fun _ _ => ⟨fun _ => rfl, fun _ => rfl⟩) c).trans (of_lanes rfl)

theorem checkRb (c : Ctx) (pend : Nat → Bool) : Ctx.Frees c (c.checkRb pend) := by
  unfold Ctx.checkRb
  dsimp only
  split
  · exact refl c
  · split
    · exact releaseRb c _
    · exact refl c

theorem settle (s : State) (c : CtxId) : Ctx.Frees (s.ctx c) ((s.settle c).ctx c) := by
  unfold State.settle
  split
  · exact refl _
  · rw [State.ctx_modCtx_same]
    exact (popRcv _ _).trans (checkRb _ _)

end Ctx.Frees

/-! ### Ended threads, where no operation failed -/

theorem State.exitsPosted_of_settled {s : State} {c : CtxId} (m : Word64) (h : ∀ l, ((s.ctx c).lane l).fails = []) :
    s.exitsPosted c m = s := by
  have hnone : (s.ctx c).exitFails m = [] := by
    rw [Ctx.exitFails, List.flatMap_eq_nil_iff.mpr fun l _ => h l]
    rfl
  rw [State.exitsPosted, hnone]
  rfl

theorem State.endedLanes_settled {s : State} {c : CtxId} (m : Word64) (h : ∀ l, ((s.ctx c).lane l).fails = []) (l : Nat) :
    (((s.endedLanes c m).ctx c).lane l).fails = [] := by
  rw [State.endedLanes_lane]
  split
  · rfl
  · exact h l

/-- With no failed operation, the end of threads is the threads ended and the agent settled. -/
theorem State.endThreads_of_settled {s : State} {c : CtxId} (m : Word64) (h : ∀ l, ((s.ctx c).lane l).fails = []) :
    s.endThreads c m = ((s.endedLanes c m).settle c).noteTriggers := by
  rw [State.endThreads_eq, State.exitsPosted_of_settled m h, State.parkAtRb_of_settled _ c (State.endedLanes_settled m h)]

theorem State.noteTriggers_ctx (s : State) (k : CtxId) : s.noteTriggers.ctx k = s.ctx k := rfl

theorem State.endThreads_settled {s : State} {c : CtxId} (m : Word64) (h : ∀ l, ((s.ctx c).lane l).fails = []) (l : Nat) :
    (((s.endThreads c m).ctx c).lane l).fails = [] := by
  rw [State.endThreads_of_settled m h, State.noteTriggers_ctx, (StaysAt.settle _ c).fails]
  exact State.endedLanes_settled m h l

theorem State.endedLanes_only (s : State) (c : CtxId) (m : Word64) : OnlyCtx c s (s.endedLanes c m) :=
  (OnlyCtx.modCtx c s _).trans (OnlyCtx.modCtx c _ _)

/-- Ending threads leaves the agent's registers. -/
theorem State.endedLanes_regs (s : State) (c : CtxId) (m : Word64) : Ctx.SameRegs (s.ctx c) ((s.endedLanes c m).ctx c) := by
  have hrest := Ctx.modLanes_rest (s.ctx c) (lanesOf m) fun _ => Lane.ended
  have hctx : (s.endedLanes c m).ctx c = ((s.ctx c).modLanes (lanesOf m) fun _ => Lane.ended).dropSubs := by
    unfold State.endedLanes
    rw [State.ctx_modCtx_same, State.ctx_modCtx_same]
  refine ⟨?_, ?_, ?_, ?_, fun l => ?_⟩
  · rw [hctx]; exact (congrArg Ctx.g hrest :)
  · rw [hctx]; exact (congrArg Ctx.e hrest :)
  · rw [hctx]; exact (congrArg Ctx.fp hrest :)
  · rw [hctx]; exact (congrArg Ctx.wbs hrest :)
  · rw [State.endedLanes_lane]
    split <;> rfl

theorem Ctx.Stays.sameRegs {x y : Ctx} (h : Ctx.Stays x y) : Ctx.SameRegs x y :=
  ⟨(congrArg Ctx.g h.rest :), (congrArg Ctx.e h.rest :), (congrArg Ctx.fp h.rest :), (congrArg Ctx.wbs h.rest :),
    fun l => (congrArg Lane.p (h.lanes l) :)⟩

theorem Ctx.SameRegs.trans {x y z : Ctx} (h : Ctx.SameRegs x y) (k : Ctx.SameRegs y z) : Ctx.SameRegs x z :=
  ⟨k.g.trans h.g, k.e.trans h.e, k.fp.trans h.fp, k.wbs.trans h.wbs, fun l => (k.p l).trans (h.p l)⟩

theorem does_exit_core (t : TWord) : Does (.exit t) (fun is _ => is.ctx.isCC = true) fun is s =>
    s.modCtx is.ctx fun c => { c with run := .halted } :=
  doesBut_of_fails_kept (fun _ => rfl) (fun is s l => State.SameFails.modCtx s is.ctx (f := fun c => { c with run := .halted }) (fun _ _ => rfl) is.ctx l) fun is s _ hcc => by
    rw [if_pos hcc]
    rfl

theorem doesBut_exit_gang (t : TWord) : DoesBut (.exit t) (fun is _ => is.ctx.isCC = false) (fun is s => s.endThreads is.ctx is.act)
    fun is _ => is.act :=
  doesBut_of (fun _ => rfl) fun s r _ _ hm hcc =>
    ⟨⟨false, by rw [if_neg (by simp [hcc])]; rfl⟩, State.endThreads_settled _ hm.settled⟩

/-- What the end of threads does to each thread of a gang with no failed operation. -/
theorem State.endThreads_lanes {s : State} {c : CtxId} (m : Word64) (h : ∀ l, ((s.ctx c).lane l).fails = []) (l : Nat) :
    let d := ((s.endThreads c m).ctx c).lane l
    let y := if l ∈ lanesOf m then ((s.ctx c).lane l).ended else (s.ctx c).lane l
    { d with sub := y.sub, heldRcv := y.heldRcv, heldRb := y.heldRb } = y ∧
    (y.heldRcv = false → d.heldRcv = false) ∧ (y.heldRb = false → d.heldRb = false) := by
  intro d y
  have hy : ((s.endedLanes c m).ctx c).lane l = y := by
    rw [State.endedLanes_lane]
    simp [y]
  have hd : d = (((s.endedLanes c m).settle c).ctx c).lane l := by
    show ((s.endThreads c m).ctx c).lane l = _
    rw [State.endThreads_of_settled m h, State.noteTriggers_ctx]
  have hstays := (StaysAt.settle (s.endedLanes c m) c).stays.lanes l
  have hfrees := Ctx.Frees.settle (s.endedLanes c m) c l
  rw [hy, ← hd] at hstays hfrees
  exact ⟨hstays, hfrees⟩

/-- Settles O32: with no failed operation left, ended threads are the lanes changed, and settling only drops holds. -/
theorem exitEndsThreads : Obligations.ExitEndsThreads := by
  unfold Obligations.ExitEndsThreads
  refine ⟨does_exit_core, doesBut_exit_gang, fun s g m hsettled => ?_⟩
  have honly : OnlyCtx (.gang g) s ((s.endedLanes (.gang g) m).settle (.gang g)) :=
    (State.endedLanes_only s _ m).trans (StaysAt.settle _ _).only
  refine ⟨fun l hl hm => ?_, fun l hl hm => ?_, ?_, fun a => ?_, fun k hk => ?_⟩
  · obtain ⟨hlane, hrcv, hrb⟩ := State.endThreads_lanes m hsettled l
    generalize ((s.endThreads (.gang g) m).ctx (.gang g)).lane l = d at hlane hrcv hrb ⊢
    rw [if_pos (mem_lanesOf.mpr ⟨hl, hm⟩)] at hlane hrcv hrb
    exact ⟨(congrArg Lane.exited hlane :), (congrArg Lane.team hlane :), (congrArg Lane.trig hlane :), hrcv rfl, hrb rfl,
      (congrArg Lane.wait hlane :)⟩
  · obtain ⟨hlane, -⟩ := State.endThreads_lanes m hsettled l
    generalize ((s.endThreads (.gang g) m).ctx (.gang g)).lane l = d at hlane ⊢
    rw [if_neg fun h => by rw [(mem_lanesOf.mp h).2] at hm; cases hm] at hlane
    exact ⟨(congrArg Lane.exited hlane :), (congrArg Lane.team hlane :), (congrArg Lane.hdr hlane :), (congrArg Lane.idx hlane :)⟩
  · rw [State.endThreads_of_settled m hsettled, State.noteTriggers_ctx]
    exact (State.endedLanes_regs s _ m).trans (StaysAt.settle _ _).stays.sameRegs
  · rw [State.endThreads_of_settled m hsettled]
    show (wlogGet ((s.endedLanes (.gang g) m).settle (.gang g)).wlog a).getD (SMap.get 0 ((s.endedLanes (.gang g) m).settle (.gang g)).mem a) = _
    rw [honly.wlog, honly.mem]
    rfl
  · rw [State.endThreads_of_settled m hsettled, State.noteTriggers_ctx]
    exact honly.others k hk

end Sys2Proof.Machine
end

section
/-! O35: regx, trigger and slotq (05 R137, R139; 13 R302; 18 R397, R398). -/

set_option Elab.async false

namespace Sys2Proof.Machine

/-! ### What they leave of failed operations -/

/-- Results landed at once leave the failed operations. -/
theorem State.SameFails.land (s : State) (c : CtxId) (rs : List Res) : s.SameFails (s.land c rs) :=
  ite (modCtx s c fun x l => (congrArg Lane.fails (Ctx.applyRes_lane rs l x) :)) (refl s)

theorem State.SameFails.busySlot (s : State) (c : CtxId) (m : Word64) (k : Ctl) : s.SameFails (s.busySlot c m k) :=
  ite (modCtx s c fun x => Ctx.SameFails.modLanes (lanesOf m) (by exact fun _ _ => rfl) x) (refl s)

theorem State.SameFails.addMark (s : State) (k : Mark) : s.SameFails (s.addMark k) := ite (of_ctxs rfl) (refl s)

theorem State.SameFails.markRelease (s : State) (cache pa n upto : Nat) (sc : Scope) (drift : Bool) :
    s.SameFails (s.markRelease cache pa n upto sc drift) :=
  ite (refl s) (ite ((addMark s _).trans (addMark _ _)) (addMark s _))

theorem State.SameFails.noteTriggers (s : State) : s.SameFails s.noteTriggers := of_ctxs rfl

theorem State.SameFails.putTracker (s : State) (t : Tracker) : s.SameFails (s.putTracker t) := of_ctxs rfl

theorem State.SameFails.startDrain (s : State) (t : Tracker) : s.SameFails (s.startDrain t) := by
  have hinject : s.SameFails (s.injectEntries t (List.range t.pend.length) false) := ite (of_ctxs rfl) (refl s)
  exact (hinject.trans (foldl (fun s _ => send s _) _ _)).trans (putTracker _ _)

theorem State.SameFails.endDrain (s : State) (t : Tracker) : s.SameFails (s.endDrain t) := by
  unfold State.endDrain
  refine ite ?_ (putTracker s t)
  dsimp only
  generalize hclosed : (if t.ends = true then State.dropTracker { s with opId := s.opId + 1 } t else
    State.putTracker { s with opId := s.opId + 1 } { t with
      total := 0, draining := false, drains := t.drains + 1, forced := false, share := if t.forced then 0 else t.share }) = u
  have hu : s.SameFails u := hclosed ▸ ite (of_ctxs rfl) (of_ctxs rfl)
  exact ite (hu.trans (send u _)) (ite (hu.trans (send u _)) hu)

/-- A drain begun by its own tracker. -/
theorem State.SameFails.selfDrain (s : State) (cache region : Nat) : s.SameFails (s.selfDrain cache region) := by
  unfold State.selfDrain
  split
  · refine ite (refl s) ?_
    unfold State.beginDrain
    dsimp only
    split
    · exact (startDrain s _).trans (endDrain _ _)
    · exact startDrain s _
  · exact refl s

theorem State.SameFails.startOwed (s : State) (ts : List Tracker) : s.SameFails (s.startOwed ts) :=
  foldl (fun s (t : Tracker) => selfDrain s t.cache t.region) ts s

/-! ### regx (05 R137) -/

theorem does_regx_core (t : TWord) : Does (.regx t) (fun is _ => is.ctx.isCC = true) fun is s => s.putAll is t.d 1 4 :=
  doesBut_of_fails_kept (fun _ => rfl) (fun is s l => State.SameFails.land s is.ctx _ is.ctx l) fun is s _ hcc => by
    rw [if_pos hcc]
    rfl

/-- A gang's request for a block, its slot busy until the block is granted. -/
theorem does_regx_gang (t : TWord) : Does (.regx t) (fun is _ => is.ctx.isCC = false) fun is s =>
    (s.modCtx is.ctx fun c => { c with
      regx := c.regx ++ [⟨is.act, dstReg? t.d, min 4 (is.src s false t.a is.first), t.c.slot?, decide (t.c.pd ≠ 0)⟩] }).busySlot
        is.ctx is.act t.c :=
  doesBut_of_fails_kept (fun _ => rfl)
    (fun is s l => ((State.SameFails.modCtx s is.ctx (f := fun c => { c with
      regx := c.regx ++ [⟨is.act, dstReg? t.d, min 4 (is.src s false t.a is.first), t.c.slot?, decide (t.c.pd ≠ 0)⟩] })
      fun _ => Ctx.SameFails.of_lanes rfl).trans (State.SameFails.busySlot _ is.ctx is.act t.c)) is.ctx l) fun is s _ hcc => by
    rw [if_neg (by rw [hcc]; exact Bool.false_ne_true)]
    rfl

/-! ### trigger (05 R139; 13 R302) -/

section Trigger
variable (t : TWord) (sc : Scope)

theorem does_trigger_gang : Does (.trigger t sc) (fun is s => s.released is.ctx is.act sc = true ∧ is.ctx.isCC = false) fun is s =>
    ((s.markRelease (s.cacheOf is.ctx) (trigPlace is.c.handle) 1 s.opId sc (!(is.c.lanesOwe is.act).isEmpty)).modCtx is.ctx fun c =>
      c.modLanes (lanesOf is.act) fun _ x => { x with trig := true }).noteTriggers :=
  doesBut_of_fails_kept (lat := 0) (eff := triggerEff sc) (fun _ => rfl)
    (fun is s l => (((State.SameFails.markRelease s _ _ _ _ _ _).trans (State.SameFails.modCtx _ is.ctx fun x =>
      Ctx.SameFails.modLanes (lanesOf is.act) (by exact fun _ _ => rfl) x)).trans (State.SameFails.noteTriggers _)) is.ctx l)
    fun is s _ hp => by
    rw [triggerEff, hp.1, hp.2]
    rfl

theorem does_trigger_core : Does (.trigger t sc) (fun is s => s.released is.ctx is.act sc = true ∧ is.ctx.isCC = true) fun is s =>
    (s.markRelease (s.cacheOf is.ctx) (trigPlace is.c.handle) 1 s.opId sc (!(is.c.lanesOwe is.act).isEmpty)).noteTriggers :=
  doesBut_of_fails_kept (lat := 0) (eff := triggerEff sc) (fun _ => rfl)
    (fun is s l => ((State.SameFails.markRelease s _ _ _ _ _ _).trans (State.SameFails.noteTriggers _)) is.ctx l) fun is s _ hp => by
    rw [triggerEff, hp.1, hp.2]
    rfl

theorem triggerEff_unreleased {is : Issue} {s : State} (h : s.released is.ctx is.act sc = false) :
    triggerEff sc is s = s.drainFirst is is.act sc := by
  rw [triggerEff, h]
  rfl

/-- While every drain it owes is under way, the word waits. -/
theorem waits_trigger : Waits (.trigger t sc) fun is s => s.released is.ctx is.act sc = false ∧
    ∀ d ∈ s.owedAt is.ctx is.act sc, d.draining = true :=
  waits_of (lat := 0) (eff := triggerEff sc) (fun _ => rfl) fun s r _ _ _ ⟨hopen, hdrains⟩ => by
    rw [triggerEff_unreleased sc hopen, State.drainFirst, if_neg]
    intro hany
    obtain ⟨d, hd, hidle⟩ := List.any_eq_true.mp hany
    rw [hdrains d hd] at hidle
    exact Bool.false_ne_true hidle

/-- A drain it owes that is not under way is begun, and the path stays at the word. -/
theorem doesBut_trigger_drains : DoesBut (.trigger t sc)
    (fun is s => s.released is.ctx is.act sc = false ∧ ∃ d ∈ s.owedAt is.ctx is.act sc, d.draining = false)
    (fun is s => s.startOwed (s.owedAt is.ctx is.act sc)) fun is _ => is.path :=
  doesBut_of_fails_kept (lat := 0) (eff := triggerEff sc) (fun _ => rfl)
    (fun is s l => State.SameFails.startOwed s _ is.ctx l) fun is s _ ⟨hopen, d, hd, hidle⟩ => by
    rw [triggerEff_unreleased sc hopen, State.drainFirst,
      if_pos (List.any_eq_true.mpr ⟨d, hd, by rw [hidle]; rfl⟩)]
    rfl

end Trigger

/-! ### slotq (18 R397, R398) -/

theorem does_slotq (q : QWord) (which n : Nat) : Does (.slotq q which n) always fun is s =>
    s.gives is 8 q.d 2 fun _ => s.slotInfo (s.gtime (s.cacheOf is.ctx)).toNat which n % 2 ^ 64 :=
  doesBut_of_fails_kept (fun _ => rfl) (fun is s l => State.SameFails.gives s is 8 q.d 2 _ l) fun _ _ _ _ => rfl

/-- Settles O35, word by word. -/
theorem regxTriggerSlotq : Obligations.RegxTriggerSlotq := by
  unfold Obligations.RegxTriggerSlotq
  exact ⟨does_regx_core, does_regx_gang, does_trigger_gang, does_trigger_core, waits_trigger, doesBut_trigger_drains, does_slotq⟩

end Sys2Proof.Machine
end

section
/-! O33: teams made, freed, joined and left (05 R134-R136). -/

set_option Elab.async false

namespace Sys2Proof.Machine

/-! ### team.new (05 R134) -/

/-- A free number is found where there is one (log 12). -/
theorem State.pickTeam_eq_none {s : State} {col : Nat} (h : s.teamFreeOf col = []) : s.pickTeam col = none := by
  unfold State.pickTeam
  rw [h]

theorem State.exists_pickTeam {s : State} {col : Nat} (h : s.teamFreeOf col ≠ []) : ∃ n, s.pickTeam col = some n := by
  unfold State.pickTeam
  cases hfree : s.teamFreeOf col with
  | nil => exact absurd hfree h
  | cons n ns => exact ⟨_, rfl⟩

theorem State.SameFails.setTeam (s : State) (c : CtxId) (ls : List Nat) (v : Word) : s.SameFails (s.setTeam c ls v) :=
  modCtx s c fun x => Ctx.SameFails.modLanes ls (by exact fun _ _ => rfl) x

section TeamNew
variable (t : TWord)

theorem does_teamNew_full : Does (.teamNew t) (fun is s => s.teamFreeOf (s.colOf is.ctx) = []) fun is s =>
    s.gives is 8 t.d 1 fun _ => 0xFFFFFFFF :=
  doesBut_of_fails_kept (lat := 8) (eff := teamNewEff t) (fun _ => rfl)
    (fun is s l => State.SameFails.gives s is 8 t.d 1 _ l) fun is s _ hfull => by
    unfold teamNewEff
    dsimp only
    rw [State.pickTeam_eq_none hfull]
    rfl

theorem doesAfter_teamNew : DoesAfter (.teamNew t) (fun is s v => ∃ n ∈ s.teamFreeOf (s.colOf is.ctx), s.pickTeam (s.colOf is.ctx) = some n ∧
      (is.ctx.isCC = true ∨ SMap.get 0 s.la.used is.c.core < 32) ∧
      v = (({ s with
        la := { s.la with
          teams := s.la.teams ++ [⟨n, is.c.handle⟩],
          used := if is.ctx.isCC then s.la.used else SMap.modify 0 s.la.used is.c.core (· + 1) },
        freeCtr := s.freeCtr + 1 } : State).setTeam is.ctx (lanesOf is.act) (BitVec.ofNat 32 n)).gives is 8 t.d 1 fun _ => n)
    fun _ _ v => v := by
  intro s r v hr _ hm ha ⟨n, _, hpick, hroom, hv⟩ hstuck
  refine exec_passes (lat := 8) (eff := teamNewEff t) (b := false) rfl hr hm ha ?_ (fun l => ?_) hstuck
  · unfold teamNewEff
    dsimp only
    rw [hpick, hv]
    refine if_neg ?_
    rintro ⟨hgang, hfull⟩
    rcases hroom with hcc | hroom
    · simp [hcc] at hgang
    · omega
  · rw [hv]
    exact ((State.SameFails.gives _ (s.issued r) 8 t.d 1 _ l).trans (State.SameFails.setTeam _ _ _ _ _ l)).trans (hm.settled l)

theorem waits_teamNew : Waits (.teamNew t) fun is s => s.teamFreeOf (s.colOf is.ctx) ≠ [] ∧ is.ctx.isCC = false ∧
    32 ≤ SMap.get 0 s.la.used is.c.core :=
  waits_of (lat := 8) (eff := teamNewEff t) (fun _ => rfl) fun s r _ _ _ ⟨hfree, hgang, hfull⟩ => by
    obtain ⟨n, hpick⟩ := State.exists_pickTeam hfree
    unfold teamNewEff
    dsimp only
    rw [hpick]
    exact if_pos ⟨by simp [hgang], hfull⟩

end TeamNew

/-! ### A lane's source and the live teams, where only agents differ -/

theorem OnlyCtx.teamLive {c : CtxId} {s z : State} (h : OnlyCtx c s z) (k : Word64) (n : Nat) : z.teamLive k n = s.teamLive k n := by
  unfold State.teamLive
  rw [show z.la = s.la from (congrArg State.la h.rest :)]

/-- Sources read the clock and the agent as it was at issue. -/
theorem Issue.src_congr (is : Issue) {s z : State} (hnow : z.now = s.now) (hseen : z.seen = s.seen) (hskew : z.skew = s.skew)
    (wide : Bool) (o : Opd) (l : Nat) : is.src z wide o l = is.src s wide o l := by
  unfold Issue.src State.gtime State.ns
  rw [hnow, hseen, hskew]
  rfl

/-! ### team.free (05 R135) -/

/-- A thread that leaves a team where it is in it. -/
def Lane.leaveTeam (n : Nat) (y : Lane) : Lane := if y.team.toNat = n then { y with team := 0xFFFFFFFF } else y

theorem Lane.leaveTeam_leaveTeam (n : Nat) (y : Lane) : (y.leaveTeam n).leaveTeam n = y.leaveTeam n := by
  unfold Lane.leaveTeam
  by_cases h : y.team.toNat = n
  · rw [if_pos h]; split <;> rfl
  · rw [if_neg h, if_neg h]

theorem Lane.leaveTeam_act (n : Nat) (y : Lane) : (y.leaveTeam n).act = y.act := by unfold Lane.leaveTeam; split <;> rfl

theorem Lane.leaveTeam_fails (n : Nat) (y : Lane) : (y.leaveTeam n).fails = y.fails := by unfold Lane.leaveTeam; split <;> rfl

theorem Lane.leaveTeam_team (n : Nat) (y : Lane) : (y.leaveTeam n).team = if y.team.toNat = n then 0xFFFFFFFF else y.team := by
  unfold Lane.leaveTeam; split <;> rfl

/-- Threads changed by something that changes them once: however often a lane is listed. -/
theorem Ctx.lane_modLanes_idem {f : Nat → Lane → Lane} (hf : ∀ l x, f l (f l x) = f l x) (ls : List Nat) (k : Nat) :
    ∀ c : Ctx, (c.modLanes ls f).lane k = if k ∈ ls then f k (c.lane k) else c.lane k := by
  induction ls with
  | nil => exact fun _ => rfl
  | cons a ls ih =>
    intro c
    refine (ih (c.modLane a (f a))).trans ?_
    rw [Ctx.lane_modLane]
    by_cases ha : k = a
    · subst ha
      simp [hf]
    · simp [ha]

/-- An agent of the launch whose threads leave a team. -/
def Ctx.leaveTeam (h : Word64) (n : Nat) (c : Ctx) : Ctx :=
  if c.handle ≠ h then c else c.modLanes (SMap.keys c.lanes) fun _ => Lane.leaveTeam n

theorem Ctx.leaveTeam_of_ne {h : Word64} {c : Ctx} (n : Nat) (hne : c.handle ≠ h) : c.leaveTeam h n = c := if_pos hne

theorem Ctx.leaveTeam_handle (h : Word64) (n : Nat) (c : Ctx) : (c.leaveTeam h n).handle = c.handle := by
  unfold Ctx.leaveTeam
  split
  · rfl
  · exact (congrArg Ctx.handle (Ctx.modLanes_rest c _ fun _ => Lane.leaveTeam n) :)

/-- An active thread is listed. -/
theorem Ctx.mem_keys_of_act {c : Ctx} {l : Nat} (h : (c.lane l).act = true) : l ∈ SMap.keys c.lanes :=
  List.mem_map.mpr ⟨_, SMap.mem_of_get_ne (d := Lane.none) fun e => by
    rw [show c.lane l = Lane.none from e] at h
    exact Bool.false_ne_true h, rfl⟩

theorem Ctx.leaveTeam_lane {c : Ctx} {l : Nat} (n : Nat) (h : (c.lane l).act = true) :
    (c.leaveTeam c.handle n).lane l = (c.lane l).leaveTeam n := by
  unfold Ctx.leaveTeam
  rw [if_neg (fun hne => hne rfl), Ctx.lane_modLanes_idem (fun _ x => Lane.leaveTeam_leaveTeam n x), if_pos (Ctx.mem_keys_of_act h)]

theorem Ctx.SameFails.leaveTeam (h : Word64) (n : Nat) (c : Ctx) : Ctx.SameFails c (c.leaveTeam h n) := by
  unfold Ctx.leaveTeam
  split
  · exact fun _ => rfl
  · exact Ctx.SameFails.modLanes _ (fun _ x => Lane.leaveTeam_fails n x) c

/-- Agents of these keys whose threads leave a team. -/
def State.leaveTeam (s : State) (h : Word64) (n : Nat) (ks : List Nat) : State :=
  ks.foldl (fun s k => s.modCtx (ctxOfKey k) (Ctx.leaveTeam h n)) s

theorem ctxKey_ctxOfKey (k : Nat) : ctxKey (ctxOfKey k) = k := by
  unfold ctxOfKey
  split
  · rfl
  · show 64 + (k - 64) = k; omega

theorem State.ctx_congr (s : State) {c k : CtxId} (h : ctxKey c = ctxKey k) : s.ctx c = s.ctx k := by unfold State.ctx; rw [h]

theorem State.leaveTeam_of_ne (h : Word64) (n : Nat) (c : CtxId) (ks : List Nat) :
    ∀ {s : State}, (s.ctx c).handle ≠ h → (s.leaveTeam h n ks).ctx c = s.ctx c := by
  induction ks with
  | nil => exact fun _ => rfl
  | cons k ks ih =>
    intro s hne
    have hstep : (s.modCtx (ctxOfKey k) (Ctx.leaveTeam h n)).ctx c = s.ctx c := by
      by_cases hk : ctxKey c = ctxKey (ctxOfKey k)
      · rw [State.ctx_congr _ hk, State.ctx_modCtx_same, ← State.ctx_congr s hk, Ctx.leaveTeam_of_ne n hne]
      · exact State.ctx_modCtx_ne s _ hk
    exact (ih (hstep ▸ hne)).trans hstep

/-- An active thread of a listed agent of the launch has left the team. -/
theorem State.leaveTeam_lane (h : Word64) (n : Nat) (c : CtxId) (l : Nat) (y : Lane) (ks : List Nat) : ∀ {s : State},
    (s.ctx c).handle = h → ((s.ctx c).lane l).act = true → ((s.ctx c).lane l).leaveTeam n = y →
    (ctxKey c ∈ ks ∨ (s.ctx c).lane l = y) → ((s.leaveTeam h n ks).ctx c).lane l = y := by
  induction ks with
  | nil => exact fun _ _ _ hdone => hdone.resolve_left List.not_mem_nil
  | cons k ks ih =>
    intro s hh ha hy hdone
    have hy2 : y.leaveTeam n = y := by rw [← hy, Lane.leaveTeam_leaveTeam]
    show (((s.modCtx (ctxOfKey k) (Ctx.leaveTeam h n)).leaveTeam h n ks).ctx c).lane l = y
    by_cases hk : ctxKey c = ctxKey (ctxOfKey k)
    · have hctx : (s.modCtx (ctxOfKey k) (Ctx.leaveTeam h n)).ctx c = (s.ctx c).leaveTeam h n := by
        rw [State.ctx_congr _ hk, State.ctx_modCtx_same, ← State.ctx_congr s hk]
      have hlane : ((s.modCtx (ctxOfKey k) (Ctx.leaveTeam h n)).ctx c).lane l = y := by
        rw [hctx, ← hh, Ctx.leaveTeam_lane n ha, hy]
      refine ih ?_ ?_ ?_ (.inr hlane)
      · rw [hctx, Ctx.leaveTeam_handle, hh]
      · rw [hlane, ← hy, Lane.leaveTeam_act, ha]
      · rw [hlane, hy2]
    · have hctx : (s.modCtx (ctxOfKey k) (Ctx.leaveTeam h n)).ctx c = s.ctx c := State.ctx_modCtx_ne s _ hk
      refine ih ?_ ?_ ?_ ?_
      · rw [hctx, hh]
      · rw [hctx, ha]
      · rw [hctx, hy]
      · rw [hctx]
        refine hdone.imp (fun hmem => (List.mem_cons.mp hmem).resolve_left fun e => hk ?_) id
        rw [ctxKey_ctxOfKey, e]

theorem State.leaveTeam_only (h : Word64) (n : Nat) (ks : List Nat) :
    ∀ s : State, { s.leaveTeam h n ks with ctxs := s.ctxs } = s := by
  induction ks with
  | nil => exact fun _ => rfl
  | cons k ks ih =>
    exact fun s => congrArg (fun u : State => { u with ctxs := s.ctxs }) (ih (s.modCtx (ctxOfKey k) (Ctx.leaveTeam h n)))

theorem State.OnlyMemory.frameTeams (s : State) (h : Word64) (n : Nat) : s.OnlyMemory (s.frameTeams h n) :=
  foldl (fun s _ => foldl (fun s _ => ite (homeWrite s _ _) (refl s)) _ s) _ s

/-- The state in which a team's number is free again, but for the frames of saved gangs. -/
def State.teamDropped (s : State) (h : Word64) (n : Nat) : State :=
  let s1 := s.leaveTeam h n (SMap.keys s.ctxs)
  { s1 with la := { s1.la with teams := s1.la.teams.filter fun t => t.num ≠ n } }

theorem State.freeTeam_eq (s : State) (h : Word64) (n : Nat) : s.freeTeam h n = (s.teamDropped h n).frameTeams h n := rfl

theorem State.freeTeam_ctx (s : State) (h : Word64) (n : Nat) (c : CtxId) :
    (s.freeTeam h n).ctx c = (s.leaveTeam h n (SMap.keys s.ctxs)).ctx c := by
  unfold State.ctx
  rw [State.freeTeam_eq, (State.OnlyMemory.frameTeams _ h n).ctxs]
  rfl

theorem State.freeTeam_teams (s : State) (h : Word64) (n : Nat) : (s.freeTeam h n).la.teams = s.la.teams.filter fun t => t.num ≠ n := by
  rw [State.freeTeam_eq, (State.OnlyMemory.frameTeams _ h n).la]
  show ((s.leaveTeam h n (SMap.keys s.ctxs)).la.teams.filter _) = _
  rw [show (s.leaveTeam h n (SMap.keys s.ctxs)).la = s.la from (congrArg State.la (State.leaveTeam_only h n (SMap.keys s.ctxs) s) :)]

/-- Freeing a team leaves the clock as it was. -/
theorem State.freeTeam_clock (s : State) (h : Word64) (n : Nat) :
    (s.freeTeam h n).now = s.now ∧ (s.freeTeam h n).seen = s.seen ∧ (s.freeTeam h n).skew = s.skew := by
  have hframes := State.OnlyMemory.frameTeams (s.teamDropped h n) h n
  have hleave := State.leaveTeam_only h n (SMap.keys s.ctxs) s
  rw [State.freeTeam_eq]
  exact ⟨hframes.now.trans (congrArg State.now hleave :), (congrArg State.seen hframes :).trans (congrArg State.seen hleave :),
    (congrArg State.skew hframes :).trans (congrArg State.skew hleave :)⟩

theorem State.teamLive_freeTeam (s : State) (h : Word64) (n m : Nat) :
    (s.freeTeam h n).teamLive h m = (s.teamLive h m && decide (m ≠ n)) := by
  unfold State.teamLive
  rw [State.freeTeam_teams, List.any_filter]
  by_cases hm : m = n
  · subst hm
    rw [List.any_eq_false.mpr fun t _ => by simp; tauto]
    simp
  · rw [decide_eq_true hm, Bool.and_true]
    refine congrArg (fun p => List.any s.la.teams p) (funext fun t => ?_)
    by_cases ht : t.num = m
    · simp [ht, hm]
    · simp [ht]

theorem State.SameFails.freeTeam (s : State) (h : Word64) (n : Nat) : s.SameFails (s.freeTeam h n) := by
  have hleave : s.SameFails (s.leaveTeam h n (SMap.keys s.ctxs)) :=
    foldl (fun s k => modCtx s (ctxOfKey k) (Ctx.SameFails.leaveTeam h n)) _ s
  exact fun c l => by rw [State.freeTeam_ctx]; exact hleave c l

theorem State.freeTeam_lane {s : State} {h : Word64} {c : CtxId} {l : Nat} (n : Nat) (hlive : (s.ctx c).live = true)
    (hh : (s.ctx c).handle = h) (ha : ((s.ctx c).lane l).act = true) :
    (((s.freeTeam h n).ctx c).lane l).team =
      if ((s.ctx c).lane l).team.toNat = n then 0xFFFFFFFF else ((s.ctx c).lane l).team := by
  have hkey : ctxKey c ∈ SMap.keys s.ctxs := List.mem_map.mpr ⟨_, SMap.mem_of_get_ne (d := Ctx.none) fun e => by
    rw [show s.ctx c = Ctx.none from e] at hlive
    exact Bool.false_ne_true hlive, rfl⟩
  rw [State.freeTeam_ctx, State.leaveTeam_lane h n c l _ (SMap.keys s.ctxs) hh ha rfl (.inl hkey), Lane.leaveTeam_team]

/-- The lanes of team.free, each against the teams that the lanes before it left. -/
def State.freeTeams (is : Issue) (o : Opd) (s : State) (ls : List Nat) (z : State) : State :=
  ls.foldl (fun (z : State) l =>
    if z.teamLive is.c.handle (is.src s false o l) then z.freeTeam is.c.handle (is.src s false o l) else z) z

/-- The lanes of team.free read their sources as at issue. -/
theorem State.freeTeams_eq (is : Issue) (o : Opd) (s : State) (ls : List Nat) : ∀ {z : State},
    z.now = s.now → z.seen = s.seen → z.skew = s.skew →
    (ls.foldl (fun (z : State) l =>
      if z.teamLive is.c.handle (is.src z false o l) then z.freeTeam is.c.handle (is.src z false o l) else z) z) =
    s.freeTeams is o ls z := by
  induction ls with
  | nil => exact fun _ _ _ => rfl
  | cons l ls ih =>
    intro z hnow hseen hskew
    unfold State.freeTeams
    rw [List.foldl_cons, List.foldl_cons, is.src_congr hnow hseen hskew]
    obtain ⟨fnow, fseen, fskew⟩ := z.freeTeam_clock is.c.handle (is.src s false o l)
    split
    · exact ih (fnow.trans hnow) (fseen.trans hseen) (fskew.trans hskew)
    · exact ih hnow hseen hskew

theorem State.SameFails.freeTeams (is : Issue) (o : Opd) (s : State) (ls : List Nat) (z : State) :
    z.SameFails (s.freeTeams is o ls z) := foldl (fun z _ => ite (freeTeam z _ _) (refl z)) ls z

theorem does_teamFree (t : TWord) : Does (.teamFree t) always fun is s => (lanesOf is.act).foldl (fun (z : State) l =>
    if z.teamLive is.c.handle (is.src s false t.a l) then z.freeTeam is.c.handle (is.src s false t.a l) else z) s :=
  doesBut_of_fails_kept (fun _ => rfl) (fun is s l => State.SameFails.freeTeams is t.a s (lanesOf is.act) s is.ctx l)
    fun is s _ _ => congrArg (fun u => some (Done.next u)) (State.freeTeams_eq is t.a s (lanesOf is.act) rfl rfl rfl)

/-- Numbers that name no live team of the launch change nothing. -/
theorem State.freeTeams_none {is : Issue} {o : Opd} {s : State} {ls : List Nat}
    (h : ∀ l ∈ ls, s.teamLive is.c.handle (is.src s false o l) = false) : s.freeTeams is o ls s = s := by
  induction ls with
  | nil => rfl
  | cons l ls ih =>
    unfold State.freeTeams
    rw [List.foldl_cons, if_neg (by rw [h l List.mem_cons_self]; exact Bool.false_ne_true)]
    exact ih fun k hk => h k (List.mem_cons_of_mem l hk)

theorem does_teamFree_none (t : TWord) :
    Does (.teamFree t) (fun is s => ∀ l ∈ lanesOf is.act, s.teamLive is.c.handle (is.src s false t.a l) = false) fun _ s => s := by
  intro s r hr hw hm ha hp hstuck
  have hdoes := does_teamFree t s r hr hw hm ha trivial
  have hsame : (lanesOf (s.issued r).act).foldl (fun (z : State) l =>
      if z.teamLive (s.issued r).c.handle ((s.issued r).src s false t.a l)
      then z.freeTeam (s.issued r).c.handle ((s.issued r).src s false t.a l) else z) s = s := State.freeTeams_none hp
  dsimp only at hdoes
  rw [hsame] at hdoes
  exact hdoes hstuck

/-! ### join and leave (05 R136) -/

/-- The team a lane joins: the live one it names, or none. -/
def Issue.joined (is : Issue) (s : State) (o : Opd) (l : Nat) : Word :=
  if s.teamLive is.c.handle (is.src s false o l) then BitVec.ofNat 32 (is.src s false o l) else 0xFFFFFFFF

/-- Lanes that join one after another: the agent as if they joined at once, and nothing else differs. -/
theorem State.foldl_join (is : Issue) (o : Opd) (s : State) (ls : List Nat) : ∀ {z : State}, OnlyCtx is.ctx s z →
    OnlyCtx is.ctx s (ls.foldl (fun z l => z.setTeam is.ctx [l] (is.joined z o l)) z) ∧
    (ls.foldl (fun z l => z.setTeam is.ctx [l] (is.joined z o l)) z).ctx is.ctx =
      (z.ctx is.ctx).modLanes ls fun l x => { x with team := is.joined s o l } := by
  induction ls with
  | nil => exact fun h => ⟨h, rfl⟩
  | cons l ls ih =>
    intro z h
    have hjoined : is.joined z o l = is.joined s o l := by
      have hsrc := is.src_congr (s := s) (z := z) (congrArg State.now h.rest :) (congrArg State.seen h.rest :)
        (congrArg State.skew h.rest :) false o l
      unfold Issue.joined
      rw [h.teamLive, hsrc]
    obtain ⟨honly, hctx⟩ := ih (z := z.setTeam is.ctx [l] (is.joined z o l)) (h.trans (OnlyCtx.modCtx is.ctx z _))
    rw [List.foldl_cons]
    refine ⟨honly, hctx.trans ?_⟩
    rw [State.setTeam, State.ctx_modCtx_same, hjoined]
    rfl

/-- What holds after one of two states that differ from a third only in one agent, and give that agent the same contents, holds after
the other. -/
theorem Passes.of_same_agent {s u v t : State} {is : Issue} {stay : Word64} (h : Passes u t is stay) (hu : OnlyCtx is.ctx s u)
    (hv : OnlyCtx is.ctx s v) (hctx : u.ctx is.ctx = v.ctx is.ctx) : Passes v t is stay := by
  obtain ⟨honly, hkept, hregs, hmoved⟩ := h
  refine ⟨⟨?_, fun k hk => ?_⟩, hctx ▸ hkept, hctx ▸ hregs, fun l hl => ?_⟩
  · have hswap := fun {x y : State} (h : x = y) => congrArg (fun w : State => { w with ctxs := v.ctxs }) h
    exact (hswap honly.rest).trans ((hswap hu.rest).trans (hswap hv.rest).symm)
  · rw [honly.others k hk, hu.others k hk, hv.others k hk]
  · rw [← hctx]
    exact hmoved l hl

theorem does_join (t : TWord) : Does (.join t) always fun is s => s.modCtx is.ctx fun c => c.modLanes (lanesOf is.act) fun l x =>
    { x with team := if s.teamLive is.c.handle (is.src s false t.a l) then BitVec.ofNat 32 (is.src s false t.a l) else 0xFFFFFFFF } := by
  intro s r hr _ hm ha _ hstuck
  obtain ⟨honly, hctx⟩ := State.foldl_join (s.issued r) t.a s (lanesOf (s.issued r).act) (OnlyCtx.refl _ s)
  generalize hu : ((lanesOf (s.issued r).act).foldl
    (fun z l => z.setTeam (s.issued r).ctx [l] ((s.issued r).joined z t.a l)) s) = u at honly hctx
  have hfails : ∀ l, ((u.ctx (s.issued r).ctx).lane l).fails = [] := fun l => by
    rw [hctx]
    exact (Ctx.SameFails.modLanes _ (f := fun l x => { x with team := (s.issued r).joined s t.a l }) (fun _ _ => rfl) _ l).trans
      (hm.settled l)
  have hexec : ∀ s, exec (.join t) s = issueWith (.join t) 0 (fun is s => some (.next ((lanesOf is.act).foldl
      (fun z l => z.setTeam is.ctx [l] (is.joined z t.a l)) s))) s := fun _ => rfl
  obtain ⟨v, hv, hpass⟩ := exec_passes (b := false) (u := u) (m := 0) (hexec s) hr hm ha
    (congrArg (fun u => some (Done.next u)) hu) hfails (honly.stuck.trans hstuck)
  refine ⟨v, hv, hpass.of_same_agent honly (OnlyCtx.modCtx _ s _) ?_⟩
  rw [hctx, State.ctx_modCtx_same]
  rfl

theorem does_leave (t : TWord) : Does (.leave t) always fun is s => s.setTeam is.ctx (lanesOf is.act) 0xFFFFFFFF :=
  doesBut_of_fails_kept (fun _ => rfl) (fun is s l => State.SameFails.setTeam s is.ctx _ _ is.ctx l) fun _ _ _ _ => rfl

/-- Settles O33, word by word. -/
theorem teams : Obligations.Teams := by
  unfold Obligations.Teams
  exact ⟨does_teamNew_full, doesAfter_teamNew, waits_teamNew, does_teamFree_none, does_teamFree,
    fun s h n => ⟨s.teamLive_freeTeam h n, fun _ _ => State.freeTeam_lane n, fun c hne => by
      rw [State.freeTeam_ctx, State.leaveTeam_of_ne h n c _ hne]⟩,
    does_join, does_leave⟩

end Sys2Proof.Machine
end

section
/-! O44: plain registers written at supervisor level (19 R399-R402). -/

set_option Elab.async false

namespace Sys2Proof.Machine

/-! ### Copies of registers -/

/-- Each copy of a register has its own place. -/
theorem sysKey_inj {r i r' i' : Nat} (hi : i < 2 ^ 20) (hi' : i' < 2 ^ 20) (h : sysKey r i = sysKey r' i') : r = r' ∧ i = i' := by
  unfold sysKey at h
  omega

theorem State.sysGet_sysPut_of_ne (s : State) {r i r' i' : Nat} (v : Word64) (hi : i < 2 ^ 20) (hi' : i' < 2 ^ 20)
    (h : r' ≠ r ∨ i' ≠ i) : (s.sysPut r i v).sysGet r' i' = s.sysGet r' i' :=
  State.sysGet_sysPut_ne s v fun e => by
    obtain ⟨hr, hi⟩ := sysKey_inj hi' hi e
    exact h.elim (fun hne => hne hr) fun hne => hne hi

/-- The registers whose write is a mask and nothing else, and that no other register's read depends on but for the error logs. -/
def plainRegs : List Nat :=
  [SysReg.cstat, SysReg.svec, SysReg.uepc, SysReg.uepw, SysReg.lease, SysReg.bintmo, SysReg.lattol, SysReg.quiet, SysReg.ptroot,
   SysReg.pod, SysReg.pbtab, SysReg.errsel]

theorem field_lt (v : Word64) (hi lo : Nat) : field v hi lo < 2 ^ (hi + 1 - lo) := Nat.mod_lt _ (by positivity)

theorem ringInst_lt (s : State) : ringInst s.ringDie s.ringFibre s.ringNum < 2 ^ 20 := by
  have hdie := field_lt (s.sysGet SysReg.ringsel 0) 15 14
  have hfibre := field_lt (s.sysGet SysReg.ringsel 0) 13 10
  have hnum := field_lt (s.sysGet SysReg.ringsel 0) 4 0
  unfold ringInst State.ringDie State.ringFibre State.ringNum
  omega

theorem errInst_lt {s : State} {i : Nat} (h : s.errInst = some i) : i < 2 ^ 20 := by
  have hcol := field_lt (s.sysGet SysReg.errsel 0) 11 6
  have hcore := field_lt (s.sysGet SysReg.errsel 0) 5 4
  have harr := field_lt (s.sysGet SysReg.errsel 0) 3 0
  unfold State.errInst at h
  dsimp only at h
  split at h
  · cases h
  · cases h
    split <;> omega

/-- An error log reads the copy that sys.errsel selects. -/
theorem State.readSys_errlog {r : Nat} (s : State) (c free : Nat) (h : r = SysReg.errlog0 ∨ r = SysReg.errlog1) :
    s.readSys r c free = (s.errInst.map (s.sysGet r)).getD 0 := by
  have hmap : ∀ o : Option Nat, (o.map (s.sysGet r)).getD 0 = match o with
      | some i => s.sysGet r i
      | none => 0 := fun o => by cases o <;> rfl
  rw [hmap]
  rcases h with rfl | rfl <;> rfl

/-! ### What the reads of other registers see -/

section Plain
variable {reg inst : Nat} (hreg : reg ∈ plainRegs) (hinst : inst < 2 ^ 20) (s : State) (v : Word64)
include hreg hinst

/-- A register that is not plain keeps its value. -/
theorem State.sysGet_plain {r i : Nat} (hr : r ∉ plainRegs) (hi : i < 2 ^ 20) : (s.sysPut reg inst v).sysGet r i = s.sysGet r i :=
  s.sysGet_sysPut_of_ne v hinst hi (.inl fun e => hr (e ▸ hreg))

theorem State.evqIdx_plain : (s.sysPut reg inst v).evqIdx = s.evqIdx := by
  unfold State.evqIdx
  rw [State.sysGet_plain hreg hinst s v (by decide) (by decide)]

theorem State.ringNum_plain : (s.sysPut reg inst v).ringNum = s.ringNum := by
  unfold State.ringNum
  rw [State.sysGet_plain hreg hinst s v (by decide) (by decide)]

theorem State.ringDie_plain : (s.sysPut reg inst v).ringDie = s.ringDie := by
  unfold State.ringDie
  rw [State.sysGet_plain hreg hinst s v (by decide) (by decide)]

theorem State.ringFibre_plain : (s.sysPut reg inst v).ringFibre = s.ringFibre := by
  unfold State.ringFibre
  rw [State.sysGet_plain hreg hinst s v (by decide) (by decide)]

theorem State.ringOf_plain : (s.sysPut reg inst v).ringOf s.ringDie s.ringFibre s.ringNum = s.ringOf s.ringDie s.ringFibre s.ringNum := by
  unfold State.ringOf
  rw [State.sysGet_plain hreg hinst s v (by decide) (ringInst_lt s)]

theorem State.drentWord_plain (n : Nat) : (s.sysPut reg inst v).drentWord n = s.drentWord n := by
  have hidx : (s.sysPut reg inst v).driftIdx = s.driftIdx := by
    unfold State.driftIdx
    rw [State.sysGet_plain hreg hinst s v (by decide) (by decide)]
  unfold State.drentWord
  rw [hidx]
  rfl

/-- The shape of a core is read from its own register and its binding. -/
theorem State.ashapeRead_plain {core : Nat} (hc : core < 2 ^ 20) : (s.sysPut reg inst v).ashapeRead core = s.ashapeRead core := by
  have hnow : (s.sysPut reg inst v).shapeNow core = s.shapeNow core := by
    unfold State.shapeNow
    rw [State.sysGet_plain hreg hinst s v (by decide) hc]
  unfold State.ashapeRead State.shapeRead
  rw [State.sysGet_plain hreg hinst s v (by decide) hc, hnow]
  rfl

theorem State.coresOf_plain {col : Nat} (hcol : col < 64) : (s.sysPut reg inst v).coresOf col = s.coresOf col := by
  unfold State.coresOf
  refine List.filter_congr fun k hk => ?_
  obtain ⟨i, hi, rfl⟩ := List.mem_map.mp hk
  have hi := List.mem_range.mp hi
  unfold State.corePresent
  rw [State.sysGet_plain hreg hinst s v (by decide) (by omega)]

theorem State.ashapeOf_plain {col : Nat} (hcol : col < 64) : (s.sysPut reg inst v).ashapeOf col = s.ashapeOf col := by
  unfold State.ashapeOf
  rw [State.coresOf_plain hreg hinst s v hcol]
  split
  next k hk =>
    obtain ⟨i, hi, rfl⟩ := List.mem_map.mp (List.mem_filter.mp (List.mem_of_head? hk)).1
    have hi := List.mem_range.mp hi
    exact State.ashapeRead_plain hreg hinst s v (by omega)
  next => rfl

/-- The slots of the calendar are read from its own registers. -/
theorem State.retuning_plain (die : Nat) : (s.sysPut reg inst v).retuning die = s.retuning die := by
  have hper : (s.sysPut reg inst v).slotPer = s.slotPer := by
    unfold State.slotPer
    rw [State.sysGet_plain hreg hinst s v (by decide) (by decide)]
  have hevery : (s.sysPut reg inst v).longEvery = s.longEvery := by
    unfold State.longEvery
    rw [State.sysGet_plain hreg hinst s v (by decide) (by decide)]
  have hlong : (s.sysPut reg inst v).longLen = s.longLen := by
    unfold State.longLen
    rw [State.sysGet_plain hreg hinst s v (by decide) (by decide)]
  have hshort : (s.sysPut reg inst v).shortLen = s.shortLen := by
    unfold State.shortLen
    rw [State.sysGet_plain hreg hinst s v (by decide) (by decide)]
  have hstart : ∀ k, (s.sysPut reg inst v).slotStart k = s.slotStart k := fun k => by
    unfold State.slotStart
    rw [hper]
    rfl
  have hislong : ∀ k, (s.sysPut reg inst v).slotLong k = s.slotLong k := fun k => by
    unfold State.slotLong
    rw [hevery]
  have hend : ∀ k, (s.sysPut reg inst v).slotEndAt k = s.slotEndAt k := fun k => by
    unfold State.slotEndAt State.slotNominal
    rw [hstart, hislong, hlong, hshort]
    rfl
  have hmask : ∀ k, (s.sysPut reg inst v).slotMask k = s.slotMask k := fun k => by
    unfold State.slotMask
    rw [hislong, hevery]
  have hby : (s.sysPut reg inst v).slotBy (s.dieTime die) 0 = s.slotBy (s.dieTime die) 0 := by
    unfold State.slotBy
    simp only [hper, hstart, hend]
    rfl
  unfold State.retuning
  rw [show (s.sysPut reg inst v).dieTime die = s.dieTime die from rfl, hby]
  split
  next k _ => rw [hmask]
  next => rfl

theorem State.readRingmon_plain : (s.sysPut reg inst v).readRingmon = s.readRingmon := by
  unfold State.readRingmon
  simp only [State.ringDie_plain hreg hinst, State.ringFibre_plain hreg hinst, State.ringNum_plain hreg hinst,
    State.retuning_plain hreg hinst]
  rfl

/-- Every other register reads as before, but for the error logs where the write selects among them. -/
theorem State.readSys_plain {r c : Nat} (free : Nat) (hc : c < 64) (hr : r ≠ reg)
    (herr : reg = SysReg.errsel → r ≠ SysReg.errlog0 ∧ r ≠ SysReg.errlog1) :
    (s.sysPut reg inst v).readSys r c free = s.readSys r c free := by
  have hown : ∀ i, i < 2 ^ 20 → (s.sysPut reg inst v).sysGet r i = s.sysGet r i :=
    fun i hi => s.sysGet_sysPut_of_ne v hinst hi (.inl hr)
  by_cases hlog : r = SysReg.errlog0 ∨ r = SysReg.errlog1
  · have hsel : (s.sysPut reg inst v).errInst = s.errInst := by
      unfold State.errInst
      rw [s.sysGet_sysPut_of_ne v hinst (by decide) (.inl fun e => ?_)]
      exact hlog.elim (herr e.symm).1 (herr e.symm).2
    rw [State.readSys_errlog _ c free hlog, State.readSys_errlog _ c free hlog, hsel]
    cases hi : s.errInst with
    | none => rfl
    | some i => exact hown i (errInst_lt hi)
  · unfold State.readSys
    simp only [if_neg hlog, hown c (by omega), hown 0 (by decide), hown s.evqIdx ((field_lt _ _ _).trans (by decide)),
      hown _ (ringInst_lt s), State.drentWord_plain hreg hinst, State.ashapeOf_plain hreg hinst s v hc,
      State.evqIdx_plain hreg hinst, State.ringDie_plain hreg hinst, State.ringFibre_plain hreg hinst,
      State.ringNum_plain hreg hinst, State.ringOf_plain hreg hinst, State.readRingmon_plain hreg hinst]
    rfl

end Plain

/-! ### Plain registers -/

/-- A plain register: its write puts its writable bits, and its read gives them, in its own column where it is a column's (R399). -/
structure PlainRegister (reg : Nat) (mask : Word64) (mine : Bool) : Prop where
  mem : reg ∈ plainRegs
  write : ∀ (s : State) col v, s.writeReg reg col v = s.sysPut reg (if mine then col else 0) (v &&& mask)
  read : ∀ (s : State) c free, s.readSys reg c free = s.sysGet reg (if mine then c else 0)

theorem PlainRegister.readsBack {reg : Nat} {mask : Word64} {mine : Bool} (h : PlainRegister reg mask mine) (s : State) (col : Nat) (v : Word64)
    (hcol : col < 64) :
    let t := s.writeReg reg col v
    (∀ c, c < 64 → (mine = true → c = col) → t.readSys reg c 0 = v &&& mask) ∧
    (∀ r i, i < 2 ^ 20 → (r ≠ reg ∨ i ≠ if mine then col else 0) → t.sysGet r i = s.sysGet r i) ∧ { t with sys := s.sys } = s ∧
    (∀ r c free, c < 64 → (r ≠ reg ∨ (mine = true ∧ c ≠ col)) →
      (reg = SysReg.errsel → r ≠ SysReg.errlog0 ∧ r ≠ SysReg.errlog1) → t.readSys r c free = s.readSys r c free) := by
  have hinst : (if mine then col else 0) < 2 ^ 20 := by split <;> omega
  rw [h.write]
  refine ⟨fun c hc hmine => ?_, fun r i hi hne => s.sysGet_sysPut_of_ne _ hinst hi hne, rfl, fun r c free hc hne herr => ?_⟩
  · have hc : (if mine then c else 0) = if mine then col else 0 := by
      split
      next hm => exact hmine hm
      next => rfl
    rw [h.read, hc, State.sysGet_sysPut_same]
  · by_cases hr : r = reg
    · obtain ⟨hmine, hc2⟩ := hne.resolve_left fun hne => hne hr
      subst hr
      rw [h.read, h.read, s.sysGet_sysPut_of_ne _ hinst (by split <;> omega) (.inr (by rw [if_pos hmine, if_pos hmine]; exact hc2))]
    · exact State.readSys_plain h.mem hinst s _ free hc hr herr

/-- Settles O44: each of the registers is plain, and a plain register's place is its own. -/
theorem registersReadBack : Obligations.RegistersReadBack := by
  unfold Obligations.RegistersReadBack
  refine ⟨PlainRegister.readsBack ?cstat, PlainRegister.readsBack ?svec, PlainRegister.readsBack ?uepc, PlainRegister.readsBack ?uepw,
    PlainRegister.readsBack ?lease, PlainRegister.readsBack ?bintmo, PlainRegister.readsBack ?lattol, PlainRegister.readsBack ?quiet,
    PlainRegister.readsBack ?ptroot, PlainRegister.readsBack ?pod, PlainRegister.readsBack ?pbtab, PlainRegister.readsBack ?errsel⟩
  all_goals exact ⟨by decide, fun _ _ _ => rfl, fun _ _ _ => rfl⟩

end Sys2Proof.Machine
end

section
/-! O34: spawn and spawn.home place a child of every active lane (05 R132, R133; 17 R370). -/

set_option Elab.async false

namespace Sys2Proof.Machine

/-! ### Where a child goes (05 R124, R126) -/

section Place
variable {s u : State} {core : Nat} {h hdr : Word64} {x : Seed}

/-- A seed in a bin leaves the agents and the launches. -/
theorem State.toBin_keeps (hbin : s.toBin core h hdr x = some u) : u.ctxs = s.ctxs ∧ u.la.launches = s.la.launches := by
  have hwake : (s.wakeColumn (core / 4)).ctxs = s.ctxs ∧ (s.wakeColumn (core / 4)).la = s.la := by
    unfold State.wakeColumn
    split <;> exact ⟨rfl, rfl⟩
  obtain ⟨hctxs, hla⟩ := hwake
  unfold State.toBin at hbin
  dsimp only at hbin
  generalize s.wakeColumn (core / 4) = w at hbin hctxs hla
  rw [← hctxs, ← hla]
  split at hbin
  · cases hbin
    split <;> exact ⟨rfl, rfl⟩
  · cases hfree : w.freeBin core with
    | none => rw [hfree] at hbin; cases hbin
    | some n => rw [hfree] at hbin; cases hbin; exact ⟨rfl, rfl⟩

theorem mem_bins_closeBin_of_mem {s : State} {b y : Bin} (hy : y ∈ s.la.bins) :
    ∃ z ∈ (s.closeBin b).la.bins, z.core = y.core ∧ z.handle = y.handle ∧ z.hdr = y.hdr ∧ z.seeds = y.seeds := by
  refine ⟨_, List.mem_map.mpr ⟨y, hy, rfl⟩, ?_⟩
  split <;> exact ⟨rfl, rfl, rfl, rfl⟩

/-- A seed in a bin is the last of a bin of its core, launch and header. -/
theorem State.toBin_seed (hbin : s.toBin core h hdr x = some u) :
    ∃ b ∈ u.la.bins, b.core = core ∧ b.handle = h ∧ b.hdr = hdr ∧ b.seeds.getLast? = some x := by
  unfold State.toBin at hbin
  dsimp only at hbin
  generalize s.wakeColumn (core / 4) = w at hbin
  split at hbin
  next b hopen =>
    have hb : b ∈ w.la.bins := List.mem_of_find?_eq_some hopen
    have hfits := List.find?_some hopen
    simp only [Bool.and_eq_true, decide_eq_true_eq] at hfits
    obtain ⟨⟨hcore, hh, hhdr⟩, -⟩ := hfits
    have hadded : ∃ y ∈ (w.la.bins.map fun c => if c.core = core ∧ c.num = b.num then { c with seeds := c.seeds ++ [x] } else c),
        y.core = core ∧ y.handle = h ∧ y.hdr = hdr ∧ y.seeds.getLast? = some x :=
      ⟨_, List.mem_map.mpr ⟨b, hb, if_pos ⟨hcore, rfl⟩⟩, hcore, hh, hhdr, List.getLast?_concat⟩
    cases hbin
    split
    · obtain ⟨y, hy, hyc, hyh, hyd, hys⟩ := hadded
      obtain ⟨z, hz, hzc, hzh, hzd, hzs⟩ := mem_bins_closeBin_of_mem (b := b) (s := { w with la := { w.la with
        bins := w.la.bins.map fun c => if c.core = core ∧ c.num = b.num then { c with seeds := c.seeds ++ [x] } else c } }) hy
      exact ⟨z, hz, hzc.trans hyc, hzh.trans hyh, hzd.trans hyd, by rw [hzs, hys]⟩
    · exact hadded
  next =>
    cases hfree : w.freeBin core with
    | none => rw [hfree] at hbin; cases hbin
    | some n =>
      rw [hfree] at hbin
      cases hbin
      exact ⟨_, List.mem_append_right _ (List.mem_singleton.mpr rfl), rfl, rfl, rfl, rfl⟩

/-- A seed spilled is in a new entry of its launch, and nothing else of the launches or of the agents differs (log 39). -/
theorem State.spillSeed_places {l : Launch} {col : Nat} {home : Bool} (hspill : s.spillSeed l hdr x col home = some u) :
    u.ctxs = s.ctxs ∧ ∃ i, u.la = { s.la with spills := s.la.spills ++ [⟨l.handle, i, col, x.after⟩] } := by
  unfold State.spillSeed at hspill
  cases hfree : s.freeSpill l with
  | none => rw [hfree] at hspill; cases hspill
  | some i =>
    rw [hfree, Option.bind_some] at hspill
    have ha := State.OnlyMemory.spillAddr s l col (2 * i) .write
    have hb := State.OnlyMemory.spillAddr (s.spillAddr l col (2 * i) .write).1 l col (2 * i + 1) .write
    dsimp only at hspill
    split at hspill
    next pa pb _ _ =>
      have hwrites : ∀ (v : State) (as bs : List Byte), v.OnlyMemory ((v.homeWrite pa as).homeWrite pb bs) :=
        fun v as bs => (State.OnlyMemory.homeWrite v pa as).trans (State.OnlyMemory.homeWrite _ pb bs)
      obtain ⟨w, hw, rfl⟩ : ∃ w, s.OnlyMemory w ∧
          u = { w with la := { w.la with spills := w.la.spills ++ [(⟨l.handle, i, col, x.after⟩ : Spill)] } } := by
        refine ⟨_, ?_, (Option.some.inj hspill).symm⟩
        exact (ha.trans hb).trans (hwrites _ _ _)
      rw [← hw.la, ← hw.ctxs]
      exact ⟨rfl, i, rfl⟩
    next => cases hspill

end Place

/-! ### One child (05 R132) -/

section Child
variable {s u : State} {h hdr : Word64} {core col cx cy : Nat} {home : Bool} {after : Option (Nat × Nat)}

/-- A child is in a bin or in a spill entry, its launch marked as placed in the column and counting one identifier more. -/
theorem State.spawnOne_cases (hspawn : s.spawnOne h hdr core col home cx cy after = some u) : ∃ v,
    u = (v.markPlaced h col).modLaunch h (fun l => { l with nextTid := l.nextTid + 1 }) ∧
    (s.toBin core h hdr ⟨BitVec.ofNat 32 (s.nextTid h), BitVec.ofNat 32 cx, BitVec.ofNat 32 cy, false, after⟩ = some v ∨
      ∃ l, s.launch? h = some l ∧
        s.spillSeed l hdr ⟨BitVec.ofNat 32 (s.nextTid h), BitVec.ofNat 32 cx, BitVec.ofNat 32 cy, false, after⟩ col home = some v) := by
  unfold State.spawnOne at hspawn
  obtain ⟨w, hplace, rfl⟩ := Option.map_eq_some_iff.mp hspawn
  unfold State.placeSpawn at hplace
  split at hplace
  next v hbin => cases hplace; exact ⟨v, rfl, .inl hbin⟩
  next =>
    split at hplace
    next l hl =>
      obtain ⟨v, hspill, rfl⟩ := Option.map_eq_some_iff.mp hplace
      exact ⟨v, rfl, .inr ⟨l, hl, hspill⟩⟩
    next => cases hplace

theorem State.spawnOne_ctxs (hspawn : s.spawnOne h hdr core col home cx cy after = some u) : u.ctxs = s.ctxs := by
  obtain ⟨v, rfl, hbin | ⟨l, -, hspill⟩⟩ := State.spawnOne_cases hspawn
  · exact (State.toBin_keeps hbin).1
  · exact (State.spillSeed_places hspill).1

theorem State.spawnOne_places {a : Launch} (ha : s.launch? h = some a) (hspawn : s.spawnOne h hdr core col home cx cy after = some u) :
    (∃ b, u.launch? h = some b ∧ b.nextTid = a.nextTid + 1) ∧
    ((∃ b ∈ u.la.bins, b.core = core ∧ b.handle = h ∧ b.hdr = hdr ∧
        b.seeds.getLast? = some ⟨BitVec.ofNat 32 a.nextTid, BitVec.ofNat 32 cx, BitVec.ofNat 32 cy, false, after⟩) ∨
      ∃ i, u.la.spills = s.la.spills ++ [⟨h, i, col, after⟩]) := by
  have htid : s.nextTid h = a.nextTid := by
    unfold State.nextTid
    rw [ha]
  obtain ⟨v, rfl, hplaced⟩ := State.spawnOne_cases hspawn
  rw [htid] at hplaced
  have hcount : ∀ {w : State}, w.launch? h = some a →
      ∃ b, ((w.markPlaced h col).modLaunch h fun l => { l with nextTid := l.nextTid + 1 }).launch? h = some b ∧ b.nextTid = a.nextTid + 1 :=
    fun {w} hw => ⟨_, State.launch?_modLaunch_same (s := w.markPlaced h col) (f := fun l => { l with nextTid := l.nextTid + 1 })
      (State.launch?_modLaunch_same hw (f := fun l => { l with placed := l.placed ||| (1#64 <<< col) }) fun _ => rfl) fun _ => rfl, rfl⟩
  rcases hplaced with hbin | ⟨l, hl, hspill⟩
  · exact ⟨hcount ((State.launch?_congr (State.toBin_keeps hbin).2 h).trans ha), .inl (show ∃ b ∈ v.la.bins, _ from State.toBin_seed hbin)⟩
  · obtain ⟨-, i, hla⟩ := State.spillSeed_places hspill
    obtain rfl : l = a := Option.some.inj (hl.symm.trans ha)
    refine ⟨hcount ((State.launch?_congr (show v.la.launches = s.la.launches by rw [hla]) h).trans ha), .inr ⟨i, ?_⟩⟩
    rw [← State.launch?_handle ha]
    exact congrArg LaunchSt.spills hla

end Child

/-! ### The lanes of a word, ascending -/

/-- One lane's turn: its child placed or the lane noted, and whether a spill entry's walk waits (18 R393). -/
def spawnStep (home : Bool) (q : QWord) (off : Nat) (is : Issue) (s : State) (col core : State → Nat → Nat)
    (z : State × Word64 × Bool) (l : Nat) : State × Word64 × Bool :=
  let after := if z.1.ms.fwd.any fun f => decide (f.op < s.opId) && f.seenBy (s.cacheOf is.ctx)
    then some (s.cacheOf is.ctx, s.opId) else none
  let start := is.hdr + BitVec.ofInt 64 (16 * sext 24 off)
  let late := z.2.2 || z.1.spawnWaits is.c.handle start (core z.1 l) (col z.1 l)
  match z.1.spawnOne is.c.handle start (core z.1 l) (col z.1 l) home (is.src z.1 false q.a l) (is.src z.1 false q.b l) after with
  | some s1 => (s1, z.2.1, late)
  | none => (z.1, z.2.1 ||| (1#64 <<< l), late)

def spawnRun (home : Bool) (q : QWord) (off : Nat) (is : Issue) (s : State) (col core : State → Nat → Nat) : State × Word64 × Bool :=
  (lanesOf is.act).foldl (spawnStep home q off is s col core) (s, 0#64, false)

section Run
variable (home : Bool) (q : QWord) (off : Nat) (is : Issue) (s : State) (col core : State → Nat → Nat)

theorem spawnStep_ctxs (z : State × Word64 × Bool) (l : Nat) : (spawnStep home q off is s col core z l).1.ctxs = z.1.ctxs := by
  unfold spawnStep
  dsimp only
  split
  next s1 hspawn => exact State.spawnOne_ctxs hspawn
  next => rfl

/-- Children placed leave every agent. -/
theorem spawnRun_ctxs : (spawnRun home q off is s col core).1.ctxs = s.ctxs := by
  have hfold : ∀ (ls : List Nat) (z : State × Word64 × Bool), (ls.foldl (spawnStep home q off is s col core) z).1.ctxs = z.1.ctxs :=
    fun ls => by
      induction ls with
      | nil => exact fun _ => rfl
      | cons l ls ih => exact fun z => (ih _).trans (spawnStep_ctxs home q off is s col core z l)
  exact hfold _ _

end Run

/-! ### What the words answer -/

/-- A lane's own writes are on their way where a mark of its own cache is open. -/
theorem State.markOpen_own (z : State) (k upto : Nat) :
    z.markOpen ⟨0, 1, k, upto, .core, false⟩ = z.ms.fwd.any fun f => decide (f.op < upto) && f.seenBy k := by
  unfold State.markOpen
  rw [Bool.false_and, Bool.or_false]

/-- What a run of the lanes makes the word answer: it waits, or the lanes without a place trap. -/
def spawnAnswer (is : Issue) (r : State × Word64 × Bool) : Option Done :=
  if r.2.2 then none else some (.held (r.1.takeTrap is.ctx r.2.1 ⟨0x08, 0, 255, 0, false, false⟩ is.h is.hdr is.idx) r.2.1)

theorem spawnEff_own (q : QWord) (off : Nat) (is : Issue) (s : State) :
    spawnEff q off false is s = spawnAnswer is (spawnRun false q off is s (fun _ _ => s.colOf is.ctx) fun _ _ => is.c.core) := by
  unfold spawnEff spawnAnswer spawnRun spawnStep
  simp only [State.markOpen_own]
  cases q.d <;> rfl

theorem spawnEff_home (q : QWord) (off : Nat) {r : Nat} (hr : q.d = .g r) (is : Issue) (s : State) :
    spawnEff q off true is s = spawnAnswer is (spawnRun true q off is s
      (fun z l => (z.presentColumn ((z.placeHome (is.c.pair l r)).getD (s.colOf is.ctx))).getD (s.colOf is.ctx))
      fun z l => (z.chooseCore ((z.presentColumn ((z.placeHome (is.c.pair l r)).getD (s.colOf is.ctx))).getD (s.colOf is.ctx)) is.c.handle
        (is.hdr + BitVec.ofInt 64 (16 * sext 24 off))).getD is.c.core) := by
  unfold spawnEff spawnAnswer spawnRun spawnStep
  simp only [State.markOpen_own, hr]
  rfl

/-- A word that runs its lanes and answers as they fare places their children, traps the lanes without a place, or waits. -/
theorem spawnWord_places {i : Instr} {eff : Issue → State → Option Done} {out : Issue → State → State × Word64 × Bool}
    (he : ∀ s, exec i s = issueWith i 0 eff s) (heff : ∀ is s, eff is s = spawnAnswer is (out is s))
    (hctxs : ∀ is s, (out is s).1.ctxs = s.ctxs) :
    DoesAfter i (fun is s v => out is s = (v, 0, false)) (fun _ _ v => v) ∧
    DoesBut i (fun is s => (out is s).2.1 ≠ 0 ∧ (out is s).2.2 = false)
      (fun is s => (out is s).1.takeTrap is.ctx (out is s).2.1 ⟨0x08, 0, 255, 0, false, false⟩ is.h is.hdr is.idx)
      (fun is s => (out is s).2.1) ∧
    Waits i fun is s => (out is s).2.2 = true := by
  have hfails : ∀ (is : Issue) (s : State), s.SameFails (out is s).1 := fun is s => State.SameFails.of_ctxs (hctxs is s)
  refine ⟨fun s r v hr _ hm ha hout hstuck => ?_, ?_, ?_⟩
  · refine exec_passes (b := false) (he s) hr hm ha ?_ (fun l => ?_) hstuck
    · rw [heff, spawnAnswer, hout]
      rfl
    · have hkept := hfails (s.issued r) s (s.issued r).ctx l
      rw [hout] at hkept
      exact hkept.trans (hm.settled l)
  · refine doesBut_of_fails_kept he (fun is s l => ?_) fun is s _ hp => ?_
    · exact ((hfails is s).trans (State.SameFails.takeTrap _ _ _ _ _ _ _)) is.ctx l
    · rw [heff, spawnAnswer, hp.2]
      rfl
  · refine waits_of he fun s r _ _ _ hlate => ?_
    rw [heff, spawnAnswer, hlate]
    rfl

/-- Settles O34: the lanes' run is the word's, and a run leaves every agent. -/
theorem spawns : Obligations.Spawns := by
  unfold Obligations.Spawns
  refine ⟨fun q off => ?own, fun q off r hr => ?home, fun _ _ _ _ _ _ _ _ _ _ _ ha hspawn => State.spawnOne_places ha hspawn⟩
  case own =>
    have hplaces := spawnWord_places (i := .spawn q off) (out := fun is s =>
      spawnRun false q off is s (fun _ _ => s.colOf is.ctx) fun _ _ => is.c.core) (fun _ => rfl)
      (fun is s => spawnEff_own q off is s) fun is s => spawnRun_ctxs false q off is s _ _
    exact hplaces
  case home =>
    have hplaces := spawnWord_places (i := .spawnHome q off) (fun _ => rfl) (fun is s => spawnEff_home q off hr is s)
      fun is s => spawnRun_ctxs true q off is s _ _
    exact hplaces

end Sys2Proof.Machine
end

section
/-! SUPPORT. What an engine's questions to the drift regions leave: they change the regions, their messages and the memory system, and
of the agents only a column core that waits for a region's retirement (13 R300-R312; 15 R329). -/

set_option Elab.async false

namespace Sys2Proof.Machine

/-! ### A column core past its word -/

/-- A column core's word that ends changes nothing but the core. -/
theorem OnlyCtx.passWord (s : State) (n : Nat) (m : Word64) : OnlyCtx (.cc n) s (s.passWord (.cc n) m) := by
  unfold State.passWord
  extract_lets x ls pcOf x1 hs s1
  have h1 : OnlyCtx (.cc n) s s1 := by
    have harrive : ∀ (hs : List Word64) (u : State), OnlyCtx (.cc n) u
        (hs.foldl (fun s h => s.arrive (.cc n) (ls.filter fun l => decide (pcOf l = (h, 0))) h) u) := fun hs => by
      induction hs with
      | nil => exact OnlyCtx.refl _
      | cons h hs ih => exact fun u => (StaysAt.arrive u _ _ h).only.trans (ih _)
    exact (OnlyCtx.setCtx (.cc n) s x1).trans (harrive hs _)
  exact h1.trans (StaysAt.settle s1 (.cc n)).only

/-! ### States that differ only in the memory system and the drift regions -/

/-- Nothing but the memory system, the drift regions, the stops waited for and agents differs, and not this agent unless it waits for a
region's retirement. -/
structure State.Asks (c : CtxId) (s t : State) : Prop where
  rest : { t with wlog := s.wlog, opId := s.opId, ms := s.ms, ev := s.ev, dr := s.dr, fa := s.fa, ctxs := s.ctxs } = s
  agent : (∀ r, ((s.ctx c).lane 0).wait ≠ .retire r) → t.ctx c = s.ctx c

namespace State.Asks

variable {c : CtxId} {s t u : State}

theorem refl (c : CtxId) (s : State) : s.Asks c s := ⟨rfl, fun _ => rfl⟩

theorem trans (h : s.Asks c t) (k : t.Asks c u) : s.Asks c u := by
  refine ⟨?_, fun hw => ?_⟩
  · have h1 := h.rest
    have h2 := k.rest
    rw [← h1, ← h2]
  · have hc := h.agent hw
    exact (k.agent (hc ▸ hw)).trans hc

theorem la (h : s.Asks c t) : t.la = s.la := (congrArg State.la h.rest :)

theorem stuck (h : s.Asks c t) : t.stuck = s.stuck := (congrArg State.stuck h.rest :)

theorem ite {p : Prop} [Decidable p] {a b : State} (ha : s.Asks c a) (hb : s.Asks c b) : s.Asks c (if p then a else b) := by
  split
  · exact ha
  · exact hb

theorem foldl {α : Type} {f : State → α → State} (h : ∀ (s : State) x, s.Asks c (f s x)) (l : List α) :
    ∀ s : State, s.Asks c (l.foldl f s) := by
  induction l with
  | nil => exact refl c
  | cons x l ih => exact fun s => (h s x).trans (ih _)

theorem of_memory (h : s.OnlyMemory t) : s.Asks c t := by
  refine ⟨?_, fun _ => by unfold State.ctx; rw [h.ctxs]⟩
  unfold State.OnlyMemory at h
  rw [← h]

/-- Only the drift regions, or what waits on them, differ. -/
theorem of_dr {ms : MemSt} {dr : DriftSt} {fa : FabricSt} {n : Nat} :
    s.Asks c { s with opId := n, ms := ms, dr := dr, fa := fa } := ⟨rfl, fun _ => rfl⟩

/-! ### Homes, queries and messages -/

theorem putHome (s : State) (h : DriftHome) : s.Asks c (s.putHome h) := of_dr

theorem send (s : State) (m : DMsg) : s.Asks c (s.send m) := of_dr

theorem putQuery (s : State) (q : DQuery) : s.Asks c (s.putQuery q) := of_dr

theorem forceDrain (s : State) (region reason : Nat) (g : Grant) : s.Asks c (s.forceDrain region reason g) :=
  ite (refl c s) ((putHome s _).trans (send _ _))

theorem grantShare (s : State) (region cache : Nat) : s.Asks c (s.grantShare region cache) := (putHome s _).trans (send _ _)

theorem serveReq (s : State) (region cache : Nat) (reclaimed : Option (Nat × Nat)) : s.Asks c (s.serveReq region cache reclaimed).1 := by
  unfold State.serveReq
  dsimp only
  split
  · exact send s _
  · split
    · exact refl c s
    · split
      · split
        · exact refl c s
        · exact grantShare s region cache
      · split
        · exact grantShare s region cache
        · split
          · exact grantShare s region cache
          · exact (forceDrain s region 0 _).trans (putHome _ _)

theorem serveReqs (s : State) (region : Nat) : s.Asks c (s.serveReqs region) := by
  refine foldl (fun u r => ?_) _ s
  have h := serveReq (c := c) u region r.1 r.2
  generalize u.serveReq region r.1 r.2 = p at h ⊢
  obtain ⟨v, _ | _⟩ := p
  · exact h
  · exact h.trans (putHome v _)

theorem tellDone (s : State) (q : DQuery) : s.Asks c (s.tellDone q) := ite (putHome s _) (send s _)

theorem advance (s : State) : s.Asks c s.advance :=
  foldl (fun u _ => ite (refl c u) (ite ((putQuery u _).trans (putHome _ _)) ((putQuery u _).trans (send _ _)))) _ s

theorem answer (s : State) (q : DQuery) : s.Asks c (s.answer q) := by
  have hread : s.Asks c (s.readHome q.pa (s.elemBytes q.region)) := of_memory (OnlyMemory.readHome s _ _)
  have hquery : ∀ u : State, u.Asks c (if q.op.isNone then
      { u with dr := { u.dr with queries := u.dr.queries.filter fun p => p.id ≠ q.id } } else u.putQuery { q with
        stage := 4, value := u.homeNat q.pa (s.elemBytes q.region), own := deltasOf (u.ownDeltas q.loader q.region) q.pa }) :=
    fun u => ite of_dr (putQuery u _)
  exact ((hread.trans (hquery _)).trans (ite (refl c _) (tellDone _ q))).trans (advance _)

theorem serveHead (s : State) (region : Nat) : s.Asks c (s.serveHead region) := by
  unfold State.serveHead
  dsimp only
  split
  · exact ite (refl c s) ((foldl (fun u g => forceDrain u region _ g) _ s).trans (putQuery _ _))
  · exact refl c s

theorem clearHead {region : Nat} (h : s.clearHead region = some t) : s.Asks c t := by
  unfold State.clearHead at h
  dsimp only at h
  obtain ⟨q, -, hq⟩ := Option.bind_eq_some_iff.mp h
  split at hq
  · cases hq
  · cases hq
    exact (putHome s _).trans (ite (answer _ q) ((putQuery _ _).trans (send _ _)))

theorem serveQueue (region n : Nat) : ∀ s : State, s.Asks c (State.serveQueue region n s) := by
  induction n with
  | zero => exact refl c
  | succ n ih =>
    intro s
    unfold State.serveQueue
    dsimp only
    split
    next heq => exact ((serveHead s region).trans (clearHead heq)).trans (ih _)
    next => exact serveHead s region

/-- A column core that waits for a region's retirement ends its word; no other agent does. -/
theorem retired (s : State) (region n : Nat) :
    s.Asks c (if ((s.ctx (.cc n)).lane 0).wait = .retire region then s.passWord (.cc n) 1 else s) := by
  split
  next hwait =>
    have honly := OnlyCtx.passWord s n 1
    refine ⟨?_, fun hw => honly.others c fun hk => hw region ?_⟩
    · exact (congrArg (fun u : State => { u with wlog := s.wlog, opId := s.opId, ms := s.ms, ev := s.ev, dr := s.dr, fa := s.fa }) honly.rest :)
    · rw [State.ctx_congr s hk, hwait]
  next => exact refl c s

theorem endRetire (s : State) (region : Nat) : s.Asks c (s.endRetire region) :=
  ite (of_dr.trans (foldl (fun u n => retired u region n) _ _)) (refl c s)

theorem settleHome (s : State) (region : Nat) : s.Asks c (s.settleHome region) :=
  ((serveQueue region _ s).trans (serveReqs _ region)).trans (endRetire _ region)

/-! ### The stops waited for, and the questions of an engine -/

theorem stopBegins (s : State) (id : Nat) : s.Asks c (s.stopBegins id) := ite (refl c s) of_dr

theorem stopEnds (s : State) (id : Nat) : s.Asks c (s.stopEnds id) := ite of_dr (refl c s)

theorem orphanQueries (s : State) (op : Nat) : s.Asks c (s.orphanQueries op) := by
  refine (of_dr.trans (stopEnds _ op)).trans (foldl (fun u q => ?_) _ _)
  exact ite (of_dr.trans (advance _)) (ite (((ite (of_dr.trans (tellDone _ q)) of_dr).trans (advance _)).trans (settleHome _ _)) (putQuery u _))

theorem addQuery (s : State) (op lane region pa : Nat) (eps : Word) (loader : Option Nat) (hold : Bool) :
    s.Asks c (s.addQuery op lane region pa eps loader hold) := (of_dr.trans (advance _)).trans (settleHome _ region)

theorem askElems (s : State) (op lane region : Nat) (es : List Nat) (eps : Word) (loader : Option Nat) (hold : Bool) :
    s.Asks c (s.askElems op lane region es eps loader hold) := by
  have hstep : ∀ (r : State × Bool) (e : Nat), r.1.Asks c (if !r.2 then r else
      match r.1.queryFor op lane e with
      | some q => (r.1, hold || decide (q.stage = 4))
      | none =>
        if (loader.map fun k => r.1.deltasOut k region).getD false then (r.1, false)
        else
          let s1 := r.1.addQuery op lane region e eps loader hold
          (s1, hold || (s1.queryFor op lane e).any fun q => decide (q.stage = 4))).1 := fun r e => by
    split
    · exact refl c _
    · split
      · exact refl c _
      · split
        · exact refl c _
        · exact addQuery r.1 op lane region e eps loader hold
  have hfold : ∀ (es : List Nat) (r : State × Bool), r.1.Asks c (es.foldl _ r).1 := fun es => by
    induction es with
    | nil => exact fun r => refl c r.1
    | cons e es ih => exact fun r => (hstep r e).trans (ih _)
  exact hfold es (s, true)

theorem askElem (s : State) (id : Nat) (v : EView) (pa : Nat) (a : EAcc) : s.Asks c (s.askElem id v pa a) := by
  unfold State.askElem
  split
  · exact askElems s _ _ _ _ _ _ _
  · exact refl c s

theorem noteEngine (s : State) (id : Nat) (pas : List Nat) : s.Asks c (s.noteEngine id pas) :=
  foldl (fun _ pa => of_dr.trans (of_memory (OnlyMemory.splitRegion _ pa))) _ s

/-- An engine whose pages are all translated asks, and nothing else happens. -/
theorem engineReady (s : State) (id : Nat) (st : Bool) (v : EView) (acq : Bool) (as : List EAcc)
    (h : (s.touchAll (as.map EAcc.found)).1 = s) : s.Asks c (s.engineReady id st v acq as).1 := by
  unfold State.engineReady
  dsimp only
  rw [h]
  generalize (as.filterMap fun a => a.found.pa?.map fun pa => (pa, a)) = hot
  have hstops : s.Asks c (if hot.any fun q => s.stopped q.1 then s.stopBegins id else s.stopEnds id) :=
    ite (stopBegins s id) (stopEnds s id)
  generalize (if hot.any fun q => s.stopped q.1 then s.stopBegins id else s.stopEnds id) = s0 at hstops ⊢
  have hask : s.Asks c (hot.foldl (fun s q => s.askElem id v q.1 q.2) s0) := hstops.trans (foldl (fun u (q : Nat × EAcc) => askElem u id v q.1 q.2) _ _)
  generalize hot.foldl (fun s q => s.askElem id v q.1 q.2) s0 = s1 at hask ⊢
  split
  · exact hstops
  · split
    · exact hask
    · split
      · exact hask.trans (noteEngine _ _ _)
      · exact hask

theorem endQueries (s : State) (p : DQuery → Bool) : s.Asks c (s.endQueries p) :=
  foldl (fun _ q => ((ite (of_dr.trans (tellDone _ q)) of_dr).trans (advance _)).trans (settleHome _ _)) _ s

theorem engineDone (s : State) (id : Nat) : s.Asks c (s.engineDone id) := (endQueries s _).trans of_dr

end State.Asks

/-! ### The reads of an engine -/

namespace State.OnlyMemory

theorem readCopies (s : State) (cls cache : Nat) (rt : Rt) (line : Nat) : s.OnlyMemory (s.readCopies cls cache rt line) := by
  have hhome : ∀ by_ : Option Nat, s.OnlyMemory ((s.recall by_ line false).sliceFill line) := fun by_ => (recallLine s by_ line false).trans of_ms
  unfold State.readCopies
  split
  · unfold State.touchL1
    split
    · exact of_ms
    · exact refl s
  · split
    · exact putL1 s _ _ _
    · dsimp only
      split
      · exact (((hhome _).trans (disown _ _)).trans of_ms).trans (putL1 _ _ _ _)
      · exact (hhome _).trans (putL1 _ _ _ _)
      · exact (hhome _).trans (grantLease _ _ _ _)

theorem engineRead_core (s : State) (id k : Nat) (rt : Rt) (pa n : Nat) : s.OnlyMemory (s.engineRead id (.core k) rt pa n).1 := by
  unfold State.engineRead
  split
  · exact refl s
  · exact ite (((injectSeen s _ _ _ _).trans (ite (countAccess _ _) (refl _))).trans (foldl (fun u l => readCopies u 0 k rt l) _ _))
      (injectSeen s _ _ _ _)

theorem engineReads_core (s : State) (id k : Nat) (as : List EAcc) : s.OnlyMemory (s.engineReads id (.core k) as).1 := by
  have hfold : ∀ (as : List EAcc) (z : State × List Nat), z.1.OnlyMemory (as.foldl (fun (z : State × List Nat) a => match a.found with
      | .ok pa _ =>
        let q := z.1.engineRead id (.core k) a.rt pa a.n
        (q.1, q.2 :: z.2)
      | _ => (z.1, 0 :: z.2)) z).1 := fun as => by
    induction as with
    | nil => exact fun z => refl z.1
    | cons a as ih =>
      intro z
      refine trans ?_ (ih _)
      dsimp only
      split
      · exact engineRead_core z.1 id k _ _ _
      · exact refl z.1
  exact hfold as (s, [])

theorem acquire (s : State) (c : CtxId) (sc : Scope) : s.OnlyMemory (s.acquire c sc) := ite of_ms (refl s)

theorem checkPage (s : State) (w : Who) (space : Nat) (va : Int) (k : AccKind) : s.OnlyMemory (s.checkPage w space va k).1 := by
  unfold State.checkPage
  split
  · exact refl s
  · dsimp only
    have htranslate := translate s w.tlbs va.toNat k w.user
    generalize s.translate w.tlbs va.toNat k w.user = q at htranslate ⊢
    obtain ⟨s1, r⟩ := q
    cases r with
    | ok pa l =>
      dsimp only
      split
      · exact htranslate
      · split <;> exact htranslate
    | _ => exact htranslate

theorem checkVirt (s : State) (w : Who) (space : Nat) (va : Int) (k : AccKind) : s.OnlyMemory (s.checkVirt w space va k).1 := by
  have hpage := checkPage s w space va k
  unfold State.checkVirt
  generalize s.checkPage w space va k = q at hpage ⊢
  obtain ⟨s1, found⟩ := q
  cases found with
  | ok pa tgt =>
    dsimp only
    split <;> exact hpage
  | _ => exact hpage

end State.OnlyMemory

end Sys2Proof.Machine
end

section
/-! O36: launch puts its record and its GO into the line and gives the handle (05 R113-R115, R139). -/

set_option Elab.async false

namespace Sys2Proof.Machine

/-! ### Numbers and lanes -/

theorem lanesOf_one_shift {l : Nat} (hl : l < 64) : lanesOf (1#64 <<< l) = [l] := by
  have hbit : ∀ k, k < 64 → (1#64 <<< l).getLsbD k = decide (k = l) := fun k hk => by
    rw [BitVec.getLsbD_shiftLeft, BitVec.getLsbD_one]
    by_cases h : k = l
    · subst h; simp [hk]
    · simp [hk, h]; omega
  have hfilter : lanesOf (1#64 <<< l) = (List.range 64).filter fun k => decide (k = l) :=
    List.filter_congr fun k hk => hbit k (List.mem_range.mp hk)
  rw [hfilter, List.filter_eq]
  rw [List.count_eq_one_of_mem List.nodup_range (List.mem_range.mpr hl)]
  rfl

theorem maskOf_contains_lanesOf (m : Word64) : (maskOf fun l => (lanesOf m).contains l) = m := by
  refine BitVec.eq_of_getLsbD_eq fun l hl => ?_
  rw [getLsbD_maskOf, Bool.eq_iff_iff]
  simp [mem_lanesOf, hl]

/-- A number of so many bytes. -/
theorem leNat_lt (bs : List Byte) : leNat bs < 256 ^ bs.length := by
  induction bs with
  | nil => decide
  | cons b bs ih =>
    have hb := b.isLt
    rw [leNat, List.length_cons, Nat.pow_succ]
    omega

theorem recNat_lt (r : List Byte) (off : Nat) : recNat r off 8 < 2 ^ 64 := by
  have hlen : ((r.drop off).take 8).length ≤ 8 := List.length_take_le 8 _
  calc leNat ((r.drop off).take 8) < 256 ^ ((r.drop off).take 8).length := leNat_lt _
    _ ≤ 256 ^ 8 := Nat.pow_le_pow_right (by decide) hlen

/-! ### A path past its word (06 R143, R151) -/

/-- A thread past its word, its wait over. -/
def Lane.passed (pc : Word64 × Nat) (y : Lane) : Lane := { y.pass pc Option.none with wait := .none }

/-- Where a thread goes from the word it stands at. -/
def Ctx.pcAfter (x : Ctx) (l : Nat) : Word64 × Nat := nextPc (Header.ofWord ((x.lane l).hw.getD 0)) (x.lane l).hdr (x.lane l).idx

/-- An agent some of whose threads are past their word. -/
def Ctx.passLanes (x : Ctx) (m : Word64) : Ctx := x.modLanes (lanesOf m) fun l => Lane.passed (x.pcAfter l)

theorem Ctx.passLanes_lane (x : Ctx) (m : Word64) (k : Nat) :
    (x.passLanes m).lane k = if k ∈ lanesOf m then (x.lane k).passed (x.pcAfter k) else x.lane k :=
  Ctx.lane_modLanes x _ _ (nodup_lanesOf m) k

theorem Ctx.passLanes_fails (x : Ctx) (m : Word64) : Ctx.SameFails x (x.passLanes m) :=
  Ctx.SameFails.modLanes (lanesOf m) (f := fun l => Lane.passed (x.pcAfter l)) (fun _ _ => rfl) x

/-- A path that passes its word, no operation of its agent having failed: its threads are past it, and only holds differ. -/
theorem StaysAt.passWord {s : State} {c : CtxId} (m : Word64) (h : ∀ l, ((s.ctx c).lane l).fails = []) :
    StaysAt c (s.setCtx c ((s.ctx c).passLanes m)) (s.passWord c m) := by
  have harrive := StaysAt.arrivals c (fun t => (lanesOf m).filter fun l => decide ((s.ctx c).pcAfter l = (t, 0)))
    ((((lanesOf m).filter fun l => ((s.ctx c).pcAfter l).2 = 0).map fun l => ((s.ctx c).pcAfter l).1).eraseDups)
    (s.setCtx c ((s.ctx c).passLanes m))
  unfold State.passWord
  extract_lets x ls pcOf x1 hs s1
  have hs1 : StaysAt c (s.setCtx c ((s.ctx c).passLanes m)) s1 := harrive
  have hsettled : ∀ l, ((s1.ctx c).lane l).fails = [] := fun l => by
    rw [hs1.fails, State.ctx_setCtx_same, Ctx.passLanes_fails, h]
  rw [State.parkAtRb_of_settled s1 c hsettled, ite_self]
  exact hs1.trans (StaysAt.settle s1 c)

/-- A path whose lanes all wait only for each other passes its word. -/
theorem State.checkPeers_all {s : State} {c : CtxId} {path : Word64} (h : ∀ k ∈ lanesOf path, ((s.ctx c).lane k).wait = .peers path) :
    s.checkPeers c path = s.passWord c path := by
  have hmine : (lanesOf path).filter (fun l => decide (((s.ctx c).lane l).wait.path? = some path)) = lanesOf path :=
    List.filter_eq_self.mpr fun k hk => by rw [h k hk]; exact decide_eq_true rfl
  have hbad : (lanesOf path).filter (fun l => ((s.ctx c).lane l).wait.trap?.isSome) = [] :=
    List.filter_eq_nil_iff.mpr fun k hk => by rw [h k hk]; exact Bool.false_ne_true
  have hdone : (lanesOf path).filter (fun l => decide (((s.ctx c).lane l).wait = .peers path)) = lanesOf path :=
    List.filter_eq_self.mpr fun k hk => by rw [h k hk]; exact decide_eq_true rfl
  unfold State.checkPeers
  dsimp only
  rw [hmine, hbad, hdone, if_pos (by rw [List.length_nil, Nat.zero_add]), maskOf_contains_lanesOf]
  rfl

/-! ### A path whose lane launches -/

/-- A path of an agent with one launching lane: the lane's wait is given, its peers wait for it, and nobody else waits. -/
structure Launching (x : Ctx) (path : Word64) (hw hdr : Word64) (idx l : Nat) (w : Wait) : Prop where
  settled : ∀ k, (x.lane k).fails = []
  place : ∀ k ∈ lanesOf path, (x.lane k).hw = some hw ∧ (x.lane k).hdr = hdr ∧ (x.lane k).idx = idx
  mine : l ∈ lanesOf path
  self : (x.lane l).wait = w
  peers : ∀ k ∈ lanesOf path, k ≠ l → (x.lane k).wait = .peers path
  others : ∀ k, k ∉ lanesOf path → (x.lane k).wait = .none

namespace Launching

variable {x y : Ctx} {path hw hdr : Word64} {idx l : Nat} {w : Wait}

/-- Only the launching lane can wait as a launch. -/
theorem wait_cases (h : Launching x path hw hdr idx l w) (k : Nat) :
    (k = l ∧ (x.lane k).wait = w) ∨ (x.lane k).wait = .peers path ∨ (x.lane k).wait = .none := by
  by_cases hk : k = l
  · exact .inl ⟨hk, hk ▸ h.self⟩
  · by_cases hmem : k ∈ lanesOf path
    · exact .inr (.inl (h.peers k hmem hk))
    · exact .inr (.inr (h.others k hmem))

/-- The agent changed in nothing that its path waits for. -/
theorem of_lanes (h : Launching x path hw hdr idx l w) (hy : ∀ k, (y.lane k).fails = (x.lane k).fails ∧ (y.lane k).hw = (x.lane k).hw ∧
    (y.lane k).hdr = (x.lane k).hdr ∧ (y.lane k).idx = (x.lane k).idx ∧ (y.lane k).wait = (x.lane k).wait) :
    Launching y path hw hdr idx l w where
  settled k := (hy k).1.trans (h.settled k)
  place k hk := by
    obtain ⟨-, h1, h2, h3, -⟩ := hy k
    rw [h1, h2, h3]
    exact h.place k hk
  mine := h.mine
  self := (hy l).2.2.2.2.trans h.self
  peers k hk hne := (hy k).2.2.2.2.trans (h.peers k hk hne)
  others k hk := (hy k).2.2.2.2.trans (h.others k hk)

/-- The launching lane's wait replaced. -/
theorem setWait (h : Launching x path hw hdr idx l w) (w' : Wait) :
    Launching (x.modLane l fun y => { y with wait := w' }) path hw hdr idx l w' where
  settled k := by
    rw [Ctx.lane_modLane]
    split
    · exact h.settled l
    · exact h.settled k
  place k hk := by
    rw [Ctx.lane_modLane]
    split
    · exact h.place l h.mine
    · exact h.place k hk
  mine := h.mine
  self := by rw [Ctx.lane_modLane, if_pos rfl]
  peers k hk hne := by rw [Ctx.lane_modLane, if_neg hne]; exact h.peers k hk hne
  others k hk := by
    rw [Ctx.lane_modLane, if_neg fun e => hk (by rw [e]; exact h.mine)]
    exact h.others k hk

/-- Results that land leave the path as it waits. -/
theorem applyRes (h : Launching x path hw hdr idx l w) (rs : List Res) : Launching (rs.foldl Ctx.applyRes x) path hw hdr idx l w :=
  h.of_lanes fun k => by
    have hlane := Ctx.applyRes_lane rs k x
    exact ⟨(congrArg Lane.fails hlane :), (congrArg Lane.hw hlane :), (congrArg Lane.hdr hlane :), (congrArg Lane.idx hlane :),
      (congrArg Lane.wait hlane :)⟩

/-- Once the launching lane waits for its peers, the path passes its word. -/
theorem passes (h : Launching x path hw hdr idx l (.peers path)) (k : Nat) : ((x.passLanes path).lane k).wait = .none ∧
    (k ∈ lanesOf path → (((x.passLanes path).lane k).hdr, ((x.passLanes path).lane k).idx) = nextPc (Header.ofWord hw) hdr idx) := by
  rw [Ctx.passLanes_lane]
  by_cases hk : k ∈ lanesOf path
  · obtain ⟨h1, h2, h3⟩ := h.place k hk
    rw [if_pos hk]
    refine ⟨rfl, fun _ => ?_⟩
    show x.pcAfter k = _
    rw [Ctx.pcAfter, h1, h2, h3]
    rfl
  · rw [if_neg hk]
    exact ⟨h.others k hk, fun hmem => absurd hmem hk⟩

end Launching

/-! ### The turns of a launch -/

/-- With no launch waiting there is nothing to carry on. -/
theorem State.runLaunch_done {c : CtxId} {s : State} (h : ∀ k, ((s.ctx c).lane k).wait = .none) (n : Nat) : State.runLaunch c n s = s := by
  cases n with
  | zero => rfl
  | succ n =>
    unfold State.runLaunch
    dsimp only
    split
    · rfl
    next hsome =>
      obtain ⟨k, -, hk⟩ := List.exists_of_findSome?_eq_some hsome
      rw [h k] at hk
      cases hk

/-- A launching lane's turn: its record read, or submitted once it is (R139 steps 2-5). -/
def State.launchTurn (s : State) (c : CtxId) (l va line reg : Nat) (r : Option (List Byte)) (path : Word64) : State :=
  match r with
  | none => s.readRecord c l va line reg path
  | some bs => s.submit c l line reg bs path

section Turn
variable {c : CtxId} {s u : State} {path hw hdr : Word64} {idx l va line reg n : Nat}

theorem State.runLaunch_turn {r : Option (List Byte)} (h : Launching (s.ctx c) path hw hdr idx l (.launch va line reg r path))
    (hu : s.launchTurn c l va line reg r path = u)
    (hmoved : ((u.ctx c).lane l).wait ≠ .launch va line reg r path) : State.runLaunch c (n + 1) s = State.runLaunch c n u := by
  conv_lhs => unfold State.runLaunch
  dsimp only
  split
  next hnone =>
    have hmem : l ∈ SMap.keys (s.ctx c).lanes := by
      refine List.mem_map.mpr ⟨_, SMap.mem_of_get_ne (d := Lane.none) fun e => ?_, rfl⟩
      have hself := h.self
      rw [show (s.ctx c).lane l = Lane.none from e] at hself
      cases hself
    have hnot := List.findSome?_eq_none_iff.mp hnone l hmem
    rw [h.self] at hnot
    cases hnot
  next l' va' line' reg' r' path' hsome =>
    obtain ⟨k, -, hk⟩ := List.exists_of_findSome?_eq_some hsome
    rcases h.wait_cases k with ⟨rfl, hw⟩ | hw | hw <;> rw [hw] at hk <;> cases hk
    rw [h.self]
    subst hu
    cases r with
    | none => exact if_neg hmoved
    | some bs => exact if_neg hmoved

end Turn

/-! ### A record submitted (05 R113-R115) -/

theorem State.launchLine_putLaunchLine_same (s : State) (col n : Nat) (x : LaunchLine) : (s.putLaunchLine col n x).launchLine col n = x :=
  SMap.get_set_same _ _ _ _

/-- The SEQ after a line's. -/
def LaunchLine.nextSeq (x : LaunchLine) : Nat := if x.seq + 1 < 2 ^ 32 then x.seq + 1 else 1

/-- A line with a record and its GO, Pending. -/
def LaunchLine.submitted (x : LaunchLine) (bs : List Byte) : LaunchLine :=
  { ((x.put 0 (bs.take 120)).put 120 (leBytes 8 (recNat bs 120 8))) with pending := true, seq := x.nextSeq }

/-- A state with the record submitted in its line. -/
def State.lineSubmitted (s : State) (col n : Nat) (bs : List Byte) : State :=
  (s.putLaunchLine col n ((s.launchLine col n).put 0 (bs.take 120))).putLaunchLine col n ((s.launchLine col n).submitted bs)

theorem State.submit_idle {s : State} {line : Nat} {bs : List Byte} (hidle : (s.launchLine (line / 16 % 64) (line % 16)).pending = false)
    (hgo : recNat bs 120 8 ≠ 0) (c : CtxId) (l reg : Nat) (path : Word64) :
    s.submit c l line reg bs path = ((s.lineSubmitted (line / 16 % 64) (line % 16) bs).land c (regRes l reg
      (handleOf (line / 16 % 64) (line % 16) (s.launchLine (line / 16 % 64) (line % 16)).nextSeq false).toNat 2)).doneWaiting c
        (1#64 <<< l) path := by
  have hnat : (BitVec.ofNat 64 (recNat bs 120 8)).toNat = recNat bs 120 8 :=
    (BitVec.toNat_ofNat ..).trans (Nat.mod_eq_of_lt (recNat_lt bs 120))
  have hne : BitVec.ofNat 64 (recNat bs 120 8) ≠ 0 := fun e => hgo (by rw [← hnat, e]; rfl)
  unfold State.submit
  dsimp only
  rw [hidle, if_neg Bool.false_ne_true]
  unfold State.goWrite
  dsimp only
  rw [if_neg hne, State.launchLine_putLaunchLine_same, hnat]
  rfl

theorem State.land_rest (s : State) (c : CtxId) (rs : List Res) : { s.land c rs with ctxs := s.ctxs } = s := by
  unfold State.land
  split <;> rfl

section Submit
variable {s : State} {c : CtxId} {path hw hdr : Word64} {idx l : Nat} {w : Wait}

/-- Where the launching lane is done, the whole path passes its word. -/
theorem Launching.doneWaiting (h : Launching (s.ctx c) path hw hdr idx l w) :
    ∃ x, Launching x path hw hdr idx l (.peers path) ∧ x.g = (s.ctx c).g ∧
      StaysAt c ((s.modCtx c fun _ => x).setCtx c (x.passLanes path)) (s.doneWaiting c (1#64 <<< l) path) := by
  have hl := (mem_lanesOf.mp h.mine).1
  have hx := h.setWait (.peers path)
  refine ⟨_, hx, rfl, ?_⟩
  unfold State.doneWaiting
  rw [lanesOf_one_shift hl]
  generalize hy : (s.ctx c).modLane l (fun y => { y with wait := .peers path }) = y at hx
  have hctx : (s.modCtx c fun x => x.modLanes [l] fun _ y => { y with wait := .peers path }) = s.modCtx c fun _ => y := by
    subst hy
    rfl
  have hyctx : (s.modCtx c fun _ => y).ctx c = y := State.ctx_modCtx_same s c _
  rw [hctx, State.checkPeers_all fun k hk => ?_]
  · have hpass := StaysAt.passWord (s := s.modCtx c fun _ => y) (c := c) path (by rw [hyctx]; exact hx.settled)
    rw [hyctx] at hpass
    exact hpass
  · rw [hyctx]
    rcases hx.wait_cases k with ⟨-, hk⟩ | hk | hnone
    · exact hk
    · exact hk
    · by_cases hkl : k = l
      · rw [hkl]; exact hx.self
      · exact hx.peers k hk hkl

/-- A record submitted: the line Pending, the handle in the launching lane's pair, and the path past its word. -/
structure Submits (s u : State) (c : CtxId) (path hw hdr : Word64) (idx l line reg : Nat) (bs : List Byte) : Prop where
  pending : u.launchLine (line / 16 % 64) (line % 16) = (s.launchLine (line / 16 % 64) (line % 16)).submitted bs
  stuck : u.stuck = s.stuck
  settled : ∀ k, ((u.ctx c).lane k).fails = []
  awake : ∀ k, ((u.ctx c).lane k).wait = .none
  moved : ∀ k ∈ lanesOf path, (((u.ctx c).lane k).hdr, ((u.ctx c).lane k).idx) = nextPc (Header.ofWord hw) hdr idx
  handle : ∀ i, i < 2 → (u.ctx c).reg l (reg + i) = BitVec.ofNat 32 ((handleOf (line / 16 % 64) (line % 16)
    (s.launchLine (line / 16 % 64) (line % 16)).nextSeq false).toNat / 2 ^ (32 * i))

/-- The handle's words land in the launching lane's pair. -/
theorem Ctx.reg_regRes (x : Ctx) {l reg : Nat} (hl : l < 64) (hreg : reg + 1 < 256) (v : Nat) {i : Nat} (hi : i < 2) :
    ((regRes l reg v 2).foldl Ctx.applyRes x).reg l (reg + i) = BitVec.ofNat 32 (v / 2 ^ (32 * i)) := by
  rw [Ctx.reg_foldl_applyRes _ (resOk_regRes hl 2 reg v (by omega)) l _ (by omega), resReg_regRes, if_pos ⟨rfl, by omega, by omega⟩, Nat.add_sub_cancel_left]

theorem Launching.submit {line reg : Nat} {bs : List Byte} (h : Launching (s.ctx c) path hw hdr idx l w) (halive : s.alive c = true)
    (hidle : (s.launchLine (line / 16 % 64) (line % 16)).pending = false) (hgo : recNat bs 120 8 ≠ 0) (hreg : reg + 1 < 256) :
    Submits s (s.submit c l line reg bs path) c path hw hdr idx l line reg bs := by
  rw [State.submit_idle hidle hgo]
  generalize hv : (handleOf (line / 16 % 64) (line % 16) (s.launchLine (line / 16 % 64) (line % 16)).nextSeq false).toNat = v
  generalize hrs : regRes l reg v 2 = rs
  have hctx : ((s.lineSubmitted (line / 16 % 64) (line % 16) bs).land c rs).ctx c = rs.foldl Ctx.applyRes (s.ctx c) := by
    unfold State.land
    rw [if_pos (show (s.lineSubmitted (line / 16 % 64) (line % 16) bs).alive c = true from halive), State.ctx_modCtx_same]
    rfl
  have hrest := State.land_rest (s.lineSubmitted (line / 16 % 64) (line % 16) bs) c rs
  generalize (s.lineSubmitted (line / 16 % 64) (line % 16) bs).land c rs = u at hctx hrest
  have hu : Launching (u.ctx c) path hw hdr idx l w := hctx ▸ h.applyRes rs
  obtain ⟨x, hx, hg, hstays⟩ := hu.doneWaiting
  have honly : OnlyCtx c u (u.doneWaiting c (1#64 <<< l) path) :=
    ((OnlyCtx.modCtx c u _).trans (OnlyCtx.setCtx c _ _)).trans hstays.only
  have hlane := fun k => hstays.stays.lanes k
  have hregs := hstays.stays.sameRegs.g
  rw [State.ctx_setCtx_same] at hlane hregs
  have hla : u.la = (s.lineSubmitted (line / 16 % 64) (line % 16) bs).la := (congrArg State.la hrest :)
  refine ⟨?_, ?_, fun k => ?_, fun k => ?_, fun k hk => ?_, fun i hi => ?_⟩
  · unfold State.launchLine
    rw [show (u.doneWaiting c (1#64 <<< l) path).la = u.la from (congrArg State.la honly.rest :), hla]
    exact State.launchLine_putLaunchLine_same _ _ _ _
  · rw [honly.stuck]
    exact (congrArg State.stuck hrest :)
  · rw [(congrArg Lane.fails (hlane k) :), Ctx.passLanes_fails]
    exact hx.settled k
  · rw [(congrArg Lane.wait (hlane k) :)]
    exact (hx.passes k).1
  · rw [(congrArg Lane.hdr (hlane k) :), (congrArg Lane.idx (hlane k) :)]
    exact (hx.passes k).2 hk
  · have hsame : ((u.doneWaiting c (1#64 <<< l) path).ctx c).g = (u.ctx c).g := by
      rw [hregs, ← hg]
      exact (congrArg Ctx.g (Ctx.modLanes_rest x (lanesOf path) fun l => Lane.passed (x.pcAfter l)) :)
    unfold Ctx.reg
    rw [hsame, hctx, ← hrs, hv]
    exact Ctx.reg_regRes _ (mem_lanesOf.mp h.mine).1 hreg v hi

end Submit

/-! ### The record read (R139 step 2) -/

/-- The sixteen words of a record at its place. -/
def recordParts (pa : Nat) : List EAcc := (List.range 16).map fun i => ⟨.ok (pa + 8 * i) 0, 8, .nc, false⟩

/-- Sixteen translated words touch no page. -/
theorem State.touchAll_recordParts (s : State) (pa : Nat) : (s.touchAll ((recordParts pa).map EAcc.found)).1 = s := rfl

/-- No lane of a launching path waits for a region's retirement. -/
theorem Launching.ne_retire {x : Ctx} {path hw hdr : Word64} {idx l va line reg : Nat} {r : Option (List Byte)}
    (h : Launching x path hw hdr idx l (.launch va line reg r path)) (k n : Nat) : (x.lane k).wait ≠ .retire n := by
  rcases h.wait_cases k with ⟨-, hk⟩ | hk | hk <;> rw [hk] <;> exact nofun

/-- A record whose words are all at hand is read, and nothing but the memory system and the drift regions differs. -/
theorem State.readRecord_ready {s v z : State} {c : CtxId} {l va line reg pa tgt : Nat} {path : Word64} (hal : va % 128 = 0)
    (hcheck : s.checkVirt (s.who c) 0 va .read = (v, .ok pa tgt)) (hstop : v.stopped pa = false)
    (hready : v.engineReady (recordOp c l) true (.core (v.cacheOf c)) true (recordParts pa) = (z, true)) :
    ∃ y, z.Asks c y ∧ s.readRecord c l va line reg path = y.modCtx c fun x => x.modLane l fun w => { w with
      wait := .launch va line reg
        (some ((z.engineReads (recordOp c l) (.core (v.cacheOf c)) (recordParts pa)).2.flatMap (leBytes 8))) path } := by
  refine ⟨((z.engineReads (recordOp c l) (.core (v.cacheOf c)) (recordParts pa)).1.engineDone (recordOp c l)).acquire c .module,
    ((State.Asks.of_memory (State.OnlyMemory.engineReads_core z _ _ _)).trans (State.Asks.engineDone _ _)).trans
      (State.Asks.of_memory (State.OnlyMemory.acquire _ c _)), ?_⟩
  unfold State.readRecord
  dsimp only
  rw [if_neg (fun hne => hne hal), hcheck]
  dsimp only
  rw [hstop, Bool.false_and, if_neg Bool.false_ne_true]
  unfold recordParts at hready
  rw [hready]
  exact if_pos rfl

section Run
variable {s v z : State} {c : CtxId} {path hw hdr : Word64} {idx l va line reg pa tgt : Nat}

/-- What a record's read leaves of the machine: nothing but the memory system and the drift regions differs. -/
theorem State.asks_engineReady (hcheck : s.checkVirt (s.who c) 0 va .read = (v, .ok pa tgt))
    (hready : v.engineReady (recordOp c l) true (.core (v.cacheOf c)) true (recordParts pa) = (z, true)) : s.Asks c z := by
  have hv := State.OnlyMemory.checkVirt s (s.who c) 0 va .read
  have hz := State.Asks.engineReady (c := c) v (recordOp c l) true (.core (v.cacheOf c)) true (recordParts pa)
    (v.touchAll_recordParts pa)
  rw [hcheck] at hv
  rw [hready] at hz
  exact (State.Asks.of_memory hv).trans hz

/-- A launching lane whose record is at hand and whose line is Idle submits it: one turn reads the record, the next submits it. -/
theorem Launching.run (h : Launching (s.ctx c) path hw hdr idx l (.launch va line reg none path)) (halive : s.alive c = true)
    (hal : va % 128 = 0) (hcheck : s.checkVirt (s.who c) 0 va .read = (v, .ok pa tgt)) (hstop : v.stopped pa = false)
    (hready : v.engineReady (recordOp c l) true (.core (v.cacheOf c)) true (recordParts pa) = (z, true))
    {bs : List Byte} (hbs : bs = (z.engineReads (recordOp c l) (.core (v.cacheOf c)) (recordParts pa)).2.flatMap (leBytes 8))
    (hidle : (z.launchLine (line / 16 % 64) (line % 16)).pending = false) (hgo : recNat bs 120 8 ≠ 0) (hreg : reg + 1 < 256) :
    Submits z (State.runLaunch c 128 s) c path hw hdr idx l line reg bs := by
  obtain ⟨y, hy, hread⟩ := State.readRecord_ready (line := line) (reg := reg) (path := path) hal hcheck hstop hready
  rw [← hbs] at hread
  have hyctx : y.ctx c = s.ctx c := ((State.asks_engineReady hcheck hready).trans hy).agent (h.ne_retire 0)
  obtain ⟨u, hu⟩ : ∃ u, (y.modCtx c fun x => x.modLane l fun w => { w with wait := .launch va line reg (some bs) path }) = u := ⟨_, rfl⟩
  have huctx : u.ctx c = (s.ctx c).modLane l fun w => { w with wait := .launch va line reg (some bs) path } := by
    rw [← hu, State.ctx_modCtx_same, hyctx]
  have hturn : Launching (u.ctx c) path hw hdr idx l (.launch va line reg (some bs) path) := huctx ▸ h.setWait _
  have hline : u.launchLine (line / 16 % 64) (line % 16) = z.launchLine (line / 16 % 64) (line % 16) := by
    unfold State.launchLine
    rw [← hu, show (y.modCtx c _).la = z.la from hy.la]
  have hualive : u.alive c = true := by
    show (u.ctx c).live = true
    rw [huctx]
    exact halive
  have hsubmit := hturn.submit (line := line) (reg := reg) (bs := bs) hualive (by rw [hline]; exact hidle) hgo hreg
  have hrun : State.runLaunch c 128 s = u.submit c l line reg bs path :=
    calc State.runLaunch c 128 s = State.runLaunch c 127 u :=
          State.runLaunch_turn h (hread.trans hu) (by rw [hturn.self]; exact nofun)
      _ = State.runLaunch c 126 (u.submit c l line reg bs path) :=
          State.runLaunch_turn hturn rfl (by rw [hsubmit.awake]; exact nofun)
      _ = u.submit c l line reg bs path := State.runLaunch_done hsubmit.awake 126
  rw [hrun]
  obtain ⟨hpending, hstuck, hsettled, hawake, hmoved, hhandle⟩ := hsubmit
  rw [hline] at hpending hhandle
  exact ⟨hpending, hstuck.trans (by rw [← hu]; exact hy.stuck), hsettled, hawake, hmoved, hhandle⟩

end Run

/-! ### The word (R139) -/

/-- A launching lane's wait, and its peers'. -/
def Issue.launchWait (is : Issue) (va line reg k : Nat) : Wait :=
  if is.act.getLsbD k then .launch va line reg none is.path else .peers is.path

/-- The path of a launching word, blocked. -/
theorem launching_block {s : State} {is : Issue} {l va line reg : Nat} (hact : is.act = 1#64 <<< l) (hl : l < 64) (hmine : l ∈ lanesOf is.path)
    (hsettled : ∀ k, ((s.ctx is.ctx).lane k).fails = []) (hnone : ∀ k, ((s.ctx is.ctx).lane k).wait = .none)
    (hplace : ∀ k ∈ lanesOf is.path, ((s.ctx is.ctx).lane k).hdr = is.hdr ∧ ((s.ctx is.ctx).lane k).idx = is.idx) :
    Launching ((s.block is is.path (is.launchWait va line reg)).ctx is.ctx) is.path s.sel.hw is.hdr is.idx l
      (.launch va line reg none is.path) := by
  have hbit : ∀ k ∈ lanesOf is.path, is.act.getLsbD k = decide (k = l) := fun k hk => by
    have hk64 := (mem_lanesOf.mp hk).1
    have hmem : k ∈ lanesOf is.act ↔ k = l := by rw [hact, lanesOf_one_shift hl, List.mem_singleton]
    rw [Bool.eq_iff_iff, decide_eq_true_iff, ← hmem, mem_lanesOf]
    exact ⟨fun h => ⟨hk64, h⟩, fun h => h.2⟩
  have hlane : ∀ k, ((s.block is is.path (is.launchWait va line reg)).ctx is.ctx).lane k = if k ∈ lanesOf is.path
      then { (s.ctx is.ctx).lane k with hw := some s.sel.hw, wait := is.launchWait va line reg k } else (s.ctx is.ctx).lane k := fun k => by
    unfold State.block
    rw [State.ctx_modCtx_same, Ctx.lane_modLanes _ _ _ (nodup_lanesOf _)]
  refine ⟨fun k => ?_, fun k hk => ?_, hmine, ?_, fun k hk hne => ?_, fun k hk => ?_⟩ <;> rw [hlane]
  · split <;> exact hsettled k
  · rw [if_pos hk]
    exact ⟨rfl, hplace k hk⟩
  · rw [if_pos hmine]
    exact if_pos (by rw [hbit l hmine]; exact decide_eq_true rfl)
  · rw [if_pos hk]
    exact if_neg (by rw [hbit k hk]; simp [hne])
  · rw [if_neg hk]
    exact hnone k

theorem State.block_live (s : State) (is : Issue) (m : Word64) (f : Nat → Wait) :
    ((s.block is m f).ctx is.ctx).live = (s.ctx is.ctx).live := by
  unfold State.block
  rw [State.ctx_modCtx_same]
  exact (congrArg Ctx.live (Ctx.modLanes_rest (s.ctx is.ctx) (lanesOf m) fun l y => { y with hw := some s.sel.hw, wait := f l }) :)

/-- A released word with one launching lane blocks its path, and the launch is carried on. -/
theorem launchEff_released {t : TWord} {is : Issue} {s : State} {l g : Nat} (hrel : s.released is.ctx is.act .module = true)
    (hd : t.d = .g g) (hact : is.act = 1#64 <<< l) (hl : l < 64) :
    launchEff t is s = some (.held (State.runLaunch is.ctx 128 ((s.block is is.path
      (is.launchWait (is.src s true t.a l) (is.src s false t.b l % 1024) g)).orphanQueries (recordOp is.ctx l))) is.path) := by
  have hwait : (fun k => if is.act.getLsbD k then Wait.launch (is.src s true t.a k) (is.src s false t.b k % 1024) g none is.path
      else .peers is.path) = is.launchWait (is.src s true t.a l) (is.src s false t.b l % 1024) g := funext fun k => by
    unfold Issue.launchWait
    by_cases hk : is.act.getLsbD k = true
    · have hmem : k ∈ lanesOf is.act := mem_lanesOf.mpr ⟨BitVec.lt_of_getLsbD hk, hk⟩
      rw [hact, lanesOf_one_shift hl, List.mem_singleton] at hmem
      rw [hmem]
    · rw [if_neg hk, if_neg hk]
  unfold launchEff
  rw [hrel, hd]
  dsimp only
  rw [hwait, hact, lanesOf_one_shift hl]
  rfl

/-- Settles O36: the lane's turn reads its record, its next turn submits it, and then no launch waits. -/
theorem launchSubmits : Obligations.LaunchSubmits := by
  unfold Obligations.LaunchSubmits
  intro t s r l g v pa tgt z hr hwf hm hd is hact hl hrel halive hnone hplace va line col s1 view parts hal hcheck hstop hready x rec0 go
    hidle hgo q
  have hmine : l ∈ lanesOf is.path := by
    refine mem_lanesOf_guardMask (r := r) (show l ∈ lanesOf is.act from ?_)
    rw [hact, lanesOf_one_shift hl]
    exact List.mem_singleton.mpr rfl
  have hpair : g + 1 < 256 := by
    have hfits := fits_of_row (n := 2) hr hwf (d := t.d) (by cases hr; rfl) (.inl (by cases hr; exact ⟨rfl, le_rfl⟩)) g hd
    omega
  have hblock := launching_block (va := va) (line := is.src s false t.b l % 1024) (reg := g) hact hl hmine hm.settled hnone hplace
  have horphan := State.Asks.orphanQueries (c := is.ctx)
    (s.block is is.path (is.launchWait va (is.src s false t.b l % 1024) g)) (recordOp is.ctx l)
  have hs1 : Launching (s1.ctx is.ctx) is.path s.sel.hw is.hdr is.idx l
      (.launch va (is.src s false t.b l % 1024) g none is.path) := (horphan.agent (hblock.ne_retire 0)) ▸ hblock
  have hcol : is.src s false t.b l % 1024 / 16 % 64 = col := Nat.mod_eq_of_lt (by omega)
  have hnum : is.src s false t.b l % 1024 % 16 = line := Nat.mod_mod_of_dvd _ (by decide)
  have hs1alive : s1.alive is.ctx = true :=
    ((congrArg Ctx.live (horphan.agent (hblock.ne_retire 0))).trans (State.block_live s is _ _)).trans halive
  have hrun := hs1.run hs1alive hal hcheck hstop hready (bs := rec0) rfl (by rw [hcol, hnum]; exact hidle) hgo hpair
  have hstuck : (State.runLaunch is.ctx 128 s1).stuck = none := by
    rw [hrun.stuck, (State.asks_engineReady hcheck hready).stuck]
    exact horphan.stuck.trans hm.running
  have hguard : s.guardMask r ≠ 0 := fun e => by
    have hmem : l ∈ lanesOf is.act := by rw [hact, lanesOf_one_shift hl]; exact List.mem_singleton.mpr rfl
    rw [show is.act = 0 from e, lanesOf_zero] at hmem
    cases hmem
  obtain ⟨u, hexec, hpass⟩ := exec_passes (lat := 0) (eff := launchEff t) (b := false) rfl hr hm hguard
    (launchEff_released hrel hd hact hl) hrun.settled hstuck
  have hpending := hrun.pending
  have hhandle := hrun.handle
  rw [hcol, hnum] at hpending hhandle
  refine ⟨u, hexec, ?_, fun i hi => ?_, fun k hk hkp => ?_⟩
  · unfold State.launchLine
    rw [(congrArg State.la hpass.only.rest :)]
    exact hpending
  · unfold Ctx.reg
    rw [hpass.regs.g]
    exact hhandle i hi
  · have hmem : k ∈ lanesOf is.path := mem_lanesOf.mpr ⟨hk, hkp⟩
    have hawake : ((u.ctx is.ctx).lane k).wait = .none := (congrArg Lane.wait (hpass.kept.lanes k) :).trans (hrun.awake k)
    rw [hpass.moved k hk, if_neg fun h => by rw [hkp] at h; exact Bool.noConfusion h.2]
    exact ⟨hrun.moved k hmem, hawake⟩

end Sys2Proof.Machine
end

section
/-! O27: transfers of control (06 R143, R157-R159): where the threads of an issue with transfers stand, and what each word's effect answers. -/

set_option Elab.async false

namespace Sys2Proof.Machine

/-! ### The end of an issue whose active lanes transfer (06 R143) -/

/-- A lane is among those that go somewhere. -/
theorem any_map_fst_eq {α : Type} (ls : List Nat) (f : Nat → α) (l : Nat) :
    ((ls.map fun k => (k, f k)).any fun j => decide (j.1 = l)) = ls.contains l := by
  rw [List.any_map, List.contains_eq_any_beq]
  exact congrArg (List.any ls) (funext fun k => (decide_eq_decide.mpr eq_comm : decide (k = l) = decide (l = k)))

/-- What a word leaves whose active lanes transfer, each to its own header, and whose other lanes pass. -/
def Issue.transfers (is : Issue) (s : State) (dst : Nat → Word64) (split : Bool) : Done :=
  ⟨s, 0, (lanesOf is.act).map fun l => (l, dst l), split⟩

/-- A thread at the header it transfers to, with its bubble. -/
def Lane.transferred (x : Lane) (hdr : Word64) (hold : Option Hold) (ready : Nat) : Lane :=
  { x.pass (hdr, 0) hold with ready := ready }

/-- A thread changed only in its place, its holds and its bubble. -/
def Lane.Moved (x y : Lane) : Prop :=
  { y with hdr := x.hdr, idx := x.idx, fresh := x.fresh, rewound := x.rewound, holds := x.holds, ready := x.ready } = x

theorem Lane.Moved.kept {x y : Lane} (h : x.Moved y) : x.Kept y :=
  (congrArg (fun z : Lane => { z with p := x.p, sub := x.sub, heldRcv := x.heldRcv, heldRb := x.heldRb }) h :)

theorem Lane.kept_of_holds {x y : Lane} (h : { y with sub := x.sub, heldRcv := x.heldRcv, heldRb := x.heldRb } = x) : x.Kept y :=
  (congrArg (fun z : Lane => { z with p := x.p, hdr := x.hdr, idx := x.idx, fresh := x.fresh, ready := x.ready, holds := x.holds,
                                      rewound := x.rewound }) h :)

theorem Ctx.Stays.kept {x y : Ctx} (h : Ctx.Stays x y) : Ctx.Kept x y :=
  ⟨(congrArg (fun z : Ctx => { z with g := x.g, e := x.e, fp := x.fp, wbs := x.wbs }) h.rest :),
    fun l => Lane.kept_of_holds (h.lanes l), h.slots⟩

section Transfer
variable (is : Issue) (lat : Nat) (s : State) (dst : Nat → Word64) (split : Bool)

/-- The lanes of the path that do not transfer pass the word. -/
theorem Issue.mem_falls_transfers (l : Nat) : l ∈ is.falls (is.transfers s dst split) ↔ l ∈ lanesOf is.path ∧ l ∉ lanesOf is.act := by
  unfold Issue.falls Issue.transfers
  simp only [any_map_fst_eq]
  simp

/-- The agent's threads moved: first those that pass, then those that transfer. -/
theorem Issue.passed_transfers : is.passed lat (is.transfers s dst split) =
    ((s.ctx is.ctx).modLanes (is.falls (is.transfers s dst split)) fun l x =>
      x.pass (nextPc is.h is.hdr is.idx) (is.hold s lat l)).modLanes (lanesOf is.act) fun l x =>
        x.transferred (dst l) (is.hold s lat l) (s.clk is.ctx + 3) :=
  List.foldl_map

theorem Issue.passed_transfers_lane (l : Nat) : (is.passed lat (is.transfers s dst split)).lane l =
    if l ∈ lanesOf is.act then ((s.ctx is.ctx).lane l).transferred (dst l) (is.hold s lat l) (s.clk is.ctx + 3)
    else if l ∈ lanesOf is.path then ((s.ctx is.ctx).lane l).pass (nextPc is.h is.hdr is.idx) (is.hold s lat l)
    else (s.ctx is.ctx).lane l := by
  rw [Issue.passed_transfers, Ctx.lane_modLanes _ _ _ (nodup_lanesOf _),
    Ctx.lane_modLanes _ (is.falls _) _ ((nodup_lanesOf _).filter _)]
  simp only [Issue.mem_falls_transfers]
  by_cases hact : l ∈ lanesOf is.act
  · simp only [hact, not_true, and_false, if_true, if_false]
  · simp only [hact, not_false_eq_true, and_true, if_false]

theorem Issue.passed_transfers_moved (l : Nat) :
    ((s.ctx is.ctx).lane l).Moved ((is.passed lat (is.transfers s dst split)).lane l) := by
  rw [Issue.passed_transfers_lane]
  split
  · rfl
  · split <;> rfl

theorem Issue.passed_transfers_rest : { is.passed lat (is.transfers s dst split) with lanes := (s.ctx is.ctx).lanes } = s.ctx is.ctx := by
  rw [Issue.passed_transfers]
  exact (congrArg (fun x : Ctx => { x with lanes := (s.ctx is.ctx).lanes }) (Ctx.modLanes_rest _ _ _)).trans (Ctx.modLanes_rest _ _ _)

theorem Issue.passed_transfers_kept : Ctx.Kept (s.ctx is.ctx) (is.passed lat (is.transfers s dst split)) := by
  have hrest := is.passed_transfers_rest lat s dst split
  refine ⟨?_, fun l => (is.passed_transfers_moved lat s dst split l).kept, fun n _ => ?_⟩
  · generalize s.ctx is.ctx = c at hrest ⊢
    exact congrArg (fun x : Ctx => { x with g := c.g, e := c.e, fp := c.fp, wbs := c.wbs, prio := c.prio, rcv := c.rcv, subs := c.subs,
                                            b := c.b }) hrest
  · unfold Ctx.recSlot
    rw [(congrArg Ctx.b hrest :)]

theorem Issue.passed_transfers_regs : Ctx.SameRegs (s.ctx is.ctx) (is.passed lat (is.transfers s dst split)) := by
  have hrest := is.passed_transfers_rest lat s dst split
  exact ⟨(congrArg Ctx.g hrest :), (congrArg Ctx.e hrest :), (congrArg Ctx.fp hrest :), (congrArg Ctx.wbs hrest :),
    fun l => (congrArg Lane.p (is.passed_transfers_moved lat s dst split l) :)⟩

variable (hsub : ∀ l ∈ lanesOf is.act, l ∈ lanesOf is.path) (hsettled : ∀ l, ((s.ctx is.ctx).lane l).fails = [])
include hsub hsettled

/-- The end of an issue with transfers: the active lanes stand at their headers and wait out their bubbles, the others are past the word. -/
theorem jumps_finish : Jumps s (finish is lat (is.transfers s dst split)) is
    (fun l => if is.act.getLsbD l then some (dst l) else none) 0 := by
  obtain ⟨honly, hstays⟩ := finish_stays is lat (is.transfers s dst split) fun l =>
    (congrArg Lane.fails (is.passed_transfers_moved lat s dst split l) :).trans (hsettled l)
  generalize finish is lat (is.transfers s dst split) = t at honly hstays
  have hlane := is.passed_transfers_lane lat s dst split
  have hact : ∀ {l}, l < 64 → (l ∈ lanesOf is.act ↔ is.act.getLsbD l = true) := fun h64 => by simp [mem_lanesOf, h64]
  have hpath : ∀ {l}, l < 64 → (l ∈ lanesOf is.path ↔ is.path.getLsbD l = true) := fun h64 => by simp [mem_lanesOf, h64]
  refine ⟨honly, (is.passed_transfers_kept lat s dst split).trans hstays.kept,
    (is.passed_transfers_regs lat s dst split).trans hstays.sameRegs, fun l h64 => ?_, fun l h h64 _ _ hto => ?_⟩
  · have hplace : (((t.ctx is.ctx).lane l).hdr, ((t.ctx is.ctx).lane l).idx) =
        (((is.passed lat (is.transfers s dst split)).lane l).hdr, ((is.passed lat (is.transfers s dst split)).lane l).idx) :=
      (congrArg (fun x : Lane => (x.hdr, x.idx)) (hstays.lanes l) :)
    rw [hplace, hlane]
    by_cases ha : is.act.getLsbD l = true
    · have hp : is.path.getLsbD l = true := (hpath h64).mp (hsub l ((hact h64).mpr ha))
      rw [if_pos ((hact h64).mpr ha), if_pos ⟨hp, BitVec.getLsbD_zero⟩, if_pos ha]
      rfl
    · rw [if_neg (mt (hact h64).mp ha), if_neg ha]
      by_cases hp : is.path.getLsbD l = true
      · rw [if_pos ((hpath h64).mpr hp), if_pos ⟨hp, BitVec.getLsbD_zero⟩]
        rfl
      · rw [if_neg (mt (hpath h64).mp hp), if_neg fun h => hp h.1]
  · have ha : is.act.getLsbD l = true := by
      by_contra ha
      rw [if_neg ha] at hto
      cases hto
    have hready : ((t.ctx is.ctx).lane l).ready = ((is.passed lat (is.transfers s dst split)).lane l).ready :=
      (congrArg Lane.ready (hstays.lanes l) :)
    rw [hready, hlane, if_pos ((hact h64).mpr ha)]
    rfl

end Transfer

/-- A word whose effect transfers its active lanes, wherever its condition holds. -/
theorem transfers_of {i : Instr} {lat : Nat} {eff : Issue → State → Option Done} {pre : Issue → State → Prop} {u : Issue → State → State}
    {tgt : Issue → State → Nat → Option Word64} (dst : Issue → State → Nat → Word64) (split : Bool)
    (he : ∀ s, exec i s = issueWith i lat eff s)
    (hk : ∀ (is : Issue) (s : State) l, (((u is s).ctx is.ctx).lane l).fails = ((s.ctx is.ctx).lane l).fails)
    (heff : ∀ is s, pre is s → eff is s = some (is.transfers (u is s) (dst is s) split))
    (htgt : ∀ is s, pre is s → ∀ l, (if is.act.getLsbD l then some (dst is s l) else none) = tgt is s l) :
    Transfers i pre u tgt fun _ _ => 0 := by
  intro s r hr _ hm ha hp hu
  have hjumps := jumps_finish (s.issued r) lat (u (s.issued r) s) (dst (s.issued r) s) split (fun _ => mem_lanesOf_guardMask)
    fun l => (hk _ s l).trans (hm.settled l)
  rw [funext (htgt _ s hp)] at hjumps
  rw [he, issueWith_go hr hm, if_neg (act_ne_zero ha), heff _ s hp]
  dsimp only
  rw [ret_next (hjumps.only.stuck.trans hu)]
  exact ⟨_, rfl, hjumps⟩

/-! ### What the words' effects answer (06 R157-R159) -/

section Effects
variable {is : Issue} {s : State}

theorem branchEff_transfers (off : Nat) (split : Bool) : branchEff off split is s = some (is.transfers s (fun _ => is.target off) split) := rfl

theorem indirectEff_inRange {o : Opd} (split : Bool) (h : ∀ l ∈ lanesOf is.act, is.src s true o l < 2 ^ 56) :
    indirectEff o split is s = some (is.transfers s (fun l => BitVec.ofNat 64 (is.src s true o l)) split) := by
  have hbad : ((lanesOf is.act).map fun l => (l, is.src s true o l)).filter (fun j => decide (2 ^ 56 ≤ j.2)) = [] := by
    simpa [List.filter_eq_nil_iff] using h
  have hok : ((lanesOf is.act).map fun l => (l, is.src s true o l)).filter (fun j => decide (j.2 < 2 ^ 56)) =
      (lanesOf is.act).map fun l => (l, is.src s true o l) := by
    simpa [List.filter_eq_self] using h
  have hmask : (maskOf fun l => ([] : List (Nat × Nat)).any fun j => decide (j.1 = l)) = 0 := by decide
  unfold indirectEff
  dsimp only
  rw [hbad, hok, hmask, List.map_map]
  rfl

/-- Every active lane's address is beyond the address range: all take the translation trap, with the line of the lowest. -/
theorem indirectEff_beyond {o : Opd} (split : Bool) (ha : is.act ≠ 0) (h : ∀ l ∈ lanesOf is.act, 2 ^ 56 ≤ is.src s true o l) :
    indirectEff o split is s = some ⟨s.takeTrap is.ctx is.act ⟨0x05, 0, 255, BitVec.ofNat 64 (is.src s true o is.first / 128 * 128), false,
      false⟩ is.h is.hdr is.idx, is.act, [], split⟩ := by
  have hbad : ((lanesOf is.act).map fun l => (l, is.src s true o l)).filter (fun j => decide (2 ^ 56 ≤ j.2)) =
      (lanesOf is.act).map fun l => (l, is.src s true o l) := by
    simpa [List.filter_eq_self] using h
  have hok : ((lanesOf is.act).map fun l => (l, is.src s true o l)).filter (fun j => decide (j.2 < 2 ^ 56)) = [] := by
    simpa [List.filter_eq_nil_iff] using h
  have hmask : (maskOf fun l => ((lanesOf is.act).map fun l => (l, is.src s true o l)).any fun j => decide (j.1 = l)) = is.act := by
    simp only [any_map_fst_eq]
    exact maskOf_contains_lanesOf is.act
  obtain ⟨rest, hlanes⟩ : ∃ rest, lanesOf is.act = is.first :: rest :=
    List.head?_eq_some_iff.mp (lowestLane_eq_first ha)
  unfold indirectEff
  dsimp only
  rw [hbad, hok, hmask, hlanes]
  rfl

/-- The link goes to the active lanes' destinations, in latency class A (R159). -/
theorem linked_transfers (d : Dst) (dst : Nat → Word64) (split : Bool) : linked d is (some (is.transfers s dst split)) =
    some (is.transfers (s.gives is 4 d 2 fun _ => (is.hdr + BitVec.ofNat 64 is.h.size).toNat) dst split) := by
  unfold linked Issue.transfers State.gives
  simp only [Option.map_some, List.flatMap_map]

end Effects

/-- Every active lane's pair names an address of the address range. -/
def Issue.InRange (o : Opd) (is : Issue) (s : State) : Prop := ∀ l ∈ lanesOf is.act, is.src s true o l < 2 ^ 56

/-- The header an active lane's pair names, where it is an address of the range. -/
def Issue.pairTarget (o : Opd) (is : Issue) (s : State) (l : Nat) : Option Word64 :=
  if is.act.getLsbD l = true ∧ is.src s true o l < 2 ^ 56 then some (BitVec.ofNat 64 (is.src s true o l)) else none

theorem Issue.pairTarget_inRange {o : Opd} {is : Issue} {s : State} (h : is.InRange o s) (l : Nat) :
    (if is.act.getLsbD l then some (BitVec.ofNat 64 (is.src s true o l)) else none) = is.pairTarget o s l := by
  by_cases ha : is.act.getLsbD l = true
  · rw [if_pos ha]
    exact (if_pos ⟨ha, h l (mem_lanesOf.mpr ⟨BitVec.lt_of_getLsbD ha, ha⟩)⟩).symm
  · rw [if_neg ha]
    exact (if_neg fun hc => ha hc.1).symm

/-! ### The words -/

section Words
variable {i : Instr} {o : Opd} {split : Bool}

theorem transfers_branch {off : Nat} (he : ∀ s, exec i s = issueWith i 0 (branchEff off split) s) :
    Transfers i always (fun _ s => s) (fun is _ l => if is.act.getLsbD l then some (is.target off) else none) fun _ _ => 0 :=
  transfers_of _ split he (fun _ _ _ => rfl) (fun _ _ _ => branchEff_transfers off split) fun _ _ _ _ => rfl

theorem transfers_call (q : QWord) (off : Nat) : Transfers (.call q off) always
    (fun is s => s.gives is 4 q.d 2 fun _ => (is.hdr + BitVec.ofNat 64 is.h.size).toNat)
    (fun is _ l => if is.act.getLsbD l then some (is.target off) else none) fun _ _ => 0 :=
  transfers_of _ true (fun _ => rfl) (fun is s l => State.SameFails.gives s is 4 q.d 2 _ l)
    (fun is _ _ => (congrArg (linked q.d is) (branchEff_transfers off true)).trans (linked_transfers q.d _ true)) fun _ _ _ _ => rfl

theorem transfers_indirect (he : ∀ s, exec i s = issueWith i 0 (indirectEff o split) s) :
    Transfers i (Issue.InRange o) (fun _ s => s) (Issue.pairTarget o) fun _ _ => 0 :=
  transfers_of _ split he (fun _ _ _ => rfl) (fun _ _ => indirectEff_inRange split) fun _ _ => Issue.pairTarget_inRange

theorem transfers_callx (t : TWord) : Transfers (.callx t) (Issue.InRange t.a)
    (fun is s => s.gives is 4 t.d 2 fun _ => (is.hdr + BitVec.ofNat 64 is.h.size).toNat) (Issue.pairTarget t.a) fun _ _ => 0 :=
  transfers_of _ true (fun _ => rfl) (fun is s l => State.SameFails.gives s is 4 t.d 2 _ l)
    (fun is _ h => (congrArg (linked t.d is) (indirectEff_inRange true h)).trans (linked_transfers t.d _ true))
    fun _ _ => Issue.pairTarget_inRange

/-- An indirect transfer of lanes beyond the address range traps all of them at the word. -/
theorem indirect_traps {s : State} {r : Row} (he : exec i s = issueWith i 0 (indirectEff o split) s) (hr : i.row = some r)
    (hm : MayIssue s r) (ha : s.guardMask r ≠ 0) (hbeyond : ∀ l ∈ lanesOf (s.issued r).act, 2 ^ 56 ≤ (s.issued r).src s true o l) :
    let is := s.issued r
    let u := s.takeTrap is.ctx is.act ⟨0x05, 0, 255, BitVec.ofNat 64 (is.src s true o is.first / 128 * 128), false, false⟩ is.h is.hdr is.idx
    u.stuck = none → ∃ t, exec i s = .next t ∧ Passes u t is is.act :=
  fun hu => exec_passes he hr hm ha (indirectEff_beyond split (act_ne_zero ha) hbeyond)
    (fun l => (State.SameFails.takeTrap s _ _ _ _ _ _ _ l).trans (hm.settled l)) hu

end Words

/-- Settles O27, word by word: the transfers by what the end of their issue does (`jumps_finish`), the addresses beyond the range by their
trap. -/
theorem transfersOfControl : Obligations.TransfersOfControl := by
  unfold Obligations.TransfersOfControl
  refine ⟨fun q off => transfers_branch fun _ => rfl, fun q off => transfers_branch fun _ => rfl, transfers_call,
    fun t => transfers_indirect fun _ => rfl, fun t => transfers_indirect fun _ => rfl, transfers_callx, ?_⟩
  rintro i ⟨t, rfl | rfl⟩ s r hr - hm ha is hbeyond line u hu
  case inl => cases hr; exact indirect_traps rfl rfl hm ha hbeyond hu
  case inr => cases hr; exact indirect_traps rfl rfl hm ha hbeyond hu

end Sys2Proof.Machine
end

section
/-! O28: nop, yield, trap and brk (06 R160, R162; 19 R415; 20 R432). -/

set_option Elab.async false

namespace Sys2Proof.Machine

/-! ### The hold list keeps failed operations -/

theorem State.SameFails.addHold (s : State) (e : HoldEntry) : s.SameFails (s.addHold e) := of_ctxs rfl

theorem State.SameFails.debugHold (s : State) (c : CtxId) (gid : Nat) (m : Word64) (code : Nat) (hdr : Word64) (idx : Nat)
    (atHeader : Bool) : s.SameFails (s.debugHold c gid m code hdr idx atHeader) := by
  refine ite (gangTrap s c m _ hdr idx) ?_
  have hpark := park s c m ⟨0x0C, code, 255, 0, false, atHeader⟩ hdr idx
  generalize s.park c m ⟨0x0C, code, 255, 0, false, atHeader⟩ hdr idx = p at hpark ⊢
  obtain ⟨s1, _ | j⟩ := p
  · exact gangTrap s c m _ hdr idx
  · exact hpark.trans (addHold s1 _)

/-! ### A column core's thread at a breakpoint (20 R432; log 27) -/

section HoldCore
variable {s : State} (n code : Nat) (h : Header) (hdr : Word64) (idx : Nat)

theorem State.holdCore_room (hroom : s.se.dhold.length < 64) : s.holdCore n code h hdr idx =
    (s.modCtx (.cc n) fun c => c.modLane 0 fun y => { y with hw := some s.sel.hw, stalled := some (0x0C, false) }).addHold
      ⟨n * 2 ^ 26, 0, code, 1, hdr, idx⟩ := if_neg (Nat.not_le.mpr hroom)

theorem State.holdCore_full (hfull : 64 ≤ s.se.dhold.length) :
    s.holdCore n code h hdr idx = s.takeTrap (.cc n) 1 ⟨0x0C, code, 255, 0, false, false⟩ h hdr idx := if_pos hfull

end HoldCore

/-! ### The words -/

theorem does_nop (t : TWord) : Does (.nop t) always fun _ s => s :=
  doesBut_of_fails_kept (fun _ => rfl) (fun _ _ _ => rfl) fun _ _ _ _ => rfl

/-- The gang of a yield, the youngest of its class; a column core has no age (R160). -/
def State.yielded (s : State) (c : CtxId) : State :=
  if c.isCC then s else s.modCtx c fun x => { x with age := 2 * s.clk c + 1 }

theorem State.yielded_fails (s : State) (c : CtxId) : s.SameFails (s.yielded c) :=
  .ite (.refl s) (.modCtx s c fun _ => Ctx.SameFails.of_lanes rfl)

theorem State.yielded_stuck (s : State) (c : CtxId) : (s.yielded c).stuck = s.stuck := by
  unfold State.yielded
  split <;> rfl

/-- yield acts whatever the guard, so it ends its issue with the same state on every path. -/
theorem exec_yield {t : TWord} {s : State} {r : Row} (hr : (Instr.yield t).row = some r) (hm : MayIssue s r) :
    exec (.yield t) s = ret (finish (s.issued r) 0 (.next (s.yielded (s.issued r).ctx))) := by
  show execYield t s = _
  unfold execYield
  rw [hr]
  dsimp only
  rw [front_go hm]
  rfl

theorem yield_passes {t : TWord} {s : State} {r : Row} (hr : (Instr.yield t).row = some r) (hm : MayIssue s r) :
    ∃ v, exec (.yield t) s = .next v ∧ Passes (s.yielded (s.issued r).ctx) v (s.issued r) 0 := by
  have hpass := passes_finish (s.issued r) 0 (.next (s.yielded (s.issued r).ctx)) rfl fun l =>
    (State.yielded_fails s _ _ l).trans (hm.settled l)
  rw [exec_yield hr hm, ret_next (hpass.only.stuck.trans ((State.yielded_stuck s _).trans hm.running))]
  exact ⟨_, rfl, hpass⟩

section Traps
variable (q : QWord) (code : Nat)

theorem doesBut_trap : DoesBut (.trap q code) always (fun is s =>
    s.takeTrap is.ctx is.act ⟨0x0D, code % 2 ^ 24, 255, 0, false, false⟩ is.h is.hdr is.idx) fun is _ => is.act :=
  doesBut_of_fails_kept (fun _ => rfl) (fun is s => State.SameFails.takeTrap s _ _ _ _ _ _ is.ctx) fun _ _ _ _ => rfl

theorem doesBut_brk_traps : DoesBut (.brk q code) (fun _ s => s.hob = false) (fun is s =>
    s.takeTrap is.ctx is.act ⟨0x0C, code % 2 ^ 24, 255, 0, false, false⟩ is.h is.hdr is.idx) fun is _ => is.act :=
  doesBut_of_fails_kept (fun _ => rfl) (fun is s => State.SameFails.takeTrap s _ _ _ _ _ _ is.ctx) fun is s _ hoff => by
    rw [hoff]
    cases is.ctx <;> rfl

theorem doesBut_brk_gang (g : Nat) : DoesBut (.brk q code) (fun is s => is.ctx = .gang g ∧ s.hob = true) (fun is s =>
    s.debugHold is.ctx g is.act (code % 2 ^ 24) is.hdr is.idx false) fun is _ => is.act :=
  doesBut_of_fails_kept (fun _ => rfl) (fun is s => State.SameFails.debugHold s _ _ _ _ _ _ _ is.ctx) fun is s _ ⟨hctx, hon⟩ => by
    rw [hctx, hon]
    rfl

theorem doesBut_brk_core (n : Nat) : DoesBut (.brk q code) (fun is s => is.ctx = .cc n ∧ s.hob = true ∧ s.se.dhold.length < 64)
    (fun is s =>
      (s.modCtx (.cc n) fun c => c.modLane 0 fun y => { y with hw := some s.sel.hw, stalled := some (0x0C, false) }).addHold
        ⟨n * 2 ^ 26, 0, code % 2 ^ 24, 1, is.hdr, is.idx⟩) fun is _ => is.act :=
  doesBut_of_fails_kept (fun _ => rfl)
    (fun is s l => ((State.SameFails.modCtx s (.cc n) fun x => Ctx.SameFails.modLane x 0 (by exact fun _ => rfl)).trans
      (State.SameFails.addHold _ _)) is.ctx l) fun is s _ ⟨hctx, hon, hroom⟩ => by
    rw [hctx, hon]
    exact congrArg (fun u => some (Done.held u is.act)) (State.holdCore_room n _ is.h is.hdr is.idx hroom)

theorem doesBut_brk_core_full (n : Nat) : DoesBut (.brk q code) (fun is s => is.ctx = .cc n ∧ s.hob = true ∧ 64 ≤ s.se.dhold.length)
    (fun is s => s.takeTrap (.cc n) 1 ⟨0x0C, code % 2 ^ 24, 255, 0, false, false⟩ is.h is.hdr is.idx) fun is _ => is.act :=
  doesBut_of_fails_kept (fun _ => rfl) (fun is s => State.SameFails.takeTrap s _ _ _ _ _ _ is.ctx) fun is s _ ⟨hctx, hon, hfull⟩ => by
    rw [hctx, hon]
    exact congrArg (fun u => some (Done.held u is.act)) (State.holdCore_full n _ is.h is.hdr is.idx hfull)

end Traps

/-- Settles O28, word by word. -/
theorem nopYieldTrapBreak : Obligations.NopYieldTrapBreak := by
  unfold Obligations.NopYieldTrapBreak
  exact ⟨does_nop, fun _ _ _ => yield_passes, doesBut_trap, doesBut_brk_traps, doesBut_brk_gang, doesBut_brk_core, doesBut_brk_core_full⟩

end Sys2Proof.Machine
end

section
/-! SUPPORT. Integers wrapped, clamped and read back in a type (00 R15-R17; 07 R164, R165). -/

set_option Elab.async false

namespace Sys2Proof

/-! ### The low bits of an integer -/

theorem natCast_wrap (w : Nat) (v : Int) : (wrap w v : Int) = v % (2 ^ w : Nat) :=
  Int.toNat_of_nonneg (Int.emod_nonneg v (Int.natCast_ne_zero.mpr (Nat.two_pow_pos w).ne'))

theorem wrap_lt (w : Nat) (v : Int) : wrap w v < 2 ^ w := by
  have hlt := Int.emod_lt_of_pos v (Int.natCast_pos.mpr (Nat.two_pow_pos w))
  rw [← natCast_wrap] at hlt
  exact Int.ofNat_lt.mp hlt

@[simp] theorem wrap_natCast (w n : Nat) : wrap w n = n % 2 ^ w := by
  rw [wrap, ← Int.natCast_mod, Int.toNat_natCast]

/-- The low bits depend on an integer's residue only. -/
theorem wrap_congr {w : Nat} {u v : Int} (h : u ≡ v [ZMOD (2 ^ w : Nat)]) : wrap w u = wrap w v := congrArg Int.toNat h

/-! ### The value of a pattern -/

theorem sext_modEq (w x : Nat) : sext w x ≡ x [ZMOD (2 ^ w : Nat)] := by
  have hlow : ((x % 2 ^ w : Nat) : Int) ≡ x [ZMOD (2 ^ w : Nat)] := by
    rw [Int.natCast_mod]
    exact Int.mod_modEq _ _
  unfold sext
  dsimp only
  split
  · exact hlow
  · exact (Int.sub_modulus_modEq_iff).mpr hlow

/-- A pattern's value, signed or not, is congruent to the pattern. -/
theorem Ty.value_modEq (t : Ty) (x : Nat) : t.value x ≡ x [ZMOD (2 ^ t.bits : Nat)] := by
  unfold Ty.value
  split
  · exact sext_modEq t.bits x
  · rw [Int.natCast_mod]
    exact Int.mod_modEq _ _

/-- The two's complement of an integer in the signed range gives it back. -/
theorem sext_wrap {w : Nat} {v : Int} (hw : 0 < w) (hlo : -((2 ^ (w - 1) : Nat) : Int) ≤ v) (hhi : v < (2 ^ (w - 1) : Nat)) :
    sext w (wrap w v) = v := by
  have htwo : 2 ^ w = 2 * 2 ^ (w - 1) := (mul_pow_sub_one hw.ne' 2).symm
  have hwrap := natCast_wrap w v
  unfold sext
  rw [Nat.mod_eq_of_lt (wrap_lt w v)]
  rw [htwo] at hwrap ⊢
  generalize 2 ^ (w - 1) = h at hlo hhi hwrap ⊢
  dsimp only
  rcases lt_or_ge v 0 with hneg | hnonneg
  · have hval : v % (2 * h : Nat) = v + (2 * h : Nat) := by
      rw [← Int.add_emod_right, Int.emod_eq_of_lt (by omega) (by omega)]
    rw [if_neg (by omega)]
    omega
  · have hval : v % (2 * h : Nat) = v := Int.emod_eq_of_lt hnonneg (by omega)
    rw [if_pos (by omega)]
    omega

theorem Ty.bits_pos (t : Ty) : 0 < t.bits := by cases t <;> decide

/-- The low bits of a value of a type are read back as that value (R165). -/
theorem Ty.value_wrap {t : Ty} {v : Int} (hmin : t.minVal ≤ v) (hmax : v ≤ t.maxVal) : t.value (wrap t.bits v) = v := by
  unfold Ty.minVal at hmin
  unfold Ty.maxVal at hmax
  unfold Ty.value
  split at hmin
  · rename_i hs
    rw [if_pos hs] at hmax ⊢
    exact sext_wrap t.bits_pos hmin (by omega)
  · rename_i hs
    rw [if_neg hs] at hmax ⊢
    rw [Nat.mod_eq_of_lt (wrap_lt _ _), natCast_wrap]
    exact Int.emod_eq_of_lt hmin (by omega)

/-! ### Clamping -/

theorem Ty.minVal_le_maxVal (t : Ty) : t.minVal ≤ t.maxVal := by
  have hhalf := Nat.two_pow_pos (t.bits - 1)
  have hfull := Nat.two_pow_pos t.bits
  unfold Ty.minVal Ty.maxVal
  split <;> omega

theorem satTo_of_mem {t : Ty} {v : Int} (hmin : t.minVal ≤ v) (hmax : v ≤ t.maxVal) : satTo t v = v := by
  rw [satTo, min_eq_right hmax, max_eq_right hmin]

theorem satTo_of_lt {t : Ty} {v : Int} (h : v < t.minVal) : satTo t v = t.minVal := by
  rw [satTo, min_eq_right (h.le.trans t.minVal_le_maxVal), max_eq_left h.le]

theorem satTo_of_gt {t : Ty} {v : Int} (h : t.maxVal < v) : satTo t v = t.maxVal := by
  rw [satTo, min_eq_left h.le, max_eq_right t.minVal_le_maxVal]

/-! ### Fit (R165) -/

theorem value_fit_modEq (t : Ty) (v : Int) : t.value (fit false t v) ≡ v [ZMOD (2 ^ t.bits : Nat)] := by
  refine (t.value_modEq _).trans ?_
  show (wrap t.bits v : Int) ≡ v [ZMOD (2 ^ t.bits : Nat)]
  rw [natCast_wrap]
  exact Int.mod_modEq _ _

theorem value_fit_of_mem {t : Ty} {v : Int} (hmin : t.minVal ≤ v) (hmax : v ≤ t.maxVal) (sat : Bool) : t.value (fit sat t v) = v := by
  rw [fit, satTo_of_mem hmin hmax, ite_self, Ty.value_wrap hmin hmax]

/-- A clamped value is of the type, so it is read back. -/
theorem value_fit_sat {t : Ty} {u v : Int} (hsat : satTo t v = u) (hmin : t.minVal ≤ u) (hmax : u ≤ t.maxVal) :
    t.value (fit true t v) = u := by
  rw [fit, if_pos rfl, hsat, Ty.value_wrap hmin hmax]

theorem value_fit_of_lt {t : Ty} {v : Int} (h : v < t.minVal) : t.value (fit true t v) = t.minVal :=
  value_fit_sat (satTo_of_lt h) le_rfl t.minVal_le_maxVal

theorem value_fit_of_gt {t : Ty} {v : Int} (h : t.maxVal < v) : t.value (fit true t v) = t.maxVal :=
  value_fit_sat (satTo_of_gt h) t.minVal_le_maxVal le_rfl

end Sys2Proof
end

section
/-! SUPPORT. A word of fixed latency each of whose lanes writes registers and predicates of its own. -/

set_option Elab.async false

namespace Sys2Proof.Machine

/-- A write list writes on lane l the words `word` and the predicates `pred`, and on no other lane. -/
structure WritesLane (rs : List Res) (l : Nat) (word : Nat → Option Word) (pred : Nat → Option Bool) : Prop where
  ok : l < 64 → resOk rs
  reg : ∀ k m old, resReg rs k m old = if l = k then (word m).getD old else old
  hits : ∀ k m, resHits rs k m = (decide (l = k) && (word m).isSome)
  preds : ∀ k j, j < 7 → ∀ old, resPred rs k j old = if l = k then (pred j).getD old else old

namespace WritesLane

theorem dstPut {d : Dst} {n l : Nat} (hd : Dst.Fits d n) (v : Nat) :
    WritesLane (Machine.dstPut d n l v) l (d.word n v) (d.truth v) :=
  ⟨fun hl => resOk_dstPut hd hl v, fun k m old => resReg_dstPut d n l v k m old, fun k m => resHits_dstPut d n l v k m,
    fun k j _ old => resPred_dstPut d n l v k j old⟩

/-- One predicate more, after writes of registers. -/
theorem append_pred {rs : List Res} {l : Nat} {word : Nat → Option Word} (h : WritesLane rs l word fun _ => none)
    (n : Nat) (v : Bool) : WritesLane (rs ++ [.p l n v]) l word fun j => if j = n then some v else none := by
  refine ⟨fun hl r hr => ?ok, fun k m old => ?reg, fun k m => ?hits, fun k j hj old => ?preds⟩
  case ok =>
    rcases List.mem_append.mp hr with hr | hr
    · exact h.ok hl r hr
    · rw [List.mem_singleton.mp hr]
      exact hl
  case reg => exact (resReg_append rs _ k m old).trans (h.reg k m old)
  case hits => exact (resHits_append rs _ k m).trans ((Bool.or_false _).trans (h.hits k m))
  case preds =>
    rw [resPred_append, h.preds k j hj, Option.getD_none, ite_self]
    show (if l = k ∧ n = j then v else old) = _
    by_cases hk : l = k
    · by_cases hn : j = n
      · rw [if_pos ⟨hk, hn.symm⟩, if_pos hk, if_pos hn, Option.getD_some]
      · rw [if_neg fun e => hn e.2.symm, if_pos hk, if_neg hn, Option.getD_none]
    · rw [if_neg fun e => hk e.1, if_neg hk]

/-- The out-predicate of addc and subb, where one is named (R168). -/
theorem append_carryRes {rs : List Res} {l : Nat} {word : Nat → Option Word} (h : WritesLane rs l word fun _ => none)
    (co : Nat) (v : Bool) : WritesLane (rs ++ carryRes l co v) l word fun j => if co < 7 ∧ j = co then some v else none := by
  unfold carryRes
  by_cases hco : co < 7
  · simpa only [hco, if_true, true_and] using h.append_pred co v
  · simpa only [hco, if_false, false_and, List.append_nil] using h

end WritesLane

/-- Predicates from a list of their numbers, seen at one predicate. -/
theorem resPred_map_p (f : Nat → Bool) (l k j : Nat) : ∀ (ns : List Nat) (old : Bool),
    resPred (ns.map fun n => .p l n (f n)) k j old = if l = k ∧ j ∈ ns then f j else old := by
  intro ns
  induction ns with
  | nil => exact fun old => (if_neg fun e => List.not_mem_nil e.2).symm
  | cons n ns ih =>
    intro old
    show resPred (ns.map fun n => .p l n (f n)) k j (if l = k ∧ n = j then f n else old) = _
    rw [ih]
    by_cases hk : l = k
    · by_cases hn : n = j
      · subst hn
        simp [hk]
      · simp [hk, hn, Ne.symm hn]
    · simp [hk]

/-- The seven predicates written on one lane. -/
theorem WritesLane.predicates {l : Nat} (f : Nat → Bool) :
    WritesLane ((List.range 7).map fun n => .p l n (f n)) l (fun _ => none) fun j => some (f j) := by
  refine ⟨fun hl r hr => ?ok, fun k m old => ?reg, fun k m => ?hits, fun k j hj old => ?preds⟩
  case ok =>
    obtain ⟨n, _, rfl⟩ := List.mem_map.mp hr
    exact hl
  case reg => exact (ite_self old).symm
  case hits => exact (Bool.and_false _).symm
  case preds =>
    rw [resPred_map_p]
    simp only [List.mem_range, hj, and_true, Option.getD_some]

/-- What active lanes write each for itself, as one list. -/
theorem produces_of_writesLane {s : State} {is : Issue} {lat : Nat} {f : Nat → List Res} {word : Nat → Nat → Option Word}
    {pred : Nat → Nat → Option Bool} {fl : Flags} {fp : Bool} (hf : ∀ l, ((s.ctx is.ctx).lane l).fails = [])
    (hw : ∀ l, WritesLane (f l) l (word l) (pred l)) :
    Produces s (finish is lat (.next (s.later is.ctx lat ((lanesOf is.act).flatMap f) fl fp))) is lat word pred fl := by
  have hactive : ∀ {l}, l < 64 → (l ∈ lanesOf is.act ↔ is.act.getLsbD l = true) := fun h => mem_lanesOf.trans (and_iff_right h)
  refine produces_of_later hf (resOk_flatMap fun l hl => (hw l).ok (mem_lanesOf.mp hl).1) ?reg ?hits ?preds
  case reg =>
    intro l m hl _ old
    rw [resReg_flatMap f l m (fun k hk old => ((hw k).reg l m old).trans (if_neg hk)) _ (nodup_lanesOf _), (hw l).reg, if_pos rfl]
    simp only [hactive hl, apply_ite (Option.getD · old), Option.getD_none]
  case hits =>
    intro l m hl _
    rw [resHits_flatMap f l m (fun k hk => by rw [(hw k).hits, decide_eq_false hk, Bool.false_and]), (hw l).hits, decide_eq_true rfl]
    simp only [hactive hl, Bool.decide_eq_true, Bool.true_and]
  case preds =>
    intro l j hl hj old
    rw [resPred_flatMap f l j (fun k hk old => ((hw k).preds l j hj old).trans (if_neg hk)) _ (nodup_lanesOf _),
      (hw l).preds l j hj, if_pos rfl]
    simp only [hactive hl, apply_ite (Option.getD · old), Option.getD_none]

/-- A word each of whose active lanes writes registers and predicates of its own, without flags, completes wherever it may issue. -/
theorem produces_of_perLane {i : Instr} {lat : Nat} {f : Issue → State → Nat → List Res} {word : Nat → Nat → Option Word}
    {pred : Nat → Nat → Option Bool} {s : State} {r : Row}
    (he : ∀ s, exec i s = issueWith i lat (perLane lat false fun is s l => ⟨f is s l, 0⟩) s)
    (hr : i.row = some r) (hm : MayIssue s r) (hw : ∀ l, WritesLane (f (s.issued r) s l) l (word l) (pred l)) :
    ∃ t, exec i s = .next t ∧ Produces s t (s.issued r) lat word pred 0 := by
  have hf : ∀ l, ((s.ctx (s.issued r).ctx).lane l).fails = [] := hm.settled
  have heff : perLane lat false (fun is s l => ⟨f is s l, 0⟩) (s.issued r) s =
      some (.next (s.later (s.issued r).ctx lat ((lanesOf (s.issued r).act).flatMap (f (s.issued r) s)) 0 false)) := by
    have hfl : laneFlags (fun _ _ _ => 0) (s.issued r) s = 0 := by rw [laneFlags_none, noFlags]
    unfold perLane
    simp only [List.flatMap_map, List.foldl_map]
    exact congrArg (fun fl => some (Done.next (s.later _ lat _ fl false))) hfl
  rw [he, issueWith_go hr hm]
  by_cases hidle : (s.issued r).act = 0
  · rw [if_pos hidle, ret_next ((finish_stuck rfl hf).trans hm.running)]
    exact ⟨_, rfl, produces_of_idle hf hidle⟩
  · rw [if_neg hidle, heff]
    dsimp only
    rw [ret_next ((finish_stuck rfl fun l => (later_fails _ _ _ _ _ _ l).trans (hf l)).trans ((later_stuck _ _ _ _ _ _).trans hm.running))]
    exact ⟨_, rfl, produces_of_writesLane hf hw⟩

end Sys2Proof.Machine
end

section
/-! O1: integer arithmetic, word by word. -/

set_option Elab.async false

namespace Sys2Proof.Machine

/-! ### Words of one value -/

/-- A word of a type computed from A and B in the type (R164, R168). -/
theorem givesInt_of_intEff {i : Instr} {t : TWord} {lat : Nat} {f : Int → Int → Nat} {q : Row}
    (he : ∀ s, exec i s = issueWith i lat (intEff t lat fun a b _ => f a b) s) (hq : i.row = some q) (hd : q.d = t.d)
    (hk : q.dk = .ty t.ty) : GivesInt i t lat f :=
  gives_of_value he (row_dst_of_ty hq hd hk)

/-- A row whose destination is a pair has room for two registers. -/
theorem row_dst_of_pair {i : Instr} {q : Row} {d : Dst} (hq : i.row = some q) (hd : q.d = d) (hk : q.dk = .pairFE) :
    ∀ r, i.row = some r → r.d = d ∧ ((r.dk.form = .reg ∧ 2 ≤ r.dk.n) ∨ 2 = 1) := by
  intro r hr
  obtain rfl : q = r := Option.some.inj (hq.symm.trans hr)
  exact ⟨hd, .inl (hk ▸ ⟨rfl, le_rfl⟩)⟩

/-- An immediate twin of class 0x0 (03 R73). -/
theorem givesImm_of_immEff {i : Instr} {w : QWord} {imm lat : Nat} {f : Nat → Nat → Nat} {q : Row}
    (he : ∀ s, exec i s = issueWith i lat (immEff w imm lat f) s) (hq : i.row = some q) (hd : q.d = w.d) : GivesImm i w imm lat f :=
  gives_of_value he (row_dst_of_one hq hd)

/-! ### Carries (R168) -/

/-- A destination of registers names no predicate. -/
theorem truth_of_admits_reg {k : DK} {d : Dst} (hk : k.form = .reg) (h : k.admits d = true) (v : Nat) : d.truth v = fun _ => none := by
  cases d with
  | g r => rfl
  | none => rfl
  | p n =>
    unfold DK.admits at h
    rw [hk, Bool.and_false] at h
    cases h

/-- A checked row admits its destination. -/
theorem admits_of_wf {i : Instr} {r : Row} (hr : i.row = some r) (hw : i.wf = true) : r.dk.admits r.d = true := by
  unfold Instr.wf at hw
  rw [hr] at hw
  have hcheck : r.check = true := hw
  simp only [Row.check, Bool.and_eq_true] at hcheck
  exact hcheck.1.1.1.1.2

/-- A word of `carryEff` gives the low bits of a result and, where one is named, its out-predicate. The result is computed from the
patterns of A and B, whose values are congruent to them. -/
theorem produces_of_carryEff {i : Instr} {t : TWord} {co : Nat} {f : Int → Int → Int → Int} {out : Nat → Nat → Nat → Nat → Bool}
    {s : State} {q r : Row} (he : ∀ s, exec i s = issueWith i 4 (carryEff t co f out) s)
    (hf : ∀ a b c : Nat, wrap t.ty.bits (f a b c) = wrap t.ty.bits (f (t.ty.value a) (t.ty.value b) c))
    (hq : i.row = some q) (hd : q.d = t.d) (hk : q.dk = .ty t.ty) (hr : i.row = some r) (hw : i.wf = true) (hm : MayIssue s r) :
    ∃ t', exec i s = .next t' ∧ Produces s t' (s.issued r) 4
      (fun l => t.d.word (tyRegs t.ty) (wrap t.ty.bits (f ((s.issued r).val s t.ty t.a l) ((s.issued r).val s t.ty t.b l)
        ((s.issued r).src s false t.s l % 2 : Nat))))
      (fun l j => if co < 7 ∧ j = co then some (out t.ty.bits ((s.issued r).ty s t.ty t.a l) ((s.issued r).ty s t.ty t.b l)
        ((s.issued r).src s false t.s l % 2)) else none) 0 := by
  have hreg := dk_ty_holds_tyRegs t.ty
  have hfit := fits_of_row hq hw hd (.inl (hk ▸ hreg))
  have htruth := truth_of_admits_reg (hk ▸ hreg.1) (admits_of_wf hq hw)
  rw [hd] at htruth
  refine produces_of_perLane he hr hm fun l => WritesLane.append_carryRes ?_ co _
  rw [Issue.val, Issue.val, ← hf]
  exact htruth _ ▸ WritesLane.dstPut hfit _

theorem wrap_add_value (t : Ty) (a b c : Nat) : wrap t.bits ((a : Int) + b + c) = wrap t.bits (t.value a + t.value b + c) :=
  wrap_congr (((t.value_modEq a).symm.add (t.value_modEq b).symm).add_right _)

theorem wrap_sub_value (t : Ty) (a b c : Nat) : wrap t.bits ((a : Int) - b - c) = wrap t.bits (t.value a - t.value b - c) :=
  wrap_congr (((t.value_modEq a).symm.sub (t.value_modEq b).symm).sub_right _)

/-! ### The obligation -/

/-- Settles O1: the words of `intEff`, `immEff` and `carryEff` by their laws, the others by the value they give, and fit by its laws. -/
theorem integerArithmetic : Obligations.IntegerArithmetic := by
  unfold Obligations.IntegerArithmetic
  refine ⟨?add, ?sub, ?mul, ?mulhi, ?mad, ?madhi, ?div, ?rem, ?neg, ?abs, ?min, ?max, ?lea, ?sad, ?dp4, ?addImm, ?subImm, ?mulImm,
    ?minImm, ?maxImm, ?addc, ?subb, ?fit⟩
  case add | sub | mul | mulhi | div | rem | neg | abs | min | max => exact fun _ => givesInt_of_intEff (fun _ => rfl) rfl rfl rfl
  case mad | madhi => exact fun _ => gives_of_value (fun _ => rfl) (row_dst_of_ty rfl rfl rfl)
  case lea => exact fun _ _ => gives_of_value (fun _ => rfl) (row_dst_of_pair rfl rfl rfl)
  case sad => exact fun _ => gives_of_value (fun _ => rfl) (row_dst_of_one rfl rfl)
  case dp4 => exact fun _ _ => gives_of_value (fun _ => rfl) (row_dst_of_one rfl rfl)
  case addImm =>
    intro q imm
    have hsum : (fun a b : Nat => wrap 32 ((a : Int) + b)) = fun a b => (a + b) % 2 ^ 32 := funext₂ fun a b => wrap_natCast 32 (a + b)
    rw [← hsum]
    exact givesImm_of_immEff (fun _ => rfl) rfl rfl
  case subImm | mulImm | minImm | maxImm => exact fun _ _ => givesImm_of_immEff (fun _ => rfl) rfl rfl
  case addc =>
    exact fun t _ _ _ => produces_of_carryEff (f := fun a b c => a + b + c) (out := carryOut) (fun _ => rfl) (wrap_add_value t.ty) rfl rfl rfl
  case subb =>
    exact fun t _ _ _ => produces_of_carryEff (f := fun a b c => a - b - c) (out := borrowOut) (fun _ => rfl) (wrap_sub_value t.ty) rfl rfl rfl
  case fit =>
    exact fun t _ => ⟨value_fit_modEq t, fun v hmin hmax sat => value_fit_of_mem hmin hmax sat, fun v => value_fit_of_lt,
      fun v => value_fit_of_gt⟩

end Sys2Proof.Machine
end

section
/-! O4: the bits of what the words of class 0x1 compute (07 R172-R178). -/

set_option Elab.async false

namespace Sys2Proof

/-! ### Reversal and counts (R175) -/

theorem bitReverse_lt (w : Nat) : ∀ a, bitReverse w a < 2 ^ w := by
  induction w with
  | zero => exact fun _ => Nat.one_pos
  | succ w ih =>
    intro a
    have hlow := ih (a / 2)
    have hmod := Nat.mod_lt a Nat.two_pos
    have htop : a % 2 * 2 ^ w ≤ 1 * 2 ^ w := Nat.mul_le_mul_right _ (by omega)
    rw [bitReverse, Nat.pow_succ]
    omega

theorem testBit_bitReverse (w : Nat) : ∀ a i, i < w → (bitReverse w a).testBit i = a.testBit (w - 1 - i) := by
  induction w with
  | zero => exact fun _ _ h => absurd h (Nat.not_lt_zero _)
  | succ w ih =>
    intro a i hi
    rw [bitReverse, Nat.mul_comm, Nat.testBit_two_pow_mul_add _ (bitReverse_lt w _)]
    by_cases hw : i < w
    · rw [if_pos hw, ih _ _ hw, show w + 1 - 1 - i = w - 1 - i + 1 by omega, Nat.testBit_succ]
    · rw [if_neg hw, show i - w = 0 by omega, show w + 1 - 1 - i = 0 by omega, Nat.testBit_zero, Nat.testBit_zero, Nat.mod_mod]

theorem bitCount_eq_length_filter (w : Nat) : ∀ a, bitCount w a = ((List.range w).filter fun i => a.testBit i).length := by
  induction w with
  | zero => exact fun _ => rfl
  | succ w ih =>
    intro a
    have hrest : (List.map Nat.succ (List.range w)).filter (fun i => a.testBit i) =
        ((List.range w).filter fun i => (a / 2).testBit i).map Nat.succ := by
      rw [List.filter_map]
      congr 1
      exact List.filter_congr fun i _ => Nat.testBit_succ a i
    rw [bitCount, ih, List.range_succ_eq_map, List.filter_cons, hrest, Nat.testBit_zero]
    by_cases h : a % 2 = 1
    · rw [if_pos (decide_eq_true h), List.length_cons, List.length_map, h, Nat.add_comm]
    · rw [if_neg (by simpa using h), List.length_map, show a % 2 = 0 by omega, Nat.zero_add]

/-- n counts the bits that are 0 before the first that is 1, among w bits. -/
def ZerosBeforeOne (w : Nat) (f : Nat → Bool) (n : Nat) : Prop :=
  (n = w ∧ ∀ i, i < w → f i = false) ∨ (n < w ∧ f n = true ∧ ∀ i, i < n → f i = false)

theorem ZerosBeforeOne.not_lt {w m n : Nat} {f : Nat → Bool} (hm : ZerosBeforeOne w f m) (hn : ZerosBeforeOne w f n) : ¬ m < n := by
  intro hlt
  obtain ⟨hle, hzero⟩ : n ≤ w ∧ f m = false := by
    rcases hn with ⟨rfl, hz⟩ | ⟨hw, -, hz⟩
    exacts [⟨le_rfl, hz m hlt⟩, ⟨hw.le, hz m hlt⟩]
  rcases hm with ⟨rfl, -⟩ | ⟨-, hone, -⟩
  · exact absurd hlt (Nat.not_lt.mpr hle)
  · exact Bool.false_ne_true (hzero.symm.trans hone)

/-- A count of zeros is the one number that counts them. -/
theorem ZerosBeforeOne.eq_iff {w m n : Nat} {f : Nat → Bool} (hm : ZerosBeforeOne w f m) : m = n ↔ ZerosBeforeOne w f n :=
  ⟨fun h => h ▸ hm, fun hn => le_antisymm (Nat.le_of_not_lt (hn.not_lt hm)) (Nat.le_of_not_lt (hm.not_lt hn))⟩

theorem ZerosBeforeOne.congr {w n : Nat} {f g : Nat → Bool} (hfg : ∀ i, i < w → f i = g i) (h : ZerosBeforeOne w f n) :
    ZerosBeforeOne w g n := by
  rcases h with ⟨rfl, h⟩ | ⟨hw, hone, h⟩
  · exact .inl ⟨rfl, fun i hi => hfg i hi ▸ h i hi⟩
  · exact .inr ⟨hw, hfg n hw ▸ hone, fun i hi => hfg i (hi.trans hw) ▸ h i hi⟩

/-- One 0 before the bits. -/
theorem ZerosBeforeOne.succ {w n : Nat} {f : Nat → Bool} (h0 : f 0 = false) (h : ZerosBeforeOne w (fun i => f (i + 1)) n) :
    ZerosBeforeOne (w + 1) f (n + 1) := by
  have hall : ∀ {k}, (∀ i, i < k → f (i + 1) = false) → ∀ i, i < k + 1 → f i = false := fun hk i hi => by
    cases i with
    | zero => exact h0
    | succ i => exact hk i (Nat.lt_of_succ_lt_succ hi)
  rcases h with ⟨rfl, h⟩ | ⟨hw, hone, h⟩
  · exact .inl ⟨rfl, hall h⟩
  · exact .inr ⟨Nat.succ_lt_succ hw, hone, hall h⟩

theorem zerosBeforeOne_trailingZeros (w : Nat) : ∀ a, ZerosBeforeOne w a.testBit (trailingZeros w a) := by
  induction w with
  | zero => exact fun a => .inl ⟨rfl, fun i hi => absurd hi (Nat.not_lt_zero i)⟩
  | succ w ih =>
    intro a
    rw [trailingZeros]
    by_cases h : a % 2 = 1
    · rw [if_pos h]
      exact .inr ⟨Nat.succ_pos w, by rw [Nat.testBit_zero, decide_eq_true h], fun i hi => absurd hi (Nat.not_lt_zero i)⟩
    · rw [if_neg h, Nat.add_comm 1]
      refine .succ (f := a.testBit) (by rw [Nat.testBit_zero, decide_eq_false h]) ?_
      simpa only [Nat.testBit_succ] using ih (a / 2)

theorem zerosBeforeOne_leadingZeros (w a : Nat) : ZerosBeforeOne w (fun i => a.testBit (w - 1 - i)) (leadingZeros w a) :=
  (zerosBeforeOne_trailingZeros w _).congr fun i hi => testBit_bitReverse w a i hi

/-- No bit is 1 from the top where none is from the bottom. -/
theorem leadingZeros_eq_iff (w a : Nat) {n : Nat} : leadingZeros w a = n ↔ (n = w ∧ ∀ i, i < w → a.testBit i = false) ∨
    (n < w ∧ a.testBit (w - 1 - n) = true ∧ ∀ i, i < n → a.testBit (w - 1 - i) = false) := by
  have hall : (∀ i, i < w → a.testBit (w - 1 - i) = false) ↔ ∀ i, i < w → a.testBit i = false :=
    ⟨fun h i hi => by simpa only [show w - 1 - (w - 1 - i) = i by omega] using h (w - 1 - i) (by omega),
      fun h i hi => h _ (by omega)⟩
  rw [← hall]
  exact (zerosBeforeOne_leadingZeros w a).eq_iff

/-! ### Rotations (R173) -/

theorem testBit_rotLeft (w a n i : Nat) (hi : i < w) : (rotLeft w a n).testBit i = a.testBit ((i + w - n % w) % w) := by
  have hk : n % w < w := Nat.mod_lt n (by omega)
  unfold rotLeft
  generalize n % w = k at hk ⊢
  have hsplit : 2 ^ w = 2 ^ (w - k) * 2 ^ k := by rw [← Nat.pow_add, Nat.sub_add_cancel hk.le]
  have hlow : a % 2 ^ w / 2 ^ (w - k) < 2 ^ k := by
    rw [Nat.div_lt_iff_lt_mul (Nat.two_pow_pos _), Nat.mul_comm, ← hsplit]
    exact Nat.mod_lt a (Nat.two_pow_pos w)
  have hhigh : a % 2 ^ w * 2 ^ k % 2 ^ w = 2 ^ k * (a % 2 ^ w % 2 ^ (w - k)) := by
    conv_lhs => rw [hsplit, Nat.mul_mod_mul_right, ← hsplit]
    exact Nat.mul_comm _ _
  dsimp only
  rw [hhigh, Nat.testBit_two_pow_mul_add _ hlow]
  by_cases h : i < k
  · rw [if_pos h, Nat.testBit_div_two_pow, Nat.testBit_mod_two_pow, decide_eq_true (by omega), Bool.true_and,
      Nat.mod_eq_of_lt (show i + w - k < w by omega), Nat.add_sub_assoc hk.le]
  · rw [if_neg h, Nat.testBit_mod_two_pow, Nat.testBit_mod_two_pow, decide_eq_true (by omega), decide_eq_true (by omega),
      Bool.true_and, Bool.true_and, show i + w - k = i - k + w by omega, Nat.add_mod_right, Nat.mod_eq_of_lt (by omega)]

theorem testBit_rotRight (w a n i : Nat) (hi : i < w) : (rotRight w a n).testBit i = a.testBit ((i + n) % w) := by
  have hk : n % w < w := Nat.mod_lt n (by omega)
  rw [rotRight, testBit_rotLeft w a _ i hi, Nat.add_mod i n, Nat.mod_eq_of_lt hi]
  congr 1
  rcases Nat.eq_zero_or_pos (n % w) with h | h
  · rw [h, Nat.sub_zero, Nat.mod_self, Nat.sub_zero, Nat.add_zero, Nat.add_mod_right]
  · rw [Nat.mod_eq_of_lt (show w - n % w < w by omega), show i + w - (w - n % w) = i + n % w by omega]

/-! ### Fields (R174, R178) -/

/-- A number with the n bits from `pos` replaced. -/
theorem testBit_replaced {v n : Nat} (hv : v < 2 ^ n) (b pos i : Nat) :
    (b % 2 ^ pos + v * 2 ^ pos + b / 2 ^ (pos + n) * 2 ^ (pos + n)).testBit i =
      if pos ≤ i ∧ i < pos + n then v.testBit (i - pos) else b.testBit i := by
  have hparts : b % 2 ^ pos + v * 2 ^ pos + b / 2 ^ (pos + n) * 2 ^ (pos + n) =
      2 ^ pos * (2 ^ n * (b / 2 ^ (pos + n)) + v) + b % 2 ^ pos := by
    rw [Nat.pow_add]
    ring
  rw [hparts, Nat.testBit_two_pow_mul_add _ (Nat.mod_lt b (Nat.two_pow_pos pos))]
  by_cases hlow : i < pos
  · rw [if_pos hlow, if_neg (by omega), Nat.testBit_mod_two_pow, decide_eq_true hlow, Bool.true_and]
  · rw [if_neg hlow, Nat.testBit_two_pow_mul_add _ hv]
    by_cases hmid : i < pos + n
    · rw [if_pos (by omega), if_pos (by omega)]
    · rw [if_neg (by omega), if_neg (by omega), Nat.testBit_div_two_pow, show i - pos - n + (pos + n) = i by omega]

theorem testBit_replaceHalf (x imm h i : Nat) (himm : imm < 2 ^ 16) : (replaceHalf x imm h).testBit i =
    if 16 * h ≤ i ∧ i < 16 * h + 16 then imm.testBit (i - 16 * h) else x.testBit i := testBit_replaced himm x (16 * h) i

theorem testBit_bitInsert (w a b f i : Nat) (hi : i < w) : (bitInsert w a b f).testBit i =
    if f % 256 ≤ i ∧ i < f % 256 + f / 256 % 256 then a.testBit (i - f % 256) else b.testBit i := by
  unfold bitInsert
  generalize f % 256 = pos
  generalize f / 256 % 256 = len
  dsimp only
  by_cases hempty : len = 0 ∨ w ≤ pos
  · rw [if_pos hempty, if_neg (by omega)]
  · rw [if_neg hempty, testBit_replaced (Nat.mod_lt a (Nat.two_pow_pos _))]
    by_cases hin : pos ≤ i ∧ i < pos + len
    · rw [if_pos (by omega), if_pos hin, Nat.testBit_mod_two_pow, decide_eq_true (by omega), Bool.true_and]
    · rw [if_neg (by omega), if_neg hin]

theorem sext_eq_toInt (n x : Nat) : sext n x = (BitVec.ofNat n x).toInt := by
  rw [BitVec.toInt_eq_toNat_cond, BitVec.toNat_ofNat]
  rfl

/-- The bits of a field extended by its sign. -/
theorem testBit_wrap_sext {w n i : Nat} (x : Nat) (hn : 0 < n) (hi : i < w) :
    (wrap w (sext n x)).testBit i = if i < n then x.testBit i else x.testBit (n - 1) := by
  have hext : wrap w (sext n x) = ((BitVec.ofNat n x).signExtend w).toNat := by
    rw [sext_eq_toInt, BitVec.signExtend, BitVec.toNat_ofInt]
    rfl
  rw [hext, BitVec.testBit_toNat, BitVec.getLsbD_signExtend, decide_eq_true hi, Bool.true_and, BitVec.msb_eq_getLsbD_last,
    BitVec.getLsbD_ofNat, BitVec.getLsbD_ofNat, decide_eq_true (show n - 1 < n by omega), Bool.true_and]
  by_cases h : i < n
  · rw [if_pos h, if_pos h, decide_eq_true h, Bool.true_and]
  · rw [if_neg h, if_neg h]

theorem testBit_bitExtract (t : Ty) (a f i : Nat) (hi : i < t.bits) : (bitExtract t a f).testBit i =
    (let pos := f % 256
     let n := min (pos + f / 256 % 256) t.bits - pos
     if i < n then a.testBit (pos + i) else decide (0 < n) && t.isSigned && a.testBit (pos + n - 1)) := by
  unfold bitExtract
  generalize f % 256 = pos
  generalize f / 256 % 256 = len
  dsimp only
  generalize hn : min (pos + len) t.bits - pos = n
  by_cases hempty : len = 0 ∨ t.bits ≤ pos
  · rw [if_pos hempty, show n = 0 by omega, if_neg (Nat.not_lt_zero i), Nat.zero_testBit]
    rfl
  · have hfield : ∀ j, j < n → (a / 2 ^ pos % 2 ^ n).testBit j = a.testBit (pos + j) := fun j hj => by
      rw [Nat.testBit_mod_two_pow, decide_eq_true hj, Bool.true_and, Nat.testBit_div_two_pow, Nat.add_comm]
    have hpos : 0 < n := by omega
    rw [if_neg hempty, decide_eq_true hpos, Bool.true_and]
    cases t.isSigned with
    | true =>
      rw [if_pos rfl, testBit_wrap_sext _ hpos hi, hfield _ (show n - 1 < n by omega), ← Nat.add_sub_assoc hpos, Bool.true_and]
      exact ite_congr rfl (hfield i) fun _ => rfl
    | false =>
      rw [if_neg Bool.false_ne_true, Bool.false_and]
      by_cases h : i < n
      · rw [if_pos h, hfield i h]
      · rw [if_neg h, Nat.testBit_mod_two_pow, decide_eq_false h, Bool.false_and]

/-! ### Byte permutation (R176) -/

/-- The byte perm chooses for byte i. -/
def permByte (a b sel i : Nat) : Nat :=
  let d := sel / 16 ^ i % 16
  let x := (a + 2 ^ 32 * b) / 256 ^ (d % 8) % 256
  if d < 8 then x else if 128 ≤ x then 255 else 0

theorem permByte_lt (a b sel i : Nat) : permByte a b sel i < 256 := by
  unfold permByte
  dsimp only
  split
  · exact Nat.mod_lt _ (by decide)
  · split <;> decide

/-- Four digits to a base, the lowest first. -/
theorem foldl_range_four (f : Nat → Nat) (c : Nat) :
    (List.range 4).foldl (fun r i => r + f i * c ^ i) 0 = f 0 + f 1 * c + f 2 * c ^ 2 + f 3 * c ^ 3 := by
  simp [List.range_succ]

theorem permBytes_eq_sum (a b sel : Nat) : permBytes a b sel =
    permByte a b sel 0 + permByte a b sel 1 * 256 + permByte a b sel 2 * 256 ^ 2 + permByte a b sel 3 * 256 ^ 3 := by
  rw [← foldl_range_four, permBytes]
  unfold permByte
  dsimp only

/-- The chosen bytes are the four bytes of the result. -/
theorem permBytes_bytes (a b sel : Nat) :
    permBytes a b sel < 2 ^ 32 ∧ ∀ i, i < 4 → permBytes a b sel / 256 ^ i % 256 = permByte a b sel i := by
  have h0 := permByte_lt a b sel 0
  have h1 := permByte_lt a b sel 1
  have h2 := permByte_lt a b sel 2
  have h3 := permByte_lt a b sel 3
  rw [permBytes_eq_sum]
  refine ⟨by omega, fun i hi => ?_⟩
  interval_cases i <;> omega

/-- A byte of two words in a row is one of the first or of the second. -/
theorem byte_append (a b k : Nat) (ha : a < 2 ^ 32) : (a + 2 ^ 32 * b) / 256 ^ k % 256 =
    if k < 4 then a / 256 ^ k % 256 else b / 256 ^ (k - 4) % 256 := by
  have hword : 2 ^ 32 = 256 ^ 4 := by decide
  by_cases h : k < 4
  · have hpow : 2 ^ 32 * b = 256 ^ k * (256 * (256 ^ (3 - k) * b)) := by
      rw [← Nat.mul_assoc 256, ← Nat.mul_assoc, ← Nat.pow_succ', ← Nat.pow_add, show k + (3 - k).succ = 4 by omega, hword]
    rw [if_pos h, hpow, Nat.add_mul_div_left _ _ (Nat.pow_pos (by decide)), Nat.add_mul_mod_self_left]
  · have hpow : 256 ^ k = 2 ^ 32 * 256 ^ (k - 4) := by
      rw [hword, ← Nat.pow_add, Nat.add_sub_cancel' (Nat.le_of_not_lt h)]
    rw [if_neg h, hpow, ← Nat.div_div_eq_div_mul, Nat.add_mul_div_left _ _ (Nat.two_pow_pos 32), Nat.div_eq_of_lt ha, Nat.zero_add]

/-- The choice of a byte: its number among the eight, and whether it gives itself or its sign. -/
theorem permByte_eq (a b sel i : Nat) (ha : a < 2 ^ 32) : permByte a b sel i =
    (let d := sel / 16 ^ i % 16
     let x := if d % 8 < 4 then a / 256 ^ (d % 8) % 256 else b / 256 ^ (d % 8 - 4) % 256
     if d < 8 then x else if x < 128 then 0 else 255) := by
  unfold permByte
  dsimp only
  rw [byte_append a b _ ha]
  simp only [← Nat.not_lt, ite_not]

/-! ### The obligation -/

/-- Settles O4, function by function. -/
theorem bitMeanings : Obligations.BitMeanings := by
  unfold Obligations.BitMeanings
  exact ⟨testBit_bitReverse, bitReverse_lt, bitCount_eq_length_filter, fun w a _ => (zerosBeforeOne_trailingZeros w a).eq_iff,
    fun w a _ => leadingZeros_eq_iff w a, testBit_rotLeft, testBit_rotRight,
    fun w a b f i _ hi => testBit_bitInsert w a b f i hi, testBit_bitExtract,
    fun a b sel i ha hi => ((permBytes_bytes a b sel).2 i hi).trans (permByte_eq a b sel i ha),
    fun a b sel => (permBytes_bytes a b sel).1, testBit_replaceHalf⟩

end Sys2Proof
end

section
/-! O3: each word on bits, shifts, moves and selections gives its active lanes one value each. -/

set_option Elab.async false

namespace Sys2Proof.Machine

/-- A word of a type computed from S1 and S2 in the type (R164). -/
theorem givesBits_of_bitEff {i : Instr} {t : TWord} {f : Nat → Nat → Nat} {q : Row}
    (he : ∀ s, exec i s = issueWith i 4 (bitEff t f) s) (hq : i.row = some q) (hd : q.d = t.d) (hk : q.dk = .ty t.ty) :
    GivesBits i t f :=
  gives_of_value he (row_dst_of_ty hq hd hk)

/-- A word of a type computed from S1 in the type and a 32-bit S2 (R164). -/
theorem givesCount_of_bitCountEff {i : Instr} {t : TWord} {f : Nat → Nat → Nat} {q : Row}
    (he : ∀ s, exec i s = issueWith i 4 (bitCountEff t f) s) (hq : i.row = some q) (hd : q.d = t.d) (hk : q.dk = .ty t.ty) :
    GivesCount i t f :=
  gives_of_value he (row_dst_of_ty hq hd hk)

/-- An immediate twin of class 0x1 (03 R73). -/
theorem givesImm_of_bitImmEff {i : Instr} {w : QWord} {imm : Nat} {f : Nat → Nat → Nat} {q : Row}
    (he : ∀ s, exec i s = issueWith i 4 (bitImmEff w imm f) s) (hq : i.row = some q) (hd : q.d = w.d) : GivesImm i w imm 4 f :=
  gives_of_value he (row_dst_of_one hq hd)

/-- sel reads S3 as a predicate value (R178, R183). -/
theorem gives_sel (t : TWord) : Gives (.sel t) 4 t.d (tyRegs t.ty) (fun is s l =>
    if is.src s false t.s l ≠ 0 then is.ty s t.ty t.a l else is.ty s t.ty t.b l) noFlags := by
  have hvalue : (fun (is : Issue) s l => if is.src s false t.s l ≠ 0 then is.ty s t.ty t.a l else is.ty s t.ty t.b l) =
      fun is s l => if is.truth s t.s l then is.ty s t.ty t.a l else is.ty s t.ty t.b l := by
    simp only [Issue.truth, decide_eq_true_eq]
  rw [hvalue]
  exact gives_of_value (fun _ => rfl) (row_dst_of_ty rfl rfl rfl)

/-- Settles O3: the words of `bitEff`, `bitCountEff` and `bitImmEff` by their laws, the others by the value they give. -/
theorem bitsAndMoves : Obligations.BitsAndMoves := by
  unfold Obligations.BitsAndMoves
  refine ⟨?and, ?or, ?xor, ?andn, ?orn, ?not, ?shl, ?shr, ?sar, ?rol, ?ror, ?bfe, ?bfi, ?brev, ?clz, ?ctz, ?popc, ?perm, ?mov, gives_sel,
    ?movi, ?movhi, ?movk, ?andImm, ?orImm, ?xorImm, ?shlImm, ?shrImm, ?sarImm, ?rolImm, ?rorImm⟩
  case and | or | xor | andn | orn | not | brev | mov => exact fun _ => givesBits_of_bitEff (fun _ => rfl) rfl rfl rfl
  case shl | shr | sar | rol | ror | bfe => exact fun _ => givesCount_of_bitCountEff (fun _ => rfl) rfl rfl rfl
  case bfi => exact fun _ => gives_of_value (fun _ => rfl) (row_dst_of_ty rfl rfl rfl)
  case clz | ctz | popc | perm => exact fun _ => gives_of_value (fun _ => rfl) (row_dst_of_one rfl rfl)
  case movi | movhi => exact fun _ _ => gives_of_value (fun _ => rfl) (row_dst_of_one rfl rfl)
  case movk => exact fun _ _ _ => gives_of_value (fun _ => rfl) (row_dst_of_pair rfl rfl rfl)
  case andImm | orImm | xorImm | shlImm | shrImm | sarImm | rolImm | rorImm =>
    exact fun _ _ => givesImm_of_bitImmEff (fun _ => rfl) rfl rfl

end Sys2Proof.Machine
end

section
/-! O6: compares, predicate logic, votes and lane masks, word by word. -/

set_option Elab.async false

namespace Sys2Proof.Machine

/-! ### Words of one value -/

/-- A word of class 0x4 that gives a register, a predicate or nothing one truth value (R183). -/
theorem gives_of_truthEff {i : Instr} {t : TWord} {f : Bool → Bool → Bool} {q : Row}
    (he : ∀ s, exec i s = issueWith i 4 (truthEff t f) s) (hq : i.row = some q) (hd : q.d = t.d) :
    Gives i 4 t.d 1 (fun is s l => bit (f (is.truth s t.a l) (is.truth s t.b l))) noFlags :=
  gives_of_value he (row_dst_of_one hq hd)

/-- What cmp compares on a lane: the truth of its condition, and the flags of a floating comparison (R180-R182). -/
def compared (t : TWord) (cc : CC) (is : Issue) (s : State) (l : Nat) : Bool × Flags :=
  if t.ty.isFloat then t.ty.fcmp t.ftz cc (is.ty s t.ty t.a l % 2 ^ t.ty.bits) (is.ty s t.ty t.b l % 2 ^ t.ty.bits)
  else (cc.holds (is.val s t.ty t.a l) (is.val s t.ty t.b l), 0)

theorem compared_fst (t : TWord) (cc : CC) (is : Issue) (s : State) (l : Nat) : (compared t cc is s l).1 =
    if t.ty.isFloat then (t.ty.fcmp t.ftz cc (is.ty s t.ty t.a l % 2 ^ t.ty.bits) (is.ty s t.ty t.b l % 2 ^ t.ty.bits)).1
    else cc.holds (is.val s t.ty t.a l) (is.val s t.ty t.b l) := apply_ite Prod.fst _ _ _

theorem compared_snd (t : TWord) (cc : CC) (is : Issue) (s : State) (l : Nat) : (compared t cc is s l).2 =
    if t.ty.isFloat then (t.ty.fcmp t.ftz cc (is.ty s t.ty t.a l % 2 ^ t.ty.bits) (is.ty s t.ty t.b l % 2 ^ t.ty.bits)).2
    else 0 := apply_ite Prod.snd _ _ _

theorem gives_cmp (t : TWord) (cc : CC) (comb : Comb) : Gives (.cmp t cc comb) 4 t.d 1
    (fun is s l => bit (comb.apply (compared t cc is s l).1 (decide (is.src s false t.s l ≠ 0))))
    (laneFlags fun is s l => (compared t cc is s l).2) :=
  gives_of_perLane (fp := t.ty.isFloat) (fun _ => rfl) (row_dst_of_one rfl rfl)

/-! ### Lane masks (R184) -/

/-- A run of lanes in the statement's words: on a column core lane 0 alone. -/
theorem runMask_eq (cc : Bool) (st : Int) (len : Nat) :
    runMask cc st len = maskOf fun k => (!cc || decide (k = 0)) && decide (st ≤ k ∧ (k : Int) < st + (len : Int)) :=
  congrArg maskOf (funext fun _ => Bool.and_comm _ _)

theorem runAbs_eq (cc : Bool) (d : Nat) : runAbs cc d = maskOf fun k => (!cc || decide (k = 0)) &&
    decide (d % 64 ≤ k ∧ k < d % 64 + d / 128 % 128) := by
  rw [runAbs, runMask_eq]
  congr 1
  funext k
  congr 2
  exact propext (and_congr Int.ofNat_le Int.ofNat_lt)

theorem gives_lanemaskAbs (t : TWord) : Gives (.lanemaskAbs t) 8 t.d 2 (fun is s l =>
    (maskOf fun k => (!is.ctx.isCC || decide (k = 0)) && decide (is.src s false t.a l % 64 ≤ k ∧
      k < is.src s false t.a l % 64 + is.src s false t.a l / 128 % 128)).toNat) noFlags := by
  simp only [← runAbs_eq]
  exact gives_of_value (fun _ => rfl) (row_dst_of_pair rfl rfl rfl)

theorem gives_lanemaskRel (t : TWord) : Gives (.lanemaskRel t) 8 t.d 2 (fun is s l =>
    (maskOf fun k => (!is.ctx.isCC || decide (k = 0)) && decide ((l : Int) + sext 7 (is.src s false t.a l) ≤ k ∧
      (k : Int) < l + sext 7 (is.src s false t.a l) + (is.src s false t.a l / 128 % 128 : Nat))).toNat) noFlags := by
  simp only [← runMask_eq]
  exact gives_of_value (fun _ => rfl) (row_dst_of_pair rfl rfl rfl)

/-! ### pmov.all (R183) -/

/-- What pmov.all writes on one lane: the predicates `f`, or the value `v` in a register. -/
def pmovAllWrites (d : Dst) (l v : Nat) (f : Nat → Bool) : List Res :=
  match d with
  | .p _ => (List.range 7).map fun i => .p l i (f i)
  | _ => dstPut d 1 l v

theorem writesLane_pmovAllWrites {d : Dst} (hd : Dst.Fits d 1) (l v : Nat) (f : Nat → Bool) :
    WritesLane (pmovAllWrites d l v f) l (d.word 1 v) fun j => if d.isP then some (f j) else none := by
  cases d with
  | g r => exact .dstPut hd v
  | p n => exact .predicates f
  | none => exact .dstPut hd v

theorem exec_pmovAll (t : TWord) (s : State) : exec (.pmovAll t) s = issueWith (.pmovAll t) 4 (perLane 4 false fun is s l =>
    ⟨pmovAllWrites t.d l ((is.c.lane l).p.toNat + 128) (is.src s false t.a l).testBit, 0⟩) s := by
  obtain ⟨c, d, a, b, sk, ty, rnd, sat, ftz⟩ := t
  cases d <;> rfl

/-! ### The obligation -/

/-- Settles O6: predicate logic by the law of `truthEff`, pmov.all by the writes of its lanes, the others by the value they give. -/
theorem comparesAndPredicates : Obligations.ComparesAndPredicates := by
  unfold Obligations.ComparesAndPredicates
  simp only [← compared_fst, ← compared_snd]
  refine ⟨gives_cmp, ?tst, ?pand, ?por, ?pxor, ?pnot, ?pmov, ?voteAny, ?voteAll, ?ballot, ?act, gives_lanemaskAbs, gives_lanemaskRel,
    ?pmovAll⟩
  case tst => exact fun _ _ => gives_of_value (fun _ => rfl) (row_dst_of_one rfl rfl)
  case pand => exact fun _ => gives_of_truthEff (f := fun a b => a && b) (fun _ => rfl) rfl rfl
  case por => exact fun _ => gives_of_truthEff (f := fun a b => a || b) (fun _ => rfl) rfl rfl
  case pxor => exact fun _ => gives_of_truthEff (f := fun a b => a != b) (fun _ => rfl) rfl rfl
  case pnot => exact fun _ => gives_of_truthEff (f := fun a _ => !a) (fun _ => rfl) rfl rfl
  case pmov => exact fun _ => gives_of_truthEff (f := fun a _ => a) (fun _ => rfl) rfl rfl
  case voteAny | voteAll => exact fun _ => gives_of_value (fun _ => rfl) (row_dst_of_one rfl rfl)
  case ballot | act => exact fun _ => gives_of_value (fun _ => rfl) (row_dst_of_pair rfl rfl rfl)
  case pmovAll =>
    exact fun t _ _ hr hw hm => produces_of_perLane (exec_pmovAll t) hr hm fun l =>
      writesLane_pmovAllWrites (fits_of_row hr hw (row_dst_of_one rfl rfl _ hr).1 (.inr rfl)) l _ _

end Sys2Proof.Machine
end

section
/-! O7: floating arithmetic, word by word. -/

set_option Elab.async false

namespace Sys2Proof.Machine

/-- A word of `floatEff`, for one element or two, whose row has room for its `n` registers (R186, R187). -/
theorem givesFloat_of_floatEff {i : Instr} {t : TWord} {x2 : Bool} {lat n : Nat} {f : Nat → Nat → Nat → FRes}
    (he : ∀ s, exec i s = issueWith i lat (floatEff t x2 lat n f) s)
    (hd : ∀ r, i.row = some r → r.d = t.d ∧ ((r.dk.form = .reg ∧ n ≤ r.dk.n) ∨ n = 1)) : GivesFloat i t x2 lat n f :=
  gives_of_perLane he hd

/-- Two elements raise no flag where neither does. -/
theorem elemwise_fl_eq_zero (x2 : Bool) (w : Nat) (f : Nat → Nat → Nat → Nat) (a b c : Nat) :
    (elemwise x2 w (fun a b c => ⟨f a b c, 0⟩) a b c).fl = 0 := by
  cases x2 with
  | false => rfl
  | true => exact BitVec.or_self

/-- fcls sets no flag (R193). -/
theorem gives_fcls (t : TWord) (x2 : Bool) : Gives (.fcls t x2) 4 t.d 1
    (fun is s l => (elemwise x2 t.ty.bits (fun a _ _ => ⟨t.ty.fcls a, 0⟩) (is.ty s t.ty t.a l) (is.ty s t.ty t.b l)
      (is.ty s t.ty t.s l)).bits) noFlags := by
  have hfloat : GivesFloat (.fcls t x2) t x2 4 1 fun a _ _ => ⟨t.ty.fcls a, 0⟩ :=
    givesFloat_of_floatEff (fun _ => rfl) (row_dst_of_one rfl rfl)
  unfold GivesFloat at hfloat
  simpa only [elemwise_fl_eq_zero, laneFlags_none] using hfloat

/-- Settles O7: the words of `floatEff` by its law, fcls as one whose elements raise no flag, fscl by the value it gives. -/
theorem floatingArithmetic : Obligations.FloatingArithmetic := by
  unfold Obligations.FloatingArithmetic
  refine ⟨?fadd, ?fsub, ?fmul, ?fma, ?fmin, ?fmax, ?fabs, ?fneg, ?fdiv, ?fsqrt, ?frcp, ?frsq, ?fex2, ?flg2, gives_fcls, ?fscl⟩
  case fadd | fsub | fmul | fma | fmin | fmax | fabs | fneg | fdiv | fsqrt =>
    exact fun _ _ => givesFloat_of_floatEff (fun _ => rfl) (row_dst_of_ty rfl rfl rfl)
  case frcp | frsq | fex2 | flg2 => exact fun _ _ => givesFloat_of_floatEff (fun _ => rfl) (row_dst_of_one rfl rfl)
  case fscl => exact fun _ _ => gives_of_perLane (fun _ => rfl) (row_dst_of_ty rfl rfl rfl)

end Sys2Proof.Machine
end

section
/-! O8: conversions, packed elements and block formats, word by word. -/

set_option Elab.async false

namespace Sys2Proof.Machine

/-- A word that makes one block of its path's participants gives each of them its words of it, and raises the block's flags (R199).
With no participant there is no block: the word ends its issue without an effect. -/
theorem gives_of_blockEff {i : Instr} {t : TWord} {quant : Bool → List (Option Nat) → Block} {word own : Block → Nat → Nat} {q : Row}
    (he : ∀ s, exec i s = issueWith i 12 (blockEff t quant word own) s) (hq : i.row = some q) (hd : q.d = t.d) (hk : q.dk = .pairFE) :
    Gives i 12 t.d 2
      (fun is s l => word (quant t.ftz (blockSources t is s)) l + 2 ^ 32 * own (quant t.ftz (blockSources t is s)) l)
      (fun is s => if is.act = 0 then 0 else (quant t.ftz (blockSources t is s)).fl) := by
  refine gives_of_eff (fp := true) he (fun is s hact => ?effect) (fun is s hidle => if_pos hidle) (row_dst_of_pair hq hd hk)
  case effect =>
    rw [if_neg hact]
    rfl

/-- Settles O8: the blocks by the law of `blockEff`, frnd as a word of `floatEff` on one element, the others by the value each lane
computes for itself. -/
theorem conversionsAndBlocks : Obligations.ConversionsAndBlocks := by
  unfold Obligations.ConversionsAndBlocks
  refine ⟨?cvt, ?frnd, ?pack, ?unpk, ?qz4, ?qz8, ?dqz4, ?dqz8, ?qres⟩
  case cvt => exact fun _ _ _ => gives_of_perLane (fun _ => rfl) (row_dst_of_ty rfl rfl rfl)
  case frnd => exact fun _ => givesFloat_of_floatEff (fun _ => rfl) (row_dst_of_ty rfl rfl rfl)
  case pack => exact fun _ _ => gives_of_perLane (fun _ => rfl) (row_dst_of_one rfl rfl)
  case unpk => exact fun _ _ => gives_of_perLane (fun _ => rfl) (row_dst_of_pair rfl rfl rfl)
  case qz4 =>
    exact fun _ => gives_of_blockEff (quant := qz4) (word := fun b l => b.word4 (l % 8))
      (own := fun b l => b.scale + 256 * b.spare + 65536 * b.codes.getD l 0) (fun _ => rfl) rfl rfl rfl
  case qz8 =>
    exact fun _ => gives_of_blockEff (quant := qz8) (word := fun b l => b.word8 (l % 16))
      (own := fun b l => b.scale + 256 * b.codes.getD l 0) (fun _ => rfl) rfl rfl rfl
  case dqz4 | dqz8 => exact fun _ => gives_of_perLane (fun _ => rfl) (row_dst_of_one rfl rfl)
  case qres => exact fun _ => gives_of_perLane (fun _ => rfl) (row_dst_of_pair rfl rfl rfl)

end Sys2Proof.Machine
end

section
/-! SUPPORT. Lines of the caches and the bytes that they hold: what keeps the owners of lines and every byte as its home merges it (09
R225, R226). -/

set_option Elab.async false

namespace Sys2Proof.Machine

/-! ### The records of the homes -/

/-- Nothing but the slices' lines, the regions' records and the injected errors differs. -/
def State.OnlyRecords (s t : State) : Prop :=
  { t with ms := { t.ms with slice := s.ms.slice, regions := s.ms.regions }, ev := { t.ev with inject := s.ev.inject } } = s

namespace State.OnlyRecords

variable {s t u : State}

theorem refl (s : State) : s.OnlyRecords s := rfl

theorem trans (h : s.OnlyRecords t) (k : t.OnlyRecords u) : s.OnlyRecords u := by
  unfold State.OnlyRecords at h k ⊢
  rw [← h, ← k]

theorem l1 (h : s.OnlyRecords t) : t.ms.l1 = s.ms.l1 := (congrArg (fun z : State => z.ms.l1) h :)

theorem byte (h : s.OnlyRecords t) (a : Nat) : t.byte a = s.byte a := (congrArg (fun z : State => z.byte a) h :)

theorem ite {p : Prop} [Decidable p] {a b : State} (ha : s.OnlyRecords a) (hb : s.OnlyRecords b) : s.OnlyRecords (if p then a else b) := by
  split
  · exact ha
  · exact hb

theorem foldl {α : Type} {f : State → α → State} (h : ∀ (s : State) x, s.OnlyRecords (f s x)) (l : List α) :
    ∀ s : State, s.OnlyRecords (l.foldl f s) := by
  induction l with
  | nil => exact refl
  | cons x l ih => exact fun s => (h s x).trans (ih _)

theorem slicePut (s : State) (x : SliceLine) : s.OnlyRecords (s.slicePut x) := rfl

theorem sliceFill (s : State) (line : Nat) : s.OnlyRecords (s.sliceFill line) := rfl

theorem sliceStore (s : State) (as : List Nat) : s.OnlyRecords (s.sliceStore as) :=
  foldl (fun _ _ => ite (slicePut _ _) (sliceFill _ _)) _ s

theorem putRegion (s : State) (r : Region) : s.OnlyRecords (s.putRegion r) := rfl

theorem splitRegion (s : State) (pa : Nat) : s.OnlyRecords (s.splitRegion pa) := ite (putRegion _ _) rfl

theorem isolate (kept : L1Line → Bool) (pa n : Nat) : ∀ s, State.OnlyRecords s (State.isolate kept pa n s) := by
  induction n with
  | zero => exact refl
  | succ n ih => exact fun s => ite ((splitRegion s pa).trans (ih _)) (refl s)

theorem disown (s : State) (pa : Nat) : s.OnlyRecords (s.disown pa) :=
  ite (((splitRegion s pa).trans (isolate _ _ _ _)).trans (putRegion _ _)) (refl s)

theorem injectSeen (s : State) (cache : Option Nat) (gid : Word) (pa n : Nat) : s.OnlyRecords (s.injectSeen cache gid pa n) :=
  ite rfl (refl s)

end State.OnlyRecords

/-! ### The one dirty copy of a byte -/

/-- The bytes that a line holds dirty stand at their home as well. -/
def State.AtHome (s : State) (l : L1Line) : Prop := ∀ a b, wlogGet l.dirty a = some b → s.byte a = b

theorem State.AtHome.of_clean {s : State} {l : L1Line} (h : l.dirty = []) : s.AtHome l := by
  rw [State.AtHome, h]
  exact nofun

theorem mem_of_wlogGet {bs : List (Nat × Byte)} {a : Nat} {b : Byte} (h : wlogGet bs a = some b) : (a, b) ∈ bs := by
  induction bs with
  | nil => cases h
  | cons p r ih =>
    rw [wlogGet] at h
    split at h
    · next e =>
      cases h
      exact e ▸ List.mem_cons_self
    · exact List.mem_cons_of_mem _ (ih h)

namespace State.OneOwner

variable {s t : State} {l q : L1Line} {a : Nat} {b : Byte}

/-- A line that holds a byte dirty is that byte's, and owned. -/
theorem of_dirty (h : s.OneOwner) (hl : l ∈ s.ms.l1) (hd : wlogGet l.dirty a = some b) : l.kind = .owned ∧ l.line = a / 128 := by
  have hp := mem_of_wlogGet hd
  exact ⟨h.dirty l hl (List.ne_nil_of_mem hp), (h.inLine l hl _ hp).symm⟩

theorem clean (h : s.OneOwner) (hl : l ∈ s.ms.l1) (hk : l.kind ≠ .owned) : l.dirty = [] :=
  not_not.mp fun hd => hk (h.dirty l hl hd)

/-- No two lines hold a byte dirty. -/
theorem dirty_unique (h : s.OneOwner) (hl : l ∈ s.ms.l1) (hq : q ∈ s.ms.l1) {c : Byte} (hdl : wlogGet l.dirty a = some b)
    (hdq : wlogGet q.dirty a = some c) : l = q := by
  obtain ⟨hkl, hll⟩ := h.of_dirty hl hdl
  obtain ⟨hkq, hlq⟩ := h.of_dirty hq hdq
  exact h.owner l hl q hq hkl hkq (hll.trans hlq.symm)

/-- A byte that a line holds dirty is merged from there. -/
theorem homeByte_of_dirty (h : s.OneOwner) (hl : l ∈ s.ms.l1) (hd : wlogGet l.dirty a = some b) : s.homeByte a = b := by
  suffices dirtyByte s.ms.l1 a = some b by rw [State.homeByte, this, Option.getD_some]
  cases hfound : dirtyByte s.ms.l1 a with
  | none =>
    have hnone := List.findSome?_eq_none_iff.mp hfound l hl
    rw [if_pos (h.of_dirty hl hd).2, hd] at hnone
    cases hnone
  | some c =>
    obtain ⟨q, hq, hc⟩ := List.exists_of_findSome?_eq_some hfound
    obtain ⟨-, hdq⟩ := Option.ite_none_right_eq_some.mp hc
    obtain rfl := h.dirty_unique hl hq hd hdq
    exact hdq.symm.trans hd

end State.OneOwner

/-- A byte that no line holds dirty is read at its home. -/
theorem State.homeByte_of_clean {s : State} {a : Nat} (h : ∀ l ∈ s.ms.l1, wlogGet l.dirty a = none) : s.homeByte a = s.byte a := by
  have hnone : dirtyByte s.ms.l1 a = none := List.findSome?_eq_none_iff.mpr fun l hl => by rw [h l hl, ite_self]
  rw [State.homeByte, hnone, Option.getD_none]

/-- A byte is dirty in some line, or in none. -/
theorem State.dirty_or_clean (s : State) (a : Nat) :
    (∃ l ∈ s.ms.l1, ∃ b, wlogGet l.dirty a = some b) ∨ ∀ l ∈ s.ms.l1, wlogGet l.dirty a = none := by
  refine or_iff_not_imp_left.mpr fun h l hl => Option.eq_none_iff_forall_ne_some.mpr fun b hb => h ⟨l, hl, b, hb⟩

/-! ### What keeps the owners -/

namespace State.OneOwner

variable {s t : State}

/-- Lines dropped, or put in another order. -/
theorem of_mem (h : s.OneOwner) (hm : ∀ l ∈ t.ms.l1, l ∈ s.ms.l1) : t.OneOwner where
  once l hl q hq := h.once l (hm l hl) q (hm q hq)
  owner l hl q hq := h.owner l (hm l hl) q (hm q hq)
  dirty l hl := h.dirty l (hm l hl)
  own l hl := h.own l (hm l hl)
  inLine l hl := h.inLine l (hm l hl)

end State.OneOwner

/-- A line that its cache may put in place of the one it holds: only an owner holds dirty bytes, those of its line, in the module's own
tiers, and no other cache owns that line. -/
structure State.Admits (s : State) (y : L1Line) : Prop where
  dirty : y.dirty ≠ [] → y.kind = .owned
  own : y.kind = .owned → cacheable (128 * y.line) = true
  inLine : ∀ p ∈ y.dirty, p.1 / 128 = y.line
  alone : y.kind = .owned → ∀ l ∈ s.ms.l1, l.kind = .owned → l.line = y.line → l.cache = y.cache

/-- A clean copy that is not owned. -/
theorem State.Admits.copy (s : State) {y : L1Line} (hd : y.dirty = []) (hk : y.kind ≠ .owned) : s.Admits y where
  dirty h := absurd hd h
  own h := absurd h hk
  inLine p hp := by rw [hd] at hp; cases hp
  alone h := absurd h hk

/-- Lines dropped, and one put in place of those of its cache and number. -/
theorem State.OneOwner.put {s t : State} (h : s.OneOwner) {y : L1Line} (hy : s.Admits y)
    (hm : ∀ l ∈ t.ms.l1, (l ∈ s.ms.l1 ∧ ¬(l.cache = y.cache ∧ l.line = y.line)) ∨ l = y) : t.OneOwner where
  once l hl q hq hc hn := by
    rcases hm l hl with ⟨hl, hne⟩ | rfl <;> rcases hm q hq with ⟨hq, hne'⟩ | rfl
    · exact h.once l hl q hq hc hn
    · exact absurd ⟨hc, hn⟩ hne
    · exact absurd ⟨hc.symm, hn.symm⟩ hne'
    · rfl
  owner l hl q hq hkl hkq hn := by
    rcases hm l hl with ⟨hl, hne⟩ | rfl <;> rcases hm q hq with ⟨hq, hne'⟩ | rfl
    · exact h.owner l hl q hq hkl hkq hn
    · exact absurd ⟨hy.alone hkq l hl hkl hn, hn⟩ hne
    · exact absurd ⟨hy.alone hkl q hq hkq hn.symm, hn.symm⟩ hne'
    · rfl
  dirty l hl := (hm l hl).elim (fun hl => h.dirty l hl.1) fun e => e ▸ hy.dirty
  own l hl := (hm l hl).elim (fun hl => h.own l hl.1) fun e => e ▸ hy.own
  inLine l hl := (hm l hl).elim (fun hl => h.inLine l hl.1) fun e => e ▸ hy.inLine

/-! ### What keeps every byte -/

namespace State.KeepsBytes

variable {s t u : State}

theorem refl (h : s.OneOwner) : s.KeepsBytes s := ⟨h, fun _ => rfl⟩

theorem trans (h : s.KeepsBytes t) (k : t.KeepsBytes u) : s.KeepsBytes u := ⟨k.1, fun a => (k.2 a).trans (h.2 a)⟩

theorem ite {p : Prop} [Decidable p] {a b : State} (ha : s.KeepsBytes a) (hb : s.KeepsBytes b) : s.KeepsBytes (if p then a else b) := by
  split
  · exact ha
  · exact hb

theorem foldl {α : Type} {f : State → α → State} (h : ∀ s : State, s.OneOwner → ∀ x, s.KeepsBytes (f s x)) (l : List α) :
    ∀ s : State, s.OneOwner → s.KeepsBytes (l.foldl f s) := by
  induction l with
  | nil => exact fun _ => refl
  | cons x l ih => exact fun s hs => (h s hs x).trans (ih _ (h s hs x).1)

theorem of_records (h : s.OnlyRecords t) (hs : s.OneOwner) : s.KeepsBytes t :=
  ⟨hs.of_mem fun _ hl => h.l1 ▸ hl, fun a => by rw [State.homeByte, State.homeByte, h.l1, h.byte]⟩

/-- Dirty lines gone whose bytes stand at their home, and none come. -/
theorem of_lines (hs : s.OneOwner) (ht : t.OneOwner) (hbyte : ∀ a, t.byte a = s.byte a)
    (hin : ∀ l ∈ t.ms.l1, l.dirty ≠ [] → l ∈ s.ms.l1) (hout : ∀ l ∈ s.ms.l1, l ∉ t.ms.l1 → s.AtHome l) : s.KeepsBytes t := by
  have hcame : ∀ l ∈ t.ms.l1, ∀ {a b}, wlogGet l.dirty a = some b → l ∈ s.ms.l1 := fun l hl _ _ hd =>
    hin l hl (List.ne_nil_of_mem (mem_of_wlogGet hd))
  refine ⟨ht, fun a => ?_⟩
  rcases s.dirty_or_clean a with ⟨l, hl, b, hd⟩ | hclean
  · rw [hs.homeByte_of_dirty hl hd]
    by_cases hlt : l ∈ t.ms.l1
    · exact ht.homeByte_of_dirty hlt hd
    · rw [State.homeByte_of_clean fun q hq => ?_, hbyte, hout l hl hlt a b hd]
      refine Option.eq_none_iff_forall_ne_some.mpr fun c hc => hlt ?_
      rwa [hs.dirty_unique hl (hcame q hq hc) hd hc]
  · rw [State.homeByte_of_clean hclean, State.homeByte_of_clean fun q hq => ?_, hbyte]
    exact Option.eq_none_iff_forall_ne_some.mpr fun c hc => Option.some_ne_none c (hc.symm.trans (hclean q (hcame q hq hc)))

end State.KeepsBytes

/-- A line that comes alone: a byte that it holds dirty is merged from there, any other as before. -/
theorem State.homeByte_append {s t : State} (ht : t.OneOwner) {y : L1Line} (hl1 : t.ms.l1 = s.ms.l1 ++ [y])
    (hbyte : ∀ a, t.byte a = s.byte a) (a : Nat) : t.homeByte a = (wlogGet y.dirty a).getD (s.homeByte a) := by
  cases hd : wlogGet y.dirty a with
  | some b => exact ht.homeByte_of_dirty (hl1 ▸ by simp) hd
  | none => simp [State.homeByte, dirtyByte, hl1, hbyte, hd]

/-! ### Dirty bytes brought home -/

theorem State.flushBytes_l1 (s : State) (bs : List (Nat × Byte)) : (s.flushBytes bs).ms.l1 = s.ms.l1 := by
  refine (State.OnlyRecords.sliceStore _ _).l1.trans ?_
  exact List.foldlRecOn (motive := fun t : State => t.ms.l1 = s.ms.l1) _ _ rfl fun t ht p _ =>
    (congrArg (fun z : State => z.ms.l1) (t.writeBytes_only p.1 [p.2])).trans ht

/-- The first of a list's bytes at an address is written there. -/
theorem State.byte_flushBytes (s : State) (bs : List (Nat × Byte)) (a : Nat) :
    (s.flushBytes bs).byte a = (wlogGet bs a).getD (s.byte a) := by
  rw [State.flushBytes, (State.OnlyRecords.sliceStore _ _).byte]
  induction bs with
  | nil => rfl
  | cons p r ih =>
    rw [List.reverse_cons, List.foldl_append, List.foldl_cons, List.foldl_nil, State.byte_writeBytes, ih, wlogGet]
    by_cases h : p.1 = a
    · simp [h]
    · rw [if_neg (by simp only [List.length_singleton]; omega), if_neg h]

section Flush

variable {s : State} {l q : L1Line} (h : s.OneOwner) (hl : l ∈ s.ms.l1)
include h hl

/-- What a line holds dirty is what its home merges, so that bringing it home changes no byte. -/
theorem State.KeepsBytes.flushLine : s.KeepsBytes (s.flushBytes l.dirty) := by
  refine ⟨h.of_mem fun _ hq => s.flushBytes_l1 l.dirty ▸ hq, fun a => ?_⟩
  rw [State.homeByte, State.homeByte, s.flushBytes_l1, s.byte_flushBytes]
  cases hd : wlogGet l.dirty a with
  | none => rfl
  | some b =>
    have hb := h.homeByte_of_dirty hl hd
    rw [State.homeByte] at hb
    cases hfound : dirtyByte s.ms.l1 a with
    | none =>
      rw [hfound] at hb
      exact hb.symm
    | some c => rfl

/-- What another line holds dirty stays at its home. -/
theorem State.AtHome.flushLine (hq : q ∈ s.ms.l1) (hat : s.AtHome q) : (s.flushBytes l.dirty).AtHome q := by
  intro a b hb
  rw [s.byte_flushBytes]
  cases hd : wlogGet l.dirty a with
  | none => exact hat a b hb
  | some c =>
    obtain rfl := h.dirty_unique hl hq hd hb
    exact Option.some.inj (hd.symm.trans hb)

end Flush

theorem State.atHome_flushBytes (s : State) (l : L1Line) : (s.flushBytes l.dirty).AtHome l := fun a b hb => by
  rw [s.byte_flushBytes, hb, Option.getD_some]

/-- Several lines' dirty bytes brought home. -/
theorem State.flushLines {ls : List L1Line} : ∀ {s : State}, s.OneOwner → (∀ l ∈ ls, l ∈ s.ms.l1) →
    let t := ls.foldl (fun s l => s.flushBytes l.dirty) s
    t.ms.l1 = s.ms.l1 ∧ s.KeepsBytes t ∧ ∀ q ∈ s.ms.l1, q ∈ ls ∨ s.AtHome q → t.AtHome q := by
  induction ls with
  | nil => exact fun h _ => ⟨rfl, .refl h, fun _ _ hat => hat.resolve_left List.not_mem_nil⟩
  | cons l ls ih =>
    intro s h hls
    have hl := hls l List.mem_cons_self
    have hl1 := s.flushBytes_l1 l.dirty
    have hkeep := State.KeepsBytes.flushLine h hl
    obtain ⟨hsame, hall, hhome⟩ := ih hkeep.1 fun q hq => hl1.symm ▸ hls q (List.mem_cons_of_mem _ hq)
    refine ⟨hsame.trans hl1, hkeep.trans hall, fun q hq hat => hhome q (hl1.symm ▸ hq) ?_⟩
    rcases hat with hmem | hat
    · rcases List.mem_cons.mp hmem with rfl | hmem
      · exact .inr (s.atHome_flushBytes q)
      · exact .inl hmem
    · exact .inr (hat.flushLine h hl hq)

/-! ### Lines of a cache -/

theorem State.l1Line_some {s : State} {cache line : Nat} {l : L1Line} (h : s.l1Line cache line = some l) :
    l ∈ s.ms.l1 ∧ l.cache = cache ∧ l.line = line :=
  ⟨List.mem_of_find?_eq_some h, by simpa using List.find?_some h⟩

namespace State.OneOwner

variable {s : State} {l : L1Line}

/-- A cache's line of a number is found. -/
theorem l1Line_eq (h : s.OneOwner) (hl : l ∈ s.ms.l1) : s.l1Line l.cache l.line = some l := by
  have hsome : (s.l1Line l.cache l.line).isSome := List.find?_isSome.mpr ⟨l, hl, decide_eq_true ⟨rfl, rfl⟩⟩
  obtain ⟨q, hq⟩ := Option.isSome_iff_exists.mp hsome
  obtain ⟨hmem, hc, hn⟩ := State.l1Line_some hq
  rw [hq, h.once q hmem l hl hc hn]

end State.OneOwner

theorem State.owns_eq_true {s : State} {cache line : Nat} :
    s.owns cache line = true ↔ ∃ l ∈ s.ms.l1, l.cache = cache ∧ l.line = line ∧ l.kind = .owned := by
  simp only [State.owns, List.any_eq_true, decide_eq_true_eq]

/-- What a cache holds of a line that it does not own. -/
theorem State.kind_of_not_owns {s : State} {cache line : Nat} (h : s.owns cache line = false) {l : L1Line} (hl : l ∈ s.ms.l1)
    (hc : l.cache = cache) (hn : l.line = line) : l.kind ≠ .owned := fun hk =>
  Bool.false_ne_true (h.symm.trans (State.owns_eq_true.mpr ⟨l, hl, hc, hn, hk⟩))

theorem State.not_owns {s : State} {cache line : Nat}
    (h : ∀ l ∈ s.ms.l1, l.kind = .owned → l.line = line → l.cache ≠ cache) : s.owns cache line = false :=
  Bool.eq_false_iff.mpr fun ho => by
    obtain ⟨l, hl, hc, hn, hk⟩ := State.owns_eq_true.mp ho
    exact h l hl hk hn hc

theorem l1Victim_mem {ls : List L1Line} {cache : Nat} {v : L1Line} (h : l1Victim ls cache = some v) : v ∈ ls := by
  unfold l1Victim at h
  dsimp only at h
  split at h
  · cases h
  · refine List.mem_of_mem_filter (p := fun l => decide (l.cache = cache)) ?_
    rcases (Option.orElse_eq_some ..).mp h with hfind | ⟨-, hhead⟩
    · exact List.mem_of_find?_eq_some hfind
    · exact List.mem_of_head? hhead

/-! ### Lines evicted, put and used -/

namespace State.KeepsBytes

variable {s : State}

theorem evict (h : s.OneOwner) {l : L1Line} (hl : l ∈ s.ms.l1) : s.KeepsBytes (s.evict l) := by
  have hflush := flushLine h hl
  have hsub : ∀ q ∈ (s.evict l).ms.l1, q ∈ (s.flushBytes l.dirty).ms.l1 := fun q hq => List.mem_of_mem_filter hq
  refine hflush.trans (of_lines hflush.1 (hflush.1.of_mem hsub) (fun _ => rfl) (fun q hq _ => hsub q hq) fun q hq hgone => ?_)
  obtain rfl : q = l := not_not.mp fun hne => hgone (List.mem_filter.mpr ⟨hq, decide_eq_true hne⟩)
  exact s.atHome_flushBytes q

/-- A line that its cache does not own is dropped. -/
theorem drop (h : s.OneOwner) {cache line : Nat} (ho : s.owns cache line = false) : s.KeepsBytes (s.putL1 cache line none) := by
  have hsub : ∀ q ∈ (s.putL1 cache line none).ms.l1, q ∈ s.ms.l1 := fun q hq => List.mem_of_mem_filter hq
  refine of_lines h (h.of_mem hsub) (fun _ => rfl) (fun q hq _ => hsub q hq) fun q hq hgone => .of_clean (h.clean hq ?_)
  by_contra hk
  refine hgone (List.mem_filter.mpr ⟨hq, ?_⟩)
  simp only [Bool.not_eq_true', decide_eq_false_iff_not]
  exact fun hcl => State.kind_of_not_owns ho hq hcl.1 hcl.2 hk

end State.KeepsBytes

/-- A line put in its cache: the owners are kept, and its dirty bytes are merged with what there is without the line it replaces. -/
theorem State.OneOwner.putLine {s : State} (h : s.OneOwner) {y : L1Line} (hy : s.Admits y) :
    (s.putL1 y.cache y.line (some y)).OneOwner ∧
    ∀ a, (s.putL1 y.cache y.line (some y)).homeByte a = (wlogGet y.dirty a).getD ((s.putL1 y.cache y.line none).homeByte a) := by
  have hrest : (s.putL1 y.cache y.line none).OneOwner := h.of_mem fun q hq => List.mem_of_mem_filter hq
  obtain ⟨r, hr, hkeep, hsub⟩ : ∃ r, s.putL1 y.cache y.line (some y) = { r with ms := { r.ms with l1 := r.ms.l1 ++ [y] } } ∧
      (s.putL1 y.cache y.line none).KeepsBytes r ∧ ∀ q ∈ r.ms.l1, q ∈ (s.putL1 y.cache y.line none).ms.l1 := by
    refine ⟨_, rfl, ?_⟩
    split
    · next v hv =>
      have hv := l1Victim_mem hv
      exact ⟨.evict hrest hv, fun q hq => s.putL1 y.cache y.line none |>.flushBytes_l1 v.dirty ▸ List.mem_of_mem_filter hq⟩
    · exact ⟨.refl hrest, fun _ hq => hq⟩
  rw [hr]
  have ht : ({ r with ms := { r.ms with l1 := r.ms.l1 ++ [y] } } : State).OneOwner := by
    refine h.put hy fun l hl => (List.mem_append.mp hl).imp (fun hl => ?_) List.mem_singleton.mp
    obtain ⟨hs, hne⟩ := List.mem_filter.mp (hsub l hl)
    exact ⟨hs, of_decide_eq_false (Bool.not_eq_true' _ ▸ hne)⟩
  refine ⟨ht, fun a => ?_⟩
  rw [State.homeByte_append (s := r) ht rfl (fun _ => rfl), hkeep.2]

namespace State.KeepsBytes

variable {s : State}

/-- A clean line put in place of one that its cache does not own. -/
theorem put (h : s.OneOwner) {y : L1Line} (hy : s.Admits y) (hd : y.dirty = []) (ho : s.owns y.cache y.line = false) :
    s.KeepsBytes (s.putL1 y.cache y.line (some y)) := by
  obtain ⟨ht, hbyte⟩ := h.putLine hy
  refine ⟨ht, fun a => ?_⟩
  rw [hbyte, hd]
  exact (drop h ho).2 a

/-- The homes' records changed, and a copy that is not owned put in place of one that its cache does not own. -/
theorem putCopy {t : State} (h : s.OneOwner) (hrec : s.OnlyRecords t) {cache line cls : Nat} {k : CopyKind} (hk : k ≠ .owned)
    (ho : s.owns cache line = false) : s.KeepsBytes (t.putL1 cache line (some ⟨cache, line, k, [], cls⟩)) := by
  have hkeep := of_records hrec h
  refine hkeep.trans (put hkeep.1 (y := ⟨cache, line, k, [], cls⟩) (.copy t rfl hk) rfl ?_)
  rw [State.owns, hrec.l1]
  exact ho

theorem touchL1 (h : s.OneOwner) (cache line : Nat) : s.KeepsBytes (s.touchL1 cache line) := by
  unfold State.touchL1
  split
  · next l hl =>
    obtain ⟨hmem, -⟩ := State.l1Line_some hl
    have hsame : ∀ q, q ∈ (s.ms.l1.filter fun q => q ≠ l) ++ [l] ↔ q ∈ s.ms.l1 := fun q => by
      by_cases e : q = l
      · simp [e, hmem]
      · simp [e]
    exact of_lines h (h.of_mem fun q hq => (hsame q).mp hq) (fun _ => rfl) (fun q hq _ => (hsame q).mp hq)
      fun q hq hgone => absurd ((hsame q).mpr hq) hgone
  · exact refl h

end State.KeepsBytes

/-- A cache that owns a line still owns it when it has used it. -/
theorem State.OneOwner.owns_touchL1 {s : State} (h : s.OneOwner) {cache line : Nat} (ho : s.owns cache line = true) :
    (s.touchL1 cache line).owns cache line = true := by
  obtain ⟨l, hl, rfl, rfl, hk⟩ := State.owns_eq_true.mp ho
  refine State.owns_eq_true.mpr ⟨l, ?_, rfl, rfl, hk⟩
  rw [State.touchL1, h.l1Line_eq hl]
  exact List.mem_append_right _ List.mem_cons_self

/-! ### Lines taken back -/

/-- A recall takes a line back from a cache: it owns it, and is another than the one that asks. -/
def L1Line.recalled (by_ : Option Nat) (line : Nat) (l : L1Line) : Bool := decide (l.line = line ∧ l.kind = .owned ∧ some l.cache ≠ by_)

/-- The read copy that an owner keeps of a line it gives back. -/
def L1Line.givenBack (l : L1Line) : L1Line := { l with kind := .shared, dirty := [] }

/-- The lines of the caches after a recall. -/
def recalledLines (ls : List L1Line) (by_ : Option Nat) (line : Nat) (wr : Bool) : List L1Line :=
  (ls.filter fun l => !l.recalled by_ line) ++ if wr then [] else (ls.filter (L1Line.recalled by_ line)).map L1Line.givenBack

theorem mem_recalledLines {ls : List L1Line} {by_ : Option Nat} {line : Nat} {wr : Bool} {l : L1Line}
    (h : l ∈ recalledLines ls by_ line wr) :
    (l ∈ ls ∧ l.recalled by_ line = false) ∨ ∃ o ∈ ls, o.recalled by_ line = true ∧ l = o.givenBack := by
  rcases List.mem_append.mp h with h | h
  · exact .inl (by simpa using h)
  · split at h
    · cases h
    · obtain ⟨o, ho, rfl⟩ := List.mem_map.mp h
      exact .inr ⟨o, (List.mem_filter.mp ho).1, (List.mem_filter.mp ho).2, rfl⟩

/-- A recall brings the dirty bytes of the lines it takes back to their home, and then changes the lines and the homes' records. -/
theorem State.OneOwner.recall_spec {s : State} (h : s.OneOwner) (by_ : Option Nat) (line : Nat) (wr : Bool) :
    (s.recall by_ line wr).ms.l1 = recalledLines s.ms.l1 by_ line wr ∧
    ∃ u, s.KeepsBytes u ∧ u.ms.l1 = s.ms.l1 ∧ (∀ a, (s.recall by_ line wr).byte a = u.byte a) ∧
      ∀ l ∈ s.ms.l1, l.recalled by_ line = true → u.AtHome l := by
  unfold State.recall
  dsimp only
  split
  · next hnone =>
    have hno : s.ms.l1.filter (L1Line.recalled by_ line) = [] := List.isEmpty_iff.mp hnone
    refine ⟨?_, s, .refl h, rfl, fun _ => rfl, fun l hl hr => absurd hr (List.filter_eq_nil_iff.mp hno l hl)⟩
    rw [recalledLines, hno, List.map_nil, ite_self, List.append_nil, List.filter_eq_self.mpr]
    exact fun l hl => by simpa using List.filter_eq_nil_iff.mp hno l hl
  · obtain ⟨hl1, hkeep, hhome⟩ := State.flushLines (ls := s.ms.l1.filter (L1Line.recalled by_ line)) h fun l hl => List.mem_of_mem_filter hl
    set u := (s.ms.l1.filter (L1Line.recalled by_ line)).foldl (fun s l => s.flushBytes l.dirty) s
    have hrec : u.OnlyRecords ((u.splitRegion (line * 128)).isolate L1Line.isOwned (line * 128) 9) :=
      (State.OnlyRecords.splitRegion u _).trans (State.OnlyRecords.isolate _ _ _ _)
    refine ⟨?_, u, hkeep, hl1, hrec.byte, fun l hl hr => hhome l hl (.inl (List.mem_filter.mpr ⟨hl, hr⟩))⟩
    show (List.filter _ ((u.splitRegion (line * 128)).isolate L1Line.isOwned (line * 128) 9).ms.l1) ++ _ = _
    rw [hrec.l1, hl1]
    rfl

/-- A copy that an invalidation drops: shared, in another cache than the one that asks. -/
def L1Line.dropped (by_ : Option Nat) (line : Nat) (l : L1Line) : Bool :=
  decide (l.line = line ∧ l.kind = .shared ∧ some l.cache ≠ by_)

namespace State

variable {s : State} {by_ : Option Nat} {line : Nat} {wr : Bool}

/-- A line owned after a recall was owned before; of the line recalled only the cache that asks is still owner. -/
theorem OneOwner.mem_recall (h : s.OneOwner) {l : L1Line} (hl : l ∈ (s.recall by_ line wr).ms.l1) (hk : l.kind = .owned) :
    l ∈ s.ms.l1 ∧ (l.line = line → some l.cache = by_) := by
  rcases mem_recalledLines ((h.recall_spec by_ line wr).1 ▸ hl) with ⟨hmem, hr⟩ | ⟨o, -, -, rfl⟩
  · exact ⟨hmem, fun hn => not_not.mp fun hc => Bool.false_ne_true (hr.symm.trans (decide_eq_true ⟨hn, hk, hc⟩))⟩
  · cases hk

theorem OneOwner.recall (h : s.OneOwner) (by_ : Option Nat) (line : Nat) (wr : Bool) : (s.recall by_ line wr).OneOwner := by
  have hl1 := (h.recall_spec by_ line wr).1
  by_cases hown : ∃ o ∈ s.ms.l1, o.recalled by_ line = true
  · obtain ⟨o, ho, hr⟩ := hown
    refine h.put (y := o.givenBack) (.copy s rfl nofun) fun l hl => ?_
    rcases mem_recalledLines (hl1 ▸ hl) with ⟨hmem, hnot⟩ | ⟨q, hq, hrq, rfl⟩
    · refine .inl ⟨hmem, fun hsame => ?_⟩
      rw [h.once l hmem o ho hsame.1 hsame.2, hr] at hnot
      cases hnot
    · obtain ⟨hlo, hko, -⟩ := of_decide_eq_true hr
      obtain ⟨hlq, hkq, -⟩ := of_decide_eq_true hrq
      exact .inr (congrArg L1Line.givenBack (h.owner q hq o ho hkq hko (hlq.trans hlo.symm)))
  · exact h.of_mem fun l hl => (mem_recalledLines (hl1 ▸ hl)).elim And.left fun ⟨o, ho, hr, _⟩ => absurd ⟨o, ho, hr⟩ hown

theorem KeepsBytes.recall (h : s.OneOwner) (by_ : Option Nat) (line : Nat) (wr : Bool) : s.KeepsBytes (s.recall by_ line wr) := by
  obtain ⟨hl1, u, hkeep, hsame, hbyte, hhome⟩ := h.recall_spec by_ line wr
  refine hkeep.trans (of_lines hkeep.1 (h.recall by_ line wr) hbyte (fun l hl hd => ?_) fun l hl hgone => ?_)
  · rcases mem_recalledLines (hl1 ▸ hl) with ⟨hmem, -⟩ | ⟨o, -, -, rfl⟩
    · exact hsame ▸ hmem
    · exact absurd rfl hd
  · rw [hsame] at hl
    refine hhome l hl (not_not.mp fun hr => hgone ?_)
    rw [hl1]
    exact List.mem_append_left _ (List.mem_filter.mpr ⟨hl, by simpa using hr⟩)

/-- After a recall a cache owns the line only if it asked, and owned it. -/
theorem OneOwner.not_owns_recall (h : s.OneOwner) {cache : Nat} (ho : by_ = some cache → s.owns cache line = false) :
    (s.recall by_ line wr).owns cache line = false :=
  State.not_owns fun l hl hk hn hc => by
    obtain ⟨hmem, hby⟩ := h.mem_recall hl hk
    exact State.kind_of_not_owns (ho (hc ▸ (hby hn).symm)) hmem hc hn hk

/-- An invalidation drops copies, and then changes the homes' records. -/
theorem dropSharers_records (s : State) (by_ : Option Nat) (line : Nat) :
    State.OnlyRecords { s with ms := { s.ms with l1 := s.ms.l1.filter fun l => !l.dropped by_ line } } (s.dropSharers by_ line) :=
  .ite (.refl _) (((OnlyRecords.splitRegion _ _).trans (.isolate _ _ _ _)).trans (.putRegion _ _))

theorem mem_dropSharers {l : L1Line} (hl : l ∈ (s.dropSharers by_ line).ms.l1) : l ∈ s.ms.l1 :=
  List.mem_of_mem_filter ((dropSharers_records s by_ line).l1 ▸ hl)

theorem KeepsBytes.dropSharers (h : s.OneOwner) (by_ : Option Nat) (line : Nat) : s.KeepsBytes (s.dropSharers by_ line) := by
  have hdrop : s.KeepsBytes { s with ms := { s.ms with l1 := s.ms.l1.filter fun l => !l.dropped by_ line } } := by
    refine of_lines h (h.of_mem fun l hl => List.mem_of_mem_filter hl) (fun _ => rfl) (fun l hl _ => List.mem_of_mem_filter hl)
      fun l hl hgone => .of_clean (h.clean hl fun hk => hgone (List.mem_filter.mpr ⟨hl, ?_⟩))
    simp [L1Line.dropped, hk]
  exact hdrop.trans (of_records (dropSharers_records s by_ line) hdrop.1)

/-! ### Leases and reads -/

theorem KeepsBytes.grantLease (h : s.OneOwner) (cls : Nat) {cache : Nat} (ho : s.owns cache line = false) :
    s.KeepsBytes (s.grantLease cls cache line) :=
  ite (drop h ho) (putCopy h ((OnlyRecords.disown s _).trans (.putRegion _ _)) nofun ho)

/-- A read that a cache does not answer, of a type that may be answered by an owner, finds none there. -/
theorem OneOwner.not_owns_of_misses (h : s.OneOwner) {cache : Nat} {rt : Rt} (hm : s.hits cache rt line = false)
    (hrt : s.loadRt cache rt ≠ .nc) : s.owns cache line = false :=
  State.not_owns fun l hl hk hn hc => by
    subst hn hc
    rw [State.hits, h.l1Line_eq hl] at hm
    cases hr : s.loadRt l.cache rt with
    | nc => exact hrt hr
    | own | si | wt => simp [hr, hk] at hm

/-- What a peer supplies is a lease, to a read of a type that keeps copies. -/
theorem peerLease_some {cache : Nat} {rt : Rt} {k : CopyKind} (h : s.peerLease cache rt line = some k) :
    s.loadRt cache rt ≠ .nc ∧ k ≠ .owned := by
  unfold State.peerLease at h
  dsimp only at h
  split at h
  · next hc =>
    simp only [Bool.and_eq_true] at hc
    refine ⟨of_decide_eq_true hc.1.1, ?_⟩
    split at h
    · next hp =>
      obtain ⟨l, hl, rfl⟩ := Option.map_eq_some_iff.mp h
      have hlease := hp.2
      rw [State.leaseHit, hl] at hlease
      intro hk
      simp [hk] at hlease
    · cases h
  · cases h

theorem KeepsBytes.readCopies (h : s.OneOwner) (cls cache : Nat) (rt : Rt) (line : Nat) :
    s.KeepsBytes (s.readCopies cls cache rt line) := by
  unfold State.readCopies
  split
  · exact touchL1 h cache line
  next hm =>
  have hmiss := h.not_owns_of_misses (Bool.eq_false_iff.mpr hm)
  split
  · next k hk => exact putCopy h (.refl s) (peerLease_some hk).2 (hmiss (peerLease_some hk).1)
  · have hhome (by_ : Option Nat) (ho : by_ = some cache → s.owns cache line = false) :
        s.KeepsBytes ((s.recall by_ line false).sliceFill line) ∧
          ((s.recall by_ line false).sliceFill line).owns cache line = false :=
      ⟨(KeepsBytes.recall h by_ line false).trans (of_records (.sliceFill _ line) (h.recall by_ line false)), h.not_owns_recall ho⟩
    dsimp only
    split
    · next hrt =>
      obtain ⟨hkeep, hnot⟩ := hhome (some cache) fun _ => hmiss (hrt ▸ nofun)
      exact hkeep.trans (putCopy hkeep.1 ((OnlyRecords.disown _ _).trans (.putRegion _ _)) nofun hnot)
    · obtain ⟨hkeep, hnot⟩ := hhome none nofun
      exact hkeep.trans (drop hkeep.1 hnot)
    · next hrt =>
      obtain ⟨hkeep, hnot⟩ := hhome (some cache) fun _ => hmiss hrt
      exact hkeep.trans (grantLease hkeep.1 cls hnot)

/-! ### Owners -/

theorem KeepsBytes.takeOwner (h : s.OneOwner) (cls cache : Nat) (hc : cacheable (128 * line) = true) :
    s.KeepsBytes (s.takeOwner cls cache line) ∧ (s.takeOwner cls cache line).owns cache line = true := by
  unfold State.takeOwner
  split
  · next ho => exact ⟨touchL1 h cache line, h.owns_touchL1 ho⟩
  next ho =>
  have hrecall := KeepsBytes.recall h (some cache) line true
  have hkeep := hrecall.trans (KeepsBytes.dropSharers hrecall.1 (some cache) line)
  generalize ht : (s.recall (some cache) line true).dropSharers (some cache) line = t at hkeep
  have hfree : ∀ l ∈ t.ms.l1, l.kind = .owned → l.line ≠ line := fun l hl hk hn => by
    obtain ⟨hmem, hby⟩ := h.mem_recall (mem_dropSharers (ht ▸ hl)) hk
    exact ho (owns_eq_true.mpr ⟨l, hmem, Option.some.inj (hby hn), hn, hk⟩)
  have hput (u : State) (hrec : t.OnlyRecords u) (cls' : Nat) :
      s.KeepsBytes (u.putL1 cache line (some ⟨cache, line, .owned, [], cls'⟩)) ∧
        (u.putL1 cache line (some ⟨cache, line, .owned, [], cls'⟩)).owns cache line = true := by
    have hfill := hkeep.trans (of_records hrec hkeep.1)
    have hfree : ∀ l ∈ u.ms.l1, l.kind = .owned → l.line ≠ line := fun l hl => hfree l (hrec.l1 ▸ hl)
    have hadmits : u.Admits ⟨cache, line, .owned, [], cls'⟩ :=
      ⟨fun _ => rfl, fun _ => hc, nofun, fun _ l hl hk hn => absurd hn (hfree l hl hk)⟩
    refine ⟨hfill.trans (put hfill.1 hadmits rfl ?_), ?_⟩
    · exact not_owns fun l hl hk hn => absurd hn (hfree l hl hk)
    · exact owns_eq_true.mpr ⟨_, List.mem_append_right _ List.mem_cons_self, rfl, rfl, rfl⟩
  exact hput _ (((OnlyRecords.ite (.refl t) (.sliceFill t line)).trans (.ite (.disown _ _) (.refl _))).trans (.putRegion _ _)) _

theorem KeepsBytes.readHome (h : s.OneOwner) (pa n : Nat) : s.KeepsBytes (s.readHome pa n) := by
  have hseen := of_records (.injectSeen s none noGang pa n) h
  refine ite (hseen.trans (foldl (fun t ht l => ?_) _ _ hseen.1)) hseen
  exact (KeepsBytes.recall ht none l false).trans (of_records (.sliceFill _ l) (ht.recall none l false))

end State

end Sys2Proof.Machine
end

section
/-! O15: each operation of the caches and their homes keeps one owner of a line, and every byte but those that it writes (09 R225-R227). -/

set_option Elab.async false

namespace Sys2Proof.Machine

/-! ### Bytes of a list, by address -/

theorem wlogGet_append (bs cs : List (Nat × Byte)) (a : Nat) : wlogGet (bs ++ cs) a = (wlogGet bs a).or (wlogGet cs a) := by
  induction bs with
  | nil => rfl
  | cons p r ih =>
    rw [List.cons_append, wlogGet, wlogGet, ih]
    split <;> rfl

/-- The bytes at the addresses that a test keeps. -/
theorem wlogGet_filter (keep : Nat → Bool) (bs : List (Nat × Byte)) (a : Nat) :
    wlogGet (bs.filter fun p => keep p.1) a = if keep a then wlogGet bs a else none := by
  induction bs with
  | nil => exact (ite_self _).symm
  | cons p r ih =>
    by_cases hp : p.1 = a
    · subst hp
      cases hk : keep p.1 <;> simp [wlogGet, hk, ih]
    · cases hk : keep p.1 <;> simp [wlogGet, hk, ih, hp]

/-- Of bytes at distinct addresses the order does not matter. -/
theorem wlogGet_reverse {bs : List (Nat × Byte)} (h : (bs.map Prod.fst).Nodup) (a : Nat) :
    wlogGet bs.reverse a = (bs.find? fun p => p.1 = a).map Prod.snd := by
  induction bs with
  | nil => rfl
  | cons p r ih =>
    obtain ⟨hp, hr⟩ := List.nodup_cons.mp h
    rw [List.reverse_cons, wlogGet_append, ih hr]
    by_cases e : p.1 = a
    · have hnone : (r.find? fun p => p.1 = a) = none := List.find?_eq_none.mpr fun q hq he =>
        hp (List.mem_map.mpr ⟨q, hq, (of_decide_eq_true he).trans e.symm⟩)
      simp [hnone, e, wlogGet]
    · simp [e, wlogGet]

/-- A line whose dirty bytes in a range are gone. -/
def L1Line.cut (a n : Nat) (l : L1Line) : L1Line := { l with dirty := l.dirty.filter fun p => !(decide (a ≤ p.1 ∧ p.1 < a + n)) }

theorem L1Line.wlogGet_cut (l : L1Line) (a n k : Nat) : wlogGet (l.cut a n).dirty k = if a ≤ k ∧ k < a + n then none else wlogGet l.dirty k := by
  rw [L1Line.cut, wlogGet_filter fun k => !(decide (a ≤ k ∧ k < a + n))]
  by_cases h : a ≤ k ∧ k < a + n <;> simp [h]

namespace State

variable {s : State}

/-! ### Bytes written in an owning cache -/

/-- What is merged with the dirty bytes of a line is what there is without it. -/
theorem OneOwner.homeByte_drop (h : s.OneOwner) {l : L1Line} (hl : l ∈ s.ms.l1) (a : Nat) :
    s.homeByte a = (wlogGet l.dirty a).getD ((s.putL1 l.cache l.line none).homeByte a) := by
  cases hd : wlogGet l.dirty a with
  | some b => exact h.homeByte_of_dirty hl hd
  | none =>
    have hsub : ∀ q ∈ (s.putL1 l.cache l.line none).ms.l1, q ∈ s.ms.l1 := fun q hq => List.mem_of_mem_filter hq
    rcases s.dirty_or_clean a with ⟨q, hq, b, hb⟩ | hclean
    · refine (h.homeByte_of_dirty hq hb).trans ((h.of_mem hsub).homeByte_of_dirty (List.mem_filter.mpr ⟨hq, ?_⟩) hb).symm
      simp only [Bool.not_eq_true', decide_eq_false_iff_not]
      rintro ⟨hc, hn⟩
      rw [h.once q hq l hl hc hn, hd] at hb
      cases hb
    · exact (homeByte_of_clean hclean).trans (homeByte_of_clean fun q hq => hclean q (hsub q hq)).symm

theorem OneOwner.writeOwned (h : s.OneOwner) {cache line : Nat} {bs : List (Nat × Byte)} (ho : s.owns cache line = true)
    (hin : ∀ p ∈ bs, p.1 / 128 = line) (hnd : (bs.map Prod.fst).Nodup) :
    (s.writeOwned cache line bs).OneOwner ∧
    ∀ a, (s.writeOwned cache line bs).homeByte a = ((bs.find? fun p => p.1 = a).map Prod.snd).getD (s.homeByte a) := by
  obtain ⟨l, hl, rfl, rfl, hk⟩ := owns_eq_true.mp ho
  have hy : s.Admits { l with dirty := bs.reverse ++ l.dirty.filter fun p => !(bs.any fun q => q.1 = p.1) } :=
    { dirty := fun _ => hk
      own := h.own l hl
      inLine := fun p hp => (List.mem_append.mp hp).elim (fun hp => hin p (List.mem_reverse.mp hp)) fun hp =>
        h.inLine l hl p (List.mem_of_mem_filter hp)
      alone := fun _ q hq hkq hn => (congrArg L1Line.cache (h.owner q hq l hl hkq hk hn) :) }
  obtain ⟨hone, hbyte⟩ := h.putLine hy
  rw [State.writeOwned, h.l1Line_eq hl]
  refine ⟨hone, fun a => (hbyte a).trans ?_⟩
  rw [h.homeByte_drop hl, wlogGet_append, wlogGet_reverse hnd, wlogGet_filter fun k => !(bs.any fun q => q.1 = k)]
  cases hfind : bs.find? fun p => p.1 = a with
  | some p => rfl
  | none =>
    have hnot : (bs.any fun q => q.1 = a) = false := List.any_eq_false.mpr (List.find?_eq_none.mp hfind)
    rw [hnot]
    rfl

/-! ### A write at the home -/

theorem applyHome_l1 (s : State) (pa : Nat) (bs : List Byte) : (s.applyHome pa bs).ms.l1 = s.ms.l1.map (L1Line.cut pa bs.length) :=
  (congrArg (fun z : State => z.ms.l1) (State.writeBytes_only _ pa bs) :)

theorem OneOwner.cut (h : s.OneOwner) {t : State} {pa n : Nat} (ht : t.ms.l1 = s.ms.l1.map (L1Line.cut pa n)) : t.OneOwner := by
  have hof : ∀ l ∈ t.ms.l1, ∃ o ∈ s.ms.l1, o.cut pa n = l := fun l hl => List.mem_map.mp (ht ▸ hl)
  constructor
  case once =>
    intro l hl q hq hc hn
    obtain ⟨⟨o, ho, rfl⟩, p, hp, rfl⟩ := And.intro (hof l hl) (hof q hq)
    rw [h.once o ho p hp hc hn]
  case owner =>
    intro l hl q hq hkl hkq hn
    obtain ⟨⟨o, ho, rfl⟩, p, hp, rfl⟩ := And.intro (hof l hl) (hof q hq)
    rw [h.owner o ho p hp hkl hkq hn]
  case dirty =>
    intro l hl hd
    obtain ⟨o, ho, rfl⟩ := hof l hl
    exact h.dirty o ho fun e => hd (by rw [L1Line.cut, e, List.filter_nil])
  case own =>
    intro l hl
    obtain ⟨o, ho, rfl⟩ := hof l hl
    exact h.own o ho
  case inLine =>
    intro l hl p hp
    obtain ⟨o, ho, rfl⟩ := hof l hl
    exact h.inLine o ho p (List.mem_of_mem_filter hp)

theorem OneOwner.applyHome (h : s.OneOwner) (pa : Nat) (bs : List Byte) :
    (s.applyHome pa bs).OneOwner ∧ ∀ a, (s.applyHome pa bs).homeByte a = if pa ≤ a then bs.getD (a - pa) (s.homeByte a) else s.homeByte a := by
  have hl1 := applyHome_l1 s pa bs
  have hone := h.cut hl1
  have hof : ∀ l ∈ (s.applyHome pa bs).ms.l1, ∃ o ∈ s.ms.l1, o.cut pa bs.length = l := fun l hl => List.mem_map.mp (hl1 ▸ hl)
  have hbyte (a : Nat) : (s.applyHome pa bs).byte a = if pa ≤ a ∧ a < pa + bs.length then bs.getD (a - pa) 0 else s.byte a :=
    State.byte_writeBytes _ pa bs a
  refine ⟨hone, fun a => ?_⟩
  by_cases hr : pa ≤ a ∧ a < pa + bs.length
  · have hlt : a - pa < bs.length := by omega
    rw [homeByte_of_clean, hbyte, if_pos hr, if_pos hr.1, List.getD_eq_getElem _ _ hlt, List.getD_eq_getElem _ _ hlt]
    intro l hl
    obtain ⟨o, -, rfl⟩ := hof l hl
    rw [L1Line.wlogGet_cut, if_pos hr]
  · have hsame : (if pa ≤ a then bs.getD (a - pa) (s.homeByte a) else s.homeByte a) = s.homeByte a := by
      split
      · exact List.getD_eq_default _ _ (by omega)
      · rfl
    rw [hsame]
    rcases s.dirty_or_clean a with ⟨l, hl, b, hb⟩ | hclean
    · refine (hone.homeByte_of_dirty (hl1 ▸ List.mem_map_of_mem hl) ?_).trans (h.homeByte_of_dirty hl hb).symm
      rw [L1Line.wlogGet_cut, if_neg hr, hb]
    · rw [homeByte_of_clean hclean, homeByte_of_clean, hbyte, if_neg hr]
      intro l hl
      obtain ⟨o, ho, rfl⟩ := hof l hl
      rw [L1Line.wlogGet_cut, if_neg hr, hclean o ho]

theorem OneOwner.writeHome (h : s.OneOwner) (pa : Nat) (bs : List Byte) :
    (s.writeHome pa bs).OneOwner ∧ ∀ a, (s.writeHome pa bs).homeByte a = if pa ≤ a then bs.getD (a - pa) (s.homeByte a) else s.homeByte a := by
  have hrecall : s.KeepsBytes ((linesOf pa bs.length).foldl (fun s l => (s.recall none l true).dropSharers none l) s) :=
    .foldl (fun t ht l => (KeepsBytes.recall ht none l true).trans (KeepsBytes.dropSharers (ht.recall none l true) none l)) _ s h
  have hkeep := hrecall.trans (.of_records (.sliceStore _ ((List.range bs.length).map (pa + ·))) hrecall.1)
  obtain ⟨hone, hbyte⟩ := hkeep.1.applyHome pa bs
  refine ⟨hone, fun a => (hbyte a).trans ?_⟩
  rw [hkeep.2]

end State

theorem State.oneOwner_reset : State.reset.OneOwner := ⟨nofun, nofun, nofun, nofun, nofun⟩

/-- Settles O15, operation by operation. -/
theorem cachesKeepOneOwner : Obligations.CachesKeepOneOwner := by
  unfold Obligations.CachesKeepOneOwner
  refine ⟨State.oneOwner_reset, fun s h => ?_⟩
  exact ⟨.recall h, .dropSharers h, fun line => .of_records (.sliceFill s line) h, fun l hl => .evict h hl, .touchL1 h,
    fun cls cache line hc => State.KeepsBytes.takeOwner h cls cache hc, .readCopies h, .readHome h, fun _ _ _ => h.writeOwned, h.writeHome⟩

end Sys2Proof.Machine
end

section
/-! O14: an accepted write whose bytes do not follow one another refutes the statement. -/

set_option Elab.async false

namespace Sys2Proof.Machine

/-! ### A walk that publishes a write of two scattered bytes -/

namespace ScatteredWrite

/-- Four bytes at 1 MiB. -/
def buffer : Rec256 := recSeal (BitVec.ofNat 256 (0x100000 + 4 * 2 ^ 64))

/-- A write that the L1 of core 0 has accepted, of bytes 0 and 16 from 2 MiB. -/
def write : Fwd := ⟨3, 0, .l1, [(0x200000, 1), (0x200010, 2)], 0, .gang 0, 1, [], none⟩

/-- Past the first slot, with that write on its way, and the mark of a release of core 0 at the first entry of an empty page table, which
covers it. -/
def state : State := { State.reset with
  now := 24000
  ms := { State.reset.ms with fwd := [write], marks := [⟨0, 8, 0, 1, .core, false⟩] } }

/-- Column core 1, whose walks lie outside that release. -/
def who : Who := state.who (.cc 1)

theorem oneOwner : state.OneOwner := ⟨nofun, nofun, nofun, nofun, nofun⟩

theorem place_eq : state.place? who buffer 0 0 4 = .virt 0x100000 := by decide +kernel

theorem walk_eq : (state.walkRecall who.tlbs 0x100000).walk 0x100000 = none := by decide +kernel

/-- The byte that follows the write's first is none of its own. -/
theorem outside : ∀ f ∈ state.ms.fwd, ∀ p ∈ f.bytes, p.1 ≠ 0x200001 := by decide

/-- The walk publishes the write, which its home applies at consecutive addresses. -/
theorem homeByte_ne : (state.checkAccess who buffer 0 0 4 4 .read).1.homeByte 0x200001 ≠ state.homeByte 0x200001 := by decide +kernel

end ScatteredWrite

/-- Refutes O14: it has no premise that the bytes of an accepted write follow one another, as those do that `State.accept` and
`State.holdHome` enter (`spread`), and `State.applyFwd` writes them at consecutive addresses from the first. In `ScatteredWrite.state` they
do not, so that the walk, which publishes the write and finds no leaf, changes a byte that is none of the write's (09 R212; 13 R305). -/
theorem not_checksTouchOnlyLeaves : ¬ Obligations.ChecksTouchOnlyLeaves := by
  unfold Obligations.ChecksTouchOnlyLeaves
  intro h
  obtain ⟨-, hbytes⟩ := h ScatteredWrite.state ScatteredWrite.who ScatteredWrite.buffer 0 0 4 4 .read
  obtain ⟨va, l, hplace, hwalk, -⟩ :=
    hbytes ScatteredWrite.oneOwner 0x200001 ScatteredWrite.outside ScatteredWrite.homeByte_ne
  obtain rfl : (0x100000 : Int) = va := Place.virt.inj (ScatteredWrite.place_eq.symm.trans hplace)
  exact Option.some_ne_none l (hwalk.symm.trans ScatteredWrite.walk_eq)

end Sys2Proof.Machine
end

section
/-! O13: what the checks of one access through a valid record find, in the order of their rule (10 R235). -/

set_option Elab.async false

namespace Sys2Proof.Machine

/-- A record's permissions refuse a kind of access (04 R101). -/
def refuses (r : Rec256) (k : AccKind) : Bool := (Rec256.ro r && decide (k ≠ .read)) || (Rec256.wo r && decide (k ≠ .write))

theorem refuses_iff {r : Rec256} {k : AccKind} :
    refuses r k = true ↔ Rec256.ro r = true ∧ k ≠ .read ∨ Rec256.wo r = true ∧ k ≠ .write := by
  simp only [refuses, Bool.or_eq_true, Bool.and_eq_true, decide_eq_true_eq]

/-- An address beyond the address range fails its translation (09 R206). -/
theorem checkVirt_outside (s : State) (w : Who) (space : Nat) {va : Int} (k : AccKind) (h : va < 0 ∨ (2 ^ 56 : Nat) ≤ va) :
    s.checkVirt w space va k = (s, .trap trapTranslation (lineOf (wrap 64 va)) true) := by
  unfold State.checkVirt State.checkPage
  rw [if_pos h]

section Access

variable {s : State} {w : Who} {r : Rec256} {x y : Int} {n al : Nat} {k : AccKind}

theorem checkAccess_oob (h : s.place? w r x y n = .oob) :
    s.checkAccess w r x y n al k = if Rec256.oob r = 1 then (s, .trap trapBounds 0 false) else (s, .zero) := by
  unfold State.checkAccess
  rw [h]

theorem checkAccess_bounds (h : s.place? w r x y n = .bounds) : s.checkAccess w r x y n al k = (s, .trap trapBounds 0 false) := by
  unfold State.checkAccess
  rw [h]

theorem checkAccess_scratch {pa : Nat} (h : s.place? w r x y n = .scratch pa) : s.checkAccess w r x y n al k =
    if refuses r k then (s, .trap trapPermission 0 false)
    else if pa % al ≠ 0 then (s, .trap trapMisaligned 0 false) else (s, .ok pa 7) := by
  unfold State.checkAccess
  rw [h]
  rfl

theorem checkAccess_virt {va : Int} (h : s.place? w r x y n = .virt va) : s.checkAccess w r x y n al k =
    if refuses r k then (s, .trap trapPermission (lineOf (wrap 64 va)) false)
    else if va % al ≠ 0 then (s, .trap trapMisaligned (lineOf (wrap 64 va)) false)
    else s.checkVirt w (Rec256.space r) va k := by
  unfold State.checkAccess
  rw [h]
  rfl

end Access

/-- Settles O13: one equation of the checks for each place of the element (`checkAccess_oob` to `checkAccess_virt`). -/
theorem accessChecksInOrder : Obligations.AccessChecksInOrder := by
  unfold Obligations.AccessChecksInOrder
  intro s w r x y n al k
  have hfree : ¬(Rec256.ro r = true ∧ k ≠ .read) → ¬(Rec256.wo r = true ∧ k ≠ .write) → ¬refuses r k = true :=
    fun h1 h2 h => (refuses_iff.mp h).elim h1 h2
  refine ⟨fun h hpol => ?_, fun h hpol => ?_, checkAccess_bounds, fun pa h => ⟨fun href => ?_, fun h1 h2 => ?_⟩,
    fun va h => ⟨fun href => ?_, fun h1 h2 hal => ?_, fun h1 h2 hal hva => ?_⟩⟩
  · rw [checkAccess_oob h, if_pos hpol]
  · rw [checkAccess_oob h, if_neg hpol]
  · rw [checkAccess_scratch h, if_pos (refuses_iff.mpr href)]
  · rw [checkAccess_scratch h, if_neg (hfree h1 h2)]
    by_cases hal : pa % al = 0 <;> simp [hal]
  · rw [checkAccess_virt h, if_pos (refuses_iff.mpr href)]
  · rw [checkAccess_virt h, if_neg (hfree h1 h2), if_pos hal]
  · rw [checkAccess_virt h, if_neg (hfree h1 h2), if_neg (not_not.mpr hal), checkVirt_outside s w _ k hva]

end Sys2Proof.Machine
end

section
/-! O18: what atomics and reductions store, from the stored value and their operands (10 R250). -/

set_option Elab.async false

namespace Sys2Proof

/-! ### The minimum and the maximum of two floating patterns -/

theorem Dy.lt_iff (c d : Dy) : c.lt d = true ↔ c.val < d.val := by
  rw [← Dy.scaled_mul (min_le_left c.e d.e), ← Dy.scaled_mul (min_le_right c.e d.e), mul_lt_mul_iff_left₀ (by positivity), Int.cast_lt]
  exact decide_eq_true_iff

theorem Dy.lt_eq_false_iff (c d : Dy) : c.lt d = false ↔ d.val ≤ c.val := by
  rw [← Bool.not_eq_true, Dy.lt_iff, not_lt]

/-- A zero below a zero is still the same number (08 R190). -/
theorem FVal.val_le_of_below {n k : Bool} {i j : ℕ} {e f : ℤ} (h : (FVal.fin n i e).below (.fin k j f) = true) :
    (FVal.fin n i e).dy.val ≤ (FVal.fin k j f).dy.val := by
  simp only [FVal.below, Bool.or_eq_true, Dy.lt_iff] at h
  rcases h with h | h
  · exact h.le
  · simp only [FVal.isZero, Bool.and_eq_true, decide_eq_true_eq] at h
    obtain ⟨⟨⟨rfl, rfl⟩, -⟩, -⟩ := h
    simp [FVal.val_dy, Exact.val]

theorem FVal.val_le_of_not_below {n k : Bool} {i j : ℕ} {e f : ℤ} (h : (FVal.fin n i e).below (.fin k j f) = false) :
    (FVal.fin k j f).dy.val ≤ (FVal.fin n i e).dy.val := by
  simp only [FVal.below, Bool.or_eq_false_iff, Dy.lt_eq_false_iff] at h
  exact h.1

namespace Ty

variable {t : Ty}

/-- Without a flush an operand is what its pattern decodes to (08 R187). -/
theorem readF_fst (t : Ty) (x : ℕ) : (t.readF false x).1 = t.decodeF x := by
  unfold Ty.readF
  simp only [Bool.false_and, Bool.false_eq_true, if_false]
  split
  next h => exact h.symm
  next => rfl

theorem flushed_false (t : Ty) (x : ℕ) : t.flushed false x = x % 2 ^ t.bits := rfl

/-- A pattern is read by its low bits. -/
theorem num_mod (t : Ty) (x : ℕ) : t.num (x % 2 ^ t.bits) = t.num x := by
  unfold Ty.num Ty.decodeF
  simp only [Nat.mod_mod]

theorem fminmax_num {a b : ℕ} {p q : ℚ} (mx : Bool) (ha : t.num a = some p) (hb : t.num b = some q) :
    t.num (t.fminmax mx false a b).bits = some (if mx then max p q else min p q) := by
  obtain ⟨n, i, e, hx⟩ := Operand.of_num ha
  obtain ⟨k, j, f, hy⟩ := Operand.of_num hb
  have hbits : (t.fminmax mx false a b).bits =
      if (if mx then !(FVal.fin n i e).below (.fin k j f) else !(FVal.fin k j f).below (.fin n i e)) then a % 2 ^ t.bits
      else b % 2 ^ t.bits := by
    unfold Ty.fminmax
    rw [hx.read, hy.read]
    rfl
  rw [hbits, ← hx.val_dy, ← hy.val_dy]
  cases mx
  · cases hlt : (FVal.fin k j f).below (.fin n i e)
    · simp [num_mod, ha, ← hx.val_dy, FVal.val_le_of_not_below hlt]
    · simp [num_mod, hb, ← hy.val_dy, FVal.val_le_of_below hlt]
  · cases hlt : (FVal.fin n i e).below (.fin k j f)
    · simp [num_mod, ha, ← hx.val_dy, FVal.val_le_of_not_below hlt]
    · simp [num_mod, hb, ← hy.val_dy, FVal.val_le_of_below hlt]

/-- Beside a NaN the other operand is the result (08 R190). -/
theorem fminmax_nan_left {a b : ℕ} {z : Bool} (mx : Bool) (ha : t.decodeF a = .nan z) (hb : ∀ c, t.decodeF b ≠ .nan c)
    (hlt : b < 2 ^ t.bits) : (t.fminmax mx false a b).bits = b := by
  unfold Ty.fminmax
  simp only [readF_fst, ha, flushed_false, Nat.mod_eq_of_lt hlt]

theorem fminmax_nan_right {a b : ℕ} {z : Bool} (mx : Bool) (hb : t.decodeF b = .nan z) (ha : ∀ c, t.decodeF a ≠ .nan c)
    (hlt : a < 2 ^ t.bits) : (t.fminmax mx false a b).bits = a := by
  unfold Ty.fminmax
  simp only [readF_fst, hb, flushed_false, Nat.mod_eq_of_lt hlt]

theorem fminmax_nan {a b : ℕ} {y z : Bool} (mx : Bool) (ha : t.decodeF a = .nan y) (hb : t.decodeF b = .nan z) :
    (t.fminmax mx false a b).bits = t.nanBits := by
  unfold Ty.fminmax
  simp only [readF_fst, ha, hb]

end Ty

/-! ### The integer atomics -/

/-- The signed type of the atomics of a width (10 R250). -/
def atomTy (b : Nat) : Ty := if b = 64 then .s64 else .s32

/-- The signed type of a width reads the width's bits. -/
theorem atomTy_value {b : Nat} (hb : b = 32 ∨ b = 64) (x : Nat) : (atomTy b).value x = sext b x := by
  rcases hb with rfl | rfl <;> rfl

section Integer

variable {b m v : Nat} (n : Nat)

theorem atomNew_sub (hm : m < 2 ^ b) (hv : v < 2 ^ b) : (atomNew 0x01 b m v n + v) % 2 ^ b = m := by
  show ((m + 2 ^ b - v) % 2 ^ b + v) % 2 ^ b = m
  rw [Nat.mod_add_mod, Nat.sub_add_cancel (by omega), Nat.add_mod_right, Nat.mod_eq_of_lt hm]

theorem atomNew_incw (hv : v < 2 ^ b) : atomNew 0x08 b m v n = if m ≥ v then 0 else m + 1 := by
  show (if v ≤ m then 0 else (m + 1) % 2 ^ b) = _
  split
  · rfl
  · exact Nat.mod_eq_of_lt (by omega)

theorem sext_atomNew_minS (hb : b = 32 ∨ b = 64) : sext b (atomNew 0x0B b m v n) = min (sext b m) (sext b v) := by
  show sext b (if (atomTy b).value m ≤ (atomTy b).value v then m else v) = _
  rw [atomTy_value hb, atomTy_value hb, apply_ite (sext b), min_def]

theorem sext_atomNew_maxS (hb : b = 32 ∨ b = 64) : sext b (atomNew 0x0C b m v n) = max (sext b m) (sext b v) := by
  show sext b (if (atomTy b).value m ≤ (atomTy b).value v then v else m) = _
  rw [atomTy_value hb, atomTy_value hb, apply_ite (sext b), max_def]

/-- An integer atomic stores a value of its width, whatever its op code. -/
theorem atomNew_lt (op : Nat) (hm : m < 2 ^ b) (hv : v < 2 ^ b) {n : Nat} (hn : n < 2 ^ b) : atomNew op b m v n < 2 ^ b := by
  have hmod (x : Nat) : x % 2 ^ b < 2 ^ b := Nat.mod_lt x (Nat.two_pow_pos b)
  have hite {p : Prop} [Decidable p] {x y : Nat} (hx : x < 2 ^ b) (hy : y < 2 ^ b) : (if p then x else y) < 2 ^ b := by
    split
    · exact hx
    · exact hy
  unfold atomNew
  extract_lets t
  split
  case h_1 | h_2 => exact hmod _
  case h_3 => exact lt_of_le_of_lt (min_le_left m v) hm
  case h_4 => exact max_lt hm hv
  case h_5 => exact Nat.and_lt_two_pow m hv
  case h_6 => exact Nat.or_lt_two_pow hm hv
  case h_7 => exact Nat.xor_lt_two_pow hm hv
  case h_8 => exact hv
  case h_9 => exact hite (Nat.two_pow_pos b) (hmod _)
  case h_10 => exact hite hv (lt_of_le_of_lt (Nat.sub_le m 1) hm)
  case h_11 => exact hite hn hm
  case h_12 => exact hite hm hv
  case h_13 => exact hite hv hm
  case h_14 => exact hm

end Integer

theorem atomValue_int {op : Nat} (h : op < 0x20) (w m v n : Nat) : atomValue op w m v n = atomNew op (8 * 2 ^ w) m v n :=
  if_neg (Nat.not_le.mpr h)

/-- The floating atomics, by their op codes. -/
theorem atomValue_minF (w m v n : Nat) : atomValue 0x22 w m v n = ((atomFmt w).fminmax false false m v).bits := rfl

theorem atomValue_maxF (w m v n : Nat) : atomValue 0x23 w m v n = ((atomFmt w).fminmax true false m v).bits := rfl

/-- Settles O18: the floating atomics are `fadd`, `fsub` and `fminmax` of their format, the integer ones are those of `atomNew`. -/
theorem atomicValues : Obligations.AtomicValues := by
  unfold Obligations.AtomicValues
  refine ⟨fun w m v n _ => ?_, fun w m v n hw hm hv hn => ?_⟩
  · rw [show (if w = 1 then Ty.bf16 else if w = 2 then .f32 else .f64) = atomFmt w from rfl]
    simp only [atomValue_minF, atomValue_maxF]
    refine ⟨rfl, rfl, fun p q hp hq => ⟨Ty.fminmax_num false hp hq, Ty.fminmax_num true hp hq⟩, fun b hb hnot hlt hlt' => ?_, ?_⟩
    · exact ⟨Ty.fminmax_nan_left false hb hnot hlt', Ty.fminmax_nan_left true hb hnot hlt', Ty.fminmax_nan_right false hb hnot hlt',
        Ty.fminmax_nan_right true hb hnot hlt'⟩
    · rintro ⟨y, hy⟩ ⟨z, hz⟩
      exact ⟨Ty.fminmax_nan false hy hz, Ty.fminmax_nan true hy hz⟩
  · have hb : 8 * 2 ^ w = 32 ∨ 8 * 2 ^ w = 64 := hw.imp (fun h => by rw [h]; rfl) fun h => by rw [h]; rfl
    refine ⟨rfl, atomNew_sub n hm hv, rfl, rfl, rfl, rfl, rfl, rfl, atomNew_incw n hv, rfl, rfl, sext_atomNew_minS n hb, sext_atomNew_maxS n hb,
      fun op hop => ?_⟩
    rw [atomValue_int hop]
    exact atomNew_lt op hm hv hn

end Sys2Proof
end

section
/-! O16, O17: what the checks of a memory word's lanes come to: one operation in flight, traps at the word, or a path kept there (10 R235,
R236; 16 R348; 17 R364). -/

set_option Elab.async false

namespace Sys2Proof.Machine

/-! ### What the checks leave -/

namespace State.OnlyMemory

theorem checkAccess (s : State) (w : Who) (r : Rec256) (x y : Int) (n al : Nat) (k : AccKind) :
    s.OnlyMemory (s.checkAccess w r x y n al k).1 := by
  have hsame (found : Found) : s.OnlyMemory (s, found).1 := refl s
  have hite {p : Prop} [Decidable p] {a b : State × Found} (ha : s.OnlyMemory a.1) (hb : s.OnlyMemory b.1) :
      s.OnlyMemory (if p then a else b).1 := by
    split
    · exact ha
    · exact hb
  unfold State.checkAccess
  cases s.place? w r x y n with
  | oob => exact hite (hsame _) (hsame _)
  | bounds => exact hsame _
  | scratch pa => exact hite (hsame _) (hite (hsame _) (hsame _))
  | virt va => exact hite (hsame _) (hite (hsame _) (checkVirt s w _ va k))

theorem checkLanes {f : State → Nat → State × Found} (h : ∀ (s : State) l, s.OnlyMemory (f s l).1) (s : State) (ls : List Nat) :
    s.OnlyMemory (s.checkLanes f ls).1 := by
  have hfold : ∀ (ls : List Nat) (z : State × List LaneFound),
      z.1.OnlyMemory (ls.foldl (fun r l => ((f r.1 l).1, r.2 ++ [(l, (f r.1 l).2)])) z).1 := fun ls => by
    induction ls with
    | nil => exact fun z => refl z.1
    | cons l ls ih => exact fun z => (h z.1 l).trans (ih _)
  exact hfold ls (s, [])

end State.OnlyMemory

namespace State.SameFails

theorem putOut (v : State) (is : Issue) (m : MWord) (kind : OpKind) (reg : Option Nat) (lanes : Word64) (accs : List Acc) :
    v.SameFails (v.putOut is m kind reg lanes accs) := by
  refine ite (refl v) (trans (of_ctxs ?_) (ite (modCtx _ _ fun x => Ctx.SameFails.modLanes _ (by exact fun _ _ => rfl) x) (refl _)))
  rfl

theorem takeTraps (s : State) (c : CtxId) (ts : List (Word64 × TrapInfo)) (h : Header) (hdr : Word64) (idx : Nat) :
    s.SameFails (s.takeTraps c ts h hdr idx) :=
  foldl (fun _ _ => foldl (fun u (t : Word64 × TrapInfo) => takeTrap u c t.1 t.2 h hdr idx) _ _) _ s

end State.SameFails

theorem takeTraps_nil (s : State) (c : CtxId) (h : Header) (hdr : Word64) (idx : Nat) : s.takeTraps c [] h hdr idx = s :=
  List.foldlRecOn (motive := fun t => t = s) _ _ rfl fun _ ht _ _ => ht

/-! ### Findings -/

/-- A lane's finding lets it move past the word, or is a trap: it neither waits nor asks for a page. -/
def MemForm.ends (f : MemForm) (q : Found) : Prop := f.lets q ∨ ∃ k ln lt, q = .trap k ln lt

section Findings

variable {f : MemForm} {fs : List LaneFound}

theorem MemForm.ends.not_wait {q : Found} (h : f.ends q) : q ≠ .wait := by
  rintro rfl
  rcases h with (⟨_, _, h⟩ | h | ⟨_, _, _, h⟩) | ⟨_, _, _, h⟩ <;> cases h

theorem pageGroups_of_ends (h : ∀ q ∈ fs, f.ends q.2) : pageGroups fs = [] := by
  refine List.filterMap_eq_nil_iff.mpr fun q hq => ?_
  rcases h q hq with (⟨_, _, e⟩ | e | ⟨-, _, _, e⟩) | ⟨_, _, _, e⟩ <;> rw [e]

/-- A finding that lets its lane move is no precise trap. -/
theorem MemForm.lets.precise {q : Found} (h : f.lets q) : q.precise f.late = none := by
  rcases h with ⟨_, _, rfl⟩ | rfl | ⟨hlate, _, _, rfl⟩
  · rfl
  · rfl
  · rw [Found.precise, hlate]; rfl

theorem trapGroups_of_lets (h : ∀ q ∈ fs, f.lets q.2) (slot : Nat) : trapGroups fs f.late slot = [] := by
  refine List.filterMap_eq_nil_iff.mpr fun k _ => ?_
  dsimp only
  split
  next => rfl
  next q tail hq =>
    obtain ⟨hmem, htrap⟩ := List.mem_filter.mp (hq ▸ List.mem_cons_self : q ∈ _)
    simp [(h q hmem).precise] at htrap

theorem peerBlocks_iff : f.peerBlocks fs = true ↔ f.late = false ∧ f.soft = false ∧ ¬noPeer fs := by
  unfold MemForm.peerBlocks noPeer
  push Not
  simp only [Bool.and_eq_true, Bool.not_eq_true', List.any_eq_true]
  constructor
  · rintro ⟨⟨⟨⟨l, found⟩, hq, hp⟩, hlate⟩, hsoft⟩
    cases found with
    | ok pa tgt => exact ⟨hlate, hsoft, _, hq, pa, tgt, rfl, fun h => Bool.false_ne_true (h.symm.trans hp)⟩
    | _ => cases hp
  · rintro ⟨hlate, hsoft, q, hq, pa, tgt, hok, hp⟩
    refine ⟨⟨⟨q, hq, ?_⟩, hlate⟩, hsoft⟩
    rw [hok]
    exact Bool.eq_true_of_not_eq_false hp

theorem accs_nonempty {g : MemForm} {is : Issue} {v : State} (h : ¬noPeer fs) : (fs.flatMap (g.accOf is v)).isEmpty = false := by
  unfold noPeer at h
  push Not at h
  obtain ⟨q, hq, pa, tgt, hok, -⟩ := h
  have hne : g.accOf is v q ≠ [] := by
    unfold MemForm.accOf
    rw [hok]
    dsimp only
    split <;> exact List.cons_ne_nil _ _
  rw [Bool.eq_false_iff, ne_eq, List.isEmpty_iff, List.flatMap_eq_nil_iff]
  exact fun hall => hne (hall q hq)

end Findings

/-- The lanes of one page with one outcome leave a walk that waits as it is. -/
theorem mem_pageOutcome {s : State} {w : Who} {va : Nat → Option Nat} {qs : List LaneFound} {q : LaneFound} (hq : q ∈ qs)
    (ht : q.2.translated = false) : q ∈ s.pageOutcome w va qs := by
  unfold State.pageOutcome
  dsimp only
  split
  · refine List.mem_map.mpr ⟨q, hq, ?_⟩
    rw [ht]
    rfl
  · exact hq

/-! ### The effect of an ordinary memory word -/

/-- What the lanes of a memory word find, the outcome of their pages and the form's own rule applied. -/
def MemForm.findings (f : MemForm) (m : MWord) (is : Issue) (s v : State) (qs : List LaneFound) : List LaneFound :=
  (v.pageOutcome (s.who is.ctx) (is.vaOf s m f.n) qs).map fun q => (q.1, f.fin m is s q.1 q.2)

/-- The accesses of the lanes' findings, each with its virtual line. -/
def MemForm.accsOf (f : MemForm) (m : MWord) (is : Issue) (s v : State) (qs : List LaneFound) : List Acc :=
  (f.findings m is s v qs).flatMap (MemForm.accOf { f with line := f.lineAt m is s } is v)

/-- The accesses in flight. -/
def MemForm.putFound (f : MemForm) (m : MWord) (reg : Option Nat) (is : Issue) (s v : State) (qs : List LaneFound) : State :=
  v.putOut is m f.kind reg (accLanes (f.accsOf m is s v qs)) (f.accsOf m is s v qs)

/-- A form whose own rule leaves a walk that waits as it is. -/
def MemForm.Waits (f : MemForm) : Prop := ∀ r line, f.adjust r line .wait = .wait

section Effect

variable {m : MWord} {f : MemForm} {reg : Option Nat} {is : Issue} {s v : State} {qs : List LaneFound}

theorem fin_wait (hf : f.Waits) (l : Nat) : f.fin m is s l .wait = .wait := by
  simp only [MemForm.fin, MemForm.found, hf _ _, ite_self]

theorem not_waits (hf : f.Waits) (h : ∀ q ∈ f.findings m is s v qs, f.ends q.2) : ¬(qs.any fun q => q.2.waits) = true := by
  rw [List.any_eq_true]
  rintro ⟨⟨l, found⟩, hq, hw⟩
  cases found with
  | wait =>
    refine (h (l, f.fin m is s l .wait) ?_).not_wait (fin_wait hf l)
    exact List.mem_map.mpr ⟨_, mem_pageOutcome hq rfl, rfl⟩
  | _ => cases hw

section Valid

variable (hv : Rec256.valid (is.c.recSlot is.sub m.slot) = true)
include hv

/-- With a valid record of a space that it may use, a memory word makes what its lanes find into accesses. -/
theorem memEff_launches (hsp : Rec256.space (is.c.recSlot is.sub m.slot) ≠ 4 ∨ f.ring = true) (hf : f.Waits)
    (hcheck : s.checkLanes (f.check m is s) (lanesOf is.act) = (v, qs)) (hend : ∀ q ∈ f.findings m is s v qs, f.ends q.2) :
    memEff m f reg is s = some (launchAccs m { f with line := f.lineAt m is s } reg id (f.peerBlocks (f.findings m is s v qs)) is v
      (f.findings m is s v qs)) := by
  have hring : ¬(Rec256.space (is.c.recSlot is.sub m.slot) = 4 && !f.ring) = true := by
    rcases hsp with h | h <;> simp [h]
  have hcheck' : s.checkLanes (fun s' l => s'.checkAccess (s.who is.ctx) (is.c.recSlot is.sub m.slot &&& ~~~f.strip) (is.index s' m l).1
      (is.index s' m l).2 f.n f.al f.acc) (lanesOf is.act) = (v, qs) := hcheck
  unfold memEff
  dsimp only
  rw [if_neg (by rw [hv]; decide), if_neg hring, hcheck', if_neg (not_waits hf hend)]
  rfl

/-- A ring where none may stand is the queue-misuse trap of every active lane. -/
theorem memEff_ring (hsp : Rec256.space (is.c.recSlot is.sub m.slot) = 4) (hring : f.ring = false) :
    memEff m f reg is s = some ⟨s.allTrap is 0x09 m.slot, is.act, [], false⟩ := by
  unfold memEff
  dsimp only
  rw [if_neg (by rw [hv]; decide), if_pos (by simp [hsp, hring])]
  rfl

end Valid

/-- An invalid record is the bounds trap of every active lane. -/
theorem memEff_invalid (hv : Rec256.valid (is.c.recSlot is.sub m.slot) = false) :
    memEff m f reg is s = some ⟨s.allTrap is 0x04 m.slot, is.act, [], false⟩ := by
  unfold memEff
  dsimp only
  rw [if_pos (by rw [hv]; rfl)]
  rfl

/-- Where no lane asks for a page and no answer of another module is awaited, the lanes' accesses go in flight and the failing lanes trap. -/
theorem launchAccs_goes {fs : List LaneFound} (hend : ∀ q ∈ fs, f.ends q.2) : launchAccs m f reg id false is v fs =
    .held ((v.putOut is m f.kind reg (accLanes (fs.flatMap (f.accOf is v))) (fs.flatMap (f.accOf is v))).takeTraps is.ctx
      (trapGroups fs f.late m.slot) is.h is.hdr is.idx) (trapLanes fs f.late m.slot) := by
  have hnone : (maskOf fun _ => false) = 0 := by decide
  unfold launchAccs
  rw [pageGroups_of_ends hend]
  simp only [List.any_nil, Bool.false_and, Bool.false_eq_true, if_false]
  rw [hnone]
  exact congrArg (Done.held _) BitVec.or_zero

/-- Where one is awaited, the path stays at the word. -/
theorem launchAccs_waits {fs : List LaneFound} (hlets : ∀ q ∈ fs, f.lets q.2) (hacc : (fs.flatMap (f.accOf is v)).isEmpty = false) :
    launchAccs m f reg id true is v fs =
      .held ((v.putOut is m f.kind reg (accLanes (fs.flatMap (f.accOf is v))) (fs.flatMap (f.accOf is v))).waits is v.opId
        (accLanes (fs.flatMap (f.accOf is v)))) is.path := by
  have hnone : (maskOf fun _ => false) = 0 := by decide
  unfold launchAccs
  rw [pageGroups_of_ends fun q hq => .inl (hlets q hq), trapGroups_of_lets hlets]
  simp only [List.any_nil, hnone, hacc, Bool.not_false, Bool.and_self, if_true]
  rw [show is.path &&& ~~~(0 : Word64) = is.path from BitVec.and_allOnes]
  unfold State.putOut
  rw [hacc]
  rfl

section Outcome

variable (hv : Rec256.valid (is.c.recSlot is.sub m.slot) = true) (hsp : Rec256.space (is.c.recSlot is.sub m.slot) ≠ 4 ∨ f.ring = true)
  (hf : f.Waits) (hcheck : s.checkLanes (f.check m is s) (lanesOf is.act) = (v, qs))
include hv hsp hf hcheck

/-- The lanes that pass put their accesses in flight, the others trap. -/
theorem memEff_goes (hend : ∀ q ∈ f.findings m is s v qs, f.ends q.2) (hpeer : f.late = true ∨ f.soft = true ∨ noPeer (f.findings m is s v qs)) :
    memEff m f reg is s = some (.held ((f.putFound m reg is s v qs).takeTraps is.ctx (trapGroups (f.findings m is s v qs) f.late m.slot)
      is.h is.hdr is.idx) (trapLanes (f.findings m is s v qs) f.late m.slot)) := by
  have hblk : f.peerBlocks (f.findings m is s v qs) = false := by
    rw [Bool.eq_false_iff, ne_eq, peerBlocks_iff]
    rintro ⟨hlate, hsoft, hno⟩
    rcases hpeer with h | h | h
    · exact Bool.false_ne_true (hlate.symm.trans h)
    · exact Bool.false_ne_true (hsoft.symm.trans h)
    · exact hno h
  rw [memEff_launches hv hsp hf hcheck hend, hblk]
  exact congrArg some (launchAccs_goes hend)

/-- Where every lane passes, none traps. -/
theorem memEff_passes (hlets : ∀ q ∈ f.findings m is s v qs, f.lets q.2)
    (hpeer : f.late = true ∨ f.soft = true ∨ noPeer (f.findings m is s v qs)) :
    memEff m f reg is s = some (.held (f.putFound m reg is s v qs) 0) := by
  rw [memEff_goes hv hsp hf hcheck (fun q hq => .inl (hlets q hq)) hpeer, trapLanes, trapGroups_of_lets hlets, takeTraps_nil]
  rfl

/-- A path that another module's answer keeps at its word waits there. -/
theorem memEff_waits (hlets : ∀ q ∈ f.findings m is s v qs, f.lets q.2)
    (hpeer : f.late = false ∧ f.soft = false ∧ ¬noPeer (f.findings m is s v qs)) :
    memEff m f reg is s = some (.held ((f.putFound m reg is s v qs).waits is v.opId (accLanes (f.accsOf m is s v qs))) is.path) := by
  rw [memEff_launches hv hsp hf hcheck (fun q hq => .inl (hlets q hq)), peerBlocks_iff.mpr hpeer]
  exact congrArg some (launchAccs_waits hlets (accs_nonempty hpeer.2.2))

end Outcome

end Effect

/-! ### The words -/

theorem State.putOut_stuck (v : State) (is : Issue) (m : MWord) (kind : OpKind) (reg : Option Nat) (lanes : Word64) (accs : List Acc) :
    (v.putOut is m kind reg lanes accs).stuck = v.stuck := by
  unfold State.putOut
  dsimp only
  split
  · rfl
  · unfold State.busySlot
    split <;> rfl

/-- A memory word whose effect is that of a form does what `Accesses` says. -/
theorem accesses_of_memEff {i : Instr} {m : MWord} {form : Issue → State → MemForm} {reg : Option Nat}
    (he : ∀ s, exec i s = issueWith i 0 (fun is s => memEff m (form is s) reg is s) s) (hf : ∀ is s, (form is s).Waits) :
    Accesses i m form reg := by
  have hkept (is : Issue) (s v : State) (qs : List LaneFound) (h : s.checkLanes ((form is s).check m is s) (lanesOf is.act) = (v, qs)) :
      s.SameFails ((form is s).putFound m reg is s v qs) := by
    have hmem := State.OnlyMemory.checkLanes (f := (form is s).check m is s) (fun u l => State.OnlyMemory.checkAccess u _ _ _ _ _ _ _) s
      (lanesOf is.act)
    rw [h] at hmem
    exact (State.SameFails.of_ctxs hmem.ctxs).trans (State.SameFails.putOut _ _ _ _ _ _ _)
  refine ⟨?_, ?_, ?_, ?_, ?_⟩
  · intro s r v qs hr _ hm ha is rc f hcheck fs accs hv hsp hlets hpeer hstuck
    exact exec_passes (he s) hr hm ha (memEff_passes hv hsp (hf is s) hcheck hlets hpeer)
      (fun l => (hkept is s v qs hcheck is.ctx l).trans (hm.settled l)) ((State.putOut_stuck _ _ _ _ _ _ _).trans hstuck)
  · intro s r v qs hr _ hm ha is rc f hcheck fs accs hv hsp hlets hpeer hstuck
    exact exec_passes (he s) hr hm ha (memEff_waits hv hsp (hf is s) hcheck hlets hpeer)
      (fun l => ((hkept is s v qs hcheck).trans (State.SameFails.block _ _ _ _) is.ctx l).trans (hm.settled l))
      ((State.putOut_stuck _ _ _ _ _ _ _).trans hstuck)
  · intro s r v qs hr _ hm ha is rc f hcheck fs accs u hv hsp hend hpeer hstuck
    exact exec_passes (he s) hr hm ha (memEff_goes hv hsp (hf is s) hcheck hend hpeer)
      (fun l => ((hkept is s v qs hcheck).trans (State.SameFails.takeTraps _ _ _ _ _ _) is.ctx l).trans (hm.settled l)) hstuck
  · exact doesBut_of_fails_kept he (fun is s => State.SameFails.takeTrap s _ _ _ _ _ _ is.ctx) fun is s _ hv => memEff_invalid hv
  · exact doesBut_of_fails_kept he (fun is s => State.SameFails.takeTrap s _ _ _ _ _ _ is.ctx) fun is s _ ⟨hv, hsp, hring⟩ =>
      memEff_ring hv hsp hring

/-- Settles O16: each word's effect is that of its form, and `accesses_of_memEff` says what that comes to. -/
theorem memoryWordsGoOut : Obligations.MemoryWordsGoOut := by
  refine ⟨fun m => ?_, fun m => ?_, fun m => ?_, fun m => ?_, fun m => ?_⟩
  · exact accesses_of_memEff (fun _ => rfl) fun _ _ _ _ => rfl
  · exact accesses_of_memEff (fun _ => rfl) fun _ _ _ _ => rfl
  · exact accesses_of_memEff (fun _ => rfl) fun _ _ _ _ => rfl
  · exact accesses_of_memEff (fun _ => rfl) fun _ _ _ _ => rfl
  · exact accesses_of_memEff (fun _ => rfl) fun _ _ _ _ => rfl

theorem accesses_atom {i : MWord → Instr} {op : Nat} (he : ∀ m s, exec (i m) s = issueWith (i m) 0 (atomEff m op) s) (m : MWord) :
    Accesses (i m) m (fun _ _ => atomForm m op) (dstReg? m.d) := accesses_of_memEff (he m) fun _ _ _ _ => rfl

theorem accesses_red {i : MWord → Instr} {op : Nat} (he : ∀ m s, exec (i m) s = issueWith (i m) 0 (redEff m op) s) (m : MWord) :
    Accesses (i m) m (fun _ _ => redForm m op) none := accesses_of_memEff (he m) fun _ _ _ _ => rfl

/-- Settles O17: each word's effect is that of the atomic's or the reduction's form with its op code. -/
theorem atomicsGoOut : Obligations.AtomicsGoOut := by
  refine ⟨⟨?_, ?_, ?_, ?_, ?_, ?_, ?_, ?_, ?_, ?_, ?_, ?_, ?_⟩, ⟨?_, ?_, ?_, ?_⟩, ⟨?_, ?_, ?_, ?_, ?_, ?_, ?_, ?_, ?_⟩, ?_, ?_, ?_, ?_⟩
  iterate 17 exact accesses_atom fun _ _ => rfl
  iterate 13 exact accesses_red fun _ _ => rfl

end Sys2Proof.Machine
end

section
/-! SUPPORT. What the operations of the caches and their homes leave as it is, and every byte kept by those that move lines, also of lines that
no module's memory holds: a write that runs past the module's own memory owns the lines beyond it too (09 R225, R226). -/

set_option Elab.async false

namespace Sys2Proof.Machine

/-! ### What operations of the caches leave -/

/-- Nothing but the lines of the caches and slices, the homes' records, the access counts, the marks, the step's stores and the injected
errors differs, and where none is armed none is. -/
structure State.OnlyCaches (s t : State) : Prop where
  rest : { t with
    wlog := s.wlog
    ms := { t.ms with l1 := s.ms.l1, slice := s.ms.slice, regions := s.ms.regions, counts := s.ms.counts, marks := s.ms.marks }
    ev := { t.ev with inject := s.ev.inject } } = s
  calm : s.ev.inject = [] → t.ev.inject = []

namespace State.OnlyCaches

variable {s t u : State}

theorem refl (s : State) : s.OnlyCaches s := ⟨rfl, id⟩

theorem trans (h : s.OnlyCaches t) (k : t.OnlyCaches u) : s.OnlyCaches u := by
  refine ⟨?_, fun hs => k.calm (h.calm hs)⟩
  have h1 := h.rest
  have h2 := k.rest
  rw [← h1, ← h2]

theorem ms (h : s.OnlyCaches t) : t.ms.ops = s.ms.ops ∧ t.ms.fwd = s.ms.fwd :=
  ⟨(congrArg (fun z : State => z.ms.ops) h.rest :), (congrArg (fun z : State => z.ms.fwd) h.rest :)⟩

theorem ctxs (h : s.OnlyCaches t) : t.ctxs = s.ctxs := (congrArg State.ctxs h.rest :)

theorem dr (h : s.OnlyCaches t) : t.dr = s.dr := (congrArg State.dr h.rest :)

theorem stuck (h : s.OnlyCaches t) : t.stuck = s.stuck := (congrArg State.stuck h.rest :)

theorem opId (h : s.OnlyCaches t) : t.opId = s.opId := (congrArg State.opId h.rest :)

theorem ctx (h : s.OnlyCaches t) (c : CtxId) : t.ctx c = s.ctx c := by unfold State.ctx; rw [h.ctxs]

theorem ite {p : Prop} [Decidable p] {a b : State} (ha : s.OnlyCaches a) (hb : s.OnlyCaches b) : s.OnlyCaches (if p then a else b) := by
  split
  · exact ha
  · exact hb

theorem foldl {α : Type} {f : State → α → State} (h : ∀ (s : State) x, s.OnlyCaches (f s x)) (l : List α) :
    ∀ s : State, s.OnlyCaches (l.foldl f s) := by
  induction l with
  | nil => exact refl
  | cons x l ih => exact fun s => (h s x).trans (ih _)

/-- Only the caches' and homes' own records differ. -/
theorem of_caches {l1 : List L1Line} {slice : List SliceLine} {regions : List Region} {counts : SMap Nat} {marks : List Mark} :
    s.OnlyCaches { s with ms := { s.ms with l1 := l1, slice := slice, regions := regions, counts := counts, marks := marks } } :=
  ⟨rfl, id⟩

theorem writeBytes (s : State) (a : Nat) (bs : List Byte) : s.OnlyCaches (s.writeBytes a bs) := by
  induction bs generalizing s a with
  | nil => exact refl s
  | cons b r ih => exact trans (t := { s with wlog := (a, b) :: s.wlog }) ⟨rfl, id⟩ (ih { s with wlog := (a, b) :: s.wlog } (a + 1))

theorem sliceStore (s : State) (as : List Nat) : s.OnlyCaches (s.sliceStore as) := foldl (fun _ _ => ite of_caches of_caches) _ s

theorem splitRegion (s : State) (pa : Nat) : s.OnlyCaches (s.splitRegion pa) := ite of_caches of_caches

theorem isolate (kept : L1Line → Bool) (pa n : Nat) : ∀ s, State.OnlyCaches s (State.isolate kept pa n s) := by
  induction n with
  | zero => exact refl
  | succ n ih => exact fun s => ite ((splitRegion s pa).trans (ih _)) (refl s)

theorem disown (s : State) (pa : Nat) : s.OnlyCaches (s.disown pa) :=
  ite (((splitRegion s pa).trans (isolate _ _ _ _)).trans of_caches) (refl s)

theorem flushBytes (s : State) (bs : List (Nat × Byte)) : s.OnlyCaches (s.flushBytes bs) :=
  (foldl (fun s (p : Nat × Byte) => writeBytes s p.1 [p.2]) _ s).trans (sliceStore _ _)

theorem recallLine (s : State) (by_ : Option Nat) (line : Nat) (wr : Bool) : s.OnlyCaches (s.recall by_ line wr) :=
  ite (refl s) ((((foldl (fun s (l : L1Line) => flushBytes s l.dirty) _ s).trans (splitRegion _ _)).trans (isolate _ _ _ _)).trans of_caches)

theorem dropSharers (s : State) (by_ : Option Nat) (line : Nat) : s.OnlyCaches (s.dropSharers by_ line) :=
  ite of_caches ((of_caches.trans ((splitRegion _ _).trans (isolate _ _ _ _))).trans of_caches)

theorem evict (s : State) (l : L1Line) : s.OnlyCaches (s.evict l) := (flushBytes s l.dirty).trans of_caches

theorem putL1 (s : State) (cache line : Nat) (x : Option L1Line) : s.OnlyCaches (s.putL1 cache line x) := by
  cases x with
  | none => exact of_caches
  | some y =>
    refine trans ?_ of_caches
    dsimp only
    split
    · exact of_caches.trans (evict _ _)
    · exact of_caches

theorem touchL1 (s : State) (cache line : Nat) : s.OnlyCaches (s.touchL1 cache line) := by
  unfold State.touchL1
  split
  · exact of_caches
  · exact refl s

theorem grantLease (s : State) (cls cache line : Nat) : s.OnlyCaches (s.grantLease cls cache line) :=
  ite (putL1 s cache line none) (((disown s _).trans of_caches).trans (putL1 _ _ _ _))

theorem countAccess (s : State) (pa : Nat) : s.OnlyCaches (s.countAccess pa) := ite of_caches (refl s)

theorem countMiss (s : State) (cache : Nat) (rt : Rt) (pa n : Nat) : s.OnlyCaches (s.countMiss cache rt pa n) :=
  ite (countAccess s pa) (refl s)

theorem injectSeen (s : State) (cache : Option Nat) (gid : Word) (pa n : Nat) : s.OnlyCaches (s.injectSeen cache gid pa n) :=
  ite ⟨rfl, fun h => List.map_eq_nil_iff.mpr h⟩ (refl s)

theorem injectL1 (s : State) (cache pa n : Nat) : s.OnlyCaches (s.injectL1 cache pa n) :=
  ite (refl s) ⟨rfl, fun h => List.map_eq_nil_iff.mpr h⟩

theorem readHome (s : State) (pa n : Nat) : s.OnlyCaches (s.readHome pa n) :=
  ite ((injectSeen s _ _ _ _).trans (foldl (fun s l => (recallLine s none l false).trans of_caches) _ _)) (injectSeen s _ _ _ _)

theorem writeHome (s : State) (pa : Nat) (bs : List Byte) : s.OnlyCaches (s.writeHome pa bs) :=
  (((foldl (fun s l => (recallLine s none l true).trans (dropSharers _ none l)) _ s).trans (sliceStore _ _)).trans of_caches).trans
    (writeBytes _ _ _)

theorem readCopies (s : State) (cls cache : Nat) (rt : Rt) (line : Nat) : s.OnlyCaches (s.readCopies cls cache rt line) := by
  have hhome (by_ : Option Nat) : s.OnlyCaches ((s.recall by_ line false).sliceFill line) := (recallLine s by_ line false).trans of_caches
  unfold State.readCopies
  split
  · exact touchL1 s cache line
  · split
    · exact putL1 s _ _ _
    · dsimp only
      split
      · exact (((hhome _).trans (disown _ _)).trans of_caches).trans (putL1 _ _ _ _)
      · exact (hhome _).trans (putL1 _ _ _ _)
      · exact (hhome _).trans (grantLease _ _ _ _)

theorem takeOwner (s : State) (cls cache line : Nat) : s.OnlyCaches (s.takeOwner cls cache line) := by
  have hclear := (recallLine s (some cache) line true).trans (dropSharers _ (some cache) line)
  exact ite (touchL1 s cache line) ((((hclear.trans (ite (refl _) of_caches)).trans (ite (disown _ _) (refl _))).trans of_caches).trans
    (putL1 _ _ _ _))

theorem writeOwned (s : State) (cache line : Nat) (bs : List (Nat × Byte)) : s.OnlyCaches (s.writeOwned cache line bs) := by
  unfold State.writeOwned
  split
  · exact putL1 s _ _ _
  · exact flushBytes s bs

theorem writeCopies (s : State) (cls cache : Nat) (rt : Rt) (pa n : Nat) : s.OnlyCaches (s.writeCopies cls cache rt pa n) :=
  ite (foldl (fun s l => grantLease s cls cache l) _ s) (ite (refl s) (foldl (fun s l => putL1 s cache l none) _ s))

theorem ownWrite (s : State) (cls cache pa : Nat) (bs : List Byte) : s.OnlyCaches (s.ownWrite cls cache pa bs) := by
  refine (countMiss s cache .own pa bs.length).trans (foldl (fun s l => ?_) _ _)
  have hwrite := ((takeOwner s cls cache l).trans (writeOwned _ cache l ((spread pa bs).filter fun p => p.1 / 128 = l))).trans
    (injectL1 _ cache pa bs.length)
  exact ite (hwrite.trans (recallLine _ none l false)) hwrite

theorem writeAs (s : State) (cls cache : Nat) (rt : Rt) (pa : Nat) (bs : List Byte) : s.OnlyCaches (s.writeAs cls cache rt pa bs) :=
  ite (writeBytes s pa bs) (ite (ownWrite s cls cache pa bs)
    (((countAccess s pa).trans (writeHome _ pa bs)).trans (writeCopies _ cls cache rt pa bs.length)))

theorem recallOwn (s : State) (cache pa n : Nat) : s.OnlyCaches (s.recallOwn cache pa n) :=
  foldl (fun s l => ite (recallLine s none l true) (refl s)) _ s

theorem acquire (s : State) (c : CtxId) (sc : Scope) : s.OnlyCaches (s.acquire c sc) := ite of_caches (refl s)

end State.OnlyCaches

/-! ### The one dirty copy of a byte -/

/-- `State.OneOwner` but for where the lines lie. -/
structure State.OneDirty (s : State) : Prop where
  once : ∀ l ∈ s.ms.l1, ∀ q ∈ s.ms.l1, l.cache = q.cache → l.line = q.line → l = q
  owner : ∀ l ∈ s.ms.l1, ∀ q ∈ s.ms.l1, l.kind = .owned → q.kind = .owned → l.line = q.line → l = q
  dirty : ∀ l ∈ s.ms.l1, l.dirty ≠ [] → l.kind = .owned
  inLine : ∀ l ∈ s.ms.l1, ∀ p ∈ l.dirty, p.1 / 128 = l.line

theorem State.OneOwner.oneDirty {s : State} (h : s.OneOwner) : s.OneDirty := ⟨h.once, h.owner, h.dirty, h.inLine⟩

namespace State.OneDirty

variable {s t : State} {l q : L1Line} {a : Nat} {b : Byte}

theorem of_dirty (h : s.OneDirty) (hl : l ∈ s.ms.l1) (hd : wlogGet l.dirty a = some b) : l.kind = .owned ∧ l.line = a / 128 := by
  have hp := mem_of_wlogGet hd
  exact ⟨h.dirty l hl (List.ne_nil_of_mem hp), (h.inLine l hl _ hp).symm⟩

/-- No two lines hold a byte dirty. -/
theorem dirty_unique (h : s.OneDirty) (hl : l ∈ s.ms.l1) (hq : q ∈ s.ms.l1) {c : Byte} (hdl : wlogGet l.dirty a = some b)
    (hdq : wlogGet q.dirty a = some c) : l = q := by
  obtain ⟨hkl, hll⟩ := h.of_dirty hl hdl
  obtain ⟨hkq, hlq⟩ := h.of_dirty hq hdq
  exact h.owner l hl q hq hkl hkq (hll.trans hlq.symm)

/-- A byte that a line holds dirty is merged from there. -/
theorem homeByte_of_dirty (h : s.OneDirty) (hl : l ∈ s.ms.l1) (hd : wlogGet l.dirty a = some b) : s.homeByte a = b := by
  suffices dirtyByte s.ms.l1 a = some b by rw [State.homeByte, this, Option.getD_some]
  cases hfound : dirtyByte s.ms.l1 a with
  | none =>
    have hnone := List.findSome?_eq_none_iff.mp hfound l hl
    rw [if_pos (h.of_dirty hl hd).2, hd] at hnone
    cases hnone
  | some c =>
    obtain ⟨q, hq, hc⟩ := List.exists_of_findSome?_eq_some hfound
    obtain ⟨-, hdq⟩ := Option.ite_none_right_eq_some.mp hc
    obtain rfl := h.dirty_unique hl hq hd hdq
    exact hdq.symm.trans hd

/-- A cache's line of a number is found. -/
theorem l1Line_eq (h : s.OneDirty) (hl : l ∈ s.ms.l1) : s.l1Line l.cache l.line = some l := by
  have hsome : (s.l1Line l.cache l.line).isSome := List.find?_isSome.mpr ⟨l, hl, decide_eq_true ⟨rfl, rfl⟩⟩
  obtain ⟨q, hq⟩ := Option.isSome_iff_exists.mp hsome
  obtain ⟨hmem, hc, hn⟩ := State.l1Line_some hq
  rw [hq, h.once q hmem l hl hc hn]

theorem of_mem (h : s.OneDirty) (hm : ∀ l ∈ t.ms.l1, l ∈ s.ms.l1) : t.OneDirty where
  once l hl q hq := h.once l (hm l hl) q (hm q hq)
  owner l hl q hq := h.owner l (hm l hl) q (hm q hq)
  dirty l hl := h.dirty l (hm l hl)
  inLine l hl := h.inLine l (hm l hl)

/-- Lines dropped, and an owned one put in place of those of its cache and number where no other cache owns it. -/
theorem put (h : s.OneDirty) {y : L1Line} (hk : y.kind = .owned) (hin : ∀ p ∈ y.dirty, p.1 / 128 = y.line)
    (halone : ∀ l ∈ s.ms.l1, l.kind = .owned → l.line = y.line → l.cache = y.cache)
    (hm : ∀ l ∈ t.ms.l1, (l ∈ s.ms.l1 ∧ ¬(l.cache = y.cache ∧ l.line = y.line)) ∨ l = y) : t.OneDirty where
  once l hl q hq hc hn := by
    rcases hm l hl with ⟨hl, hne⟩ | rfl <;> rcases hm q hq with ⟨hq, hne'⟩ | rfl
    · exact h.once l hl q hq hc hn
    · exact absurd ⟨hc, hn⟩ hne
    · exact absurd ⟨hc.symm, hn.symm⟩ hne'
    · rfl
  owner l hl q hq hkl hkq hn := by
    rcases hm l hl with ⟨hl, hne⟩ | rfl <;> rcases hm q hq with ⟨hq, hne'⟩ | rfl
    · exact h.owner l hl q hq hkl hkq hn
    · exact absurd ⟨halone l hl hkl hn, hn⟩ hne
    · exact absurd ⟨halone q hq hkq hn.symm, hn.symm⟩ hne'
    · rfl
  dirty l hl := (hm l hl).elim (fun hl => h.dirty l hl.1) fun e => e ▸ fun _ => hk
  inLine l hl := (hm l hl).elim (fun hl => h.inLine l hl.1) fun e => e ▸ hin

end State.OneDirty

/-! ### Lines moved -/

/-- Where no two lines hold a byte dirty, none do after, and every byte is as its home merged it. -/
def State.Merges (s t : State) : Prop := s.OneDirty → t.OneDirty ∧ ∀ a, t.homeByte a = s.homeByte a

namespace State.Merges

variable {s t u : State}

theorem refl (s : State) : s.Merges s := fun h => ⟨h, fun _ => rfl⟩

theorem trans (h : s.Merges t) (k : t.Merges u) : s.Merges u := fun hs =>
  ⟨(k (h hs).1).1, fun a => ((k (h hs).1).2 a).trans ((h hs).2 a)⟩

theorem ite {p : Prop} [Decidable p] {a b : State} (ha : s.Merges a) (hb : s.Merges b) : s.Merges (if p then a else b) := by
  split
  · exact ha
  · exact hb

theorem foldl {α : Type} {f : State → α → State} (h : ∀ (s : State) x, s.Merges (f s x)) (l : List α) :
    ∀ s : State, s.Merges (l.foldl f s) := by
  induction l with
  | nil => exact refl
  | cons x l ih => exact fun s => (h s x).trans (ih _)

theorem of_same (hl1 : t.ms.l1 = s.ms.l1) (hbyte : ∀ a, t.byte a = s.byte a) : s.Merges t := fun hs =>
  ⟨hs.of_mem fun _ hl => hl1 ▸ hl, fun a => by rw [State.homeByte, State.homeByte, hl1, hbyte]⟩

theorem of_records (h : s.OnlyRecords t) : s.Merges t := of_same h.l1 h.byte

/-- Lines go whose dirty bytes stand at their home, some leave a clean copy behind, and none come; of the bytes at home only those change
that are brought there. -/
theorem of_lines (hfrom : ∀ l ∈ t.ms.l1, l ∈ s.ms.l1 ∨ ∃ o ∈ s.ms.l1, o ∉ t.ms.l1 ∧ l = o.givenBack)
    (hbyte : ∀ a, t.byte a = s.byte a ∨ ∃ l ∈ s.ms.l1, wlogGet l.dirty a = some (t.byte a))
    (hout : s.OneDirty → ∀ l ∈ s.ms.l1, l ∉ t.ms.l1 → t.AtHome l) : s.Merges t := by
  intro hs
  have hdirty : ∀ l ∈ t.ms.l1, l.dirty ≠ [] ∨ l.kind = .owned → l ∈ s.ms.l1 := fun l hl hd =>
    (hfrom l hl).resolve_right fun ⟨_, _, _, e⟩ => (e ▸ hd).elim (fun h => h rfl) nofun
  have ht : t.OneDirty :=
    { once := fun l hl q hq hc hn => by
        rcases hfrom l hl with hl' | ⟨o, ho, hgone, rfl⟩ <;> rcases hfrom q hq with hq' | ⟨p, hp, hgone', rfl⟩
        · exact hs.once l hl' q hq' hc hn
        · exact absurd (hs.once l hl' p hp hc hn ▸ hl) hgone'
        · exact absurd (hs.once o ho q hq' hc hn ▸ hq) hgone
        · exact congrArg L1Line.givenBack (hs.once o ho p hp hc hn)
      owner := fun l hl q hq hkl hkq => hs.owner l (hdirty l hl (.inr hkl)) q (hdirty q hq (.inr hkq)) hkl hkq
      dirty := fun l hl hd => hs.dirty l (hdirty l hl (.inl hd)) hd
      inLine := fun l hl p hp => hs.inLine l (hdirty l hl (.inl (List.ne_nil_of_mem hp))) p hp }
  have hcame : ∀ l ∈ t.ms.l1, ∀ {a b}, wlogGet l.dirty a = some b → l ∈ s.ms.l1 := fun l hl _ _ hd =>
    hdirty l hl (.inl (List.ne_nil_of_mem (mem_of_wlogGet hd)))
  refine ⟨ht, fun a => ?_⟩
  rcases s.dirty_or_clean a with ⟨l, hl, b, hd⟩ | hclean
  · rw [hs.homeByte_of_dirty hl hd]
    by_cases hlt : l ∈ t.ms.l1
    · exact ht.homeByte_of_dirty hlt hd
    · rw [State.homeByte_of_clean fun q hq => ?_, hout hs l hl hlt a b hd]
      refine Option.eq_none_iff_forall_ne_some.mpr fun c hc => hlt ?_
      rwa [hs.dirty_unique hl (hcame q hq hc) hd hc]
  · rw [State.homeByte_of_clean hclean, State.homeByte_of_clean fun q hq => ?_]
    · refine (hbyte a).resolve_right fun ⟨l, hl, hd⟩ => ?_
      rw [hclean l hl] at hd
      cases hd
    · exact Option.eq_none_iff_forall_ne_some.mpr fun c hc => Option.some_ne_none c (hc.symm.trans (hclean q (hcame q hq hc)))

end State.Merges

/-- Several lines' dirty bytes brought home: a byte is as before, or from one of them that holds it. -/
theorem State.byte_flushLines (s : State) (ls : List L1Line) (a : Nat) :
    ((∀ l ∈ ls, wlogGet l.dirty a = none) ∧ (ls.foldl (fun s l => s.flushBytes l.dirty) s).byte a = s.byte a) ∨
    ∃ l ∈ ls, wlogGet l.dirty a = some ((ls.foldl (fun s l => s.flushBytes l.dirty) s).byte a) := by
  induction ls using List.reverseRecOn with
  | nil => exact .inl ⟨nofun, rfl⟩
  | append_singleton ls l ih =>
    rw [List.foldl_append, List.foldl_cons, List.foldl_nil, State.byte_flushBytes]
    cases hd : wlogGet l.dirty a with
    | some b => exact .inr ⟨l, by simp, hd⟩
    | none =>
      rcases ih with ⟨hnone, hsame⟩ | ⟨q, hq, hdq⟩
      · refine .inl ⟨fun q hq => ?_, hsame⟩
        rcases List.mem_append.mp hq with hq | hq
        · exact hnone q hq
        · rwa [List.mem_singleton.mp hq]
      · exact .inr ⟨q, List.mem_append_left _ hq, hdq⟩

theorem State.flushLines_l1 (s : State) (ls : List L1Line) : (ls.foldl (fun s l => s.flushBytes l.dirty) s).ms.l1 = s.ms.l1 :=
  List.foldlRecOn (motive := fun t : State => t.ms.l1 = s.ms.l1) _ _ rfl fun t ht l _ => (t.flushBytes_l1 l.dirty).trans ht

namespace State.Merges

variable {s t : State}

/-- Lines' dirty bytes brought home, and those lines gone or left clean. -/
theorem of_flush {ls : List L1Line} (hls : ∀ l ∈ ls, l ∈ s.ms.l1)
    (hfrom : ∀ l ∈ t.ms.l1, l ∈ s.ms.l1 ∨ ∃ o ∈ s.ms.l1, o ∉ t.ms.l1 ∧ l = o.givenBack)
    (hbyte : ∀ a, t.byte a = (ls.foldl (fun s l => s.flushBytes l.dirty) s).byte a)
    (hout : ∀ l ∈ s.ms.l1, l ∉ t.ms.l1 → l.kind = .owned → l ∈ ls) : s.Merges t := by
  refine of_lines hfrom (fun a => ?_) fun hs l hl hgone a b hd => ?_
  · rw [hbyte]
    exact (s.byte_flushLines ls a).imp And.right fun ⟨l, hl, hd⟩ => ⟨l, hls l hl, hd⟩
  · have hmem := hout l hl hgone (hs.of_dirty hl hd).1
    rw [hbyte]
    rcases s.byte_flushLines ls a with ⟨hnone, -⟩ | ⟨q, hq, hdq⟩
    · rw [hnone l hmem] at hd
      cases hd
    · rw [← hs.dirty_unique hl (hls q hq) hd hdq] at hdq
      exact Option.some.inj (hdq.symm.trans hd)

/-- Lines dropped that are not owned. -/
theorem of_filter {keep : L1Line → Bool} (hl1 : t.ms.l1 = s.ms.l1.filter keep) (hbyte : ∀ a, t.byte a = s.byte a)
    (hkeep : ∀ l ∈ s.ms.l1, l.kind = .owned → keep l = true) : s.Merges t := by
  refine of_flush (ls := []) nofun (fun l hl => .inl (List.mem_of_mem_filter (hl1 ▸ hl))) hbyte fun l hl hgone hk => absurd ?_ hgone
  rw [hl1]
  exact List.mem_filter.mpr ⟨hl, hkeep l hl hk⟩

theorem evict {l : L1Line} (hl : l ∈ s.ms.l1) : s.Merges (s.evict l) := by
  have hsame := s.flushBytes_l1 l.dirty
  refine of_flush (ls := [l]) (fun q hq => List.mem_singleton.mp hq ▸ hl) (fun q hq => .inl (hsame ▸ List.mem_of_mem_filter hq))
    (fun _ => rfl) fun q hq hgone _ => List.mem_singleton.mpr (not_not.mp fun hne => hgone ?_)
  exact List.mem_filter.mpr ⟨hsame.symm ▸ hq, decide_eq_true hne⟩

/-- A line that its cache does not own is dropped. -/
theorem drop {cache line : Nat} (ho : s.owns cache line = false) : s.Merges (s.putL1 cache line none) := by
  refine of_filter rfl (fun _ => rfl) fun l hl hk => ?_
  simp only [Bool.not_eq_true', decide_eq_false_iff_not]
  exact fun h => State.kind_of_not_owns ho hl h.1 h.2 hk

theorem acquire (s : State) (c : CtxId) (sc : Scope) : s.Merges (s.acquire c sc) :=
  ite (of_filter rfl (fun _ => rfl) fun l _ hk => by simp [hk]) (refl s)

theorem dropSharers (s : State) (by_ : Option Nat) (line : Nat) : s.Merges (s.dropSharers by_ line) := by
  have hdrop : s.Merges { s with ms := { s.ms with l1 := s.ms.l1.filter fun l => !l.dropped by_ line } } :=
    of_filter rfl (fun _ => rfl) fun l _ hk => by simp [L1Line.dropped, hk]
  exact hdrop.trans (of_records (State.dropSharers_records s by_ line))

theorem touchL1 (s : State) (cache line : Nat) : s.Merges (s.touchL1 cache line) := by
  unfold State.touchL1
  split
  · next l hl =>
    obtain ⟨hmem, -⟩ := State.l1Line_some hl
    have hsame : ∀ q, q ∈ (s.ms.l1.filter fun q => q ≠ l) ++ [l] ↔ q ∈ s.ms.l1 := fun q => by
      by_cases e : q = l
      · simp [e, hmem]
      · simp [e]
    exact of_flush (ls := []) nofun (fun q hq => .inl ((hsame q).mp hq)) (fun _ => rfl)
      fun q hq hgone _ => absurd ((hsame q).mpr hq) hgone
  · exact refl s

end State.Merges

/-- A recall brings the dirty bytes of the lines it takes back to their home, and then changes the lines and the homes' records. -/
theorem State.recall_shape (s : State) (by_ : Option Nat) (line : Nat) (wr : Bool) :
    (s.recall by_ line wr).ms.l1 = recalledLines s.ms.l1 by_ line wr ∧
    ∀ a, (s.recall by_ line wr).byte a =
      ((s.ms.l1.filter (L1Line.recalled by_ line)).foldl (fun s l => s.flushBytes l.dirty) s).byte a := by
  unfold State.recall
  dsimp only
  split
  · next hnone =>
    have hno : s.ms.l1.filter (L1Line.recalled by_ line) = [] := List.isEmpty_iff.mp hnone
    refine ⟨?_, fun a => by rw [hno]; rfl⟩
    rw [recalledLines, hno, List.map_nil, ite_self, List.append_nil, List.filter_eq_self.mpr]
    exact fun l hl => by simpa using List.filter_eq_nil_iff.mp hno l hl
  · have hl1 := s.flushLines_l1 (s.ms.l1.filter (L1Line.recalled by_ line))
    set u := (s.ms.l1.filter (L1Line.recalled by_ line)).foldl (fun s l => s.flushBytes l.dirty) s
    have hrec : u.OnlyRecords ((u.splitRegion (line * 128)).isolate L1Line.isOwned (line * 128) 9) :=
      (State.OnlyRecords.splitRegion u _).trans (State.OnlyRecords.isolate _ _ _ _)
    refine ⟨?_, hrec.byte⟩
    show (List.filter _ ((u.splitRegion (line * 128)).isolate L1Line.isOwned (line * 128) 9).ms.l1) ++ _ = _
    rw [hrec.l1, hl1]
    rfl

/-- A line owned after a recall was owned before, and of the line recalled only the cache that asks is still owner. -/
theorem State.mem_of_mem_recall {s : State} {by_ : Option Nat} {line : Nat} {wr : Bool} {l : L1Line}
    (hl : l ∈ (s.recall by_ line wr).ms.l1) (hk : l.kind = .owned) : l ∈ s.ms.l1 ∧ (l.line = line → some l.cache = by_) := by
  rcases mem_recalledLines ((s.recall_shape by_ line wr).1 ▸ hl) with ⟨hmem, hr⟩ | ⟨o, -, -, rfl⟩
  · exact ⟨hmem, fun hn => not_not.mp fun hc => Bool.false_ne_true (hr.symm.trans (decide_eq_true ⟨hn, hk, hc⟩))⟩
  · cases hk

namespace State.Merges

variable {s t : State}

theorem recallLine (s : State) (by_ : Option Nat) (line : Nat) (wr : Bool) : s.Merges (s.recall by_ line wr) := by
  obtain ⟨hl1, hbyte⟩ := s.recall_shape by_ line wr
  refine of_flush (fun l hl => List.mem_of_mem_filter hl) (fun l hl => ?_) hbyte fun l hl hgone hk => ?_
  · refine (mem_recalledLines (hl1 ▸ hl)).imp And.left fun ⟨o, ho, hr, e⟩ => ⟨o, ho, fun hin => ?_, e⟩
    have hko : o.kind = .owned := (of_decide_eq_true hr).2.1
    rcases mem_recalledLines (hl1 ▸ hin) with ⟨-, hnot⟩ | ⟨p, -, -, rfl⟩
    · exact Bool.false_ne_true (hnot.symm.trans hr)
    · cases hko
  · refine List.mem_filter.mpr ⟨hl, not_not.mp fun hr => hgone ?_⟩
    rw [hl1]
    exact List.mem_append_left _ (List.mem_filter.mpr ⟨hl, by simpa using hr⟩)

theorem readHome (s : State) (pa n : Nat) : s.Merges (s.readHome pa n) := by
  have hseen := of_records (.injectSeen s none noGang pa n)
  exact ite (hseen.trans (foldl (fun t l => (recallLine t none l false).trans (of_records (.sliceFill _ l))) _ _)) hseen

end State.Merges

/-! ### Owners, and bytes written in an owning cache -/

namespace State.OneDirty

variable {s : State}

/-- A line that comes alone: a byte that it holds dirty is merged from there, any other as before. -/
theorem homeByte_append {r t : State} (ht : t.OneDirty) {y : L1Line} (hl1 : t.ms.l1 = r.ms.l1 ++ [y])
    (hbyte : ∀ a, t.byte a = r.byte a) (a : Nat) : t.homeByte a = (wlogGet y.dirty a).getD (r.homeByte a) := by
  cases hd : wlogGet y.dirty a with
  | some b => exact ht.homeByte_of_dirty (hl1 ▸ by simp) hd
  | none => simp [State.homeByte, dirtyByte, hl1, hbyte, hd]

/-- An owned line put in its cache: its dirty bytes are merged with what there is without the line it replaces. -/
theorem putLine (h : s.OneDirty) {y : L1Line} (hk : y.kind = .owned) (hin : ∀ p ∈ y.dirty, p.1 / 128 = y.line)
    (halone : ∀ l ∈ s.ms.l1, l.kind = .owned → l.line = y.line → l.cache = y.cache) :
    (s.putL1 y.cache y.line (some y)).OneDirty ∧
    ∀ a, (s.putL1 y.cache y.line (some y)).homeByte a = (wlogGet y.dirty a).getD ((s.putL1 y.cache y.line none).homeByte a) := by
  have hrest : (s.putL1 y.cache y.line none).OneDirty := h.of_mem fun q hq => List.mem_of_mem_filter hq
  obtain ⟨r, hr, hkeep, hsub⟩ : ∃ r, s.putL1 y.cache y.line (some y) = { r with ms := { r.ms with l1 := r.ms.l1 ++ [y] } } ∧
      (s.putL1 y.cache y.line none).Merges r ∧ ∀ q ∈ r.ms.l1, q ∈ (s.putL1 y.cache y.line none).ms.l1 := by
    refine ⟨_, rfl, ?_⟩
    split
    · next v hv =>
      exact ⟨.evict (l1Victim_mem hv), fun q hq => (s.putL1 y.cache y.line none).flushBytes_l1 v.dirty ▸ List.mem_of_mem_filter hq⟩
    · exact ⟨.refl _, fun _ hq => hq⟩
  rw [hr]
  have ht : ({ r with ms := { r.ms with l1 := r.ms.l1 ++ [y] } } : State).OneDirty := by
    refine h.put hk hin halone fun l hl => (List.mem_append.mp hl).imp (fun hl => ?_) List.mem_singleton.mp
    obtain ⟨hs, hne⟩ := List.mem_filter.mp (hsub l hl)
    exact ⟨hs, of_decide_eq_false (Bool.not_eq_true' _ ▸ hne)⟩
  exact ⟨ht, fun a => by rw [homeByte_append (r := r) ht rfl (fun _ => rfl), (hkeep hrest).2]⟩

/-- What is merged with the dirty bytes of a line is what there is without it. -/
theorem homeByte_drop (h : s.OneDirty) {l : L1Line} (hl : l ∈ s.ms.l1) (a : Nat) :
    s.homeByte a = (wlogGet l.dirty a).getD ((s.putL1 l.cache l.line none).homeByte a) := by
  cases hd : wlogGet l.dirty a with
  | some b => exact h.homeByte_of_dirty hl hd
  | none =>
    have hsub : ∀ q ∈ (s.putL1 l.cache l.line none).ms.l1, q ∈ s.ms.l1 := fun q hq => List.mem_of_mem_filter hq
    rcases s.dirty_or_clean a with ⟨q, hq, b, hb⟩ | hclean
    · refine (h.homeByte_of_dirty hq hb).trans ((h.of_mem hsub).homeByte_of_dirty (List.mem_filter.mpr ⟨hq, ?_⟩) hb).symm
      simp only [Bool.not_eq_true', decide_eq_false_iff_not]
      rintro ⟨hc, hn⟩
      rw [h.once q hq l hl hc hn, hd] at hb
      cases hb
    · exact (State.homeByte_of_clean hclean).trans (State.homeByte_of_clean fun q hq => hclean q (hsub q hq)).symm

theorem writeOwned (h : s.OneDirty) {cache line : Nat} {bs : List (Nat × Byte)} (ho : s.owns cache line = true)
    (hin : ∀ p ∈ bs, p.1 / 128 = line) (hnd : (bs.map Prod.fst).Nodup) :
    (s.writeOwned cache line bs).OneDirty ∧
    ∀ a, (s.writeOwned cache line bs).homeByte a = ((bs.find? fun p => p.1 = a).map Prod.snd).getD (s.homeByte a) := by
  obtain ⟨l, hl, rfl, rfl, hk⟩ := State.owns_eq_true.mp ho
  have hinLine : ∀ p ∈ bs.reverse ++ l.dirty.filter fun p => !(bs.any fun q => q.1 = p.1), p.1 / 128 = l.line := fun p hp =>
    (List.mem_append.mp hp).elim (fun hp => hin p (List.mem_reverse.mp hp)) fun hp => h.inLine l hl p (List.mem_of_mem_filter hp)
  obtain ⟨hone, hbyte⟩ := h.putLine (y := { l with dirty := bs.reverse ++ l.dirty.filter fun p => !(bs.any fun q => q.1 = p.1) }) hk hinLine
    fun q hq hkq hn => (congrArg L1Line.cache (h.owner q hq l hl hkq hk hn) :)
  rw [State.writeOwned, h.l1Line_eq hl]
  refine ⟨hone, fun a => (hbyte a).trans ?_⟩
  rw [h.homeByte_drop hl, wlogGet_append, wlogGet_reverse hnd, wlogGet_filter fun k => !(bs.any fun q => q.1 = k)]
  cases hfind : bs.find? fun p => p.1 = a with
  | some p => rfl
  | none =>
    have hnot : (bs.any fun q => q.1 = a) = false := List.any_eq_false.mpr (List.find?_eq_none.mp hfind)
    rw [hnot]
    rfl

theorem owns_touchL1 (h : s.OneDirty) {cache line : Nat} (ho : s.owns cache line = true) : (s.touchL1 cache line).owns cache line = true := by
  obtain ⟨l, hl, rfl, rfl, hk⟩ := State.owns_eq_true.mp ho
  refine State.owns_eq_true.mpr ⟨l, ?_, rfl, rfl, hk⟩
  rw [State.touchL1, h.l1Line_eq hl]
  exact List.mem_append_right _ List.mem_cons_self

theorem takeOwner (h : s.OneDirty) (cls cache line : Nat) : (s.takeOwner cls cache line).OneDirty ∧
    (∀ a, (s.takeOwner cls cache line).homeByte a = s.homeByte a) ∧ (s.takeOwner cls cache line).owns cache line = true := by
  unfold State.takeOwner
  split
  · next ho =>
    obtain ⟨hone, hbyte⟩ := State.Merges.touchL1 s cache line h
    exact ⟨hone, hbyte, h.owns_touchL1 ho⟩
  next ho =>
  have hkeep := (State.Merges.recallLine s (some cache) line true).trans (State.Merges.dropSharers _ (some cache) line)
  have hfree : ∀ l ∈ ((s.recall (some cache) line true).dropSharers (some cache) line).ms.l1, l.kind = .owned → l.line ≠ line :=
    fun l hl hk hn => by
      obtain ⟨hmem, hby⟩ := State.mem_of_mem_recall (State.mem_dropSharers hl) hk
      exact ho (State.owns_eq_true.mpr ⟨l, hmem, Option.some.inj (hby hn), hn, hk⟩)
  generalize (s.recall (some cache) line true).dropSharers (some cache) line = t at hkeep hfree
  have hput (u : State) (hrec : t.OnlyRecords u) (cls' : Nat) : (u.putL1 cache line (some ⟨cache, line, .owned, [], cls'⟩)).OneDirty ∧
      (∀ a, (u.putL1 cache line (some ⟨cache, line, .owned, [], cls'⟩)).homeByte a = s.homeByte a) ∧
      (u.putL1 cache line (some ⟨cache, line, .owned, [], cls'⟩)).owns cache line = true := by
    obtain ⟨hu, hbyte⟩ := hkeep.trans (.of_records hrec) h
    have hfree : ∀ l ∈ u.ms.l1, l.kind = .owned → l.line ≠ line := fun l hl => hfree l (hrec.l1 ▸ hl)
    have hdrop := State.Merges.drop (State.not_owns (cache := cache) fun l hl hk hn => absurd hn (hfree l hl hk)) hu
    obtain ⟨hone, hput⟩ := hu.putLine (y := ⟨cache, line, .owned, [], cls'⟩) rfl nofun fun l hl hk hn => absurd hn (hfree l hl hk)
    exact ⟨hone, fun a => (hput a).trans ((hdrop.2 a).trans (hbyte a)),
      State.owns_eq_true.mpr ⟨_, List.mem_append_right _ List.mem_cons_self, rfl, rfl, rfl⟩⟩
  exact hput _ (((State.OnlyRecords.ite (.refl t) (.sliceFill t line)).trans (.ite (.disown _ _) (.refl _))).trans (.putRegion _ _)) _

end State.OneDirty

end Sys2Proof.Machine
end

section
/-! SUPPORT. Operations in flight as they are performed: what the end of their queries leaves, and what a group of accesses comes to once its
lanes are performed (02 R65; 13 R303; 15 R337). -/

set_option Elab.async false

namespace Sys2Proof.Machine

/-! ### The end of queries -/

/-- The operations in flight and the accepted writes stay, and every byte as its home merges it. -/
structure State.Serves (s t : State) : Prop where
  ops : t.ms.ops = s.ms.ops
  fwd : t.ms.fwd = s.ms.fwd
  merges : s.Merges t

namespace State.Serves

variable {s t u : State}

theorem refl (s : State) : s.Serves s := ⟨rfl, rfl, .refl s⟩

theorem trans (h : s.Serves t) (k : t.Serves u) : s.Serves u := ⟨k.ops.trans h.ops, k.fwd.trans h.fwd, h.merges.trans k.merges⟩

theorem ite {p : Prop} [Decidable p] {a b : State} (ha : s.Serves a) (hb : s.Serves b) : s.Serves (if p then a else b) := by
  split
  · exact ha
  · exact hb

theorem foldl {α : Type} {f : State → α → State} (h : ∀ (s : State) x, s.Serves (f s x)) (l : List α) :
    ∀ s : State, s.Serves (l.foldl f s) := by
  induction l with
  | nil => exact refl
  | cons x l ih => exact fun s => (h s x).trans (ih _)

/-- The memory system is not touched. -/
theorem of_ms (hms : t.ms = s.ms) (hwlog : t.wlog = s.wlog) (hmem : t.mem = s.mem) : s.Serves t :=
  ⟨by rw [hms], by rw [hms], .of_same (by rw [hms]) fun a => by rw [State.byte, State.byte, hwlog, hmem]⟩

theorem of_dr {dr : DriftSt} {n : Nat} : s.Serves { s with opId := n, dr := dr } := of_ms rfl rfl rfl

theorem putHome (s : State) (h : DriftHome) : s.Serves (s.putHome h) := of_dr

theorem send (s : State) (m : DMsg) : s.Serves (s.send m) := of_dr

theorem putQuery (s : State) (q : DQuery) : s.Serves (s.putQuery q) := of_dr

theorem forceDrain (s : State) (region reason : Nat) (g : Grant) : s.Serves (s.forceDrain region reason g) :=
  ite (refl s) ((putHome s _).trans (send _ _))

theorem grantShare (s : State) (region cache : Nat) : s.Serves (s.grantShare region cache) := (putHome s _).trans (send _ _)

theorem serveReq (s : State) (region cache : Nat) (reclaimed : Option (Nat × Nat)) : s.Serves (s.serveReq region cache reclaimed).1 := by
  unfold State.serveReq
  dsimp only
  split
  · exact send s _
  · split
    · exact refl s
    · split
      · split
        · exact refl s
        · exact grantShare s region cache
      · split
        · exact grantShare s region cache
        · split
          · exact grantShare s region cache
          · exact (forceDrain s region 0 _).trans (putHome _ _)

theorem serveReqs (s : State) (region : Nat) : s.Serves (s.serveReqs region) := by
  refine foldl (fun u r => ?_) _ s
  have h := serveReq u region r.1 r.2
  generalize u.serveReq region r.1 r.2 = p at h ⊢
  obtain ⟨v, _ | _⟩ := p
  · exact h
  · exact h.trans (putHome v _)

theorem tellDone (s : State) (q : DQuery) : s.Serves (s.tellDone q) := ite (putHome s _) (send s _)

theorem advance (s : State) : s.Serves s.advance :=
  foldl (fun u _ => ite (refl u) (ite ((putQuery u _).trans (putHome _ _)) ((putQuery u _).trans (send _ _)))) _ s

theorem readHome (s : State) (pa n : Nat) : s.Serves (s.readHome pa n) :=
  ⟨(OnlyCaches.readHome s pa n).ms.1, (OnlyCaches.readHome s pa n).ms.2, .readHome s pa n⟩

theorem answer (s : State) (q : DQuery) : s.Serves (s.answer q) := by
  have hquery (u : State) : u.Serves (if q.op.isNone then
      { u with dr := { u.dr with queries := u.dr.queries.filter fun p => p.id ≠ q.id } } else u.putQuery { q with
        stage := 4, value := u.homeNat q.pa (s.elemBytes q.region), own := deltasOf (u.ownDeltas q.loader q.region) q.pa }) :=
    ite of_dr (putQuery u _)
  exact (((readHome s q.pa (s.elemBytes q.region)).trans (hquery _)).trans (ite (refl _) (tellDone _ q))).trans (advance _)

theorem serveHead (s : State) (region : Nat) : s.Serves (s.serveHead region) := by
  unfold State.serveHead
  dsimp only
  split
  · exact ite (refl s) ((foldl (fun u g => forceDrain u region _ g) _ s).trans (putQuery _ _))
  · exact refl s

theorem clearHead {region : Nat} (h : s.clearHead region = some t) : s.Serves t := by
  unfold State.clearHead at h
  dsimp only at h
  obtain ⟨q, -, hq⟩ := Option.bind_eq_some_iff.mp h
  split at hq
  · cases hq
  · cases hq
    exact (putHome s _).trans (ite (answer _ q) ((putQuery _ _).trans (send _ _)))

theorem serveQueue (region n : Nat) : ∀ s : State, s.Serves (State.serveQueue region n s) := by
  induction n with
  | zero => exact refl
  | succ n ih =>
    intro s
    unfold State.serveQueue
    dsimp only
    split
    next heq => exact ((serveHead s region).trans (clearHead heq)).trans (ih _)
    next => exact serveHead s region

theorem of_onlyCtx {c : CtxId} (h : OnlyCtx c s t) : s.Serves t := of_ms (congrArg State.ms h.rest :) h.wlog h.mem

theorem endRetire (s : State) (region : Nat) : s.Serves (s.endRetire region) :=
  ite (of_dr.trans (foldl (fun u n => ite (of_onlyCtx (OnlyCtx.passWord u n 1)) (refl u)) _ _)) (refl s)

theorem settleHome (s : State) (region : Nat) : s.Serves (s.settleHome region) :=
  ((serveQueue region _ s).trans (serveReqs _ region)).trans (endRetire _ region)

theorem endQueries (s : State) (p : DQuery → Bool) : s.Serves (s.endQueries p) :=
  foldl (fun _ q => ((ite (of_dr.trans (tellDone _ q)) of_dr).trans (advance _)).trans (settleHome _ _)) _ s

end State.Serves

/-! ### Slots freed -/

/-- Nothing but the scoreboard slots of an agent's lanes and what holds its threads differs, and the slot is free on the lanes. -/
structure State.Frees (c : CtxId) (m : Word64) (slot : Option Nat) (s t : State) : Prop where
  only : OnlyCtx c s t
  regs : Ctx.SameRegs (s.ctx c) (t.ctx c)
  wait : ∀ l, ((t.ctx c).lane l).wait = ((s.ctx c).lane l).wait
  slots : s.alive c = true → ∀ l i, slot = some i → m.getLsbD l = true → ((t.ctx c).lane l).sb.getLsbD i = false

theorem StaysAt.sb {c : CtxId} {s t : State} (h : StaysAt c s t) (l : Nat) : ((t.ctx c).lane l).sb = ((s.ctx c).lane l).sb :=
  (congrArg Lane.sb (h.stays.lanes l) :)

theorem StaysAt.wait {c : CtxId} {s t : State} (h : StaysAt c s t) (l : Nat) : ((t.ctx c).lane l).wait = ((s.ctx c).lane l).wait :=
  (congrArg Lane.wait (h.stays.lanes l) :)

theorem Ctx.SameRegs.refl (x : Ctx) : Ctx.SameRegs x x := ⟨rfl, rfl, rfl, rfl, fun _ => rfl⟩

theorem Ctx.SameRegs.reg {x y : Ctx} (h : Ctx.SameRegs x y) (l m : Nat) : y.reg l m = x.reg l m := by unfold Ctx.reg; rw [h.g]

theorem Ctx.SameRegs.empty {x y : Ctx} (h : Ctx.SameRegs x y) (l m : Nat) : y.empty l m = x.empty l m := by unfold Ctx.empty; rw [h.e]

/-- Threads changed in their slots alone. -/
theorem Ctx.SameRegs.modLanes_sb (x : Ctx) (ls : List Nat) (f : BitVec 8 → BitVec 8) :
    Ctx.SameRegs x (x.modLanes ls fun _ y => { y with sb := f y.sb }) := by
  induction ls generalizing x with
  | nil => exact refl x
  | cons l ls ih =>
    refine trans (y := x.modLane l fun y => { y with sb := f y.sb }) ⟨rfl, rfl, rfl, rfl, fun k => ?_⟩ (ih _)
    rw [Ctx.lane_modLane]
    split
    next e => rw [e]
    next => rfl

theorem State.frees_freeSlotBit (s : State) (c : CtxId) (m : Word64) (slot : Option Nat) :
    s.Frees c m slot (if s.alive c then s.freeSlotBit c m slot else s) := by
  split
  next ha =>
    cases slot with
    | none => exact ⟨.refl c s, .refl _, fun _ => rfl, nofun⟩
    | some i =>
      have heq : s.freeSlotBit c m (some i) =
        s.modCtx c fun x => x.modLanes (lanesOf m) fun _ y => { y with sb := y.sb &&& ~~~(1#8 <<< i) } := rfl
      have hlane (l : Nat) : (((s.freeSlotBit c m (some i)).ctx c).lane l) =
          if l ∈ lanesOf m then { (s.ctx c).lane l with sb := ((s.ctx c).lane l).sb &&& ~~~(1#8 <<< i) } else (s.ctx c).lane l := by
        rw [heq, State.ctx_modCtx_same, Ctx.lane_modLanes _ _ _ (nodup_lanesOf m)]
      refine ⟨?_, ?_, fun l => ?_, fun _ l j hj hl => ?_⟩
      · exact heq ▸ .modCtx c s _
      · rw [heq, State.ctx_modCtx_same]
        exact .modLanes_sb _ _ fun b => b &&& ~~~(1#8 <<< i)
      · rw [hlane]
        split <;> rfl
      · obtain rfl := Option.some.inj hj
        rw [hlane, if_pos (mem_lanesOf.mpr ⟨BitVec.lt_of_getLsbD hl, hl⟩)]
        by_cases hi : i < 8
        · simp [hi]
        · exact BitVec.getLsbD_of_ge _ _ (by omega)
  next ha => exact ⟨.refl c s, .refl _, fun _ => rfl, fun h => absurd h ha⟩

theorem State.wakeOp_eq {s : State} {o : MOp} (h : ∀ l, ((s.ctx o.ctx).lane l).wait = .none) (m : Word64) : s.wakeOp o m = s := by
  unfold State.wakeOp
  dsimp only
  split
  next path hpath =>
    obtain ⟨l, -, hl⟩ := List.exists_of_findSome?_eq_some hpath
    rw [h l] at hl
    cases hl
  next => rfl

/-- Lanes of an operation that none of their threads waits for are done: the operation replaced, and their slots free. -/
theorem State.frees_endLanes {s : State} {o : MOp} (h : ∀ l, ((s.ctx o.ctx).lane l).wait = .none) (m : Word64) :
    (s.putOp o.id (if (o.accs.filter fun a => !m.getLsbD a.lane).isEmpty then none
      else some { o with accs := o.accs.filter fun a => !m.getLsbD a.lane, lanes := o.lanes &&& ~~~m })).Frees o.ctx m o.slot
      (s.endLanes o m) := by
  unfold State.endLanes
  dsimp only
  generalize hu : s.putOp o.id _ = u
  have hfree := u.frees_freeSlotBit o.ctx m o.slot
  generalize (if u.alive o.ctx then u.freeSlotBit o.ctx m o.slot else u) = v at hfree
  rw [State.wakeOp_eq fun l => (hfree.wait l).trans (hu ▸ h l)]
  have hstay : StaysAt o.ctx v (if v.alive o.ctx && !o.ctx.isCC then v.settle o.ctx else v) := by
    split
    · exact .settle v o.ctx
    · exact .refl _ _
  exact ⟨hfree.only.trans hstay.only, hfree.regs.trans hstay.stays.sameRegs, fun l => (hstay.wait l).trans (hfree.wait l),
    fun ha l i hi hl => by rw [hstay.sb]; exact hfree.slots ha l i hi hl⟩

/-! ### Accesses done -/

/-- What an operation has left once some of its accesses are done. -/
def MOp.leftOf (o : MOp) (as : List Acc) : List Acc := o.accs.filter fun a => !as.contains a

/-- The lanes done with those accesses. -/
def MOp.doneLanes (o : MOp) (as : List Acc) : Word64 :=
  if (o.leftOf as).isEmpty then o.lanes else accLanes as &&& ~~~accLanes (o.leftOf as)

theorem MOp.leftOf_filter (o : MOp) (as : List Acc) : ((o.leftOf as).filter fun a => !(o.doneLanes as).getLsbD a.lane) = o.leftOf as := by
  refine List.filter_eq_self.mpr fun a ha => ?_
  have hleft : (o.leftOf as).isEmpty = false := Bool.eq_false_iff.mpr fun h => by rw [List.isEmpty_iff.mp h] at ha; cases ha
  have hmine : (accLanes (o.leftOf as)).getLsbD a.lane = decide (a.lane < 64) := by
    rw [accLanes, getLsbD_maskOf, List.any_eq_true.mpr ⟨a, ha, decide_eq_true rfl⟩, Bool.and_true]
  rw [MOp.doneLanes, if_neg (by simp [hleft]), BitVec.getLsbD_and, BitVec.getLsbD_not, hmine]
  simp

/-- A lane all of whose accesses are among those done is done. -/
theorem MOp.mem_doneLanes {o : MOp} {as : List Acc} {a : Acc} (ha : a ∈ as) (hl : a.lane < 64) (ho : o.lanes.getLsbD a.lane = true)
    (hall : ∀ b ∈ o.accs, b.lane = a.lane → b ∈ as) : (o.doneLanes as).getLsbD a.lane = true := by
  unfold MOp.doneLanes
  split
  · exact ho
  · have hin : (as.any fun b => b.lane = a.lane) = true := List.any_eq_true.mpr ⟨a, ha, decide_eq_true rfl⟩
    have hout : ((o.leftOf as).any fun b => b.lane = a.lane) = false := List.any_eq_false.mpr fun b hb hlane => by
      obtain ⟨hb, hnot⟩ := List.mem_filter.mp hb
      have hmem := hall b hb (of_decide_eq_true hlane)
      simp [hmem] at hnot
    rw [BitVec.getLsbD_and, BitVec.getLsbD_not, accLanes, accLanes, getLsbD_maskOf, getLsbD_maskOf, hin, hout]
    simp [hl]

/-- An operation's accesses done, of which none of its lanes' threads waits for the result. -/
theorem State.frees_endAccs {s : State} {o : MOp} (h : ∀ l, ((s.ctx o.ctx).lane l).wait = .none) (as : List Acc) :
    ∃ p : MOp, p.id = o.id ∧ p.accs = o.leftOf as ∧
      (s.putOp o.id (if (o.leftOf as).isEmpty then none else some p)).Frees o.ctx (o.doneLanes as) o.slot (s.endAccs o as) := by
  have hend := State.frees_endLanes (o := { o with accs := o.leftOf as }) h (o.doneLanes as)
  dsimp only at hend
  rw [o.leftOf_filter as] at hend
  exact ⟨{ o with accs := o.leftOf as, lanes := o.lanes &&& ~~~o.doneLanes as }, rfl, rfl, hend⟩

theorem State.op?_putOp {s : State} {o : MOp} (hhere : s.op? o.id = some o) {x : Option MOp}
    (hx : ∀ p, x = some p → p.id = o.id) : (s.putOp o.id x).op? o.id = x := by
  have hmem : o ∈ s.ms.ops := List.mem_of_find?_eq_some hhere
  show (s.ms.ops.filterMap fun p => if p.id = o.id then x else some p).find? (fun p => p.id = o.id) = x
  cases hfind : (s.ms.ops.filterMap fun p => if p.id = o.id then x else some p).find? (fun p => p.id = o.id) with
  | some q =>
    obtain ⟨p, -, hp⟩ := List.mem_filterMap.mp (List.mem_of_find?_eq_some hfind)
    have hq : q.id = o.id := by simpa using List.find?_some hfind
    split at hp
    · exact hp.symm
    next hne => exact absurd ((congrArg MOp.id (Option.some.inj hp)).trans hq) hne
  | none =>
    cases x with
    | none => rfl
    | some p =>
      have hnone := List.find?_eq_none.mp hfind p (List.mem_filterMap.mpr ⟨o, hmem, if_pos rfl⟩)
      exact absurd (decide_eq_true (hx p rfl)) hnone

/-! ### A group of accesses carried on -/

/-- Operations whose lanes at one address are performed together, with a result or an effect on memory. -/
def OpKind.plain (q : OpKind) : Prop := (∃ b, q = .load b) ∨ q = .store ∨ q = .recSt ∨ (∃ op, q = .atom op) ∨ ∃ op, q = .red op

/-- What the performing of an operation's lanes leaves for its end: one dirty copy of each byte, the operations in flight, and of its agent
what holds the threads. -/
structure State.Carries (c : CtxId) (s t : State) : Prop where
  one : t.OneDirty
  ops : t.ms.ops = s.ms.ops
  wait : ∀ l, ((t.ctx c).lane l).wait = ((s.ctx c).lane l).wait
  alive : t.alive c = s.alive c
  stuck : t.stuck = s.stuck

/-- Once its lanes are performed, a group of accesses ends without a change of bytes, accepted writes or registers. -/
structure State.Performed (s u t : State) (o : MOp) (k : Nat × Bool) : Prop where
  byte : ∀ a, t.homeByte a = u.homeByte a
  fwd : t.ms.fwd = u.ms.fwd
  regs : Ctx.SameRegs (u.ctx o.ctx) (t.ctx o.ctx)
  gone : s.GroupGone t o k
  completes : Completes s t o k

section Group

variable {s : State} {o : MOp} {k : Nat × Bool}

theorem State.GroupGoes.not_held (h : s.GroupGoes o k) {a : Acc} (ha : a ∈ o.group k) :
    (s.accHeld o a = false ∧ s.slotHolds o a = false) ∧ s.stopped a.pa = false := by
  simpa [Bool.or_eq_false_iff] using List.any_eq_false.mp h.free a ha

theorem State.GroupGoes.goGroup_eq (h : s.GroupGoes o k) (hk : o.kind.plain) : s.goGroup o.id k = s.performGroup o (o.group k) := by
  have hdrain : s.mustDrain o (o.group k) = false := List.any_eq_false.mpr fun a ha => by
    obtain ⟨⟨hacc, -⟩, -⟩ := h.not_held ha
    have hnone : s.owedFor o a = [] := by
      simp only [State.accHeld, Bool.or_eq_false_iff, Bool.not_eq_false', List.isEmpty_iff] at hacc
      exact hacc.1.1.1.1.2
    simp [hnone]
  have hqueue : s.mustQueue o (o.group k) = false := List.any_eq_false.mpr fun a ha => by simp [(h.not_held ha).1.2]
  have hdone : s.queriesDone o (o.group k) = true := List.all_eq_true.mpr fun a ha => by rw [h.still a ha]; rfl
  have hlease : ((o.group k).any fun a => s.leaseHolds o a) = false := List.any_eq_false.mpr fun a ha => by simp [h.lease a ha]
  unfold State.goGroup
  rw [h.here]
  dsimp only
  rw [hdrain, hqueue, h.free, hdone, hlease]
  rcases hk with ⟨_, e⟩ | e | e | ⟨_, e⟩ | ⟨_, e⟩ <;> rw [e] <;> rfl

theorem State.GroupGoes.completes (h : s.GroupGoes o k) (hk : o.kind.plain) (hstuck : (s.goGroup o.id k).stuck = s.stuck) :
    Completes s (s.goGroup o.id k) o k := by
  intro hrun hkeys
  have hgo : s.complete o = s.goGroup o.id k := by
    unfold State.complete
    rw [hkeys]
    rcases hk with ⟨_, e⟩ | e | e | ⟨_, e⟩ | ⟨_, e⟩ <;> rw [e] <;> rfl
  show execLongLatencyComplete o.id s = _
  rw [execLongLatencyComplete, h.here]
  dsimp only
  rw [hgo, ret_next (hstuck.trans hrun)]

/-- What follows once the lanes are performed, up to the end of their queries. -/
theorem State.performGroup_eq (s : State) (o : MOp) (as : List Acc) : ∃ v, (s.performLanes o as).Serves v ∧
    v.stuck = (s.performLanes o as).stuck ∧
    ((∀ r, (((s.performLanes o as).ctx o.ctx).lane 0).wait ≠ .retire r) → v.ctx o.ctx = (s.performLanes o as).ctx o.ctx) ∧
    s.performGroup o as = v.endAccs o as := by
  unfold State.performGroup
  generalize s.performLanes o as = u
  have hacquire : u.OnlyCaches (if o.ord.acquires then u.acquire o.ctx o.sc else u) := .ite (.acquire _ _ _) (.refl _)
  have hmerges : u.Merges (if o.ord.acquires then u.acquire o.ctx o.sc else u) := .ite (.acquire _ _ _) (.refl _)
  dsimp only
  generalize (if o.ord.acquires then u.acquire o.ctx o.sc else u) = x at hacquire hmerges
  generalize hy : ({ x with ca := _ } : State) = y
  have hserves : x.Serves y := hy ▸ .of_ms rfl rfl rfl
  have hctx (c : CtxId) : y.ctx c = u.ctx c := (hy ▸ rfl : y.ctx c = x.ctx c).trans (hacquire.ctx c)
  refine ⟨_, (⟨hacquire.ms.1, hacquire.ms.2, hmerges⟩ : u.Serves x).trans (hserves.trans (.endQueries y _)), ?_, fun hwait => ?_, rfl⟩
  · exact (State.Asks.endQueries (c := o.ctx) y _).stuck.trans ((hy ▸ rfl : y.stuck = x.stuck).trans hacquire.stuck)
  · rw [(State.Asks.endQueries y _).agent (by rwa [hctx]), hctx]

theorem State.performed (h : s.GroupGoes o k) (hk : o.kind.plain) (hc : s.Carries o.ctx (s.performLanes o (o.group k))) :
    s.Performed (s.performLanes o (o.group k)) (s.goGroup o.id k) o k := by
  obtain ⟨v, hserves, hrun, hagent, hgo⟩ := s.performGroup_eq o (o.group k)
  rw [← h.goGroup_eq hk] at hgo
  generalize s.performLanes o (o.group k) = u at *
  replace hagent : v.ctx o.ctx = u.ctx o.ctx := hagent fun r => by rw [hc.wait, h.waits]; nofun
  obtain ⟨p, hid, haccs, hfree⟩ := State.frees_endAccs (s := v) (o := o) (fun l => by rw [hagent, hc.wait, h.waits]) (o.group k)
  rw [← hgo] at hfree
  have hput (x : Option MOp) : v.Merges (v.putOp o.id x) := .of_same rfl fun _ => rfl
  obtain ⟨hone, hbyte⟩ := (hserves.merges.trans (hput _)).trans (State.Serves.of_onlyCtx hfree.only).merges hc.one
  refine ⟨hbyte, (State.Serves.of_onlyCtx hfree.only).fwd.trans hserves.fwd, hagent ▸ hfree.regs, ⟨?_, fun ha a hmem i hl ho hi hall => ?_⟩,
    h.completes hk ((hfree.only.stuck.trans hrun).trans hc.stuck)⟩
  · have hhere : v.op? o.id = some o := by
      rw [State.op?, hserves.ops, hc.ops]
      exact h.here
    have hop : (s.goGroup o.id k).op? o.id = (v.putOp o.id (if (o.leftOf (o.group k)).isEmpty then none else some p)).op? o.id := by
      rw [State.op?, (State.Serves.of_onlyCtx hfree.only).ops]
      rfl
    rw [hop, State.op?_putOp hhere fun q hq => ?_]
    · split
      · rw [if_pos (by assumption)]; rfl
      · rw [if_neg (by assumption)]; exact congrArg some haccs
    · split at hq
      · cases hq
      · exact Option.some.inj hq ▸ hid
  · refine hfree.slots ?_ a.lane i hi (MOp.mem_doneLanes hmem hl ho hall)
    show (v.ctx o.ctx).live = true
    rw [hagent]
    exact hc.alive.trans ha

end Group

end Sys2Proof.Machine
end

section
/-! O25: loads performed address by address (02 R65, R67, R68; 10 R238, R240; 13 R297). -/

set_option Elab.async false

namespace Sys2Proof.Machine

/-! ### Results written back -/

/-- Only the caches and homes differ, and the registers of an agent, into which results have gone where it is alive. -/
structure State.Lands (c : CtxId) (rs : List Res) (s t : State) : Prop where
  caches : s.OnlyCaches { t with ctxs := s.ctxs }
  ctx : t.ctx c = if s.alive c then rs.foldl Ctx.applyRes (s.ctx c) else s.ctx c

/-- The writes of an access's result: half of a load's where the access is one of two. -/
def MOp.result (o : MOp) (a : Acc) (v : Nat) : List Res :=
  match o.reg with
  | some r => regRes a.lane (r + a.off) v (if o.w = 4 ∧ a.n = 8 then 2 else o.regs)
  | none => []

namespace State.Lands

variable {c : CtxId} {rs : List Res} {s t u : State}

theorem refl (c : CtxId) (s : State) : Lands c [] s s := ⟨.refl s, (ite_self _).symm⟩

theorem of_caches (h : Lands c rs s t) (k : t.OnlyCaches u) : Lands c rs s u := by
  refine ⟨h.caches.trans ⟨?_, k.calm⟩, (k.ctx c).trans h.ctx⟩
  exact (congrArg (fun z : State => { z with ctxs := s.ctxs }) k.rest :)

theorem alive (h : Lands c rs s t) : t.alive c = s.alive c := by
  unfold State.alive
  rw [h.ctx]
  split
  · exact (congrArg Ctx.live (Ctx.applyRes_rest rs (s.ctx c)) :)
  · rfl

theorem wait (h : Lands c rs s t) (l : Nat) : ((t.ctx c).lane l).wait = ((s.ctx c).lane l).wait := by
  rw [h.ctx]
  split
  · exact (congrArg Lane.wait (Ctx.applyRes_lane rs l (s.ctx c)) :)
  · rfl

theorem land (h : Lands c rs s t) (qs : List Res) : Lands c (rs ++ qs) s (t.land c qs) := by
  unfold State.land
  rw [h.alive]
  split
  next ha =>
    refine ⟨h.caches, ?_⟩
    rw [State.ctx_modCtx_same, h.ctx, if_pos ha, if_pos ha, List.foldl_append]
  next ha => exact ⟨h.caches, by rw [h.ctx, if_neg ha, if_neg ha]⟩

theorem writeResult {o : MOp} (h : Lands o.ctx rs s t) (a : Acc) (v : Nat) : Lands o.ctx (rs ++ o.result a v) s (t.writeResult o a v) := by
  unfold State.writeResult MOp.result
  cases o.reg with
  | some r => exact h.land _
  | none => rwa [List.append_nil]

theorem carries (h : Lands c rs s t) (ht : t.OneDirty) : s.Carries c t := ⟨ht, h.caches.ms.1, h.wait, h.alive, h.caches.stuck⟩

/-- What landed is in the registers of a live agent. -/
theorem reg (h : Lands c rs s t) (ha : s.alive c = true) (hok : resOk rs) {l m : Nat} (hm : m < 256) :
    (t.ctx c).reg l m = resReg rs l m ((s.ctx c).reg l m) ∧
    (t.ctx c).empty l m = if resHits rs l m then false else (s.ctx c).empty l m := by
  rw [h.ctx, if_pos ha]
  exact ⟨Ctx.reg_foldl_applyRes rs hok l m hm _, Ctx.empty_foldl_applyRes rs hok l m hm _⟩

end State.Lands

/-! ### Results of several lanes -/

theorem resReg_flatMap_of_ne {f : Acc → List Res} {as : List Acc} {l m : Nat} (h : ∀ b ∈ as, ∀ old, resReg (f b) l m old = old) (old : Word) :
    resReg (as.flatMap f) l m old = old := by
  induction as with
  | nil => rfl
  | cons a as ih =>
    rw [List.flatMap_cons, resReg_append, h a List.mem_cons_self]
    exact ih fun b hb => h b (List.mem_cons_of_mem _ hb)

/-- Of several lanes' results a lane's registers take its own. -/
theorem resReg_flatMap_lane {f : Acc → List Res} {as pre post : List Acc} {a : Acc} {m : Nat} (has : as = pre ++ a :: post)
    (hnd : (as.map Acc.lane).Nodup) (hf : ∀ b ∈ as, b.lane ≠ a.lane → ∀ old, resReg (f b) a.lane m old = old) (old : Word) :
    resReg (as.flatMap f) a.lane m old = resReg (f a) a.lane m old := by
  subst has
  rw [List.map_append, List.map_cons, List.nodup_middle, List.nodup_cons, ← List.map_append] at hnd
  have hne : ∀ b, b ∈ pre ∨ b ∈ post → ∀ old, resReg (f b) a.lane m old = old := fun b hb =>
    hf b (by simp only [List.mem_append, List.mem_cons]; tauto) fun e => hnd.1 (List.mem_map.mpr ⟨b, List.mem_append.mpr hb, e⟩)
  rw [List.flatMap_append, List.flatMap_cons, resReg_append, resReg_append, resReg_flatMap_of_ne fun b hb => hne b (.inl hb),
    resReg_flatMap_of_ne fun b hb => hne b (.inr hb)]

/-! ### Loads -/

/-- What a load's access reads. -/
def State.loaded (s : State) (o : MOp) (a : Acc) : Nat :=
  if a.drop then 0 else if cacheable a.pa then s.viewNat (s.cacheOf o.ctx) a.pa a.n else leNat (s.bytesAt a.pa a.n)

/-- Beyond the module's own memory no byte is dirty. -/
theorem State.OneOwner.homeByte_of_far {s : State} (h : s.OneOwner) {a : Nat} (ha : 2 ^ 48 ≤ a) : s.homeByte a = s.byte a :=
  State.homeByte_of_clean fun l hl => Option.eq_none_iff_forall_ne_some.mpr fun b hb => by
    obtain ⟨hk, hline⟩ := h.of_dirty hl hb
    have hnear := of_decide_eq_true (h.own l hl hk)
    omega

theorem State.accElems_congr {s t : State} (h : t.dr = s.dr) (o : MOp) (a : Acc) : t.accElems o a = s.accElems o a := by
  unfold State.accElems State.driftWas State.driftOf State.elemBytes State.driftEntry
  rw [h]

theorem State.viewNat_congr {s t : State} (h : s.KeepsBytes t) (hfwd : t.ms.fwd = s.ms.fwd) (cache pa n : Nat) :
    t.viewNat cache pa n = s.viewNat cache pa n := by
  unfold State.viewNat State.viewByte
  simp only [h.2, hfwd]

/-- Bytes and accepted writes the same, a load reads the same. -/
theorem State.loaded_congr {s t : State} (hs : s.OneOwner) (h : s.KeepsBytes t) (hfwd : t.ms.fwd = s.ms.fwd) (o : MOp) (a : Acc) :
    t.loaded o a = s.loaded o a := by
  unfold State.loaded
  split
  · rfl
  · split
    · exact State.viewNat_congr h hfwd _ _ _
    next hfar =>
      have hle : 2 ^ 48 ≤ a.pa := Nat.not_lt.mp fun hlt => hfar (decide_eq_true hlt)
      unfold State.bytesAt
      refine congrArg leNat (List.map_congr_left fun i _ => ?_)
      rw [← h.1.homeByte_of_far (by omega), h.2, hs.homeByte_of_far (by omega)]

theorem State.KeepsBytes.countAccess {s : State} (h : s.OneOwner) (pa : Nat) : s.KeepsBytes (s.countAccess pa) :=
  .ite ⟨h.of_mem fun _ hl => hl, fun _ => rfl⟩ (.refl h)

theorem State.KeepsBytes.countMiss {s : State} (h : s.OneOwner) (cache : Nat) (rt : Rt) (pa n : Nat) :
    s.KeepsBytes (s.countMiss cache rt pa n) :=
  .ite (.countAccess h pa) (.refl h)

theorem State.loadAcc_spec {s : State} (h : s.OneOwner) (o : MOp) (a : Acc) (hplain : s.accElems o a = none) :
    s.KeepsBytes (s.loadAcc o a).1 ∧ s.OnlyCaches (s.loadAcc o a).1 ∧ (s.loadAcc o a).2 = s.loaded o a := by
  unfold State.loadAcc State.loaded
  rw [hplain]
  split
  · exact ⟨.refl h, .refl s, rfl⟩
  · dsimp only
    unfold State.performRead
    have hseen : s.KeepsBytes (s.injectRead o.ctx a.pa a.n) := .of_records (.injectSeen s _ _ a.pa a.n) h
    have honly : s.OnlyCaches (s.injectRead o.ctx a.pa a.n) := .injectSeen s _ _ a.pa a.n
    have hbyte (b : Nat) : (s.injectRead o.ctx a.pa a.n).byte b = s.byte b := (State.OnlyRecords.injectSeen s _ _ a.pa a.n).byte b
    generalize s.injectRead o.ctx a.pa a.n = z at hseen honly hbyte
    dsimp only
    cases cacheable a.pa with
    | false => exact ⟨hseen, honly, congrArg leNat (List.map_congr_left fun i _ => hbyte _)⟩
    | true =>
      have hmiss := State.KeepsBytes.countMiss hseen.1 (s.cacheOf o.ctx) o.rt a.pa a.n
      exact ⟨(hseen.trans hmiss).trans (.foldl (fun t ht l => .readCopies ht _ _ _ l) _ _ hmiss.1),
        (honly.trans (.countMiss z _ _ _ _)).trans (.foldl (fun t l => .readCopies t _ _ _ l) _ _),
        State.viewNat_congr hseen honly.ms.2 _ _ _⟩

theorem State.writeResult_only (s : State) (o : MOp) (a : Acc) (v : Nat) : OnlyCtx o.ctx s (s.writeResult o a v) := by
  unfold State.writeResult State.land
  split
  · split
    · exact .modCtx _ s _
    · exact .refl _ s
  · exact .refl _ s

/-- A result written back touches no memory. -/
theorem State.writeResult_ms (s : State) (o : MOp) (a : Acc) (v : Nat) :
    (s.writeResult o a v).ms = s.ms ∧ ∀ b, (s.writeResult o a v).byte b = s.byte b := by
  have honly := s.writeResult_only o a v
  exact ⟨(congrArg State.ms honly.rest :), fun b => by rw [State.byte, State.byte, honly.wlog, honly.mem]⟩

/-- The lanes of a load performed one after the other: every byte is kept, and each lane's result lands. -/
theorem State.foldl_loads {s : State} (h : s.OneOwner) {o : MOp} {b : Bool} (hk : o.kind = .load b) {as : List Acc}
    (hplain : ∀ a ∈ as, s.accElems o a = none) :
    s.KeepsBytes (s.performLanes o as) ∧ Lands o.ctx (as.flatMap fun a => o.result a (s.loaded o a)) s (s.performLanes o as) := by
  have hlanes : s.performLanes o as = as.foldl (fun s a => (s.loadAcc o a).1.writeResult o a (s.loadAcc o a).2) s := by
    unfold State.performLanes State.performAcc
    cases as with
    | nil => rfl
    | cons a as => rw [hk]
  rw [hlanes]
  clear hlanes
  induction as using List.reverseRecOn with
  | nil => exact ⟨.refl h, .refl o.ctx s⟩
  | append_singleton as a ih =>
    obtain ⟨hkeep, hland⟩ := ih fun a ha => hplain a (List.mem_append_left _ ha)
    rw [List.foldl_append, List.foldl_cons, List.foldl_nil, List.flatMap_append, List.flatMap_singleton]
    generalize as.foldl (fun s a => (s.loadAcc o a).1.writeResult o a (s.loadAcc o a).2) s = z at hkeep hland
    have hdr : z.dr = s.dr := hland.caches.dr
    obtain ⟨hkeep', honly, hval⟩ := State.loadAcc_spec hkeep.1 o a ((State.accElems_congr hdr o a).trans (hplain a (by simp)))
    obtain ⟨hms, hbyte⟩ := State.writeResult_ms (z.loadAcc o a).1 o a (s.loaded o a)
    rw [hval, State.loaded_congr h hkeep hland.caches.ms.2]
    refine ⟨(hkeep.trans hkeep').trans ⟨hkeep'.1.of_mem fun l hl => hms ▸ hl, fun b => ?_⟩, (hland.of_caches honly).writeResult a _⟩
    rw [State.homeByte, State.homeByte, hms, hbyte]

/-- Settles O25: the lanes by `foldl_loads`, the end of the group by `State.performed`. -/
theorem loadsReadMemory : Obligations.LoadsReadMemory := by
  unfold Obligations.LoadsReadMemory
  intro s o k r h hkind hreg hlane hnd halive words hbound t
  obtain ⟨hkeep, hland⟩ := State.foldl_loads h.owners hkind (as := o.group k) fun a ha => h.still a ha
  have hend := State.performed h (.inl ⟨false, hkind⟩) (hland.carries hkeep.1.oneDirty)
  have hres (a : Acc) (v : Nat) : o.result a v = regRes a.lane (r + a.off) v (words a) := by
    rw [MOp.result, hreg, MOp.regs, hkind]
  simp only [hres] at hland
  have hok : resOk ((o.group k).flatMap fun a => regRes a.lane (r + a.off) (s.loaded o a) (words a)) := fun q hq => by
    obtain ⟨a, ha, hq⟩ := List.mem_flatMap.mp hq
    exact resOk_regRes (hlane a ha) _ _ _ (by have := hbound a ha; omega) q hq
  have hregs (l m : Nat) (hm : m < 256) := hland.reg halive hok (l := l) hm
  refine ⟨fun a => (hend.byte a).trans (hkeep.2 a), fun a ha i hi => ?_, fun l m hl hm hout => ?_, hend.gone, hend.completes⟩
  · have hm : r + a.off + i < 256 := by have := hbound a ha; omega
    obtain ⟨pre, post, hsplit⟩ := List.append_of_mem ha
    obtain ⟨hval, hfull⟩ := hregs a.lane (r + a.off + i) hm
    have hown : a.lane = a.lane ∧ r + a.off ≤ r + a.off + i ∧ r + a.off + i < r + a.off + words a := by omega
    rw [hend.regs.reg, hend.regs.empty, hval, hfull, resReg_flatMap_lane hsplit hnd fun b hb hne old => ?other, resReg_regRes, if_pos hown,
      Nat.add_sub_cancel_left, if_pos ?hits]
    · exact ⟨rfl, rfl⟩
    case other => rw [resReg_regRes, if_neg fun e => hne e.1]
    case hits =>
      refine List.any_flatMap.trans (List.any_eq_true.mpr ⟨a, ha, ?_⟩)
      exact (resHits_regRes ..).trans (decide_eq_true hown)
  · obtain ⟨hval, hfull⟩ := hregs l m hm
    rw [hend.regs.reg, hend.regs.empty, hval, hfull, resReg_flatMap_of_ne fun b hb old => ?other, if_neg ?hits]
    · exact ⟨rfl, rfl⟩
    case other => rw [resReg_regRes, if_neg fun e => hout b hb e.1 e.2]
    case hits =>
      refine fun hhit => ?_
      obtain ⟨b, hb, hhit⟩ := List.any_eq_true.mp (List.any_flatMap.symm.trans hhit)
      exact hout b hb (of_decide_eq_true ((resHits_regRes ..).symm.trans hhit)).1 (of_decide_eq_true ((resHits_regRes ..).symm.trans hhit)).2

end Sys2Proof.Machine
end

section
/-! SUPPORT. Writes performed where their request type and scope put them: in an owning L1, at the home, or accepted on their way (09 R225,
R226; 10 R239, R241). -/

set_option Elab.async false

namespace Sys2Proof.Machine

/-! ### Bytes of a range -/

/-- Memory with a range of bytes written over it. -/
def overlay (pa : Nat) (bs : List Byte) (old : Nat → Byte) (a : Nat) : Byte := if pa ≤ a then bs.getD (a - pa) (old a) else old a

theorem overlay_outside {pa a : Nat} {bs : List Byte} (h : ¬(pa ≤ a ∧ a < pa + bs.length)) (old : Nat → Byte) : overlay pa bs old a = old a := by
  unfold overlay
  split
  · exact List.getD_eq_default _ _ (by omega)
  · rfl

theorem overlay_congr {old old' : Nat → Byte} {a : Nat} (h : old a = old' a) (pa : Nat) (bs : List Byte) :
    overlay pa bs old a = overlay pa bs old' a := by rw [overlay, overlay, h]

/-- A range written over twice keeps what is written last. -/
theorem overlay_overlay {pa : Nat} {bs cs : List Byte} (h : bs.length = cs.length) (old : Nat → Byte) :
    overlay pa bs (overlay pa cs old) = overlay pa bs old := by
  funext a
  by_cases ha : pa ≤ a ∧ a < pa + bs.length
  · have hlt : a - pa < bs.length := by omega
    rw [overlay, if_pos ha.1, List.getD_eq_getElem _ _ hlt, overlay, if_pos ha.1, List.getD_eq_getElem _ _ hlt]
  · rw [overlay_outside ha, overlay_outside ha, overlay_outside (h ▸ ha)]

theorem getD_leBytes (n : Nat) : ∀ v i (d : Byte), (leBytes n v).getD i d = if i < n then BitVec.ofNat 8 (v / 256 ^ i) else d := by
  induction n with
  | zero => exact fun _ _ _ => rfl
  | succ n ih =>
    intro v i d
    cases i with
    | zero => simp [leBytes]
    | succ i =>
      rw [leBytes, List.getD_cons_succ, ih, Nat.div_div_eq_div_mul, ← Nat.pow_succ']
      simp only [Nat.add_lt_add_iff_right]

/-- A number written over n bytes. -/
theorem overlay_leBytes (pa n v : Nat) (old : Nat → Byte) (a : Nat) :
    overlay pa (leBytes n v) old a = if pa ≤ a ∧ a < pa + n then BitVec.ofNat 8 (v / 256 ^ (a - pa)) else old a := by
  by_cases ha : pa ≤ a ∧ a < pa + n
  · rw [overlay, if_pos ha.1, if_pos ha, getD_leBytes, if_pos (by omega)]
  · rw [overlay_outside (by rwa [length_leBytes]), if_neg ha]

theorem leBytes_leNat (bs : List Byte) : leBytes bs.length (leNat bs) = bs := by
  induction bs with
  | nil => rfl
  | cons b bs ih =>
    have hb := b.isLt
    have hlow : BitVec.ofNat 8 (b.toNat + 256 * leNat bs) = b := BitVec.eq_of_toNat_eq (by rw [BitVec.toNat_ofNat]; omega)
    rw [leNat, List.length_cons, leBytes, hlow, show (b.toNat + 256 * leNat bs) / 256 = leNat bs by omega, ih]

theorem spread_cons (pa : Nat) (b : Byte) (bs : List Byte) : spread pa (b :: bs) = (pa, b) :: spread (pa + 1) bs := by
  unfold spread
  rw [List.mapIdx_cons]
  congr 1
  exact congrArg (fun f => List.mapIdx f bs) (funext fun i => funext fun c => by rw [Nat.add_assoc, Nat.add_comm 1 i])

theorem map_fst_spread (pa : Nat) (bs : List Byte) : (spread pa bs).map Prod.fst = (List.range bs.length).map (pa + ·) := by
  induction bs generalizing pa with
  | nil => rfl
  | cons b bs ih =>
    rw [spread_cons, List.map_cons, ih, List.length_cons, List.range_succ_eq_map, List.map_cons, List.map_map]
    exact congrArg _ (List.map_congr_left fun i _ => by simp only [Function.comp, Nat.succ_eq_add_one]; omega)

theorem nodup_spread (pa : Nat) (bs : List Byte) : ((spread pa bs).map Prod.fst).Nodup := by
  rw [map_fst_spread]
  exact List.nodup_range.map fun _ _ h => Nat.add_left_cancel h

theorem find_spread (pa : Nat) (bs : List Byte) (a : Nat) (old : Nat → Byte) :
    (((spread pa bs).find? fun p => p.1 = a).map Prod.snd).getD (old a) = overlay pa bs old a := by
  induction bs generalizing pa with
  | nil => exact (overlay_outside (by simp) old).symm
  | cons b bs ih =>
    rw [spread_cons, List.find?_cons]
    by_cases h : pa = a
    · subst h
      simp [overlay]
    · simp only [h, decide_false, ih]
      unfold overlay
      by_cases hle : pa ≤ a
      · rw [if_pos hle, if_pos (by omega), show a - pa = a - (pa + 1) + 1 by omega, List.getD_cons_succ]
      · rw [if_neg hle, if_neg (by omega)]

/-- The bytes of a range that lie in one line. -/
theorem find_spread_line (pa : Nat) (bs : List Byte) (line a : Nat) (old : Nat → Byte) :
    ((((spread pa bs).filter fun p => p.1 / 128 = line).find? fun p => p.1 = a).map Prod.snd).getD (old a) =
      if a / 128 = line then overlay pa bs old a else old a := by
  rw [List.find?_filter]
  split
  next h =>
    rw [← find_spread]
    congr 3
    funext p
    by_cases e : p.1 = a
    · simp [e, h]
    · simp [e]
  next h =>
    rw [List.find?_eq_none.mpr fun p _ hp => ?_]
    · rfl
    · simp only [decide_eq_true_eq] at hp
      exact h (hp.2 ▸ hp.1)

theorem mem_linesOf {pa n a : Nat} (h : pa ≤ a ∧ a < pa + n) : a / 128 ∈ linesOf pa n :=
  List.mem_map.mpr ⟨a / 128 - pa / 128, List.mem_range.mpr (by omega), by omega⟩

/-! ### Marks -/

/-- Only marks differ. -/
def State.OnlyMarks (s t : State) : Prop := { t with ms := { t.ms with marks := s.ms.marks } } = s

namespace State.OnlyMarks

variable {s t u : State}

theorem refl (s : State) : s.OnlyMarks s := rfl

theorem trans (h : s.OnlyMarks t) (k : t.OnlyMarks u) : s.OnlyMarks u := by
  unfold State.OnlyMarks at h k ⊢
  rw [← h, ← k]

theorem caches (h : s.OnlyMarks t) : s.OnlyCaches t := by
  unfold State.OnlyMarks at h
  rw [← h]
  exact ⟨rfl, id⟩

theorem l1 (h : s.OnlyMarks t) : t.ms.l1 = s.ms.l1 := (congrArg (fun z : State => z.ms.l1) h :)

theorem byte (h : s.OnlyMarks t) (a : Nat) : t.byte a = s.byte a := (congrArg (fun z : State => z.byte a) h :)

theorem ite {p : Prop} [Decidable p] {a b : State} (ha : s.OnlyMarks a) (hb : s.OnlyMarks b) : s.OnlyMarks (if p then a else b) := by
  split
  · exact ha
  · exact hb

theorem foldl {α : Type} {f : State → α → State} (h : ∀ (s : State) x, s.OnlyMarks (f s x)) (l : List α) :
    ∀ s : State, s.OnlyMarks (l.foldl f s) := by
  induction l with
  | nil => exact refl
  | cons x l ih => exact fun s => (h s x).trans (ih _)

theorem addMark (s : State) (k : Mark) : s.OnlyMarks (s.addMark k) := ite rfl (refl s)

theorem markRelease (s : State) (cache pa n upto : Nat) (sc : Scope) (drift : Bool) :
    s.OnlyMarks (s.markRelease cache pa n upto sc drift) :=
  ite (refl s) (ite ((addMark s _).trans (addMark _ _)) (addMark s _))

theorem leaveMarks (s : State) (o : MOp) (a : Acc) : s.OnlyMarks (s.leaveMarks o a) :=
  ite (refl s) ((ite (markRelease s _ _ _ _ _ _) (refl s)).trans (foldl (fun s _ => markRelease s _ _ _ _ _ _) _ _))

end State.OnlyMarks

/-! ### A write in an owning cache -/

theorem State.injectL1_calm {s : State} (h : s.ev.inject = []) (cache pa n : Nat) : s.injectL1 cache pa n = s := by
  unfold State.injectL1
  rw [h]
  rfl

/-- One line's part of a write in an owning cache. -/
def State.ownLine (cls cache pa : Nat) (bs : List Byte) (s : State) (l : Nat) : State :=
  let s1 := ((s.takeOwner cls cache l).writeOwned cache l ((spread pa bs).filter fun p => p.1 / 128 = l)).injectL1 cache pa bs.length
  if isWeight pa then s1.recall none l false else s1

theorem State.ownWrite_eq (s : State) (cls cache pa : Nat) (bs : List Byte) :
    s.ownWrite cls cache pa bs = (linesOf pa bs.length).foldl (State.ownLine cls cache pa bs) (s.countMiss cache .own pa bs.length) := rfl

section OwnWrite

variable {s : State} (h : s.OneDirty) (hcalm : s.ev.inject = []) (cls cache pa : Nat) (bs : List Byte)
include h hcalm

theorem State.OneDirty.ownLine (l : Nat) : (s.ownLine cls cache pa bs l).OneDirty ∧ (s.ownLine cls cache pa bs l).ev.inject = [] ∧
    ∀ a, (s.ownLine cls cache pa bs l).homeByte a = if a / 128 = l then overlay pa bs s.homeByte a else s.homeByte a := by
  obtain ⟨hone, hbyte, howns⟩ := h.takeOwner cls cache l
  obtain ⟨hone', hbyte'⟩ := hone.writeOwned howns (bs := (spread pa bs).filter fun p => p.1 / 128 = l)
    (fun p hp => of_decide_eq_true (List.mem_filter.mp hp).2) ((nodup_spread pa bs).sublist (List.filter_sublist.map _))
  have hcalm' (cs : List (Nat × Byte)) : ((s.takeOwner cls cache l).writeOwned cache l cs).ev.inject = [] :=
    ((State.OnlyCaches.takeOwner s cls cache l).trans (.writeOwned _ cache l cs)).calm hcalm
  replace hcalm' := hcalm' ((spread pa bs).filter fun p => p.1 / 128 = l)
  unfold State.ownLine
  dsimp only
  rw [State.injectL1_calm hcalm']
  generalize (s.takeOwner cls cache l).writeOwned cache l _ = z at hone' hbyte' hcalm'
  obtain ⟨hdirty, hkeep⟩ := (State.Merges.ite (p := isWeight pa = true) (.recallLine z none l false) (.refl z)) hone'
  refine ⟨hdirty, (State.OnlyCaches.ite (.recallLine z none l false) (.refl z)).calm hcalm', fun a => ?_⟩
  rw [hkeep, hbyte', find_spread_line]
  split
  · exact overlay_congr (hbyte a) pa bs
  · exact hbyte a

theorem State.OneDirty.ownWrite :
    (s.ownWrite cls cache pa bs).OneDirty ∧ ∀ a, (s.ownWrite cls cache pa bs).homeByte a = overlay pa bs s.homeByte a := by
  have hfold : ∀ (ls : List Nat) (z : State), z.OneDirty → z.ev.inject = [] → (ls.foldl (State.ownLine cls cache pa bs) z).OneDirty ∧
      ∀ a, (ls.foldl (State.ownLine cls cache pa bs) z).homeByte a = if a / 128 ∈ ls then overlay pa bs z.homeByte a else z.homeByte a := by
    intro ls
    induction ls with
    | nil => exact fun z hz _ => ⟨hz, fun _ => rfl⟩
    | cons l ls ih =>
      intro z hz hc
      obtain ⟨hone, hcalm', hbyte⟩ := hz.ownLine hc cls cache pa bs l
      obtain ⟨hdone, hrest⟩ := ih _ hone hcalm'
      refine ⟨hdone, fun a => (hrest a).trans ?_⟩
      rw [hbyte]
      by_cases hl : a / 128 = l
      · rw [if_pos hl, if_pos (List.mem_cons.mpr (.inl hl) : a / 128 ∈ l :: ls)]
        split
        · rw [overlay_congr ((hbyte a).trans (if_pos hl)), overlay_overlay rfl]
        · rfl
      · rw [if_neg hl, overlay_congr ((hbyte a).trans (if_neg hl))]
        simp only [List.mem_cons, or_iff_right hl]
  have hcount : s.Merges (s.countMiss cache .own pa bs.length) :=
    .ite (.ite (.of_same rfl fun _ => rfl) (.refl s)) (.refl s)
  obtain ⟨hone, hsame⟩ := hcount h
  obtain ⟨hdone, hbyte⟩ := hfold (linesOf pa bs.length) _ hone ((State.OnlyCaches.countMiss s cache .own pa bs.length).calm hcalm)
  rw [State.ownWrite_eq]
  refine ⟨hdone, fun a => (hbyte a).trans ?_⟩
  split
  · exact overlay_congr (hsame a) pa bs
  next hout => rw [hsame, overlay_outside fun hin => hout (mem_linesOf hin)]

end OwnWrite

/-! ### Lines that nobody owns -/

/-- The lines of a cache that are owned after a step were owned before. -/
def State.NoNewOwner (s t : State) : Prop := ∀ q ∈ t.ms.l1, q.kind = .owned → q ∈ s.ms.l1

theorem State.NoNewOwner.not_owns {s t : State} (h : s.NoNewOwner t) {cache line : Nat} (ho : s.owns cache line = false) :
    t.owns cache line = false :=
  State.not_owns fun q hq hk hn hc => State.kind_of_not_owns ho (h q hq hk) hc hn hk

theorem State.mem_putL1 {s : State} {cache line : Nat} {x : Option L1Line} {q : L1Line} (h : q ∈ (s.putL1 cache line x).ms.l1) :
    q ∈ s.ms.l1 ∨ x = some q := by
  cases x with
  | none => exact .inl (List.mem_of_mem_filter h)
  | some y =>
    refine (List.mem_append.mp h).imp (fun h => ?_) fun h => congrArg some (List.mem_singleton.mp h).symm
    dsimp only at h
    split at h
    · exact List.mem_of_mem_filter (State.flushBytes_l1 _ _ ▸ List.mem_of_mem_filter h)
    · exact List.mem_of_mem_filter h

/-- A copy that is not owned comes, or a line goes. -/
theorem State.noNewOwner_putL1 (s : State) (cache line : Nat) {x : Option L1Line} (hx : ∀ y, x = some y → y.kind ≠ .owned) :
    s.NoNewOwner (s.putL1 cache line x) := fun q hq hk => (State.mem_putL1 hq).resolve_right fun e => hx q e hk

theorem State.noNewOwner_grantLease (s : State) (cls cache line : Nat) : s.NoNewOwner (s.grantLease cls cache line) := by
  unfold State.grantLease
  dsimp only
  split
  · exact s.noNewOwner_putL1 cache line nofun
  · intro q hq hk
    refine ((State.OnlyRecords.disown s (line * 128)).trans (.putRegion _ _)).l1 ▸ State.noNewOwner_putL1 _ cache line ?_ q hq hk
    rintro y ⟨⟩
    exact nofun

/-- Steps of which each keeps the bytes where the cache does not own its line, over lines that it does not own. -/
theorem State.KeepsBytes.foldl_free {cache : Nat} {f : State → Nat → State}
    (hkeep : ∀ (s : State) l, s.OneOwner → s.owns cache l = false → s.KeepsBytes (f s l)) (hnew : ∀ (s : State) l, s.NoNewOwner (f s l))
    (ls : List Nat) : ∀ s : State, s.OneOwner → (∀ l ∈ ls, s.owns cache l = false) → s.KeepsBytes (ls.foldl f s) := by
  induction ls with
  | nil => exact fun s h _ => .refl h
  | cons l ls ih =>
    intro s h hfree
    have hstep := hkeep s l h (hfree l List.mem_cons_self)
    exact hstep.trans (ih _ hstep.1 fun q hq => (hnew s l).not_owns (hfree q (List.mem_cons_of_mem _ hq)))

/-- The copies that a write at the home leaves in a cache that owns none of its lines keep every byte. -/
theorem State.KeepsBytes.writeCopies {s : State} (h : s.OneOwner) (cls cache : Nat) (rt : Rt) {pa n : Nat}
    (hfree : ∀ l ∈ linesOf pa n, s.owns cache l = false) : s.KeepsBytes (s.writeCopies cls cache rt pa n) := by
  refine .ite ?_ (.ite (.refl h) ?_)
  · exact foldl_free (fun z l hz ho => .grantLease hz cls ho) (fun z l => z.noNewOwner_grantLease cls cache l) _ s h hfree
  · exact foldl_free (fun z l hz ho => .drop hz ho) (fun z l => z.noNewOwner_putL1 cache l nofun) _ s h hfree

/-! ### A write at the home -/

/-- Lines owned after several are taken back from every owner were owned before, and are none of those. -/
theorem State.mem_foldl_recall (ls : List Nat) : ∀ (s : State) (q : L1Line),
    q ∈ (ls.foldl (fun s l => (s.recall none l true).dropSharers none l) s).ms.l1 → q.kind = .owned → q ∈ s.ms.l1 ∧ q.line ∉ ls := by
  induction ls with
  | nil => exact fun s q hq _ => ⟨hq, List.not_mem_nil⟩
  | cons l ls ih =>
    intro s q hq hk
    obtain ⟨hmem, hout⟩ := ih _ q hq hk
    obtain ⟨hmem, hby⟩ := State.mem_of_mem_recall (State.mem_dropSharers hmem) hk
    exact ⟨hmem, fun hin => (List.mem_cons.mp hin).elim (fun e => Option.some_ne_none _ (hby e)) hout⟩

/-- After a write at the home nobody owns its lines. -/
theorem State.not_owns_writeHome (s : State) (pa : Nat) (bs : List Byte) (cache : Nat) {l : Nat} (hl : l ∈ linesOf pa bs.length) :
    (s.writeHome pa bs).owns cache l = false :=
  State.not_owns fun q hq hk hn _ => by
    rw [State.writeHome, State.applyHome_l1, (State.OnlyRecords.sliceStore _ _).l1] at hq
    obtain ⟨o, ho, rfl⟩ := List.mem_map.mp hq
    exact (State.mem_foldl_recall _ s o ho hk).2 (hn ▸ hl)

theorem State.OneOwner.writeThrough {s : State} (h : s.OneOwner) (cls cache : Nat) (rt : Rt) (pa : Nat) (bs : List Byte) :
    (((s.countAccess pa).writeHome pa bs).writeCopies cls cache rt pa bs.length).OneOwner ∧
    ∀ a, (((s.countAccess pa).writeHome pa bs).writeCopies cls cache rt pa bs.length).homeByte a = overlay pa bs s.homeByte a := by
  have hcount := State.KeepsBytes.countAccess h pa
  obtain ⟨hone, hbyte⟩ := hcount.1.writeHome pa bs
  have hcopies := State.KeepsBytes.writeCopies hone cls cache rt fun l hl => State.not_owns_writeHome (s.countAccess pa) pa bs cache hl
  exact ⟨hcopies.1, fun a => (hcopies.2 a).trans ((hbyte a).trans (overlay_congr (hcount.2 a) pa bs))⟩

/-- A write beyond the module's own memory. -/
theorem State.OneOwner.writeFar {s : State} (h : s.OneOwner) {pa : Nat} (hpa : 2 ^ 48 ≤ pa) (bs : List Byte) :
    (s.writeBytes pa bs).OneOwner ∧ ∀ a, (s.writeBytes pa bs).homeByte a = overlay pa bs s.homeByte a := by
  have hl1 : (s.writeBytes pa bs).ms.l1 = s.ms.l1 := (congrArg (fun z : State => z.ms.l1) (s.writeBytes_only pa bs) :)
  have hone : (s.writeBytes pa bs).OneOwner := h.of_mem fun _ hl => hl1 ▸ hl
  refine ⟨hone, fun a => ?_⟩
  by_cases ha : pa ≤ a ∧ a < pa + bs.length
  · have hlt : a - pa < bs.length := by omega
    rw [hone.homeByte_of_far (by omega), State.byte_writeBytes, if_pos ha, overlay, if_pos ha.1, List.getD_eq_getElem _ _ hlt,
      List.getD_eq_getElem _ _ hlt]
  · rw [overlay_outside ha, State.homeByte, State.homeByte, hl1, State.byte_writeBytes, if_neg ha]

/-! ### Writes by their request type -/

/-- A write goes to an owning cache. -/
def State.writesOwn (s : State) (rt : Rt) (pa : Nat) : Bool := cacheable pa && rt = .own && (s.driftOf pa).isNone

/-- The lines are in order for a write: with one owner each, or, for one in an owning cache, with one dirty copy of each byte. -/
structure State.Ready (s : State) (rt : Rt) (pa : Nat) : Prop where
  one : s.OneDirty
  owner : s.writesOwn rt pa = false → s.OneOwner
  calm : s.ev.inject = []

theorem State.writesOwn_congr {s t : State} (h : t.dr = s.dr) (rt : Rt) (pa : Nat) : t.writesOwn rt pa = s.writesOwn rt pa := by
  unfold State.writesOwn State.driftOf
  rw [h]

/-- A write puts its bytes over memory, wherever its request type performs it. -/
theorem State.Ready.writeAs {s : State} {rt : Rt} {pa : Nat} (h : s.Ready rt pa) (cls cache : Nat) (bs : List Byte) :
    (s.writeAs cls cache rt pa bs).Ready rt pa ∧ ∀ a, (s.writeAs cls cache rt pa bs).homeByte a = overlay pa bs s.homeByte a := by
  have honly := State.OnlyCaches.writeAs s cls cache rt pa bs
  suffices hspec : (s.writeAs cls cache rt pa bs).OneDirty ∧ (s.writesOwn rt pa = false → (s.writeAs cls cache rt pa bs).OneOwner) ∧
      ∀ a, (s.writeAs cls cache rt pa bs).homeByte a = overlay pa bs s.homeByte a by
    exact ⟨⟨hspec.1, fun how => hspec.2.1 (State.writesOwn_congr honly.dr rt pa ▸ how), honly.calm h.calm⟩, hspec.2.2⟩
  cases how : s.writesOwn rt pa with
  | true =>
    have heq : s.writeAs cls cache rt pa bs = s.ownWrite cls cache pa bs := by
      simp only [State.writesOwn, Bool.and_eq_true] at how
      unfold State.writeAs
      rw [if_neg (by simp [how.1.1]), if_pos (by simp [how])]
    rw [heq]
    obtain ⟨hone, hbyte⟩ := h.one.ownWrite h.calm cls cache pa bs
    exact ⟨hone, nofun, hbyte⟩
  | false =>
    have hone := h.owner how
    have hwrite : (s.writeAs cls cache rt pa bs).OneOwner ∧ ∀ a, (s.writeAs cls cache rt pa bs).homeByte a = overlay pa bs s.homeByte a := by
      unfold State.writeAs
      split
      next hfar =>
        refine hone.writeFar ?_ bs
        simpa [cacheable] using hfar
      next hnear =>
        rw [if_neg fun hown => ?_]
        · exact hone.writeThrough cls cache rt pa bs
        · rw [State.writesOwn, Bool.and_assoc, hown, Bool.and_true] at how
          simp [how] at hnear
    exact ⟨hwrite.1.oneDirty, fun _ => hwrite.1, hwrite.2⟩

/-! ### Accepted writes -/

theorem State.KeepsBytes.recallOwn {s : State} (h : s.OneOwner) (cache pa n : Nat) : s.KeepsBytes (s.recallOwn cache pa n) :=
  .foldl (fun _ hz l => .ite (.recall hz none l true) (.refl hz)) _ s h

/-- After a cache's own lines are taken back it owns none of them. -/
theorem State.mem_foldl_recallOwn (cache : Nat) (ls : List Nat) : ∀ (s : State) (q : L1Line),
    q ∈ (ls.foldl (fun s l => if s.owns cache l then s.recall none l true else s) s).ms.l1 → q.kind = .owned →
      q ∈ s.ms.l1 ∧ (q.cache = cache → q.line ∉ ls) := by
  induction ls with
  | nil => exact fun s q hq _ => ⟨hq, fun _ => List.not_mem_nil⟩
  | cons l ls ih =>
    intro s q hq hk
    obtain ⟨hmem, hout⟩ := ih _ q hq hk
    have hstep : q ∈ s.ms.l1 ∧ (q.cache = cache → q.line ≠ l) := by
      dsimp only at hmem
      split at hmem
      · obtain ⟨hmem, hby⟩ := State.mem_of_mem_recall hmem hk
        exact ⟨hmem, fun _ e => Option.some_ne_none _ (hby e)⟩
      next ho => exact ⟨hmem, fun hc hn => State.kind_of_not_owns (Bool.eq_false_iff.mpr ho) hmem hc hn hk⟩
    exact ⟨hstep.1, fun hc hin => (List.mem_cons.mp hin).elim (hstep.2 hc) (hout hc)⟩

theorem State.not_owns_recallOwn (s : State) (cache pa n : Nat) {l : Nat} (hl : l ∈ linesOf pa n) :
    (s.recallOwn cache pa n).owns cache l = false :=
  State.not_owns fun q hq hk hn hc => (State.mem_foldl_recallOwn cache _ s q hq hk).2 hc (hn ▸ hl)

theorem State.OnlyCaches.in_flight {s t : State} (h : s.OnlyCaches t) (fs : List Fwd) (n : Nat) :
    State.OnlyCaches { s with ms := { s.ms with fwd := fs }, opId := n } { t with ms := { t.ms with fwd := fs }, opId := n } :=
  ⟨(congrArg (fun z : State => { z with ms := { z.ms with fwd := fs }, opId := n }) h.rest :), h.calm⟩

/-- An accepted write goes on its way: one more is in flight, and besides only the caches and homes differ. -/
structure State.Accepted (s t : State) (o : MOp) (pa : Nat) (bs : List Byte) (red : List (Nat × Nat × Nat)) : Prop where
  keeps : s.KeepsBytes t
  only : s.OnlyCaches { t with ms := { t.ms with fwd := s.ms.fwd }, opId := s.opId }
  fwd : ∃ f : Fwd, t.ms.fwd = s.ms.fwd ++ [f] ∧ f.cache = s.cacheOf o.ctx ∧ f.bytes = spread pa bs ∧ f.red = red ∧ f.op = o.id

theorem State.OneOwner.accept {s : State} (h : s.OneOwner) (o : MOp) (as : List Acc) (pa : Nat) (bs : List Byte)
    (red : List (Nat × Nat × Nat)) : s.Accepted (s.accept o as pa bs red) o pa bs red := by
  have hkeep := State.KeepsBytes.recallOwn h (s.cacheOf o.ctx) pa bs.length
  have hfree (l : Nat) (hl : l ∈ linesOf pa bs.length) := s.not_owns_recallOwn (s.cacheOf o.ctx) pa bs.length hl
  have honly := State.OnlyCaches.recallOwn s (s.cacheOf o.ctx) pa bs.length
  unfold State.accept
  dsimp only
  generalize s.recallOwn (s.cacheOf o.ctx) pa bs.length = z at hkeep hfree honly
  generalize hf : Fwd.mk _ _ _ _ _ _ _ _ _ = f
  generalize hw : ({ z with ms := { z.ms with fwd := _ }, opId := _ } : State) = w
  have hwone : w.OneOwner := hkeep.1.of_mem fun q hq => by rw [← hw] at hq; exact hq
  have hzw : z.KeepsBytes w := ⟨hwone, fun _ => by rw [← hw]; rfl⟩
  have hcopies : w.KeepsBytes (if o.rt = .wt then w else w.writeCopies 0 (s.cacheOf o.ctx) o.rt pa bs.length) :=
    .ite (.refl hwone) (.writeCopies hwone 0 _ o.rt fun l hl => by rw [← hw]; exact hfree l hl)
  have hcaches : w.OnlyCaches (if o.rt = .wt then w else w.writeCopies 0 (s.cacheOf o.ctx) o.rt pa bs.length) :=
    .ite (.refl w) (.writeCopies w 0 _ o.rt pa bs.length)
  refine ⟨(hkeep.trans hzw).trans hcopies, ?_, f, ?_, by rw [← hf], by rw [← hf], by rw [← hf], by rw [← hf]⟩
  · refine honly.trans ?_
    have hback : ({ w with ms := { w.ms with fwd := s.ms.fwd }, opId := s.opId } : State) = z := by
      rw [← hw, ← honly.ms.2, ← honly.opId]
    exact hback ▸ hcaches.in_flight s.ms.fwd s.opId
  · rw [hcaches.ms.2, ← hw, ← honly.ms.2]

end Sys2Proof.Machine
end

section
/-! O24: stores performed address by address (02 R65; 10 R239, R241, R251). -/

set_option Elab.async false

namespace Sys2Proof.Machine

theorem MOp.mem_group {o : MOp} {k : Nat × Bool} {a : Acc} (h : a ∈ o.group k) : a.pa = k.1 ∧ a.drop = k.2 := by
  have hk := of_decide_eq_true (List.mem_filter.mp h).2
  exact ⟨congrArg Prod.fst hk, congrArg Prod.snd hk⟩

/-- Accesses at one address are accepted alike. -/
theorem State.accepts_congr (s : State) (o : MOp) {a b : Acc} (h : b.pa = a.pa) : s.accepts o b = s.accepts o a := by
  unfold State.accepts
  rw [h]

theorem State.any_accepts (s : State) (o : MOp) {as : List Acc} {a : Acc} (ha : a ∈ as) (h : ∀ b ∈ as, b.pa = a.pa) :
    as.any (s.accepts o) = s.accepts o a := by
  cases hacc : s.accepts o a with
  | true => exact List.any_eq_true.mpr ⟨a, ha, hacc⟩
  | false => exact List.any_eq_false.mpr fun b hb => by rw [s.accepts_congr o (h b hb), hacc]; exact Bool.false_ne_true

/-- Marks left by lanes. -/
theorem State.OnlyMarks.lanes (s : State) (o : MOp) (as : List Acc) : s.OnlyMarks (as.foldl (fun s b => s.leaveMarks o b) s) :=
  foldl (fun s b => leaveMarks s o b) as s

/-- The lanes of a store at one address: the last one's bytes are written. -/
theorem State.performLanes_store (s : State) {o : MOp} (hk : o.kind = .store ∨ o.kind = .recSt) {as : List Acc} {a : Acc}
    (hlast : as.getLast? = some a) (hsame : ∀ b ∈ as, b.pa = a.pa ∧ b.n = a.n) :
    (if s.accepts o a then s.accept o as a.pa (leBytes a.n a.data) []
      else s.writeAs (s.fillClass o.ctx) (s.cacheOf o.ctx) o.rt a.pa (leBytes a.n a.data)).OnlyMarks (s.performLanes o as) := by
  obtain ⟨b, bs, rfl⟩ : ∃ b bs, as = b :: bs := List.exists_cons_of_ne_nil fun e => by rw [e] at hlast; cases hlast
  obtain ⟨hpa, hn⟩ := hsame b List.mem_cons_self
  have hany := s.any_accepts o (List.mem_of_getLast? hlast) fun c hc => (hsame c hc).1
  have heq : s.performLanes o (b :: bs) = (b :: bs).foldl (fun s b => s.leaveMarks o b)
      (s.performWrite o (b :: bs) b.pa (leBytes b.n (((b :: bs).getLast?).getD b).data)) := by
    unfold State.performLanes
    rcases hk with e | e <;> rw [e]
  rw [heq, hlast, Option.getD_some, hpa, hn, State.performWrite, hany]
  exact .lanes _ o _

theorem State.OnlyMarks.merges {s t : State} (h : s.OnlyMarks t) : s.Merges t := .of_same h.l1 h.byte

namespace State.Carries

variable {c : CtxId} {s t u : State}

theorem of_caches (h : s.OnlyCaches t) (ht : t.OneDirty) : s.Carries c t :=
  ⟨ht, h.ms.1, fun l => by rw [h.ctx], by rw [State.alive, State.alive, h.ctx], h.stuck⟩

theorem of_marks (h : s.Carries c t) (k : t.OnlyMarks u) : s.Carries c u where
  one := (k.merges h.one).1
  ops := k.caches.ms.1.trans h.ops
  wait l := by rw [k.caches.ctx, h.wait]
  alive := (by rw [State.alive, State.alive, k.caches.ctx] : u.alive c = t.alive c).trans h.alive
  stuck := k.caches.stuck.trans h.stuck

end State.Carries

theorem State.Accepted.carries {s t : State} {o : MOp} {pa : Nat} {bs : List Byte} {red : List (Nat × Nat × Nat)}
    (h : s.Accepted t o pa bs red) (c : CtxId) : s.Carries c t where
  one := h.keeps.1.oneDirty
  ops := h.only.ms.1
  wait l := congrArg (fun x : Ctx => (x.lane l).wait) (h.only.ctx c)
  alive := congrArg Ctx.live (h.only.ctx c)
  stuck := h.only.stuck

theorem State.viewByte_congr {s t : State} (hbyte : ∀ a, t.homeByte a = s.homeByte a) (hfwd : t.ms.fwd = s.ms.fwd) (cache a : Nat) :
    t.viewByte cache a = s.viewByte cache a := by
  rw [State.viewByte, State.viewByte, hbyte, hfwd]

/-- The write that an agent's cache has accepted is what it reads. -/
theorem State.Accepted.viewByte {s t : State} {o : MOp} {pa : Nat} {bs : List Byte} (h : s.Accepted t o pa bs []) (a : Nat) :
    t.viewByte (s.cacheOf o.ctx) a = overlay pa bs (s.viewByte (s.cacheOf o.ctx)) a := by
  obtain ⟨f, hfwd, hcache, hbytes, hred, -⟩ := h.fwd
  have hseen : (f.seenBy (s.cacheOf o.ctx) && f.red.isEmpty) = true := by rw [hred]; simp [Fwd.seenBy, hcache]
  rw [← find_spread, State.viewByte, forwarded, hfwd, List.reverse_append, List.reverse_singleton, List.singleton_append,
    List.findSome?_cons, if_pos hseen, hbytes, wlogGet_reverse (nodup_spread pa bs)]
  cases (spread pa bs).find? fun p => p.1 = a with
  | some p => rfl
  | none =>
    dsimp only [Option.map_none]
    rw [h.keeps.2]
    rfl

/-- Settles O24: the write by `Ready.writeAs` or, where it is accepted, `OneOwner.accept`, the end of the group by `State.performed`. -/
theorem storesReachMemory : Obligations.StoresReachMemory := by
  unfold Obligations.StoresReachMemory
  intro s o k a h hkind hlast hn hcalm t view new
  have ha := List.mem_of_getLast? hlast
  have hmarks := s.performLanes_store hkind hlast fun b hb =>
    ⟨(MOp.mem_group hb).1.trans (MOp.mem_group ha).1.symm, hn b hb⟩
  have hplain : o.kind.plain := hkind.elim (fun e => .inr (.inl e)) fun e => .inr (.inr (.inl e))
  have hnew (old : Nat → Byte) (b : Nat) : overlay a.pa (leBytes a.n a.data) old b = new b (old b) := overlay_leBytes a.pa a.n a.data old b
  cases hacc : s.accepts o a with
  | true =>
    rw [if_pos hacc] at hmarks
    have haccept := h.owners.accept o (o.group k) a.pa (leBytes a.n a.data) []
    have hend := State.performed h hplain ((haccept.carries o.ctx).of_marks hmarks)
    have hsame (b : Nat) := (hend.byte b).trans ((hmarks.merges haccept.keeps.1.oneDirty).2 b)
    refine ⟨fun b => (hsame b).trans (haccept.keeps.2 b), fun _ b => ?_, hend.gone, hend.completes⟩
    rw [State.viewByte_congr hsame (hend.fwd.trans hmarks.caches.ms.2), ← hnew]
    exact haccept.viewByte b
  | false =>
    rw [if_neg (by simp [hacc])] at hmarks
    obtain ⟨hready, hbyte⟩ := State.Ready.writeAs (rt := o.rt) (pa := a.pa) ⟨h.owners.oneDirty, fun _ => h.owners, hcalm⟩ (s.fillClass o.ctx)
      (s.cacheOf o.ctx) (leBytes a.n a.data)
    have hend := State.performed h hplain ((State.Carries.of_caches (.writeAs s _ _ _ _ _) hready.one).of_marks hmarks)
    refine ⟨fun b => ?_, nofun, hend.gone, hend.completes⟩
    rw [hend.byte, (hmarks.merges hready.one).2, hbyte]
    exact hnew _ b

end Sys2Proof.Machine
end

section
/-! O26: atomics and reductions performed address by address, lanes ascending (10 R248-R251). -/

set_option Elab.async false

namespace Sys2Proof.Machine

/-! ### Numbers in memory -/

theorem leBytes_mod (n v : Nat) : leBytes n (v % 256 ^ n) = leBytes n v := by
  have h := leBytes_leNat (leBytes n v)
  rwa [length_leBytes, leNat_leBytes] at h

/-- What was read at home, written there, changes nothing. -/
theorem State.overlay_homeNat (s : State) (pa n a : Nat) : overlay pa (leBytes n (s.homeNat pa n)) s.homeByte a = s.homeByte a := by
  have hbytes : leBytes n (s.homeNat pa n) = (List.range n).map fun i => s.homeByte (pa + i) := by
    have h := leBytes_leNat ((List.range n).map fun i => s.homeByte (pa + i))
    rwa [List.length_map, List.length_range] at h
  by_cases ha : pa ≤ a ∧ a < pa + n
  · rw [hbytes, overlay, if_pos ha.1, List.getD_eq_getElem _ _ (by simp; omega), List.getElem_map, List.getElem_range,
      Nat.add_sub_cancel' ha.1]
  · exact overlay_outside (by rwa [length_leBytes]) _

/-- What was written at home is read there. -/
theorem State.homeNat_overlay {s : State} {pa n v : Nat} {old : Nat → Byte} (h : ∀ a, s.homeByte a = overlay pa (leBytes n v) old a) :
    s.homeNat pa n = v % 256 ^ n := by
  rw [← leNat_leBytes, State.homeNat]
  refine congrArg leNat (List.ext_getElem (by simp [length_leBytes]) fun i hi _ => ?_)
  have hlt : i < n := by simpa using hi
  rw [List.getElem_map, List.getElem_range, h, overlay, if_pos (Nat.le_add_right pa i), Nat.add_sub_cancel_left,
    List.getD_eq_getElem _ _ (by rwa [length_leBytes])]

/-! ### One lane -/

/-- The value that a lane's atomic or reduction stores. -/
def MOp.newValue (o : MOp) (op : Nat) (v : Nat) (a : Acc) : Nat := atomValue op o.w v a.data a.data2

/-- The value at the address after several lanes. -/
def MOp.after (o : MOp) (op n v : Nat) (as : List Acc) : Nat := as.foldl (fun v a => o.newValue op v a % 256 ^ n) v

/-- A lane's atomic or reduction performed, but for its result. -/
def State.actAt (s : State) (o : MOp) (op : Nat) (a : Acc) : State :=
  ((s.injectRead o.ctx a.pa a.n).putPoint o a (o.newValue op (s.atPoint a) a)).leaveMarks o a

theorem State.injectRead_calm {s : State} (h : s.ev.inject = []) (c : CtxId) (pa n : Nat) : s.injectRead c pa n = s := by
  unfold State.injectRead State.injectSeen
  rw [h]
  rfl

namespace State.Ready

variable {s t : State} {rt : Rt} {pa : Nat}

/-- Memory, the drift regions and the injected errors the same. -/
theorem of_same (h : s.Ready rt pa) (hl1 : t.ms.l1 = s.ms.l1) (hdr : t.dr = s.dr) (hev : t.ev = s.ev) : t.Ready rt pa where
  one := h.one.of_mem fun _ hl => hl1 ▸ hl
  owner how := (h.owner (State.writesOwn_congr hdr rt pa ▸ how)).of_mem fun _ hl => hl1 ▸ hl
  calm := hev ▸ h.calm

theorem actAt {o : MOp} {op : Nat} {a : Acc} (h : s.Ready o.rt a.pa) : (s.actAt o op a).Ready o.rt a.pa ∧ s.OnlyCaches (s.actAt o op a) ∧
    ∀ b, (s.actAt o op a).homeByte b = overlay a.pa (leBytes a.n (o.newValue op (s.atPoint a) a)) s.homeByte b := by
  unfold State.actAt State.putPoint
  rw [State.injectRead_calm h.calm]
  obtain ⟨hready, hbyte⟩ := h.writeAs (s.fillClass o.ctx) (s.cacheOf o.ctx) (leBytes a.n (o.newValue op (s.atPoint a) a))
  have honly := State.OnlyCaches.writeAs s (s.fillClass o.ctx) (s.cacheOf o.ctx) o.rt a.pa (leBytes a.n (o.newValue op (s.atPoint a) a))
  have hmarks := State.OnlyMarks.leaveMarks (s.writeAs (s.fillClass o.ctx) (s.cacheOf o.ctx) o.rt a.pa
    (leBytes a.n (o.newValue op (s.atPoint a) a))) o a
  have hev := (congrArg State.ev hmarks :)
  exact ⟨hready.of_same hmarks.l1 hmarks.caches.dr hev, honly.trans hmarks.caches, fun b => ((hmarks.merges hready.one).2 b).trans (hbyte b)⟩

theorem writeResult (h : s.Ready rt pa) (o : MOp) (a : Acc) (v : Nat) : (s.writeResult o a v).Ready rt pa := by
  have honly := s.writeResult_only o a v
  exact h.of_same (congrArg (fun z : State => z.ms.l1) honly.rest :) (congrArg State.dr honly.rest :) (congrArg State.ev honly.rest :)

end State.Ready

/-! ### Several lanes -/

/-- The results of lanes performed one after the other, each got from the value before it. -/
def MOp.resultsFrom (o : MOp) (g : Nat → Nat) (next : Nat → Acc → Nat) : Nat → List Acc → List Res
  | _, [] => []
  | v, a :: as => o.result a (g v) ++ o.resultsFrom g next (next v a) as

section Results

variable {o : MOp} {g : Nat → Nat} {next : Nat → Acc → Nat}

theorem MOp.resultsFrom_append (as bs : List Acc) (v : Nat) :
    o.resultsFrom g next v (as ++ bs) = o.resultsFrom g next v as ++ o.resultsFrom g next (as.foldl next v) bs := by
  induction as generalizing v with
  | nil => rfl
  | cons a as ih => rw [List.cons_append, MOp.resultsFrom, MOp.resultsFrom, ih, List.append_assoc, List.foldl_cons]

theorem MOp.resultsFrom_concat (as : List Acc) (b : Acc) (v : Nat) :
    o.resultsFrom g next v (as ++ [b]) = o.resultsFrom g next v as ++ o.result b (g (as.foldl next v)) :=
  (o.resultsFrom_append as [b] v).trans (congrArg _ (List.append_nil _))

theorem MOp.mem_resultsFrom {q : Res} {as : List Acc} {v : Nat} (h : q ∈ o.resultsFrom g next v as) : ∃ a ∈ as, ∃ v, q ∈ o.result a v := by
  induction as generalizing v with
  | nil => cases h
  | cons a as ih =>
    rcases List.mem_append.mp h with h | h
    · exact ⟨a, List.mem_cons_self, _, h⟩
    · obtain ⟨b, hb, hq⟩ := ih h
      exact ⟨b, List.mem_cons_of_mem _ hb, hq⟩

theorem MOp.resReg_resultsFrom {as : List Acc} {l m : Nat} (h : ∀ b ∈ as, ∀ v old, resReg (o.result b v) l m old = old) (v : Nat) (old : Word) :
    resReg (o.resultsFrom g next v as) l m old = old := by
  induction as generalizing v with
  | nil => rfl
  | cons a as ih =>
    rw [MOp.resultsFrom, resReg_append, h a List.mem_cons_self]
    exact ih (fun b hb => h b (List.mem_cons_of_mem _ hb)) _

end Results

/-- Lanes at one address performed one after the other: memory holds the last one's value, each lane's result is got from the value before
it. -/
theorem State.foldl_actAt {s : State} {o : MOp} {op pa n : Nat} (g : Nat → Nat) (h : s.Ready o.rt pa) {as : List Acc}
    (has : ∀ b ∈ as, b.pa = pa ∧ b.n = n) :
    let z := as.foldl (fun s b => (s.actAt o op b).writeResult o b (g (s.atPoint b))) s
    z.Ready o.rt pa ∧ (∀ a, z.homeByte a = overlay pa (leBytes n (o.after op n (s.homeNat pa n) as)) s.homeByte a) ∧
    z.homeNat pa n = o.after op n (s.homeNat pa n) as ∧
    Lands o.ctx (o.resultsFrom g (fun v b => o.newValue op v b % 256 ^ n) (s.homeNat pa n) as) s z := by
  induction as using List.reverseRecOn with
  | nil => exact ⟨h, fun a => (s.overlay_homeNat pa n a).symm, rfl, .refl o.ctx s⟩
  | append_singleton as b ih =>
    obtain ⟨hready, hbyte, hnat, hland⟩ := ih fun c hc => has c (List.mem_append_left _ hc)
    obtain ⟨rfl, rfl⟩ := has b (by simp)
    dsimp only
    rw [List.foldl_append, List.foldl_cons, List.foldl_nil]
    generalize as.foldl (fun s b => (s.actAt o op b).writeResult o b (g (s.atPoint b))) s = z at hready hbyte hnat hland
    obtain ⟨hready', honly, hput⟩ := hready.actAt (op := op)
    have hafter : o.after op b.n (s.homeNat b.pa b.n) (as ++ [b]) =
        o.newValue op (o.after op b.n (s.homeNat b.pa b.n) as) b % 256 ^ b.n := List.foldl_append
    have hval : z.atPoint b = o.after op b.n (s.homeNat b.pa b.n) as := hnat
    rw [hval] at hput ⊢
    obtain ⟨hms, hmem⟩ := State.writeResult_ms (z.actAt o op b) o b (g (o.after op b.n (s.homeNat b.pa b.n) as))
    have hsame (a : Nat) : ((z.actAt o op b).writeResult o b (g (o.after op b.n (s.homeNat b.pa b.n) as))).homeByte a =
        overlay b.pa (leBytes b.n (o.newValue op (o.after op b.n (s.homeNat b.pa b.n) as) b)) z.homeByte a := by
      rw [← hput, State.homeByte, State.homeByte, hms, hmem]
    refine ⟨hready'.writeResult o b _, fun a => ?_, ?_, ?_⟩
    · rw [hsame, hafter, leBytes_mod, overlay_congr (hbyte a), overlay_overlay (by rw [length_leBytes, length_leBytes])]
    · rw [State.homeNat_overlay hsame, hafter]
    · rw [MOp.resultsFrom_concat]
      exact (hland.of_caches honly).writeResult b _

/-! ### What the lanes of a group come to -/

section Lanes

variable {s : State} {o : MOp} {op : Nat} {as : List Acc}

theorem State.performLanes_drop (hk : o.kind = .atom op) (hdrop : ∀ b ∈ as, b.drop = true) :
    s.performLanes o as = as.foldl (fun s b => s.writeResult o b 0) s := by
  cases as with
  | nil => rfl
  | cons a as =>
    unfold State.performLanes
    rw [hk]
    dsimp only
    refine List.foldl_ext _ _ _ fun z b hb => ?_
    rw [State.performAcc, hk]
    dsimp only
    rw [if_pos (hdrop b hb)]

theorem State.performLanes_atom (hk : o.kind = .atom op) (hdrop : ∀ b ∈ as, b.drop = false) :
    s.performLanes o as = as.foldl (fun s b => (s.actAt o op b).writeResult o b (s.atPoint b)) s := by
  cases as with
  | nil => rfl
  | cons a as =>
    unfold State.performLanes
    rw [hk]
    dsimp only
    refine List.foldl_ext _ _ _ fun z b hb => ?_
    rw [State.performAcc, hk]
    dsimp only
    rw [if_neg (by simp [hdrop b hb])]
    rfl

theorem State.performLanes_red (hk : o.kind = .red op) (hacc : ∀ b ∈ as, s.accepts o b = false) :
    s.performLanes o as = as.foldl (fun s b => (s.actAt o op b).writeResult o b 0) s := by
  cases as with
  | nil => rfl
  | cons a as =>
    unfold State.performLanes
    rw [hk]
    dsimp only
    rw [if_neg (by simp [hacc a List.mem_cons_self])]
    refine List.foldl_ext _ _ _ fun z b hb => ?_
    rw [State.performAcc, hk]
    rfl

theorem State.performLanes_accepted (hk : o.kind = .red op) {a : Acc} (ha : a ∈ as) (hsame : ∀ b ∈ as, b.pa = a.pa ∧ b.n = a.n)
    (hacc : s.accepts o a = true) :
    (s.accept o as a.pa (leBytes a.n 0) (as.map fun b => (op, o.w, b.data))).OnlyMarks (s.performLanes o as) := by
  cases as with
  | nil => cases ha
  | cons b as =>
    obtain ⟨hpa, hn⟩ := hsame b List.mem_cons_self
    unfold State.performLanes
    rw [hk]
    dsimp only
    rw [if_pos ((s.accepts_congr o hpa).trans hacc), hpa, hn]
    exact .lanes _ o _

end Lanes

/-- Lanes whose results are 0 touch no memory. -/
theorem State.foldl_zeros {s : State} (o : MOp) (next : Nat → Acc → Nat) (v : Nat) (as : List Acc) :
    let z := as.foldl (fun s b => s.writeResult o b 0) s
    z.ms.l1 = s.ms.l1 ∧ (∀ a, z.byte a = s.byte a) ∧ Lands o.ctx (o.resultsFrom (fun _ => 0) next v as) s z := by
  induction as using List.reverseRecOn with
  | nil => exact ⟨rfl, fun _ => rfl, .refl o.ctx s⟩
  | append_singleton as b ih =>
    obtain ⟨hl1, hbyte, hland⟩ := ih
    dsimp only
    rw [List.foldl_append, List.foldl_cons, List.foldl_nil, MOp.resultsFrom_concat]
    obtain ⟨hms, hmem⟩ := State.writeResult_ms (as.foldl (fun s b => s.writeResult o b 0) s) o b 0
    exact ⟨by rw [hms, hl1], fun a => (hmem a).trans (hbyte a), hland.writeResult b 0⟩

/-- The lanes of an atomic at one address performed: memory holds the last one's value, and each lane's result is the value before it;
where the lanes are out of bounds nothing is stored, and their results are 0. -/
theorem State.atom_performed {s : State} {o : MOp} {op : Nat} {as : List Acc} {a : Acc} (hk : o.kind = .atom op) (h : s.Ready o.rt a.pa)
    (hsame : ∀ b ∈ as, (b.pa = a.pa ∧ b.n = a.n) ∧ b.drop = a.drop) :
    (s.performLanes o as).OneDirty ∧
    (∀ b, (s.performLanes o as).homeByte b =
      if a.drop then s.homeByte b else overlay a.pa (leBytes a.n (o.after op a.n (s.homeNat a.pa a.n) as)) s.homeByte b) ∧
    Lands o.ctx (o.resultsFrom (fun v => if a.drop then 0 else v) (fun v b => o.newValue op v b % 256 ^ a.n) (s.homeNat a.pa a.n) as) s
      (s.performLanes o as) := by
  cases hdrop : a.drop with
  | true =>
    rw [State.performLanes_drop hk fun b hb => (hsame b hb).2.trans hdrop]
    obtain ⟨hl1, hmem, hland⟩ := State.foldl_zeros (s := s) o (fun v b => o.newValue op v b % 256 ^ a.n) (s.homeNat a.pa a.n) as
    obtain ⟨hone, hbyte⟩ := State.Merges.of_same hl1 hmem h.one
    exact ⟨hone, hbyte, hland⟩
  | false =>
    rw [State.performLanes_atom hk fun b hb => (hsame b hb).2.trans hdrop]
    obtain ⟨hready, hbyte, -, hland⟩ := State.foldl_actAt (op := op) id h fun b hb => (hsame b hb).1
    exact ⟨hready.one, hbyte, hland⟩

/-- Settles O26: an accepted reduction by `OneOwner.accept`, the other lanes by `foldl_actAt`, the end of the group by `State.performed`. -/
theorem atomicsActAtTheirPoint : Obligations.AtomicsActAtTheirPoint := by
  unfold Obligations.AtomicsActAtTheirPoint
  intro s o k op a h hkind ha hall hcalm t after stored
  have hsame : ∀ b ∈ o.group k, (b.pa = a.pa ∧ b.n = a.n) ∧ b.drop = a.drop := fun b hb => by
    obtain ⟨hpa, hdrop⟩ := MOp.mem_group hb
    obtain ⟨hpa', hdrop'⟩ := MOp.mem_group ha
    exact ⟨⟨hpa.trans hpa'.symm, (hall b hb).1⟩, hdrop.trans hdrop'.symm⟩
  have hready : s.Ready o.rt a.pa := ⟨h.owners.oneDirty, fun _ => h.owners, hcalm⟩
  have hstored (v b : Nat) : overlay a.pa (leBytes a.n v) s.homeByte b = stored v b := overlay_leBytes a.pa a.n v s.homeByte b
  rcases hkind with hk | hk
  · have hacc : s.accepts o a = false := by simp [State.accepts, hk]
    obtain ⟨hone, hbyte, hland⟩ := State.atom_performed hk hready hsame
    have hend := State.performed h (.inr (.inr (.inr (.inl ⟨op, hk⟩)))) (hland.carries hone)
    refine ⟨fun b => ?_, fun h => absurd h (by simp [hacc]), fun r _ hreg hr hw halive hnd pre b post hsplit i hi => ?_, hend.gone,
      hend.completes⟩
    · rw [hend.byte, hbyte, hstored, hacc]
      simp only [hk, and_true, Bool.false_eq_true, or_false]
      rfl
    · have hres (c : Acc) (hc : c ∈ o.group k) (v : Nat) : o.result c v = regRes c.lane r v (wRegs o.w) := by
        rw [MOp.result, hreg, (hall c hc).2.1, MOp.regs, hk]
        dsimp only
        rw [if_neg (by omega), Nat.add_zero]
      have hok : resOk (o.resultsFrom (fun v => if a.drop then 0 else v) (fun v b => o.newValue op v b % 256 ^ a.n) (s.homeNat a.pa a.n)
          (o.group k)) := fun q hq => by
        obtain ⟨c, hc, v, hq⟩ := MOp.mem_resultsFrom hq
        exact resOk_regRes (hall c hc).2.2 _ _ _ (by omega) q (hres c hc v ▸ hq)
      have hm : r + i < 256 := by omega
      obtain ⟨hval, -⟩ := hland.reg halive hok (l := b.lane) hm
      have hmem (c : Acc) (hc : c ∈ pre ∨ c = b ∨ c ∈ post) : c ∈ o.group k := by
        rw [hsplit]
        simpa using hc
      have hlater (c : Acc) (hc : c ∈ post) (v : Nat) (old : Word) : resReg (o.result c v) b.lane (r + i) old = old := by
        have hne : c.lane ≠ b.lane := fun e => by
          rw [hsplit, List.map_append, List.map_cons] at hnd
          exact (List.nodup_cons.mp (List.nodup_append.mp hnd).2.1).1 (List.mem_map.mpr ⟨c, hc, e⟩)
        rw [hres c (hmem c (.inr (.inr hc))), resReg_regRes, if_neg fun e => hne e.1]
      rw [hend.regs.reg, hval, hsplit, MOp.resultsFrom_append, MOp.resultsFrom, resReg_append, resReg_append, MOp.resReg_resultsFrom hlater,
        hres b (hmem b (.inr (.inl rfl))), resReg_regRes, if_pos ⟨rfl, by omega, by omega⟩, Nat.add_sub_cancel_left]
      rfl
  · cases hacc : s.accepts o a with
    | true =>
      have hmarks := State.performLanes_accepted hk ha (fun b hb => (hsame b hb).1) hacc
      have haccept := h.owners.accept o (o.group k) a.pa (leBytes a.n 0) ((o.group k).map fun b => (op, o.w, b.data))
      have hend := State.performed h (.inr (.inr (.inr (.inr ⟨op, hk⟩)))) ((haccept.carries o.ctx).of_marks hmarks)
      obtain ⟨f, hfwd, -, hbytes, hred, hop⟩ := haccept.fwd
      refine ⟨fun b => ?_, fun _ => ⟨f, ?_, hop, ?_, hred⟩, fun r hatom => ?_, hend.gone, hend.completes⟩
      · rw [if_pos (.inr rfl), hend.byte, (hmarks.merges haccept.keeps.1.oneDirty).2, haccept.keeps.2]
      · rw [hend.fwd, hmarks.caches.ms.2, hfwd]
        exact List.mem_append_right _ List.mem_cons_self
      · rw [hbytes, map_fst_spread, length_leBytes]
      · rw [hk] at hatom
        cases hatom
    | false =>
      have hlanes := State.performLanes_red hk fun b hb => (s.accepts_congr o (hsame b hb).1.1).trans hacc
      obtain ⟨hone, hbyte, -, hland⟩ := State.foldl_actAt (op := op) (fun _ => 0) hready fun b hb => (hsame b hb).1
      rw [← hlanes] at hone hbyte hland
      have hend := State.performed h (.inr (.inr (.inr (.inr ⟨op, hk⟩)))) (hland.carries hone.one)
      refine ⟨fun b => ?_, nofun, fun r hatom => ?_, hend.gone, hend.completes⟩
      · rw [hend.byte, hbyte, hstored, if_neg (by simp [hk])]
        rfl
      · rw [hk] at hatom
        cases hatom

end Sys2Proof.Machine
end

section
/-! O37: queue and box words, by what their effects answer on the source lane (11 R260-R265, R272). -/

set_option Elab.async false

namespace Sys2Proof.Machine

/-! ### Traps of the source lane -/

theorem State.SameFails.firstTraps (s : State) (is : Issue) (kind rslot : Nat) (line : Word64) :
    s.SameFails (s.firstTraps is kind rslot line) := takeTrap s _ _ _ _ _ _

/-- A word whose effect is the source lane's trap wherever its condition holds. -/
theorem firstTraps_of {i : Instr} {lat : Nat} {eff : Issue → State → Option Done} {pre : Issue → State → Prop} {kind rslot : Nat}
    (he : ∀ s, exec i s = issueWith i lat eff s)
    (h : ∀ is s, is.act ≠ 0 → pre is s → eff is s = some (is.sourceTrap s is.first kind rslot 0)) : FirstTraps i pre kind rslot :=
  doesBut_of_fails_kept he (fun is s => State.SameFails.firstTraps s is kind rslot 0 is.ctx) h

theorem State.SameFails.emptied (s : State) (is : Issue) (r : Nat) : s.SameFails (s.emptied is r) := by
  have hmark : ∀ (ls : List Nat) (c : Ctx), Ctx.SameFails c (ls.foldl (fun (c : Ctx) l => c.markEmpty l r) c) := fun ls => by
    induction ls with
    | nil => exact fun _ _ => rfl
    | cons l ls ih => exact fun c => (Ctx.SameFails.of_lanes rfl).trans (ih (c.markEmpty l r))
  exact modCtx s is.ctx (hmark (lanesOf is.act))

/-! ### Words of a queue (11 R260) -/

section Effect
variable {f : Issue → State → Nat → Queue → Option Done} {q : Nat} {is : Issue} {s : State}

theorem queueEff_owned (ha : is.act ≠ 0) (hq : s.hasQueue is q) : queueEff q f is s = f is s is.first (s.queue is.c.core q) := by
  rw [queueEff, lowestLane_eq_first ha]
  exact if_pos hq

theorem queueEff_misused (ha : is.act ≠ 0) (hq : ¬ s.hasQueue is q) : queueEff q f is s = some (is.sourceTrap s is.first 0x09 255 0) := by
  rw [queueEff, lowestLane_eq_first ha]
  exact if_neg hq

theorem queueEff_waits (hq : s.hasQueue is q) (h : ∀ l, f is s l (s.queue is.c.core q) = none) : queueEff q f is s = none := by
  unfold queueEff
  cases lowestLane is.act with
  | none => rfl
  | some l => exact (if_pos hq).trans (h l)

end Effect

section Words
variable {i : Instr} {lat q : Nat} {f : Issue → State → Nat → Queue → Option Done}
  (he : ∀ s, exec i s = issueWith i lat (queueEff q f) s) {pre : Issue → State → Prop}
include he

theorem firstTraps_misused : FirstTraps i (fun is s => ¬ s.hasQueue is q) 0x09 255 :=
  firstTraps_of he fun _ _ ha hq => queueEff_misused ha hq

/-- A word that traps on a queue of its launch. -/
theorem firstTraps_owned (h : ∀ is s, pre is s → f is s is.first (s.queue is.c.core q) = some (is.sourceTrap s is.first 0x09 255 0)) :
    FirstTraps i (fun is s => s.hasQueue is q ∧ pre is s) 0x09 255 :=
  firstTraps_of he fun _ _ ha hp => (queueEff_owned ha hp.1).trans (h _ _ hp.2)

/-- A word that completes on a queue of its launch. -/
theorem does_owned {u : Issue → State → State}
    (hk : ∀ (is : Issue) (s : State) l, (((u is s).ctx is.ctx).lane l).fails = ((s.ctx is.ctx).lane l).fails)
    (h : ∀ is s, pre is s → f is s is.first (s.queue is.c.core q) = some (.next (u is s))) :
    Does i (fun is s => s.hasQueue is q ∧ pre is s) u :=
  doesBut_of_fails_kept he hk fun _ _ ha hp => (queueEff_owned ha hp.1).trans (h _ _ hp.2)

end Words

theorem does_qinit (t : TWord) (q : Nat) : Does (.qinit t q) (fun is s =>
      let base := is.src s false t.a is.first
      let shape := is.src s false t.b is.first
      let x := s.queue is.c.core q
      base % 128 = 0 ∧ shape = bitsOf shape 8 0 + 2 ^ 16 * bitsOf shape 25 16 ∧ 1 ≤ bitsOf shape 8 0 ∧ bitsOf shape 8 0 ≤ 256 ∧
      1 ≤ bitsOf shape 25 16 ∧ bitsOf shape 25 16 ≤ 512 ∧
      (∃ a n, s.arena is.c.handle is.c.core = some (a, n) ∧ base + bitsOf shape 8 0 * bitsOf shape 25 16 * 128 ≤ n) ∧
      (x.owner = none ∨ (x.owner = some is.c.handle ∧ x.slots = [] ∧ x.pend = []))) fun is s =>
    s.putQueue is.c.core q { Queue.free with
      owner := some is.c.handle, base := is.src s false t.a is.first, count := bitsOf (is.src s false t.b is.first) 8 0,
      size := bitsOf (is.src s false t.b is.first) 25 16 } := by
  refine doesBut_of_fails_kept (fun _ => rfl) (fun is s => State.SameFails.of_ctxs (s := s) (by rfl) is.ctx) fun is s ha hp => ?_
  obtain ⟨hbase, hshape, hcount, hcount', hsize, hsize', ⟨a, n, harena, hfits⟩, hfree⟩ := hp
  rw [qinitEff, lowestLane_eq_first ha, Option.map_some]
  refine congrArg some (if_neg ?_)
  rw [harena]
  simp only [Nat.reducePow] at hshape
  obtain hnone | ⟨hown, hslots, hpend⟩ := hfree
  · simp [hbase, ← hshape, hcount, hcount', hsize, hsize', hfits, Queue.ownedBy, hnone]
  · simp [hbase, ← hshape, hcount, hcount', hsize, hsize', hfits, Queue.ownedBy, hown, hslots, hpend]

theorem does_qallow (t : TWord) (q port : Nat) : Does (.qallow t q port) (fun is s => s.hasQueue is q ∧
      let x := s.queue is.c.core q
      is.src s false t.a is.first + (x.allow.sum - x.allowance port) + x.occupied ≤ x.count) fun is s =>
    s.putQueue is.c.core q ((s.queue is.c.core q).setAllow port (is.src s false t.a is.first)) :=
  does_owned (fun _ => rfl) (fun is s => State.SameFails.of_ctxs (s := s) (by rfl) is.ctx) fun _ _ hroom =>
    congrArg some (if_neg (Nat.not_lt.mpr hroom))

theorem firstTraps_qallow (t : TWord) (q port : Nat) : FirstTraps (.qallow t q port) (fun is s => s.hasQueue is q ∧
    let x := s.queue is.c.core q
    x.count < is.src s false t.a is.first + (x.allow.sum - x.allowance port) + x.occupied) 0x09 255 :=
  firstTraps_owned (fun _ => rfl) fun _ _ hover => congrArg some (if_pos hover)

/-! ### Pushes and pops (11 R263-R265) -/

theorem does_qpushRsv (t : TWord) (q port : Nat) :
    Does (.qpushRsv t q port) (fun is s => s.hasQueue is q ∧ (s.queue is.c.core q).allowance port ≠ 0) fun is s =>
    let x := (s.queue is.c.core q).reserve port (is.src s false t.a is.first % 256)
    (s.putQueue is.c.core q x.1).gives is 8 t.d 1 fun _ => x.1.handle x.2 :=
  does_owned (lat := 8) (fun _ => rfl) (fun is s l => State.SameFails.gives (s.putQueue is.c.core q _) is 8 t.d 1 _ l)
    fun _ _ hallow => if_neg hallow

theorem waits_qpushRsv (t : TWord) (q port : Nat) :
    Waits (.qpushRsv t q port) fun is s => s.hasQueue is q ∧ (s.queue is.c.core q).allowance port = 0 :=
  waits_of (lat := 8) (eff := qpushRsvEff t q port) (fun _ => rfl) fun _ _ _ _ _ hp => queueEff_waits hp.1 fun _ => if_pos hp.2

theorem does_qpushPub (t : TWord) (q : Nat) (y : QSlot) :
    Does (.qpushPub t q) (fun is s => s.hasQueue is q ∧ s.released is.ctx is.act .core = true ∧
      (s.queue is.c.core q).slots.find? (fun z => decide ((s.queue is.c.core q).offset z.num % 2 ^ 21 / 128 * 128 =
        is.src s false t.a is.first % 2 ^ 21 / 128 * 128) && !z.published) = some y) fun is s =>
    s.putQueue is.c.core q ((s.queue is.c.core q).putSlot { y with published := true }) :=
  does_owned (fun _ => rfl) (fun is s => State.SameFails.of_ctxs (s := s) (by rfl) is.ctx) fun is s hp => by
    obtain ⟨hreleased, hslot⟩ := hp
    dsimp only
    rw [hslot]
    dsimp only
    rw [hreleased]
    rfl

theorem firstTraps_qpushPub (t : TWord) (q : Nat) :
    FirstTraps (.qpushPub t q) (fun is s => s.hasQueue is q ∧ ∀ z ∈ (s.queue is.c.core q).slots, z.published = true) 0x09 255 :=
  firstTraps_owned (fun _ => rfl) fun is s hall => by
    dsimp only
    rw [List.find?_eq_none.mpr fun z hz => by simp [hall z hz]]
    rfl

theorem does_qpop (t : TWord) (q g : Nat) (hd : t.d = .g g) : Does (.qpop t q) (fun is s => s.hasQueue is q ∧
      (∀ p ∈ (s.queue is.c.core q).pend, p.gid ≠ is.c.gid.toNat) ∧
      (s.queue is.c.core q).pend.length < (s.queue is.c.core q).count) fun is s =>
    let x := s.queue is.c.core q
    let slots := x.slots.map fun y =>
      if y.holder = some is.c.gid.toNat ∧ y.releasing = none then { y with releasing := some s.opId } else y
    (s.putQueue is.c.core q { x with
      slots := slots, pops := x.pops + 1, pend := x.pend ++ [⟨is.c.gid.toNat, x.pops, is.act, g⟩] }).emptied is g :=
  does_owned (fun _ => rfl) (fun is s => ((State.SameFails.of_ctxs rfl).trans (State.SameFails.emptied (s.putQueue is.c.core q _) is g)) is.ctx)
    fun is s hp => by
    obtain ⟨hnone, hroom⟩ := hp
    have hany : ¬ ((s.queue is.c.core q).pend.any fun p => p.gid = is.c.gid.toNat) = true := by simpa using hnone
    dsimp only
    rw [if_neg hany, if_neg (Nat.not_le.mpr hroom), hd]
    rfl

theorem firstTraps_qpop (t : TWord) (q : Nat) :
    FirstTraps (.qpop t q) (fun is s => s.hasQueue is q ∧ ∃ p ∈ (s.queue is.c.core q).pend, p.gid = is.c.gid.toNat) 0x09 255 :=
  firstTraps_owned (fun _ => rfl) fun _ _ hp => if_pos (by simpa using hp)

theorem does_qpeek (t : TWord) (q : Nat) :
    Does (.qpeek t q) (fun is s => s.hasQueue is q) fun is s => s.gives is 8 t.d 1 fun _ => (s.queue is.c.core q).peek :=
  doesBut_of_fails_kept (fun _ => rfl) (fun is s l => State.SameFails.gives s is 8 t.d 1 _ l) fun _ _ ha hq => queueEff_owned ha hq

/-! ### Push boxes (11 R272) -/

theorem does_xarm (t : TWord) (box g : Nat) (hd : t.d = .g g) :
    Does (.xarm t box) (fun is s => s.box is.c.core box = none ∧ s.hasBox is.c.gid.toNat = false) fun is s =>
    (s.putBox is.c.core box (some ⟨is.c.gid.toNat, is.c.handle, g, is.act⟩)).emptied is g :=
  doesBut_of_fails_kept (fun _ => rfl)
    (fun is s => ((State.SameFails.of_ctxs rfl).trans (State.SameFails.emptied (s.putBox is.c.core box _) is g)) is.ctx) fun is s ha hp => by
    obtain ⟨hbox, hfree⟩ := hp
    rw [lowestLane_eq_first ha, Option.map_some, hbox]
    dsimp only
    rw [hfree, hd]
    rfl

theorem firstTraps_xarm (t : TWord) (box : Nat) :
    FirstTraps (.xarm t box) (fun is s => s.box is.c.core box ≠ none ∨ s.hasBox is.c.gid.toNat = true) 0x09 255 :=
  firstTraps_of (fun _ => rfl) fun is s ha hp => by
    rw [lowestLane_eq_first ha, Option.map_some]
    exact congrArg some (if_pos (by simpa [Option.isSome_iff_ne_none] using hp))

theorem doesBut_xpush (t : TWord) (box core : Nat) :
    DoesBut (.xpush t box) (fun is s => s.roleCore (s.who is.ctx) (is.src s false t.a is.first % 16) = some core)
    (fun is s => { s.block is is.path fun _ => .push is.path with
      en := { s.en with pushes := s.en.pushes ++ [⟨core, box, is.c.gid.toNat, is.sub, is.act, is.path,
        (lanesOf is.act).map fun l => (l, BitVec.ofNat 32 (dstData t.d 1 is l)), is.c.handle⟩] } }) fun is _ => is.path :=
  doesBut_of_fails_kept (fun _ => rfl) (fun is s => State.SameFails.block s is is.path (fun _ => .push is.path) is.ctx) fun is s ha hrole => by
    rw [lowestLane_eq_first ha, Option.map_some, hrole]
    rfl

theorem firstTraps_xpush (t : TWord) (box : Nat) :
    FirstTraps (.xpush t box) (fun is s => s.roleCore (s.who is.ctx) (is.src s false t.a is.first % 16) = none) 0x04 255 :=
  firstTraps_of (fun _ => rfl) fun is s ha hrole => by
    rw [lowestLane_eq_first ha, Option.map_some, hrole]
    rfl

/-- Settles O37, word by word: on a queue of another launch every word of a queue traps (`firstTraps_misused`), on its own it does what its
effect there answers. -/
theorem queueWords : Obligations.QueueWords := by
  unfold Obligations.QueueWords
  exact ⟨does_qinit, does_qallow, does_qpushRsv, waits_qpushRsv, does_qpushPub, does_qpop, does_qpeek, does_xarm, doesBut_xpush,
    fun _ _ _ => firstTraps_misused fun _ => rfl, fun _ _ _ => firstTraps_misused (lat := 8) fun _ => rfl,
    fun _ _ => firstTraps_misused fun _ => rfl, fun _ _ => firstTraps_misused fun _ => rfl,
    fun _ _ => firstTraps_misused (lat := 8) fun _ => rfl, firstTraps_qallow, firstTraps_qpushPub, firstTraps_qpop, firstTraps_xarm,
    firstTraps_xpush⟩

end Sys2Proof.Machine
end

section
/-! SUPPORT. What a command's word reads and checks at issue: the bytes of its block at their home, and its clasp (09 R226; 11 R267, R268;
16 R351; 18 R393, R394). -/

set_option Elab.async false

namespace Sys2Proof.Machine

/-! ### Bytes pulled from their home -/

theorem State.KeepsBytes.stopEnds {s : State} (h : s.OneOwner) (id : Nat) : s.KeepsBytes (s.stopEnds id) :=
  ite ⟨h.of_mem fun _ hl => hl, fun _ => rfl⟩ (refl h)

theorem State.stopEnds_fwd (s : State) (id : Nat) : (s.stopEnds id).ms.fwd = s.ms.fwd := by
  unfold State.stopEnds
  split <;> rfl

theorem State.stopEnds_ctxs (s : State) (id : Nat) : (s.stopEnds id).ctxs = s.ctxs := by
  unfold State.stopEnds
  split <;> rfl

theorem State.stopBegins_ctxs (s : State) (id : Nat) : (s.stopBegins id).ctxs = s.ctxs := by
  unfold State.stopBegins
  split <;> rfl

section Pulls
variable (is : Issue) (s : State) (pas : List Nat) (n : Nat)

theorem Issue.pulls_concat (pa : Nat) : is.pulls s (pas ++ [pa]) n =
    ((is.pulls s pas n).1.readHome pa n,
      (is.pulls s pas n).2 ++ [leBytes n ((is.pulls s pas n).1.viewNat ((is.pulls s pas n).1.cacheOf is.ctx) pa n)]) := by
  unfold Issue.pulls
  rw [List.foldl_append]
  rfl

theorem Issue.pulls_onlyMemory : s.OnlyMemory (is.pulls s pas n).1 := by
  induction pas using List.reverseRecOn with
  | nil => exact .refl s
  | append_singleton pas pa ih =>
    rw [is.pulls_concat]
    exact ih.trans (.readHome _ pa n)

variable {s}

/-- Each pull keeps every byte, so that all see the bytes that the agent's cache saw before the first. -/
theorem Issue.pulls_spec (h : s.OneOwner) : s.KeepsBytes (is.pulls s pas n).1 ∧ (is.pulls s pas n).1.ms.fwd = s.ms.fwd ∧
    (is.pulls s pas n).2 = pas.map fun pa => leBytes n (s.viewNat (s.cacheOf is.ctx) pa n) := by
  induction pas using List.reverseRecOn with
  | nil => exact ⟨.refl h, rfl, rfl⟩
  | append_singleton pas pa ih =>
    obtain ⟨hkeep, hfwd, hbytes⟩ := ih
    rw [is.pulls_concat, List.map_append, hbytes, State.viewNat_congr hkeep hfwd]
    exact ⟨hkeep.trans (.readHome hkeep.1 pa n), (State.OnlyCaches.readHome _ pa n).ms.2.trans hfwd, rfl⟩

end Pulls

/-! ### Blocks -/

/-- The checks of a block's pieces, in order. -/
def State.checkPieces (s : State) (is : Issue) (va n step : Nat) : State × List Found :=
  (List.range (n / step)).foldl (fun (r : State × List Found) i =>
    let x := r.1.checkVirt (r.1.who is.ctx) 0 (va + step * i : Nat) .read
    (x.1, r.2 ++ [x.2])) (s, [])

/-- What a piece finds that ends the word. -/
def Found.stops : Found → Bool
  | .trap _ _ _ => true
  | .page _ _ => true
  | _ => false

section Block
variable {s v : State} {is : Issue} {va n step : Nat} {fs : List Found}

theorem State.checkPieces_onlyMemory (s : State) (is : Issue) (va n step : Nat) : s.OnlyMemory (s.checkPieces is va n step).1 := by
  have hfold : ∀ (pieces : List Nat) (z : State × List Found), z.1.OnlyMemory (pieces.foldl (fun (r : State × List Found) i =>
      let x := r.1.checkVirt (r.1.who is.ctx) 0 (va + step * i : Nat) .read
      (x.1, r.2 ++ [x.2])) z).1 := fun pieces => by
    induction pieces with
    | nil => exact fun z => .refl z.1
    | cons i pieces ih => exact fun z => (State.OnlyMemory.checkVirt z.1 _ 0 _ .read).trans (ih _)
  exact hfold _ (s, [])

theorem State.readBlock_eq (hcheck : s.checkPieces is va n step = (v, fs)) : s.readBlock is va n step =
    match fs.find? Found.stops with
    | some f => some (v, f, [])
    | none =>
      if fs.any Found.waits then none
      else if (foundPlaces fs).any v.stopped then
        if v.stopLate (blockOp is.ctx) then some (v.stopEnds (blockOp is.ctx), .trap trapPermission (lineOf va) true, [])
        else if v.fa.waits.any fun w => w.1 = blockOp is.ctx then none
        else some (v.stopBegins (blockOp is.ctx), .wait, [])
      else if (foundPlaces fs).any fun pa => v.blockHeld (v.cacheOf is.ctx) pa step then none
      else some ((is.pulls (v.stopEnds (blockOp is.ctx)) (foundPlaces fs) step).1, .zero,
        (is.pulls (v.stopEnds (blockOp is.ctx)) (foundPlaces fs) step).2.flatten) := by
  have hv : v = (s.checkPieces is va n step).1 := (congrArg Prod.fst hcheck).symm
  have hfs : fs = (s.checkPieces is va n step).2 := (congrArg Prod.snd hcheck).symm
  subst hv hfs
  have hstop : (fun f : Found => match f with
      | .trap _ _ _ => true
      | .page _ _ => true
      | _ => false) = Found.stops := by
    funext f
    cases f <;> rfl
  unfold State.readBlock
  rw [← hstop]
  rfl

/-- A block none of whose pieces stops or has to wait is pulled. -/
theorem State.readBlock_pulls (hcheck : s.checkPieces is va n step = (v, fs)) (hok : ∀ f ∈ fs, ∃ pa tgt, f = .ok pa tgt)
    (hfree : ∀ pa ∈ foundPlaces fs, v.stopped pa = false ∧ v.lineHeld (v.cacheOf is.ctx) .nc pa step = false) :
    s.readBlock is va n step = some ((is.pulls (v.stopEnds (blockOp is.ctx)) (foundPlaces fs) step).1, .zero,
      (is.pulls (v.stopEnds (blockOp is.ctx)) (foundPlaces fs) step).2.flatten) := by
  have hstops : fs.find? Found.stops = none := List.find?_eq_none.mpr fun f hf => by
    obtain ⟨pa, tgt, rfl⟩ := hok f hf
    exact Bool.false_ne_true
  have hwaits : ¬ fs.any Found.waits = true := List.any_eq_true.not.mpr fun ⟨f, hf, hwait⟩ => by
    obtain ⟨pa, tgt, rfl⟩ := hok f hf
    exact Bool.false_ne_true hwait
  have hstopped : ¬ (foundPlaces fs).any v.stopped = true := List.any_eq_true.not.mpr fun ⟨pa, hpa, h⟩ => by
    rw [(hfree pa hpa).1] at h
    exact Bool.false_ne_true h
  have hheld : ¬ ((foundPlaces fs).any fun pa => v.blockHeld (v.cacheOf is.ctx) pa step) = true :=
    List.any_eq_true.not.mpr fun ⟨pa, hpa, h⟩ => by
      rw [State.blockHeld, (hfree pa hpa).1, (hfree pa hpa).2] at h
      exact Bool.false_ne_true h
  rw [State.readBlock_eq hcheck, hstops]
  dsimp only
  rw [if_neg hwaits, if_neg hstopped, if_neg hheld]

/-- A read of a block touches no agent. -/
theorem State.readBlock_ctxs {f : Found} {bs : List Byte} (h : s.readBlock is va n step = some (v, f, bs)) : v.ctxs = s.ctxs := by
  have hcheck := (s.checkPieces_onlyMemory is va n step).ctxs
  generalize hc : s.checkPieces is va n step = c at hcheck
  obtain ⟨u, fs⟩ := c
  rw [State.readBlock_eq hc] at h
  split at h
  · cases h
    exact hcheck
  · split at h
    · cases h
    · split at h
      · split at h
        · cases h
          exact (State.stopEnds_ctxs _ _).trans hcheck
        · split at h
          · cases h
          · cases h
            exact (State.stopBegins_ctxs _ _).trans hcheck
      · split at h
        · cases h
        · cases h
          exact ((is.pulls_onlyMemory _ _ _).ctxs.trans (State.stopEnds_ctxs _ _)).trans hcheck

end Block

theorem pieces_eq {α : Type} (n k : Nat) : ∀ xs : List α, pieces n k xs = (List.range k).map fun i => (xs.drop (n * i)).take n := by
  induction k with
  | zero => exact fun _ => rfl
  | succ k ih =>
    intro xs
    rw [pieces, ih, List.range_succ_eq_map, List.map_cons, List.map_map, Nat.mul_zero, List.drop_zero]
    refine congrArg _ (List.map_congr_left fun i _ => ?_)
    rw [Function.comp_apply, List.drop_drop, Nat.mul_succ, Nat.add_comm]

/-! ### Clasps -/

theorem State.OnlyMemory.checkClasp (s : State) (w : Who) (r : Rec256) (x y : Int) (wr bad : Bool) :
    s.OnlyMemory (s.checkClasp w r x y wr bad).1 := by
  have hsame (found : Found) : s.OnlyMemory (s, found).1 := refl s
  have hite {p : Prop} [Decidable p] {a b : State × Found} (ha : s.OnlyMemory a.1) (hb : s.OnlyMemory b.1) :
      s.OnlyMemory (if p then a else b).1 := by
    split
    · exact ha
    · exact hb
  unfold State.checkClasp
  refine hite (hsame _) ?_
  cases s.place? w r x y 16 with
  | oob => exact hsame _
  | bounds => exact hsame _
  | scratch pa => exact hite (hsame _) (hite (hsame _) (hite (hsame _) (hsame _)))
  | virt va =>
    refine hite (hsame _) (hite (hsame _) ?_)
    have hpage := checkPage s w 0 va (if wr then .write else .read)
    generalize s.checkPage w 0 va (if wr then .write else .read) = q at hpage ⊢
    obtain ⟨s1, found⟩ := q
    cases found with
    | ok pa tgt =>
      dsimp only
      split
      · exact hpage
      · split <;> exact hpage
    | _ => exact hpage

theorem State.claspFound_ctxs {s v : State} {is : Issue} {n : Nat} {x y : Int} {ref : ClaspRef} (h : s.claspFound is n x y v ref) :
    v.ctxs = s.ctxs := by
  obtain ⟨pa, tgt, h⟩ := h
  have hcheck := (State.OnlyMemory.checkClasp s (s.who is.ctx) (is.rec_ n) x y true false).ctxs
  exact (congrArg (fun z : State × Found × ClaspRef => z.1.ctxs) h).symm.trans hcheck

end Sys2Proof.Machine
end

section
/-! O38: ae.go, ae.halt, cp.go and cp.fill, by what their effects answer on the source lane (11 R266-R268). -/

set_option Elab.async false

namespace Sys2Proof.Machine

/-- A word whose effect answers a state with the failed operations kept, after checks that leave the machine as `v`. -/
theorem doesAfter_of_fails_kept {i : Instr} {lat : Nat} {eff : Issue → State → Option Done} {pre : Issue → State → State → Prop}
    {u : Issue → State → State → State} (he : ∀ s, exec i s = issueWith i lat eff s)
    (hk : ∀ is s v, pre is s v → s.SameFails (u is s v))
    (h : ∀ is s v, is.act ≠ 0 → pre is s v → eff is s = some (.next (u is s v))) : DoesAfter i pre u := by
  intro s r v hr _ hm ha hp hu
  exact exec_passes (he s) hr hm ha (h _ _ _ (act_ne_zero ha) hp) (fun l => (hk _ _ _ hp _ l).trans (hm.settled l)) hu

/-! ### The access engine (11 R266, R267) -/

/-- The streams of a program that are on: one for each of its descriptors. -/
def Issue.streams (is : Issue) (ds : List (List Byte)) : List Stream :=
  (ds.mapIdx fun i d => (⟨i, d, is.rec_ (descSrc d), descSrc d, 0⟩ : Stream)).filter fun t => descOn t.desc

theorem aeGoEff_starts {q : QWord} {n : Nat} {is : Issue} {s v : State} {bs : List Byte} (ha : is.act ≠ 0)
    (hidle : s.aeRun is.c.core = none) (hquiet : s.quiesced is.c.handle = false) (hal : is.src s true q.a is.first % 64 = 0)
    (hread : s.readBlock is (is.src s true q.a is.first) (64 * (n + 1)) 64 = some (v, .zero, bs))
    (hds : ∀ d ∈ (List.range (n + 1)).map fun i => (bs.drop (64 * i)).take 64,
      Rec256.valid (is.rec_ (descSrc d)) = true ∧ Rec256.wo (is.rec_ (descSrc d)) = false ∧ v.descBreach is d = false) :
    aeGoEff q n is s = some (.next (v.putAe is.c.core (some ⟨is.c.core, is.cmdId v is.first, is.tolerant,
      is.streams ((List.range (n + 1)).map fun i => (bs.drop (64 * i)).take 64)⟩))) := by
  rw [← pieces_eq] at hds ⊢
  have hvalid : ((pieces 64 (n + 1) bs).find? fun d => !Rec256.valid (is.c.recSlot is.sub (descSrc d))) = none :=
    List.find?_eq_none.mpr fun d hd => by simpa [Issue.rec_] using (hds d hd).1
  have hread' : ((pieces 64 (n + 1) bs).find? fun d => Rec256.wo (is.c.recSlot is.sub (descSrc d))) = none :=
    List.find?_eq_none.mpr fun d hd => by simpa [Issue.rec_] using (hds d hd).2.1
  have hkept : ¬ (pieces 64 (n + 1) bs).any (v.descBreach is) = true := by simpa using fun d hd => (hds d hd).2.2
  rw [aeGoEff, lowestLane_eq_first ha, Option.bind_some, hidle, hquiet]
  refine (if_neg Bool.false_ne_true).trans ((if_neg (not_not.mpr hal)).trans ?_)
  rw [hread, Option.bind_some]
  dsimp only [Issue.blockStop]
  rw [hvalid]
  dsimp only
  rw [hread']
  dsimp only
  rw [if_neg hkept]
  rfl

theorem waits_aeGo (q : QWord) (n : Nat) : Waits (.aeGo q n) fun is s => s.aeRun is.c.core ≠ none :=
  waits_of (lat := 0) (eff := aeGoEff q n) (fun _ => rfl) fun s r _ _ _ hbusy => by
    unfold aeGoEff
    cases lowestLane (s.issued r).act with
    | none => rfl
    | some l => exact if_pos (by simp [Option.isSome_iff_ne_none, hbusy])

theorem does_aeHalt (q : QWord) : Does (.aeHalt q) always fun is s => s.haltAe is.c.core :=
  doesBut_of_fails_kept (fun _ => rfl) (fun is s => State.SameFails.of_ctxs (s := s) (by rfl) is.ctx) fun _ _ _ _ => rfl

/-! ### The copy engines (11 R268) -/

section Copy
variable {q : QWord} {src : Option Nat} {d : Nat} {fill : Issue → Nat → Nat} {is : Issue} {s : State}

/-- The command of a copy word in a state. -/
def Issue.copyCmd (is : Issue) (s : State) (src : Option Nat) (d fill : Nat) (ref : Option ClaspRef) : CpCmd :=
  ⟨s.opId, s.colOf is.ctx, is.cmdId s is.first, src.map is.rec_, is.rec_ d, src.getD 255, d, fill, ref, is.tolerant, [], false⟩

theorem copyEff_full {cl : Option Nat} (h : s.cpFull is = true) : copyEff q src d cl fill is s = none := by
  unfold copyEff
  cases lowestLane is.act with
  | none => rfl
  | some l => exact if_pos h

variable (ha : is.act ≠ 0) (hroom : s.cpFull is = false)
  (hsrc : ((src.map fun n => (n, is.rec_ n)).map fun r => Rec256.wo r.2).getD false = false) (hdst : Rec256.ro (is.rec_ d) = false)
include ha hroom hsrc hdst

theorem copyEff_queues (hchecks : copyChecks is.ctx.isCC (src.map fun n => (n, is.rec_ n)) d (is.rec_ d) none = none) :
    copyEff q src d none fill is s = some (.next (s.queueCopy (is.copyCmd s src d (fill is is.first) none))) := by
  unfold Issue.rec_ at hsrc hdst hchecks
  rw [copyEff, lowestLane_eq_first ha, Option.bind_some, if_neg (Bool.not_eq_true _ ▸ hroom)]
  dsimp only [Option.map_none]
  rw [hchecks]
  dsimp only
  rw [hsrc, hdst]
  rfl

theorem copyEff_queues_clasp {cl : Nat} {v : State} {ref : ClaspRef}
    (hchecks : copyChecks is.ctx.isCC (src.map fun n => (n, is.rec_ n)) d (is.rec_ d) (some (cl, is.rec_ cl)) = none)
    (hclasp : s.claspFound is cl (sext 32 (is.src s false q.a is.first)) (sext 32 (is.src s false q.b is.first)) v ref) :
    copyEff q src d (some cl) fill is s = some (.next (v.queueCopy (is.copyCmd v src d (fill is is.first) (some ref)))) := by
  obtain ⟨pa, tgt, hclasp⟩ := hclasp
  unfold Issue.rec_ at hsrc hdst hchecks hclasp
  rw [copyEff, lowestLane_eq_first ha, Option.bind_some, if_neg (Bool.not_eq_true _ ▸ hroom)]
  dsimp only [Option.map_some]
  rw [hchecks]
  dsimp only
  rw [hclasp]
  dsimp only
  rw [hsrc, hdst]
  rfl

end Copy

theorem State.SameFails.queueCopy (s : State) (c : CpCmd) : s.SameFails (s.queueCopy c) := of_ctxs rfl

section Words
variable (q : QWord) (dd ss cl : Nat) (ref : ClaspRef)

theorem does_cpGoNoc : Does (.cpGoNoc q dd ss) (fun is s => s.cpFull is = false ∧
      copyChecks is.ctx.isCC (some (ss, is.rec_ ss)) dd (is.rec_ dd) none = none ∧ Rec256.wo (is.rec_ ss) = false ∧
      Rec256.ro (is.rec_ dd) = false)
    fun is s => s.queueCopy (is.copyCmd s (some ss) dd 0 none) :=
  doesBut_of_fails_kept (lat := 0) (fun _ => rfl) (fun is s => State.SameFails.queueCopy s _ is.ctx) fun is s ha hp => by
    obtain ⟨hroom, hchecks, hwo, hro⟩ := hp
    exact copyEff_queues (src := some ss) ha hroom hwo hro hchecks

theorem does_cpFillNoc : Does (.cpFillNoc q dd) (fun is s => s.cpFull is = false ∧ copyChecks is.ctx.isCC none dd (is.rec_ dd) none = none ∧
      Rec256.ro (is.rec_ dd) = false)
    fun is s => s.queueCopy (is.copyCmd s none dd (dstData q.d 4 is is.first) none) :=
  doesBut_of_fails_kept (lat := 0) (fun _ => rfl) (fun is s => State.SameFails.queueCopy s _ is.ctx) fun is s ha hp => by
    obtain ⟨hroom, hchecks, hro⟩ := hp
    exact copyEff_queues (src := none) ha hroom rfl hro hchecks

theorem doesAfter_cpGo : DoesAfter (.cpGo q dd ss cl) (fun is s v => s.cpFull is = false ∧
      copyChecks is.ctx.isCC (some (ss, is.rec_ ss)) dd (is.rec_ dd) (some (cl, is.rec_ cl)) = none ∧
      s.claspFound is cl (sext 32 (is.src s false q.a is.first)) (sext 32 (is.src s false q.b is.first)) v ref ∧
      Rec256.wo (is.rec_ ss) = false ∧ Rec256.ro (is.rec_ dd) = false)
    fun is _ v => v.queueCopy (is.copyCmd v (some ss) dd 0 (some ref)) :=
  doesAfter_of_fails_kept (lat := 0) (fun _ => rfl)
    (fun is s v hp => (State.SameFails.of_ctxs (State.claspFound_ctxs hp.2.2.1)).trans (State.SameFails.queueCopy v _)) fun is s v ha hp => by
    obtain ⟨hroom, hchecks, hclasp, hwo, hro⟩ := hp
    exact copyEff_queues_clasp (src := some ss) ha hroom hwo hro hchecks hclasp

theorem doesAfter_cpFill : DoesAfter (.cpFill q dd cl) (fun is s v => s.cpFull is = false ∧
      copyChecks is.ctx.isCC none dd (is.rec_ dd) (some (cl, is.rec_ cl)) = none ∧
      s.claspFound is cl (sext 32 (is.src s false q.a is.first)) (sext 32 (is.src s false q.b is.first)) v ref ∧
      Rec256.ro (is.rec_ dd) = false)
    fun is _ v => v.queueCopy (is.copyCmd v none dd (dstData q.d 4 is is.first) (some ref)) :=
  doesAfter_of_fails_kept (lat := 0) (fun _ => rfl)
    (fun is s v hp => (State.SameFails.of_ctxs (State.claspFound_ctxs hp.2.2.1)).trans (State.SameFails.queueCopy v _)) fun is s v ha hp => by
    obtain ⟨hroom, hchecks, hclasp, hro⟩ := hp
    exact copyEff_queues_clasp (src := none) ha hroom rfl hro hchecks hclasp

end Words

/-- A full queue, or a launch whose commands are held, makes each copy word wait. -/
theorem waits_copy {i : Instr} {q : QWord} {src : Option Nat} {d : Nat} {cl : Option Nat} {fill : Issue → Nat → Nat}
    (he : ∀ s, exec i s = issueWith i 0 (copyEff q src d cl fill) s) :
    Waits i fun is s => 64 ≤ (s.en.cp.filter fun c => c.col = s.colOf is.ctx).length ∨ s.quiesced is.c.handle = true :=
  waits_of he fun _ _ _ _ _ hfull => copyEff_full (by simpa [State.cpFull] using hfull)

/-- Settles O38: a block by the pulls of its pieces (`readBlock_pulls`, `pulls_spec`), each word by what its effect answers. -/
theorem engineWords : Obligations.EngineWords := by
  unfold Obligations.EngineWords
  refine ⟨?readBlock, ?aeGo, waits_aeGo, does_aeHalt, does_cpGoNoc, does_cpFillNoc, doesAfter_cpGo, doesAfter_cpFill, ?waits⟩
  case readBlock =>
    intro is s v va n step fs hcheck hok hfree
    refine ⟨_, _, State.readBlock_pulls hcheck hok hfree, fun hone => ?_⟩
    have hend := State.KeepsBytes.stopEnds hone (blockOp is.ctx)
    obtain ⟨hkeep, -, hbytes⟩ := is.pulls_spec (foundPlaces fs) step hend.1
    exact ⟨congrArg List.flatten (hbytes.trans (List.map_congr_left fun pa _ =>
      congrArg (leBytes step) (State.viewNat_congr hend (v.stopEnds_fwd _) _ _ _))), (hend.trans hkeep).2⟩
  case aeGo =>
    intro q n s r v bs hr _ hm ha is va ds hidle hquiet hal hread hds hstuck
    exact exec_passes rfl hr hm ha (aeGoEff_starts (act_ne_zero ha) hidle hquiet hal hread hds)
      (fun l => (State.SameFails.of_ctxs (s := s) (State.readBlock_ctxs hread) _ l).trans (hm.settled l)) hstuck
  case waits =>
    rintro i ⟨q, dd, ss, cl, rfl | rfl | rfl | rfl⟩ <;> exact waits_copy fun _ => rfl

end Sys2Proof.Machine
end

section
/-! O49: each event of access engines, queues, boxes and copies, where its condition holds (11 R255-R259, R264, R270, R272). -/

set_option Elab.async false

namespace Sys2Proof.Machine

/-! ### Access engines (11 R257, R258) -/

section Stream
variable (core stream : Nat) (a : AERun) (t : Stream) (c : State × List Found)

theorem happens_aeStreamBlock_fills (z : State) : Happens (.aeStreamBlock core stream) (fun s => s.aeRun core = some a ∧
      (a.streams.find? fun t => t.num = stream) = some t ∧ (s.queue core (descQueue t.desc)).allowance (descPort t.desc) ≠ 0 ∧
      s.checkBlock (streamOp core stream) (a.by_.who [core, 256 + core / 4]) t = c ∧ firstTrap c.2 = none ∧
      c.1.engineReady (streamOp core stream) a.st (.core (5 * (core / 4) + core % 4)) false
        (elemAccs t.rec_ (2 ^ Rec256.es t.rec_) false c.2) = (z, true)) fun _ =>
    let es := 2 ^ Rec256.es t.rec_
    let r := z.engineReads (streamOp core stream) (.core (5 * (core / 4) + core % 4)) (elemAccs t.rec_ es false c.2)
    let u := r.1.writeBytes (r.1.nextSlotAt a.by_ (descQueue t.desc)) (r.2.flatMap (leBytes es))
    ((u.publishBlock core (descQueue t.desc) t false).putAe core (some (a.advance t false))).engineDone (streamOp core stream) :=
  happens_of_ret fun s hp => by
    obtain ⟨hrun, hstream, hallow, hcheck, hclean, hready⟩ := hp
    show execAeStreamBlock core stream s = _
    rw [execAeStreamBlock, hrun]
    dsimp only
    rw [hstream]
    dsimp only
    rw [if_neg hallow, hcheck, hclean]
    dsimp only
    rw [hready]
    rfl

theorem happens_aeStreamBlock_faults (k : Nat) (line : Word64) : Happens (.aeStreamBlock core stream) (fun s => s.aeRun core = some a ∧
      (a.streams.find? fun t => t.num = stream) = some t ∧ (s.queue core (descQueue t.desc)).allowance (descPort t.desc) ≠ 0 ∧
      s.checkBlock (streamOp core stream) (a.by_.who [core, 256 + core / 4]) t = c ∧ firstTrap c.2 = some (k, line)) fun s =>
    let q := s.queue core (descQueue t.desc)
    let u := c.1.freeFill (c.1.nextSlotAt a.by_ (descQueue t.desc)) (128 * q.size)
    (((u.publishBlock core (descQueue t.desc) t true).putAe core (some (a.advance t true))).orphanQueries
      (streamOp core stream)).engineFault a.by_ k 0 t.rslot line :=
  happens_of_ret fun s hp => by
    obtain ⟨hrun, hstream, hallow, hcheck, htrap⟩ := hp
    show execAeStreamBlock core stream s = _
    rw [execAeStreamBlock, hrun]
    dsimp only
    rw [hstream]
    dsimp only
    rw [if_neg hallow, hcheck, htrap]

end Stream

/-! ### Queues (11 R255, R264) -/

theorem happens_queueSlotRelease (core q gid : Nat) (due : List QSlot) : Happens (.queueSlotRelease core q gid) (fun s =>
      due = ((s.queue core q).slots.filter fun y => decide (y.holder = some gid) && s.slotDue y) ∧ due ≠ []) fun s =>
    s.putQueue core q (due.foldl Queue.release (s.queue core q)) :=
  happens_of_next fun s hp => by
    obtain ⟨rfl, hsome⟩ := hp
    exact if_neg fun h => hsome (List.isEmpty_iff.mp h)

theorem happens_qpopDeliver (core q gid : Nat) (p : QPop) (y : QSlot) :
    Happens (.qpopDeliver core q gid) (fun s => ((s.queue core q).pend.find? fun p => p.gid = gid) = some p ∧
      ((s.queue core q).slots.find? fun y => decide (y.seq = p.seq) && y.published) = some y) fun s =>
    let x := s.queue core q
    (s.putQueue core q { x.putSlot { y with holder := some gid } with pend := x.pend.filter fun r => r.gid ≠ gid }).deliver gid
      ((lanesOf p.lanes).map fun l => (l, p.reg, BitVec.ofNat 32 (x.handle y))) :=
  happens_of_ret fun s hp => by
    obtain ⟨hpend, hslot⟩ := hp
    show execQpopDeliver core q gid s = _
    rw [execQpopDeliver]
    dsimp only
    rw [hpend]
    dsimp only
    rw [hslot]

/-! ### Copies (11 R259, R268) -/

section Copy
variable (id : Nat) (c : CpCmd)

theorem happens_cpCommandComplete : Happens (.cpCommandComplete id) (fun s => (s.en.cp.find? fun c => c.id = id) = some c ∧
      (s.cpRunning c.col).contains c = true ∧ s.copyFault c = none) fun s =>
    let r := s.runCopy c
    if r.2 then r.1.sendBytes c.by_ c.clasp (((s.copyPlan c).2.filter fun e => match e.dst with
      | .ok _ _ => true
      | _ => false).length * 2 ^ Rec256.es c.dst) else r.1 :=
  happens_of_ret fun s hp => by
    obtain ⟨hcmd, hrun, hclean⟩ := hp
    show execCpCommandComplete id s = _
    rw [execCpCommandComplete, hcmd]
    exact if_neg (by rw [hrun, hclean]; simp)

theorem happens_cpCommandFault (k : Nat) (line : Word64) (slot : Nat) :
    Happens (.cpCommandFault id) (fun s => (s.en.cp.find? fun c => c.id = id) = some c ∧
      (s.cpRunning c.col).contains c = true ∧ s.copyFault c = some (k, line, slot)) fun s =>
    let r := s.runCopy c
    if r.2 then r.1.engineFault c.by_ k 0 slot line else r.1 :=
  happens_of_ret fun s hp => by
    obtain ⟨hcmd, hrun, hfault⟩ := hp
    show execCpCommandFault id s = _
    rw [execCpCommandFault, hcmd]
    dsimp only
    rw [hfault]
    exact if_neg (by rw [hrun]; simp)

end Copy

/-! ### Push boxes (11 R270, R272) -/

section Box
variable (core box : Nat) (b : Box)

theorem happens_xpushDeliver (p : Push) : Happens (.xpushDeliver core box) (fun s => s.box core box = some b ∧ s.pushFor core box b = some p)
    fun s =>
    let val (l : Nat) : Word := ((p.data.find? fun d => d.1 = l).map Prod.snd).getD 0
    let u := ((s.putBox core box none).deliver b.gid ((lanesOf b.lanes).map fun l => (l, b.reg, val l))).acquire (.gang b.gid) .column
    let v : State := { u with en := { u.en with pushes := u.en.pushes.filter fun r => r ≠ p } }
    v.passWord (.gang p.gid) (maskOf fun l => p.path.getLsbD l && decide (((v.ctx (.gang p.gid)).lane l).wait = .push p.path)) :=
  happens_of_ret fun s hp => by
    show execXpushDeliver core box s = _
    rw [execXpushDeliver, hp.1]
    dsimp only
    rw [hp.2]

theorem happens_pushBoxFree : Happens (.pushBoxFree core box) (fun s => s.box core box = some b ∧
      (s.boxDead b = true ∨ s.launch? b.handle = none)) fun s => s.putBox core box none :=
  happens_of_next fun s hp => by
    show execPushBoxFree core box s = _
    rw [execPushBoxFree, hp.1]
    exact if_pos (by simpa using hp.2)

end Box

end Sys2Proof.Machine
end

section
/-! O49: each event of the matrix arrays, where its condition holds (12 R274-R288, R290). -/

set_option Elab.async false

namespace Sys2Proof.Machine

/-! ### What a start leaves (12 R276, R288) -/

section Start
variable {s : State} {c : MCmd}

theorem State.startM_defers (h : s.mustDefer c = true) :
    s.startM c = s.putM c.id (some { c with deferred := some (s.nextSlot (s.arrayTime c)) }) := if_pos h

theorem State.startM_deferred (h : s.mustDefer c = false) (hstill : s.stillDeferred c = true) : s.startM c = s :=
  (if_neg (Bool.not_eq_true _ ▸ h)).trans (if_pos hstill)

/-- A command replaced in place. -/
theorem State.putM_some (s : State) (id : Nat) (x : MCmd) :
    s.putM id (some x) = { s with mx := { s.mx with cmds := s.mx.cmds.map fun m => if m.id = id then x else m } } := by
  have hcmds : (s.mx.cmds.filterMap fun m => if m.id = id then some x else some m) = s.mx.cmds.map fun m => if m.id = id then x else m := by
    rw [← List.filterMap_eq_map]
    refine List.filterMap_congr fun m _ => ?_
    dsimp only [Function.comp_apply]
    split <;> rfl
  unfold State.putM
  rw [hcmds]

/-- The use of an array whose layout is not given changes the armed injections and the count of free values alone. -/
theorem State.injectUse_only (s : State) (arr col core : Nat) (write : Bool) (gid : Word) :
    { (s.injectUse arr col core write gid).1 with ev := s.ev, freeCtr := s.freeCtr } = s := by
  unfold State.injectUse
  dsimp only
  split
  · rfl
  · split <;> rfl

theorem State.startM_starts (h : s.mustDefer c = false) (hstill : s.stillDeferred c = false) :
    let t := s.startM c
    t.mx = { s.mx with cmds := s.mx.cmds.map fun m => if m.id = c.id then
      { c with running := true, emask := (s.shapeNow c.core).1, ediv := (s.shapeNow c.core).2 } else m } ∧
    { t with mx := s.mx, ev := s.ev, freeCtr := s.freeCtr } = s := by
  have hstart : ∃ u : State, { u with ev := s.ev, freeCtr := s.freeCtr } = s ∧ s.startM c =
      u.putM c.id (some { c with running := true, emask := (s.shapeNow c.core).1, ediv := (s.shapeNow c.core).2 }) := by
    unfold State.startM
    rw [if_neg (Bool.not_eq_true _ ▸ h), if_neg (Bool.not_eq_true _ ▸ hstill)]
    dsimp only
    split
    · exact ⟨_, s.injectUse_only 9 (c.core / 4) (c.core % 4) false noGang, rfl⟩
    · exact ⟨s, rfl, rfl⟩
  obtain ⟨u, hu, hstart⟩ := hstart
  have hmx : u.mx = s.mx := (congrArg State.mx hu :)
  dsimp only
  rw [hstart, State.putM_some, hmx]
  exact ⟨rfl, (congrArg (fun z : State => { z with mx := s.mx }) hu :)⟩

end Start

/-! ### Loads of weights (12 R274, R278, R286, R287) -/

theorem happens_mwldStart (core : Nat) (c : MCmd) : Happens (.mwldStart core) (fun s => s.loadReady core = some c) fun s => s.startM c :=
  happens_of_next fun s hp => by
    show execMwldStart core s = _
    rw [execMwldStart, hp]

section Load
variable (core : Nat) (c : MCmd) (f : MFmt) (g : Nat) (z : State) (as : List EAcc)

theorem happens_mwldComplete (w : State) : Happens (.mwldComplete core) (fun s => s.loadPlan core = some (c, f, g, z, as) ∧
      firstTrap (as.map EAcc.found) = none ∧ s.bandsOn core c.emask = true ∧ z.engineReady c.id c.st c.view false as = (w, true)) fun _ =>
    let r := w.engineReads c.id c.view as
    let u := (r.1.latch c (tileOf f g r.2.toArray)).engineDone c.id
    ((u.putM c.id none).sendBytes c.by_ c.clasp (operandBytes f g 128)).shedBands core :=
  happens_of_ret fun s hp => by
    obtain ⟨hplan, hclean, hbands, hready⟩ := hp
    show execMwldComplete core s = _
    rw [execMwldComplete, hplan]
    dsimp only
    rw [if_neg (by simp [hclean, hbands]), hready]
    rfl

theorem happens_mwldFault (k : Nat) (line : Word64) : Happens (.mwldFault core) (fun s => s.loadPlan core = some (c, f, g, z, as) ∧
      firstTrap (as.map EAcc.found) = some (k, line)) fun s =>
    let u := (z.latch c { s.stage core c.stage with fmt := f, groups := g, poison := true }).orphanQueries c.id
    ((u.putM c.id none).shedBands core).engineFault c.by_ k 0 c.aslot line :=
  happens_of_ret fun s hp => by
    obtain ⟨hplan, htrap⟩ := hp
    show execMwldFault core s = _
    rw [execMwldFault, hplan]
    dsimp only
    rw [htrap]

end Load

/-! ### Matrix products (12 R274-R276, R281-R287) -/

section Mac
variable (core : Nat) (c : MCmd) (a : MacArgs) (init : SMap Word) (ch : Bool)

theorem execMmacStart_of_head {s : State} (hhead : s.mhead core = some c) (hkind : c.kind = .mac a init ch) (hrun : c.running = false) :
    execMmacStart core s =
      if a.mcast = 0 ∨ s.castStarted c a then .next (s.startM { c with mates := [] })
      else if s.castReady c a then .next (s.startCast c a)
      else if c.headSince.isNone then .next (s.putM c.id (some { c with headSince := some (s.coreClk core) }))
      else .next s := by
  rw [execMmacStart, hhead]
  dsimp only
  rw [hkind]
  dsimp only
  rw [hrun]
  rfl

theorem happens_mmacStart_alone : Happens (.mmacStart core) (fun s => s.mhead core = some c ∧ c.kind = .mac a init ch ∧ c.running = false ∧
      (a.mcast = 0 ∨ s.castStarted c a = true)) fun s => s.startM { c with mates := [] } :=
  happens_of_next fun s hp => by
    obtain ⟨hhead, hkind, hrun, hgo⟩ := hp
    exact (execMmacStart_of_head core c a init ch hhead hkind hrun).trans (if_pos hgo)

theorem happens_mmacStart_cast : Happens (.mmacStart core) (fun s => s.mhead core = some c ∧ c.kind = .mac a init ch ∧ c.running = false ∧
      a.mcast ≠ 0 ∧ s.castStarted c a = false ∧ s.castReady c a = true) fun s => s.startCast c a :=
  happens_of_next fun s hp => by
    obtain ⟨hhead, hkind, hrun, hcast, hfirst, hready⟩ := hp
    refine (execMmacStart_of_head core c a init ch hhead hkind hrun).trans ((if_neg ?_).trans (if_pos hready))
    simp [hcast, hfirst]

theorem happens_mmacStart_waits : Happens (.mmacStart core) (fun s => s.mhead core = some c ∧ c.kind = .mac a init ch ∧ c.running = false ∧
      a.mcast ≠ 0 ∧ s.castStarted c a = false ∧ s.castReady c a = false ∧ c.headSince = none) fun s =>
    s.putM c.id (some { c with headSince := some (s.coreClk core) }) :=
  happens_of_next fun s hp => by
    obtain ⟨hhead, hkind, hrun, hcast, hfirst, hready, hsince⟩ := hp
    refine (execMmacStart_of_head core c a init ch hhead hkind hrun).trans
      ((if_neg ?_).trans ((if_neg (Bool.not_eq_true _ ▸ hready)).trans (if_pos (by rw [hsince]; rfl))))
    simp [hcast, hfirst]

theorem happens_multicastTimeout (t : Nat) : Happens (.multicastTimeout core) (fun s => s.mhead core = some c ∧ c.headSince = some t ∧
      c.running = false ∧ t + 512 ≤ s.coreClk core) fun s => s.startM { c with mates := [] } :=
  happens_of_next fun s hp => by
    obtain ⟨hhead, hsince, hrun, hlate⟩ := hp
    show execMulticastTimeout core s = _
    rw [execMulticastTimeout, hhead]
    dsimp only
    split
    next t' ht =>
      obtain rfl := Option.some.inj (hsince.symm.trans ht)
      exact if_pos ⟨by rw [hrun]; rfl, hlate⟩
    next ht => exact absurd (hsince.symm.trans ht) (Option.some_ne_none t)

theorem happens_mmacPass : Happens (.mmacPass core) (fun s => s.mhead core = some c ∧ c.kind = .mac a init ch ∧ c.running = true ∧
      c.pass < a.groups ∧ s.bandsOn core (s.shapeNow core).1 = true) fun s =>
    s.putM c.id (some { c with
      emask := (s.shapeNow core).1, ediv := (s.shapeNow core).2
      pass := c.pass + ((List.range 4).filter fun i => (s.shapeNow core).1.testBit i).length }) :=
  happens_of_next fun s hp => by
    obtain ⟨hhead, hkind, hrun, hpass, hbands⟩ := hp
    show execMmacPass core s = _
    rw [execMmacPass, hhead]
    dsimp only
    rw [hkind]
    dsimp only
    rw [if_neg (by simp [hrun, hpass]), if_pos hbands]

theorem execMmacComplete_of_head {s : State} (hhead : s.mhead core = some c) (hkind : c.kind = .mac a init ch) (hrun : c.running = true) :
    execMmacComplete core s =
      if (s.headStage core).poison then Machine.ret (((s.macLand c a (macNan a)).putM c.id none).shedBands core)
      else if c.pass < a.groups then .next s
      else match c.given with
        | some vals => Machine.ret ((s.macEnd c a init (s.headStage core) vals).shedBands core)
        | none =>
          if (firstTrap (s.macPlan c a).2.2).isSome then .next s
          else
            let as := operandAccs a.data a.scale (s.macPlan c a).2.1 (s.macPlan c a).2.2
            let z := (s.macPlan c a).1.engineReady c.id c.st c.view false as
            if !z.2 then Machine.ret z.1
            else
              let r := z.1.engineReads c.id c.view as
              Machine.ret ((((r.1.engineDone c.id).shareReads c r.2).macEnd c a init (s.headStage core) r.2).shedBands core) := by
  rw [execMmacComplete, hhead]
  dsimp only
  rw [hkind]
  dsimp only
  rw [hrun]
  rfl

theorem happens_mmacComplete_reads (z : State) : Happens (.mmacComplete core) (fun s => s.mhead core = some c ∧ c.kind = .mac a init ch ∧
      c.running = true ∧ (s.headStage core).poison = false ∧ a.groups ≤ c.pass ∧ c.given = none ∧ firstTrap (s.macPlan c a).2.2 = none ∧
      (s.macPlan c a).1.engineReady c.id c.st c.view false
        (operandAccs a.data a.scale (s.macPlan c a).2.1 (s.macPlan c a).2.2) = (z, true)) fun s =>
    let r := z.engineReads c.id c.view (operandAccs a.data a.scale (s.macPlan c a).2.1 (s.macPlan c a).2.2)
    (((r.1.engineDone c.id).shareReads c r.2).macEnd c a init (s.headStage core) r.2).shedBands core :=
  happens_of_ret fun s hp => by
    obtain ⟨hhead, hkind, hrun, hpoison, hpass, hgiven, hclean, hready⟩ := hp
    refine (execMmacComplete_of_head core c a init ch hhead hkind hrun).trans ?_
    rw [hpoison, if_neg Bool.false_ne_true, if_neg (Nat.not_lt.mpr hpass), hgiven]
    dsimp only
    rw [hclean, hready]
    rfl

theorem happens_mmacComplete_given (vals : List Nat) : Happens (.mmacComplete core) (fun s => s.mhead core = some c ∧
      c.kind = .mac a init ch ∧ c.running = true ∧ (s.headStage core).poison = false ∧ a.groups ≤ c.pass ∧ c.given = some vals) fun s =>
    (s.macEnd c a init (s.headStage core) vals).shedBands core :=
  happens_of_ret fun s hp => by
    obtain ⟨hhead, hkind, hrun, hpoison, hpass, hgiven⟩ := hp
    refine (execMmacComplete_of_head core c a init ch hhead hkind hrun).trans ?_
    rw [hpoison, if_neg Bool.false_ne_true, if_neg (Nat.not_lt.mpr hpass), hgiven]

theorem happens_mmacComplete_poisoned : Happens (.mmacComplete core) (fun s => s.mhead core = some c ∧ c.kind = .mac a init ch ∧
      c.running = true ∧ (s.headStage core).poison = true) fun s => ((s.macLand c a (macNan a)).putM c.id none).shedBands core :=
  happens_of_ret fun s hp => by
    obtain ⟨hhead, hkind, hrun, hpoison⟩ := hp
    exact (execMmacComplete_of_head core c a init ch hhead hkind hrun).trans (if_pos hpoison)

theorem happens_mmacFault (k : Nat) (line : Word64) : Happens (.mmacFault core) (fun s => s.mhead core = some c ∧ c.kind = .mac a init ch ∧
      c.running = true ∧ (s.headStage core).poison = false ∧ c.given = none ∧ firstTrap (s.macPlan c a).2.2 = some (k, line)) fun s =>
    ((((s.macPlan c a).1.macLand c a (macNan a)).orphanQueries c.id).putM c.id none |>.shedBands core).engineFault c.by_ k 0
      c.aslot line :=
  happens_of_ret fun s hp => by
    obtain ⟨hhead, hkind, hrun, hpoison, hgiven, htrap⟩ := hp
    show execMmacFault core s = _
    rw [execMmacFault, hhead]
    dsimp only
    rw [hkind]
    dsimp only
    rw [if_neg (by simp [hrun, hpoison, hgiven]), htrap]

end Mac

/-! ### Shapes and bands (12 R276, R290) -/

theorem happens_mshapeComplete (core : Nat) (c : MCmd) (w : Nat) :
    Happens (.mshapeComplete core) (fun s => s.mhead core = some c ∧ c.kind = .shape w) fun s =>
    ((s.putM c.id none).sysPut SysReg.ashape core (setField (setField (s.sysGet SysReg.ashape core) 3 0
      (if w % 16 = 0 then 1 else w % 16)) 5 4 (w / 16 % 4))).shedBands core :=
  happens_of_next fun s hp => by
    show execMshapeComplete core s = _
    rw [execMshapeComplete, hp.1]
    dsimp only
    rw [hp.2]

theorem happens_bandPowerOn (core band : Nat) : Happens (.bandPowerOn core band) (fun s => band < 4 ∧ s.bandWanted core band = true) fun s =>
    s.putBands core (s.bandsOff core ^^^ 2 ^ band) :=
  happens_of_next fun _ hp => if_pos hp

end Sys2Proof.Machine
end

section
/-! O49: each event of clasps and of the slew limiter, where its condition holds (11 R323; 14 R322-R325). -/

set_option Elab.async false

namespace Sys2Proof.Machine

/-! ### Bytes of commands (14 R323) -/

section Scratch
variable (id : Nat) (a : ClaspAdd) (h : Word64) (core off slot : Nat)

theorem happens_claspAddBytes_here (b n : Nat) : Happens (.claspAddBytes id) (fun s => (s.cl.adds.find? fun a => a.id = id) = some a ∧
      a.ref = .scratch h core off slot ∧ s.arena h core = some (b, n)) fun s => s.addBytesAt a (scratch core (b + off)) :=
  happens_of_ret fun s hp => by
    obtain ⟨hadd, href, harena⟩ := hp
    show execClaspAddBytes id s = _
    rw [execClaspAddBytes, hadd]
    dsimp only
    rw [href]
    dsimp only
    rw [harena]

theorem happens_claspAddBytes_saved (home base : Nat) : Happens (.claspAddBytes id) (fun s => (s.cl.adds.find? fun a => a.id = id) = some a ∧
      a.ref = .scratch h core off slot ∧ s.arena h core = none ∧ s.arenaHome h core = some (home, base) ∧ s.pendFull home = false) fun s =>
    (s.dropAdd id).enterPend ⟨h, core, off, .bytes, a.n, a.by_, slot, none⟩ :=
  happens_of_next fun s hp => by
    obtain ⟨hadd, href, harena, hhome, hroom⟩ := hp
    show execClaspAddBytes id s = _
    rw [execClaspAddBytes, hadd]
    dsimp only
    rw [href]
    dsimp only
    rw [harena]
    dsimp only
    rw [hhome]
    exact if_neg (Bool.not_eq_true _ ▸ hroom)

end Scratch

section Virt
variable (id : Nat) (a : ClaspAdd) (va slot : Nat) (u : State) (pa : Nat) (l : Leaf)

/-- The clasp's address is translated again, and no slot holds its access. -/
theorem execClaspAddBytes_of_ready {s : State} (hadd : (s.cl.adds.find? fun a => a.id = id) = some a) (href : a.ref = .virt va slot)
    (htrans : s.translate [256 + a.by_.col] va .write (!a.by_.sup) = (u, .ok pa l)) (hmig : l.mig ≠ 2)
    (hfree : u.engineHeld true (.column a.by_.col) pa ⟨.ok pa l.tgt, 16, .nc, false⟩ = false) :
    execClaspAddBytes id s =
      if u.leaseLive pa then Machine.ret (u.noteEngine id [pa])
      else if 2 ≤ l.tgt ∨ (u.driftOf pa).isSome then
        Machine.ret ((u.dropAdd id).engineFault a.by_ 0x0A 0 slot (BitVec.ofNat 64 (va / 128 * 128)))
      else Machine.ret (u.addBytesAt a pa) := by
  rw [execClaspAddBytes, hadd]
  dsimp only
  rw [href]
  dsimp only
  rw [htrans]
  exact if_neg (by simp [hmig, hfree])

theorem happens_claspAddBytes_adds : Happens (.claspAddBytes id) (fun s => (s.cl.adds.find? fun a => a.id = id) = some a ∧ a.ref = .virt va slot ∧
      s.translate [256 + a.by_.col] va .write (!a.by_.sup) = (u, .ok pa l) ∧ l.mig ≠ 2 ∧
      u.engineHeld true (.column a.by_.col) pa ⟨.ok pa l.tgt, 16, .nc, false⟩ = false ∧
      u.leaseLive pa = false ∧ l.tgt < 2 ∧ u.driftOf pa = none) fun _ => u.addBytesAt a pa :=
  happens_of_ret fun s hp => by
    obtain ⟨hadd, href, htrans, hmig, hfree, hlease, htgt, hdrift⟩ := hp
    refine (execClaspAddBytes_of_ready id a va slot u pa l hadd href htrans hmig hfree).trans
      ((if_neg (Bool.not_eq_true _ ▸ hlease)).trans (if_neg ?_))
    simp [htgt, hdrift]

theorem happens_claspAddBytes_leased : Happens (.claspAddBytes id) (fun s => (s.cl.adds.find? fun a => a.id = id) = some a ∧
      a.ref = .virt va slot ∧ s.translate [256 + a.by_.col] va .write (!a.by_.sup) = (u, .ok pa l) ∧ l.mig ≠ 2 ∧
      u.engineHeld true (.column a.by_.col) pa ⟨.ok pa l.tgt, 16, .nc, false⟩ = false ∧
      u.leaseLive pa = true) fun _ => u.noteEngine id [pa] :=
  happens_of_ret fun s hp => by
    obtain ⟨hadd, href, htrans, hmig, hfree, hlease⟩ := hp
    exact (execClaspAddBytes_of_ready id a va slot u pa l hadd href htrans hmig hfree).trans (if_pos hlease)

theorem happens_claspAddBytes_fails : Happens (.claspAddBytes id) (fun s => (s.cl.adds.find? fun a => a.id = id) = some a ∧
      a.ref = .virt va slot ∧ s.translate [256 + a.by_.col] va .write (!a.by_.sup) = (u, .ok pa l) ∧ l.mig ≠ 2 ∧
      u.engineHeld true (.column a.by_.col) pa ⟨.ok pa l.tgt, 16, .nc, false⟩ = false ∧ u.leaseLive pa = false ∧
      (2 ≤ l.tgt ∨ u.driftOf pa ≠ none)) fun _ => (u.dropAdd id).engineFault a.by_ 0x0A 0 slot (BitVec.ofNat 64 (va / 128 * 128)) :=
  happens_of_ret fun s hp => by
    obtain ⟨hadd, href, htrans, hmig, hfree, hlease, hbad⟩ := hp
    refine (execClaspAddBytes_of_ready id a va slot u pa l hadd href htrans hmig hfree).trans
      ((if_neg (Bool.not_eq_true _ ▸ hlease)).trans (if_pos ?_))
    rwa [Option.isSome_iff_ne_none]

end Virt

theorem State.addBytesAt_some {s : State} {a : ClaspAdd} {pa : Nat} {c : Clasp × Bool} (h : (s.clasp pa).addBytes a.n = some c) :
    s.addBytesAt a pa = (s.dropAdd a.id).putClasp pa c := by
  rw [State.addBytesAt, h]

theorem State.addBytesAt_none {s : State} {a : ClaspAdd} {pa : Nat} (h : (s.clasp pa).addBytes a.n = none) :
    s.addBytesAt a pa = (s.dropAdd a.id).engineFault a.by_ 0x0A 0 a.ref.slot a.ref.line := by
  rw [State.addBytesAt, h]
  rfl

/-! ### Wakes (14 R324) -/

/-- A wake lets a lane go on that has read the clasp and waits on another phase. -/
theorem State.endWait_of_wakesLane (s : State) (w : Waiter) (l : Nat) :
    (if s.wakesLane w l then s.endWait w.ctx l false w.phase else s) =
      match ((s.ctx w.ctx).lane l).wait with
      | .clasp pa p _ _ _ (some _) _ => if pa = w.pa ∧ p ≠ w.phase then s.endWait w.ctx l false w.phase else s
      | _ => s := by
  unfold State.wakesLane
  cases ((s.ctx w.ctx).lane l).wait with
  | clasp pa p dl reg sc seen path =>
    cases seen with
    | none => rfl
    | some t => simp only [decide_eq_true_eq]
  | _ => rfl

theorem happens_claspWakeArrive (col key : Nat) : Happens (.claspWakeArrive col key) (fun _ => True) fun s =>
    let ws := s.cl.waiters.filter fun w => decide (w.col = col ∧ w.pa = key) && s.wakeReady w
    let u : State := { s with cl := { s.cl with
      waiters := (s.cl.waiters.map fun w => if ws.contains w then { w with stage := 0 } else w).eraseDups } }
    (ws.foldl (fun s w => (SMap.keys (s.ctx w.ctx).lanes).foldl (fun s l =>
      match ((s.ctx w.ctx).lane l).wait with
      | .clasp pa p _ _ _ (some _) _ => if pa = w.pa ∧ p ≠ w.phase then s.endWait w.ctx l false w.phase else s
      | _ => s) s) u).dropWaiters :=
  happens_of_ret fun s _ => by
    show execClaspWakeArrive col key s = _
    exact congrArg (fun f : State → Waiter → State => Machine.ret (List.foldl f _ _).dropWaiters) (funext₂ fun z w =>
      congrArg (fun f : State → Nat → State => List.foldl f z _) (funext₂ fun z l => z.endWait_of_wakesLane w l))

/-! ### The slew limiter (14 R325) -/

theorem happens_slewAdmit (first : Nat) (rest : List Nat) :
    Happens .slewAdmit (fun s => s.slewPick = first :: rest) fun s => s.startExit first (first :: rest) :=
  happens_of_ret fun s hp => by
    show execSlewAdmit s = _
    rw [execSlewAdmit, hp]

theorem State.startExit_exits (s : State) (first : Nat) (go : List Nat) (c : Nat) :
    (s.startExit first go).cl.exits.contains c = (s.cl.exits.contains c && !go.contains c) := by
  show (s.cl.exits.filter fun c => !go.contains c).contains c = _
  rw [Bool.eq_iff_iff]
  simp

/-- Settles O49, event by event. -/
theorem engineEvents : Obligations.EngineEvents := by
  unfold Obligations.EngineEvents
  intro none_
  refine ⟨happens_aeStreamBlock_fills, happens_aeStreamBlock_faults, happens_queueSlotRelease, happens_qpopDeliver,
    happens_cpCommandComplete, happens_cpCommandFault, happens_xpushDeliver, happens_pushBoxFree, happens_mwldStart,
    fun _ _ => State.startM_defers, fun _ _ => State.startM_deferred, fun _ _ => State.startM_starts, happens_mwldComplete,
    happens_mwldFault, happens_mmacStart_alone, happens_mmacStart_cast, happens_mmacStart_waits, happens_multicastTimeout,
    happens_mmacPass, happens_mmacComplete_reads, happens_mmacComplete_given, happens_mmacComplete_poisoned, happens_mmacFault,
    happens_mshapeComplete, happens_bandPowerOn, happens_claspAddBytes_here, happens_claspAddBytes_saved, happens_claspAddBytes_adds,
    happens_claspAddBytes_leased, happens_claspAddBytes_fails, fun _ _ _ _ => State.addBytesAt_some, fun _ _ _ => State.addBytesAt_none,
    happens_claspWakeArrive, ?claspPoll, ?claspTwaitTimeout, happens_slewAdmit, State.startExit_exits⟩
  case claspPoll => exact fun _ => happens_of_ret fun _ _ => rfl
  case claspTwaitTimeout => exact fun _ => happens_of_ret fun _ _ => rfl

end Sys2Proof.Machine
end

section
/-! O57, O58, O59: the module after power-on reset, and the invariant of every step (20 R427; logs 3, 4, 5). -/

set_option Elab.async false

namespace Sys2Proof.Machine

/-! ### The invariant -/

/-- Settles O58: no byte is listed and no store made. -/
theorem invAtReset : Obligations.InvAtReset := ⟨reset_memory_wf, rfl⟩

/-- An act whose stores enter memory keeps the invariant, whatever it did. -/
theorem State.Inv.of_committed {s t : State} {o : Host.Outcome State Fault Refusal} (h : s.Inv) (ht : committed s o = .next t) : t.Inv := by
  cases o with
  | next u =>
    cases ht
    exact State.commit_wf u s h.1
  | fault f => cases ht
  | refused r => cases ht

/-- A step commits what one act leaves, or does no more than give up the second path of its clock. -/
theorem step_commits {s t : State} (ht : step s = .next t) : (∃ o, committed s o = .next t) ∨ t = { s with second := none } := by
  rw [step, advance] at ht
  split at ht
  next => exact .inl ⟨_, ht⟩
  next =>
    split at ht
    next => exact .inl ⟨_, ht⟩
    next =>
      split at ht
      next => exact .inl ⟨_, ht⟩
      next =>
        split at ht
        next =>
          dsimp only at ht
          split at ht
          next => exact .inl ⟨_, ht⟩
          next => exact .inr (by cases ht; rfl)
        next =>
          split at ht
          next => exact .inl ⟨_, ht⟩
          next =>
            dsimp only at ht
            split at ht
            next => exact .inl ⟨_, ht⟩
            next => exact .inl ⟨_, ht⟩

/-- Settles O59: the act's stores are committed, or memory and the step's stores are as they were. -/
theorem stepKeepsInv : Obligations.StepKeepsInv := by
  intro s t h ht
  obtain ⟨o, ho⟩ | rfl := step_commits ht
  · exact h.of_committed ho
  · exact h

/-! ### Reset (20 R427, R429; 12 R273; 19 R399) -/

/-- Column core n, n below 64, is listed with its halted thread. -/
theorem State.reset_ctx_cc {n : Nat} (hn : n < 64) : State.reset.ctx (.cc n) = Ctx.columnCore .halted := by
  have hall : ∀ k : Fin 64, SMap.get Ctx.none ((List.range 64).map fun n => (n, Ctx.columnCore .halted)) k = Ctx.columnCore .halted := by
    decide
  exact hall ⟨n, hn⟩

/-- At reset no copy of a register is listed. -/
theorem State.reset_sysGet (reg inst : Nat) : State.reset.sysGet reg inst = sysReset reg inst := rfl

/-- Settles O57. -/
theorem resetState : Obligations.ResetState := by
  refine ⟨rfl, rfl, rfl, rfl, rfl, rfl, fun n hn => ?cores, fun _ _ => rfl, fun _ _ => rfl, fun _ _ => rfl, fun _ => rfl, fun n => ?regs⟩
  case cores =>
    rw [State.reset_ctx_cc hn]
    exact ⟨rfl, rfl⟩
  case regs => exact ⟨rfl, rfl, rfl, rfl, rfl, rfl, rfl, rfl, rfl, rfl, rfl, rfl, rfl, rfl, rfl⟩

end Sys2Proof.Machine
end

section
/-! O23: a clasp's counts and its phase (14 R315, R317). -/

set_option Elab.async false

namespace Sys2Proof

namespace Clasp

/-! ### The end of a phase (R317) -/

/-- All that a clasp expects has come, and it expects something. -/
def Full (c : Clasp) : Prop := (0 < c.aexp ∨ 0 < c.bexp) ∧ c.aexp ≤ c.acnt ∧ c.bexp ≤ c.bcnt

/-- The clasp after its phase has passed. -/
def flipped (c : Clasp) : Clasp := { c with phase := nextPhase c.phase, acnt := 0, bcnt := 0, bexp := 0 }

theorem checkFlip_of_full {c : Clasp} (h : c.Full) : c.checkFlip = (c.flipped, true) := if_pos h

theorem checkFlip_of_not_full {c : Clasp} (h : ¬ c.Full) : c.checkFlip = (c, false) := if_neg h

/-! ### The operations -/

section Operations
variable {c : Clasp} (n : Nat)

theorem arrive_counts (hv : c.v = true) (hn : c.acnt ≠ c.aexp) : c.arrive = some { c with acnt := c.acnt + 1 }.checkFlip :=
  if_neg (by simp [hv, hn])

theorem expect_counts (hv : c.v = true) (hn : c.bexp + n ≤ 2 ^ 40 - 1) : c.expect n = some { c with bexp := c.bexp + n }.checkFlip :=
  if_neg (by rw [hv]; exact not_or.mpr ⟨Bool.noConfusion, Nat.not_lt.mpr hn⟩)

theorem addBytes_counts (hv : c.v = true) : c.addBytes n = some { c with bcnt := min (c.bcnt + n) (2 ^ 40 - 1) }.checkFlip :=
  if_neg (by rw [hv]; exact Bool.noConfusion)

end Operations

/-! ### The sixteen bytes (R315) -/

/-- A number below 2^128 is its six fields put back in their places. -/
theorem toNat_ofNat {x : Nat} (h : x < 2 ^ 128) : (Clasp.ofNat x).toNat = x := by
  have htop : bit (decide (bitsOf x 127 127 = 1)) = x / 2 ^ 127 := by
    have hle : bitsOf x 127 127 = x / 2 ^ 127 := Nat.mod_eq_of_lt (by omega)
    rw [hle]
    obtain h0 | h1 : x / 2 ^ 127 = 0 ∨ x / 2 ^ 127 = 1 := by omega
    · rw [h0]; rfl
    · rw [h1]; rfl
  unfold Clasp.ofNat Clasp.toNat
  dsimp only
  rw [htop]
  simp only [bitsOf]
  omega

end Clasp

/-- Settles O23: each operation counts and then checks for the end of the phase, which comes where the clasp is full. -/
theorem claspPhases : Obligations.ClaspPhases := by
  unfold Obligations.ClaspPhases
  extract_lets top flipped
  refine ⟨fun c hv hlt hmore => ?arrive, fun c hv hlt hlast hbytes => ?arriveFlips, fun c hbad => if_pos hbad, fun c n hbad => if_pos hbad,
    fun c n hv hle hmore => ?expect, fun c n hv hle harr hbytes hsome => ?expectFlips, fun c n hv => if_pos hv, fun c n hv hmore => ?add,
    fun c n hv harr hbytes hle hsome => ?addFlips, fun c n hv harr hexp => ⟨?idleExpect, ?idleAdd⟩, fun x => Clasp.toNat_ofNat⟩
  case arrive =>
    rw [Clasp.arrive_counts hv hlt.ne, Clasp.checkFlip_of_not_full]
    rintro ⟨-, harr, hbytes⟩
    dsimp only at harr hbytes
    omega
  case arriveFlips =>
    have hfull : Clasp.Full { c with acnt := c.acnt + 1 } := ⟨.inl (Nat.zero_lt_of_lt hlt), hlast.ge, hbytes⟩
    rw [Clasp.arrive_counts hv hlt.ne, Clasp.checkFlip_of_full hfull]
    rfl
  case expect =>
    rw [Clasp.expect_counts n hv hle, Clasp.checkFlip_of_not_full]
    rintro ⟨-, harr, hbytes⟩
    dsimp only at harr hbytes
    omega
  case expectFlips =>
    have hfull : Clasp.Full { c with bexp := c.bexp + n } := ⟨hsome, harr, hbytes⟩
    rw [Clasp.expect_counts n hv hle, Clasp.checkFlip_of_full hfull]
    rfl
  case add =>
    rw [Clasp.addBytes_counts n hv, Clasp.checkFlip_of_not_full]
    rintro ⟨-, harr, hbytes⟩
    exact hmore.elim (Nat.not_lt.mpr harr) (Nat.not_lt.mpr hbytes)
  case addFlips =>
    have hfull : Clasp.Full { c with bcnt := min (c.bcnt + n) top } := ⟨hsome, harr.ge, Nat.le_min.mpr ⟨hbytes, hle⟩⟩
    rw [Clasp.addBytes_counts n hv, Clasp.checkFlip_of_full hfull]
    rfl
  case idleExpect =>
    rw [Clasp.expect_counts 0 hv (by rw [hexp]; exact Nat.zero_le _), Clasp.checkFlip_of_not_full]
    · rfl
    · simp [Clasp.Full, harr, hexp]
  case idleAdd =>
    rw [Clasp.addBytes_counts n hv, Clasp.checkFlip_of_not_full]
    simp [Clasp.Full, harr, hexp]

end Sys2Proof
end

section
/-! O19, O22: drift words and clasp words put one operation in flight, or keep their path at the word (14 R319-R322; 15 R342-R346). -/

set_option Elab.async false

namespace Sys2Proof.Machine

/-! ### Operations in flight -/

section Launch
variable {m : MWord} {f : MemForm} {reg : Option Nat} {is : Issue} {s v : State} {qs fs : List LaneFound}

/-- Where every lane passes, the accesses go in flight and no lane stays. -/
theorem launchAccs_passes (hlets : ∀ q ∈ fs, f.lets q.2) : launchAccs m f reg id false is v fs =
    .held (v.putOut is m f.kind reg (accLanes (fs.flatMap (f.accOf is v))) (fs.flatMap (f.accOf is v))) 0 := by
  rw [launchAccs_goes fun q hq => .inl (hlets q hq), trapLanes, trapGroups_of_lets hlets, takeTraps_nil]
  rfl

/-- A lane whose walk waits does not pass. -/
theorem not_waits_of_lets {w : Who} {va : Nat → Option Nat} (hlets : ∀ q ∈ v.pageOutcome w va qs, f.lets q.2) :
    ¬ (qs.any fun q => q.2.waits) = true := by
  rw [List.any_eq_true]
  rintro ⟨⟨l, found⟩, hq, hw⟩
  cases found with
  | wait => exact MemForm.ends.not_wait (.inl (hlets _ (mem_pageOutcome hq rfl))) rfl
  | _ => cases hw

end Launch

/-- A word of a form without a rule of its own, whose effect answers the operation in flight wherever every lane passes. -/
theorem goesOut_of {i : Instr} {m : MWord} {f : MemForm} {check : Issue → State → State → Nat → State × Found}
    {line : Issue → State → Nat → Word64} {reg : Option Nat} {cond : List Acc → Prop} {mark : Issue → Nat → Word64 → State → State}
    {stay : Issue → Word64} {eff : Issue → State → Option Done} (he : ∀ s, exec i s = issueWith i 0 eff s)
    (hcheck : ∀ is s u l, State.OnlyMemory u (check is s u l).1)
    (hmark : ∀ is id lanes u, State.SameFails u (mark is id lanes u) ∧ (mark is id lanes u).stuck = u.stuck)
    (h : ∀ is s v qs, s.checkLanes (check is s) (lanesOf is.act) = (v, qs) →
      let fs := v.pageOutcome (s.who is.ctx) (is.vaOf s m f.n) qs
      let accs := fs.flatMap (MemForm.accOf { f with line := line is s } is v)
      Rec256.valid (is.c.recSlot is.sub m.slot) = true → (Rec256.space (is.c.recSlot is.sub m.slot) ≠ 4 ∨ f.ring = true) →
      (∀ q ∈ fs, MemForm.lets { f with line := line is s } q.2) → cond accs →
      eff is s = some (.held (mark is v.opId (accLanes accs) (v.putOut is m f.kind reg (accLanes accs) accs)) (stay is))) :
    GoesOut i m (fun _ _ => f) check (fun _ _ _ q => q) line reg (fun _ _ accs => cond accs) mark stay := by
  intro s r v qs hr _ hm ha is rc g hq fs accs hv hsp hlets hcond hstuck
  have hfs : fs = v.pageOutcome (s.who is.ctx) (is.vaOf s m f.n) qs := List.map_id' _
  have hmem := State.OnlyMemory.checkLanes (hcheck is s) s (lanesOf is.act)
  rw [hq] at hmem
  have hout := State.SameFails.trans (.of_ctxs hmem.ctxs) (.putOut v is m f.kind reg (accLanes accs) accs)
  obtain ⟨hfails, hkept⟩ := hmark is v.opId (accLanes accs) (v.putOut is m f.kind reg (accLanes accs) accs)
  clear_value fs
  subst hfs
  exact exec_passes (he s) hr hm ha (h is s v qs hq hv hsp hlets hcond) (fun l => (hout.trans hfails is.ctx l).trans (hm.settled l))
    (hkept.trans ((State.putOut_stuck _ _ _ _ _ _ _).trans hstuck))

/-! ### Drift words (15 R342-R346) -/

theorem State.OnlyMemory.checkDrift (s : State) (w : Who) (r : Rec256) (x y : Int) (k : AccKind) (load : Bool) :
    s.OnlyMemory (s.checkDrift w r x y k load).1 := by
  unfold State.checkDrift
  cases s.place? w r x y 1 with
  | oob =>
    dsimp only
    split <;> exact refl s
  | bounds => exact refl s
  | scratch pa => exact refl s
  | virt va =>
    dsimp only
    split
    · exact refl s
    · have hvirt := checkVirt s w 0 va k
      generalize s.checkVirt w 0 va k = q at hvirt ⊢
      obtain ⟨s1, found⟩ := q
      cases found with
      | ok pa tgt =>
        dsimp only
        split
        · exact hvirt
        · split <;> exact hvirt
      | _ => exact hvirt

section Drift
variable {m : MWord} {f : MemForm} {reg : Option Nat}

/-- The check of one lane of a drift word, of an agent. -/
def MemForm.checkDrift (f : MemForm) (m : MWord) (is : Issue) (s u : State) (l : Nat) : State × Found :=
  u.checkDrift (s.who is.ctx) (is.rec_ m.slot) (is.index u m l).1 (is.index u m l).2 f.acc f.kind.tolLoad

theorem driftEff_goes {is : Issue} {s v : State} {qs : List LaneFound}
    (hq : s.checkLanes (f.checkDrift m is s) (lanesOf is.act) = (v, qs)) (hv : Rec256.valid (is.c.recSlot is.sub m.slot) = true)
    (hsp : Rec256.space (is.c.recSlot is.sub m.slot) ≠ 4)
    (hlets : ∀ q ∈ v.pageOutcome (s.who is.ctx) (is.vaOf s m f.n) qs, MemForm.lets { f with line := f.lineAt m is s } q.2) :
    let accs := (v.pageOutcome (s.who is.ctx) (is.vaOf s m f.n) qs).flatMap (MemForm.accOf { f with line := f.lineAt m is s } is v)
    driftEff m f reg is s = some (.held (v.putOut is m f.kind reg (accLanes accs) accs) 0) := by
  have hq' : s.checkLanes (fun u l => u.checkDrift (s.who is.ctx) (is.c.recSlot is.sub m.slot) (is.index u m l).1 (is.index u m l).2
      f.acc f.kind.tolLoad) (lanesOf is.act) = (v, qs) := hq
  unfold driftEff
  dsimp only
  rw [if_neg (by rw [hv]; decide), if_neg hsp, hq', if_neg (not_waits_of_lets hlets)]
  exact congrArg some (launchAccs_passes hlets)

/-- A word whose effect is that of a drift form, its answer marked, does what `Drifts` says. -/
theorem drifts_of {i : Instr} {mark : Issue → State → State} {eff : Issue → State → Option Done}
    (he : ∀ s, exec i s = issueWith i 0 eff s) (hring : f.ring = false)
    (hmark : ∀ is u, State.SameFails u (mark is u) ∧ (mark is u).stuck = u.stuck)
    (h : ∀ is s u, driftEff m f reg is s = some (.held u 0) → eff is s = some (.held (mark is u) 0)) : Drifts i m f reg mark := by
  refine goesOut_of he (fun is s u l => .checkDrift u _ _ _ _ _ _) (fun is _ _ u => hmark is u) ?_
  intro is s v qs hq fs accs hv hsp hlets _
  exact h is s _ (driftEff_goes hq hv (hsp.resolve_right (by rw [hring]; exact Bool.false_ne_true)) hlets)

/-- A drift word without a mark. -/
theorem drifts_plain {i : Instr} (he : ∀ s, exec i s = issueWith i 0 (driftEff m f reg) s) (hring : f.ring = false) :
    Drifts i m f reg fun _ u => u :=
  drifts_of he hring (fun _ u => ⟨State.SameFails.refl u, rfl⟩) fun _ _ _ h => h

end Drift

/-- Settles O19: each word's effect is that of its form; dld.e's also marks its destination. -/
theorem driftWordsGoOut : Obligations.DriftWordsGoOut := by
  refine ⟨fun m => drifts_plain (fun _ => rfl) rfl, fun m => drifts_plain (fun _ => rfl) rfl, fun m r hd => ?dldE,
    fun m => drifts_plain (fun _ => rfl) rfl, fun m => drifts_plain (fun _ => rfl) rfl⟩
  case dldE =>
    refine drifts_of (fun _ => rfl) rfl (fun is u => ⟨State.SameFails.emptied u is r, rfl⟩) fun is s u h => ?_
    have h : driftEff m (dldForm true m) (dstReg? m.d) is s = some (.held u 0) := h
    rw [h, hd]
    have hall : is.act &&& ~~~(0 : Word64) = is.act := BitVec.and_allOnes
    simp only [Option.map_some, Done.held, hall]

/-! ### Clasp words (14 R319-R322) -/

section Clasp
variable {m : MWord}

/-- The check of one lane of a clasp word. -/
def Issue.checkClasp (is : Issue) (m : MWord) (wr : Bool) (bad : Nat → Bool) (s u : State) (l : Nat) : State × Found :=
  u.checkClasp (s.who is.ctx) (is.rec_ m.slot) (is.index u m l).1 (is.index u m l).2 wr (bad l)

theorem checkLanes_clasp_onlyMemory {is : Issue} {s v : State} {qs : List LaneFound} {wr : Bool} {bad : Nat → Bool}
    (hq : s.checkLanes (is.checkClasp m wr bad s) (lanesOf is.act) = (v, qs)) : s.OnlyMemory v := by
  have hmem := State.OnlyMemory.checkLanes (f := is.checkClasp m wr bad s) (fun u l => .checkClasp u _ _ _ _ _ _) s (lanesOf is.act)
  rw [hq] at hmem
  exact hmem

theorem claspLanes_of_valid {is : Issue} {s v : State} {qs : List LaneFound} {wr : Bool} {bad : Nat → Bool}
    (hq : s.checkLanes (is.checkClasp m wr bad s) (lanesOf is.act) = (v, qs)) (hv : Rec256.valid (is.c.recSlot is.sub m.slot) = true) :
    claspLanes m wr bad is s = (v, v.pageOutcome (s.who is.ctx) (is.vaOf s m 16) qs) := by
  have hq' : s.checkLanes (fun u l => u.checkClasp (s.who is.ctx) (is.c.recSlot is.sub m.slot) (is.index u m l).1 (is.index u m l).2
      wr (bad l)) (lanesOf is.act) = (v, qs) := hq
  unfold claspLanes
  dsimp only
  rw [if_neg (by rw [hv]; decide), hq']
  rfl

/-- A finding that lets its lane move past a word does not wait. -/
theorem MemForm.lets.not_waits {f : MemForm} {q : Found} (h : f.lets q) : q.waits = false := by
  obtain ⟨_, _, rfl⟩ | rfl | ⟨-, _, _, rfl⟩ := h <;> rfl

/-- An operation on clasps goes out, and a blocking one keeps its path at the word. -/
theorem clasps_of {i : Instr} {kind : OpKind} {ord : Ord} {wr blocking : Bool} {reg : Option Nat} {bad : Issue → Nat → Bool}
    {data : Issue → Nat → Nat} (he : ∀ s, exec i s = issueWith i 0 (claspEff m kind ord wr blocking reg bad data) s) :
    Clasps i m kind ord wr blocking reg bad data := by
  refine goesOut_of he (fun is s u l => .checkClasp u _ _ _ _ _ _) ?mark ?out
  case mark =>
    intro is id lanes u
    cases blocking with
    | false => exact ⟨State.SameFails.refl u, rfl⟩
    | true => exact ⟨State.SameFails.block u is is.path _, rfl⟩
  case out =>
    intro is s v qs hq fs accs hv _ hlets hcond
    have hwaits : ¬ (fs.any fun p => p.2.waits) = true := by
      simpa using fun l q hq => (hlets (l, q) hq).not_waits
    unfold claspEff
    rw [claspLanes_of_valid hq hv]
    refine (if_neg hwaits).trans (congrArg some ?_)
    cases blocking with
    | false => exact launchAccs_passes hlets
    | true => exact launchAccs_waits hlets (hcond.resolve_right (by decide))

/-- The lanes of one page with one outcome are the lanes that were checked. -/
theorem State.pageOutcome_lanes (s : State) (w : Who) (va : Nat → Option Nat) (qs : List LaneFound) :
    (s.pageOutcome w va qs).map Prod.fst = qs.map Prod.fst := by
  unfold State.pageOutcome
  dsimp only
  split
  · rw [List.map_map]
    refine List.map_congr_left fun q _ => ?_
    rw [Function.comp_apply]
    split
    · split <;> rfl
    · rfl
  · rfl

/-- The checks of several lanes find something on each of them. -/
theorem State.checkLanes_lanes (s : State) (f : State → Nat → State × Found) (ls : List Nat) :
    (s.checkLanes f ls).2.map Prod.fst = ls := by
  have hfold : ∀ (ls : List Nat) (z : State × List LaneFound),
      (ls.foldl (fun r l => ((f r.1 l).1, r.2 ++ [(l, (f r.1 l).2)])) z).2.map Prod.fst = z.2.map Prod.fst ++ ls := fun ls => by
    induction ls with
    | nil => exact fun z => (List.append_nil _).symm
    | cons l ls ih =>
      intro z
      rw [List.foldl_cons, ih, List.map_append, List.append_assoc]
      rfl
  exact hfold ls (s, [])

/-- A lane among those whose checks all found an address has one. -/
theorem foundAt_isSome {fs : List LaneFound} {l : Nat} (hall : ∀ q ∈ fs, ∃ pa tgt, q.2 = .ok pa tgt) (hl : l ∈ fs.map Prod.fst) :
    (foundAt fs l).isSome = true := by
  obtain ⟨q, hq, rfl⟩ := List.mem_map.mp hl
  obtain ⟨pa, tgt, hok⟩ := hall q hq
  refine List.findSome?_isSome_iff.mpr ⟨q, hq, ?_⟩
  rw [hok]
  exact congrArg Option.isSome (if_pos rfl)

/-- A waiting word whose lanes all find their clasps blocks its path, each lane on its own. -/
theorem waitEff_blocks {timed : Bool} {is : Issue} {s v : State} {qs : List LaneFound} (ha : is.act ≠ 0)
    (hpath : ∀ l ∈ lanesOf is.act, l ∈ lanesOf is.path) (hv : Rec256.valid (is.c.recSlot is.sub m.slot) = true)
    (hq : s.checkLanes (is.checkClasp m false (fun _ => false) s) (lanesOf is.act) = (v, qs))
    (hok : ∀ q ∈ v.pageOutcome (s.who is.ctx) (is.vaOf s m 16) qs, ∃ pa tgt, q.2 = .ok pa tgt) :
    waitEff m timed is s = some (.held (v.block is is.path fun l =>
      match foundAt (v.pageOutcome (s.who is.ctx) (is.vaOf s m 16) qs) l with
      | some pa => .clasp pa (dstData m.d 1 is l % 2 ^ 15) (if timed then some (is.c.pair l ((dstReg? m.d).getD 0 + 2)) else none)
          ((dstReg? m.d).getD 0) m.sc none is.path
      | none => .peers is.path) is.path) := by
  let f := MemForm.plain .claspTest .read 16 16
  have hlets : ∀ q ∈ v.pageOutcome (s.who is.ctx) (is.vaOf s m 16) qs, f.lets q.2 := fun q hq => .inl (hok q hq)
  have hwaits : ¬ ((v.pageOutcome (s.who is.ctx) (is.vaOf s m 16) qs).any fun p => p.2.waits) = true := by
    simpa using fun l q hq => (hlets (l, q) hq).not_waits
  have hpages : pageGroups (v.pageOutcome (s.who is.ctx) (is.vaOf s m 16) qs) = [] := pageGroups_of_ends fun q hq => .inl (hlets q hq)
  have htraps : trapGroups (v.pageOutcome (s.who is.ctx) (is.vaOf s m 16) qs) false m.slot = [] := trapGroups_of_lets (f := f) hlets _
  have hnone : (maskOf fun _ => false) = 0 := by decide
  have hrest : is.path &&& ~~~((0 : Word64) ||| 0) = is.path := BitVec.and_allOnes
  have hsome : ((lanesOf is.path).any fun l => (foundAt (v.pageOutcome (s.who is.ctx) (is.vaOf s m 16) qs) l).isSome) = true := by
    obtain ⟨l, hl⟩ := lowestLane_isSome ha
    refine List.any_eq_true.mpr ⟨l, hpath l (mem_lowestLane hl), foundAt_isSome hok ?_⟩
    have hlanes := s.checkLanes_lanes (is.checkClasp m false (fun _ => false) s) (lanesOf is.act)
    rw [hq] at hlanes
    rw [State.pageOutcome_lanes, hlanes]
    exact mem_lowestLane hl
  unfold waitEff
  rw [claspLanes_of_valid hq hv]
  dsimp only
  rw [hpages, htraps]
  simp only [List.any_nil, List.foldl_nil, hnone, hrest]
  exact (if_neg hwaits).trans (if_pos hsome)

/-- A waiting word blocks its path where `ClaspBlocks` says. -/
theorem claspBlocks_of {i : Instr} {timed : Bool} (he : ∀ s, exec i s = issueWith i 0 (waitEff m timed) s) :
    ClaspBlocks i m fun is l => if timed then some (is.c.pair l ((dstReg? m.d).getD 0 + 2)) else none := by
  intro s r v qs hr _ hm ha is rc hv hq fs hok hstuck
  have hmem : s.OnlyMemory v := checkLanes_clasp_onlyMemory (wr := false) (bad := fun _ => false) hq
  exact exec_passes (he s) hr hm ha (waitEff_blocks (act_ne_zero ha) (fun _ => mem_lanesOf_guardMask) hv hq hok)
    (fun l => ((State.SameFails.of_ctxs hmem.ctxs).trans (.block v is is.path _) is.ctx l).trans (hm.settled l)) hstuck

end Clasp

/-- Settles O22: an operation goes out by `clasps_of`, a wait blocks its path by `claspBlocks_of`. -/
theorem claspWords : Obligations.ClaspWords := by
  refine ⟨fun m => clasps_of fun _ => rfl, fun m => clasps_of fun _ => rfl, fun m => clasps_of fun _ => rfl,
    fun m => clasps_of fun _ => rfl, fun m => ?wait, fun m => ?twait⟩
  case wait => exact claspBlocks_of (timed := false) fun _ => rfl
  case twait => exact claspBlocks_of (timed := true) fun _ => rfl

/-! ### Fences (13 R302, R305, R312; 14 R318) -/

theorem State.SameFails.acquire (s : State) (c : CtxId) (sc : Scope) : s.SameFails (s.acquire c sc) := ite (of_ctxs rfl) (refl s)

theorem State.SameFails.fenced (s : State) (is : Issue) (f : Lane → Fence) : s.SameFails (s.fenced is f) :=
  trans (of_ctxs (by rfl)) (modCtx _ is.ctx fun x => Ctx.SameFails.modLanes _ (by exact fun _ _ => rfl) x)

theorem State.SameFails.owedBegun (s : State) (is : Issue) (sc : Scope) : s.SameFails (s.owedBegun is sc) := ite (startOwed s _) (refl s)

theorem State.SameFails.fenceDrift (s : State) (cache : Nat) (sc : Scope) : s.SameFails (s.fenceDrift cache sc).1 := by
  unfold State.fenceDrift
  split
  · exact startOwed s _
  · exact refl s

section Fence
variable {m : MWord} {is : Issue} {s : State}

/-- Without drains to wait for none begins. -/
theorem State.startOwed_nil (s : State) : s.startOwed (s.owed []) = s := by
  have hnone : s.owed [] = [] := List.filter_eq_nil_iff.mpr fun _ _ => Bool.false_ne_true
  rw [hnone]
  rfl

/-- The drains that a release's lanes wait for, begun. -/
theorem startOwed_fenceOwes (is : Issue) (s : State) {ord : Ord} (sc : Scope) (h : ord.releases = true) :
    s.startOwed (s.owed ((lanesOf is.act).flatMap fun l => (is.c.lane l).fenceOwes ord sc)) = s.owedBegun is sc := by
  unfold State.owedBegun Lane.fenceOwes
  simp only [h, true_and]
  by_cases hsc : 4 ≤ sc.code
  · simp only [if_pos hsc]
  · have hnone : ((lanesOf is.act).flatMap fun _ => ([] : List (Nat × Nat × Nat))) = [] := List.flatMap_eq_nil_iff.mpr fun _ _ => rfl
    simp only [if_neg hsc, hnone]
    exact s.startOwed_nil

theorem Lane.fenceOwes_releases (x : Lane) {ord : Ord} (sc : Scope) (h : ord.releases = true) : x.fenceOwes ord sc = x.owesAt sc := by
  unfold Lane.fenceOwes Lane.owesAt
  simp only [h, true_and]

/-- What an acquire leaves. -/
theorem fenceEff_acq : fenceEff m .acq is s = some (.next ((s.acquire is.ctx m.sc).fenced is fun _ => ⟨s.opId, .acq, m.sc, false, []⟩)) := by
  have hnone : ((lanesOf is.act).flatMap fun l => (is.c.lane l).fenceOwes .acq m.sc) = [] :=
    List.flatMap_eq_nil_iff.mpr fun _ _ => if_neg fun h => Bool.false_ne_true h.1
  have hdrift : (decide (m.slot % 2 = 1) && Ord.acq.releases) = false := Bool.and_false _
  unfold fenceEff
  rw [hdrift]
  simp only [Bool.false_eq_true, if_false, hnone, State.startOwed_nil]
  rfl

/-- What a release leaves: the drains that its scope and its lanes wait for are begun. -/
theorem fenceEff_releases {ord : Ord} (h : ord.releases = true) {dr : Bool} (hdr : decide (m.slot % 2 = 1) = dr) {q : State × List (Nat × Nat × Nat)}
    (hq : (if dr then s.fenceDrift (s.cacheOf is.ctx) m.sc else (s, [])) = q) : fenceEff m ord is s =
      some (.next ((if ord.acquires then (q.1.owedBegun is m.sc).acquire is.ctx m.sc else q.1.owedBegun is m.sc).fenced is fun x =>
        ⟨q.1.opId, ord, m.sc, dr, q.2 ++ x.owesAt m.sc⟩)) := by
  unfold fenceEff
  rw [hdr, h, Bool.and_true]
  simp only [hq, startOwed_fenceOwes is _ _ h]
  simp only [Lane.fenceOwes_releases _ _ h]
  rfl

end Fence

theorem State.SameFails.acquired (s : State) (is : Issue) (sc : Scope) (f : Lane → Fence) : s.SameFails ((s.acquire is.ctx sc).fenced is f) :=
  (acquire s is.ctx sc).trans (fenced _ is f)

/-- Settles O21: an acquire by `fenceEff_acq`, the releases, with `.drift` or without, by `fenceEff_releases`. -/
theorem fencesAreRecorded : Obligations.FencesAreRecorded := by
  have hplain {m : MWord} (h : m.slot % 2 = 0) : decide (m.slot % 2 = 1) = false := decide_eq_false (by omega)
  have hdrift {m : MWord} (h : m.slot % 2 = 1) : decide (m.slot % 2 = 1) = true := decide_eq_true h
  refine ⟨fun m => ?acq, fun m hm => ?rel, fun m hm => ?acqrel, fun m hm => ?relDrift, fun m hm => ?acqrelDrift⟩
  case acq =>
    exact doesBut_of_fails_kept (fun _ => rfl) (fun is s => State.SameFails.acquired s is _ _ is.ctx) fun is s _ _ => fenceEff_acq
  case rel =>
    exact doesBut_of_fails_kept (fun _ => rfl) (fun is s => ((State.SameFails.owedBegun s is _).trans (.fenced _ is _)) is.ctx)
      fun is s _ _ => fenceEff_releases (ord := .rel) (q := (s, [])) rfl (hplain hm) rfl
  case acqrel =>
    exact doesBut_of_fails_kept (fun _ => rfl) (fun is s => ((State.SameFails.owedBegun s is _).trans (.acquired _ is _ _)) is.ctx)
      fun is s _ _ => fenceEff_releases (ord := .acqrel) (q := (s, [])) rfl (hplain hm) rfl
  case relDrift =>
    exact doesBut_of_fails_kept (fun _ => rfl)
      (fun is s => (((State.SameFails.fenceDrift s _ _).trans (.owedBegun _ is _)).trans (.fenced _ is _)) is.ctx)
      fun is s _ _ => fenceEff_releases (ord := .rel) (q := s.fenceDrift _ _) rfl (hdrift hm) rfl
  case acqrelDrift =>
    exact doesBut_of_fails_kept (fun _ => rfl)
      (fun is s => (((State.SameFails.fenceDrift s _ _).trans (.owedBegun _ is _)).trans (.acquired _ is _ _)) is.ctx)
      fun is s _ _ => fenceEff_releases (ord := .acqrel) (q := s.fenceDrift _ _) rfl (hdrift hm) rfl

end Sys2Proof.Machine
end

section
/-! O42: event-queue words, the settling of traps, and stopping (19 R405-R410). -/

set_option Elab.async false

namespace Sys2Proof.Machine

/-! ### States that keep an agent free of failed operations -/

/-- No thread of an agent has a failed operation outstanding. -/
def Ctx.Settled (x : Ctx) : Prop := ∀ l, (x.lane l).fails = []

/-- An agent without failed operations has none afterwards either. -/
def State.KeepsSettled (s t : State) : Prop := ∀ c, (s.ctx c).Settled → (t.ctx c).Settled

theorem Ctx.Settled.of_same {x y : Ctx} (h : Ctx.SameFails x y) (hx : x.Settled) : y.Settled := fun l => (h l).trans (hx l)

theorem Ctx.Settled.modLanes {x : Ctx} (hx : x.Settled) (ls : List Nat) {f : Nat → Lane → Lane}
    (hf : ∀ l y, y.fails = [] → (f l y).fails = []) : (x.modLanes ls f).Settled := by
  unfold Ctx.modLanes
  induction ls generalizing x with
  | nil => exact hx
  | cons a ls ih =>
    refine ih (x := x.modLane a (f a)) fun l => ?_
    rw [Ctx.lane_modLane]
    split
    · exact hf a _ (hx a)
    · exact hx l

namespace State.KeepsSettled

variable {s t u : State}

theorem refl (s : State) : s.KeepsSettled s := fun _ h => h

theorem trans (h : s.KeepsSettled t) (k : t.KeepsSettled u) : s.KeepsSettled u := fun c hc => k c (h c hc)

theorem of_same (h : s.SameFails t) : s.KeepsSettled t := fun c hc => hc.of_same (h c)

theorem ite {p : Prop} [Decidable p] {a b : State} (ha : s.KeepsSettled a) (hb : s.KeepsSettled b) :
    s.KeepsSettled (if p then a else b) := by
  split
  · exact ha
  · exact hb

theorem foldl {α : Type} {f : State → α → State} (h : ∀ (s : State) x, s.KeepsSettled (f s x)) (l : List α) :
    ∀ s : State, s.KeepsSettled (l.foldl f s) := by
  induction l with
  | nil => exact refl
  | cons x l ih => exact fun s => (h s x).trans (ih _)

theorem modCtx (s : State) (c : CtxId) {f : Ctx → Ctx} (h : ∀ x : Ctx, x.Settled → (f x).Settled) : s.KeepsSettled (s.modCtx c f) := by
  intro k hk
  by_cases hc : ctxKey k = ctxKey c
  · have hctx : ∀ v : State, v.ctx k = v.ctx c := fun v => by unfold State.ctx; rw [hc]
    rw [hctx, State.ctx_modCtx_same]
    exact h _ (hctx s ▸ hk)
  · rw [State.ctx_modCtx_ne _ _ hc]
    exact hk

/-- A failure that is settled leaves no other behind. -/
theorem parkFail (s : State) (c : CtxId) (m : Word64) (f : Fail) : s.KeepsSettled (s.parkFail c m f) := by
  have hmod := modCtx s c (f := fun x => x.modLanes (lanesOf m) fun _ y => { y with fails := y.fails.filter fun g => !f.like g })
    fun x hx => hx.modLanes _ fun _ y hy => by simp [hy]
  unfold State.parkFail
  extract_lets s1 x y t rec0 q
  have hpark : s1.SameFails (s1.park c m t y.hdr y.idx).1 := .park s1 c m t y.hdr y.idx
  refine hmod.trans (of_same (.ite (.gangTrap s1 c m _ _ _) ?_))
  generalize s1.park c m t y.hdr y.idx = p at hpark ⊢
  obtain ⟨u, _ | _⟩ := p <;> exact hpark.trans (.postFault u _ _ _)

theorem parkAtRb (s : State) (c : CtxId) : s.KeepsSettled (s.parkAtRb c) := by
  refine foldl (fun u l => ?_) _ s
  dsimp only
  split
  · exact ite (parkFail u c _ _) (refl u)
  · exact refl u

theorem endThreads (s : State) (c : CtxId) (m : Word64) : s.KeepsSettled (s.endThreads c m) := by
  have hposted : s.KeepsSettled (s.exitsPosted c m) := foldl (fun u f => of_same (.postFault u _ _ _)) _ s
  have hended : (s.exitsPosted c m).KeepsSettled ((s.exitsPosted c m).endedLanes c m) := fun k hk l => by
    rw [State.endedLanes_lane]
    split
    · rfl
    · exact hk l
  rw [State.endThreads_eq]
  exact ((hposted.trans hended).trans (parkAtRb _ c)).trans (of_same ((State.SameFails.settle _ c).trans (.noteTriggers _)))

end State.KeepsSettled

/-! ### The settling of sub-gangs (17 R368; 19 R409) -/

theorem State.SameFails.giveSlots (s : State) (c : CtxId) (only : SubState → Bool) : s.SameFails (s.giveSlots c only) := by
  refine foldl (fun u j => ?_) _ s
  refine ite ?_ (refl u)
  split
  · exact setCtx u (Ctx.SameFails.setSub _ _ _)
  · exact ite (setCtx u (Ctx.SameFails.setSub _ _ _)) (refl u)

theorem State.SameFails.goOn (s : State) (c : CtxId) (j : Nat) (skip : Bool) : s.SameFails (s.goOn c j skip) := by
  unfold State.goOn
  refine trans (trans ?_ (giveSlots _ c _)) (settle _ c)
  dsimp only
  split
  · exact setCtx s (Ctx.SameFails.setSub _ _ _)
  next hdr idx fresh _ =>
    have hmoved := setCtx s (c := c) (Ctx.SameFails.trans (Ctx.SameFails.setSub (s.ctx c) j { (s.ctx c).sub j with st := .resumed })
      (Ctx.SameFails.modLanes ((s.ctx c).subLanes j) (f := fun _ y => { y with
          hdr := hdr
          idx := idx
          hw := none
          fresh := fresh
          rewound := false
          holds := if (decide (¬((s.ctx c).sub j).atHeader) && (skip || trapNext ((s.ctx c).sub j).code)) = true then passHolds y.holds
            else y.holds })
        (fun _ _ => rfl) _))
    split
    · exact hmoved.trans (of_staysAt (StaysAt.arrive _ c _ _))
    · exact hmoved

theorem State.KeepsSettled.settleSub (s : State) (c : CtxId) (j act : Nat) : s.KeepsSettled (s.settleSub c j act) := by
  refine ite ?_ (of_same (.goOn s c j _))
  refine (endThreads s c _).trans (ite (of_same ?_) (refl _))
  exact (State.SameFails.modCtx _ c Ctx.SameFails.dropSubs).trans (.settle _ c)

/-- A byte pattern stored at the home leaves every thread's failed operations. -/
theorem State.SameFails.homeWrite (s : State) (pa : Nat) (bs : List Byte) : s.SameFails (s.homeWrite pa bs) := of_ctxs (s.homeWrite_ctxs pa bs)

theorem State.SameFails.dropHold (s : State) (gid j : Nat) : s.SameFails (s.dropHold gid j) := of_ctxs rfl

theorem State.KeepsSettled.trapret (s : State) (gid j act : Nat) : s.KeepsSettled (s.trapret gid j act).1 := by
  unfold State.trapret
  split
  · dsimp only
    split
    · exact refl s
    · split
      · exact refl s
      · exact of_same (((State.SameFails.dropHold s gid j).trans (.homeWrite _ _ _)).trans (.of_ctxs rfl))
  · dsimp only
    split
    · exact (of_same (.dropHold s gid j)).trans (settleSub _ _ j act)
    · exact refl s

/-- A word with a participant whose effect does not come to pass where its condition holds waits there. -/
theorem waits_of_act {i : Instr} {lat : Nat} {eff : Issue → State → Option Done} {pre : Issue → State → Prop}
    (he : ∀ s, exec i s = issueWith i lat eff s) (h : ∀ is s, is.act ≠ 0 → pre is s → eff is s = none) : Waits i pre := by
  intro s r hr _ hm ha hp
  rw [he, issueWith_go hr hm, if_neg (act_ne_zero ha), h _ s (act_ne_zero ha) hp]

section TrapWords
variable {i : Instr} {t : TWord} {act : Nat} {is : Issue} {s : State}

/-- A word that settles a sub-gang, its status on every active lane. -/
theorem does_trapret (he : ∀ s, exec i s = issueWith i 0 (trapretEff t act) s) : Does i always fun is s =>
    (s.trapret (is.src s false t.a is.first) (is.src s false t.b is.first) act).1.putAll is t.d 1
      (s.trapret (is.src s false t.a is.first) (is.src s false t.b is.first) act).2 := by
  intro s r hr _ hm ha _ hu
  refine exec_passes (b := false) (he s) hr hm ha ?_ (fun l => ?_) hu
  · rw [trapretEff, lowestLane_eq_first (act_ne_zero ha)]
    rfl
  · exact ((State.KeepsSettled.trapret s _ _ act).trans (.of_same (.land _ _ _))) _ hm.settled l

end TrapWords

/-- wfi: the agent waits where its own queue is empty (19 R410). -/
theorem exec_wfi (t : TWord) (s : State) : exec (.wfi t) s = issueWith (.wfi t) 0 (fun is s =>
    some (.next (if s.evqUsed (s.colOf is.ctx) = 0 then s.modCtx is.ctx fun c => { c with run := .wfi } else s))) s := rfl

/-! ### Event queues (19 R405-R407) -/

section Queues
variable {t : TWord} {is : Issue} {s : State}

/-- evq.pop of a queue that is not the column's own traps. -/
theorem evqPopEff_traps (ha : is.act ≠ 0) (h : ¬ (is.src s false t.a is.first < 256 ∧
      field (s.sysGet SysReg.evqctl (is.src s false t.a is.first)) 59 54 = s.colOf is.ctx ∧ s.evqOn (is.src s false t.a is.first) = true)) :
    evqPopEff t is s = some (is.sourceTrap s is.first 0x09 255 0) := by
  rw [evqPopEff, lowestLane_eq_first ha]
  refine if_pos ?_
  simp only [not_and_or, not_lt, Bool.not_eq_true] at h
  simpa only [Bool.not_eq_true'] using h

/-- evq.pop of the column's own queue, its checks passed. -/
theorem evqPopEff_own (ha : is.act ≠ 0) (h : is.src s false t.a is.first < 256 ∧
      field (s.sysGet SysReg.evqctl (is.src s false t.a is.first)) 59 54 = s.colOf is.ctx ∧ s.evqOn (is.src s false t.a is.first) = true) :
    evqPopEff t is s =
      let q := is.src s false t.a is.first
      if s.evqUsed q = 0 then some (.next (s.putAll is t.d 8 0))
      else
        let a := s.evqEntry q (s.evqHead q)
        if !okRange a 32 then some (.next { s with stuck := some .absentMemory })
        else if s.lineHeld (s.cacheOf is.ctx) .nc a 32 then none
        else
          let s1 := ((s.readHome a 32).acquire is.ctx .module).putAll is t.d 8 (s.hwNat a 32)
          let ctl := s1.sysGet SysReg.evqctl q
          some (.next ((s1.sysPut SysReg.evqctl q (setField ctl 15 0 ((field ctl 15 0 + 1) % 65536))).movedHead q)) := by
  rw [evqPopEff, lowestLane_eq_first ha]
  refine if_neg ?_
  obtain ⟨hq, hcol, hon⟩ := h
  simp only [hcol, hon, not_or]
  exact ⟨by omega, not_not.mpr rfl, by decide⟩

/-- evq.post's checks, in their order. -/
theorem evqPostEff_eq (ha : is.act ≠ 0) : evqPostEff t is s =
    let q := is.src s false t.a is.first
    if 256 ≤ q then some (is.sourceTrap s is.first 0x09 255 0)
    else if !s.isSup is.ctx && !(s.sysGet SysReg.evqctl q).getLsbD 61 then some (.held (s.allTrap is 0x0B 255) is.act)
    else if !s.evqOn q then some (is.sourceTrap s is.first 0x09 255 0)
    else if !s.released is.ctx (1#64 <<< is.first) .module then s.drainFirst is (1#64 <<< is.first) .module
    else
      let a : Word64 := BitVec.ofNat 64 (is.c.pair is.first (dstSrc t.d))
      let b : Word64 := BitVec.ofNat 64 (is.c.pair is.first (dstSrc t.d + 2))
      some (.next (s.postEvent q (s.colOf is.ctx) 0x88 0 0 (is.c.lane is.first).tid.toNat a b)) := by
  rw [evqPostEff, lowestLane_eq_first ha]
  rfl

/-- The lane may post to the queue. -/
def mayPost (t : TWord) (is : Issue) (s : State) : Prop :=
  is.src s false t.a is.first < 256 ∧
    (s.isSup is.ctx = true ∨ (s.sysGet SysReg.evqctl (is.src s false t.a is.first)).getLsbD 61 = true) ∧
    s.evqOn (is.src s false t.a is.first) = true

theorem evqPostEff_may (ha : is.act ≠ 0) (h : mayPost t is s) : evqPostEff t is s =
    if !s.released is.ctx (1#64 <<< is.first) .module then s.drainFirst is (1#64 <<< is.first) .module
    else
      let a : Word64 := BitVec.ofNat 64 (is.c.pair is.first (dstSrc t.d))
      let b : Word64 := BitVec.ofNat 64 (is.c.pair is.first (dstSrc t.d + 2))
      some (.next (s.postEvent (is.src s false t.a is.first) (s.colOf is.ctx) 0x88 0 0 (is.c.lane is.first).tid.toNat a b)) := by
  obtain ⟨hq, hlevel, hon⟩ := h
  have hlevel : ¬ (!s.isSup is.ctx && !(s.sysGet SysReg.evqctl (is.src s false t.a is.first)).getLsbD 61) = true := by
    rcases hlevel with h | h <;> simp [h]
  rw [evqPostEff_eq ha]
  dsimp only
  rw [if_neg (by omega), if_neg hlevel, if_neg (by simp [hon])]

end Queues

/-- What reading the entry at HEAD and moving HEAD leaves. -/
theorem State.SameFails.popped (s : State) (is : Issue) (d : Dst) (a n v q : Nat) (w : State → Word64) :
    s.SameFails (((((s.readHome a n).acquire is.ctx .module).putAll is d 8 v).sysPut SysReg.evqctl q
      (w (((s.readHome a n).acquire is.ctx .module).putAll is d 8 v))).movedHead q) := by
  have hread : s.SameFails (s.readHome a n) := of_ctxs (s.readHome_ctxs a n)
  exact (((hread.trans (acquire _ _ _)).trans (land _ _ _)).trans (sysPut _ _ _ _)).trans (ite (flushThrottle _ q) (refl _))

/-- Settles O42: evq.pop by `evqPopEff_own`, evq.post by `evqPostEff_eq`, trapret by `does_trapret`; halt and wfi change the agent's run state. -/
theorem eventAndTrapWords : Obligations.EventAndTrapWords := by
  refine ⟨fun t => ?popEmpty, fun t => ?pop, fun t => ?popWaits, fun t => ?popTraps, fun t g hd => ?post, fun t => ?postRange,
    fun t => ?postPrivileged, fun t => ?postWaits, fun t => ?postDrains, fun t => ?postOff, fun t => does_trapret fun _ => rfl,
    fun t => does_trapret fun _ => rfl, fun t => does_trapret fun _ => rfl, fun t => ?halt, fun t => ?wfi, fun t => ?wfiOn⟩
  case popEmpty =>
    refine doesBut_of_fails_kept (fun _ => rfl) (fun is s => State.SameFails.land s _ _ is.ctx) fun is s ha ⟨hown, hnone⟩ => ?_
    rw [evqPopEff_own ha hown]
    exact if_pos hnone
  case pop =>
    refine doesBut_of_fails_kept (fun _ => rfl) (fun is s => State.SameFails.popped s is _ _ _ _ _ (fun s1 =>
      setField (s1.sysGet SysReg.evqctl _) 15 0 ((field (s1.sysGet SysReg.evqctl _) 15 0 + 1) % 65536)) is.ctx)
      fun is s ha ⟨hown, hsome, hok, hfree⟩ => ?_
    rw [evqPopEff_own ha hown]
    dsimp only
    rw [if_neg hsome, hok, if_neg (by decide), hfree, if_neg (by decide)]
    rfl
  case popWaits =>
    refine waits_of_act (fun _ => rfl) fun is s ha ⟨hown, hsome, hok, hheld⟩ => ?_
    rw [evqPopEff_own ha hown]
    dsimp only
    rw [if_neg hsome, hok, if_neg (by decide), hheld, if_pos rfl]
  case popTraps => exact firstTraps_of (fun _ => rfl) fun is s ha h => evqPopEff_traps ha h
  case post =>
    refine doesBut_of_fails_kept (fun _ => rfl) (fun is s => State.SameFails.post s _ _ _ is.ctx) fun is s ha ⟨hmay, hrel⟩ => ?_
    rw [evqPostEff_may ha hmay, hrel, hd]
    rfl
  case postRange =>
    refine firstTraps_of (fun _ => rfl) fun is s ha h => ?_
    rw [evqPostEff_eq ha]
    exact if_pos h
  case postPrivileged =>
    refine doesBut_of_fails_kept (fun _ => rfl) (fun is s => State.SameFails.takeTrap s _ _ _ _ _ _ is.ctx) fun is s ha ⟨hq, hsup, hbit⟩ => ?_
    rw [evqPostEff_eq ha]
    dsimp only
    rw [if_neg (by omega), hsup, hbit]
    rfl
  case postWaits =>
    refine waits_of_act (fun _ => rfl) fun is s ha ⟨hmay, hrel, hall⟩ => ?_
    rw [evqPostEff_may ha hmay, hrel]
    refine (if_pos rfl).trans (if_neg fun hany => ?_)
    obtain ⟨d, hd, hdr⟩ := List.any_eq_true.mp hany
    rw [hall d hd] at hdr
    exact Bool.false_ne_true hdr
  case postDrains =>
    refine doesBut_of_fails_kept (fun _ => rfl) (fun is s => State.SameFails.startOwed s _ is.ctx) fun is s ha ⟨hmay, hrel, d, hd, hdr⟩ => ?_
    rw [evqPostEff_may ha hmay, hrel]
    exact if_pos (List.any_eq_true.mpr ⟨d, hd, by rw [hdr]; rfl⟩)
  case postOff =>
    refine firstTraps_of (fun _ => rfl) fun is s ha ⟨hq, hlevel, hoff⟩ => ?_
    have hlevel : ¬ (!s.isSup is.ctx && !(s.sysGet SysReg.evqctl (is.src s false t.a is.first)).getLsbD 61) = true := by
      rcases hlevel with h | h <;> simp [h]
    rw [evqPostEff_eq ha]
    dsimp only
    rw [if_neg (by omega), if_neg hlevel, hoff]
    rfl
  case halt =>
    exact doesBut_of_fails_kept (fun _ => rfl)
      (fun is s => State.SameFails.modCtx s is.ctx (f := fun c => { c with run := .halted }) (fun _ _ => rfl) is.ctx) fun _ _ _ _ => rfl
  case wfi =>
    refine doesBut_of_fails_kept (exec_wfi t) (fun is s =>
      State.SameFails.modCtx s is.ctx (f := fun c => { c with run := .wfi }) (fun _ _ => rfl) is.ctx)
      fun is s _ h => ?_
    rw [if_pos h]
    rfl
  case wfiOn =>
    refine doesBut_of_fails_kept (exec_wfi t) (fun is s _ => rfl) fun is s _ h => ?_
    rw [if_neg h]
    rfl

end Sys2Proof.Machine
end

section
/-! O45: errinj, pm.req and sec.call (19 R413, R414; 20 R419, R424-R426, R430). -/

set_option Elab.async false

namespace Sys2Proof.Machine

/-! ### What requests and services leave -/

theorem State.SameFails.startSave (s : State) (gid bits wkey : Nat) : s.SameFails (s.startSave gid bits wkey) := by
  unfold State.startSave
  refine ite (refl s) ?_
  split
  · exact refl s
  · exact trans (of_ctxs (by rfl)) (modCtx _ _ fun _ _ => rfl)

theorem State.SameFails.quiesceColumn (s : State) (by_ col : Nat) (force : Bool) : s.SameFails (s.quiesceColumn by_ col force).1 := by
  unfold State.quiesceColumn
  split
  · exact refl s
  · refine trans (of_ctxs (by rfl)) (ite (foldl (fun u g => startSave u g 8 0) _ _) (refl _))

theorem State.SameFails.releaseColumn (s : State) (col : Nat) : s.SameFails (s.releaseColumn col).1 := by
  unfold State.releaseColumn
  split <;> exact of_ctxs rfl

theorem State.SameFails.attest (s : State) (pa : Nat) : s.SameFails (s.attest pa).1 := by
  unfold State.attest
  split
  · exact refl s
  · exact trans (of_ctxs (by rfl)) (homeWrite _ _ _)

theorem State.SameFails.deriveKey (s : State) (v : Nat) : s.SameFails (s.deriveKey v).1 := by
  unfold State.deriveKey
  split <;> exact of_ctxs rfl

theorem State.SameFails.authDebug (s : State) (pa : Nat) : s.SameFails (s.authDebug pa).1 := by
  unfold State.authDebug
  split
  · exact of_ctxs rfl
  · dsimp only
    generalize s.tokenOk _ = ok
    cases ok <;> exact of_ctxs rfl

theorem State.SameFails.debugChallenge (s : State) (pa : Nat) : s.SameFails (s.debugChallenge pa).1 := by
  unfold State.debugChallenge
  split
  · exact refl s
  · exact ((of_ctxs (by rfl) : s.SameFails (s.freeBytes 32).1).trans (homeWrite _ _ _)).trans (of_ctxs (by rfl))

theorem State.SameFails.dropCore (s : State) (n : Nat) (e : HoldEntry) : s.SameFails (s.dropCore n e) :=
  (modCtx s (.cc n) (f := fun c => c.modLane 0 fun y => { y with stalled := none }) fun x => Ctx.SameFails.modLane x 0 fun _ => rfl).trans
    (takeTrap _ _ _ _ _ _ _)

theorem State.SameFails.lockDebug (s : State) : s.SameFails s.lockDebug :=
  (foldl (fun u e => ite (dropCore u _ e) (postFault u _ _ _)) _ s).trans (of_ctxs (by rfl))

/-! ### What the words answer -/

section Answers
variable {i : Instr} {q : QWord} {is : Issue} {s : State}

/-- An injection is armed or disarmed at once. -/
theorem does_errinj {arr mode bt : Nat} (he : ∀ s, exec i s = issueWith i 0 (errinjEff q arr mode bt) s) : Does i always fun is s =>
    let col := field (s.sysGet SysReg.errsel 0) 11 6
    let core := if perCoreArr arr then is.src s false q.b is.first % 4 else 0
    { s with ev := { s.ev with inject :=
      (s.ev.inject.filter fun i => !decide (i.arr = arr ∧ i.col = col ∧ i.core = core ∧ i.stage = 0)) ++
        if mode = 0 then [] else [⟨arr, col, core, is.src s true q.a is.first, mode, bt, 0, 0⟩] } } :=
  doesBut_of_fails_kept he (fun _ _ _ => rfl) fun is s ha _ => by
    rw [errinjEff, lowestLane_eq_first ha]
    rfl

/-- A power request is answered on every active lane. -/
theorem does_pmReq {f : State → Nat → Nat → State × Nat} (he : ∀ s, exec i s = issueWith i 0 (pmEff q f) s)
    (hf : ∀ (s : State) col v, s.SameFails (f s col v).1) : Does i always fun is s =>
      (f s (s.colOf is.ctx) (is.src s false q.a is.first)).1.putAll is q.d 1 (f s (s.colOf is.ctx) (is.src s false q.a is.first)).2 :=
  doesBut_of_fails_kept he (fun is s => ((hf s _ _).trans (.land _ _ _)) is.ctx) fun is s ha _ => by
    rw [pmEff, lowestLane_eq_first ha]
    rfl

/-- The module's demand set (20 R419). -/
def State.demandSet (s : State) (_ v : Nat) : State × Nat := ({ s with pw := { s.pw with demand := clampDemand (bitsOf v 15 0) } }, 0)

/-- A service of Cameo is answered on every active lane. -/
theorem does_secCall {f : State → Nat → State × Nat} (he : ∀ s, exec i s = issueWith i 0 (secEff q f) s)
    (hf : ∀ (s : State) v, s.SameFails (f s v).1) : Does i always fun is s =>
      (f s (is.src s true q.a is.first)).1.putAll is q.d 2 (f s (is.src s true q.a is.first)).2 :=
  doesBut_of_fails_kept he (fun is s => ((hf s _).trans (.land _ _ _)) is.ctx) fun is s ha _ => by
    rw [secEff, lowestLane_eq_first ha]
    rfl

end Answers

/-- The register that a word's DST names. -/
theorem dstOf_eq_dstReg (d : Dst) : dstOf d = dstReg? d := by cases d <;> rfl

/-- pm.req.enter.m2: the column core waits for the answer (20 R419). -/
theorem exec_pmReqEnterM2 (q : QWord) (s : State) : exec (.pmReqEnterM2 q) s = issueWith (.pmReqEnterM2 q) 0 (fun is s =>
    some (.held { s.block is is.path fun _ => .op s.opId is.path with
      opId := s.opId + 1
      pw := { s.pw with m2by := s.pw.m2by ++ [(s.colOf is.ctx, dstOf q.d)] } } is.path)) s := rfl

/-- Settles O45: each word's effect answers what its request gives, and every request keeps the failed operations. -/
theorem errorPowerAndSecurityWords : Obligations.ErrorPowerAndSecurityWords := by
  refine ⟨fun q arr bt => does_errinj fun _ => rfl, fun q arr bt => does_errinj fun _ => rfl, fun q arr bt => does_errinj fun _ => rfl,
    fun q => does_pmReq (f := fun s by_ v => s.quiesceColumn by_ (bitsOf v 5 0) (v.testBit 8)) (fun _ => rfl) fun s _ _ => .quiesceColumn s _ _ _,
    fun q => does_pmReq (f := fun s _ v => s.releaseColumn (bitsOf v 5 0)) (fun _ => rfl) fun s _ _ => .releaseColumn s _,
    fun q => does_pmReq (f := State.demandSet) (fun _ => rfl) fun _ _ _ => .of_ctxs rfl, fun q => ?enterM2,
    fun q => does_secCall (fun _ => rfl) fun s _ => .refl s, fun q => does_secCall (fun _ => rfl) .attest,
    fun q => does_secCall (fun _ => rfl) .deriveKey, fun q => does_secCall (fun _ => rfl) fun _ _ => .of_ctxs rfl,
    fun q => does_secCall (fun _ => rfl) .authDebug, fun q => does_secCall (fun _ => rfl) .debugChallenge,
    fun q => does_secCall (fun _ => rfl) fun s _ => .lockDebug s,
    fun q svc => does_secCall (f := fun s _ => (s, secUnknown)) (fun _ => rfl) fun s _ => .refl s⟩
  case enterM2 =>
    refine doesBut_of_fails_kept (exec_pmReqEnterM2 q) (fun is s => ?_) fun is s _ _ => ?_
    · exact (State.SameFails.block s is is.path fun _ => .op s.opId is.path).trans (.of_ctxs rfl) is.ctx
    · rw [← dstOf_eq_dstReg]
      rfl

end Sys2Proof.Machine
end

section
/-! O39, O40: matrix words and the words of collectives, by what their effects answer on the source lane (12 R274, R281, R282, R290-R293;
14 R445; 16 R359, R360). -/

set_option Elab.async false

namespace Sys2Proof.Machine

/-! ### Matrix commands (12 R274) -/

theorem State.SameFails.queueMatrix (s : State) (is : Issue) (l aslot stage : Nat) (kind : MCmdKind) (clasp : Option ClaspRef) :
    s.SameFails (s.queueMatrix is l aslot stage kind clasp) := of_ctxs rfl

/-- A full queue, or a launch whose commands are held. -/
theorem mxFull_of_full {is : Issue} {s : State} (h : 16 ≤ (s.mcmds is.c.core).length ∨ s.quiesced is.c.handle = true) : s.mxFull is = true := by
  simpa [State.mxFull] using h

theorem mshapeEff_full {q : QWord} {is : Issue} {s : State} (h : s.mxFull is = true) : mshapeEff q is s = none := by
  unfold mshapeEff
  cases lowestLane is.act with
  | none => rfl
  | some l => exact if_pos h

theorem mshapeEff_queues {q : QWord} {is : Issue} {s : State} (ha : is.act ≠ 0) (hroom : s.mxFull is = false) :
    mshapeEff q is s = some (.next (s.queueMatrix is is.first 255 0 (.shape (is.src s false q.a is.first)) none)) := by
  rw [mshapeEff, lowestLane_eq_first ha, Option.bind_some, hroom]
  rfl

/-! ### mwld (12 R291) -/

/-- The operands of an mwld: its weights, and of BX4 its scales. -/
def weightOps (wn sn : Nat) (fmt : MFmt) : List (Nat × Nat) := if fmt = .bx4 then [(wn, fmt.es), (sn, 0)] else [(wn, fmt.es)]

/-- An operand of an mwld that passes its checks. -/
structure Issue.Weights (is : Issue) (s : State) (o : Nat × Nat) : Prop where
  valid : Rec256.valid (is.rec_ o.1) = true
  fits : s.operandBad (s.who is.ctx) (is.rec_ o.1) o.2 [1, 2, 3] = false
  readable : Rec256.wo (is.rec_ o.1) = false

/-- The checks of an mwld, as a statement of each of its operands. -/
theorem weights_of {is : Issue} {s : State} {wn sn : Nat} {fmt : MFmt} (h : Rec256.valid (is.rec_ wn) = true ∧
      s.operandBad (s.who is.ctx) (is.rec_ wn) fmt.es [1, 2, 3] = false ∧ Rec256.wo (is.rec_ wn) = false ∧
      (fmt = .bx4 → Rec256.valid (is.rec_ sn) = true ∧ s.operandBad (s.who is.ctx) (is.rec_ sn) 0 [1, 2, 3] = false ∧
        Rec256.wo (is.rec_ sn) = false)) : ∀ o ∈ weightOps wn sn fmt, is.Weights s o := by
  obtain ⟨hvalid, hfits, hread, hscales⟩ := h
  intro o ho
  unfold weightOps at ho
  split at ho
  next hbx =>
    obtain ⟨hsvalid, hsfits, hsread⟩ := hscales hbx
    rcases List.mem_pair.mp ho with rfl | rfl
    · exact ⟨hvalid, hfits, hread⟩
    · exact ⟨hsvalid, hsfits, hsread⟩
  next =>
    obtain rfl := List.mem_singleton.mp ho
    exact ⟨hvalid, hfits, hread⟩

/-- An mwld takes the next stage in turn. -/
def State.loadWeights (s : State) (is : Issue) (wn sn : Nat) (fmt : MFmt) (kn : Nat) (ref : Option ClaspRef) : State :=
  let n := SMap.get 0 s.mx.loads is.c.core + 1
  ({ s with mx := { s.mx with loads := SMap.set 0 s.mx.loads is.c.core n } } : State).queueMatrix is is.first wn (n % 2)
    (.load fmt (kn + 1) (is.rec_ wn) (is.rec_ sn)) ref

theorem State.SameFails.loadWeights (s : State) (is : Issue) (wn sn : Nat) (fmt : MFmt) (kn : Nat) (ref : Option ClaspRef) :
    s.SameFails (s.loadWeights is wn sn fmt kn ref) := of_ctxs rfl

section Load
variable {q : QWord} {wn sn : Nat} {fmt : MFmt} {kn : Nat} {is : Issue} {s : State}

theorem mwldEff_full {cl : Option Nat} (h : s.mxFull is = true) : mwldEff q wn sn cl fmt kn is s = none := by
  unfold mwldEff
  cases lowestLane is.act with
  | none => rfl
  | some l => exact if_pos h

/-- No slot of an mwld whose operands pass names a record that is not valid. -/
theorem weights_valid {cl : Option Nat} (hops : ∀ o ∈ weightOps wn sn fmt, is.Weights s o) (hcl : ∀ n ∈ cl, Rec256.valid (is.rec_ n) = true) :
    (((weightOps wn sn fmt).map Prod.fst ++ cl.toList).find? fun n => !Rec256.valid (is.c.recSlot is.sub n)) = none := by
  refine List.find?_eq_none.mpr fun n hn => ?_
  have hrec : Rec256.valid (is.rec_ n) = true := by
    rcases List.mem_append.mp hn with hn | hn
    · obtain ⟨o, ho, rfl⟩ := List.mem_map.mp hn
      exact (hops o ho).valid
    · exact hcl n (Option.mem_toList.mp hn)
  simpa [Issue.rec_] using hrec

theorem weights_fit (hops : ∀ o ∈ weightOps wn sn fmt, is.Weights s o) :
    ((weightOps wn sn fmt).find? fun o => s.operandBad (s.who is.ctx) (is.c.recSlot is.sub o.1) o.2 [1, 2, 3]) = none :=
  List.find?_eq_none.mpr fun o ho => by simpa [Issue.rec_] using (hops o ho).fits

theorem weights_read (hops : ∀ o ∈ weightOps wn sn fmt, is.Weights s o) :
    ((weightOps wn sn fmt).find? fun o => Rec256.wo (is.c.recSlot is.sub o.1)) = none :=
  List.find?_eq_none.mpr fun o ho => by simpa [Issue.rec_] using (hops o ho).readable

/-- An mwld without a clasp is queued. -/
theorem mwldEff_queues (ha : is.act ≠ 0) (hroom : s.mxFull is = false) (hops : ∀ o ∈ weightOps wn sn fmt, is.Weights s o) :
    mwldEff q wn sn none fmt kn is s = some (.next (s.loadWeights is wn sn fmt kn none)) := by
  have hvalid := weights_valid (cl := none) hops (by simp)
  have hfits := weights_fit hops
  have hread := weights_read hops
  rw [weightOps] at hvalid hfits hread
  rw [mwldEff, lowestLane_eq_first ha, Option.bind_some, hroom, if_neg Bool.false_ne_true]
  dsimp only
  rw [hvalid]
  dsimp only
  rw [hfits]
  dsimp only
  rw [hread]
  rfl

/-- An mwld whose clasp is found is queued with it. -/
theorem mwldEff_queues_clasp {cl : Nat} {v : State} {ref : ClaspRef} (ha : is.act ≠ 0) (hroom : s.mxFull is = false)
    (hops : ∀ o ∈ weightOps wn sn fmt, is.Weights s o) (hcl : Rec256.valid (is.rec_ cl) = true)
    (hclasp : s.claspFound is cl (sext 32 (is.src s false q.a is.first)) (sext 32 (is.src s false q.b is.first)) v ref) :
    mwldEff q wn sn (some cl) fmt kn is s = some (.next (v.loadWeights is wn sn fmt kn (some ref))) := by
  have hvalid := weights_valid (cl := some cl) hops (by simpa using hcl)
  have hfits := weights_fit hops
  have hread := weights_read hops
  obtain ⟨pa, tgt, hclasp⟩ := hclasp
  rw [weightOps] at hvalid hfits hread
  unfold Issue.rec_ at hclasp
  rw [mwldEff, lowestLane_eq_first ha, Option.bind_some, hroom, if_neg Bool.false_ne_true]
  dsimp only
  rw [hvalid]
  dsimp only
  rw [hfits]
  dsimp only
  rw [hread]
  dsimp only
  rw [hclasp]
  rfl

end Load

/-! ### mmac (12 R280-R282, R292) -/

/-- The checks of an mmac's records and of its clasp leave every agent as it was. -/
theorem State.macChecks_ctxs (s : State) (is : Issue) (b : List Byte) : (s.macChecks is b).1.ctxs = s.ctxs := by
  have hite {p : Prop} [Decidable p] {x y : State × Found × Option ClaspRef} (hx : x.1.ctxs = s.ctxs) (hy : y.1.ctxs = s.ctxs) :
      (if p then x else y).1.ctxs = s.ctxs := by
    split
    · exact hx
    · exact hy
  unfold State.macChecks
  refine hite rfl ?_
  split
  · rfl
  · refine hite rfl (hite rfl (hite rfl (hite rfl (hite rfl (hite rfl ?_)))))
    exact (State.OnlyMemory.checkClasp s (s.who is.ctx) _ _ _ true false).ctxs

theorem Ctx.SameFails.emptyAcc (c : Ctx) (acc m : Nat) : Ctx.SameFails c (c.emptyAcc acc m) := by
  have hlane (l : Nat) : ∀ (is : List Nat) (c : Ctx), Ctx.SameFails c (is.foldl (fun (c : Ctx) i => c.markEmpty l (acc + i)) c) := fun is => by
    induction is with
    | nil => exact fun _ _ => rfl
    | cons i is ih => exact fun c => (Ctx.SameFails.of_lanes rfl).trans (ih (c.markEmpty l (acc + i)))
  have hall : ∀ (ls : List Nat) (c : Ctx), Ctx.SameFails c
      (ls.foldl (fun (c : Ctx) l => (List.range (2 * m)).foldl (fun (c : Ctx) i => c.markEmpty l (acc + i)) c) c) := fun ls => by
    induction ls with
    | nil => exact fun _ _ => rfl
    | cons l ls ih => exact fun c => (hlane l _ c).trans (ih _)
  exact hall _ c

section Mac
variable {q : QWord} {is : Issue} {s v : State} {base size pa tgt : Nat} {ref : Option ClaspRef}

theorem mmacEff_full (h : s.mxFull is = true) : mmacEff q is s = none := by
  unfold mmacEff
  cases lowestLane is.act with
  | none => rfl
  | some l => exact if_pos h

/-- The arguments of an mmac's block. -/
def Issue.macArgs (is : Issue) (b : List Byte) : MacArgs :=
  ⟨descNat b 2 1, descNat b 3 1, descNat b 4 1, decide (descNat b 5 1 % 2 = 1), (MFmt.ofCode (descNat b 1 1)).getD .bf16,
    sext 32 (descNat b 8 4), sext 32 (descNat b 12 4), is.rec_ (descNat b 0 1 % 16), is.rec_ (descNat b 0 1 / 16), descNat b 7 1, descNat b 24 4⟩

/-- An mmac entered, its accumulator marked empty. -/
def State.startMac (v : State) (is : Issue) (b : List Byte) (ref : Option ClaspRef) : State :=
  let a := is.macArgs b
  let st := v.accState is a.acc a.m a.zero
  (v.queueMatrix is is.first (descNat b 0 1 % 16) 0
    (.mac a (if st = .chained then [] else is.c.accInit a.acc a.m a.zero) (decide (st = .chained))) ref).modCtx is.ctx fun c => c.emptyAcc a.acc a.m

theorem State.SameFails.startMac (v : State) (is : Issue) (b : List Byte) (ref : Option ClaspRef) : v.SameFails (v.startMac is b ref) :=
  (queueMatrix v is _ _ _ _ _).trans (modCtx _ is.ctx fun x => Ctx.SameFails.emptyAcc x _ _)

/-- An mmac whose block's checks pass, and whose accumulator does not block, enters. -/
theorem mmacEff_queues (ha : is.act ≠ 0) (hroom : s.mxFull is = false) (harena : s.arena is.c.handle is.c.core = some (base, size))
    (hal : is.src s false q.a is.first % 64 = 0) (hin : is.src s false q.a is.first + 64 ≤ size)
    (hchecks : s.macChecks is (s.bytesAt (scratch is.c.core (base + is.src s false q.a is.first)) 64) = (v, .ok pa tgt, ref)) :
    let b := s.bytesAt (scratch is.c.core (base + is.src s false q.a is.first)) 64
    v.accState is (is.macArgs b).acc (is.macArgs b).m (is.macArgs b).zero ≠ .blocked → mmacEff q is s = some (.next (v.startMac is b ref)) := by
  intro b hst
  rw [mmacEff, lowestLane_eq_first ha, Option.bind_some, hroom, if_neg Bool.false_ne_true]
  dsimp only
  rw [harena]
  dsimp only
  rw [if_neg (not_not.mpr hal), if_neg (by omega), hchecks]
  exact if_neg hst

end Mac

/-! ### mstat (12 R293) -/

/-- A command that mstat waits for. -/
def MCmd.awaited (m : MCmd) : Bool :=
  match m.kind with
  | .load _ _ _ _ => true
  | .mac _ _ _ => true
  | _ => false

/-- A command of the agent's is under way that mstat waits for. -/
def State.macsBusy (s : State) (c : CtxId) : Bool := s.mx.cmds.any fun m => decide (m.by_.ctx = c) && m.awaited

/-- The array's flags, cleared where mstat says. -/
def State.flagsRead (s : State) (core : Nat) (clr : Bool) : State :=
  if clr then { s with mx := { s.mx with flags := SMap.set 0 s.mx.flags core 0 } } else s

section Mstat
variable {q : QWord} {clr : Bool} {is : Issue} {s : State}

theorem mstatEff_waits (h : s.macsBusy is.ctx = true) : mstatEff q true clr is s = none := if_pos h

theorem mstatEff_reads {wt : Bool} (h : wt = false ∨ s.macsBusy is.ctx = false) :
    mstatEff q wt clr is s = some (is.writeAll (s.flagsRead is.c.core clr) q.d 1 (s.mstatWord is.c.core)) := by
  have hgo : ¬ (wt && s.macsBusy is.ctx) = true := by
    rcases h with h | h <;> simp [h]
  exact if_neg hgo

theorem flagsRead_gives_fails (s : State) (is : Issue) (clr : Bool) (d : Dst) (v : Nat → Nat) (l : Nat) :
    ((((s.flagsRead is.c.core clr).gives is 8 d 1 v).ctx is.ctx).lane l).fails = ((s.ctx is.ctx).lane l).fails := by
  have hread : s.SameFails (s.flagsRead is.c.core clr) := .ite (.of_ctxs rfl) (.refl s)
  exact (State.SameFails.gives _ is 8 d 1 v l).trans (hread is.ctx l)

end Mstat

/-- A matrix word whose effect waits where the queue is full waits there. -/
theorem waits_matrix {i : Instr} {eff : Issue → State → Option Done} (he : ∀ s, exec i s = issueWith i 0 eff s)
    (h : ∀ is s, s.mxFull is = true → eff is s = none) :
    Waits i fun is s => 16 ≤ (s.mcmds is.c.core).length ∨ s.quiesced is.c.handle = true :=
  waits_of he fun _ _ _ _ _ hfull => h _ _ (mxFull_of_full hfull)

/-- Settles O39: each command by what its effect queues; a full queue is the first check of each. -/
theorem matrixWords : Obligations.MatrixWords := by
  refine ⟨fun q => ?mshape, fun q w sl fmt kn => ?mwldNoc, fun q w sl cl fmt kn ref => ?mwld, ?mmac, fun q wt clr => ?mstat, fun q clr => ?mstatWaits,
    ?full⟩
  case mshape =>
    exact doesBut_of_fails_kept (fun _ => rfl) (fun is s => State.SameFails.queueMatrix s is _ _ _ _ _ is.ctx) fun is s ha hroom =>
      mshapeEff_queues ha hroom
  case mwldNoc =>
    exact doesBut_of_fails_kept (fun _ => rfl) (fun is s => State.SameFails.loadWeights s is _ _ _ _ _ is.ctx) fun is s ha hp =>
      mwldEff_queues ha hp.1 (weights_of hp.2)
  case mwld =>
    refine doesAfter_of_fails_kept (fun _ => rfl) (fun is s v ⟨_, _, _, hclasp⟩ => ?_) fun is s v ha ⟨hroom, hops, hcl, hclasp⟩ => ?_
    · exact (State.SameFails.of_ctxs (State.claspFound_ctxs hclasp)).trans (.loadWeights v is _ _ _ _ _)
    · exact mwldEff_queues_clasp ha hroom (weights_of hops) hcl hclasp
  case mmac =>
    intro q s r v base size pa tgt ref hr _ hm ha is off hroom harena hal hin b hchecks m acc zero st hst hstuck a
    have hctxs : v.ctxs = s.ctxs := (congrArg (fun z : State × Found × Option ClaspRef => z.1.ctxs) hchecks).symm.trans (s.macChecks_ctxs is b)
    exact exec_passes (lat := 0) rfl hr hm ha
      (mmacEff_queues (act_ne_zero ha) hroom harena hal hin hchecks hst)
      (fun l => ((State.SameFails.of_ctxs hctxs).trans (.startMac v is b ref) is.ctx l).trans (hm.settled l)) hstuck
  case mstat =>
    exact doesBut_of_fails_kept (eff := mstatEff q wt clr) (fun _ => rfl) (fun is s l =>
      flagsRead_gives_fails s is clr _ _ l) fun is s _ hp => mstatEff_reads hp
  case mstatWaits =>
    exact waits_of (eff := mstatEff q true clr) (fun _ => rfl) fun s r _ _ _ hbusy => mstatEff_waits hbusy
  case full =>
    rintro i ⟨q, w, sl, cl, fmt, kn, rfl | rfl | rfl | rfl⟩
    · exact waits_matrix (fun _ => rfl) fun is s h => mshapeEff_full h
    · exact waits_matrix (fun _ => rfl) fun is s h => mmacEff_full h
    · exact waits_matrix (fun _ => rfl) fun is s h => mwldEff_full h
    · exact waits_matrix (fun _ => rfl) fun is s h => mwldEff_full h

end Sys2Proof.Machine
end

section
/-! O40: the words of collectives, by what their effects answer on the source lane (14 R445; 16 R359, R360). -/

set_option Elab.async false

namespace Sys2Proof.Machine

/-- A group loaded from its descriptor. -/
def State.loadGroup (s : State) (n : Nat) (d tb : List Byte) : State :=
  let ms := (List.range (descNat d 0 2)).map fun i => descNat tb (2 * i) 2
  { s with fa := { s.fa with groups := SMap.set Group.none s.fa.groups n ⟨descNat d 2 2, ms, []⟩ } }

/-- A collective started. -/
def State.startColl (s : State) (is : Issue) (a : CollArgs) (ref : Option ClaspRef) : State :=
  { s with
    opId := s.opId + 1
    fa := { s.fa with colls := s.fa.colls ++ [⟨s.opId, is.cmdId s is.first, a, ref, is.tolerant, 0, 0, s.ns, (s.group a.group).down,
      [], none, [], [], none⟩] } }

section Words
variable {q : QWord} {n : Nat} {is : Issue} {s v w : State} {d tb : List Byte}

theorem collGrpEff_waits (h : ∃ c ∈ s.fa.colls, c.args.group = n) : collGrpEff q n is s = none := by
  unfold collGrpEff
  cases lowestLane is.act with
  | none => rfl
  | some l => exact if_pos (by simpa using h)

/-- A group's descriptor and table read, and their limits met: the group is loaded. -/
theorem collGrpEff_loads (ha : is.act ≠ 0) (hidle : ∀ c ∈ s.fa.colls, c.args.group ≠ n) (hal : is.src s true q.a is.first % 64 = 0)
    (hread : s.readBlock is (is.src s true q.a is.first) 64 64 = some (v, .zero, d)) (hok : groupOk d = true)
    (htable : v.readBlock is (descNat d 8 8) (2 * descNat d 0 2) 2 = some (w, .zero, tb))
    (hmembers : ∀ m ∈ (List.range (descNat d 0 2)).map fun i => descNat tb (2 * i) 2, m < 1024)
    (hrank : ((List.range (descNat d 0 2)).map fun i => descNat tb (2 * i) 2)[descNat d 2 2]? = some w.modId) :
    collGrpEff q n is s = some (.next (w.loadGroup n d tb)) := by
  have hidle : ¬ (s.fa.colls.any fun c => decide (c.args.group = n)) = true := by simpa using hidle
  have hmembers : (((List.range (descNat d 0 2)).map fun i => descNat tb (2 * i) 2).any fun m => decide (1024 ≤ m)) = false :=
    List.any_eq_false.mpr fun m hm => by simpa using hmembers m hm
  rw [collGrpEff, lowestLane_eq_first ha, Option.bind_some, if_neg hidle]
  dsimp only
  rw [if_neg (not_not.mpr hal), hread, Option.bind_some]
  dsimp only [Issue.blockStop]
  rw [hok, if_neg (by decide), htable, Option.bind_some]
  dsimp only
  rw [hmembers, hrank, if_neg (by simp)]
  rfl

theorem collGoEff_waits (h : 8 ≤ s.fa.colls.length) : collGoEff q is s = none := by
  unfold collGoEff
  cases lowestLane is.act with
  | none => rfl
  | some l => exact if_pos (.inl h)

section Go
variable {a : CollArgs} (ha : is.act ≠ 0) (hroom : s.fa.colls.length < 8) (hquiet : s.quiesced is.c.handle = false)
  (hal : is.src s true q.a is.first % 64 = 0) (hread : s.readBlock is (is.src s true q.a is.first) 64 64 = some (v, .zero, d))
  (hrecs : collBadRec is d = none)
include ha hroom hquiet hal hread hrecs

/-- A collective without a clasp starts. -/
theorem collGoEff_starts (hnoc : descNat d 5 1 % 2 = 1) (hargs : v.collArgs is d = some a) :
    collGoEff q is s = some (.next (v.startColl is a none)) := by
  rw [collGoEff, lowestLane_eq_first ha, Option.bind_some, hquiet, if_neg (by simp; omega)]
  dsimp only
  rw [if_neg (not_not.mpr hal), hread, Option.bind_some]
  dsimp only [Issue.blockStop]
  rw [hrecs, if_pos hnoc]
  dsimp only
  rw [hargs]
  rfl

/-- A collective whose clasp is found starts. -/
theorem collGoEff_starts_clasp {ref : ClaspRef} (hclasp : descNat d 5 1 % 2 ≠ 1) (hvalid : Rec256.valid (is.rec_ (descNat d 1 1 / 16)) = true)
    (hspace : Rec256.space (is.rec_ (descNat d 1 1 / 16)) = 0)
    (hfound : v.claspFound is (descNat d 1 1 / 16) (sext 32 (descNat d 12 4)) (sext 32 (descNat d 16 4)) w ref)
    (hargs : w.collArgs is d = some a) : collGoEff q is s = some (.next (w.startColl is a (some ref))) := by
  obtain ⟨pa, tgt, hfound⟩ := hfound
  unfold Issue.rec_ at hvalid hspace hfound
  rw [collGoEff, lowestLane_eq_first ha, Option.bind_some, hquiet, if_neg (by simp; omega)]
  dsimp only
  rw [if_neg (not_not.mpr hal), hread, Option.bind_some]
  dsimp only [Issue.blockStop]
  rw [hrecs, if_neg hclasp, hvalid, if_neg (by decide), if_neg (not_not.mpr hspace), hfound]
  dsimp only
  rw [hargs]
  rfl

end Go

end Words

/-- Settles O40: a group by `collGrpEff_loads`, a collective by `collGoEff_starts` and `collGoEff_starts_clasp`. -/
theorem collectiveWords : Obligations.CollectiveWords := by
  refine ⟨?group, fun q n => waits_of (fun _ => rfl) fun s r _ _ _ h => collGrpEff_waits h, ?noClasp, ?clasp,
    fun q => waits_of (fun _ => rfl) fun s r _ _ _ h => collGoEff_waits h⟩
  case group =>
    intro q n s r v w d tb hr _ hm ha is va hidle hal hread hok k htable ms hmembers hrank hstuck
    have hctxs : w.ctxs = s.ctxs := (State.readBlock_ctxs htable).trans (State.readBlock_ctxs hread)
    exact exec_passes (lat := 0) rfl hr hm ha (collGrpEff_loads (act_ne_zero ha) hidle hal hread hok htable hmembers hrank)
      (fun l => (State.SameFails.of_ctxs (t := w.loadGroup n d tb) hctxs is.ctx l).trans (hm.settled l)) hstuck
  case noClasp =>
    intro q s r v d a hr _ hm ha is va hroom hquiet hal hread hnoc hrecs hargs hstuck
    have hctxs : v.ctxs = s.ctxs := State.readBlock_ctxs hread
    exact exec_passes (lat := 0) rfl hr hm ha (collGoEff_starts (act_ne_zero ha) hroom hquiet hal hread hrecs hnoc hargs)
      (fun l => (State.SameFails.of_ctxs (t := v.startColl is a none) hctxs is.ctx l).trans (hm.settled l)) hstuck
  case clasp =>
    intro q s r v w d a pa tgt ref hr _ hm ha is va rc hroom hquiet hal hread hclasp hrecs hvalid hspace hfound hargs hstuck
    have hfound : v.claspFound is (descNat d 1 1 / 16) (sext 32 (descNat d 12 4)) (sext 32 (descNat d 16 4)) w ref := ⟨pa, tgt, hfound⟩
    have hctxs : w.ctxs = s.ctxs := (State.claspFound_ctxs hfound).trans (State.readBlock_ctxs hread)
    exact exec_passes (lat := 0) rfl hr hm ha
      (collGoEff_starts_clasp (act_ne_zero ha) hroom hquiet hal hread hrecs hclasp hvalid hspace hfound hargs)
      (fun l => (State.SameFails.of_ctxs (t := w.startColl is a (some ref)) hctxs is.ctx l).trans (hm.settled l)) hstuck

end Sys2Proof.Machine
end

section
/-! O30: a trap of a column core (17 R363, R370; 19 R400), by what the posting of a record leaves (19 R404, R405). -/

set_option Elab.async false

namespace Sys2Proof.Machine

/-! ### Column cores that a record wakes (19 R410) -/

/-- Only the run state of column cores among `P`, where they wait, differs. -/
structure State.Wakes (P : Nat → Prop) (s t : State) : Prop where
  others : ∀ k, ¬ (ctxKey k < 64 ∧ P (ctxKey k)) → t.ctx k = s.ctx k
  core : ∀ n, { t.ctx (.cc n) with run := (s.ctx (.cc n)).run } = s.ctx (.cc n)
  awake : ∀ n, (s.ctx (.cc n)).run ≠ .wfi → (t.ctx (.cc n)).run = (s.ctx (.cc n)).run

namespace State.Wakes

variable {P : Nat → Prop} {s t u : State}

theorem refl (s : State) : s.Wakes P s := ⟨fun _ _ => rfl, fun _ => rfl, fun _ _ => rfl⟩

theorem trans (h : s.Wakes P t) (k : t.Wakes P u) : s.Wakes P u where
  others c hc := (k.others c hc).trans (h.others c hc)
  core n := by rw [← h.core n, ← k.core n]
  awake n hn := by
    have hrun := h.awake n hn
    exact (k.awake n (hrun ▸ hn)).trans hrun

theorem of_ctxs (h : t.ctxs = s.ctxs) : s.Wakes P t := by
  have hctx : ∀ k, t.ctx k = s.ctx k := fun k => by unfold State.ctx; rw [h]
  exact ⟨fun k _ => hctx k, fun n => by rw [hctx], fun n _ => by rw [hctx]⟩

theorem ite {p : Prop} [Decidable p] {a b : State} (ha : s.Wakes P a) (hb : s.Wakes P b) : s.Wakes P (if p then a else b) := by
  split
  · exact ha
  · exact hb

theorem wakeWfi (s : State) {q : Nat} (hq : P q) : s.Wakes P (s.wakeWfi q) := by
  unfold State.wakeWfi
  split
  next hwait =>
    obtain ⟨hlt, hrun⟩ := hwait
    have hctx (k : CtxId) (hk : ctxKey k ≠ q) : (s.modCtx (.cc q) fun c => { c with run := .running }).ctx k = s.ctx k :=
      State.ctx_modCtx_ne _ _ hk
    refine ⟨fun k hk => hctx k fun e => hk (e ▸ ⟨hlt, hq⟩), fun n => ?_, fun n hn => ?_⟩
    · by_cases hnq : n = q
      · rw [hnq, State.ctx_modCtx_same]
      · rw [hctx (.cc n) hnq]
    · exact congrArg Ctx.run (hctx (.cc n) fun e => hn ((congrArg (fun i => (s.ctx (.cc i)).run) e).trans hrun))
  next => exact refl s

theorem evqPut (s : State) (q : Nat) (bs : List Byte) : s.Wakes P (s.evqPut q bs) := of_ctxs (s.evqPut_ctxs q bs)

theorem evqWrite (s : State) {q : Nat} (hq : P q) (col : Nat) (bs : List Byte) : s.Wakes P (s.evqWrite q col bs) := by
  have hnote : ∀ u : State, u.Wakes P ((if (u.sysGet SysReg.evqctl q).getLsbD 60 then
      { u with ev := { u.ev with msix := u.ev.msix ++ [field (u.sysGet SysReg.evqctl q) 53 43] } } else u).wakeWfi q) :=
    fun u => (ite (of_ctxs (by rfl)) (refl u)).trans (wakeWfi _ hq)
  refine trans (ite ?_ (evqPut s q bs)) (hnote _)
  exact trans (trans (ite (evqPut s q _) (refl s)) (evqPut _ q _)) (evqPut _ q _)

theorem evqDrop (s : State) (q : Option Nat) : s.Wakes P (s.evqDrop q) := of_ctxs (by cases q <;> rfl)

theorem evqOffer (s : State) {q : Nat} (hq : P q) (col : Nat) (bs : List Byte) : s.Wakes P (s.evqOffer q col bs) :=
  ite (evqWrite s hq col bs) (ite (of_ctxs rfl) (evqDrop s _))

/-- A post wakes the core of its queue, or that of its column. -/
theorem post (s : State) {q col : Nat} (hq : P (if q < 256 then q else col)) (hcol : P col) (bs : List Byte) : s.Wakes P (s.post q col bs) :=
  ite (evqOffer s hq col bs) (ite (evqOffer s hcol col bs) (evqDrop s none))

end State.Wakes

/-! ### Rings that a record enters (19 R404, R405) -/

/-- A byte that lies in no ring of the queues among `P`. -/
def State.OffRings (s : State) (P : Nat → Prop) (a : Nat) : Prop :=
  ∀ q, P q → a < s.evqBase q ∨ s.evqBase q + 32 * s.evqSize q ≤ a

/-- The rings stand where they stood. -/
theorem State.OffRings.of_base {P : Nat → Prop} {s t : State} {a : Nat} (hP : ∀ q, P q → q < 2 ^ 20) (ha : s.OffRings P a)
    (h : ∀ i, i < 2 ^ 20 → t.sysGet SysReg.evqbase i = s.sysGet SysReg.evqbase i) : t.OffRings P a := by
  intro q hq
  unfold State.evqBase State.evqSize
  rw [h q (hP q hq)]
  exact ha q hq

/-- Only the queues' registers, and bytes in the rings of the queues among `P`, differ. -/
structure State.Rings (P : Nat → Prop) (s t : State) : Prop where
  regs : ∀ r i, i < 2 ^ 20 → r ≠ SysReg.evqctl → r ≠ SysReg.evqsel → t.sysGet r i = s.sysGet r i
  bytes : s.OneOwner → t.OneOwner ∧ ∀ a, s.OffRings P a → t.homeByte a = s.homeByte a

theorem State.KeepsBytes.holdHome {s : State} (h : s.OneOwner) (pa : Nat) (bs : List Byte) (red : List (Nat × Nat × Nat)) :
    s.KeepsBytes (s.holdHome pa bs red) := by
  have hadd (f : Fwd) (n : Nat) : s.KeepsBytes { s with ms := { s.ms with fwd := s.ms.fwd ++ [f] }, opId := n } :=
    ⟨h.of_mem fun _ hl => hl, fun _ => rfl⟩
  exact (hadd _ _).trans (.of_records (.splitRegion _ pa) (hadd _ _).1)

/-- A write at the home of a range leaves every byte outside it. -/
theorem State.OneOwner.homeWrite_off {s : State} (h : s.OneOwner) (pa : Nat) (bs : List Byte) :
    (s.homeWrite pa bs).OneOwner ∧ ∀ a, (a < pa ∨ pa + bs.length ≤ a) → (s.homeWrite pa bs).homeByte a = s.homeByte a := by
  unfold State.homeWrite
  split
  · have hkeep := State.KeepsBytes.holdHome h pa bs []
    exact ⟨hkeep.1, fun a _ => hkeep.2 a⟩
  · unfold State.storeHome
    split
    · obtain ⟨hone, hbyte⟩ := h.writeHome pa bs
      refine ⟨hone, fun a ha => ?_⟩
      rw [hbyte]
      split
      · exact List.getD_eq_default _ _ (by omega)
      · rfl
    · have hl1 : (s.writeBytes pa bs).ms.l1 = s.ms.l1 := (congrArg (fun z : State => z.ms.l1) (s.writeBytes_only pa bs) :)
      refine ⟨h.of_mem fun _ hl => hl1 ▸ hl, fun a ha => ?_⟩
      have hbyte := s.byte_writeBytes pa bs a
      rw [if_neg (by omega)] at hbyte
      unfold State.homeByte
      rw [hl1, hbyte]

namespace State.Rings

variable {P : Nat → Prop} {s t u : State}

theorem refl (s : State) : s.Rings P s := ⟨fun _ _ _ _ _ => rfl, fun h => ⟨h, fun _ _ => rfl⟩⟩

theorem base (h : s.Rings P t) (i : Nat) (hi : i < 2 ^ 20) : t.sysGet SysReg.evqbase i = s.sysGet SysReg.evqbase i :=
  h.regs _ i hi (by decide) (by decide)

theorem trans (hP : ∀ q, P q → q < 2 ^ 20) (h : s.Rings P t) (k : t.Rings P u) : s.Rings P u where
  regs r i hi hctl hsel := (k.regs r i hi hctl hsel).trans (h.regs r i hi hctl hsel)
  bytes hs := by
    obtain ⟨ht, hst⟩ := h.bytes hs
    obtain ⟨hu, htu⟩ := k.bytes ht
    exact ⟨hu, fun a ha => (htu a (ha.of_base hP h.base)).trans (hst a ha)⟩

theorem ite {p : Prop} [Decidable p] {a b : State} (ha : s.Rings P a) (hb : s.Rings P b) : s.Rings P (if p then a else b) := by
  split
  · exact ha
  · exact hb

/-- Neither the registers nor the memory differ. -/
theorem of_kept (hsys : t.sys = s.sys) (hmem : s.OneOwner → s.KeepsBytes t) : s.Rings P t where
  regs r i _ _ _ := by unfold State.sysGet; rw [hsys]
  bytes hs := ⟨(hmem hs).1, fun a _ => (hmem hs).2 a⟩

theorem setCtx (s : State) (c : CtxId) (x : Ctx) : s.Rings P (s.setCtx c x) :=
  of_kept rfl fun h => ⟨h.of_mem fun _ hl => hl, fun _ => rfl⟩

theorem setEv (s : State) (e : EventSt) : s.Rings P { s with ev := e } :=
  of_kept rfl fun h => ⟨h.of_mem fun _ hl => hl, fun _ => rfl⟩

/-- A register of the queues put. -/
theorem sysPut (s : State) {reg i : Nat} (hi : i < 2 ^ 20) (hreg : reg = SysReg.evqctl ∨ reg = SysReg.evqsel) (v : Word64) :
    s.Rings P (s.sysPut reg i v) where
  regs _ _ hk hctl hsel := s.sysGet_sysPut_of_ne v hi hk (.inl fun e => hreg.elim (fun h => hctl (e.trans h)) fun h => hsel (e.trans h))
  bytes h := ⟨h.of_mem fun _ hl => hl, fun _ _ => rfl⟩

/-- An entry enters its ring. -/
theorem evqPut (hP : ∀ q, P q → q < 2 ^ 20) (s : State) {q : Nat} (hq : P q) {bs : List Byte} (hlen : bs.length = 32) :
    s.Rings P (s.evqPut q bs) := by
  have hwrite : s.Rings P (s.hwWrite (s.evqEntry q (s.evqTail q)) bs) := by
    unfold State.hwWrite
    split
    · refine ⟨fun r i _ _ _ => ?_, fun h => ?_⟩
      · have hsys : (s.homeWrite (s.evqEntry q (s.evqTail q)) bs).sys = s.sys :=
          (congrArg State.sys (State.OnlyMemory.homeWrite s (s.evqEntry q (s.evqTail q)) bs) :)
        unfold State.sysGet
        rw [hsys]
      · obtain ⟨hone, hbyte⟩ := h.homeWrite_off (s.evqEntry q (s.evqTail q)) bs
        refine ⟨hone, fun a ha => hbyte a ?_⟩
        have hoff := ha q hq
        have hmod : s.evqTail q % s.evqSize q < s.evqSize q := Nat.mod_lt _ (Nat.two_pow_pos _)
        rw [hlen]
        unfold State.evqEntry
        omega
    · exact of_kept rfl fun h => ⟨h.of_mem fun _ hl => hl, fun _ => rfl⟩
  exact hwrite.trans hP (sysPut _ (hP q hq) (.inl rfl) _)

theorem wakeWfi (s : State) (q : Nat) : s.Rings P (s.wakeWfi q) := ite (setCtx s _ _) (refl s)

theorem evqWrite (hP : ∀ q, P q → q < 2 ^ 20) (s : State) {q : Nat} (hq : P q) (col : Nat) {bs : List Byte}
    (hlen : bs.length = 32 ∨ bs.length = 64) :
    s.Rings P (s.evqWrite q col bs) := by
  have hnote : ∀ u : State, u.Rings P ((if (u.sysGet SysReg.evqctl q).getLsbD 60 then
      { u with ev := { u.ev with msix := u.ev.msix ++ [field (u.sysGet SysReg.evqctl q) 53 43] } } else u).wakeWfi q) :=
    fun u => (ite (setEv u _) (refl u)).trans hP (wakeWfi _ q)
  unfold State.evqWrite
  refine trans hP ?_ (hnote _)
  split
  next h64 =>
    have hpad := ite (p := s.evqTail q % 2 = 1) (evqPut hP s hq (length_recordBytes 0x8A 0 0 col 0 0 0 (s.sliceTime col))) (refl s)
    exact (hpad.trans hP (evqPut hP _ hq (by simp [h64]))).trans hP (evqPut hP _ hq (by simp [h64]))
  next h64 => exact evqPut hP s hq (hlen.resolve_right h64)

theorem evqDrop (hP : ∀ q, P q → q < 2 ^ 20) (s : State) {q : Option Nat} (hq : ∀ n ∈ q, n < 2 ^ 20) : s.Rings P (s.evqDrop q) := by
  have hsel := sysPut (P := P) s (reg := SysReg.evqsel) (i := 0) (by decide) (.inr rfl)
  cases q with
  | none => exact hsel _
  | some n => exact (hsel _).trans hP (sysPut _ (hq n rfl) (.inl rfl) _)

theorem evqOffer (hP : ∀ q, P q → q < 2 ^ 20) (s : State) {q : Nat} (hq : P q) (col : Nat) {bs : List Byte}
    (hlen : bs.length = 32 ∨ bs.length = 64) : s.Rings P (s.evqOffer q col bs) :=
  ite (evqWrite hP s hq col hlen) (ite (setEv s _) (evqDrop hP s fun _ hn => Option.some.inj hn ▸ hP q hq))

/-- A post enters the ring of its queue, or that of its column. -/
theorem post (hP : ∀ q, P q → q < 2 ^ 20) (s : State) {q col : Nat} (hq : P (if q < 256 then q else col)) (hcol : P col) {bs : List Byte}
    (hlen : bs.length = 32 ∨ bs.length = 64) : s.Rings P (s.post q col bs) :=
  ite (evqOffer hP s hq col hlen) (ite (evqOffer hP s hcol col hlen) (evqDrop hP s nofun))

end State.Rings

theorem length_faultBytes (f : FaultRec) (t : Word64) : (f.bytes t).length = 64 := by simp [FaultRec.bytes, length_leBytes]

/-! ### The trap -/

/-- The queues that a trap of a column core may post to. -/
def trapQueues (n q : Nat) : Prop := q = n ∨ q = 0

theorem trapQueues_lt {n : Nat} (hn : n < 64) {q : Nat} (h : trapQueues n q) : q < 2 ^ 20 := by
  rcases h with rfl | rfl <;> omega

theorem trapQueues_own (n : Nat) : trapQueues n (if n < 256 then n else n) := .inl (ite_self n)

theorem State.Wakes.tellCore0 {n : Nat} (s : State) : s.Wakes (trapQueues n) (if n = 0 then s else s.machineEvent 0 n 0 0x08 0 0) :=
  ite (refl s) (post s (.inr rfl) (.inl rfl) _)

theorem State.Wakes.postFault {n : Nat} (s : State) (f : FaultRec) : s.Wakes (trapQueues n) (s.postFault n n f) :=
  post s (trapQueues_own n) (.inl rfl) _

section Core
variable {n : Nat} (hn : n < 64) {s t : State}
include hn

theorem State.Rings.postFault (s : State) (f : FaultRec) : s.Rings (trapQueues n) (s.postFault n n f) :=
  post (fun _ => trapQueues_lt hn) s (trapQueues_own n) (.inl rfl) (.inr (length_faultBytes f _))

theorem State.Rings.tellCore0 (s : State) : s.Rings (trapQueues n) (if n = 0 then s else s.machineEvent 0 n 0 0x08 0 0) :=
  ite (refl s) (post (fun _ => trapQueues_lt hn) s (.inr rfl) (.inl rfl) (.inl (length_recordBytes _ _ _ _ _ _ _ _)))

end Core

theorem State.Wakes.sameRegs {P : Nat → Prop} {s t : State} (h : s.Wakes P t) (n : Nat) : Ctx.SameRegs (s.ctx (.cc n)) (t.ctx (.cc n)) where
  g := (congrArg Ctx.g (h.core n) :)
  e := (congrArg Ctx.e (h.core n) :)
  fp := (congrArg Ctx.fp (h.core n) :)
  wbs := (congrArg Ctx.wbs (h.core n) :)
  p l := (congrArg (fun x : Ctx => (x.lane l).p) (h.core n) :)

/-- What every trap of a column core keeps: its registers and record slots, the other agents but a woken column core 0, and every byte outside the
rings of its queues. -/
structure State.CoreKept (n : Nat) (s t : State) : Prop where
  regs : Ctx.SameRegs (s.ctx (.cc n)) (t.ctx (.cc n))
  slots : (t.ctx (.cc n)).b = (s.ctx (.cc n)).b
  others : ∀ k, ctxKey k ≠ n → ctxKey k ≠ 0 → t.ctx k = s.ctx k
  base : ∀ i, i < 2 ^ 20 → t.sysGet SysReg.evqbase i = s.sysGet SysReg.evqbase i
  bytes : s.OneOwner → t.OneOwner ∧ ∀ a, s.OffRings (trapQueues n) a → t.homeByte a = s.homeByte a

namespace State.CoreKept

variable {n : Nat} {s t u : State}

theorem trans (hn : n < 64) (h : s.CoreKept n t) (k : t.CoreKept n u) : s.CoreKept n u where
  regs := h.regs.trans k.regs
  slots := k.slots.trans h.slots
  others c hc h0 := (k.others c hc h0).trans (h.others c hc h0)
  base i hi := (k.base i hi).trans (h.base i hi)
  bytes hs := by
    obtain ⟨ht, hst⟩ := h.bytes hs
    obtain ⟨hu, htu⟩ := k.bytes ht
    exact ⟨hu, fun a ha => (htu a (ha.of_base (fun _ => trapQueues_lt hn) h.base)).trans (hst a ha)⟩

theorem of_wakes (h : s.Wakes (trapQueues n) t) (k : s.Rings (trapQueues n) t) : s.CoreKept n t where
  regs := h.sameRegs n
  slots := (congrArg Ctx.b (h.core n) :)
  others c hc h0 := h.others c fun hP => hP.2.elim hc h0
  base := k.base
  bytes := k.bytes

theorem modCtx (s : State) {f : Ctx → Ctx} (hf : ∀ x, Ctx.SameRegs x (f x) ∧ (f x).b = x.b) : s.CoreKept n (s.modCtx (.cc n) f) where
  regs := by rw [State.ctx_modCtx_same]; exact (hf _).1
  slots := by rw [State.ctx_modCtx_same]; exact (hf _).2
  others _ hc _ := State.ctx_modCtx_ne _ _ hc
  base _ _ := rfl
  bytes hs := ⟨hs.of_mem fun _ hl => hl, fun _ _ => rfl⟩

/-- A register of the core's that is not a ring's base put. -/
theorem sysPut (s : State) {reg i : Nat} (hi : i < 2 ^ 20) (hreg : reg ≠ SysReg.evqbase) (v : Word64) : s.CoreKept n (s.sysPut reg i v) where
  regs := .refl _
  slots := rfl
  others _ _ _ := rfl
  base _ hk := s.sysGet_sysPut_of_ne v hi hk (.inl hreg.symm)
  bytes hs := ⟨hs.of_mem fun _ hl => hl, fun _ _ => rfl⟩

end State.CoreKept

/-- The fault record of a column core's trap (19 R400). -/
def TrapInfo.coreRecord (t : TrapInfo) (hdr : Word64) (idx : Nat) : FaultRec :=
  { FaultRec.base t.kind 0 1 hdr idx 0 with imp := t.imp, slot := t.rslot, code := t.code, line := t.line }

/-- The supervisor's vector entered by a user-level trap, with the resume PC saved (19 R400). -/
def State.enterVector (s : State) (n : Nat) (resume : Word64 × Nat) : State :=
  let s1 := s.sysPut SysReg.uepc n (resume.1 &&& 0x00FFFFFFFFFFFFF0)
  let s2 := s1.sysPut SysReg.uepw n (BitVec.ofNat 64 (resume.2 % 1024))
  let s3 := s2.sysPut SysReg.cstat n 1
  s3.modCtx (.cc n) fun x => x.modLane 0 fun y => { y.moveTo (s3.sysGet SysReg.svec n) with wait := .none }

section Trap
variable {n : Nat} (hn : n < 64) (s : State) (t : TrapInfo) (hdr : Word64) (idx : Nat) (resume : Word64 × Nat)

theorem State.ccTrap_supervisor (h : s.isSup (.cc n) = true) : s.ccTrap n t hdr idx resume =
    let s1 := (s.postFault n n (t.coreRecord hdr idx)).modCtx (.cc n) fun x => { x with run := .halted }
    if n = 0 then s1 else s1.machineEvent 0 n 0 0x08 0 0 := if_pos h

theorem State.ccTrap_user (h : s.isSup (.cc n) = false) :
    s.ccTrap n t hdr idx resume = (s.enterVector n resume).postFault n n (t.coreRecord hdr idx) :=
  if_neg (Bool.not_eq_true _ ▸ h)

include hn

/-- At supervisor level the core halts where it stands. -/
theorem State.ccTrap_halts (h : s.isSup (.cc n) = true) :
    s.CoreKept n (s.ccTrap n t hdr idx resume) ∧ ((s.ccTrap n t hdr idx resume).ctx (.cc n)).run = .halted ∧
      ((s.ccTrap n t hdr idx resume).ctx (.cc n)).lanes = (s.ctx (.cc n)).lanes := by
  rw [State.ccTrap_supervisor s t hdr idx resume h]
  have hpost := State.Wakes.postFault (n := n) s (t.coreRecord hdr idx)
  have hrings := State.Rings.postFault hn s (t.coreRecord hdr idx)
  generalize s.postFault n n (t.coreRecord hdr idx) = u at hpost hrings ⊢
  have htell := State.Wakes.tellCore0 (n := n) (u.modCtx (.cc n) fun x => { x with run := .halted })
  have htellRings := State.Rings.tellCore0 hn (u.modCtx (.cc n) fun x => { x with run := .halted })
  have hhalt : (u.modCtx (.cc n) fun x => { x with run := .halted }).ctx (.cc n) = { u.ctx (.cc n) with run := .halted } :=
    State.ctx_modCtx_same _ _ _
  have hkept : u.CoreKept n (u.modCtx (.cc n) fun x => { x with run := .halted }) :=
    .modCtx u fun x => ⟨⟨rfl, rfl, rfl, rfl, fun _ => rfl⟩, rfl⟩
  refine ⟨((State.CoreKept.of_wakes hpost hrings).trans hn hkept).trans hn (.of_wakes htell htellRings), ?_, ?_⟩
  · rw [htell.awake n (by rw [hhalt]; exact fun e => nomatch e), hhalt]
  · have hlanes := (congrArg Ctx.lanes (htell.core n) :)
    rw [hhalt] at hlanes
    exact hlanes.trans (congrArg Ctx.lanes (hpost.core n) :)

/-- What the supervisor's vector is entered with. -/
theorem State.enterVector_saves : (s.enterVector n resume).sysGet SysReg.uepc n = resume.1 &&& 0x00FFFFFFFFFFFFF0 ∧
    (s.enterVector n resume).sysGet SysReg.uepw n = BitVec.ofNat 64 (resume.2 % 1024) ∧ (s.enterVector n resume).sysGet SysReg.cstat n = 1 := by
  have hlt : n < 2 ^ 20 := by omega
  have hne {r r' : Nat} (v : State) (w : Word64) (h : r' ≠ r) : (v.sysPut r n w).sysGet r' n = v.sysGet r' n :=
    v.sysGet_sysPut_of_ne w hlt hlt (.inl h)
  unfold State.enterVector
  dsimp only
  simp only [State.sysGet_modCtx]
  refine ⟨?_, ?_, State.sysGet_sysPut_same _ _ _ _⟩
  · rw [hne _ _ (by decide), hne _ _ (by decide), State.sysGet_sysPut_same]
  · rw [hne _ _ (by decide), State.sysGet_sysPut_same]

theorem State.enterVector_pc : (((s.enterVector n resume).ctx (.cc n)).lane 0).hdr = s.sysGet SysReg.svec n ∧
    (((s.enterVector n resume).ctx (.cc n)).lane 0).idx = 0 := by
  have hlt : n < 2 ^ 20 := by omega
  have hne {r r' : Nat} (v : State) (w : Word64) (h : r' ≠ r) : (v.sysPut r n w).sysGet r' n = v.sysGet r' n :=
    v.sysGet_sysPut_of_ne w hlt hlt (.inl h)
  unfold State.enterVector
  dsimp only
  rw [State.ctx_modCtx_same, Ctx.lane_modLane, if_pos rfl, hne _ _ (by decide), hne _ _ (by decide), hne _ _ (by decide)]
  exact ⟨rfl, rfl⟩

theorem State.CoreKept.enterVector : s.CoreKept n (s.enterVector n resume) := by
  have hlt : n < 2 ^ 20 := by omega
  have hput (v : State) (r : Nat) (w : Word64) (h : r ≠ SysReg.evqbase) : v.CoreKept n (v.sysPut r n w) := sysPut v hlt h w
  unfold State.enterVector
  dsimp only
  refine trans hn (hput s SysReg.uepc _ (by decide)) (trans hn (hput _ SysReg.uepw _ (by decide))
    (trans hn (hput _ SysReg.cstat _ (by decide)) (modCtx _ fun x => ?_)))
  refine ⟨⟨rfl, rfl, rfl, rfl, fun l => ?_⟩, rfl⟩
  rw [Ctx.lane_modLane]
  split
  next h => rw [h]; rfl
  next => rfl

/-- At user level the core goes on at its supervisor's vector, with the resume PC saved. -/
theorem State.ccTrap_enters (h : s.isSup (.cc n) = false) :
    s.CoreKept n (s.ccTrap n t hdr idx resume) ∧
      (∀ r, r ≠ SysReg.evqctl → r ≠ SysReg.evqsel → (s.ccTrap n t hdr idx resume).sysGet r n = (s.enterVector n resume).sysGet r n) ∧
      ((s.ccTrap n t hdr idx resume).ctx (.cc n)).lane 0 = ((s.enterVector n resume).ctx (.cc n)).lane 0 := by
  rw [State.ccTrap_user s t hdr idx resume h]
  have hpost := State.Wakes.postFault (n := n) (s.enterVector n resume) (t.coreRecord hdr idx)
  have hrings := State.Rings.postFault hn (s.enterVector n resume) (t.coreRecord hdr idx)
  refine ⟨(State.CoreKept.enterVector hn s resume).trans hn (.of_wakes hpost hrings), fun r hctl hsel => ?_, ?_⟩
  · exact hrings.regs r n (by omega) hctl hsel
  · exact (congrArg (fun x : Ctx => x.lane 0) (hpost.core n) :)

end Trap

/-- Settles O30: at user level by `State.ccTrap_enters`, at supervisor level by `State.ccTrap_halts`. -/
theorem columnCoreTraps : Obligations.ColumnCoreTraps := by
  intro s n m t h hdr idx hn hm v resume
  have hv : v = s.ccTrap n t hdr idx resume := by
    have hresume : resume = if trapNext t.kind then nextPc h hdr idx else (hdr, idx) := by
      simp only [resume, trapNext, decide_eq_true_eq]
    rw [hresume]
    exact if_neg hm
  have hkept : s.CoreKept n v := by
    rw [hv]
    cases hsup : s.isSup (.cc n) with
    | true => exact (State.ccTrap_halts hn s t hdr idx resume hsup).1
    | false => exact (State.ccTrap_enters hn s t hdr idx resume hsup).1
  refine ⟨fun hsup => ?user, fun hsup => ?supervisor, hkept.regs, hkept.slots, hkept.others, fun hone a hown hzero => ?bytes⟩
  case user =>
    obtain ⟨-, hregs, hlane⟩ := State.ccTrap_enters hn s t hdr idx resume hsup
    obtain ⟨hpc, hpw, hstat⟩ := State.enterVector_saves hn s resume
    obtain ⟨hhdr, hidx⟩ := State.enterVector_pc hn s resume
    rw [hv, hlane, hregs _ (by decide) (by decide), hregs _ (by decide) (by decide), hregs _ (by decide) (by decide), hpw]
    refine ⟨hpc, ?_, hstat, hhdr, hidx⟩
    rw [BitVec.toNat_ofNat]
    omega
  case supervisor =>
    rw [hv]
    exact (State.ccTrap_halts hn s t hdr idx resume hsup).2
  case bytes =>
    refine (hkept.bytes hone).2 a fun q hq => ?_
    rcases hq with rfl | rfl
    · exact hown
    · exact hzero

end Sys2Proof.Machine
end

section
/-! O31: a trap of a gang's lanes parks them as a sub-gang, or stalls them and ends the launch (17 R365, R367, R369, R381). -/

set_option Elab.async false

namespace Sys2Proof.Machine

/-! ### Sub-gangs and record slots -/

/-- An entry that a filter keeps reads as before. -/
theorem get_filter_of_keep {α : Type} {d : α} {m : SMap α} {k : Nat} {p : Nat × α → Bool} (h : SMap.get d m k ≠ d) (hp : ∀ v, p (k, v) = true) :
    SMap.get d (m.filter p) k = SMap.get d m k := by
  induction m with
  | nil => rfl
  | cons q r ih =>
    obtain ⟨a, v⟩ := q
    rw [SMap.get_cons] at h ⊢
    by_cases hk : k = a
    · rw [List.filter_cons_of_pos (hk ▸ hp v), SMap.get_cons]
      simp only [if_pos hk]
    · rw [if_neg hk] at h ⊢
      by_cases hlt : k < a
      · exact absurd (if_pos hlt) h
      · rw [if_neg hlt] at h ⊢
        rw [List.filter_cons]
        split
        · rw [SMap.get_cons, if_neg hk, if_neg hlt, ih h]
        · exact ih h

/-- A living thread of a sub-gang keeps its entry. -/
theorem Ctx.sub_dropSubs {x : Ctx} {j l : Nat} (hact : (x.lane l).act = true) (hsub : (x.lane l).sub = j) (hlive : (x.lane l).exited = false)
    (hj : x.sub j ≠ Sub.none) : x.dropSubs.sub j = x.sub j :=
  get_filter_of_keep hj fun _ => List.any_eq_true.mpr ⟨l, Ctx.mem_keys_of_act hact, by simp [hsub, hlive]⟩

/-- The copies of other sub-gangs dropped leave those of this one. -/
theorem Ctx.recSlot_dropCopies {x : Ctx} {js : List Nat} {j n : Nat} (hj : j ∉ js) (hn : n < 16) :
    (x.dropCopies js).recSlot j n = x.recSlot j n := by
  refine get_setAll_ne _ _ _ (fun p hp => ?_) _
  simp only [List.mem_flatMap, List.mem_map, List.mem_range] at hp
  obtain ⟨i, hi, k, hk, rfl⟩ := hp
  have : i ≠ j := fun e => hj (e ▸ hi)
  show 16 * j + n ≠ 16 * i + k
  omega

theorem Ctx.recSlot_dropSubs {x : Ctx} {j l n : Nat} (hact : (x.lane l).act = true) (hsub : (x.lane l).sub = j) (hlive : (x.lane l).exited = false)
    (hn : n < 16) : x.dropSubs.recSlot j n = x.recSlot j n := by
  refine Ctx.recSlot_dropCopies (fun hj => ?_) hn
  have hany : ((SMap.keys x.lanes).any fun l => decide ((x.lane l).sub = j) && !(x.lane l).exited) = true :=
    List.any_eq_true.mpr ⟨l, Ctx.mem_keys_of_act hact, by simp [hsub, hlive]⟩
  exact Bool.false_ne_true ((congrArg not hany).symm.trans (List.mem_filter.mp hj).2)

/-- The record slots copied for a sub-gang (17 R367; 04 R102). -/
def Ctx.copySlots (x : Ctx) (j : Nat) (f : Nat → Rec256) : Ctx := (List.range 16).foldl (fun (y : Ctx) n => y.putRecSlot j n (f n)) x

theorem foldl_putRecSlot (j : Nat) (f : Nat → Rec256) (ns : List Nat) (k : Nat) : ∀ x : Ctx,
    SMap.get 0 (ns.foldl (fun (y : Ctx) n => y.putRecSlot j n (f n)) x).b k =
      if 16 * j ≤ k ∧ k - 16 * j ∈ ns then f (k - 16 * j) else SMap.get 0 x.b k := by
  induction ns with
  | nil => exact fun x => by simp
  | cons n ns ih =>
    intro x
    rw [List.foldl_cons, ih]
    have hput : SMap.get 0 (x.putRecSlot j n (f n)).b k = if k = 16 * j + n then f n else SMap.get 0 x.b k := SMap.get_set 0 _ _ _ _
    rw [hput]
    by_cases hk : k = 16 * j + n
    · subst hk
      simp
    · have hne : ¬ (16 * j ≤ k ∧ k - 16 * j = n) := by omega
      simp only [if_neg hk, List.mem_cons]
      by_cases hle : 16 * j ≤ k
      · have : k - 16 * j ≠ n := fun e => hne ⟨hle, e⟩
        simp [hle, this]
      · simp [hle]

theorem Ctx.recSlot_copySlots (x : Ctx) (j : Nat) (f : Nat → Rec256) {n : Nat} (hn : n < 16) : (x.copySlots j f).recSlot j n = f n := by
  have h := foldl_putRecSlot j f (List.range 16) (16 * j + n) x
  rw [if_pos ⟨Nat.le_add_right _ _, by rw [Nat.add_sub_cancel_left]; exact List.mem_range.mpr hn⟩, Nat.add_sub_cancel_left] at h
  exact h

theorem Ctx.copySlots_rest (x : Ctx) (j : Nat) (f : Nat → Rec256) : { x.copySlots j f with b := x.b } = x := by
  have hall : ∀ (ns : List Nat) (y : Ctx),
      { ns.foldl (fun (y : Ctx) n => y.putRecSlot j n (f n)) y with b := x.b } = { y with b := x.b } := fun ns => by
    induction ns with
    | nil => exact fun _ => rfl
    | cons n ns ih => exact fun y => ih (y.putRecSlot j n (f n))
  exact hall _ x

/-! ### What settling leaves of a gang one of whose threads runs on (06 R148-R150) -/

theorem Ctx.popRcv_rest (x : Ctx) (p : Rcv → Bool) : { x.popRcv p with lanes := x.lanes, rcv := x.rcv } = x :=
  (congrArg (fun y : Ctx => { y with rcv := x.rcv }) (Ctx.modLanes_rest x _ _) :)

theorem Ctx.lane_popRcv (x : Ctx) (p : Rcv → Bool) (l : Nat) : { (x.popRcv p).lane l with heldRcv := (x.lane l).heldRcv } = x.lane l := by
  have h := Ctx.lane_modLanes x (lanesOf ((x.rcv.filter p).foldl (fun (m : Word64) r => m ||| r.held) 0))
    (fun _ y => { y with heldRcv := false }) (nodup_lanesOf _) l
  have hlane : (x.popRcv p).lane l = _ := h
  rw [hlane]
  split <;> rfl

theorem Ctx.sub_popRcv (x : Ctx) (p : Rcv → Bool) (j : Nat) : (x.popRcv p).sub j = x.sub j :=
  congrArg (fun us => SMap.get Sub.none us j) (congrArg Ctx.subs (x.popRcv_rest p) :)

theorem Ctx.recSlot_popRcv (x : Ctx) (p : Rcv → Bool) (j n : Nat) : (x.popRcv p).recSlot j n = x.recSlot j n :=
  congrArg (fun b => SMap.get 0 b (16 * j + n)) (congrArg Ctx.b (x.popRcv_rest p) :)

/-- A thread that has not exited and is at no barrier keeps the barrier from passing (06 R150). -/
theorem Ctx.checkRb_of_runs {x : Ctx} {l : Nat} (pend : Nat → Bool) (hact : (x.lane l).act = true) (hlive : (x.lane l).exited = false)
    (hrb : (x.lane l).heldRb = false) : x.checkRb pend = x := by
  unfold Ctx.checkRb
  dsimp only
  split
  · rfl
  · refine if_neg fun hall => ?_
    have hmem : l ∈ (SMap.keys x.lanes).filter fun l => (x.lane l).act && !(x.lane l).exited :=
      List.mem_filter.mpr ⟨Ctx.mem_keys_of_act hact, by rw [hact, hlive]; rfl⟩
    have hl := List.all_eq_true.mp hall l hmem
    rw [hrb] at hl
    exact Bool.false_ne_true hl

/-! ### Parking (17 R367) -/

/-- A lane of a sub-gang that parks. -/
def Lane.toSub (y : Lane) (j : Nat) : Lane := { y with sub := j, heldRcv := false, heldRb := false }

/-- The agent with lanes turned into a parked sub-gang, the record slots of sub-gang i copied. -/
def Ctx.parked (x : Ctx) (m : Word64) (j i : Nat) (u : Sub) : Ctx :=
  (((((x.modLanes (lanesOf m) fun _ y => y.toSub j).leaveRcv m).copySlots j (x.recSlot i)).setSub j u).dropSubs)

/-- A gang's lanes park in a free entry. -/
theorem State.park_free {s : State} {g : Nat} {m : Word64} {t : TrapInfo} {hdr : Word64} {idx j l0 : Nat}
    (hlow : lowestLane m = some l0) (hfree : (s.ctx (.gang g)).freeSub = some j) :
    ∃ (st : SubState) (slot : Option Nat) (ops : List MOp), (st = .parked ∨ st = .dormant) ∧
      s.park (.gang g) m t hdr idx = ((({ s with ms := { s.ms with ops := ops } } : State).setCtx (.gang g)
        ((s.ctx (.gang g)).parked m j ((s.ctx (.gang g)).lane l0).sub ⟨st, t.kind, m, hdr, idx, slot, t.atHeader⟩)).settle (.gang g), some j) := by
  unfold State.park
  dsimp only
  rw [hlow, hfree]
  refine ⟨_, _, _, ?_, rfl⟩
  split
  · exact .inl rfl
  · exact .inr rfl

section Parked
variable {x : Ctx} {m : Word64} {j i l0 : Nat} {u : Sub}

/-- An agent that differs in record slots only has the same threads. -/
theorem Ctx.lane_of_slots {x y : Ctx} (h : { y with b := x.b } = x) (l : Nat) : y.lane l = x.lane l := (congrArg (fun z : Ctx => z.lane l) h :)

theorem Ctx.lane_parked (l : Nat) : (x.parked m j i u).lane l = if l ∈ lanesOf m then (x.lane l).toSub j else x.lane l := by
  have hcopy := Ctx.lane_of_slots (Ctx.copySlots_rest ((x.modLanes (lanesOf m) fun _ y => y.toSub j).leaveRcv m) j (x.recSlot i)) l
  unfold Ctx.parked
  generalize Ctx.copySlots _ j (x.recSlot i) = y at hcopy ⊢
  show y.lane l = _
  rw [hcopy]
  exact Ctx.lane_modLanes x (lanesOf m) (fun _ y => y.toSub j) (nodup_lanesOf m) l

/-- The threads of a gang with a parked sub-gang stand where they stood; its own are the sub-gang's. -/
theorem Ctx.lane_parked_settled (l : Nat) : let y := ((x.parked m j i u).releaseRcv).lane l
    y.hdr = (x.lane l).hdr ∧ y.idx = (x.lane l).idx ∧ y.sb = (x.lane l).sb ∧ (l ∈ lanesOf m → y.sub = j) := by
  have hpop : { ((x.parked m j i u).releaseRcv).lane l with heldRcv := ((x.parked m j i u).lane l).heldRcv } = (x.parked m j i u).lane l :=
    Ctx.lane_popRcv _ _ l
  rw [Ctx.lane_parked] at hpop
  generalize ((x.parked m j i u).releaseRcv).lane l = y at hpop
  by_cases hl : l ∈ lanesOf m
  · simp only [if_pos hl] at hpop
    exact ⟨(congrArg Lane.hdr hpop :), (congrArg Lane.idx hpop :), (congrArg Lane.sb hpop :), fun _ => (congrArg Lane.sub hpop :)⟩
  · simp only [if_neg hl] at hpop
    exact ⟨(congrArg Lane.hdr hpop :), (congrArg Lane.idx hpop :), (congrArg Lane.sb hpop :), fun h => absurd h hl⟩

/-- Parking leaves every register. -/
theorem Ctx.SameRegs.parked : Ctx.SameRegs x (x.parked m j i u) := by
  have hcopy := Ctx.copySlots_rest ((x.modLanes (lanesOf m) fun _ y => y.toSub j).leaveRcv m) j (x.recSlot i)
  have hlanes := Ctx.modLanes_rest x (lanesOf m) fun _ y => y.toSub j
  have hp (l : Nat) : ((x.parked m j i u).lane l).p = (x.lane l).p := by
    rw [Ctx.lane_parked]
    split <;> rfl
  unfold Ctx.parked at hp ⊢
  generalize Ctx.copySlots _ j (x.recSlot i) = y at hcopy hp ⊢
  generalize (x.modLanes (lanesOf m) fun _ y => y.toSub j) = z at hcopy hlanes
  exact ⟨(congrArg Ctx.g hcopy :).trans (congrArg Ctx.g hlanes :), (congrArg Ctx.e hcopy :).trans (congrArg Ctx.e hlanes :),
    (congrArg Ctx.fp hcopy :).trans (congrArg Ctx.fp hlanes :), (congrArg Ctx.wbs hcopy :).trans (congrArg Ctx.wbs hlanes :), hp⟩

variable (hact : (x.lane l0).act = true) (hlive : (x.lane l0).exited = false) (hl0 : l0 ∈ lanesOf m)
include hact hlive hl0

omit hact hlive in
/-- The lowest lane of a parked sub-gang, once its record slots are copied. -/
theorem Ctx.lane_copied : (((x.modLanes (lanesOf m) fun _ y => y.toSub j).leaveRcv m).copySlots j (x.recSlot i)).lane l0 = (x.lane l0).toSub j := by
  rw [Ctx.lane_of_slots (Ctx.copySlots_rest _ j (x.recSlot i))]
  exact (Ctx.lane_modLanes x (lanesOf m) (fun _ y => y.toSub j) (nodup_lanesOf m) l0).trans (if_pos hl0)

theorem Ctx.sub_parked (hu : u ≠ Sub.none) : (x.parked m j i u).sub j = u := by
  have hlane := Ctx.lane_copied (x := x) (j := j) (i := i) hl0
  unfold Ctx.parked
  generalize Ctx.copySlots _ j (x.recSlot i) = y at hlane ⊢
  have hset : (y.setSub j u).sub j = u := SMap.get_set_same Sub.none _ _ _
  have hlane : (y.setSub j u).lane l0 = (x.lane l0).toSub j := hlane
  exact (Ctx.sub_dropSubs (l := l0) (hlane ▸ hact) (hlane ▸ rfl) (hlane ▸ hlive) (fun e => hu (hset.symm.trans e))).trans hset

theorem Ctx.recSlot_parked {n : Nat} (hn : n < 16) : (x.parked m j i u).recSlot j n = x.recSlot i n := by
  have hlane := Ctx.lane_copied (x := x) (j := j) (i := i) hl0
  have hslot := Ctx.recSlot_copySlots ((x.modLanes (lanesOf m) fun _ y => y.toSub j).leaveRcv m) j (x.recSlot i) hn
  unfold Ctx.parked
  generalize Ctx.copySlots _ j (x.recSlot i) = y at hlane hslot ⊢
  have hlane : (y.setSub j u).lane l0 = (x.lane l0).toSub j := hlane
  exact (Ctx.recSlot_dropSubs (l := l0) (hlane ▸ hact) (hlane ▸ rfl) (hlane ▸ hlive) hn).trans hslot

/-- A gang with a parked sub-gang settles without passing a barrier. -/
theorem Ctx.settled_parked (pend : Nat → Bool) : ((x.parked m j i u).releaseRcv).checkRb pend = (x.parked m j i u).releaseRcv := by
  have hpop := Ctx.lane_popRcv (x.parked m j i u) (x.parked m j i u).rcvOver l0
  rw [Ctx.lane_parked, if_pos hl0] at hpop
  refine Ctx.checkRb_of_runs pend (l := l0) ((congrArg Lane.act hpop :).trans hact) ((congrArg Lane.exited hpop :).trans hlive) ?_
  exact (congrArg Lane.heldRb hpop :)

end Parked

/-! ### The trap of a gang -/

/-- The fault record of a gang's trap (17 R365, R366). -/
def TrapInfo.gangRecord (t : TrapInfo) (x : Ctx) (m hdr : Word64) (idx : Nat) : FaultRec :=
  { FaultRec.base t.kind x.handle m hdr idx x.gid with imp := t.imp, slot := t.rslot, code := t.code, line := t.line }

/-- The posting of a record leaves every gang. -/
theorem State.postFault_gang (s : State) (q col : Nat) (f : FaultRec) {k : CtxId} (hk : 64 ≤ ctxKey k) : (s.postFault q col f).ctx k = s.ctx k :=
  (State.Wakes.post (P := fun _ => True) s trivial trivial _).others k fun h => by omega

theorem State.postFault_launch? (s : State) (q col : Nat) (f : FaultRec) (h : Word64) : (s.postFault q col f).launch? h = s.launch? h :=
  State.launch?_congr (congrArg (fun u : State => u.la.launches) (State.OnlyEvents.post s q col _) :) h

theorem State.ctx_settle_gang (s : State) (g : Nat) :
    (s.settle (.gang g)).ctx (.gang g) = ((s.ctx (.gang g)).releaseRcv).checkRb (s.fateOpen (.gang g)) := by
  unfold State.settle
  rw [if_neg (show ¬ (CtxId.gang g).isCC = true from Bool.false_ne_true)]
  exact State.ctx_modCtx_same s (.gang g) fun x => (x.releaseRcv).checkRb (s.fateOpen (.gang g))

section GangTrap
variable {s : State} {g : Nat} {m : Word64} {t : TrapInfo} {hdr : Word64} {idx : Nat}

/-- Under FPOL = 0 the lanes park, and the record is posted. -/
theorem State.gangTrap_parks {u : State} {j : Nat} (hfpol : s.fpol (s.ctx (.gang g)).handle ≠ 1)
    (hpark : s.park (.gang g) m t hdr idx = (u, some j)) : ∃ q col f, s.gangTrap (.gang g) m t hdr idx = u.postFault q col f := by
  unfold State.gangTrap
  dsimp only
  rw [if_neg hfpol, hpark]
  exact ⟨_, _, _, rfl⟩

/-- Lanes that stall at their word (17 R367, R369). -/
def Ctx.stallAt (x : Ctx) (m : Word64) (t : TrapInfo) : Ctx :=
  x.modLanes (lanesOf m) fun _ z => { z with stalled := some (t.kind, t.atHeader) }

theorem Ctx.stallAt_lane (x : Ctx) (m : Word64) (t : TrapInfo) (l : Nat) :
    (x.stallAt m t).lane l = if l ∈ lanesOf m then { x.lane l with stalled := some (t.kind, t.atHeader) } else x.lane l :=
  Ctx.lane_modLanes x (lanesOf m) (fun _ z => { z with stalled := some (t.kind, t.atHeader) }) (nodup_lanesOf m) l

theorem Ctx.stallAt_stalled (x : Ctx) (m : Word64) (t : TrapInfo) {l : Nat} (hl : l < 64) :
    ((x.stallAt m t).lane l).stalled = if m.getLsbD l then some (t.kind, t.atHeader) else (x.lane l).stalled := by
  rw [Ctx.stallAt_lane]
  simp only [mem_lanesOf, hl, true_and]
  split <;> rfl

theorem Ctx.SameRegs.stallAt (x : Ctx) (m : Word64) (t : TrapInfo) : Ctx.SameRegs x (x.stallAt m t) := by
  have hrest := Ctx.modLanes_rest x (lanesOf m) fun _ z => { z with stalled := some (t.kind, t.atHeader) }
  refine ⟨(congrArg Ctx.g hrest :), (congrArg Ctx.e hrest :), (congrArg Ctx.fp hrest :), (congrArg Ctx.wbs hrest :), fun l => ?_⟩
  rw [Ctx.stallAt_lane]
  split <;> rfl

/-- Under FPOL = 1 the lanes stall, and the launch has a fault. -/
theorem State.gangTrap_stalls (hfpol : s.fpol (s.ctx (.gang g)).handle = 1) : s.gangTrap (.gang g) m t hdr idx =
    (s.modCtx (.gang g) fun y => y.stallAt m t).launchFault (s.ctx (.gang g)).handle t.kind
      (s.launchQueue (s.ctx (.gang g)).handle (s.colOf (.gang g)))
      (s.colOf (.gang g)) (t.gangRecord (s.ctx (.gang g)) m hdr idx) := if_pos hfpol

/-- A fault of a launch under FPOL = 1 leaves every gang, and ends the launch where it does not end already. -/
theorem State.launchFault_ends {h : Word64} {a : Launch} (ha : s.launch? h = some a) (hfpol : s.fpol h = 1) (kind q col : Nat) (r : FaultRec) :
    (∀ k, 64 ≤ ctxKey k → (s.launchFault h kind q col r).ctx k = s.ctx k) ∧
    ∃ b, (s.launchFault h kind q col r).launch? h = some b ∧ b.ending = true ∧
      (a.ending = false → b.status = 3 ∧ b.cause = kind) ∧ (a.ending = true → b = a) := by
  unfold State.launchFault
  rw [ha]
  dsimp only
  rw [if_neg (not_not.mpr hfpol)]
  cases hend : a.ending with
  | true => exact ⟨fun _ _ => rfl, a, ha, hend, fun hn => absurd hn (by decide), fun _ => rfl⟩
  | false =>
    have hstart : s.startEnd h 3 kind =
        (s.modLaunch h fun l => { l with ending := true, status := 3, cause := kind, quiescing := 1 }).injectMarkers h := by
      unfold State.startEnd
      rw [ha]
      exact if_neg (by rw [hend]; decide)
    rw [if_neg Bool.false_ne_true, hstart]
    have hmark := (s.modLaunch h fun l => { l with ending := true, status := 3, cause := kind, quiescing := 1 }).injectMarkers_only h
    refine ⟨fun k hk => ?_, { a with ending := true, status := 3, cause := kind, quiescing := 1 }, ?_, rfl, fun _ => ⟨rfl, rfl⟩, nofun⟩
    · rw [State.postFault_gang _ _ _ _ hk]
      exact (congrArg (fun u : State => u.ctx k) hmark :)
    · rw [State.postFault_launch?, State.launch?_injectMarkers, State.launch?_modLaunch_same ha]
      exact fun _ => rfl

end GangTrap

/-- Settles O31: under FPOL = 0 by `State.park_free` and what the parked agent keeps, under FPOL = 1 by `State.launchFault_ends`. -/
theorem gangTraps : Obligations.GangTraps := by
  refine ⟨?parks, ?stalls⟩
  case parks =>
    intro s g m t h hdr idx j hm hfpol hfree hlanes c v d
    obtain ⟨l0, hlow⟩ := lowestLane_isSome hm
    have hl0 := mem_lowestLane hlow
    obtain ⟨hact, hlive, hsub⟩ := hlanes l0 hl0
    obtain ⟨st, slot, ops, hst, hpark⟩ := State.park_free (t := t) (hdr := hdr) (idx := idx) hlow hfree
    obtain ⟨q, col, f, htrap⟩ := State.gangTrap_parks hfpol hpark
    have hv : v = _ := (if_neg hm : v = s.gangTrap (.gang g) m t hdr idx).trans htrap
    rw [hsub] at hv
    have hu : (⟨st, t.kind, m, hdr, idx, slot, t.atHeader⟩ : Sub) ≠ Sub.none := fun e => by
      have hnone : st = .none := congrArg Sub.st e
      rcases hst with h | h <;> rw [h] at hnone <;> exact nomatch hnone
    have hd : d = (c.parked m j 0 ⟨st, t.kind, m, hdr, idx, slot, t.atHeader⟩).releaseRcv := by
      show v.ctx (.gang g) = _
      rw [hv, State.postFault_gang (k := .gang g) _ _ _ _ (Nat.le_add_right 64 g), State.ctx_settle_gang, State.ctx_setCtx_same]
      exact Ctx.settled_parked hact hlive hl0 _
    have hj : d.sub j = ⟨st, t.kind, m, hdr, idx, slot, t.atHeader⟩ := by
      rw [hd]
      exact (Ctx.sub_popRcv _ _ j).trans (Ctx.sub_parked hact hlive hl0 hu)
    refine ⟨by rw [hj]; exact hst, by rw [hj], by rw [hj], by rw [hj], by rw [hj], fun l hl => ?lanes,
      fun n hn => ?slots, ?regs, fun k hk hne => ?others⟩
    case lanes =>
      rw [hd]
      obtain ⟨hhdr, hidx, hsb, hsub⟩ := Ctx.lane_parked_settled (x := c) (m := m) (j := j) (i := 0)
        (u := ⟨st, t.kind, m, hdr, idx, slot, t.atHeader⟩) l
      exact ⟨hhdr, hidx, hsb, fun hbit => hsub (mem_lanesOf.mpr ⟨hl, hbit⟩)⟩
    case slots =>
      rw [hd]
      exact (Ctx.recSlot_popRcv _ _ j n).trans (Ctx.recSlot_parked hact hlive hl0 hn)
    case regs =>
      rw [hd]
      exact Ctx.SameRegs.parked.trans (Ctx.Stays.releaseRcv _).sameRegs
    case others =>
      rw [hv, State.postFault_gang _ _ _ _ hk, (StaysAt.settle _ (.gang g)).only.others k hne]
      exact State.ctx_setCtx_ne (c := .gang g) _ _ hne
  case stalls =>
    intro s g m t h hdr idx a hm c ha hfpol v
    have hv : v = _ := (if_neg hm : v = s.gangTrap (.gang g) m t hdr idx).trans (State.gangTrap_stalls hfpol)
    have hlaunch : (s.modCtx (.gang g) fun y => y.stallAt m t).launch? c.handle = some a := ha
    obtain ⟨hctx, hends⟩ := State.launchFault_ends hlaunch hfpol t.kind (s.launchQueue c.handle (s.colOf (.gang g))) (s.colOf (.gang g))
      (t.gangRecord c m hdr idx)
    have hstalled : v.ctx (.gang g) = c.stallAt m t := by
      rw [hv]
      exact (hctx (.gang g) (Nat.le_add_right 64 g)).trans (State.ctx_modCtx_same _ _ _)
    refine ⟨fun l hl => ?_, ?_, hv ▸ hends⟩
    · rw [hstalled]
      exact Ctx.stallAt_stalled c m t hl
    · rw [hstalled]
      exact Ctx.SameRegs.stallAt c m t

end Sys2Proof.Machine
end

section
/-! O52: the calendar, its slots, and ring heaters, event by event (18 R388-R396; 25 R442). -/

set_option Elab.async false

namespace Sys2Proof.Machine

/-! ### The calendar written and activated (18 R388, R389) -/

/-- The limits of the calendar's registers. -/
theorem calendarOk_limits (v : Nat) :
    (calendarOk SysReg.slotper v = true ↔ 2048 ≤ v ∧ v ≤ 16384) ∧ (calendarOk SysReg.slotlen v = true ↔ 128 ≤ v ∧ v ≤ 8191) ∧
    calendarOk SysReg.longevery v = true ∧ (calendarOk SysReg.longlen v = true ↔ 1024 ≤ v ∧ v ≤ 8191) ∧
    (calendarOk SysReg.horizon v = true ↔ v ≤ 4095) :=
  ⟨decide_eq_true_iff, decide_eq_true_iff, rfl, decide_eq_true_iff, decide_eq_true_iff⟩

/-- The value that a write of a calendar register stages. -/
def calendarValue (reg : Nat) (v : Word64) : Nat := if reg = SysReg.slotper then field v 19 0 else field v 15 0

/-- ERR cleared where a write says so. -/
def State.calendarErrCleared (s : State) (reg : Nat) (v : Word64) : State :=
  if reg = SysReg.slotper ∧ v.getLsbD 62 = true then
    s.sysPut SysReg.slotper 0 (s.sysGet SysReg.slotper 0 &&& ~~~0x4000000000000000) else s

theorem exec_calendarWrite {reg : Nat} {v : Word64} (hreg : SysReg.slotper ≤ reg ∧ reg ≤ SysReg.horizon) (s : State) :
    exec (.calendarWrite reg v) s = .next (s.writeCalendar reg v) := if_pos hreg

theorem State.writeCalendar_stages {s : State} {reg : Nat} {v : Word64} (h : calendarOk reg (calendarValue reg v) = true) :
    s.writeCalendar reg v =
      let u := s.calendarErrCleared reg v
      { u with ca := { u.ca with staged := SMap.set none u.ca.staged reg (some (calendarValue reg v)), lastWrite := u.ns } } := if_pos h

theorem State.writeCalendar_refuses {s : State} {reg : Nat} {v : Word64} (h : calendarOk reg (calendarValue reg v) = false) :
    s.writeCalendar reg v = s.calendarErrCleared reg v := if_neg (Bool.not_eq_true _ ▸ h)

/-- A staged set breaks the limits that its registers keep together. -/
def State.badSet (s : State) : Prop :=
  s.stagedOr SysReg.slotper < 2 * s.stagedOr SysReg.slotlen + s.stagedOr SysReg.horizon ∨
  s.stagedOr SysReg.slotper < 2 * s.stagedOr SysReg.longlen + s.stagedOr SysReg.horizon

theorem execCalendarActivate_discards {s : State} (hdue : s.activateDue = true) (hbad : s.badSet) :
    execCalendarActivate s =
      let u : State := { s with ca := { s.ca with staged := [] } }
      .next (u.sysPut SysReg.slotper 0 (u.sysGet SysReg.slotper 0 ||| 0x4000000000000000)) := by
  rw [execCalendarActivate, hdue]
  exact if_pos hbad

theorem execCalendarActivate_activates {s : State} (hdue : s.activateDue = true) (hok : ¬ s.badSet) :
    execCalendarActivate s =
      let put (s : State) (reg v : Nat) : State := s.sysPut reg 0 (BitVec.ofNat 64 v)
      let u0 : State := { s with ca := { s.ca with staged := [] } }
      let u := u0.sysPut SysReg.slotper 0 (setField (u0.sysGet SysReg.slotper 0) 19 0 (s.stagedOr SysReg.slotper))
      let v := (put (put (put (put u SysReg.slotlen (s.stagedOr SysReg.slotlen)) SysReg.longevery (s.stagedOr SysReg.longevery))
        SysReg.longlen (s.stagedOr SysReg.longlen)) SysReg.horizon (s.stagedOr SysReg.horizon)).retrained
      .next { v with
        ca := { v.ca with anchor := v.ns, slot := none, extended := 0, drain := false, past := none, retrain := none }
        mx := { v.mx with cmds := v.mx.cmds.map fun c => { c with deferred := none } } } := by
  rw [execCalendarActivate, hdue]
  exact if_neg hok

/-! ### Free counts (18 R394, R395; logs 11, 25) -/

theorem State.freeBelow_lt (s : State) (n : Nat) : (s.freeBelow (n + 1)).2 < n + 1 :=
  (Nat.mod_lt _ (by omega)).trans_eq (Nat.max_eq_right (by omega))

/-- One work's transactions counted, among those that a slot finds held. -/
def State.countOne (s : State) (m : Word64) (r : State × List (Nat × CmdId × Nat)) (h : Nat × CmdId × Nat) : State × List (Nat × CmdId × Nat) :=
  match s.underWay.find? fun w => w.id = h.1 with
  | some w =>
    let z := r.1.freeBelow (s.slotCount m w + 1)
    (z.1, if z.2 = 0 then r.2 else r.2 ++ [(h.1, h.2.1, z.2)])
  | none => r

theorem State.countHeld_eq (s : State) (m : Word64) : s.countHeld m =
    let r := s.ca.held.foldl (s.countOne m) (s, [])
    { r.1 with ca := { r.1.ca with held := r.2 } } := rfl

/-- A counted work is one under way that was held, with no more than the slot concerns. -/
def State.Counted (s : State) (m : Word64) (h : Nat × CmdId × Nat) : Prop :=
  ∃ w ∈ s.underWay, w.id = h.1 ∧ (∃ n, (h.1, h.2.1, n) ∈ s.ca.held) ∧ 0 < h.2.2 ∧ h.2.2 ≤ s.slotCount m w

theorem State.countOne_spec (s : State) (m : Word64) {r : State × List (Nat × CmdId × Nat)} {h : Nat × CmdId × Nat} (hh : h ∈ s.ca.held)
    (hr : { r.1 with freeCtr := s.freeCtr } = s ∧ ∀ k ∈ r.2, s.Counted m k) :
    { (s.countOne m r h).1 with freeCtr := s.freeCtr } = s ∧ ∀ k ∈ (s.countOne m r h).2, s.Counted m k := by
  unfold State.countOne
  split
  next w hw =>
    refine ⟨hr.1, fun k hk => ?_⟩
    dsimp only at hk
    split at hk
    · exact hr.2 k hk
    next hpos =>
      rcases List.mem_append.mp hk with hk | hk
      · exact hr.2 k hk
      · obtain rfl := List.mem_singleton.mp hk
        exact ⟨w, List.mem_of_find?_eq_some hw, by simpa using List.find?_some hw, ⟨h.2.2, hh⟩, Nat.pos_of_ne_zero hpos,
          Nat.le_of_lt_succ (State.freeBelow_lt _ _)⟩
  next => exact hr

/-- What a slot's start counts. -/
theorem State.countHeld_spec (s : State) (m : Word64) : let u := s.countHeld m
    { u with freeCtr := s.freeCtr, ca := { u.ca with held := s.ca.held } } = s ∧
    ∀ h ∈ u.ca.held, ∃ w ∈ s.underWay, w.id = h.1 ∧ (∃ n, (h.1, h.2.1, n) ∈ s.ca.held) ∧ 0 < h.2.2 ∧ h.2.2 ≤ s.slotCount m w := by
  have hfold : ∀ (hs : List (Nat × CmdId × Nat)) (r : State × List (Nat × CmdId × Nat)), (∀ h ∈ hs, h ∈ s.ca.held) →
      { r.1 with freeCtr := s.freeCtr } = s ∧ (∀ k ∈ r.2, s.Counted m k) →
      { (hs.foldl (s.countOne m) r).1 with freeCtr := s.freeCtr } = s ∧ ∀ k ∈ (hs.foldl (s.countOne m) r).2, s.Counted m k := fun hs => by
    induction hs with
    | nil => exact fun _ _ hr => hr
    | cons h hs ih =>
      intro r hall hr
      exact ih _ (fun k hk => hall k (List.mem_cons_of_mem _ hk)) (s.countOne_spec m (hall h List.mem_cons_self) hr)
  obtain ⟨hrest, hcounted⟩ := hfold s.ca.held (s, []) (fun _ h => h) ⟨rfl, nofun⟩
  refine ⟨?_, hcounted⟩
  rw [State.countHeld_eq]
  generalize s.ca.held.foldl (s.countOne m) (s, []) = r at hrest
  have hheld : r.1.ca.held = s.ca.held := (congrArg (fun u : State => u.ca.held) hrest :)
  dsimp only
  rw [← hheld]
  exact hrest

/-- The tolerant transactions of one work counted. -/
def State.tolerateOne (m : Word64) (s : State) (w : EWork) : State :=
  let z := s.freeBelow (s.slotCount m w + 1)
  { z.1 with ca := { z.1.ca with tolerated := z.1.ca.tolerated + z.2 } }

theorem State.countTolerated_spec (s : State) (m : Word64) : let u := s.countTolerated m
    { u with freeCtr := s.freeCtr, ca := { u.ca with tolerated := s.ca.tolerated } } = s ∧ s.ca.tolerated ≤ u.ca.tolerated ∧
    u.ca.tolerated ≤ s.ca.tolerated + ((s.underWay.filter EWork.st).map (s.slotCount m)).sum := by
  have hfold : ∀ (ws : List EWork) (u : State), let v := ws.foldl (State.tolerateOne m) u
      { v with freeCtr := u.freeCtr, ca := { v.ca with tolerated := u.ca.tolerated } } = u ∧ u.ca.tolerated ≤ v.ca.tolerated ∧
      v.ca.tolerated ≤ u.ca.tolerated + (ws.map (u.slotCount m)).sum := fun ws => by
    induction ws with
    | nil => exact fun u => ⟨rfl, Nat.le_refl _, Nat.le_add_right _ _⟩
    | cons w ws ih =>
      intro u v
      have hlt := u.freeBelow_lt (u.slotCount m w)
      obtain ⟨hrest, hle, hsum⟩ := ih (State.tolerateOne m u w)
      have hcount : (State.tolerateOne m u w).slotCount m = u.slotCount m := rfl
      have hone : (State.tolerateOne m u w).ca.tolerated = u.ca.tolerated + (u.freeBelow (u.slotCount m w + 1)).2 := rfl
      rw [hcount] at hsum
      rw [List.map_cons, List.sum_cons]
      refine ⟨?_, ?_, ?_⟩
      · exact (congrArg (fun z : State => ({ z with freeCtr := u.freeCtr, ca := { z.ca with tolerated := u.ca.tolerated } } : State)) hrest :)
      · exact (hone ▸ Nat.le_add_right _ _).trans hle
      · have hv : v.ca.tolerated ≤ _ := hsum
        omega
  exact hfold _ s

/-! ### Slots (18 R390, R391, R395, R396) -/

theorem happens_slotDrainWindow : Happens .slotDrainWindow (fun s => s.drainDue = true) fun s => { s with ca := { s.ca with
    drain := true, held := (s.underWay.filter fun w => !w.st).map fun w => (w.id, w.by_, 0) } } :=
  happens_of_next fun s hdue => if_neg (by rw [hdue]; decide)

theorem happens_slotStart (k : Nat) : Happens .slotStart (fun s => s.startDue = some k) fun s =>
    let m := s.slotMask k
    let u := s.countHeld m
    let x := u.link (field m 21 16)
    let train := m.getLsbD 22 = true ∧ x.up = true ∧ 1 < x.width ∧ (s.pw.mstate = 0 ∨ s.pw.mstate = 1 ∧ x.width = x.good)
    ({ u with ca := { u.ca with
      slot := some k, extended := 0, carried := if u.ca.carried = 1 then 2 else u.ca.carried, tolerated := 0
      retrain := if train then some (field m 21 16) else none } } : State).settleWidth (field m 21 16) := by
  refine happens_of_next fun s hdue => ?_
  show execSlotStart s = _
  rw [execSlotStart, hdue]
  dsimp only [State.beginSlot]
  congr! 6
  simp [and_assoc]

theorem happens_slotEnd (k : Nat) : Happens .slotEnd (fun s => s.endDue = some k) fun s => s.endSlot k := by
  refine happens_of_ret fun s hdue => ?_
  show execSlotEnd s = _
  rw [execSlotEnd, hdue]

/-- The overrun records of a slot with one held work. -/
theorem State.overrunRecords_single {s : State} {c : CmdId} {l : Launch} (n : Nat) (hl : s.launch? c.handle = some l) :
    s.overrunRecords [(c, n)] = if l.recNat 27 1 % 2 = 1 then s.engineFault c 0x0E n 255 0 else s := by
  have hone : (([(c, n)] : List (CmdId × Nat)).map fun h => h.1.handle).eraseDups = [c.handle] := by
    simp [List.eraseDups_cons]
  have hmine : ([(c, n)] : List (CmdId × Nat)).filter (fun p => decide (p.1.handle = c.handle)) = [(c, n)] := by simp
  rw [State.overrunRecords, hone, List.foldl_cons, List.foldl_nil, hmine, hl]
  rfl

section Extend
variable (k : Nat)

theorem happens_slotExtend_longer : Happens .slotExtend (fun s => s.endDue = some k ∧ 64 * (s.ca.extended + 1) ≤ s.slotNominal k) fun s =>
    { s with ca := { s.ca with extended := s.ca.extended + 1 } } := by
  refine happens_of_next fun s ⟨hdue, hroom⟩ => ?_
  show execSlotExtend s = _
  rw [execSlotExtend, hdue]
  exact if_pos hroom

theorem execSlotExtend_carries {s : State} (hdue : s.endDue = some k) (hfull : s.slotNominal k < 64 * (s.ca.extended + 1)) :
    execSlotExtend s =
      let z := s.freeBelow 2
      let out := decide (s.ca.carried = 2 ∧ z.2 = 1)
      let s1 := if out then z.1.machineEvent 0 0 0 0x07 0 0 else z.1
      let outs := if out then s.ca.outs ++ [s.ca.carryMask] else s.ca.outs
      .next { s1 with ca := { s1.ca with carried := 1, carryMask := s.slotMask k, outs := outs } } := by
  rw [execSlotExtend, hdue]
  exact if_neg (Nat.not_le.mpr hfull)

theorem happens_slotExtend_carries : Happens .slotExtend (fun s => s.endDue = some k ∧ s.slotNominal k < 64 * (s.ca.extended + 1) ∧
    s.ca.carried ≠ 2) fun s => { s with freeCtr := s.freeCtr + 1, ca := { s.ca with carried := 1, carryMask := s.slotMask k } } := by
  refine happens_of_next fun s ⟨hdue, hfull, hnot⟩ => ?_
  refine (execSlotExtend_carries k hdue hfull).trans ?_
  simp [hnot, State.freeBelow]

theorem happens_slotExtend_out : Happens .slotExtend (fun s => s.endDue = some k ∧ s.slotNominal k < 64 * (s.ca.extended + 1) ∧
    s.ca.carried = 2) fun s =>
      let out := (Config.freeWord s.freeCtr).toNat % 2 = 1
      let u : State := { s with freeCtr := s.freeCtr + 1 }
      let v := if out then u.machineEvent 0 0 0 0x07 0 0 else u
      { v with ca := { v.ca with
        carried := 1, carryMask := s.slotMask k, outs := if out then s.ca.outs ++ [s.ca.carryMask] else s.ca.outs } } := by
  refine happens_of_next fun s ⟨hdue, hfull, hcarried⟩ => ?_
  refine (execSlotExtend_carries k hdue hfull).trans ?_
  have hfree : (s.freeBelow 2).2 = (Config.freeWord s.freeCtr).toNat % 2 := rfl
  simp only [hcarried, hfree, true_and, decide_eq_true_eq]
  rfl

end Extend

theorem happens_carriedWorkPiece (ns : Nat) : Happens (.carriedWorkPiece ns)
    (fun s => s.ca.outs ≠ [] ∧ s.ca.slot = none ∧ 0 < ns ∧ ns ≤ 64 ∧ s.ca.pieceEnd ≤ s.ns) fun s =>
      { s with ca := { s.ca with pieceEnd := s.ns + ns } } := by
  refine happens_of_next fun s ⟨hout, hslot, hpos, hle, hend⟩ => ?_
  have hgo : ¬ (s.ca.outs.isEmpty = true ∨ s.ca.slot.isSome = true ∨ 64 < ns ∨ s.ns < s.ca.pieceEnd) := by
    simp [hout, hslot, hle, hend]
  exact (if_neg hgo).trans (if_neg (by omega))

theorem happens_carriedWorkPiece_done : Happens (.carriedWorkPiece 0)
    (fun s => s.ca.outs ≠ [] ∧ s.ca.slot = none ∧ s.ca.pieceEnd ≤ s.ns) fun s => { s with ca := { s.ca with outs := s.ca.outs.drop 1 } } := by
  refine happens_of_next fun s ⟨hout, hslot, hend⟩ => ?_
  have hgo : ¬ (s.ca.outs.isEmpty = true ∨ s.ca.slot.isSome = true ∨ 64 < 0 ∨ s.ns < s.ca.pieceEnd) := by
    simp [hout, hslot, hend]
  exact (if_neg hgo).trans (if_pos rfl)

/-! ### Ring heaters (18 R392; 25 R442) -/

/-- The place of a ring's heater code, or of a wavelength's ring. -/
theorem ringInst_eq (die fibre n : Nat) : ringInst die fibre n = 512 * die + 32 * fibre + n := by
  rw [ringInst, Nat.mul_comm die, Nat.mul_comm fibre]

section Ring
variable (v : Word64)

theorem happens_ringhtWrite : Happens (.ringhtWrite v) (fun s => s.retuning s.ringDie = true) fun s =>
    let u := s.sysPut SysReg.ringht (512 * s.ringDie + 32 * s.ringFibre + s.ringNum) (BitVec.ofNat 64 (field v 9 0))
    { u with ca := { u.ca with htErr := u.ca.htErr && !v.getLsbD 63 } } := by
  refine happens_of_next fun s hopen => ?_
  rw [← ringInst_eq]
  exact congrArg Host.Outcome.next (if_pos hopen)

theorem happens_ringhtWrite_refused : Happens (.ringhtWrite v) (fun s => s.retuning s.ringDie = false) fun s =>
    { s with ca := { s.ca with htErr := true } } :=
  happens_of_next fun _ hshut => congrArg Host.Outcome.next (if_neg (Bool.not_eq_true _ ▸ hshut))

theorem ringUsed_eq_true {s : State} {die fibre ring : Nat} :
    s.ringUsed die fibre ring = true ↔ ∃ w, w < 16 ∧ s.ringOf die fibre w = ring := by
  simp [State.ringUsed]

theorem happens_ringmapWrite_refused : Happens (.ringmapWrite v) (fun s => s.retuning s.ringDie = false ∨ 16 ≤ s.ringNum ∨ 17 < field v 4 0 ∨
      ∃ w, w < 16 ∧ w ≠ s.ringNum ∧ s.ringOf s.ringDie s.ringFibre w = field v 4 0 ∧
        s.ringOf s.ringDie s.ringFibre s.ringNum ≠ field v 4 0) fun s =>
    { s with ca := { s.ca with mapErr := true } } := by
  refine happens_of_next fun s hbad => congrArg Host.Outcome.next (if_pos ?_)
  rcases hbad with hshut | hwave | hring | ⟨w, hw, -, hused, hother⟩
  · exact .inl (by rw [hshut]; rfl)
  · exact .inr (.inl hwave)
  · exact .inr (.inr (.inl hring))
  · exact .inr (.inr (.inr ⟨hother.symm, ringUsed_eq_true.mpr ⟨w, hw, hused⟩⟩))

/-- A write of sys.ringmap that a retune window lets through. -/
theorem State.writeRingmap_goes {s : State} (hopen : s.retuning s.ringDie = true) (hwave : s.ringNum < 16) (hring : field v 4 0 ≤ 17)
    (hfree : field v 4 0 = s.ringOf s.ringDie s.ringFibre s.ringNum ∨ s.ringUsed s.ringDie s.ringFibre (field v 4 0) = false) :
    s.writeRingmap v =
      let u := s.sysPut SysReg.ringmap (512 * s.ringDie + 32 * s.ringFibre + s.ringNum) (BitVec.ofNat 64 (field v 4 0))
      { u with ca := { u.ca with
        mapErr := u.ca.mapErr && !v.getLsbD 63
        monitor := if field v 4 0 = s.ringOf s.ringDie s.ringFibre s.ringNum then u.ca.monitor
          else SMap.set 0 u.ca.monitor (monitorKey s.ringDie s.ringFibre (field v 4 0) 0) 0 } } := by
  rw [← ringInst_eq]
  refine if_neg ?_
  rw [hopen]
  rintro (h | h | h | ⟨hne, hused⟩)
  · exact absurd h (by decide)
  · omega
  · omega
  · rcases hfree with h | h
    · exact hne h
    · exact absurd (h.symm.trans hused) (by decide)

theorem happens_ringmapWrite_moves : Happens (.ringmapWrite v) (fun s => s.retuning s.ringDie = true ∧ s.ringNum < 16 ∧ field v 4 0 ≤ 17 ∧
      ∀ w, w < 16 → s.ringOf s.ringDie s.ringFibre w ≠ field v 4 0) fun s =>
    let u := s.sysPut SysReg.ringmap (512 * s.ringDie + 32 * s.ringFibre + s.ringNum) (BitVec.ofNat 64 (field v 4 0))
    { u with ca := { u.ca with
      mapErr := u.ca.mapErr && !v.getLsbD 63
      monitor := SMap.set 0 u.ca.monitor (monitorKey s.ringDie s.ringFibre (field v 4 0) 0) 0 } } := by
  refine happens_of_next fun s ⟨hopen, hwave, hring, hfree⟩ => congrArg Host.Outcome.next ?_
  have hunused : s.ringUsed s.ringDie s.ringFibre (field v 4 0) = false := by
    rw [← Bool.not_eq_true, ringUsed_eq_true]
    exact fun ⟨w, hw, he⟩ => hfree w hw he
  rw [State.writeRingmap_goes v hopen hwave hring (.inr hunused)]
  dsimp only
  rw [if_neg (hfree _ hwave).symm]

theorem happens_ringmapWrite_same : Happens (.ringmapWrite v) (fun s => s.retuning s.ringDie = true ∧ s.ringNum < 16 ∧ field v 4 0 ≤ 17 ∧
      s.ringOf s.ringDie s.ringFibre s.ringNum = field v 4 0) fun s =>
    let u := s.sysPut SysReg.ringmap (512 * s.ringDie + 32 * s.ringFibre + s.ringNum) (BitVec.ofNat 64 (field v 4 0))
    { u with ca := { u.ca with mapErr := u.ca.mapErr && !v.getLsbD 63 } } := by
  refine happens_of_next fun s ⟨hopen, hwave, hring, hsame⟩ => congrArg Host.Outcome.next ?_
  rw [State.writeRingmap_goes v hopen hwave hring (.inl hsame.symm)]
  dsimp only
  rw [if_pos hsame.symm]

end Ring

/-- Settles O52, event by event; the counts of a slot by `State.countHeld_spec` and `State.countTolerated_spec`. -/
theorem calendarEvents : Obligations.CalendarEvents := by
  refine ⟨calendarOk_limits, fun reg v => ?write, fun reg v => ?refuse, ?discard, ?activate, happens_slotDrainWindow, happens_slotStart,
    fun s m => s.countHeld_spec m, happens_slotEnd, fun s m => s.countTolerated_spec m, fun s c l n => ⟨rfl, State.overrunRecords_single n⟩,
    happens_slotExtend_longer, happens_slotExtend_carries, happens_slotExtend_out, happens_carriedWorkPiece, happens_carriedWorkPiece_done,
    happens_ringhtWrite, happens_ringhtWrite_refused, happens_ringmapWrite_refused, happens_ringmapWrite_moves, happens_ringmapWrite_same,
    fun die centre power => ?sample⟩
  case write =>
    exact happens_of_next fun s ⟨hlo, hhi, hok⟩ =>
      (exec_calendarWrite ⟨hlo, hhi⟩ s).trans (congrArg Host.Outcome.next (State.writeCalendar_stages hok))
  case refuse =>
    exact happens_of_next fun s ⟨hlo, hhi, hbad⟩ =>
      (exec_calendarWrite ⟨hlo, hhi⟩ s).trans (congrArg Host.Outcome.next (State.writeCalendar_refuses hbad))
  case discard => exact happens_of_next fun s ⟨hdue, hbad⟩ => execCalendarActivate_discards hdue hbad
  case activate => exact happens_of_next fun s ⟨hdue, hok⟩ => execCalendarActivate_activates hdue hok
  case sample =>
    refine happens_of_next fun s ⟨hdie, hopen⟩ => if_neg ?_
    rw [hopen]
    exact fun h => h.elim (Nat.not_le.mpr hdie) (by decide)

end Sys2Proof.Machine
end

section
/-! O50: the messages of drift regions, evicted drift lines and the table's registers, event by event (15 R328-R339). -/

set_option Elab.async false

namespace Sys2Proof.Machine

/-! ### Messages (15 R338, R339) -/

/-- A message in flight is taken, and does what its kind does. -/
theorem onMessage_of_message {id : Nat} {m : DMsg} {f : DMsg → State → Option State} {s t : State} (hm : s.message id = some m)
    (hf : f m (s.took id) = some t) : onMessage id f s = ret t := by
  have h : ((s.message id).bind fun m => f m (s.took id)) = some t := by rw [hm, Option.bind_some, hf]
  rw [onMessage, h]

theorem happens_shareRequest_retired (id cache region : Nat) :
    Happens (.shareRequest id) (fun s => s.message id = some (.shareRequest cache region) ∧ (s.driftEntry region).valid = false)
      fun s => (s.took id).send (.shareGrant cache region 0 s.opId) :=
  happens_of_ret fun s ⟨hm, hvalid⟩ => by
    show execShareRequest id s = _
    exact onMessage_of_message hm (congrArg some (if_neg fun h => Bool.false_ne_true (hvalid.symm.trans h)))

theorem happens_shareRequest_queued (id cache region : Nat) :
    Happens (.shareRequest id) (fun s => s.message id = some (.shareRequest cache region) ∧ (s.driftEntry region).valid = true)
      fun s =>
        let h := (s.took id).driftHome region
        ((s.took id).putHome { h with reqs := h.reqs ++ [(cache, none)] }).settleHome region :=
  happens_of_ret fun s ⟨hm, hvalid⟩ => by
    show execShareRequest id s = _
    exact onMessage_of_message hm (congrArg some (if_pos hvalid))

/-- What a share that comes does to the cache's tracker of its region. -/
def State.granted (s : State) (cache region share num : Nat) : State :=
  let void := decide (share = 0) || s.dr.voids.contains (cache, region, num)
  let s1 := s.unvoid cache region num
  match s1.tracker? cache region with
  | some t => s1.putTracker (if void then { t with requested := false } else { t with requested := false, share := share, grant := num })
  | none => if void then s1 else s1.send (.shareReturn cache region num)

theorem exec_shareGrant {id cache region share num : Nat} {s : State} (hm : s.message id = some (.shareGrant cache region share num)) :
    exec (.shareGrant id) s = ret ((s.took id).granted cache region share num) := by
  show execShareGrant id s = _
  exact onMessage_of_message hm rfl

theorem State.granted_tracked {s : State} {cache region share num : Nat} {t : Tracker} (ht : s.tracker? cache region = some t)
    (hvoid : s.dr.voids.contains (cache, region, num) = false) (hshare : share ≠ 0) :
    s.granted cache region share num =
      (s.unvoid cache region num).putTracker { t with requested := false, share := share, grant := num } := by
  have ht1 : (s.unvoid cache region num).tracker? cache region = some t := ht
  simp only [State.granted, ht1, hvoid, decide_eq_false hshare, Bool.or_self, Bool.false_eq_true, if_false]

theorem State.granted_void {s : State} {cache region share num : Nat} {t : Tracker} (ht : s.tracker? cache region = some t)
    (hvoid : s.dr.voids.contains (cache, region, num) = true) :
    s.granted cache region share num = (s.unvoid cache region num).putTracker { t with requested := false } := by
  have ht1 : (s.unvoid cache region num).tracker? cache region = some t := ht
  simp only [State.granted, ht1, hvoid, Bool.or_true, if_true]

theorem State.granted_untracked {s : State} {cache region share num : Nat} (ht : s.tracker? cache region = none)
    (hvoid : s.dr.voids.contains (cache, region, num) = false) (hshare : share ≠ 0) :
    s.granted cache region share num = (s.unvoid cache region num).send (.shareReturn cache region num) := by
  have ht1 : (s.unvoid cache region num).tracker? cache region = none := ht
  simp only [State.granted, ht1, hvoid, decide_eq_false hshare, Bool.or_self, Bool.false_eq_true, if_false]

/-- What a forced drain does at a cache. -/
def State.forcedAt (s : State) (cache region num : Nat) : State :=
  match s.tracker? cache region with
  | some t =>
    if t.share = 0 ∨ t.grant ≠ num then (s.voided cache region num).send (.drainAck cache region num)
    else if t.draining then s.putTracker { t with forced := true }
    else s.beginDrain { t with forced := true }
  | none => (s.voided cache region num).send (.drainAck cache region num)

theorem exec_forcedDrain {id cache region num why : Nat} {s : State} (hm : s.message id = some (.forcedDrain cache region num why)) :
    exec (.forcedDrain id) s = ret ((s.took id).forcedAt cache region num) := by
  show execForcedDrain id s = _
  exact onMessage_of_message hm rfl

theorem State.forcedAt_held {s : State} {cache region num : Nat} {t : Tracker} (ht : s.tracker? cache region = some t)
    (hshare : t.share ≠ 0) (hnum : t.grant = num) :
    s.forcedAt cache region num =
      if t.draining then s.putTracker { t with forced := true } else s.beginDrain { t with forced := true } := by
  rw [State.forcedAt, ht]
  exact if_neg fun h => h.elim hshare (· hnum)

theorem State.forcedAt_notHeld {s : State} {cache region num : Nat}
    (h : ∀ t, s.tracker? cache region = some t → t.share = 0 ∨ t.grant ≠ num) :
    s.forcedAt cache region num = (s.voided cache region num).send (.drainAck cache region num) := by
  rw [State.forcedAt]
  cases ht : s.tracker? cache region with
  | none => rfl
  | some t => exact if_pos (h t ht)

theorem happens_forcedDrain_begun (id cache region num why : Nat) (t : Tracker) :
    Happens (.forcedDrain id) (fun s => s.message id = some (.forcedDrain cache region num why) ∧
      (s.took id).tracker? cache region = some t ∧ t.share ≠ 0 ∧ t.grant = num ∧ t.draining = false) fun s =>
        (s.took id).beginDrain { t with forced := true } :=
  happens_of_ret fun s ⟨hm, ht, hshare, hnum, hdrain⟩ => by
    rw [exec_forcedDrain hm, State.forcedAt_held ht hshare hnum, hdrain]
    rfl

theorem happens_forcedDrain_underWay (id cache region num why : Nat) (t : Tracker) :
    Happens (.forcedDrain id) (fun s => s.message id = some (.forcedDrain cache region num why) ∧
      (s.took id).tracker? cache region = some t ∧ t.share ≠ 0 ∧ t.grant = num ∧ t.draining = true) fun s =>
        (s.took id).putTracker { t with forced := true } :=
  happens_of_ret fun s ⟨hm, ht, hshare, hnum, hdrain⟩ => by
    rw [exec_forcedDrain hm, State.forcedAt_held ht hshare hnum, hdrain]
    rfl

/-! ### Delta writes and their acknowledgements (15 R330, R333, R340, R343) -/

section DeltaWrite
variable {id cache region pa : Nat} {x : Word} {fmt : Nat} {op : Option (Nat × Nat)} {held : Bool} {s : State}
  (hm : s.message id = some (.deltaWrite cache region pa x fmt op held))
include hm

/-- A delta write whose turn has come, at an element whose resource is there. -/
theorem exec_deltaWrite_in_turn (hbehind : s.deltaBehind id cache pa = false) (hfree : s.taken pa = false ∨ s.sliceHas pa 4 = true) :
    exec (.deltaWrite id) s =
      if s.leaseLive pa then
        if held then .next s
        else ret (({ s with dr := { s.dr with msgs := s.dr.msgs.map fun p =>
          if p.1 = id then (id, .deltaWrite cache region pa x fmt op true) else p } } : State).splitRegion pa)
      else ret (((s.took id).applyDelta fmt pa x).send (.deltaAck cache region pa op)) := by
  have hturn : (s.deltaBehind id cache pa || (s.taken pa && !s.sliceHas pa 4)) = false := by
    rcases hfree with h | h <;> simp [hbehind, h]
  show execDeltaWrite id s = _
  simp only [execDeltaWrite, hm, hturn, Bool.false_eq_true, if_false]

theorem exec_deltaWrite_waits
    (h : s.deltaBehind id cache pa = true ∨ (s.taken pa = true ∧ s.sliceHas pa 4 = false) ∨ (s.leaseLive pa = true ∧ held = true)) :
    exec (.deltaWrite id) s = .next s := by
  show execDeltaWrite id s = _
  simp only [execDeltaWrite, hm]
  split
  next => rfl
  next hturn =>
    rcases h with h | ⟨htaken, hslice⟩ | ⟨hlease, hheld⟩
    · exact absurd (by rw [h]; rfl) hturn
    · exact absurd (by rw [htaken, hslice, Bool.not_false, Bool.and_self, Bool.or_true]) hturn
    · rw [if_pos hlease, if_pos hheld]

end DeltaWrite

/-- The end of a drain that an acknowledgement may bring. -/
def State.acked (s : State) (cache region : Nat) : State :=
  match s.tracker? cache region with
  | some t => s.endDrain t
  | none => s

/-- The addition that an acknowledged delta write carried is performed. -/
def State.additionEnds (s : State) (op : Option (Nat × Nat)) : State :=
  match op with
  | some (i, lane) => (match s.op? i with
    | some o => s.endLanes o (1#64 <<< lane)
    | none => s)
  | none => s

theorem exec_deltaAck {id cache region pa : Nat} {op : Option (Nat × Nat)} {s : State}
    (hm : s.message id = some (.deltaAck cache region pa op)) :
    exec (.deltaAck id) s = ret (((s.took id).acked cache region).additionEnds op) := by
  show execDeltaAck id s = _
  exact onMessage_of_message hm rfl

theorem State.acked_untracked {s : State} {cache region : Nat} (h : s.tracker? cache region = none) : s.acked cache region = s := by
  rw [State.acked, h]

theorem State.acked_tracked {s : State} {cache region : Nat} {t : Tracker} (h : s.tracker? cache region = some t) :
    s.acked cache region = s.endDrain t := by rw [State.acked, h]

theorem exec_deltaAck_plain {id cache region pa : Nat} {s : State} (hm : s.message id = some (.deltaAck cache region pa none)) :
    exec (.deltaAck id) s = ret ((s.took id).acked cache region) := exec_deltaAck hm

theorem exec_deltaAck_addition {id cache region pa i lane : Nat} {o : MOp} {s u : State}
    (hm : s.message id = some (.deltaAck cache region pa (some (i, lane)))) (hu : (s.took id).acked cache region = u)
    (ho : u.op? i = some o) : exec (.deltaAck id) s = ret (u.endLanes o (1#64 <<< lane)) := by
  rw [exec_deltaAck hm, hu, State.additionEnds]
  simp only [ho]

/-! ### Drains that end (15 R330, R334, R339; log 38) -/

/-- A tracker put is the cache's tracker of its region. -/
theorem State.tracker?_putTracker (s : State) (t : Tracker) : (s.putTracker t).tracker? t.cache t.region = some t := by
  have hmine : ∀ q : Tracker, decide (q.cache = t.cache ∧ q.region = t.region) = t.same q := fun _ => rfl
  have hself : t.same t = true := decide_eq_true ⟨rfl, rfl⟩
  unfold State.tracker? State.putTracker
  simp only [hmine]
  split
  next hany =>
    generalize s.dr.trackers = ts at hany
    induction ts with
    | nil => exact absurd hany Bool.false_ne_true
    | cons q qs ih =>
      cases hq : t.same q with
      | true => rw [List.map_cons, hq, if_pos rfl, List.find?_cons_of_pos hself]
      | false =>
        rw [List.any_cons, hq, Bool.false_or] at hany
        rw [List.map_cons, hq, if_neg Bool.false_ne_true, List.find?_cons_of_neg (by rw [hq]; exact Bool.false_ne_true), ih hany]
  next hany =>
    have hnone : s.dr.trackers.find? t.same = none := List.find?_eq_none.2 fun q hq h => hany (List.any_eq_true.2 ⟨q, hq, h⟩)
    rw [List.find?_append, hnone, Option.none_or, List.find?_cons_of_pos hself]

theorem State.tracker?_dropTracker (s : State) (t : Tracker) : (s.dropTracker t).tracker? t.cache t.region = none :=
  List.find?_eq_none.2 fun q hq h => by
    have hkept := (List.mem_filter.1 hq).2
    rw [h] at hkept
    exact Bool.false_ne_true hkept

theorem State.endDrain_goes_on {s : State} {t : Tracker} (h : t.draining = false ∨ s.deltaOut t.cache (some t.region) = true) :
    s.endDrain t = s.putTracker t := if_neg (by rcases h with h | h <;> simp [h])

/-- What the end of a drain leaves of its tracker. -/
def Tracker.drained (t : Tracker) : Tracker :=
  { t with total := 0, draining := false, drains := t.drains + 1, forced := false, share := if t.forced then 0 else t.share }

/-- The tracker of a drain that has ended, or none where the cache stops tracking. -/
def State.closeDrain (s : State) (t : Tracker) : State :=
  let s0 : State := { s with opId := s.opId + 1 }
  if t.ends then s0.dropTracker t else s0.putTracker t.drained

/-- A message said, where there is one. -/
def State.says (s : State) : Option DMsg → State
  | some m => s.send m
  | none => s

theorem State.tracker?_says (s : State) (m : Option DMsg) (cache region : Nat) :
    (s.says m).tracker? cache region = s.tracker? cache region := by cases m <;> rfl

theorem State.closeDrain_opId (s : State) (t : Tracker) : (s.closeDrain t).opId = s.opId + 1 := by
  unfold State.closeDrain
  split <;> rfl

theorem State.closeDrain_msgs (s : State) (t : Tracker) : (s.closeDrain t).dr.msgs = s.dr.msgs := by
  unfold State.closeDrain
  split <;> rfl

/-- What a drain's end says to the region home. -/
def Tracker.endWord (t : Tracker) : Option DMsg :=
  if t.forced then some (.drainAck t.cache t.region t.grant)
  else if t.ends ∧ t.share ≠ 0 then some (.shareReturn t.cache t.region t.grant) else none

section EndDrain
variable {s : State} {t : Tracker} (hdrain : t.draining = true) (hout : s.deltaOut t.cache (some t.region) = false)
include hdrain hout

theorem State.endDrain_ends : s.endDrain t = (s.closeDrain t).says t.endWord := by
  have hends : (t.draining && !s.deltaOut t.cache (some t.region)) = true := by rw [hdrain, hout]; rfl
  show (if _ then if t.forced then (s.closeDrain t).send _ else if _ then (s.closeDrain t).send _ else s.closeDrain t else _) = _
  rw [if_pos hends, Tracker.endWord]
  split
  next => rfl
  next => simp only [Bool.and_eq_true, decide_eq_true_eq]; split <;> rfl


theorem State.endDrain_tracker_kept (hends : t.ends = false) : (s.endDrain t).tracker? t.cache t.region = some t.drained := by
  rw [State.endDrain_ends hdrain hout, State.tracker?_says, State.closeDrain, hends]
  exact State.tracker?_putTracker _ t.drained

theorem State.endDrain_tracker_dropped (hends : t.ends = true) : (s.endDrain t).tracker? t.cache t.region = none := by
  rw [State.endDrain_ends hdrain hout, State.tracker?_says, State.closeDrain, hends]
  exact State.tracker?_dropTracker _ t

theorem State.endDrain_msgs :
    (s.endDrain t).dr.msgs = s.dr.msgs ++ (if t.forced then [(s.opId + 1, .drainAck t.cache t.region t.grant)]
      else if t.ends = true ∧ t.share ≠ 0 then [(s.opId + 1, .shareReturn t.cache t.region t.grant)] else []) := by
  have hsays : ∀ m, ((s.closeDrain t).says m).dr.msgs = s.dr.msgs ++ (m.map fun m => (s.opId + 1, m)).toList
    | some m => by
      show (s.closeDrain t).dr.msgs ++ [((s.closeDrain t).opId, m)] = _
      rw [State.closeDrain_msgs, State.closeDrain_opId]
      rfl
    | none => by
      show (s.closeDrain t).dr.msgs = _
      rw [State.closeDrain_msgs]
      exact (List.append_nil _).symm
  rw [State.endDrain_ends hdrain hout, hsays, Tracker.endWord]
  congr 1
  split
  next => rfl
  next => split <;> rfl

end EndDrain

/-! ### Region homes and tolerance queries (15 R331, R334, R335, R338) -/

theorem happens_drainAck (id cache region num : Nat) :
    Happens (.drainAck id) (fun s => s.message id = some (.drainAck cache region num)) fun s =>
      ((s.took id).takeBack region cache num).settleHome region :=
  happens_of_ret fun s hm => by
    show execDrainAck id s = _
    exact onMessage_of_message hm rfl

theorem happens_shareReturn (id cache region num : Nat) :
    Happens (.shareReturn id) (fun s => s.message id = some (.shareReturn cache region num)) fun s =>
      ((s.took id).takeBack region cache num).settleHome region :=
  happens_of_ret fun s hm => by
    show execShareReturn id s = _
    exact onMessage_of_message hm rfl

theorem happens_toleranceQuery (id q : Nat) (x : DQuery) :
    Happens (.toleranceQuery id) (fun s => s.message id = some (.tolQuery q) ∧ (s.took id).query? q = some x) fun s =>
      let h := (s.took id).driftHome x.region
      (((s.took id).putQuery { x with stage := 2 }).putHome { h with queue := h.queue ++ [q] }).settleHome x.region :=
  happens_of_ret fun s ⟨hm, hq⟩ => by
    show execToleranceQuery id s = _
    exact onMessage_of_message hm (by simp only [hq])

theorem happens_toleranceClear (id q : Nat) (x : DQuery) :
    Happens (.toleranceClear id) (fun s => s.message id = some (.tolClear q) ∧ (s.took id).query? q = some x) fun s =>
      (s.took id).answer x :=
  happens_of_ret fun s ⟨hm, hq⟩ => by
    show execToleranceClear id s = _
    exact onMessage_of_message hm (by simp only [hq])

theorem happens_toleranceDone (id region q : Nat) :
    Happens (.toleranceDone id) (fun s => s.message id = some (.tolDone region q)) fun s =>
      let h := (s.took id).driftHome region
      ((s.took id).putHome { h with clears := h.clears.filter fun k => k ≠ q }).settleHome region :=
  happens_of_ret fun s hm => by
    show execToleranceDone id s = _
    exact onMessage_of_message hm rfl

/-! ### Evicted drift lines (15 R330) -/

theorem happens_driftLineEvict (cache line : Nat) (t : Tracker) :
    Happens (.driftLineEvict cache line) (fun s => (s.dr.trackers.filter fun t => t.cache = cache) = [t] ∧
      (t.pend.filter fun p => decide (p.1 / 128 = line)) ≠ []) fun s =>
        let live := (t.pend.filter fun p => decide (p.1 / 128 = line)).filter fun p => p.2.toNat % 2 ^ 31 ≠ 0
        (live.foldl (fun s p => s.send (.deltaWrite cache t.region p.1 p.2 (s.driftEntry t.region).fmt none false)) s).putTracker
          { t with pend := t.pend.filter fun p => decide (p.1 / 128 ≠ line) } :=
  happens_of_ret fun s ⟨hone, hout⟩ => by
    show ret (s.evictDrift cache line) = _
    rw [State.evictDrift, hone, List.foldl_cons, List.foldl_nil]
    exact congrArg ret (if_neg fun h => hout (List.isEmpty_iff.1 h))

/-! ### The table's registers (15 R328, R329) -/

theorem happens_drent0Commit (v : Word64) : Happens (.drent0Commit v) (fun _ => v.getLsbD 63 = true) fun s => s.commitDrift v :=
  happens_of_ret fun _ hv => congrArg ret (if_pos hv)

theorem happens_drent0Retire (v : Word64) : Happens (.drent0Retire v) (fun _ => v.getLsbD 63 = false) fun s => s.retireDrift :=
  happens_of_ret fun _ hv => congrArg ret (if_neg fun h => Bool.false_ne_true (hv.symm.trans h))

theorem State.retireDrift_underWay {s : State}
    (h : (s.driftEntry s.driftIdx).valid = false ∨ (s.driftHome s.driftIdx).retiring = true) : s.retireDrift = s :=
  if_neg (by rcases h with h | h <;> simp [h])

theorem happens_drent1Stage (v : Word64) :
    Happens (.drent1Stage v) (fun _ => True) fun s => { s with dr := { s.dr with staged := v &&& 0xFFFFFFFF0FFFFFFF } } :=
  happens_of_next fun _ _ => rfl

/-- The base, the limit and the size of an entry that a commit asks for. -/
def driftBase (v : Word64) : Nat := field v 47 16 * 2 ^ 16

def State.stagedLim (s : State) : Word := BitVec.ofNat 32 (field s.dr.staged 63 32)

def State.stagedSize (s : State) : Nat := field s.dr.staged 27 0

/-- A commit is refused (R329). -/
def State.commitRefused (s : State) (v : Word64) : Prop :=
  (s.driftEntry s.driftIdx).valid = true ∨ f32Finite s.stagedLim = false ∨ unitsOf s.stagedLim = 0 ∨ 2 ^ 31 ≤ s.stagedLim.toNat ∨
  s.stagedSize = 0 ∨ 2 ≤ driftBase v / 2 ^ 46 ∨ rangeFits (driftBase v) s.stagedSize = false ∨
  ∃ p ∈ s.dr.table, p.2.meets (driftBase v) s.stagedSize = true

/-- A commit's outcome turns on its refusal alone. -/
theorem State.commitDrift_cases (s : State) (v : Word64) :
    (s.commitRefused v → s.commitDrift v = s.driftErr) ∧
    (¬ s.commitRefused v → s.commitDrift v = { s with dr := { s.dr with
      table := SMap.set DriftRegion.off s.dr.table s.driftIdx ⟨true, field v 62 62, driftBase v, s.stagedLim, s.stagedSize⟩
      homes := s.dr.homes.filter fun h => h.region ≠ s.driftIdx } }) := by
  have hiff : (((s.driftEntry s.driftIdx).valid ||
      !(f32Finite s.stagedLim && decide (0 < unitsOf s.stagedLim) && decide (s.stagedLim.toNat < 2 ^ 31)) ||
      decide (s.stagedSize = 0) || decide (2 ≤ driftBase v / 2 ^ 46) || !rangeFits (driftBase v) s.stagedSize ||
      s.dr.table.any fun p => p.2.meets (driftBase v) s.stagedSize) = true) ↔ s.commitRefused v := by
    simp only [State.commitRefused, Bool.or_eq_true, Bool.not_eq_true', Bool.and_eq_false_iff, decide_eq_true_eq,
      decide_eq_false_iff_not, List.any_eq_true, Nat.not_lt, Nat.le_zero, or_assoc]
  exact ⟨fun h => if_pos (hiff.2 h), fun h => if_neg (mt hiff.1 h)⟩

theorem State.commitDrift_commits {s : State} {v : Word64} (h : ¬ s.commitRefused v) :
    (s.commitDrift v).driftEntry s.driftIdx = ⟨true, field v 62 62, driftBase v, s.stagedLim, s.stagedSize⟩ ∧
    (∀ k, k ≠ s.driftIdx → (s.commitDrift v).driftEntry k = s.driftEntry k) ∧
    (∀ h ∈ (s.commitDrift v).dr.homes, h.region ≠ s.driftIdx) ∧ { s.commitDrift v with dr := s.dr } = s := by
  rw [(s.commitDrift_cases v).2 h]
  exact ⟨SMap.get_set_same _ _ _ _, fun k hk => SMap.get_set_ne _ _ _ _ _ hk,
    fun q hq => of_decide_eq_true (List.mem_filter.1 hq).2, rfl⟩

/-- Settles O50: each message finds its branch by the kind it was sent as and by the tracker or entry it meets. -/
theorem driftEvents : Obligations.DriftEvents := by
  unfold Obligations.DriftEvents
  refine ⟨happens_shareRequest_retired, happens_shareRequest_queued, ?shareTracked, ?shareVoid, ?shareUntracked, happens_forcedDrain_begun,
    happens_forcedDrain_underWay, ?notHeld, ?deltaApplied, ?deltaLeased, ?deltaWaits, ?ackUntracked, ?ackTracked, ?addUntracked,
    ?addTracked, fun _ _ => State.endDrain_goes_on, ?drainEnds, happens_drainAck, happens_shareReturn, happens_toleranceQuery,
    happens_toleranceClear, happens_toleranceDone, happens_driftLineEvict, happens_drent0Commit, ?commit, happens_drent0Retire,
    fun _ => State.retireDrift_underWay, happens_drent1Stage⟩
  case shareTracked =>
    exact fun id cache region share num t => happens_of_ret fun s ⟨hm, ht, hvoid, hshare⟩ => by
      rw [exec_shareGrant hm, State.granted_tracked ht hvoid hshare]
  case shareVoid =>
    exact fun id cache region share num t => happens_of_ret fun s ⟨hm, ht, hvoid⟩ => by
      rw [exec_shareGrant hm, State.granted_void ht hvoid]
  case shareUntracked =>
    exact fun id cache region share num => happens_of_ret fun s ⟨hm, ht, hvoid, hshare⟩ => by
      rw [exec_shareGrant hm, State.granted_untracked ht hvoid hshare]
  case notHeld =>
    exact fun id cache region num why => happens_of_ret fun s ⟨hm, hnot⟩ => by
      rw [exec_forcedDrain hm, State.forcedAt_notHeld hnot]
  case deltaApplied =>
    exact fun id cache region pa x fmt op held => happens_of_ret fun s ⟨hm, hbehind, hfree, hlease⟩ => by
      rw [exec_deltaWrite_in_turn hm hbehind hfree, hlease]
      rfl
  case deltaLeased =>
    exact fun id cache region pa x fmt op => happens_of_ret fun s ⟨hm, hbehind, hfree, hlease⟩ => by
      rw [exec_deltaWrite_in_turn hm hbehind hfree, hlease]
      rfl
  case deltaWaits =>
    exact fun id cache region pa x fmt op held => happens_of_next fun s ⟨hm, h⟩ => exec_deltaWrite_waits hm h
  case ackUntracked =>
    exact fun id cache region pa => happens_of_ret fun s ⟨hm, ht⟩ => by rw [exec_deltaAck_plain hm, State.acked_untracked ht]
  case ackTracked =>
    exact fun id cache region pa t => happens_of_ret fun s ⟨hm, ht⟩ => by rw [exec_deltaAck_plain hm, State.acked_tracked ht]
  case addUntracked =>
    exact fun id cache region pa i lane o => happens_of_ret fun s ⟨hm, ht, ho⟩ =>
      exec_deltaAck_addition hm (State.acked_untracked ht) ho
  case addTracked =>
    exact fun id cache region pa i lane o t => happens_of_ret fun s ⟨hm, ht, ho⟩ =>
      exec_deltaAck_addition hm (State.acked_tracked ht) ho
  case drainEnds =>
    exact fun s t hdrain hout =>
      ⟨State.endDrain_tracker_kept hdrain hout, State.endDrain_tracker_dropped hdrain hout, State.endDrain_msgs hdrain hout⟩
  case commit =>
    exact fun s v => ⟨(s.commitDrift_cases v).1, State.commitDrift_commits⟩

end Sys2Proof.Machine
end

section
/-! What an engine's accesses and its faults leave of the collectives in flight (16 R357, R360). -/

set_option Elab.async false

namespace Sys2Proof.Machine

/-- The collectives in flight are the same. -/
def State.SameColls (s t : State) : Prop := t.fa.colls = s.fa.colls

namespace State.SameColls

variable {s t u : State}

theorem refl (s : State) : s.SameColls s := rfl

theorem trans (h : s.SameColls t) (k : t.SameColls u) : s.SameColls u := Eq.trans k h

theorem coll? (h : s.SameColls t) (id : Nat) : t.coll? id = s.coll? id := congrArg (List.find? fun c : Coll => c.id = id) h

theorem ite {p : Prop} [Decidable p] {a b : State} (ha : s.SameColls a) (hb : s.SameColls b) : s.SameColls (if p then a else b) := by
  split
  · exact ha
  · exact hb

theorem foldl {α : Type} {f : State → α → State} (h : ∀ (s : State) x, s.SameColls (f s x)) (l : List α) :
    ∀ s : State, s.SameColls (l.foldl f s) := by
  induction l with
  | nil => exact refl
  | cons x l ih => exact fun s => (h s x).trans (ih _)

/-- A fold that carries a result beside its state. -/
theorem foldl_fst {α β : Type} {f : State × β → α → State × β} (h : ∀ (z : State × β) (x : α), z.1.SameColls (f z x).1) (l : List α) :
    ∀ z : State × β, z.1.SameColls (l.foldl f z).1 := by
  induction l with
  | nil => exact fun z => refl z.1
  | cons x l ih => exact fun z => (h z x).trans (ih _)

/-- Nothing of the fabric differs. -/
theorem of_fa (h : t.fa = s.fa) : s.SameColls t := congrArg FabricSt.colls h

/-- Only the memory system and the drift regions differ. -/
theorem of_dr {ms : MemSt} {dr : DriftSt} {n : Nat} : s.SameColls { s with opId := n, ms := ms, dr := dr } := rfl

theorem of_memory (h : s.OnlyMemory t) : s.SameColls t := of_fa (congrArg State.fa h :)

theorem of_events (h : s.OnlyEvents t) : s.SameColls t := of_fa (congrArg State.fa h :)

/-! ### Homes, queries and messages of drift regions -/

theorem putHome (s : State) (h : DriftHome) : s.SameColls (s.putHome h) := of_fa rfl

theorem send (s : State) (m : DMsg) : s.SameColls (s.send m) := of_fa rfl

theorem putQuery (s : State) (q : DQuery) : s.SameColls (s.putQuery q) := of_fa rfl

theorem forceDrain (s : State) (region reason : Nat) (g : Grant) : s.SameColls (s.forceDrain region reason g) :=
  ite (refl s) ((putHome s _).trans (send _ _))

theorem grantShare (s : State) (region cache : Nat) : s.SameColls (s.grantShare region cache) := (putHome s _).trans (send _ _)

theorem serveReq (s : State) (region cache : Nat) (reclaimed : Option (Nat × Nat)) :
    s.SameColls (s.serveReq region cache reclaimed).1 := by
  unfold State.serveReq
  dsimp only
  split
  · exact send s _
  · split
    · exact refl s
    · split
      · split
        · exact refl s
        · exact grantShare s region cache
      · split
        · exact grantShare s region cache
        · split
          · exact grantShare s region cache
          · exact (forceDrain s region 0 _).trans (putHome _ _)

theorem serveReqs (s : State) (region : Nat) : s.SameColls (s.serveReqs region) := by
  refine foldl (fun u r => ?_) _ s
  have h := serveReq u region r.1 r.2
  generalize u.serveReq region r.1 r.2 = p at h ⊢
  obtain ⟨v, _ | _⟩ := p
  · exact h
  · exact h.trans (putHome v _)

theorem tellDone (s : State) (q : DQuery) : s.SameColls (s.tellDone q) := ite (putHome s _) (send s _)

theorem advance (s : State) : s.SameColls s.advance :=
  foldl (fun u _ => ite (refl u) (ite ((putQuery u _).trans (putHome _ _)) ((putQuery u _).trans (send _ _)))) _ s

theorem answer (s : State) (q : DQuery) : s.SameColls (s.answer q) := by
  have hread : s.SameColls (s.readHome q.pa (s.elemBytes q.region)) := of_memory (OnlyMemory.readHome s _ _)
  exact ((hread.trans (ite of_dr (putQuery _ _))).trans (ite (refl _) (tellDone _ q))).trans (advance _)

theorem serveHead (s : State) (region : Nat) : s.SameColls (s.serveHead region) := by
  unfold State.serveHead
  dsimp only
  split
  · exact ite (refl s) ((foldl (fun u g => forceDrain u region _ g) _ s).trans (putQuery _ _))
  · exact refl s

theorem clearHead {region : Nat} (h : s.clearHead region = some t) : s.SameColls t := by
  unfold State.clearHead at h
  dsimp only at h
  obtain ⟨q, -, hq⟩ := Option.bind_eq_some_iff.mp h
  split at hq
  · cases hq
  · cases hq
    exact (putHome s _).trans (ite (answer _ q) ((putQuery _ _).trans (send _ _)))

theorem serveQueue (region n : Nat) : ∀ s : State, s.SameColls (State.serveQueue region n s) := by
  induction n with
  | zero => exact refl
  | succ n ih =>
    intro s
    unfold State.serveQueue
    dsimp only
    split
    next heq => exact ((serveHead s region).trans (clearHead heq)).trans (ih _)
    next => exact serveHead s region

theorem passWord (s : State) (n : Nat) (m : Word64) : s.SameColls (s.passWord (.cc n) m) :=
  of_fa (congrArg State.fa (OnlyCtx.passWord s n m).rest :)

theorem endRetire (s : State) (region : Nat) : s.SameColls (s.endRetire region) := by
  refine ite ?_ (refl s)
  exact of_dr.trans (foldl (fun u n => ite (passWord u n 1) (refl u)) _ _)

theorem settleHome (s : State) (region : Nat) : s.SameColls (s.settleHome region) :=
  ((serveQueue region _ s).trans (serveReqs _ region)).trans (endRetire _ region)

/-! ### The stops waited for, and the questions and reads of an engine -/

theorem stopBegins (s : State) (id : Nat) : s.SameColls (s.stopBegins id) := ite (refl s) rfl

theorem stopEnds (s : State) (id : Nat) : s.SameColls (s.stopEnds id) := ite rfl (refl s)

theorem addQuery (s : State) (op lane region pa : Nat) (eps : Word) (loader : Option Nat) (hold : Bool) :
    s.SameColls (s.addQuery op lane region pa eps loader hold) :=
  (of_dr.trans (advance _)).trans (settleHome _ region)

theorem askElems (s : State) (op lane region : Nat) (es : List Nat) (eps : Word) (loader : Option Nat) (hold : Bool) :
    s.SameColls (s.askElems op lane region es eps loader hold) := by
  refine foldl_fst (fun r e => ?_) es (s, true)
  split
  · exact refl _
  · split
    · exact refl _
    · split
      · exact refl _
      · exact addQuery r.1 op lane region e eps loader hold

theorem askElem (s : State) (id : Nat) (v : EView) (pa : Nat) (a : EAcc) : s.SameColls (s.askElem id v pa a) := by
  unfold State.askElem
  split
  · exact askElems s _ _ _ _ _ _ _
  · exact refl s

theorem noteEngine (s : State) (id : Nat) (pas : List Nat) : s.SameColls (s.noteEngine id pas) :=
  foldl (fun _ pa => of_dr.trans (of_memory (OnlyMemory.splitRegion _ pa))) _ s

theorem touchPage (s : State) (l : Leaf) (pa : Nat) : s.SameColls (s.touchPage l pa) := by
  unfold State.touchPage
  dsimp only
  split
  · exact refl s
  · split
    · exact trans (of_memory (OnlyMemory.homeWrite s _ _)) of_dr
    · exact ite (refl s) (of_dr.trans (of_events (OnlyEvents.post _ _ _ _)))

theorem touchAll (s : State) (fs : List Found) : s.SameColls (s.touchAll fs).1 := by
  refine foldl_fst (fun r q => ?_) fs (s, false)
  cases q with
  | page l pa => exact touchPage r.1 l pa
  | _ => exact refl r.1

theorem engineReady (s : State) (id : Nat) (st : Bool) (v : EView) (acq : Bool) (as : List EAcc) :
    s.SameColls (s.engineReady id st v acq as).1 := by
  unfold State.engineReady
  dsimp only
  generalize (as.filterMap fun a => a.found.pa?.map fun pa => (pa, a)) = hot
  have hstops := (touchAll s (as.map EAcc.found)).trans
    (ite (p := (hot.any fun q => (s.touchAll (as.map EAcc.found)).1.stopped q.1) = true) (stopBegins _ id) (stopEnds _ id))
  generalize (if hot.any fun q => (s.touchAll (as.map EAcc.found)).1.stopped q.1 then _ else _) = s0 at hstops ⊢
  have hask := hstops.trans (foldl (fun u (q : Nat × EAcc) => askElem u id v q.1 q.2) hot s0)
  split
  · exact hstops
  · split
    · exact hask
    · split
      · exact hask.trans (noteEngine _ _ _)
      · exact hask

theorem endQueries (s : State) (p : DQuery → Bool) : s.SameColls (s.endQueries p) :=
  foldl (fun _ q => ((ite (of_dr.trans (tellDone _ q)) of_dr).trans (advance _)).trans (settleHome _ _)) _ s

theorem engineDone (s : State) (id : Nat) : s.SameColls (s.engineDone id) := (endQueries s _).trans of_dr

theorem orphanQueries (s : State) (op : Nat) : s.SameColls (s.orphanQueries op) := by
  refine trans (of_dr.trans (stopEnds _ op)) (foldl (fun u q => ?_) _ _)
  refine ite (of_dr.trans (advance _)) (ite ?_ (putQuery u _))
  exact (ite (of_dr.trans (tellDone _ q)) of_dr).trans ((advance _).trans (settleHome _ _))

theorem engineRead_column (s : State) (id col : Nat) (rt : Rt) (pa n : Nat) : s.SameColls (s.engineRead id (.all col) rt pa n).1 := by
  unfold State.engineRead
  split
  · exact refl s
  · have hseen := of_memory (OnlyMemory.injectSeen s none noGang pa n)
    have hslice : ∀ u : State, u.SameColls (u.sliceRead rt pa n) := fun u =>
      ite (foldl (fun v l => of_memory (OnlyMemory.recallLine v none l false)) _ u) (of_memory (OnlyMemory.readHome u pa n))
    exact ite ((hseen.trans (of_memory (OnlyMemory.countAccess _ pa))).trans (hslice _)) hseen

theorem engineReads_column (s : State) (id col : Nat) (as : List EAcc) : s.SameColls (s.engineReads id (.all col) as).1 := by
  refine foldl_fst (fun z a => ?_) as (s, [])
  split
  · exact engineRead_column z.1 id col a.rt _ a.n
  · exact refl z.1

/-! ### The checks and the faults of an engine -/

theorem engineCheck (s : State) (id : Nat) (w : Who) (r : Rec256) (x y : Int) (n : Nat) (k : AccKind) :
    s.SameColls (s.engineCheck id w r x y n k).1 := by
  have hcheck := of_memory (OnlyMemory.checkAccess s w r x y n n k)
  unfold State.engineCheck
  generalize s.checkAccess w r x y n n k = q at hcheck ⊢
  obtain ⟨v, found⟩ := q
  cases found with
  | ok pa tgt => by_cases h : (v.stopped pa && v.stopLate id) = true <;> simpa [h] using hcheck
  | _ => exact hcheck

theorem collCheck (s : State) (c : Coll) (r : Rec256) (k : AccKind) : s.SameColls (s.collCheck c r k).1 :=
  foldl_fst (fun (z : State × List Found) _ => engineCheck z.1 _ _ _ _ _ _ _) c.elems (s, [])

theorem startEnd (s : State) (h : Word64) (status cause : Nat) : s.SameColls (s.startEnd h status cause) := by
  unfold State.startEnd
  split
  · exact ite (refl s) (of_fa (congrArg State.fa (State.injectMarkers_only _ h) :))
  · exact refl s

theorem postFault (s : State) (q col : Nat) (f : FaultRec) : s.SameColls (s.postFault q col f) := of_events (OnlyEvents.post s q col _)

theorem engineFault (s : State) (b : CmdId) (kind code rslot : Nat) (line : Word64) :
    s.SameColls (s.engineFault b kind code rslot line) := by
  unfold State.engineFault
  dsimp only
  split
  · unfold State.launchFault
    split
    · exact ite (postFault s _ _ _) (ite (refl s) ((startEnd s _ _ _).trans (postFault _ _ _ _)))
    · exact postFault s _ _ _
  · exact postFault s _ _ _

end State.SameColls

/-! ### A collective replaced or ended -/

theorem State.coll?_id {s : State} {id : Nat} {c : Coll} (h : s.coll? id = some c) : c.id = id :=
  of_decide_eq_true (p := c.id = id) (List.find?_some (p := fun c : Coll => decide (c.id = id)) h)

theorem State.coll?_putColl {s : State} {id : Nat} {c d : Coll} (h : s.coll? id = some c) (hd : d.id = id) :
    (s.putColl id (some d)).coll? id = some d := by
  show List.find? _ (s.fa.colls.filterMap _) = some d
  replace h : s.fa.colls.find? (fun c => c.id = id) = some c := h
  generalize s.fa.colls = cs at h ⊢
  induction cs with
  | nil => exact nomatch h
  | cons e es ih =>
    by_cases he : e.id = id
    · rw [List.filterMap_cons, if_pos he]
      exact List.find?_cons_of_pos (decide_eq_true hd)
    · rw [List.find?_cons_of_neg (by simpa using he)] at h
      rw [List.filterMap_cons, if_neg he]
      exact (List.find?_cons_of_neg (by simpa using he)).trans (ih h)

theorem State.coll?_putColl_none (s : State) (id : Nat) : (s.putColl id none).coll? id = none := by
  refine List.find?_eq_none.2 fun c hc hid => ?_
  obtain ⟨e, -, he⟩ := List.mem_filterMap.1 hc
  by_cases h : e.id = id
  · rw [if_pos h] at he
    exact nomatch he
  · rw [if_neg h] at he
    cases he
    exact h (of_decide_eq_true hid)

/-- A collective that ends on a fault is in flight no more. -/
theorem State.coll?_collFault (s : State) (c : Coll) (kind rslot : Nat) (line : Word64) : (s.collFault c kind rslot line).coll? c.id = none :=
  ((State.SameColls.engineFault _ c.by_ kind 0 rslot line).coll? c.id).trans (State.coll?_putColl_none _ c.id)

end Sys2Proof.Machine
end

section
/-! O51: collectives, other modules, links and the pod's budget, event by event (16 R348-R362). -/

set_option Elab.async false

namespace Sys2Proof.Machine

/-! ### A chunk of a collective (16 R355, R356) -/

/-- How many children's partial results a chunk takes. -/
def State.collKids (s : State) (c : Coll) : Nat :=
  if c.args.op = 3 then 0 else (treeChildren (s.liveOf c) (s.group c.args.group).rank).length

/-- This member is the root of its tree. -/
def State.collRoot (s : State) (c : Coll) : Bool := decide ((s.liveOf c).head? = some (s.group c.args.group).rank)

/-- A chunk that can go on, with partial results and values from above of its own size. -/
def State.chunkFits (s : State) (c : Coll) (partials : List (List Word)) (down : List Word) : Prop :=
  c.done = none ∧ c.elems ≠ [] ∧ s.collAlone c = false ∧ s.collStopped c = false ∧ partials.length = s.collKids c ∧
  (∀ p ∈ partials, p.length = c.elems.length) ∧ (s.collRoot c = false → down.length = c.elems.length)

/-- A record's elements checked, where there is one. -/
def State.collChecked (s : State) (c : Coll) (r : Option Rec256) (k : AccKind) : State × List Found :=
  match r with
  | some r => s.collCheck c r k
  | none => (s, [])

/-- The record that a member reads: none where it only passes a broadcast on. -/
def State.collSrc (s : State) (c : Coll) : Option Rec256 :=
  if s.collRoot c || decide (c.args.op ≠ 3) then some c.args.src else none

theorem State.collChecked_src (s : State) (c : Coll) :
    s.collChecked c (s.collSrc c) .read =
      if s.collRoot c || decide (c.args.op ≠ 3) then s.collCheck c c.args.src .read else (s, []) := by
  unfold State.collSrc
  split <;> rfl

theorem State.collSrc_isSome (s : State) (c : Coll) : (s.collSrc c).isSome = (s.collRoot c || decide (c.args.op ≠ 3)) := by
  unfold State.collSrc
  split
  next h => exact h.symm
  next h => exact (Bool.eq_false_of_not_eq_true h).symm

section Chunk
variable {s : State} {c : Coll} {partials : List (List Word)} {down : List Word}

/-- A chunk that can go on is held by none of the conditions of its run. -/
theorem State.chunkFits.not_held (h : s.chunkFits c partials down) (hread : c.unread = false) :
    ¬ (c.done.isSome ∨ c.elems.length = 0 ∨ c.unread ∨ s.collAlone c ∨ s.collStopped c ∨ partials.length ≠ s.collKids c ∨
      !(partials.all fun p => p.length = c.elems.length) ∨ (!s.collRoot c ∧ down.length ≠ c.elems.length)) := by
  obtain ⟨hdone, helems, halone, hstop, hkids, hall, hdown⟩ := h
  have hpartials : (partials.all fun p => decide (p.length = c.elems.length)) = true :=
    List.all_eq_true.2 fun p hp => decide_eq_true (hall p hp)
  simp only [hdone, hread, halone, hstop, hkids, hpartials, List.length_eq_zero_iff, helems, Option.isSome_none, Bool.false_eq_true,
    Bool.not_true, ne_eq, not_true_eq_false, false_or, Bool.not_eq_true', not_and, not_not]
  exact hdown

/-- The chunk's own part: its source read, its arithmetic, and what it sends and will write. -/
def State.chunkPart (z s : State) (id : Nat) (c : Coll) (partials : List (List Word)) (down : List Word) (found : List Found) : State :=
  let a := z.engineReads c.id c.view (elemAccs c.args.src 4 false found)
  let own := if (s.collSrc c).isSome then a.2 else List.replicate c.elems.length 0
  let o := chunkOut c.args (s.collRoot c) own ((c.res.getD []).map BitVec.toNat) (partials.map fun p => p.map BitVec.toNat)
    (down.map BitVec.toNat)
  (a.1.engineDone c.id).putColl id (some { c with
    sentUp := o.up.map (BitVec.ofNat 32), sentDown := o.dn.map (BitVec.ofNat 32),
    done := some (o.dst.map (BitVec.ofNat 32), o.res.map (BitVec.ofNat 32)) })

theorem State.runChunk_of_fits (hread : c.unread = false) (hfits : s.chunkFits c partials down) {y : State × List Found}
    (hy : s.collChecked c (s.collSrc c) .read = y) :
    s.runChunk c partials down = match firstTrap y.2 with
      | some (k, line) => y.1.collFault c k c.args.sslot line
      | none =>
        let z := y.1.engineReady c.id c.st c.view false (elemAccs c.args.src 4 false y.2)
        if !z.2 then z.1 else z.1.chunkPart s c.id c partials down y.2 := by
  subst hy
  rw [State.collChecked_src]
  unfold State.chunkPart
  rw [State.collSrc_isSome]
  exact if_neg (hfits.not_held hread)

theorem State.startChunk_of_read (hread : c.unread = false) : s.startChunk c = s := by
  unfold State.startChunk
  split
  · rfl
  · rw [hread]; rfl

theorem State.startChunk_unread {r : Rec256} {y : State × List Found} (hread : c.unread = true) (hr : c.args.res = some r)
    (hy : s.collCheck c r .read = y) :
    s.startChunk c = match firstTrap y.2 with
      | some (k, line) => y.1.collFault c k c.args.rslot line
      | none =>
        let z := y.1.engineReady c.id c.st c.view false (elemAccs r 4 false y.2)
        if !z.2 then z.1
        else
          let a := z.1.engineReads c.id c.view (elemAccs r 4 false y.2)
          (a.1.engineDone c.id).putColl c.id (some { c with res := some (a.2.map (BitVec.ofNat 32)) }) := by
  subst hy
  unfold State.startChunk
  rw [hr]
  dsimp only
  rw [hread]
  rfl

theorem exec_collChunk {id : Nat} (hc : s.coll? id = some c) :
    exec (.collChunk id partials down) s = match (s.startChunk c).coll? id with
      | none => ret (s.startChunk c)
      | some d => ret ((s.startChunk c).runChunk d partials down) := by
  show execCollChunk id partials down s = _
  rw [execCollChunk, hc] <;> rfl

theorem exec_collChunk_read {id : Nat} (hc : s.coll? id = some c) (hread : c.unread = false) :
    exec (.collChunk id partials down) s = ret (s.runChunk c partials down) := by
  rw [exec_collChunk hc, State.startChunk_of_read hread, hc]

end Chunk

theorem happens_collChunk (id : Nat) (c : Coll) (partials : List (List Word)) (down : List Word) (y : State × List Found) (z : State) :
    Happens (.collChunk id partials down) (fun s =>
      s.coll? id = some c ∧ c.unread = false ∧ s.chunkFits c partials down ∧ s.collChecked c (s.collSrc c) .read = y ∧
      firstTrap y.2 = none ∧ y.1.engineReady c.id c.st c.view false (elemAccs c.args.src 4 false y.2) = (z, true))
      fun s => z.chunkPart s id c partials down y.2 :=
  happens_of_ret fun s ⟨hc, hread, hfits, hy, htrap, hz⟩ => by
    rw [exec_collChunk_read hc hread, State.runChunk_of_fits hread hfits hy, htrap]
    dsimp only
    rw [hz, State.coll?_id hc]
    rfl

theorem happens_collChunk_fault (id : Nat) (c : Coll) (partials : List (List Word)) (down : List Word) (y : State × List Found) (k : Nat)
    (line : Word64) :
    Happens (.collChunk id partials down) (fun s =>
      s.coll? id = some c ∧ c.unread = false ∧ s.chunkFits c partials down ∧ s.collChecked c (s.collSrc c) .read = y ∧
      firstTrap y.2 = some (k, line)) fun _ => y.1.collFault c k c.args.sslot line :=
  happens_of_ret fun s ⟨hc, hread, hfits, hy, htrap⟩ => by
    rw [exec_collChunk_read hc hread, State.runChunk_of_fits hread hfits hy, htrap]

theorem happens_collChunk_residuals (id : Nat) (c : Coll) (partials : List (List Word)) (down : List Word) (r : Rec256)
    (y : State × List Found) (z : State) :
    Happens (.collChunk id partials down) (fun s =>
      s.coll? id = some c ∧ c.unread = true ∧ c.args.res = some r ∧ s.collCheck c r .read = y ∧ firstTrap y.2 = none ∧
      y.1.engineReady c.id c.st c.view false (elemAccs r 4 false y.2) = (z, true)) fun _ =>
        let a := z.engineReads c.id c.view (elemAccs r 4 false y.2)
        let d : Coll := { c with res := some (a.2.map (BitVec.ofNat 32)) }
        ((a.1.engineDone c.id).putColl id (some d)).runChunk d partials down :=
  happens_of_ret fun s ⟨hc, hread, hr, hy, htrap, hz⟩ => by
    have hid := State.coll?_id hc
    have hkept : s.SameColls ((z.engineReads c.id c.view (elemAccs r 4 false y.2)).1.engineDone c.id) := by
      have hcheck := State.SameColls.collCheck s c r .read
      have hready := State.SameColls.engineReady y.1 c.id c.st c.view false (elemAccs r 4 false y.2)
      rw [hy] at hcheck
      rw [hz] at hready
      exact ((hcheck.trans hready).trans (State.SameColls.engineReads_column z c.id _ _)).trans (State.SameColls.engineDone _ _)
    have hstart : s.startChunk c = ((z.engineReads c.id c.view (elemAccs r 4 false y.2)).1.engineDone c.id).putColl id
        (some { c with res := some ((z.engineReads c.id c.view (elemAccs r 4 false y.2)).2.map (BitVec.ofNat 32)) }) := by
      rw [State.startChunk_unread hread hr hy, htrap]
      dsimp only
      rw [hz, hid]
      rfl
    have hput := State.coll?_putColl (d := { c with
      res := some ((z.engineReads c.id c.view (elemAccs r 4 false y.2)).2.map (BitVec.ofNat 32)) }) ((hkept.coll? id).trans hc) hid
    rw [exec_collChunk hc, hstart, hput]

theorem happens_collChunk_residualFault (id : Nat) (c : Coll) (partials : List (List Word)) (down : List Word) (r : Rec256)
    (y : State × List Found) (k : Nat) (line : Word64) :
    Happens (.collChunk id partials down) (fun s =>
      s.coll? id = some c ∧ c.unread = true ∧ c.args.res = some r ∧ s.collCheck c r .read = y ∧ firstTrap y.2 = some (k, line))
      fun _ => y.1.collFault c k c.args.rslot line :=
  happens_of_ret fun s ⟨hc, hread, hr, hy, htrap⟩ => by
    have hstart : s.startChunk c = y.1.collFault c k c.args.rslot line := by rw [State.startChunk_unread hread hr hy, htrap]
    have hgone := State.coll?_collFault y.1 c k c.args.rslot line
    rw [State.coll?_id hc] at hgone
    rw [exec_collChunk hc, hstart, hgone]

theorem exec_collChunkCommit {s : State} {id : Nat} {c : Coll} {dst res : List Word} {y x : State × List Found}
    (hc : s.coll? id = some c) (hdone : c.done = some (dst, res)) (hy : s.collCheck c c.args.dst .write = y)
    (hx : y.1.collChecked c c.args.res .write = x) :
    exec (.collChunkCommit id) s =
      let z := x.1.engineReady c.id c.st c.view false (elemAccs c.args.dst 4 true y.2 ++ elemAccs (c.args.res.getD 0) 4 true x.2)
      if !z.2 then ret z.1
      else
        let u := ((z.1.collWrite c.args.dst y.2 dst).collWrite (c.args.res.getD 0) x.2 res).engineDone c.id
        match firstTrap y.2, firstTrap x.2 with
        | some (k, line), _ => ret (u.collFault c k c.args.dslot line)
        | none, some (k, line) => ret (u.collFault c k c.args.rslot line)
        | none, none => ret (u.putColl id (some { c with
            chunk := c.chunk + 1, attempt := 0, since := u.ns, res := none, sentUp := [], sentDown := [], done := none })) := by
  subst hy hx
  show execCollChunkCommit id s = _
  rw [execCollChunkCommit, hc]
  dsimp only
  rw [hdone]
  rfl

theorem happens_collChunkCommit (id : Nat) (c : Coll) (dst res : List Word) (y x : State × List Found) (z : State) :
    Happens (.collChunkCommit id) (fun s => s.coll? id = some c ∧ c.done = some (dst, res) ∧
      s.collCheck c c.args.dst .write = y ∧ y.1.collChecked c c.args.res .write = x ∧ firstTrap y.2 = none ∧ firstTrap x.2 = none ∧
      x.1.engineReady c.id c.st c.view false (elemAccs c.args.dst 4 true y.2 ++ elemAccs (c.args.res.getD 0) 4 true x.2) = (z, true))
      fun _ =>
        let u := ((z.collWrite c.args.dst y.2 dst).collWrite (c.args.res.getD 0) x.2 res).engineDone c.id
        u.putColl id (some { c with
          chunk := c.chunk + 1, attempt := 0, since := u.ns, res := none, sentUp := [], sentDown := [], done := none }) :=
  happens_of_ret fun s ⟨hc, hdone, hy, hx, hytrap, hxtrap, hz⟩ => by
    rw [exec_collChunkCommit hc hdone hy hx, hz, hytrap, hxtrap]
    rfl

/-! ### Members lost, and the ends of collectives (16 R357, R360) -/

theorem happens_collNeighbourTimeout (id rank : Nat) (c : Coll) (chip : Nat) :
    Happens (.collNeighbourTimeout id rank) (fun s => s.coll? id = some c ∧ (s.neighbours c).contains rank = true ∧
      (s.group c.args.group).members[rank]? = some chip ∧ max (SMap.get 0 s.fa.heard chip) c.since + 100000 ≤ s.ns) fun s =>
        s.memberLost id rank true :=
  happens_of_ret fun s ⟨hc, hneighbour, hchip, hlate⟩ => by
    have hsilent : s.collSilent c rank = true := by
      rw [State.collSilent, hneighbour, hchip, Bool.true_and, Option.any_some, decide_eq_true hlate]
    show execCollNeighbourTimeout id rank s = _
    rw [execCollNeighbourTimeout, hc]
    exact if_pos hsilent

theorem happens_collComplete (id : Nat) (c : Coll) :
    Happens (.collComplete id) (fun s => s.coll? id = some c ∧ c.elems = []) fun s =>
      (s.putColl id none).sendBytes c.by_ c.clasp (4 * c.args.count) :=
  happens_of_ret fun s ⟨hc, helems⟩ => by
    show execCollComplete id s = _
    rw [execCollComplete, hc]
    exact if_pos (List.isEmpty_iff.2 helems)

theorem happens_collEndFault (id : Nat) (c : Coll) :
    Happens (.collEndFault id) (fun s => s.coll? id = some c) fun s => s.collFault c 0x04 255 0 :=
  happens_of_ret fun s hc => by
    show execCollEndFault id s = _
    rw [execCollEndFault, hc]
    rfl

/-! ### Requests of other modules (16 R348, R349, R351) -/

section Peer
variable {s : State} {r : PeerReq} {pa n : Nat} {en : BitVec 128}

/-- A request that has come. -/
def State.peerCame (s : State) (r : PeerReq) (pa n : Nat) (en : BitVec 128) : State := { s with
  opId := s.opId + 1, fa := { s.fa with inbox := s.fa.inbox ++ [⟨peerId s.opId, r, pa, n, en, none⟩] } }

/-- No request has the number of the next. -/
def State.peerFresh (s : State) : Prop := ∀ p ∈ s.fa.inbox, p.id ≠ peerId s.opId

theorem State.peerFresh.find? (h : s.peerFresh) :
    ((s.peerCame r pa n en).fa.inbox.find? fun p => p.id = peerId s.opId) = some ⟨peerId s.opId, r, pa, n, en, none⟩ := by
  have hnone : (s.fa.inbox.find? fun p => p.id = peerId s.opId) = none :=
    List.find?_eq_none.2 fun p hp hid => h p hp (of_decide_eq_true hid)
  show ((s.fa.inbox ++ [_]).find? _) = _
  rw [List.find?_append, hnone, Option.none_or]
  exact List.find?_cons_of_pos (decide_eq_true rfl)

theorem State.peerFresh.filter_inbox (h : s.peerFresh) :
    ((s.peerCame r pa n en).fa.inbox.filter fun p => p.id ≠ peerId s.opId) = s.fa.inbox := by
  show ((s.fa.inbox ++ [_]).filter _) = _
  rw [List.filter_append, List.filter_eq_self.2 fun p hp => decide_eq_true (h p hp)]
  simp

theorem exec_peerRequest (hfresh : s.peerFresh) :
    exec (.peerRequest r pa n en) s =
      let p := (s.peerCame r pa n en).tryPeer ⟨peerId s.opId, r, pa, n, en, none⟩
      ret (match p.2 with
        | none => p.1
        | some a =>
          if p.1.linkHeld r.link then { p.1 with fa := { p.1.fa with
            inbox := p.1.fa.inbox.map fun q => if q.id = peerId s.opId then { q with answer := some a } else q } }
          else { p.1 with fa := { p.1.fa with
            inbox := p.1.fa.inbox.filter fun q => q.id ≠ peerId s.opId, reply := some (r.link, a) } }) := by
  show ret ((s.peerCame r pa n en).goPeer (peerId s.opId)) = _
  rw [State.goPeer, hfresh.find?] <;> rfl

/-- An answer leaves by its link at once where the link holds no flits. -/
theorem exec_peerRequest_answered (hfresh : s.peerFresh) {u : State} {answer : Option (List Byte)}
    (htry : (s.peerCame r pa n en).tryPeer ⟨peerId s.opId, r, pa, n, en, none⟩ = (u, some answer)) (hlink : u.linkHeld r.link = false) :
    exec (.peerRequest r pa n en) s = ret { u with fa := { u.fa with
      inbox := u.fa.inbox.filter fun q => q.id ≠ peerId s.opId, reply := some (r.link, answer) } } := by
  rw [exec_peerRequest hfresh, htry]
  exact congrArg ret (if_neg fun h => Bool.false_ne_true (hlink.symm.trans h))

theorem State.tryPeer_served (hserved : served pa = true) (hok : Machine.peerOk r.op pa n = true) {u : State} {id : Nat} :
    u.tryPeer ⟨id, r, pa, n, en, none⟩ =
      let z := u.engineReady id true (.all (homeOf pa)) true (PeerIn.accs ⟨id, r, pa, n, en, none⟩)
      if !z.2 then (z.1, none)
      else
        let q := z.1.servePeer id r.op pa n en
        (q.1.engineDone id, some (some q.2)) := by
  have hgoes : ¬ ((!served pa) = true ∨ (!Machine.peerOk r.op pa n) = true) := by simp [hserved, hok]
  exact if_neg hgoes

theorem State.tryPeer_refused (h : served pa = false ∨ Machine.peerOk r.op pa n = false) {u : State} {id : Nat} :
    u.tryPeer ⟨id, r, pa, n, en, none⟩ = (u, some none) := by
  have hstops : (!served pa) = true ∨ (!Machine.peerOk r.op pa n) = true := by rcases h with h | h <;> simp [h]
  exact if_pos hstops

end Peer


theorem happens_peerRequest_served (r : PeerReq) (pa n : Nat) (en : BitVec 128) (z : State) :
    Happens (.peerRequest r pa n en) (fun s => s.peerFresh ∧ served pa = true ∧ peerOk r.op pa n = true ∧
      (s.peerCame r pa n en).engineReady (peerId s.opId) true (.all (homeOf pa)) true
        (PeerIn.accs ⟨peerId s.opId, r, pa, n, en, none⟩) = (z, true) ∧
      ((z.servePeer (peerId s.opId) r.op pa n en).1.engineDone (peerId s.opId)).linkHeld r.link = false) fun s =>
        let q := z.servePeer (peerId s.opId) r.op pa n en
        let u := q.1.engineDone (peerId s.opId)
        { u with fa := { u.fa with inbox := u.fa.inbox.filter fun p => p.id ≠ peerId s.opId, reply := some (r.link, some q.2) } } :=
  happens_of_ret fun s ⟨hfresh, hserved, hok, hz, hlink⟩ => by
    have htry := State.tryPeer_served (en := en) hserved hok (u := s.peerCame r pa n en) (id := peerId s.opId)
    rw [hz] at htry
    exact exec_peerRequest_answered hfresh htry hlink

theorem happens_peerRequest_waits (r : PeerReq) (pa n : Nat) (en : BitVec 128) (z : State) :
    Happens (.peerRequest r pa n en) (fun s => s.peerFresh ∧ served pa = true ∧ peerOk r.op pa n = true ∧
      (s.peerCame r pa n en).engineReady (peerId s.opId) true (.all (homeOf pa)) true
        (PeerIn.accs ⟨peerId s.opId, r, pa, n, en, none⟩) = (z, false)) fun _ => z :=
  happens_of_ret fun s ⟨hfresh, hserved, hok, hz⟩ => by
    have htry := State.tryPeer_served (en := en) hserved hok (u := s.peerCame r pa n en) (id := peerId s.opId)
    rw [hz] at htry
    rw [exec_peerRequest hfresh, htry]
    rfl

theorem happens_peerRequest_refused (r : PeerReq) (pa n : Nat) (en : BitVec 128) :
    Happens (.peerRequest r pa n en) (fun s => s.peerFresh ∧ (served pa = false ∨ peerOk r.op pa n = false) ∧
      s.linkHeld r.link = false) fun s => { s with opId := s.opId + 1, fa := { s.fa with reply := some (r.link, none) } } :=
  happens_of_ret fun s ⟨hfresh, hrefused, hlink⟩ => by
    have hheld : (s.peerCame r pa n en).linkHeld r.link = false := hlink
    rw [exec_peerRequest_answered hfresh (State.tryPeer_refused hrefused) hheld, hfresh.filter_inbox]
    rfl

theorem happens_peerCompletionTimeout (id : Nat) (o : MOp) :
    Happens (.peerCompletionTimeout id) (fun s => s.op? id = some o ∧ o.due + 12000000 ≤ s.now) fun s => s.failPeer o fun _ => true :=
  happens_of_ret fun s ⟨ho, hlate⟩ => by
    show execPeerCompletionTimeout id s = _
    rw [execPeerCompletionTimeout, ho]
    exact if_pos hlate

/-! ### Links (16 R350-R353) -/

theorem happens_wavelengthFail (l : Nat) :
    Happens (.wavelengthFail l) (fun s => l < 32 ∧ (s.link l).up = true) fun s =>
      let u := ((s.putLink l { s.link l with good := (s.link l).good - 1 }).settleWidth l).machineEvent (16 * (l / 8)) (16 * (l / 8))
        0 0x05 0 0
      if (s.link l).good ≤ 1 then u.loseLink l else u :=
  happens_of_ret fun s ⟨hl, hup⟩ => if_neg (c := 32 ≤ l ∨ (!(s.link l).up) = true) (by simp [hl, hup])

theorem happens_linkDown (l : Nat) :
    Happens (.linkDown l) (fun s => l < 32 ∧ (s.link l).up = true) fun s => s.loseLink l :=
  happens_of_ret fun _ h => if_pos h

theorem happens_linkUp (l peer : Nat) :
    Happens (.linkUp l peer) (fun s => l < 32 ∧ peer < 1024 ∧ (s.link l).up = false) fun s =>
      (s.putLink l { s.link l with
        up := true, peer := peer, good := 32, seq := 0, replay := false, heard := s.ns, stopIn := false, stopOut := false }).settleWidth l :=
  happens_of_next fun s ⟨hl, hpeer, hup⟩ => if_neg (c := 32 ≤ l ∨ 1024 ≤ peer ∨ (s.link l).up = true) (by simp [hl, hpeer, hup])

/-- A link as a flit's signals leave it. -/
def Link.signalled (x : Link) (flit : Flit) : Link := { x with stopIn := if flit.crcOk then flit.stop else x.stopIn, stopOut := !flit.room }

section Flit
variable {s : State} {l : Nat} (hl : l < 32) (hup : (s.link l).up = true)
include hl hup

/-- A flit on a link that is up. -/
theorem exec_flitReceive (seq : Nat) (flit : Flit) :
    exec (.flitReceive l seq flit) s =
      let x := (s.link l).signalled flit
      if !flit.crcOk || decide (seq ≠ x.seq) then .next (s.putLink l { x with replay := true })
      else if flit.room then
        let u := s.putLink l { x with seq := x.seq + 1, replay := false, heard := s.ns }
        .next { u with fa := { u.fa with heard := SMap.set 0 u.fa.heard flit.src s.ns } }
      else .next (s.putLink l x) := if_neg (c := 32 ≤ l ∨ (!(s.link l).up) = true) (by simp [hl, hup])

end Flit

theorem happens_flitReceive_taken (l seq src : Nat) (stop : Bool) :
    Happens (.flitReceive l seq ⟨src, true, stop, true⟩) (fun s => l < 32 ∧ (s.link l).up = true ∧ seq = (s.link l).seq) fun s =>
      let u := s.putLink l { s.link l with seq := seq + 1, replay := false, heard := s.ns, stopIn := stop, stopOut := false }
      { u with fa := { u.fa with heard := SMap.set 0 u.fa.heard src s.ns } } :=
  happens_of_next fun s ⟨hl, hup, hseq⟩ => by
    subst hseq
    rw [exec_flitReceive hl hup]
    exact if_neg (by simp [Link.signalled])

theorem happens_flitReceive_noRoom (l seq src : Nat) (stop : Bool) :
    Happens (.flitReceive l seq ⟨src, true, stop, false⟩) (fun s => l < 32 ∧ (s.link l).up = true ∧ seq = (s.link l).seq) fun s =>
      s.putLink l { s.link l with stopIn := stop, stopOut := true } :=
  happens_of_next fun s ⟨hl, hup, hseq⟩ => by
    subst hseq
    rw [exec_flitReceive hl hup]
    exact if_neg (by simp [Link.signalled])

theorem happens_flitReceive_again (l seq src : Nat) (ok stop room : Bool) :
    Happens (.flitReceive l seq ⟨src, ok, stop, room⟩) (fun s => l < 32 ∧ (s.link l).up = true ∧
      (ok = false ∨ seq ≠ (s.link l).seq)) fun s =>
        s.putLink l { s.link l with replay := true, stopIn := if ok then stop else (s.link l).stopIn, stopOut := !room } :=
  happens_of_next fun s ⟨hl, hup, hbad⟩ => by
    rw [exec_flitReceive hl hup]
    exact if_pos (by rcases hbad with h | h <;> simp [Link.signalled, h])

/-! ### The pod's power budget (16 R361, R362) -/

theorem happens_podBudgetTick (demand : Nat) :
    Happens (.podBudgetTick demand) (fun s => (s.sysGet SysReg.pbctl 0).getLsbD 63 = true ∧ (∀ p ∈ s.fa.own, p.2 + 100000 ≤ s.ns))
      fun s =>
        let r := s.sysGet SysReg.pbctl 0
        let d := max 200 (min 4000 demand)
        let u : State := { s with
          pw := { s.pw with demand := d }
          fa := { s.fa with own := s.announced ++ [(d, s.ns)] } }
        let a := min 65535 (podShare (u.domain.map u.demandOf) u.ownDemand (field r 62 43))
        let v := u.sysPut SysReg.pbctl 0 (setField (setField r 15 0 d) 31 16 a)
        if a = field r 31 16 then v else (List.range 64).foldl (fun s c => s.throttle c 4) v :=
  happens_of_ret fun s ⟨hon, hlate⟩ => by
    have hgoes : ¬ ((!(s.sysGet SysReg.pbctl 0).getLsbD 63) = true ∨ (s.fa.own.any fun p => decide (s.ns < p.2 + 100000)) = true) := by
      rw [hon, List.any_eq_true]
      rintro (h | ⟨p, hp, h⟩)
      · exact Bool.false_ne_true h
      · exact absurd (hlate p hp) (Nat.not_le.2 (of_decide_eq_true h))
    exact if_neg hgoes

/-- Settles O51: each event of the fabric takes the branch of its condition. A chunk that reads its residuals goes on with them, since no
access of an engine touches the collectives in flight; one whose residuals fault is in flight no more. -/
theorem fabricEvents : Obligations.FabricEvents := by
  unfold Obligations.FabricEvents
  exact ⟨happens_collChunk, happens_collChunk_fault, happens_collChunk_residuals, happens_collChunk_residualFault, happens_collChunkCommit,
    happens_collNeighbourTimeout, fun _ _ => happens_of_ret fun _ _ => rfl, happens_collComplete, happens_collEndFault,
    happens_peerRequest_served, happens_peerRequest_waits, happens_peerRequest_refused, happens_peerCompletionTimeout,
    happens_wavelengthFail, happens_linkDown, happens_linkUp, happens_flitReceive_taken, happens_flitReceive_noRoom,
    happens_flitReceive_again, happens_podBudgetTick, fun _ _ => happens_of_next fun _ _ => rfl⟩

end Sys2Proof.Machine
end

section
/-! O53: resumption and a register map out of order. `SMap.get` stops at the first key beyond the one that it seeks (the canonical form
of `SMap`: keys strictly rising). A state whose map is out of order hides a register behind one that resumption resets, and once that one
is gone the hidden register is read. The statement is about every `State`, and its clause on the registers that resumption keeps does not
ask for the canonical form (20 R424). -/

set_option Elab.async false

namespace Sys2Proof.Machine

/-- A module whose register map lists `ctl.ashape`, which resumption resets, before `ctl.mlattol`, whose key is lower. -/
def disordered : State :=
  { State.reset with sys := [(sysKey SysReg.ashape 0, some 0), (sysKey SysReg.mlattol 0, some 5)] }

theorem disordered_mlattol : disordered.sysGet SysReg.mlattol 0 = 0 := by decide +kernel

theorem disordered_powerBack_mlattol : disordered.powerBack.sysGet SysReg.mlattol 0 = 5 := by decide +kernel

theorem mlattol_kept : SysReg.mlattol ∉ SysReg.frmpool :: lostRegs := by decide

/-- Refutes O53: `disordered` reads 0 in `ctl.mlattol`, a register that resumption keeps, and 5 once power is back. -/
theorem not_powerEvents : ¬ Obligations.PowerEvents := by
  unfold Obligations.PowerEvents
  intro h
  obtain ⟨-, -, -, -, -, -, -, -, -, -, -, -, -, -, -, -, -, -, -, -, -, -, -, -, -, -, -, hback, -, -⟩ := h
  obtain ⟨-, -, -, -, -, -, -, -, -, -, hkept⟩ := hback disordered
  have hread := hkept SysReg.mlattol mlattol_kept 0 (by decide)
  rw [disordered_mlattol, disordered_powerBack_mlattol] at hread
  exact absurd hread (by decide)

end Sys2Proof.Machine
end
